-- ==== Sys2Proof/Word.lean ====
section
/-! DEFINITION. The word types of the N1 (R8, R9, R11) and the few bit operations every file uses. -/

namespace Sys2Proof

/-- One byte. -/
abbrev Byte := BitVec 8

/-- One 32-bit instruction word, or one lane of a vector register (R33, R11). -/
abbrev Word := BitVec 32

/-- One 64-bit scalar register (R11). -/
abbrev DWord := BitVec 64

/-- A vector register: 16 lanes of 32 bits, lane 0 first (R12). -/
abbrev VReg := Vector Word 16

/-- The bytes of one 128-byte line, byte i in bits [8i+7:8i] (R225). -/
abbrev LineData := BitVec 1024

/-- One bit for each byte of a line. -/
abbrev LineMask := BitVec 128

/-- A 32-byte stream token, word r in bits [32r+31:32r]. -/
abbrev TokenData := BitVec 256

end Sys2Proof
end

