-- ==== Sys2Proof/Syntax.lean ====
section
/-! DEFINITION. The syntax of the N1's operations: one constructor per row of the opcode table, the 32-bit
instructions first, and after them the EVENTS by which the other units of the machine move (completions, homes, the
scheduler, the host, links, rings, power). A constructor of an instruction carries the fields of its word as R34 and
R35 lay them out. A constructor of an event carries only what chooses the event (an index into the list of the State
that holds its payload, a queue, a slot, a line) or the value an outside party brings (a host write, a sensor). -/

namespace Sys2Proof

/-- A physical core: package 7 bits, chiplet 6, CROW 4, CCOL 4, from the top (R26). -/
abbrev CoreId := BitVec 21

/-- Whose request reaches a home: the modelled core's own (entry of its load queue, or of its store queue) or the
`idx`th request that other cores have sent (`State.homeQ`). -/
inductive ReqSrc where
  | own (idx : Nat)
  | other (idx : Nat)
  deriving DecidableEq, Repr

/-- A host write to the key registers: the VALID bits, or one doubleword of key k (R313). -/
inductive KeyWrite where
  | valid (bits : Byte)
  | key (k : BitVec 3) (dword : BitVec 3) (value : DWord)
  deriving DecidableEq, Repr

/-- Where an uncorrectable error was met (R389, R202, R152, R207). -/
inductive ErrPlace where
  /-- on the access of a launch; `applied` as R202 -/
  | access (launch : Nat) (addr : Nat) (applied : Bool)
  /-- in a version of a line held for a launch's hallmark -/
  | version (line : Nat) (hall : BitVec 12)
  /-- in committed state, at a doubleword address -/
  | committed (addr : Nat)
  /-- in a prior of a line, at a doubleword address: the `idx`th -/
  | prior (addr : Nat) (idx : Nat)
  /-- on the return path of an access of a launch; `applied` as R202 -/
  | returnPath (launch : Nat) (addr : Nat) (applied : Bool)
  /-- in the handler window of the modelled core -/
  | window
  /-- in another bank of the pool of a core, modelled or not (R385) -/
  | pool (core : CoreId)
  /-- in a router crossbar, undetected (R386): data byte `k` of a packet altered, and where `dest` is there the packet misdelivered -/
  | crossbar (pkt : Nat) (k : Nat) (flip : Byte) (dest : Option CoreId)
  /-- in the vector datapath of the modelled core, undetected (R386): a result lane -/
  | vector (r : BitVec 5) (lane : BitVec 4) (flip : Word)
  /-- in the grid datapath of the modelled core, undetected (R386): accumulator (`i`, `j`) of a running `GGO` -/
  | grid (i : BitVec 6) (j : BitVec 6) (flip : Word)
  /-- in the hash of a paired launch's write set, of which the two units of a home die disagree (R386) -/
  | hash (launch : Nat)
  /-- of a home die itself -/
  | die (pkg : BitVec 7) (die : BitVec 7)
  deriving DecidableEq, Repr

/-- How a link retrain ends (R352, R353). -/
inductive LaneOutcome where
  | full
  | narrow
  | none
  deriving DecidableEq, Repr

/-- The operations and events of the N1, one constructor per row of the opcode table. -/
inductive Instr where
  /-- ADD (R52). Writes the 64-bit wrapping sum of two scalar registers. -/
  | add (d : BitVec 5) (a : BitVec 5) (b : BitVec 5) (fa : Bool) (fb : Bool)
  /-- SUB (R52). Writes the 64-bit wrapping difference of two scalar registers. -/
  | sub (d : BitVec 5) (a : BitVec 5) (b : BitVec 5) (fa : Bool) (fb : Bool)
  /-- AND (R52). Writes the bitwise AND of two scalar registers. -/
  | andR (d : BitVec 5) (a : BitVec 5) (b : BitVec 5) (fa : Bool) (fb : Bool)
  /-- OR (R52). Writes the bitwise OR of two scalar registers. -/
  | orR (d : BitVec 5) (a : BitVec 5) (b : BitVec 5) (fa : Bool) (fb : Bool)
  /-- XOR (R52). Writes the bitwise XOR of two scalar registers. -/
  | xorR (d : BitVec 5) (a : BitVec 5) (b : BitVec 5) (fa : Bool) (fb : Bool)
  /-- ANDN (R52). Writes a AND NOT b. -/
  | andn (d : BitVec 5) (a : BitVec 5) (b : BitVec 5) (fa : Bool) (fb : Bool)
  /-- ADDW (R52). Writes the sign-extended 32-bit sum. -/
  | addw (d : BitVec 5) (a : BitVec 5) (b : BitVec 5) (fa : Bool) (fb : Bool)
  /-- SUBW (R52). Writes the sign-extended 32-bit difference. -/
  | subw (d : BitVec 5) (a : BitVec 5) (b : BitVec 5) (fa : Bool) (fb : Bool)
  /-- ADDSAT (R52). Writes the signed sum clamped to the i64 range. -/
  | addsat (d : BitVec 5) (a : BitVec 5) (b : BitVec 5) (fa : Bool) (fb : Bool)
  /-- SUBSAT (R52). Writes the signed difference clamped to the i64 range. -/
  | subsat (d : BitVec 5) (a : BitVec 5) (b : BitVec 5) (fa : Bool) (fb : Bool)
  /-- SLL (R53). Shifts left by s[b][5:0]. -/
  | sll (d : BitVec 5) (a : BitVec 5) (b : BitVec 5) (fa : Bool) (fb : Bool)
  /-- SRL (R53). Shifts right with zero fill. -/
  | srl (d : BitVec 5) (a : BitVec 5) (b : BitVec 5) (fa : Bool) (fb : Bool)
  /-- SRA (R53). Shifts right with sign fill. -/
  | sra (d : BitVec 5) (a : BitVec 5) (b : BitVec 5) (fa : Bool) (fb : Bool)
  /-- ROL (R53). Rotates left. -/
  | rol (d : BitVec 5) (a : BitVec 5) (b : BitVec 5) (fa : Bool) (fb : Bool)
  /-- ROR (R53). Rotates right. -/
  | ror (d : BitVec 5) (a : BitVec 5) (b : BitVec 5) (fa : Bool) (fb : Bool)
  /-- SLLW (R53). Shifts the low word left and sign-extends the result. -/
  | sllw (d : BitVec 5) (a : BitVec 5) (b : BitVec 5) (fa : Bool) (fb : Bool)
  /-- SRLW (R53). Shifts the low word right with zero fill and sign-extends. -/
  | srlw (d : BitVec 5) (a : BitVec 5) (b : BitVec 5) (fa : Bool) (fb : Bool)
  /-- SRAW (R53). Shifts the low word right with sign fill and sign-extends. -/
  | sraw (d : BitVec 5) (a : BitVec 5) (b : BitVec 5) (fa : Bool) (fb : Bool)
  /-- MUL (R54). Writes the low 64 bits of the product after the multiply latency. -/
  | mul (d : BitVec 5) (a : BitVec 5) (b : BitVec 5) (fa : Bool) (fb : Bool)
  /-- MULH (R54). Writes the high 64 bits of the signed product. -/
  | mulh (d : BitVec 5) (a : BitVec 5) (b : BitVec 5) (fa : Bool) (fb : Bool)
  /-- MULHU (R54). Writes the high 64 bits of the unsigned product. -/
  | mulhu (d : BitVec 5) (a : BitVec 5) (b : BitVec 5) (fa : Bool) (fb : Bool)
  /-- MULHSU (R54). Writes the high 64 bits of a signed-by-unsigned product. -/
  | mulhsu (d : BitVec 5) (a : BitVec 5) (b : BitVec 5) (fa : Bool) (fb : Bool)
  /-- MULW (R54). Writes the sign-extended 32-bit product. -/
  | mulw (d : BitVec 5) (a : BitVec 5) (b : BitVec 5) (fa : Bool) (fb : Bool)
  /-- DIV (R55). Signed division truncating towards zero, with fixed results for zero and overflow. -/
  | div (d : BitVec 5) (a : BitVec 5) (b : BitVec 5) (fa : Bool) (fb : Bool)
  /-- DIVU (R55). Unsigned division. -/
  | divu (d : BitVec 5) (a : BitVec 5) (b : BitVec 5) (fa : Bool) (fb : Bool)
  /-- REM (R55). Signed remainder with the sign of the dividend. -/
  | rem (d : BitVec 5) (a : BitVec 5) (b : BitVec 5) (fa : Bool) (fb : Bool)
  /-- REMU (R55). Unsigned remainder. -/
  | remu (d : BitVec 5) (a : BitVec 5) (b : BitVec 5) (fa : Bool) (fb : Bool)
  /-- DIVW (R55). Signed 32-bit division, sign-extended. -/
  | divw (d : BitVec 5) (a : BitVec 5) (b : BitVec 5) (fa : Bool) (fb : Bool)
  /-- DIVUW (R55). Unsigned 32-bit division, sign-extended. -/
  | divuw (d : BitVec 5) (a : BitVec 5) (b : BitVec 5) (fa : Bool) (fb : Bool)
  /-- REMW (R55). Signed 32-bit remainder, sign-extended. -/
  | remw (d : BitVec 5) (a : BitVec 5) (b : BitVec 5) (fa : Bool) (fb : Bool)
  /-- REMUW (R55). Unsigned 32-bit remainder, sign-extended. -/
  | remuw (d : BitVec 5) (a : BitVec 5) (b : BitVec 5) (fa : Bool) (fb : Bool)
  /-- MIN (R56). Writes the smaller operand as i64. -/
  | min (d : BitVec 5) (a : BitVec 5) (b : BitVec 5) (fa : Bool) (fb : Bool)
  /-- MAX (R56). Writes the larger operand as i64. -/
  | max (d : BitVec 5) (a : BitVec 5) (b : BitVec 5) (fa : Bool) (fb : Bool)
  /-- MINU (R56). Writes the smaller operand as z64. -/
  | minu (d : BitVec 5) (a : BitVec 5) (b : BitVec 5) (fa : Bool) (fb : Bool)
  /-- MAXU (R56). Writes the larger operand as z64. -/
  | maxu (d : BitVec 5) (a : BitVec 5) (b : BitVec 5) (fa : Bool) (fb : Bool)
  /-- CLZ (R56). Counts leading zeros, 0 to 64. -/
  | clz (d : BitVec 5) (a : BitVec 5) (fa : Bool)
  /-- POPC (R56). Counts set bits. -/
  | popc (d : BitVec 5) (a : BitVec 5) (fa : Bool)
  /-- SEL (R57). Selects one of two scalar registers by a possibly negated predicate. -/
  | sel (d : BitVec 5) (a : BitVec 5) (b : BitVec 5) (fa : Bool) (fb : Bool) (neg : Bool) (p : BitVec 3)
  /-- SCADD (R58). Adds a register shifted by 0 to 3 to a base. -/
  | scadd (d : BitVec 5) (a : BitVec 5) (b : BitVec 5) (fa : Bool) (fb : Bool) (sh : BitVec 2)
  /-- SCADDX (R58). Adds a sign-extended low word shifted by 0 to 3 to a base. -/
  | scaddx (d : BitVec 5) (a : BitVec 5) (b : BitVec 5) (fa : Bool) (fb : Bool) (sh : BitVec 2)
  /-- SCADDZ (R58). Adds a zero-extended low word shifted by 0 to 3 to a base. -/
  | scaddz (d : BitVec 5) (a : BitVec 5) (b : BitVec 5) (fa : Bool) (fb : Bool) (sh : BitVec 2)
  /-- ADDI (R59). Adds a sign-extended 15-bit immediate. -/
  | addi (d : BitVec 5) (a : BitVec 5) (imm : BitVec 15)
  /-- ANDI (R59). ANDs with a sign-extended immediate. -/
  | andi (d : BitVec 5) (a : BitVec 5) (imm : BitVec 15)
  /-- ORI (R59). ORs with a sign-extended immediate. -/
  | ori (d : BitVec 5) (a : BitVec 5) (imm : BitVec 15)
  /-- XORI (R59). XORs with a sign-extended immediate. -/
  | xori (d : BitVec 5) (a : BitVec 5) (imm : BitVec 15)
  /-- ADDIW (R59). Adds an immediate and sign-extends the low word. -/
  | addiw (d : BitVec 5) (a : BitVec 5) (imm : BitVec 15)
  /-- SLLI (R60). Shifts left by an immediate amount. -/
  | slli (d : BitVec 5) (a : BitVec 5) (n : BitVec 6)
  /-- SRLI (R60). Shifts right with zero fill by an immediate amount. -/
  | srli (d : BitVec 5) (a : BitVec 5) (n : BitVec 6)
  /-- SRAI (R60). Shifts right with sign fill by an immediate amount. -/
  | srai (d : BitVec 5) (a : BitVec 5) (n : BitVec 6)
  /-- RORI (R60). Rotates right by an immediate amount. -/
  | rori (d : BitVec 5) (a : BitVec 5) (n : BitVec 6)
  /-- SLLIW (R60). Word shift left by an immediate, sign-extended. -/
  | slliw (d : BitVec 5) (a : BitVec 5) (n : BitVec 5)
  /-- SRLIW (R60). Word shift right with zero fill by an immediate, sign-extended. -/
  | srliw (d : BitVec 5) (a : BitVec 5) (n : BitVec 5)
  /-- SRAIW (R60). Word shift right with sign fill by an immediate, sign-extended. -/
  | sraiw (d : BitVec 5) (a : BitVec 5) (n : BitVec 5)
  /-- CMPEQI (R61). Sets a predicate when a register equals an immediate. -/
  | cmpeqi (p : BitVec 3) (a : BitVec 5) (imm : BitVec 12)
  /-- CMPNEI (R61). Sets a predicate when a register differs from an immediate. -/
  | cmpnei (p : BitVec 3) (a : BitVec 5) (imm : BitVec 12)
  /-- CMPLTI (R61). Signed less-than compare with an immediate. -/
  | cmplti (p : BitVec 3) (a : BitVec 5) (imm : BitVec 12)
  /-- CMPGEI (R61). Signed greater-or-equal compare with an immediate. -/
  | cmpgei (p : BitVec 3) (a : BitVec 5) (imm : BitVec 12)
  /-- CMPLTUI (R61). Unsigned less-than compare with an immediate. -/
  | cmpltui (p : BitVec 3) (a : BitVec 5) (imm : BitVec 12)
  /-- CMPGEUI (R61). Unsigned greater-or-equal compare with an immediate. -/
  | cmpgeui (p : BitVec 3) (a : BitVec 5) (imm : BitVec 12)
  /-- LUI (R62). Writes the sign-extended 20-bit immediate shifted left by 15. -/
  | lui (d : BitVec 5) (imm : BitVec 20)
  /-- PLD (R79). Loads a scalar from the pool at base plus scaled offset. -/
  | pld (d : BitVec 5) (a : BitVec 5) (kind : BitVec 3) (off : BitVec 11)
  /-- PLD_INDEXED (R79). Loads a scalar from the pool at base plus index register. -/
  | pldIndexed (d : BitVec 5) (a : BitVec 5) (kind : BitVec 3) (idx : BitVec 5)
  /-- PST (R80). Stores a scalar to the pool at base plus scaled offset, performed before the next issue. -/
  | pst (d : BitVec 5) (a : BitVec 5) (kind : BitVec 2) (off : BitVec 11)
  /-- PST_INDEXED (R80). Stores a scalar to the pool at base plus index register. -/
  | pstIndexed (d : BitVec 5) (a : BitVec 5) (kind : BitVec 2) (idx : BitVec 5)
  /-- GLD (R81). Checks and translates a global address, marks the destination empty and queues the load. -/
  | gld (d : BitVec 5) (a : BitVec 5) (kind : BitVec 3) (off : BitVec 11)
  /-- GLD_INDEXED (R81). Global load at base plus index register. -/
  | gldIndexed (d : BitVec 5) (a : BitVec 5) (kind : BitVec 3) (idx : BitVec 5)
  /-- GST (R81). Checks and translates a global address and queues a store with its scope. -/
  | gst (d : BitVec 5) (a : BitVec 5) (width : BitVec 2) (sc : BitVec 3) (off : BitVec 9)
  /-- GST_INDEXED (R81). Global store at base plus index register. -/
  | gstIndexed (d : BitVec 5) (a : BitVec 5) (width : BitVec 2) (sc : BitVec 3) (idx : BitVec 5)
  /-- PBR (R64). Starts fetching a PC-relative target into a target register, or records a fetch fault in it. -/
  | pbr (b : BitVec 3) (disp : BitVec 22)
  /-- BR (R66). Branches through a target register when the possibly negated predicate holds. -/
  | br (b : BitVec 3) (p : BitVec 3) (neg : Bool)
  /-- BRL (R66). As BR, also writing the return address to s31 when taken. -/
  | brl (b : BitVec 3) (p : BitVec 3) (neg : Bool)
  /-- CMPEQ (R63). Sets a predicate when two registers are equal. -/
  | cmpeq (p : BitVec 3) (a : BitVec 5) (b : BitVec 5) (fa : Bool) (fb : Bool)
  /-- CMPNE (R63). Sets a predicate when two registers differ. -/
  | cmpne (p : BitVec 3) (a : BitVec 5) (b : BitVec 5) (fa : Bool) (fb : Bool)
  /-- CMPLT (R63). Signed less-than compare into a predicate. -/
  | cmplt (p : BitVec 3) (a : BitVec 5) (b : BitVec 5) (fa : Bool) (fb : Bool)
  /-- CMPGE (R63). Signed greater-or-equal compare into a predicate. -/
  | cmpge (p : BitVec 3) (a : BitVec 5) (b : BitVec 5) (fa : Bool) (fb : Bool)
  /-- CMPLTU (R63). Unsigned less-than compare into a predicate. -/
  | cmpltu (p : BitVec 3) (a : BitVec 5) (b : BitVec 5) (fa : Bool) (fb : Bool)
  /-- CMPGEU (R63). Unsigned greater-or-equal compare into a predicate. -/
  | cmpgeu (p : BitVec 3) (a : BitVec 5) (b : BitVec 5) (fa : Bool) (fb : Bool)
  /-- PAND (R63). ANDs two predicates. -/
  | pand (d : BitVec 3) (a : BitVec 3) (b : BitVec 3)
  /-- POR (R63). ORs two predicates. -/
  | por (d : BitVec 3) (a : BitVec 3) (b : BitVec 3)
  /-- PXOR (R63). XORs two predicates. -/
  | pxor (d : BitVec 3) (a : BitVec 3) (b : BitVec 3)
  /-- PANDN (R63). Writes p[a] AND NOT p[b]. -/
  | pandn (d : BitVec 3) (a : BitVec 3) (b : BitVec 3)
  /-- PNOT (R63). Inverts a predicate. -/
  | pnot (d : BitVec 3) (a : BitVec 3)
  /-- PGET (R63). Writes 1 or 0 to a scalar register from a predicate. -/
  | pget (d : BitVec 5) (a : BitVec 3)
  /-- PSET (R63). Sets a predicate from whether a scalar is nonzero. -/
  | pset (d : BitVec 3) (a : BitVec 5) (fa : Bool)
  /-- PBRR (R65). Starts fetching a target word address held in a register. -/
  | pbrr (d : BitVec 3) (a : BitVec 5) (fa : Bool)
  /-- LOOP (R68). Opens hardware loop level L with the count from a register, or skips the body when it is zero. -/
  | loop (lvl : BitVec 2) (a : BitVec 5) (len : BitVec 12)
  /-- LOOPI (R68). Opens hardware loop level L with an immediate count 0 to 255. -/
  | loopi (lvl : BitVec 2) (raw : BitVec 8) (len : BitVec 12)
  /-- LBRK (R70). Ends loop level L and every later level and continues after its end word. -/
  | lbrk (lvl : BitVec 2)
  /-- MCALL (R73). Runs the operations of a macro in order with register substitution. -/
  | mcall (a : BitVec 5) (m : BitVec 6)
  /-- MSTORE (R73). Writes one operation word of a macro in the control store. -/
  | mstore (a : BitVec 5) (stepNo : BitVec 5) (m : BitVec 6)
  /-- MOV (R75). Copies one scalar register to another. -/
  | mov (d : BitVec 5) (a : BitVec 5)
  /-- MFS (R75). Reads a system register into a scalar register after the access checks. -/
  | mfs (d : BitVec 5) (r : BitVec 12)
  /-- MFS_TCAUSE (R325). Reads TCAUSE and, the first time after trap entry, sets TSTAT.CR. -/
  | mfsTcause (d : BitVec 5)
  /-- MFS_ENGINE_STATUS (R16). Reads SRP0-SRP3 or QHT0-QHT5 through the empty bit, with the value the engine holds when the request reaches it. -/
  | mfsEngineStatus (d : BitVec 5) (r : BitVec 12)
  /-- MTS (R21). Writes a system register that has no behaviour of its own, after the access and value checks. -/
  | mts (a : BitVec 5) (r : BitVec 12)
  /-- MTS_PARTW (R22). Repartitions the pool banks, trapping if engines are busy or a buffer would move, and writes back L1 when CA changes. -/
  | mtsPartw (a : BitVec 5)
  /-- MTS_FPCTL (R23). Waits for older vector instructions, sets rounding and trap enables, and reseeds every RSR state. -/
  | mtsFpctl (a : BitVec 5)
  /-- MTS_FPFLAG (R24). Replaces the sticky flags; later merges are ORed in. -/
  | mtsFpflag (a : BitVec 5)
  /-- MTS_LC (R75). Writes a loop count, taking effect at that level's next end-of-body test and overriding that test's update. -/
  | mtsLc (a : BitVec 5) (r : BitVec 12)
  /-- MTS_MSDEPTH (R32). Sets the mask stack depth in handler mode, exposing the stored entries. -/
  | mtsMsdepth (a : BitVec 5)
  /-- MTS_QHT (R30). Writes a command queue head and tail in handler mode, legal only while that engine is stopped for restore. -/
  | mtsQht (a : BitVec 5) (r : BitVec 12)
  /-- CYC (R76). Reads the region counter of the core's reticle field. -/
  | cyc (d : BitVec 5)
  /-- NOP (R77). Does nothing. -/
  | nop
  /-- OVL (R86). Waits for the trailer queues to empty and starts loading an overlay into the overlay area. -/
  | ovl (a : BitVec 5) (fa : Bool)
  /-- EXIT (R87). Stops fetching and lets queued commands, stores and loads drain. -/
  | exit
  /-- VADD_F32 (R96). FP32 lane add, masked, rounded once. -/
  | vaddF32 (d : BitVec 5) (a : BitVec 5) (b : BitVec 5) (rm : BitVec 3)
  /-- VSUB_F32 (R96). FP32 lane subtract. -/
  | vsubF32 (d : BitVec 5) (a : BitVec 5) (b : BitVec 5) (rm : BitVec 3)
  /-- VMUL_F32 (R96). FP32 lane multiply. -/
  | vmulF32 (d : BitVec 5) (a : BitVec 5) (b : BitVec 5) (rm : BitVec 3)
  /-- VFMA_F32 (R96). FP32 fused va*vb+vd. -/
  | vfmaF32 (d : BitVec 5) (a : BitVec 5) (b : BitVec 5) (rm : BitVec 3)
  /-- VFMS_F32 (R96). FP32 fused va*vb-vd. -/
  | vfmsF32 (d : BitVec 5) (a : BitVec 5) (b : BitVec 5) (rm : BitVec 3)
  /-- VFNMA_F32 (R96). FP32 fused vd-va*vb. -/
  | vfnmaF32 (d : BitVec 5) (a : BitVec 5) (b : BitVec 5) (rm : BitVec 3)
  /-- VMIN_F32 (R97). FP32 lane minimum with the NaN rules. -/
  | vminF32 (d : BitVec 5) (a : BitVec 5) (b : BitVec 5)
  /-- VMAX_F32 (R97). FP32 lane maximum with the NaN rules. -/
  | vmaxF32 (d : BitVec 5) (a : BitVec 5) (b : BitVec 5)
  /-- VABS_F32 (R96). Clears the FP32 sign bit. -/
  | vabsF32 (d : BitVec 5) (a : BitVec 5)
  /-- VNEG_F32 (R96). Inverts the FP32 sign bit. -/
  | vnegF32 (d : BitVec 5) (a : BitVec 5)
  /-- VEXP2 (R99). Correctly rounded 2^x per lane. -/
  | vexp2 (d : BitVec 5) (a : BitVec 5) (rm : Bool)
  /-- VRCP (R99). Correctly rounded reciprocal per lane. -/
  | vrcp (d : BitVec 5) (a : BitVec 5) (rm : Bool)
  /-- VRSQ (R99). Correctly rounded reciprocal square root per lane. -/
  | vrsq (d : BitVec 5) (a : BitVec 5) (rm : Bool)
  /-- VLOG2 (R99). Correctly rounded base-2 logarithm per lane. -/
  | vlog2 (d : BitVec 5) (a : BitVec 5) (rm : Bool)
  /-- VADD_BF16 (R98). BF16 add on two elements per lane. -/
  | vaddBf16 (d : BitVec 5) (a : BitVec 5) (b : BitVec 5) (rm : BitVec 3)
  /-- VSUB_BF16 (R98). BF16 subtract. -/
  | vsubBf16 (d : BitVec 5) (a : BitVec 5) (b : BitVec 5) (rm : BitVec 3)
  /-- VMUL_BF16 (R98). BF16 multiply. -/
  | vmulBf16 (d : BitVec 5) (a : BitVec 5) (b : BitVec 5) (rm : BitVec 3)
  /-- VFMA_BF16 (R98). BF16 fused multiply-add. -/
  | vfmaBf16 (d : BitVec 5) (a : BitVec 5) (b : BitVec 5) (rm : BitVec 3)
  /-- VFMS_BF16 (R98). BF16 fused multiply-subtract. -/
  | vfmsBf16 (d : BitVec 5) (a : BitVec 5) (b : BitVec 5) (rm : BitVec 3)
  /-- VFNMA_BF16 (R98). BF16 fused negated multiply-add. -/
  | vfnmaBf16 (d : BitVec 5) (a : BitVec 5) (b : BitVec 5) (rm : BitVec 3)
  /-- VMIN_BF16 (R97). BF16 minimum. -/
  | vminBf16 (d : BitVec 5) (a : BitVec 5) (b : BitVec 5)
  /-- VMAX_BF16 (R97). BF16 maximum. -/
  | vmaxBf16 (d : BitVec 5) (a : BitVec 5) (b : BitVec 5)
  /-- VABS_BF16 (R96). Clears BF16 sign bits. -/
  | vabsBf16 (d : BitVec 5) (a : BitVec 5)
  /-- VNEG_BF16 (R96). Inverts BF16 sign bits. -/
  | vnegBf16 (d : BitVec 5) (a : BitVec 5)
  /-- VADD_I32 (R100). Wrapping 32-bit lane add. -/
  | vaddI32 (d : BitVec 5) (a : BitVec 5) (b : BitVec 5)
  /-- VSUB_I32 (R100). Wrapping 32-bit lane subtract. -/
  | vsubI32 (d : BitVec 5) (a : BitVec 5) (b : BitVec 5)
  /-- VMUL_I32 (R100). Low 32 bits of the lane product. -/
  | vmulI32 (d : BitVec 5) (a : BitVec 5) (b : BitVec 5)
  /-- VMULH_I32 (R100). High 32 bits of the signed lane product. -/
  | vmulhI32 (d : BitVec 5) (a : BitVec 5) (b : BitVec 5)
  /-- VMULH_Z32 (R100). High 32 bits of the unsigned lane product. -/
  | vmulhZ32 (d : BitVec 5) (a : BitVec 5) (b : BitVec 5)
  /-- VADDS_I32 (R100). Signed saturating lane add. -/
  | vaddsI32 (d : BitVec 5) (a : BitVec 5) (b : BitVec 5)
  /-- VSUBS_I32 (R100). Signed saturating lane subtract. -/
  | vsubsI32 (d : BitVec 5) (a : BitVec 5) (b : BitVec 5)
  /-- VADDS_Z32 (R100). Unsigned saturating lane add. -/
  | vaddsZ32 (d : BitVec 5) (a : BitVec 5) (b : BitVec 5)
  /-- VSUBS_Z32 (R100). Unsigned saturating lane subtract. -/
  | vsubsZ32 (d : BitVec 5) (a : BitVec 5) (b : BitVec 5)
  /-- VMIN_I32 (R100). Signed lane minimum. -/
  | vminI32 (d : BitVec 5) (a : BitVec 5) (b : BitVec 5)
  /-- VMAX_I32 (R100). Signed lane maximum. -/
  | vmaxI32 (d : BitVec 5) (a : BitVec 5) (b : BitVec 5)
  /-- VMIN_Z32 (R100). Unsigned lane minimum. -/
  | vminZ32 (d : BitVec 5) (a : BitVec 5) (b : BitVec 5)
  /-- VMAX_Z32 (R100). Unsigned lane maximum. -/
  | vmaxZ32 (d : BitVec 5) (a : BitVec 5) (b : BitVec 5)
  /-- VAND (R100). Bitwise lane AND. -/
  | vand (d : BitVec 5) (a : BitVec 5) (b : BitVec 5)
  /-- VOR (R100). Bitwise lane OR. -/
  | vor (d : BitVec 5) (a : BitVec 5) (b : BitVec 5)
  /-- VXOR (R100). Bitwise lane XOR. -/
  | vxor (d : BitVec 5) (a : BitVec 5) (b : BitVec 5)
  /-- VANDN (R100). Bitwise lane a AND NOT b. -/
  | vandn (d : BitVec 5) (a : BitVec 5) (b : BitVec 5)
  /-- VSLL (R100). Lane shift left by vb lane. -/
  | vsll (d : BitVec 5) (a : BitVec 5) (b : BitVec 5)
  /-- VSRL (R100). Lane logical shift right by vb lane. -/
  | vsrl (d : BitVec 5) (a : BitVec 5) (b : BitVec 5)
  /-- VSRA (R100). Lane arithmetic shift right by vb lane. -/
  | vsra (d : BitVec 5) (a : BitVec 5) (b : BitVec 5)
  /-- VSLLI (R100). Lane shift left by an immediate. -/
  | vslli (d : BitVec 5) (a : BitVec 5) (n : BitVec 5)
  /-- VSRLI (R100). Lane logical shift right by an immediate. -/
  | vsrli (d : BitVec 5) (a : BitVec 5) (n : BitVec 5)
  /-- VSRAI (R100). Lane arithmetic shift right by an immediate. -/
  | vsrai (d : BitVec 5) (a : BitVec 5) (n : BitVec 5)
  /-- VCMP_F32 (R101). FP32 lane compare into a q register, with NV on ordered NaN compares. -/
  | vcmpF32 (q : BitVec 3) (a : BitVec 5) (b : BitVec 5) (cond : BitVec 3)
  /-- VCMP_I32 (R101). Signed lane compare into a q register. -/
  | vcmpI32 (q : BitVec 3) (a : BitVec 5) (b : BitVec 5) (cond : BitVec 3)
  /-- VCMP_Z32 (R101). Unsigned lane compare into a q register. -/
  | vcmpZ32 (q : BitVec 3) (a : BitVec 5) (b : BitVec 5) (cond : BitVec 3)
  /-- QAND (R101). ANDs two lane masks. -/
  | qand (d : BitVec 3) (a : BitVec 3) (b : BitVec 3)
  /-- QOR (R101). ORs two lane masks. -/
  | qor (d : BitVec 3) (a : BitVec 3) (b : BitVec 3)
  /-- QXOR (R101). XORs two lane masks. -/
  | qxor (d : BitVec 3) (a : BitVec 3) (b : BitVec 3)
  /-- QANDN (R101). Writes q[a] AND NOT q[b]. -/
  | qandn (d : BitVec 3) (a : BitVec 3) (b : BitVec 3)
  /-- QNOT (R101). Inverts a lane mask. -/
  | qnot (d : BitVec 3) (a : BitVec 3)
  /-- QTOP (R101). Copies the current mask into a q register. -/
  | qtop (d : BitVec 3)
  /-- VCVT_BF16_F32 (R103). Narrows two FP32 registers into BF16 halves. -/
  | vcvtBf16F32 (d : BitVec 5) (a : BitVec 5) (b : BitVec 5) (rm : BitVec 3) (sat : Bool)
  /-- VCVT_F16_F32 (R103). Narrows two FP32 registers into FP16 halves. -/
  | vcvtF16F32 (d : BitVec 5) (a : BitVec 5) (b : BitVec 5) (rm : BitVec 3) (sat : Bool)
  /-- VCVT_F32_BF16_LO (R102). Widens the low BF16 half of each lane. -/
  | vcvtF32Bf16Lo (d : BitVec 5) (a : BitVec 5)
  /-- VCVT_F32_BF16_HI (R102). Widens the high BF16 half of each lane. -/
  | vcvtF32Bf16Hi (d : BitVec 5) (a : BitVec 5)
  /-- VCVT_F32_F16_LO (R102). Widens the low FP16 half of each lane. -/
  | vcvtF32F16Lo (d : BitVec 5) (a : BitVec 5)
  /-- VCVT_F32_F16_HI (R102). Widens the high FP16 half of each lane. -/
  | vcvtF32F16Hi (d : BitVec 5) (a : BitVec 5)
  /-- VCVT_E4M3_F32 (R103). Narrows FP32 to an E4M3 byte under a reading. -/
  | vcvtE4m3F32 (d : BitVec 5) (a : BitVec 5) (j : BitVec 2) (rm : BitVec 3) (sat : Bool) (rd : BitVec 2)
  /-- VCVT_E5M2_F32 (R103). Narrows FP32 to an E5M2 byte under a reading. -/
  | vcvtE5m2F32 (d : BitVec 5) (a : BitVec 5) (j : BitVec 2) (rm : BitVec 3) (sat : Bool) (rd : BitVec 2)
  /-- VCVT_F32_E4M3 (R102). Widens an E4M3 byte to FP32. -/
  | vcvtF32E4m3 (d : BitVec 5) (a : BitVec 5) (j : BitVec 2) (rd : BitVec 2)
  /-- VCVT_F32_E5M2 (R102). Widens an E5M2 byte to FP32. -/
  | vcvtF32E5m2 (d : BitVec 5) (a : BitVec 5) (j : BitVec 2) (rd : BitVec 2)
  /-- VCVT_E2M1_F32 (R103). Narrows FP32 to an E2M1 nibble. -/
  | vcvtE2m1F32 (d : BitVec 5) (a : BitVec 5) (n : BitVec 3) (rm : BitVec 3) (sat : Bool) (rd : BitVec 2)
  /-- VCVT_F32_E2M1 (R102). Widens an E2M1 nibble to FP32. -/
  | vcvtF32E2m1 (d : BitVec 5) (a : BitVec 5) (n : BitVec 3) (rd : BitVec 2)
  /-- VCVT_I32_F32 (R102). Converts FP32 to i32 with range and NaN rules. -/
  | vcvtI32F32 (d : BitVec 5) (a : BitVec 5) (rm : BitVec 3)
  /-- VCVT_Z32_F32 (R102). Converts FP32 to z32 with range and NaN rules. -/
  | vcvtZ32F32 (d : BitVec 5) (a : BitVec 5) (rm : BitVec 3)
  /-- VCVT_F32_I32 (R102). Converts i32 to FP32. -/
  | vcvtF32I32 (d : BitVec 5) (a : BitVec 5) (rm : BitVec 3)
  /-- VCVT_F32_Z32 (R102). Converts z32 to FP32. -/
  | vcvtF32Z32 (d : BitVec 5) (a : BitVec 5) (rm : BitVec 3)
  /-- VBSCALE (R104). Computes the E8M0 block scale of 32 values. -/
  | vbscale (d : BitVec 5) (a : BitVec 5) (b : BitVec 5) (fmt : BitVec 2) (rd : BitVec 2)
  /-- VBAMAX (R104). Computes the block's largest magnitude as FP32. -/
  | vbamax (d : BitVec 5) (a : BitVec 5) (b : BitVec 5)
  /-- VBPACK (R105). Scales and packs 32 values into FP8 or E2M1 codes at a position. -/
  | vbpack (d : BitVec 5) (a : BitVec 5) (b : BitVec 5) (rm : BitVec 3) (pHi : Bool) (fmt : BitVec 2) (rd : BitVec 2) (pLo : Bool)
  /-- VBUNPK (R106). Unpacks and scales block codes to FP32. -/
  | vbunpk (d : BitVec 5) (a : BitVec 5) (b : BitVec 5) (rm : BitVec 3) (fmt : BitVec 2) (rd : BitVec 2) (p : BitVec 2) (h : Bool)
  /-- VRADD_F32 (R107). Fixed-tree FP32 lane sum into lane 0. -/
  | vraddF32 (d : BitVec 5) (a : BitVec 5) (rm : BitVec 3)
  /-- VRMAX_F32 (R107). Fixed-tree FP32 lane maximum. -/
  | vrmaxF32 (d : BitVec 5) (a : BitVec 5)
  /-- VRMIN_F32 (R107). Fixed-tree FP32 lane minimum. -/
  | vrminF32 (d : BitVec 5) (a : BitVec 5)
  /-- VRAMAX_F32 (R107). Fixed-tree maximum magnitude, dropping NaNs. -/
  | vramaxF32 (d : BitVec 5) (a : BitVec 5)
  /-- VRADD_I32 (R107). Wrapping integer lane sum. -/
  | vraddI32 (d : BitVec 5) (a : BitVec 5)
  /-- VRMAX_I32 (R107). Integer lane maximum. -/
  | vrmaxI32 (d : BitVec 5) (a : BitVec 5)
  /-- VRMIN_I32 (R107). Integer lane minimum. -/
  | vrminI32 (d : BitVec 5) (a : BitVec 5)
  /-- VPERM (R108). Permutes lanes by index lanes. -/
  | vperm (d : BitVec 5) (a : BitVec 5) (b : BitVec 5)
  /-- VROT (R108). Rotates lanes by an immediate. -/
  | vrot (d : BitVec 5) (a : BitVec 5) (n : BitVec 5)
  /-- VZIPL (R108). Interleaves the low halves of two registers. -/
  | vzipl (d : BitVec 5) (a : BitVec 5) (b : BitVec 5)
  /-- VZIPH (R108). Interleaves the high halves of two registers. -/
  | vziph (d : BitVec 5) (a : BitVec 5) (b : BitVec 5)
  /-- VMOV (R108). Copies a vector register under the mask. -/
  | vmov (d : BitVec 5) (a : BitVec 5)
  /-- VBCAST (R108). Broadcasts a scalar's low word to active lanes. -/
  | vbcast (d : BitVec 5) (a : BitVec 5)
  /-- VINS (R108). Inserts a scalar's low word into lane n. -/
  | vins (d : BitVec 5) (a : BitVec 5) (n : BitVec 5)
  /-- VEXT (R108). Extracts lane n sign-extended into a scalar. -/
  | vext (d : BitVec 5) (a : BitVec 5) (n : BitVec 5)
  /-- VEXTZ (R108). Extracts lane n zero-extended into a scalar. -/
  | vextz (d : BitVec 5) (a : BitVec 5) (n : BitVec 5)
  /-- S2Q (R108). Moves a scalar's low 16 bits into a q register. -/
  | s2q (d : BitVec 3) (a : BitVec 5)
  /-- Q2S (R108). Moves a q register into a scalar, zero-extended. -/
  | q2s (d : BitVec 5) (a : BitVec 3)
  /-- MPUSH (R94). Pushes top AND q[a] onto the mask stack. -/
  | mpush (a : BitVec 3)
  /-- MINV (R94). Replaces the top mask by parent AND NOT top. -/
  | minv
  /-- MPOP (R94). Pops the mask stack. -/
  | mpop
  /-- BRMZ (R95). Skips a region when the current mask is zero, after loop-safety checks. -/
  | brmz (len : BitVec 12)
  /-- VPLD (R109). Loads 64 pool bytes into active lanes. -/
  | vpld (d : BitVec 5) (a : BitVec 5) (off : BitVec 12)
  /-- VPLD_INDEXED (R109). Indexed 64-byte pool load. -/
  | vpldIndexed (d : BitVec 5) (a : BitVec 5) (idx : BitVec 5)
  /-- VPST (R109). Stores active lanes to 64 pool bytes. -/
  | vpst (d : BitVec 5) (a : BitVec 5) (off : BitVec 12)
  /-- VPST_INDEXED (R109). Indexed 64-byte pool store. -/
  | vpstIndexed (d : BitVec 5) (a : BitVec 5) (idx : BitVec 5)
  /-- VLDA (R109). Loads 64 bytes at an offset into the AC banks. -/
  | vlda (d : BitVec 5) (a : BitVec 5) (off : BitVec 12)
  /-- VLDA_INDEXED (R109). Indexed AC load. -/
  | vldaIndexed (d : BitVec 5) (a : BitVec 5) (idx : BitVec 5)
  /-- VSTA (R109). Stores 64 bytes at an offset into the AC banks. -/
  | vsta (d : BitVec 5) (a : BitVec 5) (off : BitVec 12)
  /-- VSTA_INDEXED (R109). Indexed AC store. -/
  | vstaIndexed (d : BitVec 5) (a : BitVec 5) (idx : BitVec 5)
  /-- VGLD (R110). Queues a 64-byte global load, marking the register empty. -/
  | vgld (d : BitVec 5) (a : BitVec 5) (off : BitVec 10)
  /-- VGLD_INDEXED (R110). Indexed 64-byte global load. -/
  | vgldIndexed (d : BitVec 5) (a : BitVec 5) (idx : BitVec 5)
  /-- VGST (R110). Queues a 64-byte global store of the active lanes with a scope. -/
  | vgst (d : BitVec 5) (a : BitVec 5) (sc : BitVec 3) (off : BitVec 10)
  /-- VGST_INDEXED (R110). Indexed 64-byte global store. -/
  | vgstIndexed (d : BitVec 5) (a : BitVec 5) (sc : BitVec 3) (idx : BitVec 5)
  /-- SRUN (R119). Issues a stream command that walks a six-level nest moving 32-byte tokens. -/
  | srun (sig : BitVec 5) (wa : BitVec 5) (wb : BitVec 5) (wc : BitVec 5) (sp : BitVec 5)
  /-- GLDC (R125). Issues a load of an 8 KiB configuration image into the shadow bank. -/
  | gldc (sig : BitVec 5) (wa : BitVec 5) (wb : BitVec 5) (wc : BitVec 5) (sp : BitVec 5)
  /-- GGO (R126). Waits for earlier GLDC, checks a bank and issues a command that swaps it in and runs it. -/
  | ggo (sig : BitVec 5) (wa : BitVec 5) (wb : BitVec 5) (wc : BitVec 5) (sp : BitVec 5)
  /-- GMMA (R132). Issues a block matrix multiply-accumulate into accumulator storage. -/
  | gmma (sig : BitVec 5) (wa : BitVec 5) (wb : BitVec 5) (wc : BitVec 5) (sp : BitVec 5)
  /-- COPY (R140). Issues a linear copy between pool, global and remote pool. -/
  | copy (sig : BitVec 5) (wa : BitVec 5) (wb : BitVec 5) (wc : BitVec 5) (sp : BitVec 5)
  /-- COPY2D (R140). Issues a two-dimensional copy. -/
  | copy2d (sig : BitVec 5) (wa : BitVec 5) (wb : BitVec 5) (wc : BitVec 5) (sp : BitVec 5)
  /-- SEND (R143). Issues a packet send of pool data on a stream label. -/
  | send (sig : BitVec 5) (wa : BitVec 5) (wb : BitVec 5) (wc : BitVec 5) (sp : BitVec 5)
  /-- LBIND (R144). Issues a bind of a stream label for receive or send. -/
  | lbind (sig : BitVec 5) (wa : BitVec 5) (wb : BitVec 5) (wc : BitVec 5) (sp : BitVec 5)
  /-- LUNBIND (R144). LBIND with UNB set: unbinds a label after accepted packets are placed. -/
  | lunbind (sig : BitVec 5) (wa : BitVec 5) (wb : BitVec 5) (wc : BitVec 5) (sp : BitVec 5)
  /-- COPEN (R274). Issues a command that runs one probe to reserve an explicit circuit with a lease. -/
  | copen (sig : BitVec 5) (wa : BitVec 5) (wb : BitVec 5) (wc : BitVec 5) (sp : BitVec 5)
  /-- CSTREAM (R276). Issues a command sending pool bytes over an open circuit in check windows. -/
  | cstream (sig : BitVec 5) (wa : BitVec 5) (wb : BitVec 5) (wc : BitVec 5) (sp : BitVec 5)
  /-- GSEL (R123). Names the shadow configuration bank. -/
  | gsel (n : BitVec 2)
  /-- SNEST (R123). Writes one loop count of a bank after earlier users and loads of that bank. -/
  | snest (n : BitVec 2) (a : BitVec 5) (lvl : BitVec 3) (fa : Bool)
  /-- GSTOP (R124). Stops the grid command in execution at its next step boundary or retire point. -/
  | gstop
  /-- GFEED (R123). Pushes 32 bytes onto the grid feed queue. -/
  | gfeed (a : BitVec 5) (fa : Bool)
  /-- GPOP (R123). Marks a vector register empty and pops an output-queue entry into it. -/
  | gpop (d : BitVec 5)
  /-- PQPOP (R123). Pops a branch-outcome bit into a predicate. -/
  | pqpop (d : BitVec 3)
  /-- GBANK (R123). Reads the active and shadow bank numbers. -/
  | gbank (d : BitVec 5)
  /-- KWAIT (R116). Captures a slot's issued count and holds the sequencer until it is reached. -/
  | kwait (a : BitVec 5)
  /-- KSTAT (R116). Marks a register empty and fills it with a token slot record. -/
  | kstat (d : BitVec 5) (a : BitVec 5)
  /-- BUFDEF (R138). Declares a scratchpad buffer after ordered checks. -/
  | bufdef (n : BitVec 5) (a : BitVec 5) (b : BitVec 5) (fa : Bool) (fb : Bool)
  /-- BUFREL (R137). Moves a full buffer to empty. -/
  | bufrel (n : BitVec 5)
  /-- BUFREL_FREE (R137). Undeclares an empty or full buffer. -/
  | bufrelFree (n : BitVec 5)
  /-- BUFSTAT (R139). Marks a register empty and fills it with a buffer's status. -/
  | bufstat (d : BitVec 5) (a : BitVec 5)
  /-- BUFWAIT (R139). Sleeps until a buffer reaches a given state. -/
  | bufwait (n : BitVec 5) (st : BitVec 2)
  /-- MARK (R194). Places an entry in each queue holding younger loads until older stores perform at the scope. -/
  | mark (s : BitVec 3)
  /-- FENCE_REL (R194). Pushes narrower L1 lines and holds younger stores until older accesses perform at the scope. -/
  | fenceRel (s : BitVec 3)
  /-- FENCE_ACQ (R194). Waits for older loads, then invalidates clean L1 bytes and, at pod or hall, remote-class lines. -/
  | fenceAcq (s : BitVec 3)
  /-- FENCE_FULL (R194). Waits for the store queue to empty and every older access to perform, then acts as an acquire. -/
  | fenceFull (s : BitVec 3)
  /-- AMOADD (R198). Global atomic add returning the old value. -/
  | amoadd (d : BitVec 5) (a : BitVec 5) (b : BitVec 5) (fa : Bool) (fb : Bool) (esc : Bool) (dbl : Bool)
  /-- AMOAND (R198). Global atomic AND. -/
  | amoand (d : BitVec 5) (a : BitVec 5) (b : BitVec 5) (fa : Bool) (fb : Bool) (esc : Bool) (dbl : Bool)
  /-- AMOOR (R198). Global atomic OR. -/
  | amoor (d : BitVec 5) (a : BitVec 5) (b : BitVec 5) (fa : Bool) (fb : Bool) (esc : Bool) (dbl : Bool)
  /-- AMOXOR (R198). Global atomic XOR. -/
  | amoxor (d : BitVec 5) (a : BitVec 5) (b : BitVec 5) (fa : Bool) (fb : Bool) (esc : Bool) (dbl : Bool)
  /-- AMOMIN (R198). Global atomic signed minimum. -/
  | amomin (d : BitVec 5) (a : BitVec 5) (b : BitVec 5) (fa : Bool) (fb : Bool) (esc : Bool) (dbl : Bool)
  /-- AMOMAX (R198). Global atomic signed maximum. -/
  | amomax (d : BitVec 5) (a : BitVec 5) (b : BitVec 5) (fa : Bool) (fb : Bool) (esc : Bool) (dbl : Bool)
  /-- AMOMINZ (R198). Global atomic unsigned minimum. -/
  | amominz (d : BitVec 5) (a : BitVec 5) (b : BitVec 5) (fa : Bool) (fb : Bool) (esc : Bool) (dbl : Bool)
  /-- AMOMAXZ (R198). Global atomic unsigned maximum. -/
  | amomaxz (d : BitVec 5) (a : BitVec 5) (b : BitVec 5) (fa : Bool) (fb : Bool) (esc : Bool) (dbl : Bool)
  /-- AMOSWAP (R198). Global atomic swap. -/
  | amoswap (d : BitVec 5) (a : BitVec 5) (b : BitVec 5) (fa : Bool) (fb : Bool) (esc : Bool) (dbl : Bool)
  /-- AMOCAS (R198). Global atomic compare-and-swap against s[d]. -/
  | amocas (d : BitVec 5) (a : BitVec 5) (b : BitVec 5) (fa : Bool) (fb : Bool) (esc : Bool) (dbl : Bool)
  /-- RED_F32 (R205). Posts an FP32 add reduction of a 128-byte line at memory. -/
  | redF32 (a : BitVec 5) (b : BitVec 5) (fa : Bool) (s : BitVec 3)
  /-- RED_BF16 (R205). Posts a BF16 add reduction of a line. -/
  | redBf16 (a : BitVec 5) (b : BitVec 5) (fa : Bool) (s : BitVec 3)
  /-- RED_I32 (R205). Posts a wrapping INT32 add reduction of a line. -/
  | redI32 (a : BitVec 5) (b : BitVec 5) (fa : Bool) (s : BitVec 3)
  /-- RED_F32MAX (R205). Posts an FP32 maximum reduction of a line. -/
  | redF32max (a : BitVec 5) (b : BitVec 5) (fa : Bool) (s : BitVec 3)
  /-- REDO_F32 (R208). Posts an FP32 add applied in group rank order. -/
  | redoF32 (a : BitVec 5) (b : BitVec 5) (fa : Bool) (grp : BitVec 8)
  /-- REDO_BF16 (R208). Posts a rank-ordered BF16 add. -/
  | redoBf16 (a : BitVec 5) (b : BitVec 5) (fa : Bool) (grp : BitVec 8)
  /-- REDO_I32 (R208). Posts a rank-ordered INT32 add. -/
  | redoI32 (a : BitVec 5) (b : BitVec 5) (fa : Bool) (grp : BitVec 8)
  /-- REDO_F32MAX (R208). Posts a rank-ordered FP32 maximum. -/
  | redoF32max (a : BitVec 5) (b : BitVec 5) (fa : Bool) (grp : BitVec 8)
  /-- ALR (R210). Opens an atomic line region on a 128-byte line. -/
  | alr (a : BitVec 5) (fa : Bool)
  /-- ALRE (R212). Waits for older stores and sends the collected region to the home as one request. -/
  | alre
  /-- SEMBIND (R215). Binds a token slot to a semaphore once its counters are equal. -/
  | sembind (slot : BitVec 5) (a : BitVec 5) (fa : Bool)
  /-- SEMBIND_OFF (R215). Removes a slot's semaphore binding. -/
  | sembindOff (slot : BitVec 5)
  /-- SEMADD (R215). Releases at its scope and sends an add to a semaphore. -/
  | semadd (d : BitVec 5) (a : BitVec 5) (b : BitVec 5) (fa : Bool) (fb : Bool) (s : BitVec 3)
  /-- SEMWAIT (R215). Sleeps until a semaphore reaches a value, then acquires. -/
  | semwait (a : BitVec 5) (b : BitVec 5) (fa : Bool) (fb : Bool) (s : BitVec 3)
  /-- PAMOADD (R204). Pool atomic add. -/
  | pamoadd (d : BitVec 5) (a : BitVec 5) (b : BitVec 5) (fa : Bool) (fb : Bool) (dbl : Bool)
  /-- PAMOAND (R204). Pool atomic AND. -/
  | pamoand (d : BitVec 5) (a : BitVec 5) (b : BitVec 5) (fa : Bool) (fb : Bool) (dbl : Bool)
  /-- PAMOOR (R204). Pool atomic OR. -/
  | pamoor (d : BitVec 5) (a : BitVec 5) (b : BitVec 5) (fa : Bool) (fb : Bool) (dbl : Bool)
  /-- PAMOXOR (R204). Pool atomic XOR. -/
  | pamoxor (d : BitVec 5) (a : BitVec 5) (b : BitVec 5) (fa : Bool) (fb : Bool) (dbl : Bool)
  /-- PAMOMIN (R204). Pool atomic signed minimum. -/
  | pamomin (d : BitVec 5) (a : BitVec 5) (b : BitVec 5) (fa : Bool) (fb : Bool) (dbl : Bool)
  /-- PAMOMAX (R204). Pool atomic signed maximum. -/
  | pamomax (d : BitVec 5) (a : BitVec 5) (b : BitVec 5) (fa : Bool) (fb : Bool) (dbl : Bool)
  /-- PAMOMINZ (R204). Pool atomic unsigned minimum. -/
  | pamominz (d : BitVec 5) (a : BitVec 5) (b : BitVec 5) (fa : Bool) (fb : Bool) (dbl : Bool)
  /-- PAMOMAXZ (R204). Pool atomic unsigned maximum. -/
  | pamomaxz (d : BitVec 5) (a : BitVec 5) (b : BitVec 5) (fa : Bool) (fb : Bool) (dbl : Bool)
  /-- PAMOSWAP (R204). Pool atomic swap. -/
  | pamoswap (d : BitVec 5) (a : BitVec 5) (b : BitVec 5) (fa : Bool) (fb : Bool) (dbl : Bool)
  /-- PAMOCAS (R204). Pool atomic compare-and-swap. -/
  | pamocas (d : BitVec 5) (a : BitVec 5) (b : BitVec 5) (fa : Bool) (fb : Bool) (dbl : Bool)
  /-- BAR (R217). Releases, arrives at a group barrier, waits for all members, then acquires. -/
  | bar (s : BitVec 3) (grp : BitVec 8)
  /-- GRPINFO (R218). Reads a group's size, rank, membership and scope. -/
  | grpinfo (d : BitVec 5) (grp : BitVec 8)
  /-- TRAP (R259). Raises a software trap with code n. -/
  | trap (n : BitVec 10)
  /-- TFENCE (R260). Waits for all older work and traps if an enabled flag is set. -/
  | tfence
  /-- TRET (R261). Returns from the handler to TPC, restoring target registers and restarting stopped engines. -/
  | tret
  /-- TRET_SKIP (R261). Returns to the instruction or macro step after TPC. -/
  | tretSkip
  /-- BKPT (R259). Traps as a breakpoint, or with a debugger attached retires and requests a debug halt. -/
  | bkpt (n : BitVec 10)
  /-- DSTEP (R262). Arms instruction or grid stepping for the next TRET. -/
  | dstep (m : BitVec 2)
  /-- TXSTAT (R264). Reads the launch's transaction status. -/
  | txstat (d : BitVec 5)
  /-- TXABORT (R266). Aborts the launch with a program code. -/
  | txabort (a : BitVec 5) (fa : Bool)
  /-- YIELD (R267). Offers a save point, taking a pending save at once. -/
  | yield (d : BitVec 5)
  /-- SLEEP (R268). Sleeps until a completion on a masked set of slots or a trap. -/
  | sleep (d : BitVec 5) (a : BitVec 5) (fa : Bool)
  /-- SLEEPT (R269). Sleeps until the region counter reaches a deadline. -/
  | sleept (a : BitVec 5) (fa : Bool)
  /-- DSTAT (R265). Reads the core's debug status. -/
  | dstat (d : BitVec 5)
  /-- DISC (R270). Reads a discovery-table entry. -/
  | disc (d : BitVec 5) (a : BitVec 5) (fa : Bool)
  /-- PRD (R271). Reads a power region register over the sideband. -/
  | prd (d : BitVec 5) (a : BitVec 5) (fa : Bool)
  /-- LWAKE (R272). Posts a wake of the links to an ordinal or of the ring ports. -/
  | lwake (a : BitVec 5) (fa : Bool)
  /-- LWAKE_WAIT (R272). Wakes links and retires when all are at full width. -/
  | lwakeWait (a : BitVec 5) (fa : Bool)
  /-- CHOLD (R275). Extends the lease of an open circuit at the port. -/
  | chold (d : BitVec 5) (a : BitVec 5) (h : BitVec 3) (fa : Bool)
  /-- CCLOSE (R275). Closes a circuit after its earlier CSTREAM commands. -/
  | cclose (h : BitVec 3)
  /-- CSTAT (R273). Marks a register empty and fills it with a circuit handle record. -/
  | cstat (d : BitVec 5) (h : BitVec 3)
  /-- OVERLAY_LOAD_DONE (R86). Completion of an overlay load: target registers go idle and execution continues after the OVL. -/
  | overlayLoadDone (err : Bool)
  /-- CORE_DONE (R87). When the EXIT drain ends, the core reports done and its open circuits are released. -/
  | coreDone (launch : Nat) (ord : Nat)
  /-- TARGET_FETCH_READY (R64). A target register's fetch finishes 4 cy after issue and becomes ready, or faulted on an uncorrectable error. -/
  | targetFetchReady (b : BitVec 3) (err : Bool)
  /-- GLD_DATA_RETURN (R84). Load data arrives, fills the destination and clears its empty bit, or an uncorrectable error aborts the launch. -/
  | gldDataReturn (idx : Nat) (err : Bool)
  /-- ENGINE_STATUS_FILL (R16). An engine status read reaches its engine or token file and fills its empty destination. -/
  | engineStatusFill (idx : Nat)
  /-- ENGINE_COMMAND_START (R114). A queued command at the head of its queue with all waits reached starts, reading its descriptors. -/
  | engineCommandStart (q : Nat)
  /-- ENGINE_COMMAND_COMPLETE (R114). A command whose work has ended and whose writes have performed completes, merging flags and advancing its slot's completed counter. -/
  | engineCommandComplete (q : Nat)
  /-- ENGINE_FAULT (R117). A pending engine fault is taken at the next instruction boundary of the sequencer. -/
  | engineFault
  /-- LATE_COPY_TRAP (R142). A copy with LATE 2 that completed after its promise raises a trap at the next boundary. -/
  | lateCopyTrap
  /-- STREAM_TOKEN_DELIVER (R120). A read stream's token read completes and is presented at its port. -/
  | streamTokenDeliver (se : BitVec 2)
  /-- STREAM_TOKEN_COMMIT (R120). A write stream writes a token gathered from the row sinks to the pool, memory or the output queue. -/
  | streamTokenCommit (se : BitVec 2)
  /-- GRID_STEP (R128). When every read port holds its token, each non-NOP cluster computes once and results move to latches, sinks and queues. -/
  | gridStep
  /-- GMMA_KBLOCK (R134). A K-block of GMMA operands has arrived and its partials are accumulated. -/
  | gmmaKblock
  /-- GMMA_PREEMPT_CUT (R135). 4,160 cy after a pre-emption request with no retire point, the GMMA is cut and work since the last retire is discarded. -/
  | gmmaPreemptCut
  /-- RELIEF_GRANT (R170). A core stuck for 64 cycles with a full data queue receives 64 bytes from the relief pool. -/
  | reliefGrant
  /-- DEADLOCK_TRAP (R171). A stuck core that cannot be relieved takes a deadlock trap, or its launch aborts after EXIT. -/
  | deadlockTrap
  /-- ATOMIC_APPLY (R200). An atomic reaches the arithmetic unit of its home slice and is applied in arbitration order. -/
  | atomicApply (src : ReqSrc)
  /-- ATOMIC_RESULT_RETURN (R199). An atomic's old value arrives and clears the pending interlock of its destination. -/
  | atomicResultReturn (idx : Nat)
  /-- RED_APPLY (R206). A reduction arrives at its home and is applied, or held in a paired launch. -/
  | redApply (src : ReqSrc)
  /-- REDO_ARRIVAL (R208). A REDO contribution arrives at its home and is applied, held for its round, or refused. -/
  | redoArrival (src : ReqSrc)
  /-- REDO_RESEND (R208). A refused REDO contribution is resent 1 us later. -/
  | redoResend (idx : Nat)
  /-- LINE_REGION_APPLY (R212). The home applies a line region indivisibly and the loads fill their destinations. -/
  | lineRegionApply (src : ReqSrc)
  /-- SEMAPHORE_ADD (R215). An add arrives at the hub and is applied modulo 2^32. -/
  | semaphoreAdd (idx : Nat)
  /-- STEP_TRAP (R262). An armed step fires after one instruction retires or at a grid cut point. -/
  | stepTrap (grid : Bool)
  /-- SLEEPT_WAKE (R269). The region counter reaches a SLEEPT deadline and the instruction retires. -/
  | sleeptWake
  /-- LEASE_EXPIRY (R275). A circuit's lease runs out and the circuit is cut with cause 0. -/
  | leaseExpiry (h : BitVec 3)
  /-- STORE_APPLY (R234). A store reaches a visibility point or its home and is applied under the transaction rules. -/
  | storeApply (src : ReqSrc)
  /-- HUB_LINE_DRAIN (R235). The hub line buffer drains its oldest line to its home. -/
  | hubLineDrain (hub : Nat)
  /-- HOME_SWEEP (R292). The home dies' background sweep folds committed ways and reclaims ways. -/
  | homeSweep (line : Nat)
  /-- PAGE_WALK (R233). A walker finishes a translation walk and fills the TLBs or reports a fault. -/
  | pageWalk (va : DWord) (write : Bool)
  /-- TLB_INVALIDATE (R233). The management core's invalidation of a changed mapping reaches the launch's TLBs. -/
  | tlbInvalidate (launch : Nat) (page : Nat)
  /-- PAGER_FAULT (R327). An engine translation fault in pager mode goes to the management core, which zero-fills, asks the host or aborts. -/
  | pagerFault (q : Nat)
  /-- LMBOX (R312). Host write announcing new launch-queue entries. -/
  | lmbox (queue : BitVec 6) (tail : BitVec 16)
  /-- QCFG (R312). Host write configuring a launch queue, ignored with the error bit set when illegal. -/
  | qcfg (queue : BitVec 6) (value : DWord)
  /-- QERR (R313). Host write-one-to-clear of queue error bits. -/
  | qerr (value : DWord)
  /-- EVQHEAD (R313). Host advances the event-ring head, freeing entries. -/
  | evqhead (value : DWord)
  /-- PGRESP (R313). Host answer to a page request: map the supplied page or abort. -/
  | pgresp (slot : BitVec 10) (ok : Bool)
  /-- IKEY (R313). Host write of an image key or key-valid bits, ignored while LOCK is set. -/
  | ikey (write : KeyWrite)
  /-- DEVICE_REGISTER_WRITE (R313). Host write to a device register with no behaviour of its own. -/
  | deviceRegisterWrite (offset : BitVec 16) (value : DWord)
  /-- LAUNCH_SUBMIT (R314). The scheduler reads a queue entry and checks the launch record or graph, rejecting or queuing it. -/
  | launchSubmit (queue : BitVec 6)
  /-- LAUNCH_BIND (R315). A waiting launch is bound when its whole core count is free, pre-empting lower priorities as needed. -/
  | launchBind (launch : Nat) (place : List CoreId)
  /-- LAUNCH_AGING (R315). A launch that has waited AGE us rises one priority level. -/
  | launchAging (launch : Nat)
  /-- BIND (R323). Bind record: loads the image, sets registers and starts a core. -/
  | bind (slot : CoreId)
  /-- RESUME (R329). Bind record: restores a saved core and restarts its engines. -/
  | resume (slot : CoreId)
  /-- SAVE (R329). Bind record: stops issue and cuts engines to save a core. -/
  | save (slot : CoreId)
  /-- CORE_SAVED (R330). Once the core is quiesced the save area is written and the slot becomes saved. -/
  | coreSaved (slot : CoreId)
  /-- KILL (R329). Bind record: stops a core at once and discards its queues. -/
  | kill (slot : CoreId)
  /-- HALT (R331). Bind record: freezes a core for a debug halt. -/
  | halt (slot : CoreId)
  /-- RELEASE_HALT (R331). Bind record: drains holding buffers and resumes halted cores. -/
  | releaseHalt (slot : CoreId)
  /-- DEBUG_HALT_REQUEST (R331). A debugger requests a halt of the launch through the management core. -/
  | debugHaltRequest (launch : Nat)
  /-- SEQUENCER_START (R375). Cores of a power region start their sequencers in their 200 ns step after binding. -/
  | sequencerStart (launch : Nat) (pkg : BitVec 7) (region : BitVec 4)
  /-- GRID_ADMISSION (R376). At the end of a cycle, ready grid commands are admitted against the capo limit of the window. -/
  | gridAdmission (region : BitVec 4)
  /-- DROOP_ALARM (R382). Supply below 92% of nominal halves the region's clock and may lower its step. -/
  | droopAlarm (region : BitVec 4) (mv : BitVec 16)
  /-- DROOP_STRETCH_END (R382). At a window boundary after 1 us of recovered supply the stretch ends. -/
  | droopStretchEnd (region : BitVec 4)
  /-- CLOCK_STEP_HOLD_END (R382). A 10 ms step lowering expires and the step is raised by one. -/
  | clockStepHoldEnd (region : BitVec 4)
  /-- THERMAL_SAMPLE (R383). The management core samples sensors each 10 us and steps, caps or powers off the region. -/
  | thermalSample (region : BitVec 4) (temps : Vector (BitVec 12) 4)
  /-- LAUNCH_READY (R300). A launch whose cores are done and writes applied becomes ready; held reductions apply and hashes are formed. -/
  | launchReady (launch : Nat)
  /-- PAIR_COMPARE (R310). With both copies ready, the hash sums are compared and the primary commits or both are doomed. -/
  | pairCompare (launch : Nat)
  /-- PAIR_WAIT_EXPIRY (R310). The PAIRWAIT limit expires and both copies are doomed. -/
  | pairWaitExpiry (launch : Nat)
  /-- COMMIT_PREPARE (R301). Prepare message: home dies mark the hallmark committing, invalidate and acknowledge. -/
  | commitPrepare (launch : Nat)
  /-- COMMIT_FLIP (R301). With all acknowledgements, the stamp advances and the flip makes the hallmark committed. -/
  | commitFlip (launch : Nat)
  /-- WITNESS_QUERY (R369). A committing package with no flip after 1 ms asks the witness and flips or aborts. -/
  | witnessQuery (launch : Nat)
  /-- ABORT_DECIDE (R305). The scheduler dooms a launch in every package and stops its cores. -/
  | abortDecide (launch : Nat)
  /-- LAUNCH_ABORTED (R305). Once every core has stopped, the hallmark becomes aborted and the abort record is written. -/
  | launchAborted (launch : Nat)
  /-- KERNEL_NODE (R321). An eligible kernel node launches and ends on commit or fails on abort. -/
  | kernelNode (graph : Nat) (node : Nat)
  /-- CONDITION_NODE (R321). Reads its word from committed state and chooses a target. -/
  | conditionNode (graph : Nat) (node : Nat)
  /-- SWITCH_NODE (R321). Reads its word and chooses one of up to eight targets. -/
  | switchNode (graph : Nat) (node : Nat)
  /-- LOOP_NODE (R282). Evaluates its condition and runs the body again or ends, with a limit. -/
  | loopNode (graph : Nat) (node : Nat)
  /-- JOIN_NODE (R321). Ends once all its sources have finished. -/
  | joinNode (graph : Nat) (node : Nat)
  /-- DIE_LOSS (R328). A lost die aborts exactly the launches whose touched-dies mask names it. -/
  | dieLoss (pkg : BitVec 7) (die : BitVec 7)
  /-- PACKAGE_LOSS (R328). A lost package aborts the launches whose hall mask names it. -/
  | packageLoss (pkg : BitVec 7)
  /-- STATION_LOSS (R369). The neighbours of a lost ring station join the rings into one loop. -/
  | stationLoss (pkg : BitVec 7)
  /-- HEARTBEAT_MISS (R373). Three missed sideband heartbeats detect the loss of a die. -/
  | heartbeatMiss (pkg : BitVec 7) (die : BitVec 7)
  /-- UNCORRECTABLE_ERROR (R389). An uncorrectable error at a home aborts the named launches or poisons committed bytes. -/
  | uncorrectableError (place : ErrPlace)
  /-- HOST_READ (R249). A CXL.mem read returns committed state, stalling on a committing line. -/
  | hostRead (pa : Nat) (len : Nat)
  /-- HOST_WRITE (R249). A CXL.mem write applies to committed state and aborts launches holding a shadow of the line. -/
  | hostWrite (pa : Nat) (bytes : List Byte)
  /-- HOST_SNOOP (R248). A CXL.cache snoop keeps cached host lines coherent in the layer caches. -/
  | hostSnoop (line : Nat) (invalidate : Bool)
  /-- FLIT_FORWARD (R340). A router forwards a packet flit along dimension order when it holds a credit. -/
  | flitForward (router : Nat)
  /-- LINK_REPLAY (R342). A NAK for a failed CRC resends flits from the replay buffer. -/
  | linkReplay (link : Nat)
  /-- LINK_RETRAIN (R352). A link retrains, keeping packet state and cutting circuits that cross it. -/
  | linkRetrain (link : Nat) (lanes : LaneOutcome)
  /-- LINK_FAILURE (R353). A retrain that trains no lane within 2 us fails the link. -/
  | linkFailure (link : Nat)
  /-- DETOUR_LOAD (R353). Detour routes are set and waiting packets take them. -/
  | detourLoad (link : Nat)
  /-- LINK_NARROW (R354). A link idle for 1 us narrows to a quarter of its lanes. -/
  | linkNarrow (link : Nat)
  /-- LINK_SLEEP (R354). A packet-plane link sleeps after 100 us with no bound core. -/
  | linkSleep (link : Nat)
  /-- LINK_WAKE (R354). Traffic, a probe, a bind or LWAKE returns a link to full width. -/
  | linkWake (link : Nat)
  /-- PACKET_PLACEMENT (R143). A SEND data packet is placed in the buffer bound to its label, or refused. -/
  | packetPlacement (idx : Nat)
  /-- PLACEMENT_ACKNOWLEDGEMENT (R145). A placement acknowledgement reaches the sender and the SEND completes. -/
  | placementAcknowledgement (idx : Nat)
  /-- REOFFER (R141). A refused or waiting placement or remote access is offered again after 1 us. -/
  | reoffer (idx : Nat)
  /-- CLASP_PLACEMENT (R336). The clasp packet is placed and arms circuit placement at its end offset. -/
  | claspPlacement (idx : Nat)
  /-- METER_INTERVAL_END (R335). A meter interval ends: the count restarts, idle entries free and idle promoted circuits release. -/
  | meterIntervalEnd (entry : Nat)
  /-- PROBE_ACTION (R348). Every 4 cy a probe reserves, backtracks, confirms or gives up. -/
  | probeAction (idx : Nat)
  /-- CIRCUIT_BEAT (R345). A circuit data beat arrives and its words are placed unchecked. -/
  | circuitBeat (idx : Nat)
  /-- WINDOW_CHECK (R345). A check beat arrives and the window passes, fails, is refused or is out of range. -/
  | windowCheck (idx : Nat)
  /-- WINDOW_ACKNOWLEDGEMENT (R345). A window acknowledgement reaches the sender, advancing RESUME or completing the command. -/
  | windowAcknowledgement (idx : Nat)
  /-- WINDOW_NAK (R345). A window NAK reaches the sender, which resends, reoffers or ends with ERR. -/
  | windowNak (idx : Nat)
  /-- CIRCUIT_RELEASE (R350). A circuit release message frees the crosspoints of a promoted circuit. -/
  | circuitRelease (idx : Nat)
  /-- RING_REQUEST (R366). A ring flit reaches its target station and is executed under the duplicate filter. -/
  | ringRequest (idx : Nat)
  /-- RING_RESPONSE (R365). An acknowledgement, response or NACK reaches the source station. -/
  | ringResponse (idx : Nat)
  /-- RING_RESEND (R365). A request is resent 0.5 us after a NACK or 100 us without an answer. -/
  | ringResend (idx : Nat)
  /-- RING_FRAME (R362). A frame trailer is verified and its flits released, or the frame is replayed. -/
  | ringFrame (link : Nat) (verified : Bool)
  /-- FRAME_CLOSE (R362). A frame that has not filled closes after 64 ns. -/
  | frameClose (link : Nat)
  /-- KEY_UPDATE (R371). A link's AES keys are updated before the frame counter reaches 2^32. -/
  | keyUpdate (link : Nat)
  /-- BOOT (R388). The package boots through power sequencing, authentication, test, training, offsets and tables. -/
  | boot
  /-- ILLEGAL_INSTRUCTION (R41). A fetched word that encodes no instruction raises a precise illegal-instruction trap with the word in TADDR. -/
  | illegalInstruction (w : Word)
  /-- REMOTE_POOL_ACCESS (R141). Copy data for, or a read of, a remote-pool address reaches the core that holds the ordinal and is placed, served or refused, moving the target buffer's state. -/
  | remotePoolAccess (idx : Nat)
  /-- HOME_READ (R291). A read request reaches its home slice, where the version for the reader's snapshot is chosen, the line may fold, a read-checked reader is listed, or the read stalls on a committing line. -/
  | homeRead (src : ReqSrc)
  /-- LATENCY_RESULT_DELIVERY (R49). A multiply, divide, pool load or vector result is written after its latency and releases the interlock on its destination. -/
  | latencyResultDelivery (idx : Nat)
  /-- CXL_WRITE_COMPLETION (R248). A CXL write completion for a store to host memory arrives from the host, and releases a package-scope release that waits on it. -/
  | cxlWriteCompletion (idx : Nat)
  /-- BACK_INVALIDATE_RESPONSE (R249). The host answers a back-invalidate snoop, after which the write to the host-cached line may be returned to readers. -/
  | backInvalidateResponse (line : Nat)
  /-- CAPO_WRITE (R376). The management core writes a region's capo register, changing the current-step limit against which grid commands are admitted. -/
  | capoWrite (region : BitVec 4) (limit : BitVec 16)
  /-- CLOCK_STEP_CHANGE (R383). A decided change of a region's clock step takes effect at the next 200 ns window boundary. -/
  | clockStepChange (region : BitVec 4)
  deriving DecidableEq, Repr

end Sys2Proof
end

