-- ==== Sys2Proof/WellFormed.lean ====
section
/-! DEFINITION. Which terms of `Instr` are well formed: the field values that a word must have beyond the fixed bits of
its encoding, or it encodes no instruction (R41). The rule of each check is that of the instruction. A row of the table
that names a register of `MFS` or `MTS` takes only that register's number. -/

namespace Sys2Proof

/-- Whether the operation is an instruction with a 32-bit word, as against an event of another unit. -/
def Instr.isWord : Instr → Bool
  | .add _ _ _ _ _ => true
  | .sub _ _ _ _ _ => true
  | .andR _ _ _ _ _ => true
  | .orR _ _ _ _ _ => true
  | .xorR _ _ _ _ _ => true
  | .andn _ _ _ _ _ => true
  | .addw _ _ _ _ _ => true
  | .subw _ _ _ _ _ => true
  | .addsat _ _ _ _ _ => true
  | .subsat _ _ _ _ _ => true
  | .sll _ _ _ _ _ => true
  | .srl _ _ _ _ _ => true
  | .sra _ _ _ _ _ => true
  | .rol _ _ _ _ _ => true
  | .ror _ _ _ _ _ => true
  | .sllw _ _ _ _ _ => true
  | .srlw _ _ _ _ _ => true
  | .sraw _ _ _ _ _ => true
  | .mul _ _ _ _ _ => true
  | .mulh _ _ _ _ _ => true
  | .mulhu _ _ _ _ _ => true
  | .mulhsu _ _ _ _ _ => true
  | .mulw _ _ _ _ _ => true
  | .div _ _ _ _ _ => true
  | .divu _ _ _ _ _ => true
  | .rem _ _ _ _ _ => true
  | .remu _ _ _ _ _ => true
  | .divw _ _ _ _ _ => true
  | .divuw _ _ _ _ _ => true
  | .remw _ _ _ _ _ => true
  | .remuw _ _ _ _ _ => true
  | .min _ _ _ _ _ => true
  | .max _ _ _ _ _ => true
  | .minu _ _ _ _ _ => true
  | .maxu _ _ _ _ _ => true
  | .clz _ _ _ => true
  | .popc _ _ _ => true
  | .sel _ _ _ _ _ _ _ => true
  | .scadd _ _ _ _ _ _ => true
  | .scaddx _ _ _ _ _ _ => true
  | .scaddz _ _ _ _ _ _ => true
  | .addi _ _ _ => true
  | .andi _ _ _ => true
  | .ori _ _ _ => true
  | .xori _ _ _ => true
  | .addiw _ _ _ => true
  | .slli _ _ _ => true
  | .srli _ _ _ => true
  | .srai _ _ _ => true
  | .rori _ _ _ => true
  | .slliw _ _ _ => true
  | .srliw _ _ _ => true
  | .sraiw _ _ _ => true
  | .cmpeqi _ _ _ => true
  | .cmpnei _ _ _ => true
  | .cmplti _ _ _ => true
  | .cmpgei _ _ _ => true
  | .cmpltui _ _ _ => true
  | .cmpgeui _ _ _ => true
  | .lui _ _ => true
  | .pld _ _ _ _ => true
  | .pldIndexed _ _ _ _ => true
  | .pst _ _ _ _ => true
  | .pstIndexed _ _ _ _ => true
  | .gld _ _ _ _ => true
  | .gldIndexed _ _ _ _ => true
  | .gst _ _ _ _ _ => true
  | .gstIndexed _ _ _ _ _ => true
  | .pbr _ _ => true
  | .br _ _ _ => true
  | .brl _ _ _ => true
  | .cmpeq _ _ _ _ _ => true
  | .cmpne _ _ _ _ _ => true
  | .cmplt _ _ _ _ _ => true
  | .cmpge _ _ _ _ _ => true
  | .cmpltu _ _ _ _ _ => true
  | .cmpgeu _ _ _ _ _ => true
  | .pand _ _ _ => true
  | .por _ _ _ => true
  | .pxor _ _ _ => true
  | .pandn _ _ _ => true
  | .pnot _ _ => true
  | .pget _ _ => true
  | .pset _ _ _ => true
  | .pbrr _ _ _ => true
  | .loop _ _ _ => true
  | .loopi _ _ _ => true
  | .lbrk _ => true
  | .mcall _ _ => true
  | .mstore _ _ _ => true
  | .mov _ _ => true
  | .mfs _ _ => true
  | .mfsTcause _ => true
  | .mfsEngineStatus _ _ => true
  | .mts _ _ => true
  | .mtsPartw _ => true
  | .mtsFpctl _ => true
  | .mtsFpflag _ => true
  | .mtsLc _ _ => true
  | .mtsMsdepth _ => true
  | .mtsQht _ _ => true
  | .cyc _ => true
  | .nop => true
  | .ovl _ _ => true
  | .exit => true
  | .vaddF32 _ _ _ _ => true
  | .vsubF32 _ _ _ _ => true
  | .vmulF32 _ _ _ _ => true
  | .vfmaF32 _ _ _ _ => true
  | .vfmsF32 _ _ _ _ => true
  | .vfnmaF32 _ _ _ _ => true
  | .vminF32 _ _ _ => true
  | .vmaxF32 _ _ _ => true
  | .vabsF32 _ _ => true
  | .vnegF32 _ _ => true
  | .vexp2 _ _ _ => true
  | .vrcp _ _ _ => true
  | .vrsq _ _ _ => true
  | .vlog2 _ _ _ => true
  | .vaddBf16 _ _ _ _ => true
  | .vsubBf16 _ _ _ _ => true
  | .vmulBf16 _ _ _ _ => true
  | .vfmaBf16 _ _ _ _ => true
  | .vfmsBf16 _ _ _ _ => true
  | .vfnmaBf16 _ _ _ _ => true
  | .vminBf16 _ _ _ => true
  | .vmaxBf16 _ _ _ => true
  | .vabsBf16 _ _ => true
  | .vnegBf16 _ _ => true
  | .vaddI32 _ _ _ => true
  | .vsubI32 _ _ _ => true
  | .vmulI32 _ _ _ => true
  | .vmulhI32 _ _ _ => true
  | .vmulhZ32 _ _ _ => true
  | .vaddsI32 _ _ _ => true
  | .vsubsI32 _ _ _ => true
  | .vaddsZ32 _ _ _ => true
  | .vsubsZ32 _ _ _ => true
  | .vminI32 _ _ _ => true
  | .vmaxI32 _ _ _ => true
  | .vminZ32 _ _ _ => true
  | .vmaxZ32 _ _ _ => true
  | .vand _ _ _ => true
  | .vor _ _ _ => true
  | .vxor _ _ _ => true
  | .vandn _ _ _ => true
  | .vsll _ _ _ => true
  | .vsrl _ _ _ => true
  | .vsra _ _ _ => true
  | .vslli _ _ _ => true
  | .vsrli _ _ _ => true
  | .vsrai _ _ _ => true
  | .vcmpF32 _ _ _ _ => true
  | .vcmpI32 _ _ _ _ => true
  | .vcmpZ32 _ _ _ _ => true
  | .qand _ _ _ => true
  | .qor _ _ _ => true
  | .qxor _ _ _ => true
  | .qandn _ _ _ => true
  | .qnot _ _ => true
  | .qtop _ => true
  | .vcvtBf16F32 _ _ _ _ _ => true
  | .vcvtF16F32 _ _ _ _ _ => true
  | .vcvtF32Bf16Lo _ _ => true
  | .vcvtF32Bf16Hi _ _ => true
  | .vcvtF32F16Lo _ _ => true
  | .vcvtF32F16Hi _ _ => true
  | .vcvtE4m3F32 _ _ _ _ _ _ => true
  | .vcvtE5m2F32 _ _ _ _ _ _ => true
  | .vcvtF32E4m3 _ _ _ _ => true
  | .vcvtF32E5m2 _ _ _ _ => true
  | .vcvtE2m1F32 _ _ _ _ _ _ => true
  | .vcvtF32E2m1 _ _ _ _ => true
  | .vcvtI32F32 _ _ _ => true
  | .vcvtZ32F32 _ _ _ => true
  | .vcvtF32I32 _ _ _ => true
  | .vcvtF32Z32 _ _ _ => true
  | .vbscale _ _ _ _ _ => true
  | .vbamax _ _ _ => true
  | .vbpack _ _ _ _ _ _ _ _ => true
  | .vbunpk _ _ _ _ _ _ _ _ => true
  | .vraddF32 _ _ _ => true
  | .vrmaxF32 _ _ => true
  | .vrminF32 _ _ => true
  | .vramaxF32 _ _ => true
  | .vraddI32 _ _ => true
  | .vrmaxI32 _ _ => true
  | .vrminI32 _ _ => true
  | .vperm _ _ _ => true
  | .vrot _ _ _ => true
  | .vzipl _ _ _ => true
  | .vziph _ _ _ => true
  | .vmov _ _ => true
  | .vbcast _ _ => true
  | .vins _ _ _ => true
  | .vext _ _ _ => true
  | .vextz _ _ _ => true
  | .s2q _ _ => true
  | .q2s _ _ => true
  | .mpush _ => true
  | .minv => true
  | .mpop => true
  | .brmz _ => true
  | .vpld _ _ _ => true
  | .vpldIndexed _ _ _ => true
  | .vpst _ _ _ => true
  | .vpstIndexed _ _ _ => true
  | .vlda _ _ _ => true
  | .vldaIndexed _ _ _ => true
  | .vsta _ _ _ => true
  | .vstaIndexed _ _ _ => true
  | .vgld _ _ _ => true
  | .vgldIndexed _ _ _ => true
  | .vgst _ _ _ _ => true
  | .vgstIndexed _ _ _ _ => true
  | .srun _ _ _ _ _ => true
  | .gldc _ _ _ _ _ => true
  | .ggo _ _ _ _ _ => true
  | .gmma _ _ _ _ _ => true
  | .copy _ _ _ _ _ => true
  | .copy2d _ _ _ _ _ => true
  | .send _ _ _ _ _ => true
  | .lbind _ _ _ _ _ => true
  | .lunbind _ _ _ _ _ => true
  | .copen _ _ _ _ _ => true
  | .cstream _ _ _ _ _ => true
  | .gsel _ => true
  | .snest _ _ _ _ => true
  | .gstop => true
  | .gfeed _ _ => true
  | .gpop _ => true
  | .pqpop _ => true
  | .gbank _ => true
  | .kwait _ => true
  | .kstat _ _ => true
  | .bufdef _ _ _ _ _ => true
  | .bufrel _ => true
  | .bufrelFree _ => true
  | .bufstat _ _ => true
  | .bufwait _ _ => true
  | .mark _ => true
  | .fenceRel _ => true
  | .fenceAcq _ => true
  | .fenceFull _ => true
  | .amoadd _ _ _ _ _ _ _ => true
  | .amoand _ _ _ _ _ _ _ => true
  | .amoor _ _ _ _ _ _ _ => true
  | .amoxor _ _ _ _ _ _ _ => true
  | .amomin _ _ _ _ _ _ _ => true
  | .amomax _ _ _ _ _ _ _ => true
  | .amominz _ _ _ _ _ _ _ => true
  | .amomaxz _ _ _ _ _ _ _ => true
  | .amoswap _ _ _ _ _ _ _ => true
  | .amocas _ _ _ _ _ _ _ => true
  | .redF32 _ _ _ _ => true
  | .redBf16 _ _ _ _ => true
  | .redI32 _ _ _ _ => true
  | .redF32max _ _ _ _ => true
  | .redoF32 _ _ _ _ => true
  | .redoBf16 _ _ _ _ => true
  | .redoI32 _ _ _ _ => true
  | .redoF32max _ _ _ _ => true
  | .alr _ _ => true
  | .alre => true
  | .sembind _ _ _ => true
  | .sembindOff _ => true
  | .semadd _ _ _ _ _ _ => true
  | .semwait _ _ _ _ _ => true
  | .pamoadd _ _ _ _ _ _ => true
  | .pamoand _ _ _ _ _ _ => true
  | .pamoor _ _ _ _ _ _ => true
  | .pamoxor _ _ _ _ _ _ => true
  | .pamomin _ _ _ _ _ _ => true
  | .pamomax _ _ _ _ _ _ => true
  | .pamominz _ _ _ _ _ _ => true
  | .pamomaxz _ _ _ _ _ _ => true
  | .pamoswap _ _ _ _ _ _ => true
  | .pamocas _ _ _ _ _ _ => true
  | .bar _ _ => true
  | .grpinfo _ _ => true
  | .trap _ => true
  | .tfence => true
  | .tret => true
  | .tretSkip => true
  | .bkpt _ => true
  | .dstep _ => true
  | .txstat _ => true
  | .txabort _ _ => true
  | .yield _ => true
  | .sleep _ _ _ => true
  | .sleept _ _ => true
  | .dstat _ => true
  | .disc _ _ _ => true
  | .prd _ _ _ => true
  | .lwake _ _ => true
  | .lwakeWait _ _ => true
  | .chold _ _ _ _ => true
  | .cclose _ => true
  | .cstat _ _ => true
  | .overlayLoadDone _ => false
  | .coreDone _ _ => false
  | .targetFetchReady _ _ => false
  | .gldDataReturn _ _ => false
  | .engineStatusFill _ => false
  | .engineCommandStart _ => false
  | .engineCommandComplete _ => false
  | .engineFault => false
  | .lateCopyTrap => false
  | .streamTokenDeliver _ => false
  | .streamTokenCommit _ => false
  | .gridStep => false
  | .gmmaKblock => false
  | .gmmaPreemptCut => false
  | .reliefGrant => false
  | .deadlockTrap => false
  | .atomicApply _ => false
  | .atomicResultReturn _ => false
  | .redApply _ => false
  | .redoArrival _ => false
  | .redoResend _ => false
  | .lineRegionApply _ => false
  | .semaphoreAdd _ => false
  | .stepTrap _ => false
  | .sleeptWake => false
  | .leaseExpiry _ => false
  | .storeApply _ => false
  | .hubLineDrain _ => false
  | .homeSweep _ => false
  | .pageWalk _ _ => false
  | .tlbInvalidate _ _ => false
  | .pagerFault _ => false
  | .lmbox _ _ => false
  | .qcfg _ _ => false
  | .qerr _ => false
  | .evqhead _ => false
  | .pgresp _ _ => false
  | .ikey _ => false
  | .deviceRegisterWrite _ _ => false
  | .launchSubmit _ => false
  | .launchBind _ _ => false
  | .launchAging _ => false
  | .bind _ => false
  | .resume _ => false
  | .save _ => false
  | .coreSaved _ => false
  | .kill _ => false
  | .halt _ => false
  | .releaseHalt _ => false
  | .debugHaltRequest _ => false
  | .sequencerStart _ _ _ => false
  | .gridAdmission _ => false
  | .droopAlarm _ _ => false
  | .droopStretchEnd _ => false
  | .clockStepHoldEnd _ => false
  | .thermalSample _ _ => false
  | .launchReady _ => false
  | .pairCompare _ => false
  | .pairWaitExpiry _ => false
  | .commitPrepare _ => false
  | .commitFlip _ => false
  | .witnessQuery _ => false
  | .abortDecide _ => false
  | .launchAborted _ => false
  | .kernelNode _ _ => false
  | .conditionNode _ _ => false
  | .switchNode _ _ => false
  | .loopNode _ _ => false
  | .joinNode _ _ => false
  | .dieLoss _ _ => false
  | .packageLoss _ => false
  | .stationLoss _ => false
  | .heartbeatMiss _ _ => false
  | .uncorrectableError _ => false
  | .hostRead _ _ => false
  | .hostWrite _ _ => false
  | .hostSnoop _ _ => false
  | .flitForward _ => false
  | .linkReplay _ => false
  | .linkRetrain _ _ => false
  | .linkFailure _ => false
  | .detourLoad _ => false
  | .linkNarrow _ => false
  | .linkSleep _ => false
  | .linkWake _ => false
  | .packetPlacement _ => false
  | .placementAcknowledgement _ => false
  | .reoffer _ => false
  | .claspPlacement _ => false
  | .meterIntervalEnd _ => false
  | .probeAction _ => false
  | .circuitBeat _ => false
  | .windowCheck _ => false
  | .windowAcknowledgement _ => false
  | .windowNak _ => false
  | .circuitRelease _ => false
  | .ringRequest _ => false
  | .ringResponse _ => false
  | .ringResend _ => false
  | .ringFrame _ _ => false
  | .frameClose _ => false
  | .keyUpdate _ => false
  | .boot => false
  | .illegalInstruction _ => false
  | .remotePoolAccess _ => false
  | .homeRead _ => false
  | .latencyResultDelivery _ => false
  | .cxlWriteCompletion _ => false
  | .backInvalidateResponse _ => false
  | .capoWrite _ _ => false
  | .clockStepChange _ => false

/-- The field values an instruction may have (R34, R35, R41). `LUNBIND` is the word of `LBIND`, told apart by a
parameter register (R144), so its own term stands for no word. (DEDUCED, log entry 22.) -/
def Instr.wf : Instr → Bool
  | .add _ _ _ _ _ => true
  | .sub _ _ _ _ _ => true
  | .andR _ _ _ _ _ => true
  | .orR _ _ _ _ _ => true
  | .xorR _ _ _ _ _ => true
  | .andn _ _ _ _ _ => true
  | .addw _ _ _ _ _ => true
  | .subw _ _ _ _ _ => true
  | .addsat _ _ _ _ _ => true
  | .subsat _ _ _ _ _ => true
  | .sll _ _ _ _ _ => true
  | .srl _ _ _ _ _ => true
  | .sra _ _ _ _ _ => true
  | .rol _ _ _ _ _ => true
  | .ror _ _ _ _ _ => true
  | .sllw _ _ _ _ _ => true
  | .srlw _ _ _ _ _ => true
  | .sraw _ _ _ _ _ => true
  | .mul _ _ _ _ _ => true
  | .mulh _ _ _ _ _ => true
  | .mulhu _ _ _ _ _ => true
  | .mulhsu _ _ _ _ _ => true
  | .mulw _ _ _ _ _ => true
  | .div _ _ _ _ _ => true
  | .divu _ _ _ _ _ => true
  | .rem _ _ _ _ _ => true
  | .remu _ _ _ _ _ => true
  | .divw _ _ _ _ _ => true
  | .divuw _ _ _ _ _ => true
  | .remw _ _ _ _ _ => true
  | .remuw _ _ _ _ _ => true
  | .min _ _ _ _ _ => true
  | .max _ _ _ _ _ => true
  | .minu _ _ _ _ _ => true
  | .maxu _ _ _ _ _ => true
  | .clz _ _ _ => true
  | .popc _ _ _ => true
  | .sel _ _ _ _ _ _ _ => true
  | .scadd _ _ _ _ _ _ => true
  | .scaddx _ _ _ _ _ _ => true
  | .scaddz _ _ _ _ _ _ => true
  | .addi _ _ _ => true
  | .andi _ _ _ => true
  | .ori _ _ _ => true
  | .xori _ _ _ => true
  | .addiw _ _ _ => true
  | .slli _ _ _ => true
  | .srli _ _ _ => true
  | .srai _ _ _ => true
  | .rori _ _ _ => true
  | .slliw _ _ _ => true
  | .srliw _ _ _ => true
  | .sraiw _ _ _ => true
  | .cmpeqi _ _ _ => true
  | .cmpnei _ _ _ => true
  | .cmplti _ _ _ => true
  | .cmpgei _ _ _ => true
  | .cmpltui _ _ _ => true
  | .cmpgeui _ _ _ => true
  | .lui _ _ => true
  | .pld _ _ kind _ => decide (kind ≠ 7#3)
  | .pldIndexed _ _ kind _ => decide (kind ≠ 7#3)
  | .pst _ _ _ _ => true
  | .pstIndexed _ _ _ _ => true
  | .gld _ _ kind _ => decide (kind ≠ 7#3)
  | .gldIndexed _ _ kind _ => decide (kind ≠ 7#3)
  | .gst _ _ _ _ _ => true
  | .gstIndexed _ _ _ _ _ => true
  | .pbr _ _ => true
  | .br _ _ _ => true
  | .brl _ _ _ => true
  | .cmpeq _ _ _ _ _ => true
  | .cmpne _ _ _ _ _ => true
  | .cmplt _ _ _ _ _ => true
  | .cmpge _ _ _ _ _ => true
  | .cmpltu _ _ _ _ _ => true
  | .cmpgeu _ _ _ _ _ => true
  | .pand _ _ _ => true
  | .por _ _ _ => true
  | .pxor _ _ _ => true
  | .pandn _ _ _ => true
  | .pnot _ _ => true
  | .pget _ _ => true
  | .pset _ _ _ => true
  | .pbrr _ _ _ => true
  | .loop _ _ len => decide (len ≠ 0#12)
  | .loopi _ _ len => decide (len ≠ 0#12)
  | .lbrk _ => true
  | .mcall a _ => decide (a ≤ 28#5)
  | .mstore _ _ _ => true
  | .mov _ _ => true
  | .mfs _ r => decide (r ≠ 0x20#12 ∧ ¬ (0x08#12 ≤ r ∧ r ≤ 0x11#12))
  | .mfsTcause _ => true
  | .mfsEngineStatus _ r => decide (0x08#12 ≤ r ∧ r ≤ 0x11#12)
  | .mts _ r => decide (3#12 ≤ r ∧ ¬ (0x0C#12 ≤ r ∧ r ≤ 0x16#12))
  | .mtsPartw _ => true
  | .mtsFpctl _ => true
  | .mtsFpflag _ => true
  | .mtsLc _ r => decide (0x12#12 ≤ r ∧ r ≤ 0x15#12)
  | .mtsMsdepth _ => true
  | .mtsQht _ r => decide (0x0C#12 ≤ r ∧ r ≤ 0x11#12)
  | .cyc _ => true
  | .nop => true
  | .ovl _ _ => true
  | .exit => true
  | .vaddF32 _ _ _ rm => decide (rm ≤ 5#3)
  | .vsubF32 _ _ _ rm => decide (rm ≤ 5#3)
  | .vmulF32 _ _ _ rm => decide (rm ≤ 5#3)
  | .vfmaF32 _ _ _ rm => decide (rm ≤ 5#3)
  | .vfmsF32 _ _ _ rm => decide (rm ≤ 5#3)
  | .vfnmaF32 _ _ _ rm => decide (rm ≤ 5#3)
  | .vminF32 _ _ _ => true
  | .vmaxF32 _ _ _ => true
  | .vabsF32 _ _ => true
  | .vnegF32 _ _ => true
  | .vexp2 _ _ _ => true
  | .vrcp _ _ _ => true
  | .vrsq _ _ _ => true
  | .vlog2 _ _ _ => true
  | .vaddBf16 _ _ _ rm => decide (rm ≤ 5#3)
  | .vsubBf16 _ _ _ rm => decide (rm ≤ 5#3)
  | .vmulBf16 _ _ _ rm => decide (rm ≤ 5#3)
  | .vfmaBf16 _ _ _ rm => decide (rm ≤ 5#3)
  | .vfmsBf16 _ _ _ rm => decide (rm ≤ 5#3)
  | .vfnmaBf16 _ _ _ rm => decide (rm ≤ 5#3)
  | .vminBf16 _ _ _ => true
  | .vmaxBf16 _ _ _ => true
  | .vabsBf16 _ _ => true
  | .vnegBf16 _ _ => true
  | .vaddI32 _ _ _ => true
  | .vsubI32 _ _ _ => true
  | .vmulI32 _ _ _ => true
  | .vmulhI32 _ _ _ => true
  | .vmulhZ32 _ _ _ => true
  | .vaddsI32 _ _ _ => true
  | .vsubsI32 _ _ _ => true
  | .vaddsZ32 _ _ _ => true
  | .vsubsZ32 _ _ _ => true
  | .vminI32 _ _ _ => true
  | .vmaxI32 _ _ _ => true
  | .vminZ32 _ _ _ => true
  | .vmaxZ32 _ _ _ => true
  | .vand _ _ _ => true
  | .vor _ _ _ => true
  | .vxor _ _ _ => true
  | .vandn _ _ _ => true
  | .vsll _ _ _ => true
  | .vsrl _ _ _ => true
  | .vsra _ _ _ => true
  | .vslli _ _ _ => true
  | .vsrli _ _ _ => true
  | .vsrai _ _ _ => true
  | .vcmpF32 _ _ _ cond => decide (cond ≤ 5#3)
  | .vcmpI32 _ _ _ cond => decide (cond ≤ 5#3)
  | .vcmpZ32 _ _ _ cond => decide (cond ≤ 5#3)
  | .qand _ _ _ => true
  | .qor _ _ _ => true
  | .qxor _ _ _ => true
  | .qandn _ _ _ => true
  | .qnot _ _ => true
  | .qtop _ => true
  | .vcvtBf16F32 _ _ _ rm _ => decide (rm ≤ 5#3)
  | .vcvtF16F32 _ _ _ rm _ => decide (rm ≤ 5#3)
  | .vcvtF32Bf16Lo _ _ => true
  | .vcvtF32Bf16Hi _ _ => true
  | .vcvtF32F16Lo _ _ => true
  | .vcvtF32F16Hi _ _ => true
  | .vcvtE4m3F32 _ _ _ rm _ rd => decide (rm ≤ 5#3 ∧ rd ≠ 3#2)
  | .vcvtE5m2F32 _ _ _ rm _ rd => decide (rm ≤ 5#3 ∧ rd ≠ 3#2)
  | .vcvtF32E4m3 _ _ _ rd => decide (rd ≠ 3#2)
  | .vcvtF32E5m2 _ _ _ rd => decide (rd ≠ 3#2)
  | .vcvtE2m1F32 _ _ _ rm _ rd => decide (rm ≤ 5#3 ∧ rd ≠ 3#2)
  | .vcvtF32E2m1 _ _ _ rd => decide (rd ≠ 3#2)
  | .vcvtI32F32 _ _ rm => decide (rm ≤ 5#3)
  | .vcvtZ32F32 _ _ rm => decide (rm ≤ 5#3)
  | .vcvtF32I32 _ _ rm => decide (rm ≤ 5#3)
  | .vcvtF32Z32 _ _ rm => decide (rm ≤ 5#3)
  | .vbscale _ _ _ fmt rd => decide (fmt ≠ 3#2 ∧ rd ≠ 3#2)
  | .vbamax _ _ _ => true
  | .vbpack _ _ _ rm pHi fmt rd _ => decide (rm ≤ 5#3 ∧ fmt ≠ 3#2 ∧ rd ≠ 3#2 ∧ (fmt = 2#2 ∨ pHi = false))
  | .vbunpk _ _ _ rm fmt rd p _ => decide (rm ≤ 5#3 ∧ fmt ≠ 3#2 ∧ rd ≠ 3#2 ∧ (fmt = 2#2 ∨ p.getLsbD 1 = false))
  | .vraddF32 _ _ rm => decide (rm ≤ 5#3)
  | .vrmaxF32 _ _ => true
  | .vrminF32 _ _ => true
  | .vramaxF32 _ _ => true
  | .vraddI32 _ _ => true
  | .vrmaxI32 _ _ => true
  | .vrminI32 _ _ => true
  | .vperm _ _ _ => true
  | .vrot _ _ n => decide (n ≤ 15#5)
  | .vzipl _ _ _ => true
  | .vziph _ _ _ => true
  | .vmov _ _ => true
  | .vbcast _ _ => true
  | .vins _ _ n => decide (n ≤ 15#5)
  | .vext _ _ n => decide (n ≤ 15#5)
  | .vextz _ _ n => decide (n ≤ 15#5)
  | .s2q _ _ => true
  | .q2s _ _ => true
  | .mpush _ => true
  | .minv => true
  | .mpop => true
  | .brmz len => decide (len ≠ 0#12)
  | .vpld _ _ _ => true
  | .vpldIndexed _ _ _ => true
  | .vpst _ _ _ => true
  | .vpstIndexed _ _ _ => true
  | .vlda _ _ _ => true
  | .vldaIndexed _ _ _ => true
  | .vsta _ _ _ => true
  | .vstaIndexed _ _ _ => true
  | .vgld _ _ _ => true
  | .vgldIndexed _ _ _ => true
  | .vgst _ _ _ _ => true
  | .vgstIndexed _ _ _ _ => true
  | .srun _ _ _ _ sp => decide (1#5 ≤ sp ∧ sp ≤ 28#5)
  | .gldc _ _ _ _ sp => decide (1#5 ≤ sp ∧ sp ≤ 28#5)
  | .ggo _ _ _ _ sp => decide (1#5 ≤ sp ∧ sp ≤ 28#5)
  | .gmma _ _ _ _ sp => decide (1#5 ≤ sp ∧ sp ≤ 28#5)
  | .copy _ _ _ _ sp => decide (1#5 ≤ sp ∧ sp ≤ 28#5)
  | .copy2d _ _ _ _ sp => decide (1#5 ≤ sp ∧ sp ≤ 28#5)
  | .send _ _ _ _ sp => decide (1#5 ≤ sp ∧ sp ≤ 28#5)
  | .lbind _ _ _ _ sp => decide (1#5 ≤ sp ∧ sp ≤ 28#5)
  | .lunbind _ _ _ _ _ => false
  | .copen _ _ _ _ sp => decide (1#5 ≤ sp ∧ sp ≤ 28#5)
  | .cstream _ _ _ _ sp => decide (1#5 ≤ sp ∧ sp ≤ 28#5)
  | .gsel _ => true
  | .snest _ _ lvl _ => decide (lvl ≤ 5#3)
  | .gstop => true
  | .gfeed _ _ => true
  | .gpop _ => true
  | .pqpop _ => true
  | .gbank _ => true
  | .kwait _ => true
  | .kstat _ _ => true
  | .bufdef _ _ _ _ _ => true
  | .bufrel _ => true
  | .bufrelFree _ => true
  | .bufstat _ _ => true
  | .bufwait _ _ => true
  | .mark _ => true
  | .fenceRel _ => true
  | .fenceAcq _ => true
  | .fenceFull _ => true
  | .amoadd _ _ _ _ _ _ _ => true
  | .amoand _ _ _ _ _ _ _ => true
  | .amoor _ _ _ _ _ _ _ => true
  | .amoxor _ _ _ _ _ _ _ => true
  | .amomin _ _ _ _ _ _ _ => true
  | .amomax _ _ _ _ _ _ _ => true
  | .amominz _ _ _ _ _ _ _ => true
  | .amomaxz _ _ _ _ _ _ _ => true
  | .amoswap _ _ _ _ _ _ _ => true
  | .amocas _ _ _ _ _ _ _ => true
  | .redF32 _ b _ _ => decide (b.getLsbD 0 = false)
  | .redBf16 _ b _ _ => decide (b.getLsbD 0 = false)
  | .redI32 _ b _ _ => decide (b.getLsbD 0 = false)
  | .redF32max _ b _ _ => decide (b.getLsbD 0 = false)
  | .redoF32 _ b _ _ => decide (b.getLsbD 0 = false)
  | .redoBf16 _ b _ _ => decide (b.getLsbD 0 = false)
  | .redoI32 _ b _ _ => decide (b.getLsbD 0 = false)
  | .redoF32max _ b _ _ => decide (b.getLsbD 0 = false)
  | .alr _ _ => true
  | .alre => true
  | .sembind slot _ _ => decide (24#5 ≤ slot ∧ slot ≤ 30#5)
  | .sembindOff slot => decide (24#5 ≤ slot ∧ slot ≤ 30#5)
  | .semadd _ _ _ _ _ _ => true
  | .semwait _ _ _ _ _ => true
  | .pamoadd _ _ _ _ _ _ => true
  | .pamoand _ _ _ _ _ _ => true
  | .pamoor _ _ _ _ _ _ => true
  | .pamoxor _ _ _ _ _ _ => true
  | .pamomin _ _ _ _ _ _ => true
  | .pamomax _ _ _ _ _ _ => true
  | .pamominz _ _ _ _ _ _ => true
  | .pamomaxz _ _ _ _ _ _ => true
  | .pamoswap _ _ _ _ _ _ => true
  | .pamocas _ _ _ _ _ _ => true
  | .bar _ _ => true
  | .grpinfo _ _ => true
  | .trap _ => true
  | .tfence => true
  | .tret => true
  | .tretSkip => true
  | .bkpt _ => true
  | .dstep _ => true
  | .txstat _ => true
  | .txabort _ _ => true
  | .yield _ => true
  | .sleep _ _ _ => true
  | .sleept _ _ => true
  | .dstat _ => true
  | .disc _ _ _ => true
  | .prd _ _ _ => true
  | .lwake _ _ => true
  | .lwakeWait _ _ => true
  | .chold _ _ _ _ => true
  | .cclose _ => true
  | .cstat _ _ => true
  | .overlayLoadDone _ => true
  | .coreDone _ _ => true
  | .targetFetchReady _ _ => true
  | .gldDataReturn _ _ => true
  | .engineStatusFill _ => true
  | .engineCommandStart _ => true
  | .engineCommandComplete _ => true
  | .engineFault => true
  | .lateCopyTrap => true
  | .streamTokenDeliver _ => true
  | .streamTokenCommit _ => true
  | .gridStep => true
  | .gmmaKblock => true
  | .gmmaPreemptCut => true
  | .reliefGrant => true
  | .deadlockTrap => true
  | .atomicApply _ => true
  | .atomicResultReturn _ => true
  | .redApply _ => true
  | .redoArrival _ => true
  | .redoResend _ => true
  | .lineRegionApply _ => true
  | .semaphoreAdd _ => true
  | .stepTrap _ => true
  | .sleeptWake => true
  | .leaseExpiry _ => true
  | .storeApply _ => true
  | .hubLineDrain _ => true
  | .homeSweep _ => true
  | .pageWalk _ _ => true
  | .tlbInvalidate _ _ => true
  | .pagerFault _ => true
  | .lmbox _ _ => true
  | .qcfg _ _ => true
  | .qerr _ => true
  | .evqhead _ => true
  | .pgresp _ _ => true
  | .ikey _ => true
  | .deviceRegisterWrite _ _ => true
  | .launchSubmit _ => true
  | .launchBind _ _ => true
  | .launchAging _ => true
  | .bind _ => true
  | .resume _ => true
  | .save _ => true
  | .coreSaved _ => true
  | .kill _ => true
  | .halt _ => true
  | .releaseHalt _ => true
  | .debugHaltRequest _ => true
  | .sequencerStart _ _ _ => true
  | .gridAdmission _ => true
  | .droopAlarm _ _ => true
  | .droopStretchEnd _ => true
  | .clockStepHoldEnd _ => true
  | .thermalSample _ _ => true
  | .launchReady _ => true
  | .pairCompare _ => true
  | .pairWaitExpiry _ => true
  | .commitPrepare _ => true
  | .commitFlip _ => true
  | .witnessQuery _ => true
  | .abortDecide _ => true
  | .launchAborted _ => true
  | .kernelNode _ _ => true
  | .conditionNode _ _ => true
  | .switchNode _ _ => true
  | .loopNode _ _ => true
  | .joinNode _ _ => true
  | .dieLoss _ _ => true
  | .packageLoss _ => true
  | .stationLoss _ => true
  | .heartbeatMiss _ _ => true
  | .uncorrectableError _ => true
  | .hostRead _ _ => true
  | .hostWrite _ _ => true
  | .hostSnoop _ _ => true
  | .flitForward _ => true
  | .linkReplay _ => true
  | .linkRetrain _ _ => true
  | .linkFailure _ => true
  | .detourLoad _ => true
  | .linkNarrow _ => true
  | .linkSleep _ => true
  | .linkWake _ => true
  | .packetPlacement _ => true
  | .placementAcknowledgement _ => true
  | .reoffer _ => true
  | .claspPlacement _ => true
  | .meterIntervalEnd _ => true
  | .probeAction _ => true
  | .circuitBeat _ => true
  | .windowCheck _ => true
  | .windowAcknowledgement _ => true
  | .windowNak _ => true
  | .circuitRelease _ => true
  | .ringRequest _ => true
  | .ringResponse _ => true
  | .ringResend _ => true
  | .ringFrame _ _ => true
  | .frameClose _ => true
  | .keyUpdate _ => true
  | .boot => true
  | .illegalInstruction _ => true
  | .remotePoolAccess _ => true
  | .homeRead _ => true
  | .latencyResultDelivery _ => true
  | .cxlWriteCompletion _ => true
  | .backInvalidateResponse _ => true
  | .capoWrite _ _ => true
  | .clockStepChange _ => true

end Sys2Proof
end

