-- ==== Sys2Proof/Decode.lean ====
section
/-! DEFINITION. From a 32-bit word to an instruction, and back. One function per major opcode (R39, R40, R192, R256),
its rows in the order in which they are tried: a row tests every bit that its encoding fixes and takes its fields out.
A word that no row takes, or whose fields are not well formed, encodes no instruction (R41). Some functions are marked
noncomputable because Lean's runtime cannot build a constructor numbered above 244; the kernel evaluates them. -/

namespace Sys2Proof

/-- Bits [lo+n-1 : lo] of a word. -/
abbrev Word.bits (w : Word) (lo n : Nat) : BitVec n := w.extractLsb' lo n

/-- Bit `lo` of a word. -/
abbrev Word.bit (w : Word) (lo : Nat) : Bool := w.getLsbD lo

/-- A one-bit field. -/
abbrev bit1 (b : Bool) : BitVec 1 := BitVec.ofBool b

/-- Major 0x01. -/
def decodeMajor01 (w : Word) : Option Instr :=
  if w.bits 0 8 = 0x0#8 then
    some (.add (w.bits 20 5) (w.bits 15 5) (w.bits 10 5) (w.bit 9) (w.bit 8))
  else if w.bits 0 8 = 0x1#8 then
    some (.sub (w.bits 20 5) (w.bits 15 5) (w.bits 10 5) (w.bit 9) (w.bit 8))
  else if w.bits 0 8 = 0x2#8 then
    some (.andR (w.bits 20 5) (w.bits 15 5) (w.bits 10 5) (w.bit 9) (w.bit 8))
  else if w.bits 0 8 = 0x3#8 then
    some (.orR (w.bits 20 5) (w.bits 15 5) (w.bits 10 5) (w.bit 9) (w.bit 8))
  else if w.bits 0 8 = 0x4#8 then
    some (.xorR (w.bits 20 5) (w.bits 15 5) (w.bits 10 5) (w.bit 9) (w.bit 8))
  else if w.bits 0 8 = 0x5#8 then
    some (.andn (w.bits 20 5) (w.bits 15 5) (w.bits 10 5) (w.bit 9) (w.bit 8))
  else if w.bits 0 8 = 0x10#8 then
    some (.addw (w.bits 20 5) (w.bits 15 5) (w.bits 10 5) (w.bit 9) (w.bit 8))
  else if w.bits 0 8 = 0x11#8 then
    some (.subw (w.bits 20 5) (w.bits 15 5) (w.bits 10 5) (w.bit 9) (w.bit 8))
  else if w.bits 0 8 = 0x20#8 then
    some (.addsat (w.bits 20 5) (w.bits 15 5) (w.bits 10 5) (w.bit 9) (w.bit 8))
  else if w.bits 0 8 = 0x21#8 then
    some (.subsat (w.bits 20 5) (w.bits 15 5) (w.bits 10 5) (w.bit 9) (w.bit 8))
  else none

/-- Major 0x02. -/
def decodeMajor02 (w : Word) : Option Instr :=
  if w.bits 0 8 = 0x0#8 then
    some (.sll (w.bits 20 5) (w.bits 15 5) (w.bits 10 5) (w.bit 9) (w.bit 8))
  else if w.bits 0 8 = 0x1#8 then
    some (.srl (w.bits 20 5) (w.bits 15 5) (w.bits 10 5) (w.bit 9) (w.bit 8))
  else if w.bits 0 8 = 0x2#8 then
    some (.sra (w.bits 20 5) (w.bits 15 5) (w.bits 10 5) (w.bit 9) (w.bit 8))
  else if w.bits 0 8 = 0x3#8 then
    some (.rol (w.bits 20 5) (w.bits 15 5) (w.bits 10 5) (w.bit 9) (w.bit 8))
  else if w.bits 0 8 = 0x4#8 then
    some (.ror (w.bits 20 5) (w.bits 15 5) (w.bits 10 5) (w.bit 9) (w.bit 8))
  else if w.bits 0 8 = 0x10#8 then
    some (.sllw (w.bits 20 5) (w.bits 15 5) (w.bits 10 5) (w.bit 9) (w.bit 8))
  else if w.bits 0 8 = 0x11#8 then
    some (.srlw (w.bits 20 5) (w.bits 15 5) (w.bits 10 5) (w.bit 9) (w.bit 8))
  else if w.bits 0 8 = 0x12#8 then
    some (.sraw (w.bits 20 5) (w.bits 15 5) (w.bits 10 5) (w.bit 9) (w.bit 8))
  else none

/-- Major 0x03. -/
def decodeMajor03 (w : Word) : Option Instr :=
  if w.bits 0 8 = 0x0#8 then
    some (.mul (w.bits 20 5) (w.bits 15 5) (w.bits 10 5) (w.bit 9) (w.bit 8))
  else if w.bits 0 8 = 0x1#8 then
    some (.mulh (w.bits 20 5) (w.bits 15 5) (w.bits 10 5) (w.bit 9) (w.bit 8))
  else if w.bits 0 8 = 0x2#8 then
    some (.mulhu (w.bits 20 5) (w.bits 15 5) (w.bits 10 5) (w.bit 9) (w.bit 8))
  else if w.bits 0 8 = 0x3#8 then
    some (.mulhsu (w.bits 20 5) (w.bits 15 5) (w.bits 10 5) (w.bit 9) (w.bit 8))
  else if w.bits 0 8 = 0x10#8 then
    some (.mulw (w.bits 20 5) (w.bits 15 5) (w.bits 10 5) (w.bit 9) (w.bit 8))
  else none

/-- Major 0x04. -/
def decodeMajor04 (w : Word) : Option Instr :=
  if w.bits 0 8 = 0x0#8 then
    some (.div (w.bits 20 5) (w.bits 15 5) (w.bits 10 5) (w.bit 9) (w.bit 8))
  else if w.bits 0 8 = 0x1#8 then
    some (.divu (w.bits 20 5) (w.bits 15 5) (w.bits 10 5) (w.bit 9) (w.bit 8))
  else if w.bits 0 8 = 0x2#8 then
    some (.rem (w.bits 20 5) (w.bits 15 5) (w.bits 10 5) (w.bit 9) (w.bit 8))
  else if w.bits 0 8 = 0x3#8 then
    some (.remu (w.bits 20 5) (w.bits 15 5) (w.bits 10 5) (w.bit 9) (w.bit 8))
  else if w.bits 0 8 = 0x10#8 then
    some (.divw (w.bits 20 5) (w.bits 15 5) (w.bits 10 5) (w.bit 9) (w.bit 8))
  else if w.bits 0 8 = 0x11#8 then
    some (.divuw (w.bits 20 5) (w.bits 15 5) (w.bits 10 5) (w.bit 9) (w.bit 8))
  else if w.bits 0 8 = 0x12#8 then
    some (.remw (w.bits 20 5) (w.bits 15 5) (w.bits 10 5) (w.bit 9) (w.bit 8))
  else if w.bits 0 8 = 0x13#8 then
    some (.remuw (w.bits 20 5) (w.bits 15 5) (w.bits 10 5) (w.bit 9) (w.bit 8))
  else none

/-- Major 0x05. -/
def decodeMajor05 (w : Word) : Option Instr :=
  if w.bits 10 5 = 0x0#5 ∧ w.bits 0 9 = 0x8#9 then
    some (.clz (w.bits 20 5) (w.bits 15 5) (w.bit 9))
  else if w.bits 10 5 = 0x0#5 ∧ w.bits 0 9 = 0x9#9 then
    some (.popc (w.bits 20 5) (w.bits 15 5) (w.bit 9))
  else if w.bits 0 8 = 0x0#8 then
    some (.min (w.bits 20 5) (w.bits 15 5) (w.bits 10 5) (w.bit 9) (w.bit 8))
  else if w.bits 0 8 = 0x1#8 then
    some (.max (w.bits 20 5) (w.bits 15 5) (w.bits 10 5) (w.bit 9) (w.bit 8))
  else if w.bits 0 8 = 0x2#8 then
    some (.minu (w.bits 20 5) (w.bits 15 5) (w.bits 10 5) (w.bit 9) (w.bit 8))
  else if w.bits 0 8 = 0x3#8 then
    some (.maxu (w.bits 20 5) (w.bits 15 5) (w.bits 10 5) (w.bit 9) (w.bit 8))
  else none

/-- Major 0x06. -/
def decodeMajor06 (w : Word) : Option Instr :=
  if w.bits 4 4 = 0x0#4 then
    some (.sel (w.bits 20 5) (w.bits 15 5) (w.bits 10 5) (w.bit 9) (w.bit 8) (w.bit 3) (w.bits 0 3))
  else none

/-- Major 0x07. -/
def decodeMajor07 (w : Word) : Option Instr :=
  if w.bits 2 6 = 0x0#6 then
    some (.scadd (w.bits 20 5) (w.bits 15 5) (w.bits 10 5) (w.bit 9) (w.bit 8) (w.bits 0 2))
  else if w.bits 2 6 = 0x4#6 then
    some (.scaddx (w.bits 20 5) (w.bits 15 5) (w.bits 10 5) (w.bit 9) (w.bit 8) (w.bits 0 2))
  else if w.bits 2 6 = 0x8#6 then
    some (.scaddz (w.bits 20 5) (w.bits 15 5) (w.bits 10 5) (w.bit 9) (w.bit 8) (w.bits 0 2))
  else none

/-- Major 0x10. -/
def decodeMajor10 (w : Word) : Option Instr :=
  some (.addi (w.bits 20 5) (w.bits 15 5) (w.bits 0 15))

/-- Major 0x11. -/
def decodeMajor11 (w : Word) : Option Instr :=
  some (.andi (w.bits 20 5) (w.bits 15 5) (w.bits 0 15))

/-- Major 0x12. -/
def decodeMajor12 (w : Word) : Option Instr :=
  some (.ori (w.bits 20 5) (w.bits 15 5) (w.bits 0 15))

/-- Major 0x13. -/
def decodeMajor13 (w : Word) : Option Instr :=
  some (.xori (w.bits 20 5) (w.bits 15 5) (w.bits 0 15))

/-- Major 0x14. -/
def decodeMajor14 (w : Word) : Option Instr :=
  if w.bits 5 10 = 0x200#10 then
    some (.slliw (w.bits 20 5) (w.bits 15 5) (w.bits 0 5))
  else if w.bits 5 10 = 0x280#10 then
    some (.srliw (w.bits 20 5) (w.bits 15 5) (w.bits 0 5))
  else if w.bits 5 10 = 0x300#10 then
    some (.sraiw (w.bits 20 5) (w.bits 15 5) (w.bits 0 5))
  else if w.bits 6 9 = 0x0#9 then
    some (.slli (w.bits 20 5) (w.bits 15 5) (w.bits 0 6))
  else if w.bits 6 9 = 0x40#9 then
    some (.srli (w.bits 20 5) (w.bits 15 5) (w.bits 0 6))
  else if w.bits 6 9 = 0x80#9 then
    some (.srai (w.bits 20 5) (w.bits 15 5) (w.bits 0 6))
  else if w.bits 6 9 = 0xC0#9 then
    some (.rori (w.bits 20 5) (w.bits 15 5) (w.bits 0 6))
  else none

/-- Major 0x15. -/
def decodeMajor15 (w : Word) : Option Instr :=
  some (.addiw (w.bits 20 5) (w.bits 15 5) (w.bits 0 15))

/-- Major 0x16. -/
def decodeMajor16 (w : Word) : Option Instr :=
  if w.bits 23 2 = 0x0#2 ∧ w.bits 12 3 = 0x0#3 then
    some (.cmpeqi (w.bits 20 3) (w.bits 15 5) (w.bits 0 12))
  else if w.bits 23 2 = 0x0#2 ∧ w.bits 12 3 = 0x1#3 then
    some (.cmpnei (w.bits 20 3) (w.bits 15 5) (w.bits 0 12))
  else if w.bits 23 2 = 0x0#2 ∧ w.bits 12 3 = 0x2#3 then
    some (.cmplti (w.bits 20 3) (w.bits 15 5) (w.bits 0 12))
  else if w.bits 23 2 = 0x0#2 ∧ w.bits 12 3 = 0x3#3 then
    some (.cmpgei (w.bits 20 3) (w.bits 15 5) (w.bits 0 12))
  else if w.bits 23 2 = 0x0#2 ∧ w.bits 12 3 = 0x4#3 then
    some (.cmpltui (w.bits 20 3) (w.bits 15 5) (w.bits 0 12))
  else if w.bits 23 2 = 0x0#2 ∧ w.bits 12 3 = 0x5#3 then
    some (.cmpgeui (w.bits 20 3) (w.bits 15 5) (w.bits 0 12))
  else none

/-- Major 0x17. -/
def decodeMajor17 (w : Word) : Option Instr :=
  some (.lui (w.bits 20 5) (w.bits 0 20))

/-- Major 0x18. -/
def decodeMajor18 (w : Word) : Option Instr :=
  if w.bits 11 1 = 0x1#1 ∧ w.bits 0 6 = 0x0#6 then
    some (.pldIndexed (w.bits 20 5) (w.bits 15 5) (w.bits 12 3) (w.bits 6 5))
  else if w.bits 11 1 = 0x0#1 then
    some (.pld (w.bits 20 5) (w.bits 15 5) (w.bits 12 3) (w.bits 0 11))
  else none

/-- Major 0x19. -/
def decodeMajor19 (w : Word) : Option Instr :=
  if w.bits 14 1 = 0x0#1 ∧ w.bits 11 1 = 0x1#1 ∧ w.bits 0 6 = 0x0#6 then
    some (.pstIndexed (w.bits 20 5) (w.bits 15 5) (w.bits 12 2) (w.bits 6 5))
  else if w.bits 14 1 = 0x0#1 ∧ w.bits 11 1 = 0x0#1 then
    some (.pst (w.bits 20 5) (w.bits 15 5) (w.bits 12 2) (w.bits 0 11))
  else none

/-- Major 0x1A. -/
def decodeMajor1A (w : Word) : Option Instr :=
  if w.bits 11 1 = 0x1#1 ∧ w.bits 0 6 = 0x0#6 then
    some (.gldIndexed (w.bits 20 5) (w.bits 15 5) (w.bits 12 3) (w.bits 6 5))
  else if w.bits 11 1 = 0x0#1 then
    some (.gld (w.bits 20 5) (w.bits 15 5) (w.bits 12 3) (w.bits 0 11))
  else none

/-- Major 0x1B. -/
def decodeMajor1B (w : Word) : Option Instr :=
  if w.bits 9 1 = 0x1#1 ∧ w.bits 0 4 = 0x0#4 then
    some (.gstIndexed (w.bits 20 5) (w.bits 15 5) (w.bits 13 2) (w.bits 10 3) (w.bits 4 5))
  else if w.bits 9 1 = 0x0#1 then
    some (.gst (w.bits 20 5) (w.bits 15 5) (w.bits 13 2) (w.bits 10 3) (w.bits 0 9))
  else none

/-- Major 0x1C. -/
def decodeMajor1C (w : Word) : Option Instr :=
  some (.pbr (w.bits 22 3) (w.bits 0 22))

/-- Major 0x1D. -/
def decodeMajor1D (w : Word) : Option Instr :=
  if w.bits 0 18 = 0x0#18 then
    some (.br (w.bits 22 3) (w.bits 19 3) (w.bit 18))
  else none

/-- Major 0x1E. -/
def decodeMajor1E (w : Word) : Option Instr :=
  if w.bits 0 18 = 0x0#18 then
    some (.brl (w.bits 22 3) (w.bits 19 3) (w.bit 18))
  else none

/-- Major 0x1F. -/
def decodeMajor1F (w : Word) : Option Instr :=
  if w.bits 23 2 = 0x0#2 ∧ w.bits 18 2 = 0x0#2 ∧ w.bits 0 15 = 0x14#15 then
    some (.pnot (w.bits 20 3) (w.bits 15 3))
  else if w.bits 18 2 = 0x0#2 ∧ w.bits 0 15 = 0x18#15 then
    some (.pget (w.bits 20 5) (w.bits 15 3))
  else if w.bits 23 2 = 0x0#2 ∧ w.bits 18 2 = 0x0#2 ∧ w.bits 13 2 = 0x0#2 ∧ w.bits 0 10 = 0x10#10 then
    some (.pand (w.bits 20 3) (w.bits 15 3) (w.bits 10 3))
  else if w.bits 23 2 = 0x0#2 ∧ w.bits 18 2 = 0x0#2 ∧ w.bits 13 2 = 0x0#2 ∧ w.bits 0 10 = 0x11#10 then
    some (.por (w.bits 20 3) (w.bits 15 3) (w.bits 10 3))
  else if w.bits 23 2 = 0x0#2 ∧ w.bits 18 2 = 0x0#2 ∧ w.bits 13 2 = 0x0#2 ∧ w.bits 0 10 = 0x12#10 then
    some (.pxor (w.bits 20 3) (w.bits 15 3) (w.bits 10 3))
  else if w.bits 23 2 = 0x0#2 ∧ w.bits 18 2 = 0x0#2 ∧ w.bits 13 2 = 0x0#2 ∧ w.bits 0 10 = 0x13#10 then
    some (.pandn (w.bits 20 3) (w.bits 15 3) (w.bits 10 3))
  else if w.bits 23 2 = 0x0#2 ∧ w.bits 10 5 = 0x0#5 ∧ w.bits 0 9 = 0x19#9 then
    some (.pset (w.bits 20 3) (w.bits 15 5) (w.bit 9))
  else if w.bits 23 2 = 0x0#2 ∧ w.bits 0 8 = 0x0#8 then
    some (.cmpeq (w.bits 20 3) (w.bits 15 5) (w.bits 10 5) (w.bit 9) (w.bit 8))
  else if w.bits 23 2 = 0x0#2 ∧ w.bits 0 8 = 0x1#8 then
    some (.cmpne (w.bits 20 3) (w.bits 15 5) (w.bits 10 5) (w.bit 9) (w.bit 8))
  else if w.bits 23 2 = 0x0#2 ∧ w.bits 0 8 = 0x2#8 then
    some (.cmplt (w.bits 20 3) (w.bits 15 5) (w.bits 10 5) (w.bit 9) (w.bit 8))
  else if w.bits 23 2 = 0x0#2 ∧ w.bits 0 8 = 0x3#8 then
    some (.cmpge (w.bits 20 3) (w.bits 15 5) (w.bits 10 5) (w.bit 9) (w.bit 8))
  else if w.bits 23 2 = 0x0#2 ∧ w.bits 0 8 = 0x4#8 then
    some (.cmpltu (w.bits 20 3) (w.bits 15 5) (w.bits 10 5) (w.bit 9) (w.bit 8))
  else if w.bits 23 2 = 0x0#2 ∧ w.bits 0 8 = 0x5#8 then
    some (.cmpgeu (w.bits 20 3) (w.bits 15 5) (w.bits 10 5) (w.bit 9) (w.bit 8))
  else none

/-- Major 0x20. -/
def decodeMajor20 (w : Word) : Option Instr :=
  if w.bits 23 2 = 0x0#2 ∧ w.bits 10 5 = 0x0#5 ∧ w.bits 0 9 = 0x0#9 then
    some (.pbrr (w.bits 20 3) (w.bits 15 5) (w.bit 9))
  else none

/-- Major 0x21. -/
def decodeMajor21 (w : Word) : Option Instr :=
  if w.bits 22 3 = 0x2#3 ∧ w.bits 0 20 = 0x0#20 then
    some (.lbrk (w.bits 20 2))
  else if w.bits 22 3 = 0x0#3 ∧ w.bits 12 3 = 0x0#3 then
    some (.loop (w.bits 20 2) (w.bits 15 5) (w.bits 0 12))
  else if w.bits 22 3 = 0x1#3 then
    some (.loopi (w.bits 20 2) (w.bits 12 8) (w.bits 0 12))
  else none

/-- Major 0x22. -/
def decodeMajor22 (w : Word) : Option Instr :=
  if w.bits 20 5 = 0x0#5 ∧ w.bits 6 9 = 0x0#9 then
    some (.mcall (w.bits 15 5) (w.bits 0 6))
  else if w.bits 20 5 = 0x1#5 ∧ w.bits 11 4 = 0x0#4 then
    some (.mstore (w.bits 15 5) (w.bits 6 5) (w.bits 0 6))
  else none

/-- Major 0x23. -/
def decodeMajor23 (w : Word) : Option Instr :=
  if w.bits 0 20 = 0x1020#20 then
    some (.mfsTcause (w.bits 20 5))
  else if w.bits 20 5 = 0x0#5 ∧ w.bits 0 15 = 0x2000#15 then
    some (.mtsPartw (w.bits 15 5))
  else if w.bits 20 5 = 0x0#5 ∧ w.bits 0 15 = 0x2001#15 then
    some (.mtsFpctl (w.bits 15 5))
  else if w.bits 20 5 = 0x0#5 ∧ w.bits 0 15 = 0x2002#15 then
    some (.mtsFpflag (w.bits 15 5))
  else if w.bits 20 5 = 0x0#5 ∧ w.bits 0 15 = 0x2016#15 then
    some (.mtsMsdepth (w.bits 15 5))
  else if w.bits 0 15 = 0x0#15 then
    some (.mov (w.bits 20 5) (w.bits 15 5))
  else if w.bits 12 8 = 0x1#8 ∧ 0x08#12 ≤ (w.bits 0 12) ∧ (w.bits 0 12) ≤ 0x11#12 then
    some (.mfsEngineStatus (w.bits 20 5) (w.bits 0 12))
  else if w.bits 20 5 = 0x0#5 ∧ w.bits 12 3 = 0x2#3 ∧ 0x12#12 ≤ (w.bits 0 12) ∧ (w.bits 0 12) ≤ 0x15#12 then
    some (.mtsLc (w.bits 15 5) (w.bits 0 12))
  else if w.bits 20 5 = 0x0#5 ∧ w.bits 12 3 = 0x2#3 ∧ 0x0C#12 ≤ (w.bits 0 12) ∧ (w.bits 0 12) ≤ 0x11#12 then
    some (.mtsQht (w.bits 15 5) (w.bits 0 12))
  else if w.bits 12 8 = 0x1#8 then
    some (.mfs (w.bits 20 5) (w.bits 0 12))
  else if w.bits 20 5 = 0x0#5 ∧ w.bits 12 3 = 0x2#3 then
    some (.mts (w.bits 15 5) (w.bits 0 12))
  else none

/-- Major 0x24. -/
def decodeMajor24 (w : Word) : Option Instr :=
  if w.bits 0 25 = 0x0#25 then
    some (.nop)
  else if w.bits 0 25 = 0x3#25 then
    some (.exit)
  else if w.bits 0 20 = 0x1#20 then
    some (.cyc (w.bits 20 5))
  else if w.bits 20 5 = 0x0#5 ∧ w.bits 10 5 = 0x0#5 ∧ w.bits 0 9 = 0x2#9 then
    some (.ovl (w.bits 15 5) (w.bit 9))
  else none

/-- Major 0x40. -/
def decodeMajor40 (w : Word) : Option Instr :=
  if w.bits 0 15 = 0x8#15 then
    some (.vabsF32 (w.bits 20 5) (w.bits 15 5))
  else if w.bits 0 15 = 0x9#15 then
    some (.vnegF32 (w.bits 20 5) (w.bits 15 5))
  else if w.bits 8 7 = 0x0#7 ∧ w.bits 0 7 = 0x10#7 then
    some (.vexp2 (w.bits 20 5) (w.bits 15 5) (w.bit 7))
  else if w.bits 8 7 = 0x0#7 ∧ w.bits 0 7 = 0x11#7 then
    some (.vrcp (w.bits 20 5) (w.bits 15 5) (w.bit 7))
  else if w.bits 8 7 = 0x0#7 ∧ w.bits 0 7 = 0x12#7 then
    some (.vrsq (w.bits 20 5) (w.bits 15 5) (w.bit 7))
  else if w.bits 8 7 = 0x0#7 ∧ w.bits 0 7 = 0x13#7 then
    some (.vlog2 (w.bits 20 5) (w.bits 15 5) (w.bit 7))
  else if w.bits 0 10 = 0x6#10 then
    some (.vminF32 (w.bits 20 5) (w.bits 15 5) (w.bits 10 5))
  else if w.bits 0 10 = 0x7#10 then
    some (.vmaxF32 (w.bits 20 5) (w.bits 15 5) (w.bits 10 5))
  else if w.bits 0 7 = 0x0#7 then
    some (.vaddF32 (w.bits 20 5) (w.bits 15 5) (w.bits 10 5) (w.bits 7 3))
  else if w.bits 0 7 = 0x1#7 then
    some (.vsubF32 (w.bits 20 5) (w.bits 15 5) (w.bits 10 5) (w.bits 7 3))
  else if w.bits 0 7 = 0x2#7 then
    some (.vmulF32 (w.bits 20 5) (w.bits 15 5) (w.bits 10 5) (w.bits 7 3))
  else if w.bits 0 7 = 0x3#7 then
    some (.vfmaF32 (w.bits 20 5) (w.bits 15 5) (w.bits 10 5) (w.bits 7 3))
  else if w.bits 0 7 = 0x4#7 then
    some (.vfmsF32 (w.bits 20 5) (w.bits 15 5) (w.bits 10 5) (w.bits 7 3))
  else if w.bits 0 7 = 0x5#7 then
    some (.vfnmaF32 (w.bits 20 5) (w.bits 15 5) (w.bits 10 5) (w.bits 7 3))
  else none

/-- Major 0x41. -/
def decodeMajor41 (w : Word) : Option Instr :=
  if w.bits 0 15 = 0x8#15 then
    some (.vabsBf16 (w.bits 20 5) (w.bits 15 5))
  else if w.bits 0 15 = 0x9#15 then
    some (.vnegBf16 (w.bits 20 5) (w.bits 15 5))
  else if w.bits 0 10 = 0x6#10 then
    some (.vminBf16 (w.bits 20 5) (w.bits 15 5) (w.bits 10 5))
  else if w.bits 0 10 = 0x7#10 then
    some (.vmaxBf16 (w.bits 20 5) (w.bits 15 5) (w.bits 10 5))
  else if w.bits 0 7 = 0x0#7 then
    some (.vaddBf16 (w.bits 20 5) (w.bits 15 5) (w.bits 10 5) (w.bits 7 3))
  else if w.bits 0 7 = 0x1#7 then
    some (.vsubBf16 (w.bits 20 5) (w.bits 15 5) (w.bits 10 5) (w.bits 7 3))
  else if w.bits 0 7 = 0x2#7 then
    some (.vmulBf16 (w.bits 20 5) (w.bits 15 5) (w.bits 10 5) (w.bits 7 3))
  else if w.bits 0 7 = 0x3#7 then
    some (.vfmaBf16 (w.bits 20 5) (w.bits 15 5) (w.bits 10 5) (w.bits 7 3))
  else if w.bits 0 7 = 0x4#7 then
    some (.vfmsBf16 (w.bits 20 5) (w.bits 15 5) (w.bits 10 5) (w.bits 7 3))
  else if w.bits 0 7 = 0x5#7 then
    some (.vfnmaBf16 (w.bits 20 5) (w.bits 15 5) (w.bits 10 5) (w.bits 7 3))
  else none

/-- Major 0x42. -/
def decodeMajor42 (w : Word) : Option Instr :=
  if w.bits 0 10 = 0x0#10 then
    some (.vaddI32 (w.bits 20 5) (w.bits 15 5) (w.bits 10 5))
  else if w.bits 0 10 = 0x1#10 then
    some (.vsubI32 (w.bits 20 5) (w.bits 15 5) (w.bits 10 5))
  else if w.bits 0 10 = 0x2#10 then
    some (.vmulI32 (w.bits 20 5) (w.bits 15 5) (w.bits 10 5))
  else if w.bits 0 10 = 0x3#10 then
    some (.vmulhI32 (w.bits 20 5) (w.bits 15 5) (w.bits 10 5))
  else if w.bits 0 10 = 0x4#10 then
    some (.vmulhZ32 (w.bits 20 5) (w.bits 15 5) (w.bits 10 5))
  else if w.bits 0 10 = 0x5#10 then
    some (.vaddsI32 (w.bits 20 5) (w.bits 15 5) (w.bits 10 5))
  else if w.bits 0 10 = 0x6#10 then
    some (.vsubsI32 (w.bits 20 5) (w.bits 15 5) (w.bits 10 5))
  else if w.bits 0 10 = 0x7#10 then
    some (.vaddsZ32 (w.bits 20 5) (w.bits 15 5) (w.bits 10 5))
  else if w.bits 0 10 = 0x8#10 then
    some (.vsubsZ32 (w.bits 20 5) (w.bits 15 5) (w.bits 10 5))
  else if w.bits 0 10 = 0x9#10 then
    some (.vminI32 (w.bits 20 5) (w.bits 15 5) (w.bits 10 5))
  else if w.bits 0 10 = 0xA#10 then
    some (.vmaxI32 (w.bits 20 5) (w.bits 15 5) (w.bits 10 5))
  else if w.bits 0 10 = 0xB#10 then
    some (.vminZ32 (w.bits 20 5) (w.bits 15 5) (w.bits 10 5))
  else if w.bits 0 10 = 0xC#10 then
    some (.vmaxZ32 (w.bits 20 5) (w.bits 15 5) (w.bits 10 5))
  else if w.bits 0 10 = 0x10#10 then
    some (.vand (w.bits 20 5) (w.bits 15 5) (w.bits 10 5))
  else if w.bits 0 10 = 0x11#10 then
    some (.vor (w.bits 20 5) (w.bits 15 5) (w.bits 10 5))
  else if w.bits 0 10 = 0x12#10 then
    some (.vxor (w.bits 20 5) (w.bits 15 5) (w.bits 10 5))
  else if w.bits 0 10 = 0x13#10 then
    some (.vandn (w.bits 20 5) (w.bits 15 5) (w.bits 10 5))
  else if w.bits 0 10 = 0x18#10 then
    some (.vsll (w.bits 20 5) (w.bits 15 5) (w.bits 10 5))
  else if w.bits 0 10 = 0x19#10 then
    some (.vsrl (w.bits 20 5) (w.bits 15 5) (w.bits 10 5))
  else if w.bits 0 10 = 0x1A#10 then
    some (.vsra (w.bits 20 5) (w.bits 15 5) (w.bits 10 5))
  else if w.bits 0 10 = 0x1C#10 then
    some (.vslli (w.bits 20 5) (w.bits 15 5) (w.bits 10 5))
  else if w.bits 0 10 = 0x1D#10 then
    some (.vsrli (w.bits 20 5) (w.bits 15 5) (w.bits 10 5))
  else if w.bits 0 10 = 0x1E#10 then
    some (.vsrai (w.bits 20 5) (w.bits 15 5) (w.bits 10 5))
  else none

/-- Major 0x43. -/
def decodeMajor43 (w : Word) : Option Instr :=
  if w.bits 23 2 = 0x0#2 ∧ w.bits 0 20 = 0x65#20 then
    some (.qtop (w.bits 20 3))
  else if w.bits 23 2 = 0x0#2 ∧ w.bits 18 2 = 0x0#2 ∧ w.bits 0 15 = 0x64#15 then
    some (.qnot (w.bits 20 3) (w.bits 15 3))
  else if w.bits 23 2 = 0x0#2 ∧ w.bits 18 2 = 0x0#2 ∧ w.bits 13 2 = 0x0#2 ∧ w.bits 0 10 = 0x60#10 then
    some (.qand (w.bits 20 3) (w.bits 15 3) (w.bits 10 3))
  else if w.bits 23 2 = 0x0#2 ∧ w.bits 18 2 = 0x0#2 ∧ w.bits 13 2 = 0x0#2 ∧ w.bits 0 10 = 0x61#10 then
    some (.qor (w.bits 20 3) (w.bits 15 3) (w.bits 10 3))
  else if w.bits 23 2 = 0x0#2 ∧ w.bits 18 2 = 0x0#2 ∧ w.bits 13 2 = 0x0#2 ∧ w.bits 0 10 = 0x62#10 then
    some (.qxor (w.bits 20 3) (w.bits 15 3) (w.bits 10 3))
  else if w.bits 23 2 = 0x0#2 ∧ w.bits 18 2 = 0x0#2 ∧ w.bits 13 2 = 0x0#2 ∧ w.bits 0 10 = 0x63#10 then
    some (.qandn (w.bits 20 3) (w.bits 15 3) (w.bits 10 3))
  else if w.bits 23 2 = 0x0#2 ∧ w.bits 3 7 = 0x0#7 then
    some (.vcmpF32 (w.bits 20 3) (w.bits 15 5) (w.bits 10 5) (w.bits 0 3))
  else if w.bits 23 2 = 0x0#2 ∧ w.bits 3 7 = 0x4#7 then
    some (.vcmpI32 (w.bits 20 3) (w.bits 15 5) (w.bits 10 5) (w.bits 0 3))
  else if w.bits 23 2 = 0x0#2 ∧ w.bits 3 7 = 0x8#7 then
    some (.vcmpZ32 (w.bits 20 3) (w.bits 15 5) (w.bits 10 5) (w.bits 0 3))
  else none

/-- Major 0x44. -/
def decodeMajor44 (w : Word) : Option Instr :=
  if w.bits 0 15 = 0x2#15 then
    some (.vcvtF32Bf16Lo (w.bits 20 5) (w.bits 15 5))
  else if w.bits 0 15 = 0x3#15 then
    some (.vcvtF32Bf16Hi (w.bits 20 5) (w.bits 15 5))
  else if w.bits 0 15 = 0x4#15 then
    some (.vcvtF32F16Lo (w.bits 20 5) (w.bits 15 5))
  else if w.bits 0 15 = 0x5#15 then
    some (.vcvtF32F16Hi (w.bits 20 5) (w.bits 15 5))
  else if w.bits 10 5 = 0x0#5 ∧ w.bits 0 7 = 0xC#7 then
    some (.vcvtI32F32 (w.bits 20 5) (w.bits 15 5) (w.bits 7 3))
  else if w.bits 10 5 = 0x0#5 ∧ w.bits 0 7 = 0xD#7 then
    some (.vcvtZ32F32 (w.bits 20 5) (w.bits 15 5) (w.bits 7 3))
  else if w.bits 10 5 = 0x0#5 ∧ w.bits 0 7 = 0xE#7 then
    some (.vcvtF32I32 (w.bits 20 5) (w.bits 15 5) (w.bits 7 3))
  else if w.bits 10 5 = 0x0#5 ∧ w.bits 0 7 = 0xF#7 then
    some (.vcvtF32Z32 (w.bits 20 5) (w.bits 15 5) (w.bits 7 3))
  else if w.bits 12 3 = 0x0#3 ∧ w.bits 6 4 = 0x0#4 ∧ w.bits 0 4 = 0x8#4 then
    some (.vcvtF32E4m3 (w.bits 20 5) (w.bits 15 5) (w.bits 10 2) (w.bits 4 2))
  else if w.bits 12 3 = 0x0#3 ∧ w.bits 6 4 = 0x0#4 ∧ w.bits 0 4 = 0x9#4 then
    some (.vcvtF32E5m2 (w.bits 20 5) (w.bits 15 5) (w.bits 10 2) (w.bits 4 2))
  else if w.bits 13 2 = 0x0#2 ∧ w.bits 6 4 = 0x0#4 ∧ w.bits 0 4 = 0xB#4 then
    some (.vcvtF32E2m1 (w.bits 20 5) (w.bits 15 5) (w.bits 10 3) (w.bits 4 2))
  else if w.bits 12 3 = 0x0#3 ∧ w.bits 0 4 = 0x6#4 then
    some (.vcvtE4m3F32 (w.bits 20 5) (w.bits 15 5) (w.bits 10 2) (w.bits 7 3) (w.bit 6) (w.bits 4 2))
  else if w.bits 12 3 = 0x0#3 ∧ w.bits 0 4 = 0x7#4 then
    some (.vcvtE5m2F32 (w.bits 20 5) (w.bits 15 5) (w.bits 10 2) (w.bits 7 3) (w.bit 6) (w.bits 4 2))
  else if w.bits 0 6 = 0x0#6 then
    some (.vcvtBf16F32 (w.bits 20 5) (w.bits 15 5) (w.bits 10 5) (w.bits 7 3) (w.bit 6))
  else if w.bits 0 6 = 0x1#6 then
    some (.vcvtF16F32 (w.bits 20 5) (w.bits 15 5) (w.bits 10 5) (w.bits 7 3) (w.bit 6))
  else if w.bits 13 2 = 0x0#2 ∧ w.bits 0 4 = 0xA#4 then
    some (.vcvtE2m1F32 (w.bits 20 5) (w.bits 15 5) (w.bits 10 3) (w.bits 7 3) (w.bit 6) (w.bits 4 2))
  else none

/-- Major 0x45. -/
def decodeMajor45 (w : Word) : Option Instr :=
  if w.bits 0 10 = 0x20#10 then
    some (.vbamax (w.bits 20 5) (w.bits 15 5) (w.bits 10 5))
  else if w.bits 5 5 = 0x0#5 ∧ w.bits 0 1 = 0x0#1 then
    some (.vbscale (w.bits 20 5) (w.bits 15 5) (w.bits 10 5) (w.bits 3 2) (w.bits 1 2))
  else if w.bits 6 1 = 0x1#1 then
    some (.vbpack (w.bits 20 5) (w.bits 15 5) (w.bits 10 5) (w.bits 7 3) (w.bit 5) (w.bits 3 2) (w.bits 1 2) (w.bit 0))
  else none

/-- Major 0x46. -/
def decodeMajor46 (w : Word) : Option Instr :=
  some (.vbunpk (w.bits 20 5) (w.bits 15 5) (w.bits 10 5) (w.bits 7 3) (w.bits 5 2) (w.bits 3 2) (w.bits 1 2) (w.bit 0))

/-- Major 0x47. -/
def decodeMajor47 (w : Word) : Option Instr :=
  if w.bits 0 15 = 0x1#15 then
    some (.vrmaxF32 (w.bits 20 5) (w.bits 15 5))
  else if w.bits 0 15 = 0x2#15 then
    some (.vrminF32 (w.bits 20 5) (w.bits 15 5))
  else if w.bits 0 15 = 0x3#15 then
    some (.vramaxF32 (w.bits 20 5) (w.bits 15 5))
  else if w.bits 0 15 = 0x8#15 then
    some (.vraddI32 (w.bits 20 5) (w.bits 15 5))
  else if w.bits 0 15 = 0x9#15 then
    some (.vrmaxI32 (w.bits 20 5) (w.bits 15 5))
  else if w.bits 0 15 = 0xA#15 then
    some (.vrminI32 (w.bits 20 5) (w.bits 15 5))
  else if w.bits 10 5 = 0x0#5 ∧ w.bits 0 7 = 0x0#7 then
    some (.vraddF32 (w.bits 20 5) (w.bits 15 5) (w.bits 7 3))
  else none

/-- Major 0x48. -/
def decodeMajor48 (w : Word) : Option Instr :=
  if w.bits 23 2 = 0x0#2 ∧ w.bits 0 15 = 0xC#15 then
    some (.s2q (w.bits 20 3) (w.bits 15 5))
  else if w.bits 18 2 = 0x0#2 ∧ w.bits 0 15 = 0xD#15 then
    some (.q2s (w.bits 20 5) (w.bits 15 3))
  else if w.bits 0 15 = 0x4#15 then
    some (.vmov (w.bits 20 5) (w.bits 15 5))
  else if w.bits 0 15 = 0x8#15 then
    some (.vbcast (w.bits 20 5) (w.bits 15 5))
  else if w.bits 0 10 = 0x0#10 then
    some (.vperm (w.bits 20 5) (w.bits 15 5) (w.bits 10 5))
  else if w.bits 0 10 = 0x1#10 then
    some (.vrot (w.bits 20 5) (w.bits 15 5) (w.bits 10 5))
  else if w.bits 0 10 = 0x2#10 then
    some (.vzipl (w.bits 20 5) (w.bits 15 5) (w.bits 10 5))
  else if w.bits 0 10 = 0x3#10 then
    some (.vziph (w.bits 20 5) (w.bits 15 5) (w.bits 10 5))
  else if w.bits 0 10 = 0x9#10 then
    some (.vins (w.bits 20 5) (w.bits 15 5) (w.bits 10 5))
  else if w.bits 0 10 = 0xA#10 then
    some (.vext (w.bits 20 5) (w.bits 15 5) (w.bits 10 5))
  else if w.bits 0 10 = 0xB#10 then
    some (.vextz (w.bits 20 5) (w.bits 15 5) (w.bits 10 5))
  else none

/-- Major 0x49. -/
def decodeMajor49 (w : Word) : Option Instr :=
  if w.bits 0 25 = 0x100000#25 then
    some (.minv)
  else if w.bits 0 25 = 0x200000#25 then
    some (.mpop)
  else if w.bits 18 7 = 0x0#7 ∧ w.bits 0 15 = 0x0#15 then
    some (.mpush (w.bits 15 3))
  else if w.bits 12 13 = 0x300#13 then
    some (.brmz (w.bits 0 12))
  else none

/-- Major 0x4A. -/
def decodeMajor4A (w : Word) : Option Instr :=
  if w.bits 12 3 = 0x1#3 ∧ w.bits 0 7 = 0x0#7 then
    some (.vpldIndexed (w.bits 20 5) (w.bits 15 5) (w.bits 7 5))
  else if w.bits 12 3 = 0x3#3 ∧ w.bits 0 7 = 0x0#7 then
    some (.vpstIndexed (w.bits 20 5) (w.bits 15 5) (w.bits 7 5))
  else if w.bits 12 3 = 0x5#3 ∧ w.bits 0 7 = 0x0#7 then
    some (.vldaIndexed (w.bits 20 5) (w.bits 15 5) (w.bits 7 5))
  else if w.bits 12 3 = 0x7#3 ∧ w.bits 0 7 = 0x0#7 then
    some (.vstaIndexed (w.bits 20 5) (w.bits 15 5) (w.bits 7 5))
  else if w.bits 12 3 = 0x0#3 then
    some (.vpld (w.bits 20 5) (w.bits 15 5) (w.bits 0 12))
  else if w.bits 12 3 = 0x2#3 then
    some (.vpst (w.bits 20 5) (w.bits 15 5) (w.bits 0 12))
  else if w.bits 12 3 = 0x4#3 then
    some (.vlda (w.bits 20 5) (w.bits 15 5) (w.bits 0 12))
  else if w.bits 12 3 = 0x6#3 then
    some (.vsta (w.bits 20 5) (w.bits 15 5) (w.bits 0 12))
  else none

/-- Major 0x4B. -/
def decodeMajor4B (w : Word) : Option Instr :=
  if w.bits 10 5 = 0x1#5 ∧ w.bits 0 5 = 0x0#5 then
    some (.vgldIndexed (w.bits 20 5) (w.bits 15 5) (w.bits 5 5))
  else if w.bits 14 1 = 0x1#1 ∧ w.bits 10 1 = 0x1#1 ∧ w.bits 0 5 = 0x0#5 then
    some (.vgstIndexed (w.bits 20 5) (w.bits 15 5) (w.bits 11 3) (w.bits 5 5))
  else if w.bits 10 5 = 0x0#5 then
    some (.vgld (w.bits 20 5) (w.bits 15 5) (w.bits 0 10))
  else if w.bits 14 1 = 0x1#1 ∧ w.bits 10 1 = 0x0#1 then
    some (.vgst (w.bits 20 5) (w.bits 15 5) (w.bits 11 3) (w.bits 0 10))
  else none

/-- Major 0x50. -/
def decodeMajor50 (w : Word) : Option Instr :=
  some (.srun (w.bits 20 5) (w.bits 15 5) (w.bits 10 5) (w.bits 5 5) (w.bits 0 5))

/-- Major 0x51. -/
def decodeMajor51 (w : Word) : Option Instr :=
  some (.gldc (w.bits 20 5) (w.bits 15 5) (w.bits 10 5) (w.bits 5 5) (w.bits 0 5))

/-- Major 0x52. -/
def decodeMajor52 (w : Word) : Option Instr :=
  some (.ggo (w.bits 20 5) (w.bits 15 5) (w.bits 10 5) (w.bits 5 5) (w.bits 0 5))

/-- Major 0x53. -/
def decodeMajor53 (w : Word) : Option Instr :=
  some (.gmma (w.bits 20 5) (w.bits 15 5) (w.bits 10 5) (w.bits 5 5) (w.bits 0 5))

/-- Major 0x54. -/
def decodeMajor54 (w : Word) : Option Instr :=
  if w.bits 0 25 = 0x2#25 then
    some (.gstop)
  else if w.bits 22 3 = 0x0#3 ∧ w.bits 0 20 = 0x0#20 then
    some (.gsel (w.bits 20 2))
  else if w.bits 23 2 = 0x0#2 ∧ w.bits 0 20 = 0x5#20 then
    some (.pqpop (w.bits 20 3))
  else if w.bits 0 20 = 0x4#20 then
    some (.gpop (w.bits 20 5))
  else if w.bits 0 20 = 0x6#20 then
    some (.gbank (w.bits 20 5))
  else if w.bits 20 5 = 0x0#5 ∧ w.bits 10 5 = 0x0#5 ∧ w.bits 0 9 = 0x3#9 then
    some (.gfeed (w.bits 15 5) (w.bit 9))
  else if w.bits 22 3 = 0x0#3 ∧ w.bits 13 2 = 0x0#2 ∧ w.bits 0 9 = 0x1#9 then
    some (.snest (w.bits 20 2) (w.bits 15 5) (w.bits 10 3) (w.bit 9))
  else none

/-- Major 0x58. -/
def decodeMajor58 (w : Word) : Option Instr :=
  some (.copy (w.bits 20 5) (w.bits 15 5) (w.bits 10 5) (w.bits 5 5) (w.bits 0 5))

/-- Major 0x59. -/
def decodeMajor59 (w : Word) : Option Instr :=
  some (.copy2d (w.bits 20 5) (w.bits 15 5) (w.bits 10 5) (w.bits 5 5) (w.bits 0 5))

/-- Major 0x5A. -/
def decodeMajor5A (w : Word) : Option Instr :=
  some (.send (w.bits 20 5) (w.bits 15 5) (w.bits 10 5) (w.bits 5 5) (w.bits 0 5))

/-- Major 0x5B. -/
def decodeMajor5B (w : Word) : Option Instr :=
  some (.lbind (w.bits 20 5) (w.bits 15 5) (w.bits 10 5) (w.bits 5 5) (w.bits 0 5))

/-- Major 0x5C. -/
def decodeMajor5C (w : Word) : Option Instr :=
  if w.bits 20 5 = 0x0#5 ∧ w.bits 0 15 = 0x0#15 then
    some (.kwait (w.bits 15 5))
  else if w.bits 0 15 = 0x1#15 then
    some (.kstat (w.bits 20 5) (w.bits 15 5))
  else none

/-- Major 0x5D. -/
def decodeMajor5D (w : Word) : Option Instr :=
  if w.bits 0 20 = 0x1#20 then
    some (.bufrel (w.bits 20 5))
  else if w.bits 0 20 = 0x2#20 then
    some (.bufrelFree (w.bits 20 5))
  else if w.bits 12 8 = 0x0#8 ∧ w.bits 0 10 = 0x4#10 then
    some (.bufwait (w.bits 20 5) (w.bits 10 2))
  else if w.bits 0 15 = 0x3#15 then
    some (.bufstat (w.bits 20 5) (w.bits 15 5))
  else if w.bits 0 8 = 0x0#8 then
    some (.bufdef (w.bits 20 5) (w.bits 15 5) (w.bits 10 5) (w.bit 9) (w.bit 8))
  else none

/-- Major 0x60. -/
def decodeMajor60 (w : Word) : Option Instr :=
  if w.bits 3 22 = 0x0#22 then
    some (.mark (w.bits 0 3))
  else if w.bits 3 22 = 0x1#22 then
    some (.fenceRel (w.bits 0 3))
  else if w.bits 3 22 = 0x2#22 then
    some (.fenceAcq (w.bits 0 3))
  else if w.bits 3 22 = 0x3#22 then
    some (.fenceFull (w.bits 0 3))
  else none

/-- Major 0x61. -/
noncomputable def decodeMajor61 (w : Word) : Option Instr :=
  if w.bits 6 2 = 0x0#2 ∧ w.bits 0 4 = 0x0#4 then
    some (.amoadd (w.bits 20 5) (w.bits 15 5) (w.bits 10 5) (w.bit 9) (w.bit 8) (w.bit 5) (w.bit 4))
  else if w.bits 6 2 = 0x0#2 ∧ w.bits 0 4 = 0x1#4 then
    some (.amoand (w.bits 20 5) (w.bits 15 5) (w.bits 10 5) (w.bit 9) (w.bit 8) (w.bit 5) (w.bit 4))
  else if w.bits 6 2 = 0x0#2 ∧ w.bits 0 4 = 0x2#4 then
    some (.amoor (w.bits 20 5) (w.bits 15 5) (w.bits 10 5) (w.bit 9) (w.bit 8) (w.bit 5) (w.bit 4))
  else if w.bits 6 2 = 0x0#2 ∧ w.bits 0 4 = 0x3#4 then
    some (.amoxor (w.bits 20 5) (w.bits 15 5) (w.bits 10 5) (w.bit 9) (w.bit 8) (w.bit 5) (w.bit 4))
  else if w.bits 6 2 = 0x0#2 ∧ w.bits 0 4 = 0x4#4 then
    some (.amomin (w.bits 20 5) (w.bits 15 5) (w.bits 10 5) (w.bit 9) (w.bit 8) (w.bit 5) (w.bit 4))
  else if w.bits 6 2 = 0x0#2 ∧ w.bits 0 4 = 0x5#4 then
    some (.amomax (w.bits 20 5) (w.bits 15 5) (w.bits 10 5) (w.bit 9) (w.bit 8) (w.bit 5) (w.bit 4))
  else if w.bits 6 2 = 0x0#2 ∧ w.bits 0 4 = 0x6#4 then
    some (.amominz (w.bits 20 5) (w.bits 15 5) (w.bits 10 5) (w.bit 9) (w.bit 8) (w.bit 5) (w.bit 4))
  else if w.bits 6 2 = 0x0#2 ∧ w.bits 0 4 = 0x7#4 then
    some (.amomaxz (w.bits 20 5) (w.bits 15 5) (w.bits 10 5) (w.bit 9) (w.bit 8) (w.bit 5) (w.bit 4))
  else if w.bits 6 2 = 0x0#2 ∧ w.bits 0 4 = 0x8#4 then
    some (.amoswap (w.bits 20 5) (w.bits 15 5) (w.bits 10 5) (w.bit 9) (w.bit 8) (w.bit 5) (w.bit 4))
  else if w.bits 6 2 = 0x0#2 ∧ w.bits 0 4 = 0x9#4 then
    some (.amocas (w.bits 20 5) (w.bits 15 5) (w.bits 10 5) (w.bit 9) (w.bit 8) (w.bit 5) (w.bit 4))
  else none

/-- Major 0x62. -/
noncomputable def decodeMajor62 (w : Word) : Option Instr :=
  if w.bits 20 5 = 0x0#5 ∧ w.bits 3 6 = 0x0#6 then
    some (.redF32 (w.bits 15 5) (w.bits 10 5) (w.bit 9) (w.bits 0 3))
  else if w.bits 20 5 = 0x1#5 ∧ w.bits 3 6 = 0x0#6 then
    some (.redBf16 (w.bits 15 5) (w.bits 10 5) (w.bit 9) (w.bits 0 3))
  else if w.bits 20 5 = 0x2#5 ∧ w.bits 3 6 = 0x0#6 then
    some (.redI32 (w.bits 15 5) (w.bits 10 5) (w.bit 9) (w.bits 0 3))
  else if w.bits 20 5 = 0x3#5 ∧ w.bits 3 6 = 0x0#6 then
    some (.redF32max (w.bits 15 5) (w.bits 10 5) (w.bit 9) (w.bits 0 3))
  else none

/-- Major 0x63. -/
noncomputable def decodeMajor63 (w : Word) : Option Instr :=
  if w.bits 20 5 = 0x0#5 ∧ w.bits 8 1 = 0x0#1 then
    some (.redoF32 (w.bits 15 5) (w.bits 10 5) (w.bit 9) (w.bits 0 8))
  else if w.bits 20 5 = 0x1#5 ∧ w.bits 8 1 = 0x0#1 then
    some (.redoBf16 (w.bits 15 5) (w.bits 10 5) (w.bit 9) (w.bits 0 8))
  else if w.bits 20 5 = 0x2#5 ∧ w.bits 8 1 = 0x0#1 then
    some (.redoI32 (w.bits 15 5) (w.bits 10 5) (w.bit 9) (w.bits 0 8))
  else if w.bits 20 5 = 0x3#5 ∧ w.bits 8 1 = 0x0#1 then
    some (.redoF32max (w.bits 15 5) (w.bits 10 5) (w.bit 9) (w.bits 0 8))
  else none

/-- Major 0x64. -/
noncomputable def decodeMajor64 (w : Word) : Option Instr :=
  if w.bits 0 25 = 0x1#25 then
    some (.alre)
  else if w.bits 20 5 = 0x0#5 ∧ w.bits 10 5 = 0x0#5 ∧ w.bits 0 9 = 0x0#9 then
    some (.alr (w.bits 15 5) (w.bit 9))
  else none

/-- Major 0x65. -/
noncomputable def decodeMajor65 (w : Word) : Option Instr :=
  if w.bits 0 20 = 0x10#20 then
    some (.sembindOff (w.bits 20 5))
  else if w.bits 10 5 = 0x0#5 ∧ w.bits 0 9 = 0x0#9 then
    some (.sembind (w.bits 20 5) (w.bits 15 5) (w.bit 9))
  else if w.bits 20 5 = 0x0#5 ∧ w.bits 3 5 = 0x6#5 then
    some (.semwait (w.bits 15 5) (w.bits 10 5) (w.bit 9) (w.bit 8) (w.bits 0 3))
  else if w.bits 3 5 = 0x4#5 then
    some (.semadd (w.bits 20 5) (w.bits 15 5) (w.bits 10 5) (w.bit 9) (w.bit 8) (w.bits 0 3))
  else none

/-- Major 0x66. -/
noncomputable def decodeMajor66 (w : Word) : Option Instr :=
  if w.bits 5 3 = 0x0#3 ∧ w.bits 0 4 = 0x0#4 then
    some (.pamoadd (w.bits 20 5) (w.bits 15 5) (w.bits 10 5) (w.bit 9) (w.bit 8) (w.bit 4))
  else if w.bits 5 3 = 0x0#3 ∧ w.bits 0 4 = 0x1#4 then
    some (.pamoand (w.bits 20 5) (w.bits 15 5) (w.bits 10 5) (w.bit 9) (w.bit 8) (w.bit 4))
  else if w.bits 5 3 = 0x0#3 ∧ w.bits 0 4 = 0x2#4 then
    some (.pamoor (w.bits 20 5) (w.bits 15 5) (w.bits 10 5) (w.bit 9) (w.bit 8) (w.bit 4))
  else if w.bits 5 3 = 0x0#3 ∧ w.bits 0 4 = 0x3#4 then
    some (.pamoxor (w.bits 20 5) (w.bits 15 5) (w.bits 10 5) (w.bit 9) (w.bit 8) (w.bit 4))
  else if w.bits 5 3 = 0x0#3 ∧ w.bits 0 4 = 0x4#4 then
    some (.pamomin (w.bits 20 5) (w.bits 15 5) (w.bits 10 5) (w.bit 9) (w.bit 8) (w.bit 4))
  else if w.bits 5 3 = 0x0#3 ∧ w.bits 0 4 = 0x5#4 then
    some (.pamomax (w.bits 20 5) (w.bits 15 5) (w.bits 10 5) (w.bit 9) (w.bit 8) (w.bit 4))
  else if w.bits 5 3 = 0x0#3 ∧ w.bits 0 4 = 0x6#4 then
    some (.pamominz (w.bits 20 5) (w.bits 15 5) (w.bits 10 5) (w.bit 9) (w.bit 8) (w.bit 4))
  else if w.bits 5 3 = 0x0#3 ∧ w.bits 0 4 = 0x7#4 then
    some (.pamomaxz (w.bits 20 5) (w.bits 15 5) (w.bits 10 5) (w.bit 9) (w.bit 8) (w.bit 4))
  else if w.bits 5 3 = 0x0#3 ∧ w.bits 0 4 = 0x8#4 then
    some (.pamoswap (w.bits 20 5) (w.bits 15 5) (w.bits 10 5) (w.bit 9) (w.bit 8) (w.bit 4))
  else if w.bits 5 3 = 0x0#3 ∧ w.bits 0 4 = 0x9#4 then
    some (.pamocas (w.bits 20 5) (w.bits 15 5) (w.bits 10 5) (w.bit 9) (w.bit 8) (w.bit 4))
  else none

/-- Major 0x67. -/
noncomputable def decodeMajor67 (w : Word) : Option Instr :=
  if w.bits 23 2 = 0x0#2 ∧ w.bits 8 12 = 0x0#12 then
    some (.bar (w.bits 20 3) (w.bits 0 8))
  else if w.bits 8 12 = 0x4#12 then
    some (.grpinfo (w.bits 20 5) (w.bits 0 8))
  else none

/-- Major 0x68. -/
noncomputable def decodeMajor68 (w : Word) : Option Instr :=
  if w.bits 0 25 = 0x1#25 then
    some (.tfence)
  else if w.bits 0 25 = 0x2#25 then
    some (.tret)
  else if w.bits 0 25 = 0x3#25 then
    some (.tretSkip)
  else if w.bits 22 3 = 0x0#3 ∧ w.bits 0 20 = 0x5#20 then
    some (.dstep (w.bits 20 2))
  else if w.bits 20 5 = 0x0#5 ∧ w.bits 0 10 = 0x0#10 then
    some (.trap (w.bits 10 10))
  else if w.bits 20 5 = 0x0#5 ∧ w.bits 0 10 = 0x4#10 then
    some (.bkpt (w.bits 10 10))
  else none

/-- Major 0x69. -/
noncomputable def decodeMajor69 (w : Word) : Option Instr :=
  if w.bits 0 20 = 0x0#20 then
    some (.txstat (w.bits 20 5))
  else if w.bits 0 20 = 0x2#20 then
    some (.yield (w.bits 20 5))
  else if w.bits 0 20 = 0x5#20 then
    some (.dstat (w.bits 20 5))
  else if w.bits 20 5 = 0x0#5 ∧ w.bits 10 5 = 0x0#5 ∧ w.bits 0 9 = 0x1#9 then
    some (.txabort (w.bits 15 5) (w.bit 9))
  else if w.bits 20 5 = 0x0#5 ∧ w.bits 10 5 = 0x0#5 ∧ w.bits 0 9 = 0x4#9 then
    some (.sleept (w.bits 15 5) (w.bit 9))
  else if w.bits 10 5 = 0x0#5 ∧ w.bits 0 9 = 0x3#9 then
    some (.sleep (w.bits 20 5) (w.bits 15 5) (w.bit 9))
  else none

/-- Major 0x6A. -/
noncomputable def decodeMajor6A (w : Word) : Option Instr :=
  if w.bits 20 5 = 0x0#5 ∧ w.bits 10 5 = 0x0#5 ∧ w.bits 0 9 = 0x2#9 then
    some (.lwake (w.bits 15 5) (w.bit 9))
  else if w.bits 20 5 = 0x0#5 ∧ w.bits 10 5 = 0x0#5 ∧ w.bits 0 9 = 0x3#9 then
    some (.lwakeWait (w.bits 15 5) (w.bit 9))
  else if w.bits 10 5 = 0x0#5 ∧ w.bits 0 9 = 0x0#9 then
    some (.disc (w.bits 20 5) (w.bits 15 5) (w.bit 9))
  else if w.bits 10 5 = 0x0#5 ∧ w.bits 0 9 = 0x1#9 then
    some (.prd (w.bits 20 5) (w.bits 15 5) (w.bit 9))
  else none

/-- Major 0x6B. -/
noncomputable def decodeMajor6B (w : Word) : Option Instr :=
  if w.bits 13 12 = 0x0#12 ∧ w.bits 0 10 = 0x1#10 then
    some (.cclose (w.bits 10 3))
  else if w.bits 13 7 = 0x0#7 ∧ w.bits 0 10 = 0x2#10 then
    some (.cstat (w.bits 20 5) (w.bits 10 3))
  else if w.bits 13 2 = 0x0#2 ∧ w.bits 0 9 = 0x0#9 then
    some (.chold (w.bits 20 5) (w.bits 15 5) (w.bits 10 3) (w.bit 9))
  else none

/-- Major 0x6C. -/
def decodeMajor6C (w : Word) : Option Instr :=
  some (.copen (w.bits 20 5) (w.bits 15 5) (w.bits 10 5) (w.bits 5 5) (w.bits 0 5))

/-- Major 0x6D. -/
def decodeMajor6D (w : Word) : Option Instr :=
  some (.cstream (w.bits 20 5) (w.bits 15 5) (w.bits 10 5) (w.bits 5 5) (w.bits 0 5))

/-- The instruction whose fields lie in a word, before the check of their values. -/
noncomputable def decodeFields (w : Word) : Option Instr :=
  if w.bits 25 7 = 0x01#7 then decodeMajor01 w
  else if w.bits 25 7 = 0x02#7 then decodeMajor02 w
  else if w.bits 25 7 = 0x03#7 then decodeMajor03 w
  else if w.bits 25 7 = 0x04#7 then decodeMajor04 w
  else if w.bits 25 7 = 0x05#7 then decodeMajor05 w
  else if w.bits 25 7 = 0x06#7 then decodeMajor06 w
  else if w.bits 25 7 = 0x07#7 then decodeMajor07 w
  else if w.bits 25 7 = 0x10#7 then decodeMajor10 w
  else if w.bits 25 7 = 0x11#7 then decodeMajor11 w
  else if w.bits 25 7 = 0x12#7 then decodeMajor12 w
  else if w.bits 25 7 = 0x13#7 then decodeMajor13 w
  else if w.bits 25 7 = 0x14#7 then decodeMajor14 w
  else if w.bits 25 7 = 0x15#7 then decodeMajor15 w
  else if w.bits 25 7 = 0x16#7 then decodeMajor16 w
  else if w.bits 25 7 = 0x17#7 then decodeMajor17 w
  else if w.bits 25 7 = 0x18#7 then decodeMajor18 w
  else if w.bits 25 7 = 0x19#7 then decodeMajor19 w
  else if w.bits 25 7 = 0x1A#7 then decodeMajor1A w
  else if w.bits 25 7 = 0x1B#7 then decodeMajor1B w
  else if w.bits 25 7 = 0x1C#7 then decodeMajor1C w
  else if w.bits 25 7 = 0x1D#7 then decodeMajor1D w
  else if w.bits 25 7 = 0x1E#7 then decodeMajor1E w
  else if w.bits 25 7 = 0x1F#7 then decodeMajor1F w
  else if w.bits 25 7 = 0x20#7 then decodeMajor20 w
  else if w.bits 25 7 = 0x21#7 then decodeMajor21 w
  else if w.bits 25 7 = 0x22#7 then decodeMajor22 w
  else if w.bits 25 7 = 0x23#7 then decodeMajor23 w
  else if w.bits 25 7 = 0x24#7 then decodeMajor24 w
  else if w.bits 25 7 = 0x40#7 then decodeMajor40 w
  else if w.bits 25 7 = 0x41#7 then decodeMajor41 w
  else if w.bits 25 7 = 0x42#7 then decodeMajor42 w
  else if w.bits 25 7 = 0x43#7 then decodeMajor43 w
  else if w.bits 25 7 = 0x44#7 then decodeMajor44 w
  else if w.bits 25 7 = 0x45#7 then decodeMajor45 w
  else if w.bits 25 7 = 0x46#7 then decodeMajor46 w
  else if w.bits 25 7 = 0x47#7 then decodeMajor47 w
  else if w.bits 25 7 = 0x48#7 then decodeMajor48 w
  else if w.bits 25 7 = 0x49#7 then decodeMajor49 w
  else if w.bits 25 7 = 0x4A#7 then decodeMajor4A w
  else if w.bits 25 7 = 0x4B#7 then decodeMajor4B w
  else if w.bits 25 7 = 0x50#7 then decodeMajor50 w
  else if w.bits 25 7 = 0x51#7 then decodeMajor51 w
  else if w.bits 25 7 = 0x52#7 then decodeMajor52 w
  else if w.bits 25 7 = 0x53#7 then decodeMajor53 w
  else if w.bits 25 7 = 0x54#7 then decodeMajor54 w
  else if w.bits 25 7 = 0x58#7 then decodeMajor58 w
  else if w.bits 25 7 = 0x59#7 then decodeMajor59 w
  else if w.bits 25 7 = 0x5A#7 then decodeMajor5A w
  else if w.bits 25 7 = 0x5B#7 then decodeMajor5B w
  else if w.bits 25 7 = 0x5C#7 then decodeMajor5C w
  else if w.bits 25 7 = 0x5D#7 then decodeMajor5D w
  else if w.bits 25 7 = 0x60#7 then decodeMajor60 w
  else if w.bits 25 7 = 0x61#7 then decodeMajor61 w
  else if w.bits 25 7 = 0x62#7 then decodeMajor62 w
  else if w.bits 25 7 = 0x63#7 then decodeMajor63 w
  else if w.bits 25 7 = 0x64#7 then decodeMajor64 w
  else if w.bits 25 7 = 0x65#7 then decodeMajor65 w
  else if w.bits 25 7 = 0x66#7 then decodeMajor66 w
  else if w.bits 25 7 = 0x67#7 then decodeMajor67 w
  else if w.bits 25 7 = 0x68#7 then decodeMajor68 w
  else if w.bits 25 7 = 0x69#7 then decodeMajor69 w
  else if w.bits 25 7 = 0x6A#7 then decodeMajor6A w
  else if w.bits 25 7 = 0x6B#7 then decodeMajor6B w
  else if w.bits 25 7 = 0x6C#7 then decodeMajor6C w
  else if w.bits 25 7 = 0x6D#7 then decodeMajor6D w
  else none

/-- The instruction that a word encodes, or none (R41). (DEDUCED, log entry 22.) -/
noncomputable def decode (w : Word) : Option Instr :=
  match decodeFields w with
  | some i => if i.wf then some i else none
  | none => none

/-! ## The encoder

The word of each instruction from the same tables, by name, so that a meaning can put its own word into `TADDR`. -/

/-- ADD (R52). -/
def wordAdd (d : BitVec 5) (a : BitVec 5) (b : BitVec 5) (fa : Bool) (fb : Bool) : Word := 0x1#7 ++ d ++ a ++ b ++ bit1 fa ++ bit1 fb ++ 0x0#8
/-- SUB (R52). -/
def wordSub (d : BitVec 5) (a : BitVec 5) (b : BitVec 5) (fa : Bool) (fb : Bool) : Word := 0x1#7 ++ d ++ a ++ b ++ bit1 fa ++ bit1 fb ++ 0x1#8
/-- AND (R52). -/
def wordAndR (d : BitVec 5) (a : BitVec 5) (b : BitVec 5) (fa : Bool) (fb : Bool) : Word := 0x1#7 ++ d ++ a ++ b ++ bit1 fa ++ bit1 fb ++ 0x2#8
/-- OR (R52). -/
def wordOrR (d : BitVec 5) (a : BitVec 5) (b : BitVec 5) (fa : Bool) (fb : Bool) : Word := 0x1#7 ++ d ++ a ++ b ++ bit1 fa ++ bit1 fb ++ 0x3#8
/-- XOR (R52). -/
def wordXorR (d : BitVec 5) (a : BitVec 5) (b : BitVec 5) (fa : Bool) (fb : Bool) : Word := 0x1#7 ++ d ++ a ++ b ++ bit1 fa ++ bit1 fb ++ 0x4#8
/-- ANDN (R52). -/
def wordAndn (d : BitVec 5) (a : BitVec 5) (b : BitVec 5) (fa : Bool) (fb : Bool) : Word := 0x1#7 ++ d ++ a ++ b ++ bit1 fa ++ bit1 fb ++ 0x5#8
/-- ADDW (R52). -/
def wordAddw (d : BitVec 5) (a : BitVec 5) (b : BitVec 5) (fa : Bool) (fb : Bool) : Word := 0x1#7 ++ d ++ a ++ b ++ bit1 fa ++ bit1 fb ++ 0x10#8
/-- SUBW (R52). -/
def wordSubw (d : BitVec 5) (a : BitVec 5) (b : BitVec 5) (fa : Bool) (fb : Bool) : Word := 0x1#7 ++ d ++ a ++ b ++ bit1 fa ++ bit1 fb ++ 0x11#8
/-- ADDSAT (R52). -/
def wordAddsat (d : BitVec 5) (a : BitVec 5) (b : BitVec 5) (fa : Bool) (fb : Bool) : Word := 0x1#7 ++ d ++ a ++ b ++ bit1 fa ++ bit1 fb ++ 0x20#8
/-- SUBSAT (R52). -/
def wordSubsat (d : BitVec 5) (a : BitVec 5) (b : BitVec 5) (fa : Bool) (fb : Bool) : Word := 0x1#7 ++ d ++ a ++ b ++ bit1 fa ++ bit1 fb ++ 0x21#8
/-- SLL (R53). -/
def wordSll (d : BitVec 5) (a : BitVec 5) (b : BitVec 5) (fa : Bool) (fb : Bool) : Word := 0x2#7 ++ d ++ a ++ b ++ bit1 fa ++ bit1 fb ++ 0x0#8
/-- SRL (R53). -/
def wordSrl (d : BitVec 5) (a : BitVec 5) (b : BitVec 5) (fa : Bool) (fb : Bool) : Word := 0x2#7 ++ d ++ a ++ b ++ bit1 fa ++ bit1 fb ++ 0x1#8
/-- SRA (R53). -/
def wordSra (d : BitVec 5) (a : BitVec 5) (b : BitVec 5) (fa : Bool) (fb : Bool) : Word := 0x2#7 ++ d ++ a ++ b ++ bit1 fa ++ bit1 fb ++ 0x2#8
/-- ROL (R53). -/
def wordRol (d : BitVec 5) (a : BitVec 5) (b : BitVec 5) (fa : Bool) (fb : Bool) : Word := 0x2#7 ++ d ++ a ++ b ++ bit1 fa ++ bit1 fb ++ 0x3#8
/-- ROR (R53). -/
def wordRor (d : BitVec 5) (a : BitVec 5) (b : BitVec 5) (fa : Bool) (fb : Bool) : Word := 0x2#7 ++ d ++ a ++ b ++ bit1 fa ++ bit1 fb ++ 0x4#8
/-- SLLW (R53). -/
def wordSllw (d : BitVec 5) (a : BitVec 5) (b : BitVec 5) (fa : Bool) (fb : Bool) : Word := 0x2#7 ++ d ++ a ++ b ++ bit1 fa ++ bit1 fb ++ 0x10#8
/-- SRLW (R53). -/
def wordSrlw (d : BitVec 5) (a : BitVec 5) (b : BitVec 5) (fa : Bool) (fb : Bool) : Word := 0x2#7 ++ d ++ a ++ b ++ bit1 fa ++ bit1 fb ++ 0x11#8
/-- SRAW (R53). -/
def wordSraw (d : BitVec 5) (a : BitVec 5) (b : BitVec 5) (fa : Bool) (fb : Bool) : Word := 0x2#7 ++ d ++ a ++ b ++ bit1 fa ++ bit1 fb ++ 0x12#8
/-- MUL (R54). -/
def wordMul (d : BitVec 5) (a : BitVec 5) (b : BitVec 5) (fa : Bool) (fb : Bool) : Word := 0x3#7 ++ d ++ a ++ b ++ bit1 fa ++ bit1 fb ++ 0x0#8
/-- MULH (R54). -/
def wordMulh (d : BitVec 5) (a : BitVec 5) (b : BitVec 5) (fa : Bool) (fb : Bool) : Word := 0x3#7 ++ d ++ a ++ b ++ bit1 fa ++ bit1 fb ++ 0x1#8
/-- MULHU (R54). -/
def wordMulhu (d : BitVec 5) (a : BitVec 5) (b : BitVec 5) (fa : Bool) (fb : Bool) : Word := 0x3#7 ++ d ++ a ++ b ++ bit1 fa ++ bit1 fb ++ 0x2#8
/-- MULHSU (R54). -/
def wordMulhsu (d : BitVec 5) (a : BitVec 5) (b : BitVec 5) (fa : Bool) (fb : Bool) : Word := 0x3#7 ++ d ++ a ++ b ++ bit1 fa ++ bit1 fb ++ 0x3#8
/-- MULW (R54). -/
def wordMulw (d : BitVec 5) (a : BitVec 5) (b : BitVec 5) (fa : Bool) (fb : Bool) : Word := 0x3#7 ++ d ++ a ++ b ++ bit1 fa ++ bit1 fb ++ 0x10#8
/-- DIV (R55). -/
def wordDiv (d : BitVec 5) (a : BitVec 5) (b : BitVec 5) (fa : Bool) (fb : Bool) : Word := 0x4#7 ++ d ++ a ++ b ++ bit1 fa ++ bit1 fb ++ 0x0#8
/-- DIVU (R55). -/
def wordDivu (d : BitVec 5) (a : BitVec 5) (b : BitVec 5) (fa : Bool) (fb : Bool) : Word := 0x4#7 ++ d ++ a ++ b ++ bit1 fa ++ bit1 fb ++ 0x1#8
/-- REM (R55). -/
def wordRem (d : BitVec 5) (a : BitVec 5) (b : BitVec 5) (fa : Bool) (fb : Bool) : Word := 0x4#7 ++ d ++ a ++ b ++ bit1 fa ++ bit1 fb ++ 0x2#8
/-- REMU (R55). -/
def wordRemu (d : BitVec 5) (a : BitVec 5) (b : BitVec 5) (fa : Bool) (fb : Bool) : Word := 0x4#7 ++ d ++ a ++ b ++ bit1 fa ++ bit1 fb ++ 0x3#8
/-- DIVW (R55). -/
def wordDivw (d : BitVec 5) (a : BitVec 5) (b : BitVec 5) (fa : Bool) (fb : Bool) : Word := 0x4#7 ++ d ++ a ++ b ++ bit1 fa ++ bit1 fb ++ 0x10#8
/-- DIVUW (R55). -/
def wordDivuw (d : BitVec 5) (a : BitVec 5) (b : BitVec 5) (fa : Bool) (fb : Bool) : Word := 0x4#7 ++ d ++ a ++ b ++ bit1 fa ++ bit1 fb ++ 0x11#8
/-- REMW (R55). -/
def wordRemw (d : BitVec 5) (a : BitVec 5) (b : BitVec 5) (fa : Bool) (fb : Bool) : Word := 0x4#7 ++ d ++ a ++ b ++ bit1 fa ++ bit1 fb ++ 0x12#8
/-- REMUW (R55). -/
def wordRemuw (d : BitVec 5) (a : BitVec 5) (b : BitVec 5) (fa : Bool) (fb : Bool) : Word := 0x4#7 ++ d ++ a ++ b ++ bit1 fa ++ bit1 fb ++ 0x13#8
/-- MIN (R56). -/
def wordMin (d : BitVec 5) (a : BitVec 5) (b : BitVec 5) (fa : Bool) (fb : Bool) : Word := 0x5#7 ++ d ++ a ++ b ++ bit1 fa ++ bit1 fb ++ 0x0#8
/-- MAX (R56). -/
def wordMax (d : BitVec 5) (a : BitVec 5) (b : BitVec 5) (fa : Bool) (fb : Bool) : Word := 0x5#7 ++ d ++ a ++ b ++ bit1 fa ++ bit1 fb ++ 0x1#8
/-- MINU (R56). -/
def wordMinu (d : BitVec 5) (a : BitVec 5) (b : BitVec 5) (fa : Bool) (fb : Bool) : Word := 0x5#7 ++ d ++ a ++ b ++ bit1 fa ++ bit1 fb ++ 0x2#8
/-- MAXU (R56). -/
def wordMaxu (d : BitVec 5) (a : BitVec 5) (b : BitVec 5) (fa : Bool) (fb : Bool) : Word := 0x5#7 ++ d ++ a ++ b ++ bit1 fa ++ bit1 fb ++ 0x3#8
/-- CLZ (R56). -/
def wordClz (d : BitVec 5) (a : BitVec 5) (fa : Bool) : Word := 0x5#7 ++ d ++ a ++ 0x0#5 ++ bit1 fa ++ 0x8#9
/-- POPC (R56). -/
def wordPopc (d : BitVec 5) (a : BitVec 5) (fa : Bool) : Word := 0x5#7 ++ d ++ a ++ 0x0#5 ++ bit1 fa ++ 0x9#9
/-- SEL (R57). -/
def wordSel (d : BitVec 5) (a : BitVec 5) (b : BitVec 5) (fa : Bool) (fb : Bool) (neg : Bool) (p : BitVec 3) : Word := 0x6#7 ++ d ++ a ++ b ++ bit1 fa ++ bit1 fb ++ 0x0#4 ++ bit1 neg ++ p
/-- SCADD (R58). -/
def wordScadd (d : BitVec 5) (a : BitVec 5) (b : BitVec 5) (fa : Bool) (fb : Bool) (sh : BitVec 2) : Word := 0x7#7 ++ d ++ a ++ b ++ bit1 fa ++ bit1 fb ++ 0x0#6 ++ sh
/-- SCADDX (R58). -/
def wordScaddx (d : BitVec 5) (a : BitVec 5) (b : BitVec 5) (fa : Bool) (fb : Bool) (sh : BitVec 2) : Word := 0x7#7 ++ d ++ a ++ b ++ bit1 fa ++ bit1 fb ++ 0x4#6 ++ sh
/-- SCADDZ (R58). -/
def wordScaddz (d : BitVec 5) (a : BitVec 5) (b : BitVec 5) (fa : Bool) (fb : Bool) (sh : BitVec 2) : Word := 0x7#7 ++ d ++ a ++ b ++ bit1 fa ++ bit1 fb ++ 0x8#6 ++ sh
/-- ADDI (R59). -/
def wordAddi (d : BitVec 5) (a : BitVec 5) (imm : BitVec 15) : Word := 0x10#7 ++ d ++ a ++ imm
/-- ANDI (R59). -/
def wordAndi (d : BitVec 5) (a : BitVec 5) (imm : BitVec 15) : Word := 0x11#7 ++ d ++ a ++ imm
/-- ORI (R59). -/
def wordOri (d : BitVec 5) (a : BitVec 5) (imm : BitVec 15) : Word := 0x12#7 ++ d ++ a ++ imm
/-- XORI (R59). -/
def wordXori (d : BitVec 5) (a : BitVec 5) (imm : BitVec 15) : Word := 0x13#7 ++ d ++ a ++ imm
/-- ADDIW (R59). -/
def wordAddiw (d : BitVec 5) (a : BitVec 5) (imm : BitVec 15) : Word := 0x15#7 ++ d ++ a ++ imm
/-- SLLI (R60). -/
def wordSlli (d : BitVec 5) (a : BitVec 5) (n : BitVec 6) : Word := 0x14#7 ++ d ++ a ++ 0x0#9 ++ n
/-- SRLI (R60). -/
def wordSrli (d : BitVec 5) (a : BitVec 5) (n : BitVec 6) : Word := 0x14#7 ++ d ++ a ++ 0x40#9 ++ n
/-- SRAI (R60). -/
def wordSrai (d : BitVec 5) (a : BitVec 5) (n : BitVec 6) : Word := 0x14#7 ++ d ++ a ++ 0x80#9 ++ n
/-- RORI (R60). -/
def wordRori (d : BitVec 5) (a : BitVec 5) (n : BitVec 6) : Word := 0x14#7 ++ d ++ a ++ 0xC0#9 ++ n
/-- SLLIW (R60). -/
def wordSlliw (d : BitVec 5) (a : BitVec 5) (n : BitVec 5) : Word := 0x14#7 ++ d ++ a ++ 0x200#10 ++ n
/-- SRLIW (R60). -/
def wordSrliw (d : BitVec 5) (a : BitVec 5) (n : BitVec 5) : Word := 0x14#7 ++ d ++ a ++ 0x280#10 ++ n
/-- SRAIW (R60). -/
def wordSraiw (d : BitVec 5) (a : BitVec 5) (n : BitVec 5) : Word := 0x14#7 ++ d ++ a ++ 0x300#10 ++ n
/-- CMPEQI (R61). -/
def wordCmpeqi (p : BitVec 3) (a : BitVec 5) (imm : BitVec 12) : Word := 0x16#7 ++ 0x0#2 ++ p ++ a ++ 0x0#3 ++ imm
/-- CMPNEI (R61). -/
def wordCmpnei (p : BitVec 3) (a : BitVec 5) (imm : BitVec 12) : Word := 0x16#7 ++ 0x0#2 ++ p ++ a ++ 0x1#3 ++ imm
/-- CMPLTI (R61). -/
def wordCmplti (p : BitVec 3) (a : BitVec 5) (imm : BitVec 12) : Word := 0x16#7 ++ 0x0#2 ++ p ++ a ++ 0x2#3 ++ imm
/-- CMPGEI (R61). -/
def wordCmpgei (p : BitVec 3) (a : BitVec 5) (imm : BitVec 12) : Word := 0x16#7 ++ 0x0#2 ++ p ++ a ++ 0x3#3 ++ imm
/-- CMPLTUI (R61). -/
def wordCmpltui (p : BitVec 3) (a : BitVec 5) (imm : BitVec 12) : Word := 0x16#7 ++ 0x0#2 ++ p ++ a ++ 0x4#3 ++ imm
/-- CMPGEUI (R61). -/
def wordCmpgeui (p : BitVec 3) (a : BitVec 5) (imm : BitVec 12) : Word := 0x16#7 ++ 0x0#2 ++ p ++ a ++ 0x5#3 ++ imm
/-- LUI (R62). -/
def wordLui (d : BitVec 5) (imm : BitVec 20) : Word := 0x17#7 ++ d ++ imm
/-- PLD (R79). -/
def wordPld (d : BitVec 5) (a : BitVec 5) (kind : BitVec 3) (off : BitVec 11) : Word := 0x18#7 ++ d ++ a ++ kind ++ 0x0#1 ++ off
/-- PLD_INDEXED (R79). -/
def wordPldIndexed (d : BitVec 5) (a : BitVec 5) (kind : BitVec 3) (idx : BitVec 5) : Word := 0x18#7 ++ d ++ a ++ kind ++ 0x1#1 ++ idx ++ 0x0#6
/-- PST (R80). -/
def wordPst (d : BitVec 5) (a : BitVec 5) (kind : BitVec 2) (off : BitVec 11) : Word := 0x19#7 ++ d ++ a ++ 0x0#1 ++ kind ++ 0x0#1 ++ off
/-- PST_INDEXED (R80). -/
def wordPstIndexed (d : BitVec 5) (a : BitVec 5) (kind : BitVec 2) (idx : BitVec 5) : Word := 0x19#7 ++ d ++ a ++ 0x0#1 ++ kind ++ 0x1#1 ++ idx ++ 0x0#6
/-- GLD (R81). -/
def wordGld (d : BitVec 5) (a : BitVec 5) (kind : BitVec 3) (off : BitVec 11) : Word := 0x1A#7 ++ d ++ a ++ kind ++ 0x0#1 ++ off
/-- GLD_INDEXED (R81). -/
def wordGldIndexed (d : BitVec 5) (a : BitVec 5) (kind : BitVec 3) (idx : BitVec 5) : Word := 0x1A#7 ++ d ++ a ++ kind ++ 0x1#1 ++ idx ++ 0x0#6
/-- GST (R81). -/
def wordGst (d : BitVec 5) (a : BitVec 5) (width : BitVec 2) (sc : BitVec 3) (off : BitVec 9) : Word := 0x1B#7 ++ d ++ a ++ width ++ sc ++ 0x0#1 ++ off
/-- GST_INDEXED (R81). -/
def wordGstIndexed (d : BitVec 5) (a : BitVec 5) (width : BitVec 2) (sc : BitVec 3) (idx : BitVec 5) : Word := 0x1B#7 ++ d ++ a ++ width ++ sc ++ 0x1#1 ++ idx ++ 0x0#4
/-- PBR (R64). -/
def wordPbr (b : BitVec 3) (disp : BitVec 22) : Word := 0x1C#7 ++ b ++ disp
/-- BR (R66). -/
def wordBr (b : BitVec 3) (p : BitVec 3) (neg : Bool) : Word := 0x1D#7 ++ b ++ p ++ bit1 neg ++ 0x0#18
/-- BRL (R66). -/
def wordBrl (b : BitVec 3) (p : BitVec 3) (neg : Bool) : Word := 0x1E#7 ++ b ++ p ++ bit1 neg ++ 0x0#18
/-- CMPEQ (R63). -/
def wordCmpeq (p : BitVec 3) (a : BitVec 5) (b : BitVec 5) (fa : Bool) (fb : Bool) : Word := 0x1F#7 ++ 0x0#2 ++ p ++ a ++ b ++ bit1 fa ++ bit1 fb ++ 0x0#8
/-- CMPNE (R63). -/
def wordCmpne (p : BitVec 3) (a : BitVec 5) (b : BitVec 5) (fa : Bool) (fb : Bool) : Word := 0x1F#7 ++ 0x0#2 ++ p ++ a ++ b ++ bit1 fa ++ bit1 fb ++ 0x1#8
/-- CMPLT (R63). -/
def wordCmplt (p : BitVec 3) (a : BitVec 5) (b : BitVec 5) (fa : Bool) (fb : Bool) : Word := 0x1F#7 ++ 0x0#2 ++ p ++ a ++ b ++ bit1 fa ++ bit1 fb ++ 0x2#8
/-- CMPGE (R63). -/
def wordCmpge (p : BitVec 3) (a : BitVec 5) (b : BitVec 5) (fa : Bool) (fb : Bool) : Word := 0x1F#7 ++ 0x0#2 ++ p ++ a ++ b ++ bit1 fa ++ bit1 fb ++ 0x3#8
/-- CMPLTU (R63). -/
def wordCmpltu (p : BitVec 3) (a : BitVec 5) (b : BitVec 5) (fa : Bool) (fb : Bool) : Word := 0x1F#7 ++ 0x0#2 ++ p ++ a ++ b ++ bit1 fa ++ bit1 fb ++ 0x4#8
/-- CMPGEU (R63). -/
def wordCmpgeu (p : BitVec 3) (a : BitVec 5) (b : BitVec 5) (fa : Bool) (fb : Bool) : Word := 0x1F#7 ++ 0x0#2 ++ p ++ a ++ b ++ bit1 fa ++ bit1 fb ++ 0x5#8
/-- PAND (R63). -/
def wordPand (d : BitVec 3) (a : BitVec 3) (b : BitVec 3) : Word := 0x1F#7 ++ 0x0#2 ++ d ++ 0x0#2 ++ a ++ 0x0#2 ++ b ++ 0x10#10
/-- POR (R63). -/
def wordPor (d : BitVec 3) (a : BitVec 3) (b : BitVec 3) : Word := 0x1F#7 ++ 0x0#2 ++ d ++ 0x0#2 ++ a ++ 0x0#2 ++ b ++ 0x11#10
/-- PXOR (R63). -/
def wordPxor (d : BitVec 3) (a : BitVec 3) (b : BitVec 3) : Word := 0x1F#7 ++ 0x0#2 ++ d ++ 0x0#2 ++ a ++ 0x0#2 ++ b ++ 0x12#10
/-- PANDN (R63). -/
def wordPandn (d : BitVec 3) (a : BitVec 3) (b : BitVec 3) : Word := 0x1F#7 ++ 0x0#2 ++ d ++ 0x0#2 ++ a ++ 0x0#2 ++ b ++ 0x13#10
/-- PNOT (R63). -/
def wordPnot (d : BitVec 3) (a : BitVec 3) : Word := 0x1F#7 ++ 0x0#2 ++ d ++ 0x0#2 ++ a ++ 0x14#15
/-- PGET (R63). -/
def wordPget (d : BitVec 5) (a : BitVec 3) : Word := 0x1F#7 ++ d ++ 0x0#2 ++ a ++ 0x18#15
/-- PSET (R63). -/
def wordPset (d : BitVec 3) (a : BitVec 5) (fa : Bool) : Word := 0x1F#7 ++ 0x0#2 ++ d ++ a ++ 0x0#5 ++ bit1 fa ++ 0x19#9
/-- PBRR (R65). -/
def wordPbrr (d : BitVec 3) (a : BitVec 5) (fa : Bool) : Word := 0x20#7 ++ 0x0#2 ++ d ++ a ++ 0x0#5 ++ bit1 fa ++ 0x0#9
/-- LOOP (R68). -/
def wordLoop (lvl : BitVec 2) (a : BitVec 5) (len : BitVec 12) : Word := 0x21#7 ++ 0x0#3 ++ lvl ++ a ++ 0x0#3 ++ len
/-- LOOPI (R68). -/
def wordLoopi (lvl : BitVec 2) (raw : BitVec 8) (len : BitVec 12) : Word := 0x21#7 ++ 0x1#3 ++ lvl ++ raw ++ len
/-- LBRK (R70). -/
def wordLbrk (lvl : BitVec 2) : Word := 0x21#7 ++ 0x2#3 ++ lvl ++ 0x0#20
/-- MCALL (R73). -/
def wordMcall (a : BitVec 5) (m : BitVec 6) : Word := 0x22#7 ++ 0x0#5 ++ a ++ 0x0#9 ++ m
/-- MSTORE (R73). -/
def wordMstore (a : BitVec 5) (stepNo : BitVec 5) (m : BitVec 6) : Word := 0x22#7 ++ 0x1#5 ++ a ++ 0x0#4 ++ stepNo ++ m
/-- MOV (R75). -/
def wordMov (d : BitVec 5) (a : BitVec 5) : Word := 0x23#7 ++ d ++ a ++ 0x0#15
/-- MFS (R75). -/
def wordMfs (d : BitVec 5) (r : BitVec 12) : Word := 0x23#7 ++ d ++ 0x1#8 ++ r
/-- MFS_TCAUSE (R325). -/
def wordMfsTcause (d : BitVec 5) : Word := 0x23#7 ++ d ++ 0x1020#20
/-- MFS_ENGINE_STATUS (R16). -/
def wordMfsEngineStatus (d : BitVec 5) (r : BitVec 12) : Word := 0x23#7 ++ d ++ 0x1#8 ++ r
/-- MTS (R21). -/
def wordMts (a : BitVec 5) (r : BitVec 12) : Word := 0x23#7 ++ 0x0#5 ++ a ++ 0x2#3 ++ r
/-- MTS_PARTW (R22). -/
def wordMtsPartw (a : BitVec 5) : Word := 0x23#7 ++ 0x0#5 ++ a ++ 0x2000#15
/-- MTS_FPCTL (R23). -/
def wordMtsFpctl (a : BitVec 5) : Word := 0x23#7 ++ 0x0#5 ++ a ++ 0x2001#15
/-- MTS_FPFLAG (R24). -/
def wordMtsFpflag (a : BitVec 5) : Word := 0x23#7 ++ 0x0#5 ++ a ++ 0x2002#15
/-- MTS_LC (R75). -/
def wordMtsLc (a : BitVec 5) (r : BitVec 12) : Word := 0x23#7 ++ 0x0#5 ++ a ++ 0x2#3 ++ r
/-- MTS_MSDEPTH (R32). -/
def wordMtsMsdepth (a : BitVec 5) : Word := 0x23#7 ++ 0x0#5 ++ a ++ 0x2016#15
/-- MTS_QHT (R30). -/
def wordMtsQht (a : BitVec 5) (r : BitVec 12) : Word := 0x23#7 ++ 0x0#5 ++ a ++ 0x2#3 ++ r
/-- CYC (R76). -/
def wordCyc (d : BitVec 5) : Word := 0x24#7 ++ d ++ 0x1#20
/-- NOP (R77). -/
def wordNop : Word := 0x24#7 ++ 0x0#25
/-- OVL (R86). -/
def wordOvl (a : BitVec 5) (fa : Bool) : Word := 0x24#7 ++ 0x0#5 ++ a ++ 0x0#5 ++ bit1 fa ++ 0x2#9
/-- EXIT (R87). -/
def wordExit : Word := 0x24#7 ++ 0x3#25
/-- VADD_F32 (R96). -/
def wordVaddF32 (d : BitVec 5) (a : BitVec 5) (b : BitVec 5) (rm : BitVec 3) : Word := 0x40#7 ++ d ++ a ++ b ++ rm ++ 0x0#7
/-- VSUB_F32 (R96). -/
def wordVsubF32 (d : BitVec 5) (a : BitVec 5) (b : BitVec 5) (rm : BitVec 3) : Word := 0x40#7 ++ d ++ a ++ b ++ rm ++ 0x1#7
/-- VMUL_F32 (R96). -/
def wordVmulF32 (d : BitVec 5) (a : BitVec 5) (b : BitVec 5) (rm : BitVec 3) : Word := 0x40#7 ++ d ++ a ++ b ++ rm ++ 0x2#7
/-- VFMA_F32 (R96). -/
def wordVfmaF32 (d : BitVec 5) (a : BitVec 5) (b : BitVec 5) (rm : BitVec 3) : Word := 0x40#7 ++ d ++ a ++ b ++ rm ++ 0x3#7
/-- VFMS_F32 (R96). -/
def wordVfmsF32 (d : BitVec 5) (a : BitVec 5) (b : BitVec 5) (rm : BitVec 3) : Word := 0x40#7 ++ d ++ a ++ b ++ rm ++ 0x4#7
/-- VFNMA_F32 (R96). -/
def wordVfnmaF32 (d : BitVec 5) (a : BitVec 5) (b : BitVec 5) (rm : BitVec 3) : Word := 0x40#7 ++ d ++ a ++ b ++ rm ++ 0x5#7
/-- VMIN_F32 (R97). -/
def wordVminF32 (d : BitVec 5) (a : BitVec 5) (b : BitVec 5) : Word := 0x40#7 ++ d ++ a ++ b ++ 0x6#10
/-- VMAX_F32 (R97). -/
def wordVmaxF32 (d : BitVec 5) (a : BitVec 5) (b : BitVec 5) : Word := 0x40#7 ++ d ++ a ++ b ++ 0x7#10
/-- VABS_F32 (R96). -/
def wordVabsF32 (d : BitVec 5) (a : BitVec 5) : Word := 0x40#7 ++ d ++ a ++ 0x8#15
/-- VNEG_F32 (R96). -/
def wordVnegF32 (d : BitVec 5) (a : BitVec 5) : Word := 0x40#7 ++ d ++ a ++ 0x9#15
/-- VEXP2 (R99). -/
def wordVexp2 (d : BitVec 5) (a : BitVec 5) (rm : Bool) : Word := 0x40#7 ++ d ++ a ++ 0x0#7 ++ bit1 rm ++ 0x10#7
/-- VRCP (R99). -/
def wordVrcp (d : BitVec 5) (a : BitVec 5) (rm : Bool) : Word := 0x40#7 ++ d ++ a ++ 0x0#7 ++ bit1 rm ++ 0x11#7
/-- VRSQ (R99). -/
def wordVrsq (d : BitVec 5) (a : BitVec 5) (rm : Bool) : Word := 0x40#7 ++ d ++ a ++ 0x0#7 ++ bit1 rm ++ 0x12#7
/-- VLOG2 (R99). -/
def wordVlog2 (d : BitVec 5) (a : BitVec 5) (rm : Bool) : Word := 0x40#7 ++ d ++ a ++ 0x0#7 ++ bit1 rm ++ 0x13#7
/-- VADD_BF16 (R98). -/
def wordVaddBf16 (d : BitVec 5) (a : BitVec 5) (b : BitVec 5) (rm : BitVec 3) : Word := 0x41#7 ++ d ++ a ++ b ++ rm ++ 0x0#7
/-- VSUB_BF16 (R98). -/
def wordVsubBf16 (d : BitVec 5) (a : BitVec 5) (b : BitVec 5) (rm : BitVec 3) : Word := 0x41#7 ++ d ++ a ++ b ++ rm ++ 0x1#7
/-- VMUL_BF16 (R98). -/
def wordVmulBf16 (d : BitVec 5) (a : BitVec 5) (b : BitVec 5) (rm : BitVec 3) : Word := 0x41#7 ++ d ++ a ++ b ++ rm ++ 0x2#7
/-- VFMA_BF16 (R98). -/
def wordVfmaBf16 (d : BitVec 5) (a : BitVec 5) (b : BitVec 5) (rm : BitVec 3) : Word := 0x41#7 ++ d ++ a ++ b ++ rm ++ 0x3#7
/-- VFMS_BF16 (R98). -/
def wordVfmsBf16 (d : BitVec 5) (a : BitVec 5) (b : BitVec 5) (rm : BitVec 3) : Word := 0x41#7 ++ d ++ a ++ b ++ rm ++ 0x4#7
/-- VFNMA_BF16 (R98). -/
def wordVfnmaBf16 (d : BitVec 5) (a : BitVec 5) (b : BitVec 5) (rm : BitVec 3) : Word := 0x41#7 ++ d ++ a ++ b ++ rm ++ 0x5#7
/-- VMIN_BF16 (R97). -/
def wordVminBf16 (d : BitVec 5) (a : BitVec 5) (b : BitVec 5) : Word := 0x41#7 ++ d ++ a ++ b ++ 0x6#10
/-- VMAX_BF16 (R97). -/
def wordVmaxBf16 (d : BitVec 5) (a : BitVec 5) (b : BitVec 5) : Word := 0x41#7 ++ d ++ a ++ b ++ 0x7#10
/-- VABS_BF16 (R96). -/
def wordVabsBf16 (d : BitVec 5) (a : BitVec 5) : Word := 0x41#7 ++ d ++ a ++ 0x8#15
/-- VNEG_BF16 (R96). -/
def wordVnegBf16 (d : BitVec 5) (a : BitVec 5) : Word := 0x41#7 ++ d ++ a ++ 0x9#15
/-- VADD_I32 (R100). -/
def wordVaddI32 (d : BitVec 5) (a : BitVec 5) (b : BitVec 5) : Word := 0x42#7 ++ d ++ a ++ b ++ 0x0#10
/-- VSUB_I32 (R100). -/
def wordVsubI32 (d : BitVec 5) (a : BitVec 5) (b : BitVec 5) : Word := 0x42#7 ++ d ++ a ++ b ++ 0x1#10
/-- VMUL_I32 (R100). -/
def wordVmulI32 (d : BitVec 5) (a : BitVec 5) (b : BitVec 5) : Word := 0x42#7 ++ d ++ a ++ b ++ 0x2#10
/-- VMULH_I32 (R100). -/
def wordVmulhI32 (d : BitVec 5) (a : BitVec 5) (b : BitVec 5) : Word := 0x42#7 ++ d ++ a ++ b ++ 0x3#10
/-- VMULH_Z32 (R100). -/
def wordVmulhZ32 (d : BitVec 5) (a : BitVec 5) (b : BitVec 5) : Word := 0x42#7 ++ d ++ a ++ b ++ 0x4#10
/-- VADDS_I32 (R100). -/
def wordVaddsI32 (d : BitVec 5) (a : BitVec 5) (b : BitVec 5) : Word := 0x42#7 ++ d ++ a ++ b ++ 0x5#10
/-- VSUBS_I32 (R100). -/
def wordVsubsI32 (d : BitVec 5) (a : BitVec 5) (b : BitVec 5) : Word := 0x42#7 ++ d ++ a ++ b ++ 0x6#10
/-- VADDS_Z32 (R100). -/
def wordVaddsZ32 (d : BitVec 5) (a : BitVec 5) (b : BitVec 5) : Word := 0x42#7 ++ d ++ a ++ b ++ 0x7#10
/-- VSUBS_Z32 (R100). -/
def wordVsubsZ32 (d : BitVec 5) (a : BitVec 5) (b : BitVec 5) : Word := 0x42#7 ++ d ++ a ++ b ++ 0x8#10
/-- VMIN_I32 (R100). -/
def wordVminI32 (d : BitVec 5) (a : BitVec 5) (b : BitVec 5) : Word := 0x42#7 ++ d ++ a ++ b ++ 0x9#10
/-- VMAX_I32 (R100). -/
def wordVmaxI32 (d : BitVec 5) (a : BitVec 5) (b : BitVec 5) : Word := 0x42#7 ++ d ++ a ++ b ++ 0xA#10
/-- VMIN_Z32 (R100). -/
def wordVminZ32 (d : BitVec 5) (a : BitVec 5) (b : BitVec 5) : Word := 0x42#7 ++ d ++ a ++ b ++ 0xB#10
/-- VMAX_Z32 (R100). -/
def wordVmaxZ32 (d : BitVec 5) (a : BitVec 5) (b : BitVec 5) : Word := 0x42#7 ++ d ++ a ++ b ++ 0xC#10
/-- VAND (R100). -/
def wordVand (d : BitVec 5) (a : BitVec 5) (b : BitVec 5) : Word := 0x42#7 ++ d ++ a ++ b ++ 0x10#10
/-- VOR (R100). -/
def wordVor (d : BitVec 5) (a : BitVec 5) (b : BitVec 5) : Word := 0x42#7 ++ d ++ a ++ b ++ 0x11#10
/-- VXOR (R100). -/
def wordVxor (d : BitVec 5) (a : BitVec 5) (b : BitVec 5) : Word := 0x42#7 ++ d ++ a ++ b ++ 0x12#10
/-- VANDN (R100). -/
def wordVandn (d : BitVec 5) (a : BitVec 5) (b : BitVec 5) : Word := 0x42#7 ++ d ++ a ++ b ++ 0x13#10
/-- VSLL (R100). -/
def wordVsll (d : BitVec 5) (a : BitVec 5) (b : BitVec 5) : Word := 0x42#7 ++ d ++ a ++ b ++ 0x18#10
/-- VSRL (R100). -/
def wordVsrl (d : BitVec 5) (a : BitVec 5) (b : BitVec 5) : Word := 0x42#7 ++ d ++ a ++ b ++ 0x19#10
/-- VSRA (R100). -/
def wordVsra (d : BitVec 5) (a : BitVec 5) (b : BitVec 5) : Word := 0x42#7 ++ d ++ a ++ b ++ 0x1A#10
/-- VSLLI (R100). -/
def wordVslli (d : BitVec 5) (a : BitVec 5) (n : BitVec 5) : Word := 0x42#7 ++ d ++ a ++ n ++ 0x1C#10
/-- VSRLI (R100). -/
def wordVsrli (d : BitVec 5) (a : BitVec 5) (n : BitVec 5) : Word := 0x42#7 ++ d ++ a ++ n ++ 0x1D#10
/-- VSRAI (R100). -/
def wordVsrai (d : BitVec 5) (a : BitVec 5) (n : BitVec 5) : Word := 0x42#7 ++ d ++ a ++ n ++ 0x1E#10
/-- VCMP_F32 (R101). -/
def wordVcmpF32 (q : BitVec 3) (a : BitVec 5) (b : BitVec 5) (cond : BitVec 3) : Word := 0x43#7 ++ 0x0#2 ++ q ++ a ++ b ++ 0x0#7 ++ cond
/-- VCMP_I32 (R101). -/
def wordVcmpI32 (q : BitVec 3) (a : BitVec 5) (b : BitVec 5) (cond : BitVec 3) : Word := 0x43#7 ++ 0x0#2 ++ q ++ a ++ b ++ 0x4#7 ++ cond
/-- VCMP_Z32 (R101). -/
def wordVcmpZ32 (q : BitVec 3) (a : BitVec 5) (b : BitVec 5) (cond : BitVec 3) : Word := 0x43#7 ++ 0x0#2 ++ q ++ a ++ b ++ 0x8#7 ++ cond
/-- QAND (R101). -/
def wordQand (d : BitVec 3) (a : BitVec 3) (b : BitVec 3) : Word := 0x43#7 ++ 0x0#2 ++ d ++ 0x0#2 ++ a ++ 0x0#2 ++ b ++ 0x60#10
/-- QOR (R101). -/
def wordQor (d : BitVec 3) (a : BitVec 3) (b : BitVec 3) : Word := 0x43#7 ++ 0x0#2 ++ d ++ 0x0#2 ++ a ++ 0x0#2 ++ b ++ 0x61#10
/-- QXOR (R101). -/
def wordQxor (d : BitVec 3) (a : BitVec 3) (b : BitVec 3) : Word := 0x43#7 ++ 0x0#2 ++ d ++ 0x0#2 ++ a ++ 0x0#2 ++ b ++ 0x62#10
/-- QANDN (R101). -/
def wordQandn (d : BitVec 3) (a : BitVec 3) (b : BitVec 3) : Word := 0x43#7 ++ 0x0#2 ++ d ++ 0x0#2 ++ a ++ 0x0#2 ++ b ++ 0x63#10
/-- QNOT (R101). -/
def wordQnot (d : BitVec 3) (a : BitVec 3) : Word := 0x43#7 ++ 0x0#2 ++ d ++ 0x0#2 ++ a ++ 0x64#15
/-- QTOP (R101). -/
def wordQtop (d : BitVec 3) : Word := 0x43#7 ++ 0x0#2 ++ d ++ 0x65#20
/-- VCVT_BF16_F32 (R103). -/
def wordVcvtBf16F32 (d : BitVec 5) (a : BitVec 5) (b : BitVec 5) (rm : BitVec 3) (sat : Bool) : Word := 0x44#7 ++ d ++ a ++ b ++ rm ++ bit1 sat ++ 0x0#6
/-- VCVT_F16_F32 (R103). -/
def wordVcvtF16F32 (d : BitVec 5) (a : BitVec 5) (b : BitVec 5) (rm : BitVec 3) (sat : Bool) : Word := 0x44#7 ++ d ++ a ++ b ++ rm ++ bit1 sat ++ 0x1#6
/-- VCVT_F32_BF16_LO (R102). -/
def wordVcvtF32Bf16Lo (d : BitVec 5) (a : BitVec 5) : Word := 0x44#7 ++ d ++ a ++ 0x2#15
/-- VCVT_F32_BF16_HI (R102). -/
def wordVcvtF32Bf16Hi (d : BitVec 5) (a : BitVec 5) : Word := 0x44#7 ++ d ++ a ++ 0x3#15
/-- VCVT_F32_F16_LO (R102). -/
def wordVcvtF32F16Lo (d : BitVec 5) (a : BitVec 5) : Word := 0x44#7 ++ d ++ a ++ 0x4#15
/-- VCVT_F32_F16_HI (R102). -/
def wordVcvtF32F16Hi (d : BitVec 5) (a : BitVec 5) : Word := 0x44#7 ++ d ++ a ++ 0x5#15
/-- VCVT_E4M3_F32 (R103). -/
def wordVcvtE4m3F32 (d : BitVec 5) (a : BitVec 5) (j : BitVec 2) (rm : BitVec 3) (sat : Bool) (rd : BitVec 2) : Word := 0x44#7 ++ d ++ a ++ 0x0#3 ++ j ++ rm ++ bit1 sat ++ rd ++ 0x6#4
/-- VCVT_E5M2_F32 (R103). -/
def wordVcvtE5m2F32 (d : BitVec 5) (a : BitVec 5) (j : BitVec 2) (rm : BitVec 3) (sat : Bool) (rd : BitVec 2) : Word := 0x44#7 ++ d ++ a ++ 0x0#3 ++ j ++ rm ++ bit1 sat ++ rd ++ 0x7#4
/-- VCVT_F32_E4M3 (R102). -/
def wordVcvtF32E4m3 (d : BitVec 5) (a : BitVec 5) (j : BitVec 2) (rd : BitVec 2) : Word := 0x44#7 ++ d ++ a ++ 0x0#3 ++ j ++ 0x0#4 ++ rd ++ 0x8#4
/-- VCVT_F32_E5M2 (R102). -/
def wordVcvtF32E5m2 (d : BitVec 5) (a : BitVec 5) (j : BitVec 2) (rd : BitVec 2) : Word := 0x44#7 ++ d ++ a ++ 0x0#3 ++ j ++ 0x0#4 ++ rd ++ 0x9#4
/-- VCVT_E2M1_F32 (R103). -/
def wordVcvtE2m1F32 (d : BitVec 5) (a : BitVec 5) (n : BitVec 3) (rm : BitVec 3) (sat : Bool) (rd : BitVec 2) : Word := 0x44#7 ++ d ++ a ++ 0x0#2 ++ n ++ rm ++ bit1 sat ++ rd ++ 0xA#4
/-- VCVT_F32_E2M1 (R102). -/
def wordVcvtF32E2m1 (d : BitVec 5) (a : BitVec 5) (n : BitVec 3) (rd : BitVec 2) : Word := 0x44#7 ++ d ++ a ++ 0x0#2 ++ n ++ 0x0#4 ++ rd ++ 0xB#4
/-- VCVT_I32_F32 (R102). -/
def wordVcvtI32F32 (d : BitVec 5) (a : BitVec 5) (rm : BitVec 3) : Word := 0x44#7 ++ d ++ a ++ 0x0#5 ++ rm ++ 0xC#7
/-- VCVT_Z32_F32 (R102). -/
def wordVcvtZ32F32 (d : BitVec 5) (a : BitVec 5) (rm : BitVec 3) : Word := 0x44#7 ++ d ++ a ++ 0x0#5 ++ rm ++ 0xD#7
/-- VCVT_F32_I32 (R102). -/
def wordVcvtF32I32 (d : BitVec 5) (a : BitVec 5) (rm : BitVec 3) : Word := 0x44#7 ++ d ++ a ++ 0x0#5 ++ rm ++ 0xE#7
/-- VCVT_F32_Z32 (R102). -/
def wordVcvtF32Z32 (d : BitVec 5) (a : BitVec 5) (rm : BitVec 3) : Word := 0x44#7 ++ d ++ a ++ 0x0#5 ++ rm ++ 0xF#7
/-- VBSCALE (R104). -/
def wordVbscale (d : BitVec 5) (a : BitVec 5) (b : BitVec 5) (fmt : BitVec 2) (rd : BitVec 2) : Word := 0x45#7 ++ d ++ a ++ b ++ 0x0#5 ++ fmt ++ rd ++ 0x0#1
/-- VBAMAX (R104). -/
def wordVbamax (d : BitVec 5) (a : BitVec 5) (b : BitVec 5) : Word := 0x45#7 ++ d ++ a ++ b ++ 0x20#10
/-- VBPACK (R105). -/
def wordVbpack (d : BitVec 5) (a : BitVec 5) (b : BitVec 5) (rm : BitVec 3) (pHi : Bool) (fmt : BitVec 2) (rd : BitVec 2) (pLo : Bool) : Word := 0x45#7 ++ d ++ a ++ b ++ rm ++ 0x1#1 ++ bit1 pHi ++ fmt ++ rd ++ bit1 pLo
/-- VBUNPK (R106). -/
def wordVbunpk (d : BitVec 5) (a : BitVec 5) (b : BitVec 5) (rm : BitVec 3) (fmt : BitVec 2) (rd : BitVec 2) (p : BitVec 2) (h : Bool) : Word := 0x46#7 ++ d ++ a ++ b ++ rm ++ fmt ++ rd ++ p ++ bit1 h
/-- VRADD_F32 (R107). -/
def wordVraddF32 (d : BitVec 5) (a : BitVec 5) (rm : BitVec 3) : Word := 0x47#7 ++ d ++ a ++ 0x0#5 ++ rm ++ 0x0#7
/-- VRMAX_F32 (R107). -/
def wordVrmaxF32 (d : BitVec 5) (a : BitVec 5) : Word := 0x47#7 ++ d ++ a ++ 0x1#15
/-- VRMIN_F32 (R107). -/
def wordVrminF32 (d : BitVec 5) (a : BitVec 5) : Word := 0x47#7 ++ d ++ a ++ 0x2#15
/-- VRAMAX_F32 (R107). -/
def wordVramaxF32 (d : BitVec 5) (a : BitVec 5) : Word := 0x47#7 ++ d ++ a ++ 0x3#15
/-- VRADD_I32 (R107). -/
def wordVraddI32 (d : BitVec 5) (a : BitVec 5) : Word := 0x47#7 ++ d ++ a ++ 0x8#15
/-- VRMAX_I32 (R107). -/
def wordVrmaxI32 (d : BitVec 5) (a : BitVec 5) : Word := 0x47#7 ++ d ++ a ++ 0x9#15
/-- VRMIN_I32 (R107). -/
def wordVrminI32 (d : BitVec 5) (a : BitVec 5) : Word := 0x47#7 ++ d ++ a ++ 0xA#15
/-- VPERM (R108). -/
def wordVperm (d : BitVec 5) (a : BitVec 5) (b : BitVec 5) : Word := 0x48#7 ++ d ++ a ++ b ++ 0x0#10
/-- VROT (R108). -/
def wordVrot (d : BitVec 5) (a : BitVec 5) (n : BitVec 5) : Word := 0x48#7 ++ d ++ a ++ n ++ 0x1#10
/-- VZIPL (R108). -/
def wordVzipl (d : BitVec 5) (a : BitVec 5) (b : BitVec 5) : Word := 0x48#7 ++ d ++ a ++ b ++ 0x2#10
/-- VZIPH (R108). -/
def wordVziph (d : BitVec 5) (a : BitVec 5) (b : BitVec 5) : Word := 0x48#7 ++ d ++ a ++ b ++ 0x3#10
/-- VMOV (R108). -/
def wordVmov (d : BitVec 5) (a : BitVec 5) : Word := 0x48#7 ++ d ++ a ++ 0x4#15
/-- VBCAST (R108). -/
def wordVbcast (d : BitVec 5) (a : BitVec 5) : Word := 0x48#7 ++ d ++ a ++ 0x8#15
/-- VINS (R108). -/
def wordVins (d : BitVec 5) (a : BitVec 5) (n : BitVec 5) : Word := 0x48#7 ++ d ++ a ++ n ++ 0x9#10
/-- VEXT (R108). -/
def wordVext (d : BitVec 5) (a : BitVec 5) (n : BitVec 5) : Word := 0x48#7 ++ d ++ a ++ n ++ 0xA#10
/-- VEXTZ (R108). -/
def wordVextz (d : BitVec 5) (a : BitVec 5) (n : BitVec 5) : Word := 0x48#7 ++ d ++ a ++ n ++ 0xB#10
/-- S2Q (R108). -/
def wordS2q (d : BitVec 3) (a : BitVec 5) : Word := 0x48#7 ++ 0x0#2 ++ d ++ a ++ 0xC#15
/-- Q2S (R108). -/
def wordQ2s (d : BitVec 5) (a : BitVec 3) : Word := 0x48#7 ++ d ++ 0x0#2 ++ a ++ 0xD#15
/-- MPUSH (R94). -/
def wordMpush (a : BitVec 3) : Word := 0x49#7 ++ 0x0#7 ++ a ++ 0x0#15
/-- MINV (R94). -/
def wordMinv : Word := 0x49#7 ++ 0x100000#25
/-- MPOP (R94). -/
def wordMpop : Word := 0x49#7 ++ 0x200000#25
/-- BRMZ (R95). -/
def wordBrmz (len : BitVec 12) : Word := 0x49#7 ++ 0x300#13 ++ len
/-- VPLD (R109). -/
def wordVpld (d : BitVec 5) (a : BitVec 5) (off : BitVec 12) : Word := 0x4A#7 ++ d ++ a ++ 0x0#3 ++ off
/-- VPLD_INDEXED (R109). -/
def wordVpldIndexed (d : BitVec 5) (a : BitVec 5) (idx : BitVec 5) : Word := 0x4A#7 ++ d ++ a ++ 0x1#3 ++ idx ++ 0x0#7
/-- VPST (R109). -/
def wordVpst (d : BitVec 5) (a : BitVec 5) (off : BitVec 12) : Word := 0x4A#7 ++ d ++ a ++ 0x2#3 ++ off
/-- VPST_INDEXED (R109). -/
def wordVpstIndexed (d : BitVec 5) (a : BitVec 5) (idx : BitVec 5) : Word := 0x4A#7 ++ d ++ a ++ 0x3#3 ++ idx ++ 0x0#7
/-- VLDA (R109). -/
def wordVlda (d : BitVec 5) (a : BitVec 5) (off : BitVec 12) : Word := 0x4A#7 ++ d ++ a ++ 0x4#3 ++ off
/-- VLDA_INDEXED (R109). -/
def wordVldaIndexed (d : BitVec 5) (a : BitVec 5) (idx : BitVec 5) : Word := 0x4A#7 ++ d ++ a ++ 0x5#3 ++ idx ++ 0x0#7
/-- VSTA (R109). -/
def wordVsta (d : BitVec 5) (a : BitVec 5) (off : BitVec 12) : Word := 0x4A#7 ++ d ++ a ++ 0x6#3 ++ off
/-- VSTA_INDEXED (R109). -/
def wordVstaIndexed (d : BitVec 5) (a : BitVec 5) (idx : BitVec 5) : Word := 0x4A#7 ++ d ++ a ++ 0x7#3 ++ idx ++ 0x0#7
/-- VGLD (R110). -/
def wordVgld (d : BitVec 5) (a : BitVec 5) (off : BitVec 10) : Word := 0x4B#7 ++ d ++ a ++ 0x0#5 ++ off
/-- VGLD_INDEXED (R110). -/
def wordVgldIndexed (d : BitVec 5) (a : BitVec 5) (idx : BitVec 5) : Word := 0x4B#7 ++ d ++ a ++ 0x1#5 ++ idx ++ 0x0#5
/-- VGST (R110). -/
def wordVgst (d : BitVec 5) (a : BitVec 5) (sc : BitVec 3) (off : BitVec 10) : Word := 0x4B#7 ++ d ++ a ++ 0x1#1 ++ sc ++ 0x0#1 ++ off
/-- VGST_INDEXED (R110). -/
def wordVgstIndexed (d : BitVec 5) (a : BitVec 5) (sc : BitVec 3) (idx : BitVec 5) : Word := 0x4B#7 ++ d ++ a ++ 0x1#1 ++ sc ++ 0x1#1 ++ idx ++ 0x0#5
/-- SRUN (R119). -/
def wordSrun (sig : BitVec 5) (wa : BitVec 5) (wb : BitVec 5) (wc : BitVec 5) (sp : BitVec 5) : Word := 0x50#7 ++ sig ++ wa ++ wb ++ wc ++ sp
/-- GLDC (R125). -/
def wordGldc (sig : BitVec 5) (wa : BitVec 5) (wb : BitVec 5) (wc : BitVec 5) (sp : BitVec 5) : Word := 0x51#7 ++ sig ++ wa ++ wb ++ wc ++ sp
/-- GGO (R126). -/
def wordGgo (sig : BitVec 5) (wa : BitVec 5) (wb : BitVec 5) (wc : BitVec 5) (sp : BitVec 5) : Word := 0x52#7 ++ sig ++ wa ++ wb ++ wc ++ sp
/-- GMMA (R132). -/
def wordGmma (sig : BitVec 5) (wa : BitVec 5) (wb : BitVec 5) (wc : BitVec 5) (sp : BitVec 5) : Word := 0x53#7 ++ sig ++ wa ++ wb ++ wc ++ sp
/-- COPY (R140). -/
def wordCopy (sig : BitVec 5) (wa : BitVec 5) (wb : BitVec 5) (wc : BitVec 5) (sp : BitVec 5) : Word := 0x58#7 ++ sig ++ wa ++ wb ++ wc ++ sp
/-- COPY2D (R140). -/
def wordCopy2d (sig : BitVec 5) (wa : BitVec 5) (wb : BitVec 5) (wc : BitVec 5) (sp : BitVec 5) : Word := 0x59#7 ++ sig ++ wa ++ wb ++ wc ++ sp
/-- SEND (R143). -/
def wordSend (sig : BitVec 5) (wa : BitVec 5) (wb : BitVec 5) (wc : BitVec 5) (sp : BitVec 5) : Word := 0x5A#7 ++ sig ++ wa ++ wb ++ wc ++ sp
/-- LBIND (R144). -/
def wordLbind (sig : BitVec 5) (wa : BitVec 5) (wb : BitVec 5) (wc : BitVec 5) (sp : BitVec 5) : Word := 0x5B#7 ++ sig ++ wa ++ wb ++ wc ++ sp
/-- LUNBIND (R144). -/
def wordLunbind (sig : BitVec 5) (wa : BitVec 5) (wb : BitVec 5) (wc : BitVec 5) (sp : BitVec 5) : Word := 0x5B#7 ++ sig ++ wa ++ wb ++ wc ++ sp
/-- COPEN (R274). -/
def wordCopen (sig : BitVec 5) (wa : BitVec 5) (wb : BitVec 5) (wc : BitVec 5) (sp : BitVec 5) : Word := 0x6C#7 ++ sig ++ wa ++ wb ++ wc ++ sp
/-- CSTREAM (R276). -/
def wordCstream (sig : BitVec 5) (wa : BitVec 5) (wb : BitVec 5) (wc : BitVec 5) (sp : BitVec 5) : Word := 0x6D#7 ++ sig ++ wa ++ wb ++ wc ++ sp
/-- GSEL (R123). -/
def wordGsel (n : BitVec 2) : Word := 0x54#7 ++ 0x0#3 ++ n ++ 0x0#20
/-- SNEST (R123). -/
def wordSnest (n : BitVec 2) (a : BitVec 5) (lvl : BitVec 3) (fa : Bool) : Word := 0x54#7 ++ 0x0#3 ++ n ++ a ++ 0x0#2 ++ lvl ++ bit1 fa ++ 0x1#9
/-- GSTOP (R124). -/
def wordGstop : Word := 0x54#7 ++ 0x2#25
/-- GFEED (R123). -/
def wordGfeed (a : BitVec 5) (fa : Bool) : Word := 0x54#7 ++ 0x0#5 ++ a ++ 0x0#5 ++ bit1 fa ++ 0x3#9
/-- GPOP (R123). -/
def wordGpop (d : BitVec 5) : Word := 0x54#7 ++ d ++ 0x4#20
/-- PQPOP (R123). -/
def wordPqpop (d : BitVec 3) : Word := 0x54#7 ++ 0x0#2 ++ d ++ 0x5#20
/-- GBANK (R123). -/
def wordGbank (d : BitVec 5) : Word := 0x54#7 ++ d ++ 0x6#20
/-- KWAIT (R116). -/
def wordKwait (a : BitVec 5) : Word := 0x5C#7 ++ 0x0#5 ++ a ++ 0x0#15
/-- KSTAT (R116). -/
def wordKstat (d : BitVec 5) (a : BitVec 5) : Word := 0x5C#7 ++ d ++ a ++ 0x1#15
/-- BUFDEF (R138). -/
def wordBufdef (n : BitVec 5) (a : BitVec 5) (b : BitVec 5) (fa : Bool) (fb : Bool) : Word := 0x5D#7 ++ n ++ a ++ b ++ bit1 fa ++ bit1 fb ++ 0x0#8
/-- BUFREL (R137). -/
def wordBufrel (n : BitVec 5) : Word := 0x5D#7 ++ n ++ 0x1#20
/-- BUFREL_FREE (R137). -/
def wordBufrelFree (n : BitVec 5) : Word := 0x5D#7 ++ n ++ 0x2#20
/-- BUFSTAT (R139). -/
def wordBufstat (d : BitVec 5) (a : BitVec 5) : Word := 0x5D#7 ++ d ++ a ++ 0x3#15
/-- BUFWAIT (R139). -/
def wordBufwait (n : BitVec 5) (st : BitVec 2) : Word := 0x5D#7 ++ n ++ 0x0#8 ++ st ++ 0x4#10
/-- MARK (R194). -/
def wordMark (s : BitVec 3) : Word := 0x60#7 ++ 0x0#22 ++ s
/-- FENCE_REL (R194). -/
def wordFenceRel (s : BitVec 3) : Word := 0x60#7 ++ 0x1#22 ++ s
/-- FENCE_ACQ (R194). -/
def wordFenceAcq (s : BitVec 3) : Word := 0x60#7 ++ 0x2#22 ++ s
/-- FENCE_FULL (R194). -/
def wordFenceFull (s : BitVec 3) : Word := 0x60#7 ++ 0x3#22 ++ s
/-- AMOADD (R198). -/
def wordAmoadd (d : BitVec 5) (a : BitVec 5) (b : BitVec 5) (fa : Bool) (fb : Bool) (esc : Bool) (dbl : Bool) : Word := 0x61#7 ++ d ++ a ++ b ++ bit1 fa ++ bit1 fb ++ 0x0#2 ++ bit1 esc ++ bit1 dbl ++ 0x0#4
/-- AMOAND (R198). -/
def wordAmoand (d : BitVec 5) (a : BitVec 5) (b : BitVec 5) (fa : Bool) (fb : Bool) (esc : Bool) (dbl : Bool) : Word := 0x61#7 ++ d ++ a ++ b ++ bit1 fa ++ bit1 fb ++ 0x0#2 ++ bit1 esc ++ bit1 dbl ++ 0x1#4
/-- AMOOR (R198). -/
def wordAmoor (d : BitVec 5) (a : BitVec 5) (b : BitVec 5) (fa : Bool) (fb : Bool) (esc : Bool) (dbl : Bool) : Word := 0x61#7 ++ d ++ a ++ b ++ bit1 fa ++ bit1 fb ++ 0x0#2 ++ bit1 esc ++ bit1 dbl ++ 0x2#4
/-- AMOXOR (R198). -/
def wordAmoxor (d : BitVec 5) (a : BitVec 5) (b : BitVec 5) (fa : Bool) (fb : Bool) (esc : Bool) (dbl : Bool) : Word := 0x61#7 ++ d ++ a ++ b ++ bit1 fa ++ bit1 fb ++ 0x0#2 ++ bit1 esc ++ bit1 dbl ++ 0x3#4
/-- AMOMIN (R198). -/
def wordAmomin (d : BitVec 5) (a : BitVec 5) (b : BitVec 5) (fa : Bool) (fb : Bool) (esc : Bool) (dbl : Bool) : Word := 0x61#7 ++ d ++ a ++ b ++ bit1 fa ++ bit1 fb ++ 0x0#2 ++ bit1 esc ++ bit1 dbl ++ 0x4#4
/-- AMOMAX (R198). -/
def wordAmomax (d : BitVec 5) (a : BitVec 5) (b : BitVec 5) (fa : Bool) (fb : Bool) (esc : Bool) (dbl : Bool) : Word := 0x61#7 ++ d ++ a ++ b ++ bit1 fa ++ bit1 fb ++ 0x0#2 ++ bit1 esc ++ bit1 dbl ++ 0x5#4
/-- AMOMINZ (R198). -/
def wordAmominz (d : BitVec 5) (a : BitVec 5) (b : BitVec 5) (fa : Bool) (fb : Bool) (esc : Bool) (dbl : Bool) : Word := 0x61#7 ++ d ++ a ++ b ++ bit1 fa ++ bit1 fb ++ 0x0#2 ++ bit1 esc ++ bit1 dbl ++ 0x6#4
/-- AMOMAXZ (R198). -/
def wordAmomaxz (d : BitVec 5) (a : BitVec 5) (b : BitVec 5) (fa : Bool) (fb : Bool) (esc : Bool) (dbl : Bool) : Word := 0x61#7 ++ d ++ a ++ b ++ bit1 fa ++ bit1 fb ++ 0x0#2 ++ bit1 esc ++ bit1 dbl ++ 0x7#4
/-- AMOSWAP (R198). -/
def wordAmoswap (d : BitVec 5) (a : BitVec 5) (b : BitVec 5) (fa : Bool) (fb : Bool) (esc : Bool) (dbl : Bool) : Word := 0x61#7 ++ d ++ a ++ b ++ bit1 fa ++ bit1 fb ++ 0x0#2 ++ bit1 esc ++ bit1 dbl ++ 0x8#4
/-- AMOCAS (R198). -/
def wordAmocas (d : BitVec 5) (a : BitVec 5) (b : BitVec 5) (fa : Bool) (fb : Bool) (esc : Bool) (dbl : Bool) : Word := 0x61#7 ++ d ++ a ++ b ++ bit1 fa ++ bit1 fb ++ 0x0#2 ++ bit1 esc ++ bit1 dbl ++ 0x9#4
/-- RED_F32 (R205). -/
def wordRedF32 (a : BitVec 5) (b : BitVec 5) (fa : Bool) (s : BitVec 3) : Word := 0x62#7 ++ 0x0#5 ++ a ++ b ++ bit1 fa ++ 0x0#6 ++ s
/-- RED_BF16 (R205). -/
def wordRedBf16 (a : BitVec 5) (b : BitVec 5) (fa : Bool) (s : BitVec 3) : Word := 0x62#7 ++ 0x1#5 ++ a ++ b ++ bit1 fa ++ 0x0#6 ++ s
/-- RED_I32 (R205). -/
def wordRedI32 (a : BitVec 5) (b : BitVec 5) (fa : Bool) (s : BitVec 3) : Word := 0x62#7 ++ 0x2#5 ++ a ++ b ++ bit1 fa ++ 0x0#6 ++ s
/-- RED_F32MAX (R205). -/
def wordRedF32max (a : BitVec 5) (b : BitVec 5) (fa : Bool) (s : BitVec 3) : Word := 0x62#7 ++ 0x3#5 ++ a ++ b ++ bit1 fa ++ 0x0#6 ++ s
/-- REDO_F32 (R208). -/
def wordRedoF32 (a : BitVec 5) (b : BitVec 5) (fa : Bool) (grp : BitVec 8) : Word := 0x63#7 ++ 0x0#5 ++ a ++ b ++ bit1 fa ++ 0x0#1 ++ grp
/-- REDO_BF16 (R208). -/
def wordRedoBf16 (a : BitVec 5) (b : BitVec 5) (fa : Bool) (grp : BitVec 8) : Word := 0x63#7 ++ 0x1#5 ++ a ++ b ++ bit1 fa ++ 0x0#1 ++ grp
/-- REDO_I32 (R208). -/
def wordRedoI32 (a : BitVec 5) (b : BitVec 5) (fa : Bool) (grp : BitVec 8) : Word := 0x63#7 ++ 0x2#5 ++ a ++ b ++ bit1 fa ++ 0x0#1 ++ grp
/-- REDO_F32MAX (R208). -/
def wordRedoF32max (a : BitVec 5) (b : BitVec 5) (fa : Bool) (grp : BitVec 8) : Word := 0x63#7 ++ 0x3#5 ++ a ++ b ++ bit1 fa ++ 0x0#1 ++ grp
/-- ALR (R210). -/
def wordAlr (a : BitVec 5) (fa : Bool) : Word := 0x64#7 ++ 0x0#5 ++ a ++ 0x0#5 ++ bit1 fa ++ 0x0#9
/-- ALRE (R212). -/
def wordAlre : Word := 0x64#7 ++ 0x1#25
/-- SEMBIND (R215). -/
def wordSembind (slot : BitVec 5) (a : BitVec 5) (fa : Bool) : Word := 0x65#7 ++ slot ++ a ++ 0x0#5 ++ bit1 fa ++ 0x0#9
/-- SEMBIND_OFF (R215). -/
def wordSembindOff (slot : BitVec 5) : Word := 0x65#7 ++ slot ++ 0x10#20
/-- SEMADD (R215). -/
def wordSemadd (d : BitVec 5) (a : BitVec 5) (b : BitVec 5) (fa : Bool) (fb : Bool) (s : BitVec 3) : Word := 0x65#7 ++ d ++ a ++ b ++ bit1 fa ++ bit1 fb ++ 0x4#5 ++ s
/-- SEMWAIT (R215). -/
def wordSemwait (a : BitVec 5) (b : BitVec 5) (fa : Bool) (fb : Bool) (s : BitVec 3) : Word := 0x65#7 ++ 0x0#5 ++ a ++ b ++ bit1 fa ++ bit1 fb ++ 0x6#5 ++ s
/-- PAMOADD (R204). -/
def wordPamoadd (d : BitVec 5) (a : BitVec 5) (b : BitVec 5) (fa : Bool) (fb : Bool) (dbl : Bool) : Word := 0x66#7 ++ d ++ a ++ b ++ bit1 fa ++ bit1 fb ++ 0x0#3 ++ bit1 dbl ++ 0x0#4
/-- PAMOAND (R204). -/
def wordPamoand (d : BitVec 5) (a : BitVec 5) (b : BitVec 5) (fa : Bool) (fb : Bool) (dbl : Bool) : Word := 0x66#7 ++ d ++ a ++ b ++ bit1 fa ++ bit1 fb ++ 0x0#3 ++ bit1 dbl ++ 0x1#4
/-- PAMOOR (R204). -/
def wordPamoor (d : BitVec 5) (a : BitVec 5) (b : BitVec 5) (fa : Bool) (fb : Bool) (dbl : Bool) : Word := 0x66#7 ++ d ++ a ++ b ++ bit1 fa ++ bit1 fb ++ 0x0#3 ++ bit1 dbl ++ 0x2#4
/-- PAMOXOR (R204). -/
def wordPamoxor (d : BitVec 5) (a : BitVec 5) (b : BitVec 5) (fa : Bool) (fb : Bool) (dbl : Bool) : Word := 0x66#7 ++ d ++ a ++ b ++ bit1 fa ++ bit1 fb ++ 0x0#3 ++ bit1 dbl ++ 0x3#4
/-- PAMOMIN (R204). -/
def wordPamomin (d : BitVec 5) (a : BitVec 5) (b : BitVec 5) (fa : Bool) (fb : Bool) (dbl : Bool) : Word := 0x66#7 ++ d ++ a ++ b ++ bit1 fa ++ bit1 fb ++ 0x0#3 ++ bit1 dbl ++ 0x4#4
/-- PAMOMAX (R204). -/
def wordPamomax (d : BitVec 5) (a : BitVec 5) (b : BitVec 5) (fa : Bool) (fb : Bool) (dbl : Bool) : Word := 0x66#7 ++ d ++ a ++ b ++ bit1 fa ++ bit1 fb ++ 0x0#3 ++ bit1 dbl ++ 0x5#4
/-- PAMOMINZ (R204). -/
def wordPamominz (d : BitVec 5) (a : BitVec 5) (b : BitVec 5) (fa : Bool) (fb : Bool) (dbl : Bool) : Word := 0x66#7 ++ d ++ a ++ b ++ bit1 fa ++ bit1 fb ++ 0x0#3 ++ bit1 dbl ++ 0x6#4
/-- PAMOMAXZ (R204). -/
def wordPamomaxz (d : BitVec 5) (a : BitVec 5) (b : BitVec 5) (fa : Bool) (fb : Bool) (dbl : Bool) : Word := 0x66#7 ++ d ++ a ++ b ++ bit1 fa ++ bit1 fb ++ 0x0#3 ++ bit1 dbl ++ 0x7#4
/-- PAMOSWAP (R204). -/
def wordPamoswap (d : BitVec 5) (a : BitVec 5) (b : BitVec 5) (fa : Bool) (fb : Bool) (dbl : Bool) : Word := 0x66#7 ++ d ++ a ++ b ++ bit1 fa ++ bit1 fb ++ 0x0#3 ++ bit1 dbl ++ 0x8#4
/-- PAMOCAS (R204). -/
def wordPamocas (d : BitVec 5) (a : BitVec 5) (b : BitVec 5) (fa : Bool) (fb : Bool) (dbl : Bool) : Word := 0x66#7 ++ d ++ a ++ b ++ bit1 fa ++ bit1 fb ++ 0x0#3 ++ bit1 dbl ++ 0x9#4
/-- BAR (R217). -/
def wordBar (s : BitVec 3) (grp : BitVec 8) : Word := 0x67#7 ++ 0x0#2 ++ s ++ 0x0#12 ++ grp
/-- GRPINFO (R218). -/
def wordGrpinfo (d : BitVec 5) (grp : BitVec 8) : Word := 0x67#7 ++ d ++ 0x4#12 ++ grp
/-- TRAP (R259). -/
def wordTrap (n : BitVec 10) : Word := 0x68#7 ++ 0x0#5 ++ n ++ 0x0#10
/-- TFENCE (R260). -/
def wordTfence : Word := 0x68#7 ++ 0x1#25
/-- TRET (R261). -/
def wordTret : Word := 0x68#7 ++ 0x2#25
/-- TRET_SKIP (R261). -/
def wordTretSkip : Word := 0x68#7 ++ 0x3#25
/-- BKPT (R259). -/
def wordBkpt (n : BitVec 10) : Word := 0x68#7 ++ 0x0#5 ++ n ++ 0x4#10
/-- DSTEP (R262). -/
def wordDstep (m : BitVec 2) : Word := 0x68#7 ++ 0x0#3 ++ m ++ 0x5#20
/-- TXSTAT (R264). -/
def wordTxstat (d : BitVec 5) : Word := 0x69#7 ++ d ++ 0x0#20
/-- TXABORT (R266). -/
def wordTxabort (a : BitVec 5) (fa : Bool) : Word := 0x69#7 ++ 0x0#5 ++ a ++ 0x0#5 ++ bit1 fa ++ 0x1#9
/-- YIELD (R267). -/
def wordYield (d : BitVec 5) : Word := 0x69#7 ++ d ++ 0x2#20
/-- SLEEP (R268). -/
def wordSleep (d : BitVec 5) (a : BitVec 5) (fa : Bool) : Word := 0x69#7 ++ d ++ a ++ 0x0#5 ++ bit1 fa ++ 0x3#9
/-- SLEEPT (R269). -/
def wordSleept (a : BitVec 5) (fa : Bool) : Word := 0x69#7 ++ 0x0#5 ++ a ++ 0x0#5 ++ bit1 fa ++ 0x4#9
/-- DSTAT (R265). -/
def wordDstat (d : BitVec 5) : Word := 0x69#7 ++ d ++ 0x5#20
/-- DISC (R270). -/
def wordDisc (d : BitVec 5) (a : BitVec 5) (fa : Bool) : Word := 0x6A#7 ++ d ++ a ++ 0x0#5 ++ bit1 fa ++ 0x0#9
/-- PRD (R271). -/
def wordPrd (d : BitVec 5) (a : BitVec 5) (fa : Bool) : Word := 0x6A#7 ++ d ++ a ++ 0x0#5 ++ bit1 fa ++ 0x1#9
/-- LWAKE (R272). -/
def wordLwake (a : BitVec 5) (fa : Bool) : Word := 0x6A#7 ++ 0x0#5 ++ a ++ 0x0#5 ++ bit1 fa ++ 0x2#9
/-- LWAKE_WAIT (R272). -/
def wordLwakeWait (a : BitVec 5) (fa : Bool) : Word := 0x6A#7 ++ 0x0#5 ++ a ++ 0x0#5 ++ bit1 fa ++ 0x3#9
/-- CHOLD (R275). -/
def wordChold (d : BitVec 5) (a : BitVec 5) (h : BitVec 3) (fa : Bool) : Word := 0x6B#7 ++ d ++ a ++ 0x0#2 ++ h ++ bit1 fa ++ 0x0#9
/-- CCLOSE (R275). -/
def wordCclose (h : BitVec 3) : Word := 0x6B#7 ++ 0x0#12 ++ h ++ 0x1#10
/-- CSTAT (R273). -/
def wordCstat (d : BitVec 5) (h : BitVec 3) : Word := 0x6B#7 ++ d ++ 0x0#7 ++ h ++ 0x2#10

/-- The word of an instruction; an event has none and gives the all-zero word, which encodes no instruction (R39). -/
def encode : Instr → Word
  | .add d a b fa fb => wordAdd d a b fa fb
  | .sub d a b fa fb => wordSub d a b fa fb
  | .andR d a b fa fb => wordAndR d a b fa fb
  | .orR d a b fa fb => wordOrR d a b fa fb
  | .xorR d a b fa fb => wordXorR d a b fa fb
  | .andn d a b fa fb => wordAndn d a b fa fb
  | .addw d a b fa fb => wordAddw d a b fa fb
  | .subw d a b fa fb => wordSubw d a b fa fb
  | .addsat d a b fa fb => wordAddsat d a b fa fb
  | .subsat d a b fa fb => wordSubsat d a b fa fb
  | .sll d a b fa fb => wordSll d a b fa fb
  | .srl d a b fa fb => wordSrl d a b fa fb
  | .sra d a b fa fb => wordSra d a b fa fb
  | .rol d a b fa fb => wordRol d a b fa fb
  | .ror d a b fa fb => wordRor d a b fa fb
  | .sllw d a b fa fb => wordSllw d a b fa fb
  | .srlw d a b fa fb => wordSrlw d a b fa fb
  | .sraw d a b fa fb => wordSraw d a b fa fb
  | .mul d a b fa fb => wordMul d a b fa fb
  | .mulh d a b fa fb => wordMulh d a b fa fb
  | .mulhu d a b fa fb => wordMulhu d a b fa fb
  | .mulhsu d a b fa fb => wordMulhsu d a b fa fb
  | .mulw d a b fa fb => wordMulw d a b fa fb
  | .div d a b fa fb => wordDiv d a b fa fb
  | .divu d a b fa fb => wordDivu d a b fa fb
  | .rem d a b fa fb => wordRem d a b fa fb
  | .remu d a b fa fb => wordRemu d a b fa fb
  | .divw d a b fa fb => wordDivw d a b fa fb
  | .divuw d a b fa fb => wordDivuw d a b fa fb
  | .remw d a b fa fb => wordRemw d a b fa fb
  | .remuw d a b fa fb => wordRemuw d a b fa fb
  | .min d a b fa fb => wordMin d a b fa fb
  | .max d a b fa fb => wordMax d a b fa fb
  | .minu d a b fa fb => wordMinu d a b fa fb
  | .maxu d a b fa fb => wordMaxu d a b fa fb
  | .clz d a fa => wordClz d a fa
  | .popc d a fa => wordPopc d a fa
  | .sel d a b fa fb neg p => wordSel d a b fa fb neg p
  | .scadd d a b fa fb sh => wordScadd d a b fa fb sh
  | .scaddx d a b fa fb sh => wordScaddx d a b fa fb sh
  | .scaddz d a b fa fb sh => wordScaddz d a b fa fb sh
  | .addi d a imm => wordAddi d a imm
  | .andi d a imm => wordAndi d a imm
  | .ori d a imm => wordOri d a imm
  | .xori d a imm => wordXori d a imm
  | .addiw d a imm => wordAddiw d a imm
  | .slli d a n => wordSlli d a n
  | .srli d a n => wordSrli d a n
  | .srai d a n => wordSrai d a n
  | .rori d a n => wordRori d a n
  | .slliw d a n => wordSlliw d a n
  | .srliw d a n => wordSrliw d a n
  | .sraiw d a n => wordSraiw d a n
  | .cmpeqi p a imm => wordCmpeqi p a imm
  | .cmpnei p a imm => wordCmpnei p a imm
  | .cmplti p a imm => wordCmplti p a imm
  | .cmpgei p a imm => wordCmpgei p a imm
  | .cmpltui p a imm => wordCmpltui p a imm
  | .cmpgeui p a imm => wordCmpgeui p a imm
  | .lui d imm => wordLui d imm
  | .pld d a kind off => wordPld d a kind off
  | .pldIndexed d a kind idx => wordPldIndexed d a kind idx
  | .pst d a kind off => wordPst d a kind off
  | .pstIndexed d a kind idx => wordPstIndexed d a kind idx
  | .gld d a kind off => wordGld d a kind off
  | .gldIndexed d a kind idx => wordGldIndexed d a kind idx
  | .gst d a width sc off => wordGst d a width sc off
  | .gstIndexed d a width sc idx => wordGstIndexed d a width sc idx
  | .pbr b disp => wordPbr b disp
  | .br b p neg => wordBr b p neg
  | .brl b p neg => wordBrl b p neg
  | .cmpeq p a b fa fb => wordCmpeq p a b fa fb
  | .cmpne p a b fa fb => wordCmpne p a b fa fb
  | .cmplt p a b fa fb => wordCmplt p a b fa fb
  | .cmpge p a b fa fb => wordCmpge p a b fa fb
  | .cmpltu p a b fa fb => wordCmpltu p a b fa fb
  | .cmpgeu p a b fa fb => wordCmpgeu p a b fa fb
  | .pand d a b => wordPand d a b
  | .por d a b => wordPor d a b
  | .pxor d a b => wordPxor d a b
  | .pandn d a b => wordPandn d a b
  | .pnot d a => wordPnot d a
  | .pget d a => wordPget d a
  | .pset d a fa => wordPset d a fa
  | .pbrr d a fa => wordPbrr d a fa
  | .loop lvl a len => wordLoop lvl a len
  | .loopi lvl raw len => wordLoopi lvl raw len
  | .lbrk lvl => wordLbrk lvl
  | .mcall a m => wordMcall a m
  | .mstore a stepNo m => wordMstore a stepNo m
  | .mov d a => wordMov d a
  | .mfs d r => wordMfs d r
  | .mfsTcause d => wordMfsTcause d
  | .mfsEngineStatus d r => wordMfsEngineStatus d r
  | .mts a r => wordMts a r
  | .mtsPartw a => wordMtsPartw a
  | .mtsFpctl a => wordMtsFpctl a
  | .mtsFpflag a => wordMtsFpflag a
  | .mtsLc a r => wordMtsLc a r
  | .mtsMsdepth a => wordMtsMsdepth a
  | .mtsQht a r => wordMtsQht a r
  | .cyc d => wordCyc d
  | .nop => wordNop
  | .ovl a fa => wordOvl a fa
  | .exit => wordExit
  | .vaddF32 d a b rm => wordVaddF32 d a b rm
  | .vsubF32 d a b rm => wordVsubF32 d a b rm
  | .vmulF32 d a b rm => wordVmulF32 d a b rm
  | .vfmaF32 d a b rm => wordVfmaF32 d a b rm
  | .vfmsF32 d a b rm => wordVfmsF32 d a b rm
  | .vfnmaF32 d a b rm => wordVfnmaF32 d a b rm
  | .vminF32 d a b => wordVminF32 d a b
  | .vmaxF32 d a b => wordVmaxF32 d a b
  | .vabsF32 d a => wordVabsF32 d a
  | .vnegF32 d a => wordVnegF32 d a
  | .vexp2 d a rm => wordVexp2 d a rm
  | .vrcp d a rm => wordVrcp d a rm
  | .vrsq d a rm => wordVrsq d a rm
  | .vlog2 d a rm => wordVlog2 d a rm
  | .vaddBf16 d a b rm => wordVaddBf16 d a b rm
  | .vsubBf16 d a b rm => wordVsubBf16 d a b rm
  | .vmulBf16 d a b rm => wordVmulBf16 d a b rm
  | .vfmaBf16 d a b rm => wordVfmaBf16 d a b rm
  | .vfmsBf16 d a b rm => wordVfmsBf16 d a b rm
  | .vfnmaBf16 d a b rm => wordVfnmaBf16 d a b rm
  | .vminBf16 d a b => wordVminBf16 d a b
  | .vmaxBf16 d a b => wordVmaxBf16 d a b
  | .vabsBf16 d a => wordVabsBf16 d a
  | .vnegBf16 d a => wordVnegBf16 d a
  | .vaddI32 d a b => wordVaddI32 d a b
  | .vsubI32 d a b => wordVsubI32 d a b
  | .vmulI32 d a b => wordVmulI32 d a b
  | .vmulhI32 d a b => wordVmulhI32 d a b
  | .vmulhZ32 d a b => wordVmulhZ32 d a b
  | .vaddsI32 d a b => wordVaddsI32 d a b
  | .vsubsI32 d a b => wordVsubsI32 d a b
  | .vaddsZ32 d a b => wordVaddsZ32 d a b
  | .vsubsZ32 d a b => wordVsubsZ32 d a b
  | .vminI32 d a b => wordVminI32 d a b
  | .vmaxI32 d a b => wordVmaxI32 d a b
  | .vminZ32 d a b => wordVminZ32 d a b
  | .vmaxZ32 d a b => wordVmaxZ32 d a b
  | .vand d a b => wordVand d a b
  | .vor d a b => wordVor d a b
  | .vxor d a b => wordVxor d a b
  | .vandn d a b => wordVandn d a b
  | .vsll d a b => wordVsll d a b
  | .vsrl d a b => wordVsrl d a b
  | .vsra d a b => wordVsra d a b
  | .vslli d a n => wordVslli d a n
  | .vsrli d a n => wordVsrli d a n
  | .vsrai d a n => wordVsrai d a n
  | .vcmpF32 q a b cond => wordVcmpF32 q a b cond
  | .vcmpI32 q a b cond => wordVcmpI32 q a b cond
  | .vcmpZ32 q a b cond => wordVcmpZ32 q a b cond
  | .qand d a b => wordQand d a b
  | .qor d a b => wordQor d a b
  | .qxor d a b => wordQxor d a b
  | .qandn d a b => wordQandn d a b
  | .qnot d a => wordQnot d a
  | .qtop d => wordQtop d
  | .vcvtBf16F32 d a b rm sat => wordVcvtBf16F32 d a b rm sat
  | .vcvtF16F32 d a b rm sat => wordVcvtF16F32 d a b rm sat
  | .vcvtF32Bf16Lo d a => wordVcvtF32Bf16Lo d a
  | .vcvtF32Bf16Hi d a => wordVcvtF32Bf16Hi d a
  | .vcvtF32F16Lo d a => wordVcvtF32F16Lo d a
  | .vcvtF32F16Hi d a => wordVcvtF32F16Hi d a
  | .vcvtE4m3F32 d a j rm sat rd => wordVcvtE4m3F32 d a j rm sat rd
  | .vcvtE5m2F32 d a j rm sat rd => wordVcvtE5m2F32 d a j rm sat rd
  | .vcvtF32E4m3 d a j rd => wordVcvtF32E4m3 d a j rd
  | .vcvtF32E5m2 d a j rd => wordVcvtF32E5m2 d a j rd
  | .vcvtE2m1F32 d a n rm sat rd => wordVcvtE2m1F32 d a n rm sat rd
  | .vcvtF32E2m1 d a n rd => wordVcvtF32E2m1 d a n rd
  | .vcvtI32F32 d a rm => wordVcvtI32F32 d a rm
  | .vcvtZ32F32 d a rm => wordVcvtZ32F32 d a rm
  | .vcvtF32I32 d a rm => wordVcvtF32I32 d a rm
  | .vcvtF32Z32 d a rm => wordVcvtF32Z32 d a rm
  | .vbscale d a b fmt rd => wordVbscale d a b fmt rd
  | .vbamax d a b => wordVbamax d a b
  | .vbpack d a b rm pHi fmt rd pLo => wordVbpack d a b rm pHi fmt rd pLo
  | .vbunpk d a b rm fmt rd p h => wordVbunpk d a b rm fmt rd p h
  | .vraddF32 d a rm => wordVraddF32 d a rm
  | .vrmaxF32 d a => wordVrmaxF32 d a
  | .vrminF32 d a => wordVrminF32 d a
  | .vramaxF32 d a => wordVramaxF32 d a
  | .vraddI32 d a => wordVraddI32 d a
  | .vrmaxI32 d a => wordVrmaxI32 d a
  | .vrminI32 d a => wordVrminI32 d a
  | .vperm d a b => wordVperm d a b
  | .vrot d a n => wordVrot d a n
  | .vzipl d a b => wordVzipl d a b
  | .vziph d a b => wordVziph d a b
  | .vmov d a => wordVmov d a
  | .vbcast d a => wordVbcast d a
  | .vins d a n => wordVins d a n
  | .vext d a n => wordVext d a n
  | .vextz d a n => wordVextz d a n
  | .s2q d a => wordS2q d a
  | .q2s d a => wordQ2s d a
  | .mpush a => wordMpush a
  | .minv => wordMinv
  | .mpop => wordMpop
  | .brmz len => wordBrmz len
  | .vpld d a off => wordVpld d a off
  | .vpldIndexed d a idx => wordVpldIndexed d a idx
  | .vpst d a off => wordVpst d a off
  | .vpstIndexed d a idx => wordVpstIndexed d a idx
  | .vlda d a off => wordVlda d a off
  | .vldaIndexed d a idx => wordVldaIndexed d a idx
  | .vsta d a off => wordVsta d a off
  | .vstaIndexed d a idx => wordVstaIndexed d a idx
  | .vgld d a off => wordVgld d a off
  | .vgldIndexed d a idx => wordVgldIndexed d a idx
  | .vgst d a sc off => wordVgst d a sc off
  | .vgstIndexed d a sc idx => wordVgstIndexed d a sc idx
  | .srun sig wa wb wc sp => wordSrun sig wa wb wc sp
  | .gldc sig wa wb wc sp => wordGldc sig wa wb wc sp
  | .ggo sig wa wb wc sp => wordGgo sig wa wb wc sp
  | .gmma sig wa wb wc sp => wordGmma sig wa wb wc sp
  | .copy sig wa wb wc sp => wordCopy sig wa wb wc sp
  | .copy2d sig wa wb wc sp => wordCopy2d sig wa wb wc sp
  | .send sig wa wb wc sp => wordSend sig wa wb wc sp
  | .lbind sig wa wb wc sp => wordLbind sig wa wb wc sp
  | .lunbind sig wa wb wc sp => wordLunbind sig wa wb wc sp
  | .copen sig wa wb wc sp => wordCopen sig wa wb wc sp
  | .cstream sig wa wb wc sp => wordCstream sig wa wb wc sp
  | .gsel n => wordGsel n
  | .snest n a lvl fa => wordSnest n a lvl fa
  | .gstop => wordGstop
  | .gfeed a fa => wordGfeed a fa
  | .gpop d => wordGpop d
  | .pqpop d => wordPqpop d
  | .gbank d => wordGbank d
  | .kwait a => wordKwait a
  | .kstat d a => wordKstat d a
  | .bufdef n a b fa fb => wordBufdef n a b fa fb
  | .bufrel n => wordBufrel n
  | .bufrelFree n => wordBufrelFree n
  | .bufstat d a => wordBufstat d a
  | .bufwait n st => wordBufwait n st
  | .mark s => wordMark s
  | .fenceRel s => wordFenceRel s
  | .fenceAcq s => wordFenceAcq s
  | .fenceFull s => wordFenceFull s
  | .amoadd d a b fa fb esc dbl => wordAmoadd d a b fa fb esc dbl
  | .amoand d a b fa fb esc dbl => wordAmoand d a b fa fb esc dbl
  | .amoor d a b fa fb esc dbl => wordAmoor d a b fa fb esc dbl
  | .amoxor d a b fa fb esc dbl => wordAmoxor d a b fa fb esc dbl
  | .amomin d a b fa fb esc dbl => wordAmomin d a b fa fb esc dbl
  | .amomax d a b fa fb esc dbl => wordAmomax d a b fa fb esc dbl
  | .amominz d a b fa fb esc dbl => wordAmominz d a b fa fb esc dbl
  | .amomaxz d a b fa fb esc dbl => wordAmomaxz d a b fa fb esc dbl
  | .amoswap d a b fa fb esc dbl => wordAmoswap d a b fa fb esc dbl
  | .amocas d a b fa fb esc dbl => wordAmocas d a b fa fb esc dbl
  | .redF32 a b fa s => wordRedF32 a b fa s
  | .redBf16 a b fa s => wordRedBf16 a b fa s
  | .redI32 a b fa s => wordRedI32 a b fa s
  | .redF32max a b fa s => wordRedF32max a b fa s
  | .redoF32 a b fa grp => wordRedoF32 a b fa grp
  | .redoBf16 a b fa grp => wordRedoBf16 a b fa grp
  | .redoI32 a b fa grp => wordRedoI32 a b fa grp
  | .redoF32max a b fa grp => wordRedoF32max a b fa grp
  | .alr a fa => wordAlr a fa
  | .alre => wordAlre
  | .sembind slot a fa => wordSembind slot a fa
  | .sembindOff slot => wordSembindOff slot
  | .semadd d a b fa fb s => wordSemadd d a b fa fb s
  | .semwait a b fa fb s => wordSemwait a b fa fb s
  | .pamoadd d a b fa fb dbl => wordPamoadd d a b fa fb dbl
  | .pamoand d a b fa fb dbl => wordPamoand d a b fa fb dbl
  | .pamoor d a b fa fb dbl => wordPamoor d a b fa fb dbl
  | .pamoxor d a b fa fb dbl => wordPamoxor d a b fa fb dbl
  | .pamomin d a b fa fb dbl => wordPamomin d a b fa fb dbl
  | .pamomax d a b fa fb dbl => wordPamomax d a b fa fb dbl
  | .pamominz d a b fa fb dbl => wordPamominz d a b fa fb dbl
  | .pamomaxz d a b fa fb dbl => wordPamomaxz d a b fa fb dbl
  | .pamoswap d a b fa fb dbl => wordPamoswap d a b fa fb dbl
  | .pamocas d a b fa fb dbl => wordPamocas d a b fa fb dbl
  | .bar s grp => wordBar s grp
  | .grpinfo d grp => wordGrpinfo d grp
  | .trap n => wordTrap n
  | .tfence => wordTfence
  | .tret => wordTret
  | .tretSkip => wordTretSkip
  | .bkpt n => wordBkpt n
  | .dstep m => wordDstep m
  | .txstat d => wordTxstat d
  | .txabort a fa => wordTxabort a fa
  | .yield d => wordYield d
  | .sleep d a fa => wordSleep d a fa
  | .sleept a fa => wordSleept a fa
  | .dstat d => wordDstat d
  | .disc d a fa => wordDisc d a fa
  | .prd d a fa => wordPrd d a fa
  | .lwake a fa => wordLwake a fa
  | .lwakeWait a fa => wordLwakeWait a fa
  | .chold d a h fa => wordChold d a h fa
  | .cclose h => wordCclose h
  | .cstat d h => wordCstat d h
  | .overlayLoadDone _ => 0#32
  | .coreDone _ _ => 0#32
  | .targetFetchReady _ _ => 0#32
  | .gldDataReturn _ _ => 0#32
  | .engineStatusFill _ => 0#32
  | .engineCommandStart _ => 0#32
  | .engineCommandComplete _ => 0#32
  | .engineFault => 0#32
  | .lateCopyTrap => 0#32
  | .streamTokenDeliver _ => 0#32
  | .streamTokenCommit _ => 0#32
  | .gridStep => 0#32
  | .gmmaKblock => 0#32
  | .gmmaPreemptCut => 0#32
  | .reliefGrant => 0#32
  | .deadlockTrap => 0#32
  | .atomicApply _ => 0#32
  | .atomicResultReturn _ => 0#32
  | .redApply _ => 0#32
  | .redoArrival _ => 0#32
  | .redoResend _ => 0#32
  | .lineRegionApply _ => 0#32
  | .semaphoreAdd _ => 0#32
  | .stepTrap _ => 0#32
  | .sleeptWake => 0#32
  | .leaseExpiry _ => 0#32
  | .storeApply _ => 0#32
  | .hubLineDrain _ => 0#32
  | .homeSweep _ => 0#32
  | .pageWalk _ _ => 0#32
  | .tlbInvalidate _ _ => 0#32
  | .pagerFault _ => 0#32
  | .lmbox _ _ => 0#32
  | .qcfg _ _ => 0#32
  | .qerr _ => 0#32
  | .evqhead _ => 0#32
  | .pgresp _ _ => 0#32
  | .ikey _ => 0#32
  | .deviceRegisterWrite _ _ => 0#32
  | .launchSubmit _ => 0#32
  | .launchBind _ _ => 0#32
  | .launchAging _ => 0#32
  | .bind _ => 0#32
  | .resume _ => 0#32
  | .save _ => 0#32
  | .coreSaved _ => 0#32
  | .kill _ => 0#32
  | .halt _ => 0#32
  | .releaseHalt _ => 0#32
  | .debugHaltRequest _ => 0#32
  | .sequencerStart _ _ _ => 0#32
  | .gridAdmission _ => 0#32
  | .droopAlarm _ _ => 0#32
  | .droopStretchEnd _ => 0#32
  | .clockStepHoldEnd _ => 0#32
  | .thermalSample _ _ => 0#32
  | .launchReady _ => 0#32
  | .pairCompare _ => 0#32
  | .pairWaitExpiry _ => 0#32
  | .commitPrepare _ => 0#32
  | .commitFlip _ => 0#32
  | .witnessQuery _ => 0#32
  | .abortDecide _ => 0#32
  | .launchAborted _ => 0#32
  | .kernelNode _ _ => 0#32
  | .conditionNode _ _ => 0#32
  | .switchNode _ _ => 0#32
  | .loopNode _ _ => 0#32
  | .joinNode _ _ => 0#32
  | .dieLoss _ _ => 0#32
  | .packageLoss _ => 0#32
  | .stationLoss _ => 0#32
  | .heartbeatMiss _ _ => 0#32
  | .uncorrectableError _ => 0#32
  | .hostRead _ _ => 0#32
  | .hostWrite _ _ => 0#32
  | .hostSnoop _ _ => 0#32
  | .flitForward _ => 0#32
  | .linkReplay _ => 0#32
  | .linkRetrain _ _ => 0#32
  | .linkFailure _ => 0#32
  | .detourLoad _ => 0#32
  | .linkNarrow _ => 0#32
  | .linkSleep _ => 0#32
  | .linkWake _ => 0#32
  | .packetPlacement _ => 0#32
  | .placementAcknowledgement _ => 0#32
  | .reoffer _ => 0#32
  | .claspPlacement _ => 0#32
  | .meterIntervalEnd _ => 0#32
  | .probeAction _ => 0#32
  | .circuitBeat _ => 0#32
  | .windowCheck _ => 0#32
  | .windowAcknowledgement _ => 0#32
  | .windowNak _ => 0#32
  | .circuitRelease _ => 0#32
  | .ringRequest _ => 0#32
  | .ringResponse _ => 0#32
  | .ringResend _ => 0#32
  | .ringFrame _ _ => 0#32
  | .frameClose _ => 0#32
  | .keyUpdate _ => 0#32
  | .boot => 0#32
  | .illegalInstruction _ => 0#32
  | .remotePoolAccess _ => 0#32
  | .homeRead _ => 0#32
  | .latencyResultDelivery _ => 0#32
  | .cxlWriteCompletion _ => 0#32
  | .backInvalidateResponse _ => 0#32
  | .capoWrite _ _ => 0#32
  | .clockStepChange _ => 0#32

/-! ## The interface of the host -/

/-- The four bytes of a word as memory holds them, little-endian. -/
def wordBytes (w : Word) : List Byte := [w.extractLsb' 0 8, w.extractLsb' 8 8, w.extractLsb' 16 8, w.extractLsb' 24 8]

/-- The word of four bytes as memory holds them. -/
def bytesWord (b0 b1 b2 b3 : Byte) : Word := b3 ++ b2 ++ b1 ++ b0

/-- Decoding of the first four bytes of a list. -/
noncomputable def decodeBytes : List Byte → Option (Instr × List Byte)
  | b0 :: b1 :: b2 :: b3 :: rest => (decode (bytesWord b0 b1 b2 b3)).map (fun i => (i, rest))
  | _ => none

/-- The instruction the decoder reads from an instruction with bits `w`, of which the table gives `nbits`; the bits
above are zero. Every instruction is one 32-bit word (R33). -/
noncomputable def decodeTableWord (nbits w : Nat) : Option Instr :=
  (decodeBytes (wordBytes (BitVec.ofNat 32 (w % 2 ^ nbits)))).map (fun p => p.1)

end Sys2Proof
end

