-- ==== Sys2Proof/Machine/Float.lean ====
section
/-! DEFINITION. Floating-point numbers exactly (chapters 03 and 07): the value of a code under a reading, exact sums and
products, and the one rounding of R181 with its overflow, underflow and saturation rules. No State. -/

namespace Sys2Proof.Machine

/-! ## Formats and values -/

/-- How a format's top codes are read (R175). -/
inductive Reading where
  | finite | nanonly | ieee
  deriving DecidableEq, Repr

/-- A floating-point format (R174): bits of exponent and mantissa, bias. -/
structure Fmt where
  expBits : Nat
  manBits : Nat
  bias : Nat
  rd : Reading
  deriving DecidableEq, Repr

def fp32 : Fmt := ⟨8, 23, 127, .ieee⟩
def fp16 : Fmt := ⟨5, 10, 15, .ieee⟩
def bf16 : Fmt := ⟨8, 7, 127, .ieee⟩
def e4m3 (rd : Reading) : Fmt := ⟨4, 3, 7, rd⟩
def e5m2 (rd : Reading) : Fmt := ⟨5, 2, 15, rd⟩
def e2m1 (rd : Reading) : Fmt := ⟨2, 1, 1, rd⟩

/-- An exact value: NaN, an infinity, or (-1)^neg × m × 2^e with its sign kept for zero. -/
inductive FVal where
  | nan
  | inf (neg : Bool)
  | fin (neg : Bool) (m : Nat) (e : Int)
  deriving DecidableEq, Repr

/-- Bits of a code above the mantissa and exponent: the sign's place. -/
def Fmt.signPos (f : Fmt) : Nat := f.expBits + f.manBits

/-- The exponent of the lowest mantissa bit of a subnormal. -/
def Fmt.emin (f : Fmt) : Int := 1 - (f.bias : Int) - (f.manBits : Int)

/-- The value of a code (R175). -/
def Fmt.value (f : Fmt) (c : Nat) : FVal :=
  let neg := (c >>> f.signPos) % 2 = 1
  let e := (c >>> f.manBits) % 2 ^ f.expBits
  let m := c % 2 ^ f.manBits
  let allE := e = 2 ^ f.expBits - 1
  if f.rd = .ieee ∧ allE then (if m = 0 then .inf neg else .nan)
  else if f.rd = .nanonly ∧ allE ∧ m = 2 ^ f.manBits - 1 then .nan
  else if e = 0 then .fin neg m f.emin
  else .fin neg (2 ^ f.manBits + m) ((e : Int) - f.bias - f.manBits)

/-- The code of the largest finite value, without sign (R177). -/
def Fmt.maxCode (f : Fmt) : Nat :=
  match f.rd with
  | .finite => 2 ^ f.signPos - 1
  | .nanonly => 2 ^ f.signPos - 2
  | .ieee => (2 ^ f.expBits - 1) * 2 ^ f.manBits - 1

/-- The canonical NaN code (R90, R103, R177); only asked of readings that have one. -/
def Fmt.nanCode (f : Fmt) : Nat :=
  match f.rd with
  | .ieee => (2 ^ f.expBits - 1) * 2 ^ f.manBits + 2 ^ (f.manBits - 1)
  | _ => 2 ^ f.signPos - 1

/-- The infinity code of an IEEE-like reading, without sign. -/
def Fmt.infCode (f : Fmt) : Nat := (2 ^ f.expBits - 1) * 2 ^ f.manBits

/-- A code with a sign. -/
def Fmt.withSign (f : Fmt) (neg : Bool) (c : Nat) : Nat := if neg then c + 2 ^ f.signPos else c

/-- The exponent of the largest finite value, Emax (R103). -/
def Fmt.emax (f : Fmt) : Int := ((f.maxCode >>> f.manBits : Nat) : Int) - f.bias

/-! ## Flags and rounding -/

/-- The flags of `FPFLAG` (R24): NV, DZ, OF, UF, NX, SAT from bit 0. -/
abbrev Flags := BitVec 6

def flagNV : Flags := 1
def flagDZ : Flags := 2
def flagOF : Flags := 4
def flagUF : Flags := 8
def flagNX : Flags := 16
def flagSAT : Flags := 32

/-- A rounding mode (R181); the stochastic mode brings the value `r` of the state that rounds (R93). -/
inductive Rnd where
  | rne | rtz | rup | rdn
  | rsr (r : Word)
  deriving DecidableEq, Repr

/-- The mode a three-bit number names; `r` is used by RSR alone (R23, R181). -/
def Rnd.ofBits (m : BitVec 3) (r : Word) : Rnd :=
  match m.toNat with
  | 0 => .rne
  | 1 => .rtz
  | 2 => .rup
  | 3 => .rdn
  | _ => .rsr r

/-- RSR acts as RNE (lane reductions, transcendentals, overflow: R93, R97, R107). -/
def Rnd.noRsr : Rnd → Rnd
  | .rsr _ => .rne
  | r => r

/-- The next RSR state (R93). -/
def rsrNext (x : Word) : Word :=
  let x := x ^^^ (x <<< 13)
  let x := x ^^^ (x >>> 17)
  x ^^^ (x <<< 5)

/-- Whether a magnitude `k + rem/2^shift` of the given sign rounds away from zero. -/
def roundUp (rnd : Rnd) (neg : Bool) (k rem shift : Nat) : Bool :=
  match rnd with
  | .rne => decide (2 ^ shift < 2 * rem) || (decide (2 * rem = 2 ^ shift) && decide (k % 2 = 1))
  | .rtz => false
  | .rup => !neg && decide (rem ≠ 0)
  | .rdn => neg && decide (rem ≠ 0)
  | .rsr r => decide (r.toNat < rem * 2 ^ 32 / 2 ^ shift)

/-- A magnitude rounded to a grid of `manBits` below its top bit, never finer than 2^emin (R181): the multiple, its
exponent, and whether the rounding lost something. `m` is not zero. -/
def roundMag (manBits : Nat) (emin : Int) (rnd : Rnd) (neg : Bool) (m : Nat) (e : Int) : Nat × Int × Bool :=
  let top := (Nat.log2 m : Int) + e
  let q := max (top - manBits) emin
  if q ≤ e then (m * 2 ^ (e - q).toNat, q, false)
  else
    let sh := (q - e).toNat
    let k := m >>> sh
    let rem := m % 2 ^ sh
    (if roundUp rnd neg k rem sh then k + 1 else k, q, decide (rem ≠ 0))

/-- `a × 2^x` against `b × 2^y`: whether the first is greater. -/
def magGt (a : Nat) (x : Int) (b : Nat) (y : Int) : Bool :=
  let lo := min x y
  decide (b * 2 ^ (y - lo).toNat < a * 2 ^ (x - lo).toNat)

/-- The code of `k × 2^q`, a value the format can hold, without sign. -/
def Fmt.code (f : Fmt) (k : Nat) (q : Int) : Nat :=
  let k' := if k = 2 ^ (f.manBits + 1) then 2 ^ f.manBits else k
  let q' := if k = 2 ^ (f.manBits + 1) then q + 1 else q
  if k' < 2 ^ f.manBits then k' else ((q' + f.bias + f.manBits).toNat) * 2 ^ f.manBits + (k' - 2 ^ f.manBits)

/-- What an overflow gives, and its flags: the rows of R103, of which the `.ieee` column is R97. -/
def Fmt.overflow (f : Fmt) (sat : Bool) (rnd : Rnd) (neg : Bool) : Nat × Flags :=
  if sat then (f.withSign neg f.maxCode, flagSAT ||| flagNX)
  else match f.rd with
    | .finite => (f.withSign neg f.maxCode, flagOF ||| flagNX)
    | .nanonly => (f.withSign neg f.nanCode, flagOF ||| flagNX)
    | .ieee =>
      let toMax := match rnd with
        | .rne | .rsr _ => false
        | .rtz => true
        | .rup => neg
        | .rdn => !neg
      (f.withSign neg (if toMax then f.maxCode else f.infCode), flagOF ||| flagNX)

/-- A finite nonzero magnitude rounded to a format: code and flags (R90, R103, R181, R182). -/
def Fmt.roundFin (f : Fmt) (sat : Bool) (rnd : Rnd) (neg : Bool) (m : Nat) (e : Int) : Nat × Flags :=
  match roundMag f.manBits f.emin rnd neg m e with
  | (k, q, inexact) =>
    match Fmt.value { f with rd := f.rd } f.maxCode with
    | .fin _ mm me =>
      if magGt k q mm me then f.overflow sat rnd neg
      else
        (f.withSign neg (f.code k q),
          if inexact then (if k < 2 ^ f.manBits then flagNX ||| flagUF else flagNX) else 0)
    | _ => (f.withSign neg (f.code k q), 0)

/-- The narrowing of R103: the first row that matches. A zero keeps its sign. -/
def Fmt.narrow (f : Fmt) (sat : Bool) (rnd : Rnd) : FVal → Nat × Flags
  | .nan => if f.rd = .finite then (0, flagNV) else (f.nanCode, 0)
  | .inf neg =>
    if sat then (f.withSign neg f.maxCode, flagSAT)
    else match f.rd with
      | .ieee => (f.withSign neg f.infCode, 0)
      | .nanonly => (f.withSign neg f.nanCode, flagNV)
      | .finite => (f.withSign neg f.maxCode, flagNV)
  | .fin neg m e => if m = 0 then (f.withSign neg 0, 0) else f.roundFin sat rnd neg m e

/-- `RoundFP32` of R181. -/
def roundFp32 (rnd : Rnd) (v : FVal) : Word × Flags :=
  match fp32.narrow false rnd v with
  | (c, fl) => (BitVec.ofNat 32 c, fl)

/-! ## Exact arithmetic -/

/-- The value of an FP32 pattern. -/
def valF32 (w : Word) : FVal := fp32.value w.toNat

/-- Sign inverted; a NaN stays one. -/
def FVal.neg : FVal → FVal
  | .nan => .nan
  | .inf n => .inf (!n)
  | .fin n m e => .fin (!n) m e

/-- Times 2^k, exactly. -/
def FVal.scale (k : Int) : FVal → FVal
  | .fin n m e => .fin n m (e + k)
  | v => v

/-- The signed mantissa of a finite value over 2^lo. -/
def signedMant (neg : Bool) (m : Nat) (e lo : Int) : Int :=
  let x : Int := (m * 2 ^ (e - lo).toNat : Nat)
  if neg then -x else x

/-- An exact sum, with the sign of a zero sum under the mode (R97). -/
def FVal.add (rnd : Rnd) : FVal → FVal → FVal × Flags
  | .nan, _ => (.nan, 0)
  | _, .nan => (.nan, 0)
  | .inf a, .inf b => if a = b then (.inf a, 0) else (.nan, flagNV)
  | .inf a, .fin _ _ _ => (.inf a, 0)
  | .fin _ _ _, .inf b => (.inf b, 0)
  | .fin na ma ea, .fin nb mb eb =>
    if ma = 0 ∧ mb = 0 then (.fin (if na = nb then na else decide (rnd = .rdn)) 0 0, 0)
    else
      let lo := min ea eb
      let x := signedMant na ma ea lo + signedMant nb mb eb lo
      (if x = 0 then .fin (decide (rnd = .rdn)) 0 0 else .fin (decide (x < 0)) x.natAbs lo, 0)

/-- An exact product; 0 × ∞ is NaN with NV (R97, R186). -/
def FVal.mul : FVal → FVal → FVal × Flags
  | .nan, _ => (.nan, 0)
  | _, .nan => (.nan, 0)
  | .inf a, .inf b => (.inf (a != b), 0)
  | .inf a, .fin nb mb _ => if mb = 0 then (.nan, flagNV) else (.inf (a != nb), 0)
  | .fin na ma _, .inf b => if ma = 0 then (.nan, flagNV) else (.inf (na != b), 0)
  | .fin na ma ea, .fin nb mb eb => (.fin (na != nb) (ma * mb) (ea + eb), 0)

/-- `a × b + c`, exact; the flags of the product are raised even when `c` is a NaN (R97). -/
def FVal.fma (rnd : Rnd) (a b c : FVal) : FVal × Flags :=
  let p := a.mul b
  let r := p.1.add rnd c
  (r.1, p.2 ||| r.2)

/-- One FP operation with one rounding to a format of up to 32 bits. -/
def Fmt.finish (f : Fmt) (rnd : Rnd) (v : FVal × Flags) : Nat × Flags :=
  let r := f.narrow false rnd v.1
  (r.1, v.2 ||| r.2)

/-- `ExactSum` of R186. -/
def exactSum (ts : List FVal) : FVal × Flags :=
  if ts.any (fun t => decide (t = .nan)) then (.nan, 0)
  else if ts.any (fun t => decide (t = .inf false)) && ts.any (fun t => decide (t = .inf true)) then (.nan, flagNV)
  else if ts.any (fun t => decide (t = .inf false)) then (.inf false, 0)
  else if ts.any (fun t => decide (t = .inf true)) then (.inf true, 0)
  else
    let lo : Int := ts.foldl (fun a t => match t with | .fin _ _ e => min a e | _ => a) 0
    let x : Int := ts.foldl (fun a t => match t with | .fin n m e => a + signedMant n m e lo | _ => a) 0
    if x = 0 then (.fin (ts.all (fun t => match t with | .fin n m _ => n && decide (m = 0) | _ => false)) 0 0, 0)
    else (.fin (decide (x < 0)) x.natAbs lo, 0)

/-- An order key of a value that is not NaN: less than, with -0 below +0 when `zeros` (R97), equal otherwise (R101). -/
def FVal.lt (zeros : Bool) : FVal → FVal → Bool
  | .nan, _ => false
  | _, .nan => false
  | .inf a, .inf b => a && !b
  | .inf a, .fin _ _ _ => a
  | .fin _ _ _, .inf b => !b
  | .fin na ma ea, .fin nb mb eb =>
    if ma = 0 ∧ mb = 0 then zeros && na && !nb
    else
      let lo := min ea eb
      decide (signedMant na ma ea lo < signedMant nb mb eb lo)

def FVal.isNan : FVal → Bool
  | .nan => true
  | _ => false

/-- `VMIN` and `VMAX` of two codes (R97): a lone NaN gives way, two give the canonical NaN. -/
def Fmt.minMax (f : Fmt) (max : Bool) (a b : Nat) : Nat :=
  let x := f.value a
  let y := f.value b
  if x.isNan && y.isNan then f.nanCode
  else if x.isNan then b
  else if y.isNan then a
  else if max then (if x.lt true y then b else a)
  else (if y.lt true x then b else a)

/-! ## Integers and floats (R102, R180) -/

/-- The value of an integer. -/
def FVal.ofInt (x : Int) : FVal := .fin (decide (x < 0)) x.natAbs 0

/-- A value rounded to an integer in [lo, hi]; out of range, infinities and NaN set NV and never NX (R102). -/
def FVal.toInt (rnd : Rnd) (lo hi : Int) : FVal → Int × Flags
  | .nan => (0, flagNV)
  | .inf neg => (if neg then lo else hi, flagNV)
  | .fin neg m e =>
    let (k, inexact) : Nat × Bool :=
      if 0 ≤ e then (m * 2 ^ e.toNat, false)
      else
        let sh := (-e).toNat
        let k := m >>> sh
        let rem := m % 2 ^ sh
        (if roundUp rnd neg k rem sh then k + 1 else k, decide (rem ≠ 0))
    let x : Int := if neg then -(k : Int) else k
    if x < lo then (lo, flagNV)
    else if hi < x then (hi, flagNV)
    else (x, if inexact then flagNX else 0)

/-! ## Correctly rounded transcendentals (R99)

An irrational value is given by a lower approximation with a trailing 1 bit, far finer than any rounding boundary of
FP32 that it could be confused with. -/

/-- Integer square root, one result bit per unit of fuel. -/
def isqrtAux : Nat → Nat → Nat → Nat
  | 0, _, r => r
  | k + 1, n, r =>
    let t := r + 2 ^ k
    isqrtAux k n (if t * t ≤ n then t else r)

def isqrt (n : Nat) : Nat := isqrtAux (Nat.log2 n / 2 + 1) n 0

/-- Fixed-point precision of the approximations. -/
def approxBits : Nat := 192

/-- `2^f` times `2^approxBits` from below, for a fraction `num / 2^j` in [0, 1), by successive square roots of 2. -/
def exp2Frac : Nat → Nat → Nat → Nat → Nat
  | 0, _, _, acc => acc
  | j + 1, num, root, acc =>
    let root' := isqrt (root * 2 ^ approxBits)
    exp2Frac j num root' (if num.testBit j then acc * root' / 2 ^ approxBits else acc)

/-- `VEXP2` (R99). -/
def exp2F32 (x : Word) : Word × Flags :=
  match valF32 x with
  | .nan => (0x7FC00000, 0)
  | .inf neg => (if neg then 0 else 0x7F800000, 0)
  | .fin neg m e =>
    if m = 0 then (0x3F800000, 0)
    else if magGt m e 1 8 then
      (if neg then (0, flagUF ||| flagNX) else (0x7F800000, flagOF ||| flagNX))
    else if ¬ magGt m e 1 (-27) then (0x3F800000, flagNX)
    else
      -- |x| lies in (2^-27, 256], so x = i / 2^j with j at most 51
      let j := if 0 ≤ e then 0 else (-e).toNat
      let i := signedMant neg m e (-(j : Int))
      let n := i.fdiv (2 ^ j : Nat)
      let num := (i - n * (2 ^ j : Nat)).toNat
      if num = 0 then
        match fp32.narrow false .rne (.fin false 1 n) with
        | (c, fl) => (BitVec.ofNat 32 c, fl)
      else
        let y := exp2Frac j num (2 ^ (approxBits + 1)) (2 ^ approxBits)
        match fp32.narrow false .rne (.fin false (2 * y + 1) (n - approxBits - 1)) with
        | (c, fl) => (BitVec.ofNat 32 c, fl)

/-- `VRCP` (R99). -/
def rcpF32 (x : Word) : Word × Flags :=
  match valF32 x with
  | .nan => (0x7FC00000, 0)
  | .inf neg => (if neg then 0x80000000 else 0, 0)
  | .fin neg m e =>
    if m = 0 then (if neg then 0xFF800000 else 0x7F800000, flagDZ)
    else
      let q := 2 ^ 128 / m
      let sticky := if 2 ^ 128 % m = 0 then 0 else 1
      roundFp32 .rne (.fin neg (2 * q + sticky) (-e - 129))

/-- `VRSQ` (R99). -/
def rsqF32 (x : Word) : Word × Flags :=
  match valF32 x with
  | .nan => (0x7FC00000, 0)
  | .inf neg => if neg then (0x7FC00000, flagNV) else (0, 0)
  | .fin neg m e =>
    if m = 0 then (if neg then 0xFF800000 else 0x7F800000, flagDZ)
    else if neg then (0x7FC00000, flagNV)
    else
      -- 1/sqrt(m 2^e) = sqrt(2^k / m) 2^(-(e+k)/2) with e + k even
      let k : Nat := if e % 2 = 0 then 256 else 257
      let t := 2 ^ k / m
      let r := isqrt t
      let sticky := if r * r = t ∧ 2 ^ k % m = 0 then 0 else 1
      roundFp32 .rne (.fin false (2 * r + sticky) (-((e + (k : Int)) / 2) - 1))

/-- Fraction bits of log2 of `y / 2^p` in [1, 2), most significant first, `acc` holding those found. -/
def log2Frac : Nat → Nat → Nat → Nat → Nat
  | 0, _, _, acc => acc
  | k + 1, p, y, acc =>
    let z := y * y / 2 ^ p
    if 2 ^ (p + 1) ≤ z then log2Frac k p (z / 2) (2 * acc + 1) else log2Frac k p z (2 * acc)

/-- `VLOG2` (R99). -/
def log2F32 (x : Word) : Word × Flags :=
  match valF32 x with
  | .nan => (0x7FC00000, 0)
  | .inf neg => if neg then (0x7FC00000, flagNV) else (0x7F800000, 0)
  | .fin neg m e =>
    if m = 0 then (0xFF800000, flagDZ)
    else if neg then (0x7FC00000, flagNV)
    else
      let l := Nat.log2 m
      let n : Int := (l : Int) + e
      if m = 2 ^ l then roundFp32 .rne (.fin (decide (n < 0)) n.natAbs 0)
      else
        -- 128 fraction bits from a 384-bit mantissa
        let f := log2Frac 128 384 (m * 2 ^ (384 - l)) 0
        let v : Int := n * (2 ^ 128 : Nat) + f
        if 0 ≤ v then roundFp32 .rne (.fin false (2 * v.natAbs + 1) (-129))
        else roundFp32 .rne (.fin true (2 * (v.natAbs - 1) + 1) (-129))

/-! ## Blocks (R104, R179) -/

/-- The scale byte of a block of values with the largest magnitude `amax` (R104). -/
def blockScale (f : Fmt) (xs : List FVal) : Byte :=
  if xs.any (fun x => match x with | .fin _ _ _ => false | _ => true) then 0xFF
  else
    let top := xs.foldl (fun (a : Option Int) x => match x with
      | .fin _ m e => if m = 0 then a else
        let t := (Nat.log2 m : Int) + e
        match a with
        | none => some t
        | some b => some (max b t)
      | _ => a) none
    match top with
    | none => 127
    | some t => BitVec.ofNat 8 (min 254 (max 0 (t - f.emax + 127))).toNat

/-- The largest magnitude of a block, the canonical NaN when any value is one (R104). -/
def blockAmax (ws : List Word) : Word :=
  if ws.any (fun w => (valF32 w).isNan) then 0x7FC00000
  else ws.foldl (fun a w =>
    let x := w &&& 0x7FFFFFFF
    if a.toNat < x.toNat then x else a) 0

/-- The value of a block element under its scale byte and special byte (R179, R106). -/
def blockValue (f : Fmt) (isE2m1 : Bool) (s : Byte) (special : Option Byte) (c : Nat) : FVal :=
  if s = 0xFF then (if f.rd = .finite then .fin false 0 0 else .nan)
  else
    let v := match special with
      | some e => if isE2m1 && decide (c = 8) then (e4m3 f.rd).value e.toNat else f.value c
      | none => f.value c
    v.scale ((s.toNat : Int) - 127)

/-- An FP8 or E2M1 format by its number (R104): 0 E4M3, 1 E5M2, 2 E2M1. -/
def narrowFmt (fmt : BitVec 2) (rd : Reading) : Fmt :=
  match fmt.toNat with
  | 0 => e4m3 rd
  | 1 => e5m2 rd
  | _ => e2m1 rd

/-- A reading by its number (R102). -/
def readingOf (rd : BitVec 2) : Reading :=
  match rd.toNat with
  | 0 => .finite
  | 1 => .nanonly
  | _ => .ieee

end Sys2Proof.Machine
end

