-- ==== Sys2Proof/Config.lean ====
section
/-! DEFINITION. What is fixed for one machine and what the spec leaves open.

The build figures are those the spec prints for the standard build. A value the spec leaves open is an `opaque`
constant without a body: nothing can be proved of it, so a claim holds whatever it is. Each is named in the
assumption log. -/

namespace Sys2Proof.Config

/-- FREE VALUE. An undefined byte of pool bank contents (R22, R153): generation of the bank's contents, pool byte
address. DESIGN CHOICE, log entry 3. -/
opaque freePoolByte : Nat → Nat → Byte

/-- FREE VALUE. A word that an agent outside the model answers with (R141); by the model's counter. DESIGN CHOICE, log
entry 13. -/
opaque freeWord : Nat → BitVec 32

/-- FREE VALUE. A word the spec leaves open: the lanes of an output-queue entry whose row has no sink (R120); by sequence number
and row, so that every run has the same (R190). DESIGN CHOICE, log entry 12. -/
opaque freeRow : Nat → Nat → BitVec 32

/-- FREE VALUE. How a core or agent that the model does not hold answers an access that reaches it (R141, R143, R274, R345):
by the model's counter. DESIGN CHOICE, log entry 13. -/
opaque otherAnswer : Nat → Nat

/-- FREE VALUE. How many ns of the region counter pass at the `n`th step (R3, R76: the spec fixes no execution time of
one instruction, only bounds). DESIGN CHOICE, log entry 4. -/
opaque elapsed : Nat → Nat

/-- FREE VALUE. A reading the architecture fixes no value for (R381): temperatures, MV, OSC; by a counter. DESIGN CHOICE, log entry 5. -/
opaque sensor : Nat → BitVec 32

/-- FREE VALUE. Figures measured at boot and published by `DISC` (R252 section 2): section, entry. DESIGN CHOICE, log entry 6. -/
opaque measured : Nat → Nat → DWord

/-- FREE VALUE. How long the `i`th timestamped exchange of bring-up takes from a field of a package to a neighbouring one, in ns (R388): package,
from, to, `i`. DESIGN CHOICE, log entry 6. -/
opaque exchangeTime : Nat → Nat → Nat → Nat → Nat

/-- FREE VALUE. Whether the module's SLH-DSA-SHAKE-256f verification accepts a signature (R319): digest, key,
signature bytes. The algorithm is a standard outside the spec. DESIGN CHOICE, log entry 7. -/
opaque signatureValid : BitVec 512 → BitVec 512 → List Byte → Bool

/-- FREE VALUE. The choice the management core makes where the spec leaves it the choice (R230 placement of pages): by
a counter. DESIGN CHOICE, log entry 8. -/
opaque placeChoice : Nat → Nat

/-- FREE VALUE. How far the counter of a reticle field of a package is ahead of the model's own clock, in ns (R3: no figure is fixed,
and no two packages share a time base): package, field. DESIGN CHOICE, log entry 6. -/
opaque fieldOffset : Nat → Nat → Nat

/-- FREE VALUE. Whether a flit finds room at a station that keeps no entry for it (R365: the spec gives no capacity): by the model's
counter. DESIGN CHOICE, log entry 48. -/
opaque ringRoom : Nat → Bool

/-- FREE VALUE. Whether a ring link sets up its session again after a retrain (R371); by the model's counter. DESIGN CHOICE, log entry
79. -/
opaque sessionHolds : Nat → Bool

/-- FREE VALUE. Over how many of a package's CXL ports the host interleaves its memory, as a power of 2 (R372): the host's choice. DESIGN CHOICE,
log entry 79. -/
opaque hostWays : Nat → Nat

/-- FREE VALUE. The dies of a package that fail authentication at boot (R370). DESIGN CHOICE, log entry 79. -/
opaque failedDies : Nat → List (BitVec 7)

/-- FREE VALUE. What the built-in test of a package finds (R385, R388): cores that fail, by chiplet, row and column, and cores with
a failed column of cells. DESIGN CHOICE, log entry 79. -/
opaque failedCores : Nat → List (BitVec 14)
opaque failedColumns : Nat → List (BitVec 14 × BitVec 3)

/-- FREE VALUE. The key of a ring plane in a direction after a number of updates, and the tag that AES-256-GCM gives under a key, a
nonce and a text (R362, R371): standards outside the spec. DESIGN CHOICE, log entry 79. -/
opaque ringKey : Nat → Nat → BitVec 256
opaque gcmTag : BitVec 256 → BitVec 96 → List Byte → List Byte

/-- Nominal supply of a region, set at boot from calibration, 650 to 850 mV (R381). DESIGN CHOICE, log entry 5. -/
opaque nominalSupply : Nat → BitVec 16

/-- Instruction memory words and the first word of the locked handler area (R14). -/
def imemWords : Nat := 4096
def handlerArea : Nat := 3584

/-- Pool geometry (R151). -/
def bankBytes : Nat := 2048
def poolBanks : Nat := 64
def poolBytes : Nat := 131072

/-- Queue depths (R30, R82, R123, R170). -/
def cmdQueueDepth : Nat := 16
def memQueueDepth : Nat := 16
def dataQueueDepth : Nat := 8
def reliefGrants : Nat := 16

/-- Copy promise classes of R142 and the circuit class of R276: (L in ns, B in MB/s) (R254, section 7). -/
def promiseClass : Nat → Nat × Nat
  | 0 => (100, 64000)
  | 1 => (3300, 24000)
  | 2 => (1200, 32000)
  | 3 => (20000, 16000)
  | 4 => (60000, 8000)
  | _ => (200, 256000)

/-- Wake bounds of section 4 in ns (R252). -/
def wakeNarrow : Nat := 60
def wakeSleep : Nat := 1500

/-- PARTW at launch start when the record's PARTW0 is 0 (R316). -/
def defaultPartw : DWord := 0x1F02#64

/-- The byte that unwritten committed memory reads as. The spec gives none for memory after power-on. DESIGN CHOICE, log entry 2. -/
def memDefault : Byte := 0

end Sys2Proof.Config
end

