-- ==== Sys2Proof/Machine/State.lean ====
section
/-! DEFINITION. The state of the machine, as plain data.

`Core` is the modelled core: everything chapters 1 to 8, 11 and 14 give a core. `State` adds the units the core shares
with the rest of the machine: homes and caches, launches and hallmarks, the host's registers, task graphs, both planes
of the mesh, rings and power regions. Another core appears as a slot, as a member of a launch and through the requests
it has sent. -/

namespace Sys2Proof.Machine

/-! ## Outcomes that stop a run -/

/-- Why a run stops with a fault. (DEDUCED, log entry 57.) -/
inductive Fault where
  /-- The host's access to a physical address that does not exist: in a window that R228 reserves (CLS 4, 5), or past bit 51.
  Raised by `HOST_READ` and `HOST_WRITE`; a launch's translation cannot reach such an address (R232). Safe: no claim can be
  proved of what follows. -/
  | reservedWindow (pa : Nat)
  deriving DecidableEq, Repr

/-- Why an instruction has no meaning here. -/
inductive Refusal where
  /-- Not modelled (yet). Raised only by the arms of `exec`. Safe. -/
  | notModelled (mnemonic : String)
  deriving DecidableEq, Repr

/-! ## The modelled core -/

/-- The mode of the core (R324). -/
inductive Mode where
  | program
  | handler
  deriving DecidableEq, Repr

/-- Trap causes (R325). -/
inductive Cause where
  | fetchRange | fetchHandlerArea | fetchError | illegal | privilege | emptySource
  | address | alignment | page | access | pool | buffer | overlay | software | breakpoint | step | arithmetic
  | command | engine | lateCopy | deadlock | group | semaphore
  deriving DecidableEq, Repr

/-- Fetch state of a target register (R13). A faulted register holds the cause and address of the fault. -/
inductive FetchState where
  | idle
  | fetching
  | ready
  | faulted (cause : Cause) (addr : DWord)
  deriving DecidableEq, Repr

/-- A target register `b0`-`b7` (R13). -/
structure TargetReg where
  addr : BitVec 12
  state : FetchState
  deriving DecidableEq, Repr

/-- A hardware loop level (R68-R71). `order` is the position at which the level was started among the active ones. -/
structure LoopLevel where
  count : Word
  start : BitVec 12
  stop : BitVec 12
  active : Bool
  order : Nat
  deriving DecidableEq, Repr

/-- What kind of wait a unit is in (R156). -/
inductive WaitKind where
  | internal
  | external
  deriving DecidableEq, Repr

/-- A result on its way to its destination, which is interlocked until it is written (R49, R91). -/
inductive Latent where
  | scalar (r : BitVec 5) (x : DWord)
  | vector (r : BitVec 5) (x : VReg)
  | mask (r : BitVec 3) (x : BitVec 16)
  deriving DecidableEq, Repr

/-- What the sequencer is doing. -/
inductive RunState where
  /-- No launch is bound to the core. -/
  | unbound
  /-- Bound and loaded; the sequencer has not started (R375). -/
  | bound
  | running
  /-- `OVL` of overlay n is loading (R86). -/
  | overlay (n : Nat)
  /-- `EXIT` has been executed and the core drains (R87). -/
  | exited
  /-- The core has reported done (R87). -/
  | done
  /-- A save runs; the flag says the core was draining after `EXIT` (R329). -/
  | saving (exited : Bool)
  /-- The save area holds the core (R330). -/
  | saved
  /-- Frozen by a debug halt; the flag says the core was draining after `EXIT` (R331). -/
  | halted (exited : Bool)
  /-- Stopped by a handler fault that the management core has received, or by `TXABORT` or a kill (R326, R266). -/
  | stopped
  deriving DecidableEq, Repr

/-- Where a load delivers its data. -/
inductive LoadDest where
  /-- `GLD`: destination and kind (R78). -/
  | scalar (d : BitVec 5) (kind : BitVec 3)
  /-- `VGLD`: destination and the lanes active at issue (R110). -/
  | vector (d : BitVec 5) (lanes : BitVec 16)
  /-- Discarded after `EXIT` (R87). -/
  | discard
  /-- The load-queue entry of a `MARK` (R158). -/
  | mark
  deriving DecidableEq, Repr

/-- An entry of the load queue (R82, R158). `seq` is its place in program order among the memory operations; `data`
holds the bytes once the load has performed; `sent` says that it has gone to memory. -/
structure LoadEntry where
  seq : Nat
  dest : LoadDest
  va : Nat
  pa : Nat
  size : Nat
  data : Option (List Byte)
  sent : Bool := false
  deriving DecidableEq, Repr

/-- An access collected in an atomic line region (R211): address, and a load with its destination and kind, or a store
with its bytes. -/
inductive RegionAcc where
  | load (pa : Nat) (size : Nat) (d : BitVec 5) (kind : BitVec 3)
  | store (pa : Nat) (bytes : List Byte)
  deriving DecidableEq, Repr

/-- The arithmetic of a reduction (R205). -/
inductive RedOp where
  | f32 | bf16 | i32 | f32max
  deriving DecidableEq, Repr

/-- What a store-queue entry does when it leaves. -/
inductive StoreOp where
  /-- Written bytes, by physical address. -/
  | write (cells : List Host.Cell)
  /-- An atomic: operation, doubleword, operand, compare value, destination (R198). -/
  | atomic (op : BitVec 4) (dbl : Bool) (opnd cmp : DWord) (d : BitVec 5)
  /-- `RED`: operation, contribution, active bytes, per-core index (R206, R207). -/
  | red (op : RedOp) (data : LineData) (mask : LineMask) (index : Nat)
  /-- `REDO` with its group (R208). -/
  | redo (op : RedOp) (data : LineData) (mask : LineMask) (group : Byte)
  /-- An atomic line region (R212). -/
  | region (accs : List RegionAcc)
  /-- `MARK` (R158): its load-queue entry bears the same `seq`. -/
  | mark
  /-- `FENCE.rel` (R194). -/
  | fenceRel
  /-- The add of `SEMADD`, after its release (R215). -/
  | semAdd (n : Byte) (v : Word) (d : BitVec 5)
  /-- The arrival of `BAR`, after its release (R217). -/
  | barArrive (group : Byte)
  deriving DecidableEq, Repr

/-- An entry of the store queue. `scope` is the scope the store or fence carries, after R7 and the default of R83. -/
structure StoreEntry where
  seq : Nat
  op : StoreOp
  va : Nat
  pa : Nat
  size : Nat
  scope : BitVec 3
  deriving DecidableEq, Repr

/-- An atomic, semaphore add or line-region load whose result has not been written yet (R199, R212, R215). -/
structure ResultPend where
  seq : Nat
  d : BitVec 5
  result : Option DWord
  deriving DecidableEq, Repr

/-- The open atomic line region (R210-R212). -/
structure OpenRegion where
  pc : BitVec 12
  va : Nat
  pa : Nat
  accs : List RegionAcc
  deriving DecidableEq, Repr

/-- An engine-status read in flight (R16). -/
inductive StatusReq where
  | srp (d : BitVec 5) (n : BitVec 2)
  | qht (d : BitVec 5) (n : Nat)
  | kstat (d : BitVec 5) (k : BitVec 5)
  | bufstat (d : BitVec 5) (n : BitVec 5)
  | cstat (d : BitVec 5) (h : BitVec 3)
  deriving DecidableEq, Repr

/-- The engine commands (R111, R256). -/
inductive CmdOp where
  | srun | gldc | ggo | gmma | copy | copy2d | sendCmd | lbind | copen | cstream
  deriving DecidableEq, Repr

/-- A queued engine command: signal slot, parameter values read at issue, captured waits, producer number, bank
(`GLDC`, `GGO`), and the memory sequence number of the youngest older fence (R113, R195). -/
structure Command where
  op : CmdOp
  sig : BitVec 5
  params : Vector DWord 4
  waits : List (BitVec 5 × BitVec 16)
  id : Nat
  bank : BitVec 2
  fence : Nat
  /-- It waits on a producer whose publish scope is pod or hall (R246). -/
  far : Bool
  deriving DecidableEq, Repr

/-- A command queue of 16 entries with the head and tail of R30, wrap bit on top. -/
structure CmdQueue where
  slots : Vector (Option Command) 16
  head : BitVec 5
  tail : BitVec 5
  deriving DecidableEq, Repr

/-- A producer of a token slot that has not been counted (R114), in issue order. -/
structure Producer where
  id : Nat
  done : Bool
  deriving DecidableEq, Repr

/-- A token slot (R15, R116): counters, uncounted producers, the record of the most recent producer, the bound
semaphore. -/
structure TokenSlot where
  iss : BitVec 16
  cmp : BitVec 16
  pending : List Producer
  last : Nat
  pv : Bool
  prom : BitVec 24
  late : Bool
  err : Bool
  sem : Option Byte
  /-- A producer with a publish scope of pod or hall has been issued on it (R246). -/
  wide : Bool
  deriving DecidableEq, Repr

/-- A pending engine fault (R117, R129). -/
structure EngineFault where
  queue : BitVec 3
  sub : BitVec 2
  addr : DWord
  seq : BitVec 48
  deriving DecidableEq, Repr

/-- A stream token: sequence number, data, and the check windows (circuit, start) its bytes came from that have not passed: while
there is one the token is unchecked (R164). -/
structure Token where
  seq : Nat
  data : TokenData
  windows : List (Nat × Nat)
  deriving DecidableEq, Repr

/-- What a write stream gathers of one step: sequence number, data, rows that have a sink, unchecked. -/
structure SinkToken where
  seq : Nat
  data : TokenData
  rows : Byte
  unchecked : Bool
  deriving DecidableEq, Repr

/-- The space a stream walks (R118). -/
inductive Space where
  | pool | ac | global | queue
  deriving DecidableEq, Repr

/-- A running stream (R119, R162). -/
structure StreamRun where
  write : Bool
  space : Space
  column : Bool
  ssc : BitVec 3
  psc : BitVec 3
  base : DWord
  strides : Vector Word 6
  counts : Vector Word 6
  first : Nat
  trip : Nat
  nextRead : Nat
  ahead : List Token
  deriving DecidableEq, Repr

/-- A value of the grid with its valid bit and sequence tag (R129); `unchecked` as R164. -/
structure GVal where
  bits : Word
  valid : Bool
  tag : Option Nat
  unchecked : Bool
  deriving DecidableEq, Repr

/-- A cluster between steps: local registers and the link value that arrived (R128, R160). -/
structure Cluster where
  l : Vector GVal 8
  link : GVal
  deriving DecidableEq, Repr

/-- The datapath state that a cut of a `GGO` saves (R161). -/
structure GridState where
  clusters : Vector Cluster 256
  acc : Vector (Vector GVal 64) 64
  rsr : Vector Word 256
  step : Nat
  deriving DecidableEq, Repr

/-- A running `GGO` (R126): what it runs with, the step state, and the checkpoint of R164 with its window, the flags at it, the
tokens (of the column ports, or of the row ports) taken since and the branch-outcome bits computed since, which enter their
queue when the window passes (DESIGN CHOICE, log entry 65). `first` is the first step and `last` the last it will run. -/
structure GridRun where
  bank : BitVec 2
  first : Nat
  trip : Nat
  last : Nat
  rm : BitVec 3
  fpEpoch : Nat
  flags : BitVec 6
  st : GridState
  check : Option GridState
  checkFlags : BitVec 6
  window : Option (Nat × Nat)
  taken : List (Bool × Token)
  pqHeld : List Bool
  /-- A sink's data has been written to memory (R160). -/
  wrote : Bool
  /-- Ended by `GSTOP` (R124). -/
  stopping : Bool
  deriving DecidableEq, Repr

/-- A running `GMMA` (R132-R135): the two descriptors as read at start, the tile's accumulators row by row, the next
K-block, the flags since the last retire and before it, the check windows that blocks since the last retire were drawn from
(R164), whether it ends at the next retire point (`GSTOP`), and narrow substitution (R384). -/
structure GmmaRun where
  descA : List Byte
  descB : List Byte
  acc : List Word
  nextBlock : Nat
  flagsNew : BitVec 6
  flags : BitVec 6
  windows : List (Nat × Nat)
  stopping : Bool
  narrow : Bool
  deriving DecidableEq, Repr

/-- The command in execution of one queue: when it started, its promise (R142), its progress, whether its own work has
ended, whether it ends with an error, whether a fault has stopped it, the translation fault that pager mode is to resolve
(address, write: R327), and the buffers it is a reader of (R166). -/
structure Running where
  id : Nat
  start : DWord
  promise : Option DWord
  cursor : Nat
  finished : Bool
  err : Bool
  stopped : Bool
  pager : Option (Nat × Bool)
  buffers : List Nat
  /-- The counts that an `SRUN` took from its nest record when it started (R119, R123). -/
  nest : Option (Vector Word 6)
  /-- A `GSTOP` has reached it (R124). -/
  stopping : Bool
  deriving DecidableEq, Repr

/-- States of a scratchpad buffer (R137, R166). -/
inductive BufState where
  | empty | filling | full | draining
  deriving DecidableEq, Repr

/-- A scratchpad buffer (R138, R139, R165). -/
structure Buffer where
  declared : Bool
  base : Nat
  size : Nat
  state : BufState
  remoteWriter : Bool
  readers : Nat
  chk : Nat
  deriving DecidableEq, Repr

/-- A circuit handle of the port (R273). -/
structure Handle where
  st : BitVec 3
  cause : BitVec 2
  leaseEnd : DWord
  resume : Word
  /-- The `CSTREAM` whose window moved `resume` last (R276). -/
  resumeCmd : Nat
  dest : BitVec 24
  label : BitVec 16
  /-- The command number at the `CCLOSE` that closes it, and at its last cut (R275, R277). -/
  closeAt : Nat
  cutAt : Nat
  deriving DecidableEq, Repr

/-- A meter entry of the port (R335, R346, R347). -/
structure Meter where
  dest : BitVec 24
  label : BitVec 16
  count : Nat
  intervalEnd : DWord
  lastDeparture : DWord
  tripped : Bool
  holdOff : Nat
  slot : Option (BitVec 3)
  clasped : Bool
  chainEnd : Word
  started : Bool
  deriving DecidableEq, Repr

/-- An L1 line (R236), with the class of its region (R294). -/
structure L1Line where
  line : Nat
  cls : BitVec 2
  data : LineData
  valid : LineMask
  dirty : LineMask
  scope : BitVec 3
  deriving DecidableEq, Repr

/-- A fault of the handler that the management core has received (R326). -/
structure HandlerFault where
  cause : Cause
  addr : DWord
  word : Word
  /-- Whether the access that faulted writes (R313, R326). -/
  write : Bool
  deriving DecidableEq, Repr

/-- An overlay of the image: words and trailer mask (R86, R319). -/
structure Overlay where
  words : List Word
  trailer : BitVec 6
  deriving DecidableEq, Repr

/-- The register files of the sequencer and the vector unit (R11, R12, R16), and the results that are still on their
way to an interlocked destination (R49, R91). -/
structure Regs where
  s : Vector DWord 32
  v : Vector VReg 32
  p : BitVec 8
  q : Vector (BitVec 16) 8
  sEmpty : BitVec 32
  vEmpty : BitVec 32
  /-- The mask stack, entry 0 at the bottom, and its depth (R32). -/
  stack : Vector (BitVec 16) 16
  depth : BitVec 5
  latent : List Latent
  deriving DecidableEq, Repr

/-- The sequencer: program counter, instruction memory, branches, loops, macros, overlays, stepping and stops. -/
structure Seq where
  run : RunState
  mode : Mode
  pc : BitVec 12
  /-- The last sequential fetch ran past word 4,095 (R14). -/
  pcOver : Bool
  wait : Option WaitKind
  imem : Vector Word 4096
  /-- Words of instruction memory that hold an uncorrectable error (R64). -/
  badWords : List (BitVec 12)
  /-- The macro control store (R72). -/
  ctrl : Vector Word 2048
  /-- A macro is being run (as against `MSTEP.ACT`, which stays set while a handler runs). -/
  macroRun : Bool
  ovb : Nat
  overlays : List Overlay
  curOverlay : Nat
  tb : Vector TargetReg 8
  /-- Target registers as they were when the trap was taken (R67). -/
  tbSaved : Vector TargetReg 8
  /-- The target register that the trapping branch names (R66, R67). -/
  tbTrap : Option (BitVec 3)
  loops : Vector LoopLevel 4
  stepInst : Bool
  stepGrid : Bool
  /-- A step has been armed by `DSTEP` in the handler and becomes live at `TRET` (R262). -/
  stepFired : Bool
  gridStepFired : Bool
  handlerFault : Option HandlerFault
  /-- The capture of a `SLEEP` that sleeps (R268). -/
  sleepCap : Option (List (BitVec 16))
  /-- The capture of a `SEMWAIT` that sleeps: semaphore, value, and whether an add has satisfied it (R215). -/
  semCap : Option (Byte × Word × Bool)
  /-- The groups at whose barriers this core has arrived and not been released, with the scope (R217). -/
  barWait : List (Byte × BitVec 3)
  savePending : Bool
  haltRequested : Bool
  /-- A `YIELD` has answered 1: the pending save is taken before the next instruction issues (R267). -/
  yielded : Bool
  deriving DecidableEq, Repr

/-- System registers (R20) that are not derived from other state. -/
structure SysRegs where
  partw : DWord
  fpctl : DWord
  fpflag : BitVec 6
  tdmaskl : DWord
  tdmaskh : DWord
  mstep : DWord
  srp : Vector DWord 4
  tcause : DWord
  taddr : DWord
  /-- `TADDR` as the trap wrote it: tells whether the handler retargeted a branch (R66). -/
  taddrTrap : DWord
  tpc : BitVec 12
  tstat : DWord
  tvec : BitVec 12
  tscr : DWord
  /-- RSR states (R92, R131) and how often `FPCTL` has been written. -/
  laneRsr : Vector Word 16
  clusterRsr : Vector Word 256
  fpEpoch : Nat
  deriving DecidableEq, Repr

/-- The pool (R151) with its buffers (R137): listed bytes, the generation of each bank's contents, placed words (R165)
and unchecked words (R164). -/
structure Pool where
  cells : List Host.Cell
  bankGen : Vector Nat 64
  placed : List Nat
  unchecked : List Nat
  bufs : Vector Buffer 32
  deriving DecidableEq, Repr

/-- The memory queues of the core and what is in flight (R82, R158, R199, R210, R16, R123, R236). -/
structure MemQ where
  seq : Nat
  lastFence : Nat
  loads : List LoadEntry
  stores : List StoreEntry
  results : List ResultPend
  region : Option OpenRegion
  status : List StatusReq
  gpops : List (BitVec 5)
  redIndex : Nat
  l1 : List L1Line
  /-- The scope records of the core at its layer cache when `PARTW.CA` = 0, oldest first: line, class, scope (R236). -/
  records : List (Nat × BitVec 2 × BitVec 3)
  /-- `REDO` contributions of this core the home has not applied (R208): line, group, place in program order. -/
  redoOut : List (Nat × Byte × Nat)
  deriving DecidableEq, Repr

/-- The token file, the command queues and the streams (R15, R30, R114-R121). -/
structure Engines where
  slots : Vector TokenSlot 32
  queues : Vector CmdQueue 6
  exec : Vector (Option Running) 6
  cmdId : Nat
  streams : Vector (Option StreamRun) 4
  sinks : List SinkToken
  faults : List EngineFault
  lateCopies : List (BitVec 5)
  /-- Engines stopped for pre-emption restore: from a resume until the engine restarts (R30, R329). -/
  restoring : BitVec 6
  deriving DecidableEq, Repr

/-- The grid, its configuration banks and its three data queues (R122-R131, R165, R170). -/
structure Grid where
  banks : Vector (List Host.Cell) 4
  activeBank : BitVec 2
  shadowBank : BitVec 2
  run : Option GridRun
  gmma : Option GmmaRun
  /-- Whether the grid command in execution has been admitted (R376). -/
  admitted : Bool
  readyAt : Option DWord
  feed : List TokenData
  outq : List TokenData
  pq : List Bool
  feedGrants : Nat
  outGrants : Nat
  pqGrants : Nat
  /-- The core runs as an 8x7 grid without this column (R385). -/
  degraded : Option (BitVec 3)
  deriving DecidableEq, Repr

/-- A beat on a circuit (R343, R344): data or check with its window. -/
structure Beat where
  circuit : Nat
  window : Nat
  ofs : Nat
  check : Option DWord
  len : Nat
  data : List Byte
  deriving DecidableEq, Repr

/-- What the holding buffer of a debug halt holds (R331): a packet, or a beat of a circuit. -/
inductive Held where
  | packet (id : Nat)
  | beat (b : Beat)
  deriving DecidableEq, Repr

/-- The core's port: labels, circuit handles, meters, the holding buffer of a debug halt (R144, R273, R346, R331). -/
structure Port where
  recvLabels : List (BitVec 16 × BitVec 5)
  sendLabels : List (BitVec 16 × Word)
  handles : Vector Handle 8
  meters : List Meter
  /-- The holding buffer of a debug halt, in the order of arrival (R331). -/
  holding : List Held
  deriving DecidableEq, Repr

/-- The modelled core. -/
structure Core where
  /-- The physical core, its ordinal and the launch it runs (R26). -/
  id : CoreId
  ord : BitVec 24
  launch : Nat
  hall : BitVec 12
  sec : Bool
  /-- The level-0 page table of the launch in this package (R323). -/
  ptroot : Nat
  regs : Regs
  seq : Seq
  sys : SysRegs
  pool : Pool
  mq : MemQ
  eng : Engines
  grid : Grid
  port : Port
  deriving DecidableEq, Repr

/-! ## Homes, caches and translation (R225-R236, R290-R299) -/

/-- Kind of a way of a home line (R291). -/
inductive WayKind where
  | shadow | committed | prior
  deriving DecidableEq, Repr

/-- A version of a line beyond the committed copy (R291): the hallmark and ghost bit of a shadow or committed way, the
stamp a prior's value was committed with and the stamp at which it was replaced, and its poisoned doublewords (R389). -/
structure Way where
  kind : WayKind
  hall : BitVec 12
  ghost : Bool
  stamp : Word
  replaced : Word
  data : LineData
  poison : BitVec 16
  deriving DecidableEq, Repr

/-- What an irrevocable launch has written of a line directly: it reads these bytes from then on (R295, R299). -/
structure OwnBytes where
  launch : Nat
  data : LineData
  mask : LineMask
  deriving DecidableEq, Repr

/-- What a home keeps of a line beside its committed bytes (R226, R291, R293, R297, R389). -/
structure LineRec where
  line : Nat
  stamp : Word
  /-- Who committed C: launch and hallmark, 0 for the host or none (R296, R249). -/
  committer : Nat × BitVec 12
  /-- Direct writes of irrevocable launches (R295, R299). -/
  own : List OwnBytes
  /-- The window through which a launch last wrote the line (R228, R309). -/
  via : Nat
  ways : List Way
  spilled : List Way
  readers : List (BitVec 12)
  overflow : Bool
  /-- Readers that found the list full: their first read has reached the home (R297). -/
  beyond : List (BitVec 12)
  /-- Home SRAM has evicted the line: every version stands in the spill area until the next access (R293). -/
  evicted : Bool
  sharers : BitVec 64
  hostBit : Bool
  /-- A back-invalidate snoop has been sent and not answered (R249). -/
  backInv : Bool
  poison : BitVec 16
  deriving DecidableEq, Repr

/-- Tag of a layer-cache line (R227). -/
inductive LayerTag where
  | committed (stamp : Word)
  | hall (h : BitVec 12)
  | remoteEscape
  | remoteHall (h : BitVec 12)
  deriving DecidableEq, Repr

/-- Bytes of a line that a core has stored and that have not reached the home yet. -/
structure Unpushed where
  core : CoreId
  launch : Nat
  mask : LineMask
  deriving DecidableEq, Repr

/-- A line of a layer cache; `layer` is package, chiplet, quadrant from the top. -/
structure LayerLine where
  layer : BitVec 15
  line : Nat
  tag : LayerTag
  ghost : Bool
  data : LineData
  valid : LineMask
  unpushed : List Unpushed
  deriving DecidableEq, Repr

/-- A line of a hub line buffer (R235), oldest first in the list. -/
structure HubLine where
  hub : BitVec 13
  line : Nat
  launch : Nat
  sec : Bool
  cls : BitVec 2
  data : LineData
  unpushed : List Unpushed
  deriving DecidableEq, Repr

/-- A TLB entry (R233): launch, page base and size in bits, physical base, writable. -/
structure TlbEntry where
  launch : Nat
  base : Nat
  bits : Nat
  pa : Nat
  writable : Bool
  deriving DecidableEq, Repr

/-- States of a hallmark (R289); a free hallmark has no entry. -/
inductive HallState where
  | running | irrevocable | ready | committing | committed | doomed | aborted | folding | discarding
  deriving DecidableEq, Repr

/-- An entry of a package's hallmark table (R288, R289). -/
structure HallEntry where
  pkg : BitVec 7
  hall : BitVec 12
  state : HallState
  launch : Nat
  age : DWord
  start : Word
  commit : Word
  deriving DecidableEq, Repr

/-- The counters of a package (R288). -/
structure PkgRec where
  pkg : BitVec 7
  startSeq : DWord
  stamp : Word
  lastHall : BitVec 12
  /-- When a core of the package was last bound (R354). -/
  lastBound : DWord
  deriving DecidableEq, Repr

/-- What another core asks of a home (R200, R291): a read, or one of the store-queue operations. -/
inductive HomeOp where
  | read (size : Nat)
  | write (op : StoreOp)
  deriving DecidableEq, Repr

/-- A request at a home, with the class of its region (R294: 0 shadowed, 1 escape, 2 read-checked, 3 remote-invalidate). -/
structure HomeReq where
  core : CoreId
  launch : Nat
  sec : Bool
  ord : BitVec 24
  cls : BitVec 2
  pa : Nat
  op : HomeOp
  /-- A `REDO` refused at the holding buffer: when (R208). -/
  refusedAt : Option DWord
  deriving DecidableEq, Repr

/-- A contribution held by an ordered round (R208): round, rank, operation. -/
structure HeldRedo where
  round : Nat
  rank : Nat
  op : RedOp
  data : LineData
  mask : LineMask
  /-- The ordinal that contributed. -/
  ord : BitVec 24
  deriving DecidableEq, Repr

/-- The round a home keeps for a line and a group of a launch (R208). -/
structure RedoRound where
  launch : Nat
  sec : Bool
  line : Nat
  group : Byte
  round : Nat
  next : Nat
  held : List HeldRedo
  deriving DecidableEq, Repr

/-- A reduction of a paired launch held until it is ready (R207). -/
structure HeldRed where
  launch : Nat
  sec : Bool
  ord : BitVec 24
  index : Nat
  line : Nat
  /-- The class of its region: a read-checked line records the reader when it is applied (R201). -/
  cls : BitVec 2
  op : RedOp
  data : LineData
  mask : LineMask
  deriving DecidableEq, Repr

/-! ## Launches, graphs, slots and the host (R312-R332) -/

/-- A region of a launch (R317). -/
structure Region where
  va : Nat
  size : Nat
  cls : BitVec 2
  place : BitVec 2
  host : Bool
  pkg : Option (BitVec 7)
  name : Word
  deriving DecidableEq, Repr

/-- Where a launch came from: entry of a launch queue, or node of a task graph. -/
inductive LaunchSrc where
  | queue (q : BitVec 6) (entry : Nat)
  | node (graph : Nat) (node : Nat)
  deriving DecidableEq, Repr

/-- How far a launch has come. -/
inductive LaunchPhase where
  | waiting | bound | ready | committing | committed | doomed | aborted
  deriving DecidableEq, Repr

/-- State of one core of a launch. -/
inductive MemberState where
  | assigned | loaded | running | exited | saved | stopped | done
  deriving DecidableEq, Repr

/-- One core of a launch: copy of a pair, ordinal, the core it is or was bound to, state, and the address of the save area that holds
it, 0 for none (R323, R330). -/
structure Member where
  sec : Bool
  ord : BitVec 24
  place : CoreId
  state : MemberState
  area : Nat
  deriving DecidableEq, Repr

/-- What the abort record will hold (R332). -/
structure AbortInfo where
  cause : Byte
  torn : Bool
  applied : Bool
  code : BitVec 16
  winner : BitVec 12
  ord : BitVec 24
  tcause : Byte
  addr : DWord
  time : DWord
  /-- The launch that won, 0 for none: not part of the record; a loop holds for it (R283). -/
  winnerLaunch : Nat
  deriving DecidableEq, Repr

/-- A launch: its record (R316-R318) and what the scheduler keeps of it. -/
structure LaunchRec where
  id : Nat
  src : LaunchSrc
  lrec : Nat
  image : Nat
  args : Nat
  cores : Nat
  home : BitVec 7
  sfm : Bool
  pol : Bool
  pair : BitVec 2
  dss : BitVec 3
  dbg : Bool
  narrow : Bool
  deg7 : Bool
  sems : Nat
  semchip : BitVec 6
  pairwait : Nat
  regions : List Region
  groups : List (List (Nat × Nat))
  span : List (BitVec 7 × Nat)
  partw0 : DWord
  fpctl0 : DWord
  prio : BitVec 3
  level : BitVec 3
  since : DWord
  phase : LaunchPhase
  halls : List (BitVec 7 × BitVec 12)
  roots : List (BitVec 7 × Nat)
  members : List Member
  /-- When the last bind record of a package finished loading (R375). -/
  loadedAt : List (BitVec 7 × DWord)
  touched : List (BitVec 7 × BitVec 128)
  podMask : Byte
  hallMask : BitVec 128
  abort : Option AbortInfo
  /-- Packages whose hallmark has been prepared, the home's decision, packages that have flipped (R301, R307). -/
  prepared : List (BitVec 7)
  /-- When each package's hallmark was prepared (R369). -/
  preparedAt : List (BitVec 7 × DWord)
  decided : Bool
  /-- The package at whose ring position the home has recorded its decision (R369). -/
  witness : Option (BitVec 7)
  flipped : List (BitVec 7)
  readyAt : DWord
  /-- Its place among the launches that became ready (R302). -/
  readyNo : Nat
  /-- It has become irrevocable (R299). -/
  irrev : Bool
  /-- Which copy of a pair is ready, and since when the other is waited for (R310). -/
  readyCopies : List Bool
  pairSince : DWord
  pairEqual : Bool
  /-- A debug halt of it is on, and how many there have been (R265, R331). -/
  halted : Bool
  haltCount : BitVec 16
  deriving DecidableEq, Repr

/-- Status of a graph node (R320). -/
structure NodeState where
  status : BitVec 4
  /-- Of a loop, the iterations that it has opened; of the body of a loop, also the one that it has taken up. -/
  iterations : Nat
  /-- The iteration of the loop around it that it has taken up (R282): apart from `iterations`, since a loop may be a loop's body. -/
  taken : Nat
  /-- The launch that runs it. -/
  launch : Option Nat
  /-- The launch that the next loop evaluation waits for (R283). -/
  hold : Option Nat
  deriving DecidableEq, Repr

/-- A task graph in execution (R320, R321). -/
structure GraphRec where
  id : Nat
  queue : BitVec 6
  entry : Nat
  header : Nat
  nodes : List NodeState
  /-- It has not ended; a node of it has acted, so that its entry holds ST 3 (R312). -/
  running : Bool
  started : Bool
  /-- Objects as the scheduler placed them: VA and size. -/
  objects : List Region
  /-- The physical pages of each object that has pages of its own (R280). -/
  pages : List (List Nat)
  /-- Kernel nodes that have failed and not been run again, in the order in which they failed (R332). -/
  failed : List Nat
  deriving DecidableEq, Repr

/-- State of a slot (R323). -/
inductive SlotState where
  | free | loading | running | saving | saved | halted | done
  deriving DecidableEq, Repr

/-- The bind record of a slot (R323). `op` is the order not yet acted on; `removed` marks a failed core (R385). -/
structure SlotRec where
  id : CoreId
  op : BitVec 4
  hall : BitVec 12
  ord : BitVec 24
  sec : Bool
  launch : Nat
  image : Nat
  args : Nat
  ptroot : Nat
  save : Nat
  grps : Word
  gv : BitVec 4
  lrec : Nat
  state : SlotState
  removed : Bool
  degraded : Option (BitVec 3)
  deriving DecidableEq, Repr

/-- A filled save area (R330): launch, copy, ordinal, physical address, and the core. What the image holds in its load queue and among
its results is what the hub still owes the core, and what its store queue holds is what the hub still has to perform for it (R329).
(DESIGN CHOICE, log entry 34.) -/
structure SaveArea where
  launch : Nat
  sec : Bool
  ord : BitVec 24
  addr : Nat
  exited : Bool
  image : Core
  deriving DecidableEq, Repr

/-- A launch queue's registers (R312); `tail` is the last announced, `announced` the entries announced and not yet read. -/
structure HostQueue where
  base : DWord
  cfg : DWord
  head : BitVec 12
  tail : BitVec 16
  announced : Nat
  deriving DecidableEq, Repr

/-- A page request in the event ring (R313, R327). -/
structure PageReq where
  slot : BitVec 10
  launch : Nat
  sec : Bool
  ord : BitVec 24
  va : Nat
  write : Bool
  queue : Nat
  deriving DecidableEq, Repr

/-- The device registers of the package (R313). -/
structure HostRegs where
  queues : Vector HostQueue 64
  qerr : DWord
  evqbase : DWord
  evqcfg : DWord
  evqtail : BitVec 10
  evqhead : BitVec 10
  pgpa : DWord
  keyValid : Byte
  lock : Bool
  keys : Vector (BitVec 512) 8
  pageReqs : List PageReq
  /-- MSI-X vectors raised so far, youngest last. -/
  msix : List (BitVec 11)
  /-- Stores to host memory whose CXL write completion has not arrived (R248): package, CXL port (R372), memory sequence number. -/
  cxl : List (BitVec 7 × BitVec 2 × Nat)
  /-- What the host's last read has returned: CXL port, address, bytes, whether they came as poison (R249, R313, R372). -/
  received : Option (BitVec 2 × Nat × List Byte × Bool)
  deriving DecidableEq, Repr

/-! ## Fabric (R335-R356) -/

/-- A router of a package: row 7 bits, column 8 bits (R341). -/
abbrev Router := BitVec 15

/-- Output or input of a router, crosspoint: 0 local, 1 north, 2 east, 3 south, 4 west (R343, R349). -/
abbrev Dir := BitVec 3

/-- What a packet carries beyond its header (R341). -/
structure Packet where
  id : Nat
  pkg : BitVec 7
  kind : BitVec 4
  cls : BitVec 2
  dest : Router
  src : Router
  label : BitVec 16
  ofs : Word
  aux : Word
  data : List Byte
  /-- Sender core, the core it is sent to, the ordinal of the launch that it is for, the sending command. -/
  sender : CoreId
  receiver : CoreId
  launch : Nat
  sec : Bool
  ord : BitVec 24
  cmd : Nat
  /-- Flits that have left the port, flits that have been ejected; the packet has arrived when all have. -/
  sent : Nat
  ejected : Nat
  /-- It has been placed or refused, and its sender has not been told yet. -/
  answered : Bool
  retryAt : DWord
  /-- Outcome an acknowledgement reports: 0 placed, 1 refused, 2 error. -/
  result : BitVec 2
  deriving DecidableEq, Repr

/-- A flit in a router's input buffer (R340): the packet and which of its flits it is; its sideband: the sequence number it had on
the last link, and its CRC-32C (R339). -/
structure Flit where
  pkt : Nat
  idx : Nat
  router : Router
  input : Dir
  cls : BitVec 2
  seq : Byte
  crc : Word
  deriving DecidableEq, Repr

/-- One direction of a packet-plane link (R339, R342): the next sequence number, the last 64 flits sent, newest first, those that the
receiving end has not accepted yet, oldest first, and the number that it expects. -/
structure LinkDir where
  next : Byte
  replay : List Flit
  wire : List Flit
  expect : Byte
  deriving DecidableEq, Repr

/-- Power state of a link (R354). -/
inductive LinkPower where
  | full | narrow | sleep
  deriving DecidableEq, Repr

/-- A flit in a frame (R362): the request or answer it carries, and whether it was injected at this station, as against forwarded (R363). -/
structure RingFlit where
  key : Nat
  own : Bool
  deriving DecidableEq, Repr

/-- A link that is not in its default state (full, trained, idle): mesh links and ring links. -/
structure LinkRec where
  link : Nat
  power : LinkPower
  failed : Bool
  /-- Runs on fewer lanes after a retrain (R353). -/
  narrowed : Bool
  detoured : Bool
  fails : Nat
  lastTraffic : DWord
  /-- Ring links, each plane: frame counter, key updates so far, the frame at which the key began and whether the old key is still kept,
  whether the session is up, the flits in frames not yet released, oldest first, since when the open frame is open, and how many flits
  the frame holds that has closed before it filled, 0 for none (R362, R371). -/
  frame : DWord
  keyGen : Nat
  keyStart : Nat
  oldKey : Bool
  session : Bool
  openFrame : List RingFlit
  openAt : DWord
  closed : Nat
  /-- Mesh links of the packet plane: east or south, and west or north (R342). -/
  fwd : LinkDir
  back : LinkDir
  /-- Ring links: the last 8 frames sent, newest first (R362); on the control plane the next slot number (R364). -/
  frames : List (List RingFlit)
  slot : Nat
  deriving DecidableEq, Repr

/-- A window at the receiver: start, words placed (pool addresses), bytes seen, refused (R345). -/
structure RxWindow where
  circuit : Nat
  label : BitVec 16
  start : Nat
  placed : List Nat
  data : List (Nat × Byte)
  /-- It counts among the checks outstanding of its buffer: from its first word on, until it has passed or is given up (R336, R345). -/
  counted : Bool
  refused : Bool
  /-- It reaches past the buffer, or met a placed word: its sender ends with ERR. -/
  range : Bool
  passed : Bool
  deriving DecidableEq, Repr

/-- A window the sender has not had acknowledged (R345). -/
structure TxWindow where
  /-- The command it is of. -/
  cmd : Nat
  start : Nat
  len : Nat
  src : Nat
  fails : Nat
  retryAt : Option DWord
  deriving DecidableEq, Repr

/-- A reserved circuit (R343): its chain of outputs, ends, handle or meter slot, windows. -/
structure Circuit where
  id : Nat
  pkg : BitVec 7
  path : List (Router × Dir)
  sender : CoreId
  receiver : CoreId
  slot : BitVec 3
  label : BitVec 16
  promoted : Bool
  /-- The receiver has placed the clasp of a promoted flow, where the clasp ended, and how many bytes of the circuit's data the
  receiver has taken since (R336). -/
  armed : Bool
  claspEnd : Nat
  taken : Nat
  tx : List TxWindow
  releasing : Bool
  deriving DecidableEq, Repr

/-- Where a probe stands (R348). -/
inductive ProbeState where
  | launch | advance | confirm (left : Nat) | giveUp
  deriving DecidableEq, Repr

/-- A probe (R348). -/
structure Probe where
  id : Nat
  pkg : BitVec 7
  pos : Router
  input : Dir
  dest : Router
  yFirst : Bool
  b : Nat
  reserved : List (Router × Dir)
  state : ProbeState
  sender : CoreId
  receiver : CoreId
  /-- The receiving ordinal (R274). -/
  ord : BitVec 24
  slot : BitVec 3
  label : BitVec 16
  promoted : Bool
  lease : Nat
  /-- Slot state to restore when a promotion gives up. -/
  before : BitVec 3
  deriving DecidableEq, Repr

/-- Copy data or a read that reaches the pool of another core (R141). -/
structure RemotePool where
  write : Bool
  launch : Nat
  sec : Bool
  /-- The core that asks and its command; the ordinal asked. -/
  sender : CoreId
  cmd : Nat
  ord : BitVec 24
  addr : Nat
  data : List Byte
  len : Nat
  retryAt : DWord
  /-- The packet that carries it within a package (R340). -/
  pkt : Nat
  /-- The run of destination bytes that this access is part of, from `lo` up to `hi`, the start and width of its row, and the start of
  the row before it: R141 looks at the buffers that the run covers. -/
  lo : Nat
  hi : Nat
  row : Nat
  width : Nat
  before : Option Nat
  /-- A `SEND` to another package: its label; `addr` is then the flow offset, `lo` and `hi` those of the whole `SEND`. -/
  label : Option (BitVec 16)
  deriving DecidableEq, Repr

/-! ## Rings (R360-R371) -/

/-- What a ring flit asks or answers (R361). -/
inductive RingBody where
  /-- A line, asked for by a read of this many bytes. -/
  | lineRead (seq : Nat) (size : Nat)
  | store (op : StoreOp) (scope : BitVec 3) (seq : Nat)
  | copyData (r : RemotePool)
  | prepare (launch : Nat)
  | flip (launch : Nat)
  | semAdd (n : Byte) (v : Word) (seq : Nat)
  | barArrive (group : Byte)
  deriving DecidableEq, Repr

/-- A request that its source station keeps until it is answered (R365). -/
structure RingReq where
  src : BitVec 7
  dst : BitVec 7
  seq : BitVec 16
  core : CoreId
  ord : BitVec 24
  launch : Nat
  sec : Bool
  cls : BitVec 2
  pa : Nat
  body : RingBody
  /-- Direction on the ring it is on, times refused at the station it is for, when it was sent and when to send it again, whether it has
  been sent, whether a copy has come to its target and has not been looked at (R363, R365, R368). -/
  ccw : Bool
  refused : Nat
  sentAt : DWord
  resendAt : Option DWord
  sent : Bool
  arrived : Bool
  /-- A line read whose answer must not be cached: a later acquire, atomic or store has made it stale (R199, R222). -/
  stale : Bool
  /-- It carries bytes that had performed at a narrower scope before they left: an abort does not drop them where they are of the
  escape class (R196, R306). -/
  performed : Bool
  deriving DecidableEq, Repr

/-- An answer on its way to the source (R361): a NACK, or a result: up to 16 bytes, or the data of a line or of a pool. -/
structure RingResp where
  src : BitVec 7
  dst : BitVec 7
  seq : BitVec 16
  nack : Bool
  result : List Byte
  /-- Whether it travels on the control plane, and whether it has come to the source (R361, R362). -/
  control : Bool
  arrived : Bool
  deriving DecidableEq, Repr

/-- An entry of a duplicate filter (R366): done with the saved result, or in progress with none. -/
structure FilterEntry where
  seq : BitVec 16
  result : Option (List Byte)
  deriving DecidableEq, Repr

/-- The filter a target keeps for a source, and the source's next sequence number (R366). -/
structure RingPair where
  src : BitVec 7
  dst : BitVec 7
  nextSeq : BitVec 16
  base : BitVec 16
  entries : List FilterEntry
  deriving DecidableEq, Repr

/-! ## Power (R375-R383) -/

/-- A power region (R381-R383) with the current window of R376. -/
structure PowerRegion where
  limit : BitVec 16
  step : BitVec 2
  str : Bool
  cap : Bool
  nsub : Bool
  ndrp : BitVec 16
  /-- Window number and charge admitted in it, in units of 0.125 A. -/
  window : DWord
  charged : Nat
  /-- Commands of other cores that are ready: when, core, charge (R376). -/
  ready : List (DWord × CoreId × Nat)
  /-- Times of alarms not yet spent; expiry of step lowerings; last alarm; when supply came back to 95 %. -/
  alarms : List DWord
  holds : List DWord
  lastAlarm : Option DWord
  recovered : Option DWord
  /-- A decided change of step with the window it was decided in, the step that heat allows, whether a reading has reached 95 °C
  and not yet fallen below 90 °C, the last change that heat made, and whether the region is powered off. -/
  nextStep : Option (BitVec 2 × DWord)
  heatStep : BitVec 2
  lastHeat : Option DWord
  hot : Bool
  off : Bool
  deriving DecidableEq, Repr

/-! ## The whole machine -/

/-- Caches and homes of the system. -/
structure Homes where
  /-- Committed bytes by physical address, in canonical form (`Memory.wf`); unlisted bytes read as
  `Config.memDefault`. -/
  mem : List Host.Cell
  lines : List LineRec
  layers : List LayerLine
  hubs : List HubLine
  tlb : List TlbEntry
  layerTlb : List TlbEntry
  queue : List HomeReq
  rounds : List RedoRound
  heldReds : List HeldRed
  deriving DecidableEq, Repr

/-- The schedulers' and the host's side of the system. -/
structure Sched where
  halls : List HallEntry
  pkgs : List PkgRec
  launches : List LaunchRec
  nextLaunch : Nat
  /-- How many launches have become ready (R302). -/
  readyCount : Nat
  graphs : List GraphRec
  slots : List SlotRec
  saves : List SaveArea
  /-- Semaphores that are not 0: launch, copy of a pair, number, value (R213). -/
  sems : List (Nat × Bool × Byte × Word)
  /-- Adds on their way to a hub: of slots bound to semaphores, and of other cores (R215). -/
  semAdds : List (Nat × Bool × Byte × Word)
  /-- Arrivals at barriers: launch, copy, group, ordinal, count (R217). -/
  bars : List (Nat × Bool × Byte × BitVec 24 × Nat)
  /-- For each level, the source of launches whose turn is next (R315). -/
  turns : Vector Nat 8
  /-- Physical pages of 64 KiB that the management core has given out, each with the launch it is for, 0 for one that stays (R280). -/
  pages : List (Nat × Nat)
  host : HostRegs
  deriving DecidableEq, Repr

/-- Mesh, circuits and rings. -/
structure Net where
  packets : List Packet
  flits : List Flit
  nextPkt : Nat
  links : List LinkRec
  /-- Links on their way back to full width (R354). -/
  waking : List Nat
  circuits : List Circuit
  probes : List Probe
  beats : List Beat
  rx : List RxWindow
  /-- Inputs that last won an output (R349). -/
  won : List (BitVec 7 × Router × Dir × Dir)
  /-- When each home die last carried home traffic: package, die, time (R354). -/
  homeSeen : List (BitVec 7 × BitVec 7 × DWord)
  /-- When a launch whose reach held a package last ended (R360). -/
  reachSeen : List (BitVec 7 × DWord)
  remote : List RemotePool
  /-- Acknowledgements on their way to senders: window acks and NAKs (KIND 6, 7), releases (KIND 8) are packets. -/
  ringReqs : List RingReq
  ringResps : List RingResp
  ringPairs : List RingPair
  /-- Packages whose ring station is lost and joined over (R369). -/
  lostStations : List (BitVec 7)
  deriving DecidableEq, Repr

/-- The build and health of the system: packages present, boot step of the modelled package, dies lost or fenced, missed
heartbeats in a row with the time of the last. -/
structure Health where
  bootStep : Nat
  packages : BitVec 128
  lostDies : List (BitVec 7 × BitVec 7)
  lostPkgs : List (BitVec 7)
  heartbeats : List (BitVec 7 × BitVec 7 × Nat × DWord)
  /-- Link errors reported to the management core: the router or station that dropped a header (R341). -/
  linkErrors : List Nat
  /-- Links reported to the management core as failed (R353). -/
  failedLinks : List Nat
  poolErrors : List (CoreId × DWord)
  deriving DecidableEq, Repr

/-- The state of the machine. -/
structure State where
  core : Core
  homes : Homes
  sched : Sched
  net : Net
  /-- The power regions of the modelled core's package, and those of packages it has been in (R376, R381). -/
  power : Vector PowerRegion 16
  otherPower : List (BitVec 7 × Vector PowerRegion 16)
  health : Health
  /-- The model's clock in ns; the region counter of each field is ahead of it by a free offset (R3, log entry 6). -/
  now : DWord
  /-- Steps taken; the argument of `Config.elapsed`. -/
  ticks : Nat
  /-- The model's own counter for free values. -/
  fresh : Nat
  /-- The model's own: the moves of the other agents that are due next, in order. -/
  agenda : List Instr
  deriving DecidableEq, Repr

/-! ## Reset (R11, R288, R312, R313, R381, R388) -/

/-- A vector register of zeros. -/
def VReg.zero : VReg := Vector.replicate 16 0

/-- Registers at launch start (R11), with `s1` holding `args`. (DESIGN CHOICE, log entry 15.) -/
def Regs.start (args : DWord) : Regs where
  s := (Vector.replicate 32 0).set 1 args
  v := Vector.replicate 32 VReg.zero
  p := 1
  q := (Vector.replicate 8 0).set 0 0xFFFF
  sEmpty := 0
  vEmpty := 0
  stack := Vector.replicate 16 0xFFFF
  depth := 0
  latent := []

/-- A target register at launch start (R11). -/
def TargetReg.idle : TargetReg := ⟨0, .idle⟩

/-- An inactive loop level. -/
def LoopLevel.off : LoopLevel := ⟨0, 0, 0, false, 0⟩

/-- The sequencer before a launch is bound. (DESIGN CHOICE, log entry 15.) (DESIGN CHOICE, log entry 54.) -/
def Seq.start : Seq where
  run := .unbound
  mode := .program
  pc := 0
  pcOver := false
  wait := none
  imem := Vector.replicate 4096 0
  badWords := []
  ctrl := Vector.replicate 2048 0
  macroRun := false
  ovb := 3584
  overlays := []
  curOverlay := 0
  tb := Vector.replicate 8 TargetReg.idle
  tbSaved := Vector.replicate 8 TargetReg.idle
  tbTrap := none
  loops := Vector.replicate 4 LoopLevel.off
  stepInst := false
  stepGrid := false
  stepFired := false
  gridStepFired := false
  handlerFault := none
  sleepCap := none
  semCap := none
  barWait := []
  savePending := false
  haltRequested := false
  yielded := false

/-- System registers at launch start with the `PARTW`, `FPCTL` and `TVEC` of the launch (R20-R32, R92, R325). The RSR
seeds of R92 and R131 are set by `Ops.seedRsr` when `FPCTL` is written; a seed of 0 stands here.
(DESIGN CHOICE, log entry 15.) -/
def SysRegs.start (partw fpctl : DWord) (tvec : BitVec 12) : SysRegs where
  partw := partw
  fpctl := fpctl
  fpflag := 0
  tdmaskl := 0
  tdmaskh := 0
  mstep := 0
  srp := Vector.replicate 4 0
  tcause := 0
  taddr := 0
  taddrTrap := 0
  tpc := 0
  tstat := 0
  tvec := tvec
  tscr := 0
  laneRsr := Vector.replicate 16 0
  clusterRsr := Vector.replicate 256 0
  fpEpoch := 0

/-- An undeclared buffer. -/
def Buffer.none : Buffer := ⟨false, 0, 0, .empty, false, 0, 0⟩

/-- The pool before anything is placed in it. (DESIGN CHOICE, log entry 11.) -/
def Pool.start : Pool where
  cells := []
  bankGen := Vector.replicate 64 0
  placed := []
  unchecked := []
  bufs := Vector.replicate 32 Buffer.none

/-- Empty memory queues. -/
def MemQ.start : MemQ where
  seq := 1
  lastFence := 0
  loads := []
  stores := []
  results := []
  region := none
  status := []
  gpops := []
  redIndex := 0
  l1 := []
  records := []
  redoOut := []

/-- A token slot at launch start (R11). -/
def TokenSlot.start : TokenSlot := ⟨0, 0, [], 0, false, 0, false, false, none, false⟩

/-- An empty command queue. -/
def CmdQueue.start : CmdQueue := ⟨Vector.replicate 16 none, 0, 0⟩

/-- Idle engines. (DESIGN CHOICE, log entry 15.) -/
def Engines.start : Engines where
  slots := Vector.replicate 32 TokenSlot.start
  queues := Vector.replicate 6 CmdQueue.start
  exec := Vector.replicate 6 none
  cmdId := 1
  streams := Vector.replicate 4 none
  sinks := []
  faults := []
  lateCopies := []
  restoring := 0

/-- The grid at launch start (R122): banks of zeros, active 0, shadow 1. (DESIGN CHOICE, log entry 15.) -/
def Grid.start : Grid where
  banks := Vector.replicate 4 []
  activeBank := 0
  shadowBank := 1
  run := none
  gmma := none
  admitted := false
  readyAt := none
  feed := []
  outq := []
  pq := []
  feedGrants := 0
  outGrants := 0
  pqGrants := 0
  degraded := none

/-- A closed circuit handle (R273). -/
def Handle.closed : Handle := ⟨0, 0, 0, 0, 0, 0, 0, 0, 0⟩

/-- A port with no bindings. (DESIGN CHOICE, log entry 15.) -/
def Port.start : Port where
  recvLabels := []
  sendLabels := []
  handles := Vector.replicate 8 Handle.closed
  meters := []
  holding := []

/-- The modelled core with no launch bound: core 0 of package 0. -/
def Core.start : Core where
  id := 0
  ord := 0
  launch := 0
  hall := 0
  sec := false
  ptroot := 0
  regs := Regs.start 0
  seq := Seq.start
  sys := SysRegs.start Config.defaultPartw 0 3584
  pool := Pool.start
  mq := MemQ.start
  eng := Engines.start
  grid := Grid.start
  port := Port.start

/-- Device registers at reset (R313); a launch queue is all zero but AGE = 1,000 (R312). -/
def HostRegs.start : HostRegs where
  queues := Vector.replicate 64 ⟨0, 1000#64 <<< 7, 0, 0, 0⟩
  qerr := 0
  evqbase := 0
  evqcfg := 0
  evqtail := 0
  evqhead := 0
  pgpa := 0
  keyValid := 0
  lock := false
  keys := Vector.replicate 8 0
  pageReqs := []
  msix := []
  cxl := []
  received := none

/-- A power region at reset (R381): LIMIT 0x0400, every state bit 0. -/
def PowerRegion.start : PowerRegion where
  limit := 0x0400
  step := 0
  str := false
  cap := false
  nsub := false
  ndrp := 0
  window := 0
  charged := 0
  ready := []
  alarms := []
  holds := []
  lastAlarm := none
  recovered := none
  nextStep := none
  heatStep := 0
  lastHeat := none
  hot := false
  off := false

/-- The machine right after reset: no boot step done (R388), no launch bound, no memory written, every package of the
largest system present (DESIGN CHOICE, log entry 9). -/
def State.reset : State where
  core := Core.start
  homes := ⟨[], [], [], [], [], [], [], [], []⟩
  sched := ⟨[], [], [], 1, 0, [], [], [], [], [], [], Vector.replicate 8 0, [], HostRegs.start⟩
  net := ⟨[], [], 0, [], [], [], [], [], [], [], [], [], [], [], [], [], []⟩
  power := Vector.replicate 16 PowerRegion.start
  otherPower := []
  health := ⟨0, BitVec.allOnes 128, [], [], [], [], [], []⟩
  now := 0
  ticks := 0
  fresh := 0
  agenda := []

end Sys2Proof.Machine
end

