-- ==== Sys2Proof/Machine/Ops.lean ====
section
/-! DEFINITION. The operations every meaning is written with: reading and writing registers, waiting, retiring with the
end-of-loop test, and taking a trap and returning from one. -/

namespace Sys2Proof.Machine

/-- What a meaning answers. -/
abbrev Out := Host.Outcome State Fault Refusal

/-! ## Vectors -/

/-- Entry `i` of a vector as long as the index can count. -/
def vget {α : Type} {w : Nat} (v : Vector α (2 ^ w)) (i : BitVec w) : α := v[i.toNat]'i.isLt

/-- A vector with entry `i` replaced. -/
def vset {α : Type} {w : Nat} (v : Vector α (2 ^ w)) (i : BitVec w) (x : α) : Vector α (2 ^ w) :=
  v.set i.toNat x i.isLt

/-- Entry `i` of a vector of any length, or a default beyond its end. -/
def vgetD {α : Type} {n : Nat} (v : Vector α n) (i : Nat) (d : α) : α := (v[i]?).getD d

/-! ## Scalar, predicate, mask and vector registers (R11) -/

/-- `s[r]`; `s0` reads 0. -/
def readS (s : State) (r : BitVec 5) : DWord := if r = 0 then 0 else vget (w := 5) s.core.regs.s r

/-- `s[r] ← x`; a write to `s0` is discarded. -/
def writeS (r : BitVec 5) (x : DWord) (s : State) : State :=
  if r = 0 then s else { s with core.regs.s := vset (w := 5) s.core.regs.s r x }

/-- `v[r]`. -/
def readV (s : State) (r : BitVec 5) : VReg := vget (w := 5) s.core.regs.v r

/-- `v[r] ← x`. -/
def writeV (r : BitVec 5) (x : VReg) (s : State) : State :=
  { s with core.regs.v := vset (w := 5) s.core.regs.v r x }

/-- `p[r]`; `p0` reads true. -/
def readP (s : State) (r : BitVec 3) : Bool := r = 0 || s.core.regs.p.getLsbD r.toNat

/-- One bit of a bit vector replaced. -/
def setBit {n : Nat} (x : BitVec n) (i : Nat) (b : Bool) : BitVec n :=
  if b then x ||| BitVec.twoPow n i else x &&& ~~~ BitVec.twoPow n i

/-- `p[r] ← b`; a write to `p0` is discarded. -/
def writeP (r : BitVec 3) (b : Bool) (s : State) : State :=
  if r = 0 then s else { s with core.regs.p := setBit s.core.regs.p r.toNat b }

/-- `q[r]`; `q0` reads 0xFFFF. -/
def readQ (s : State) (r : BitVec 3) : BitVec 16 := if r = 0 then 0xFFFF else vget (w := 3) s.core.regs.q r

/-- `q[r] ← x`; a write to `q0` is discarded. -/
def writeQ (r : BitVec 3) (x : BitVec 16) (s : State) : State :=
  if r = 0 then s else { s with core.regs.q := vset (w := 3) s.core.regs.q r x }

/-- The current mask: the top of the mask stack, or 0xFFFF at depth 0 (R11, R89). -/
def topMask (s : State) : BitVec 16 :=
  if s.core.regs.depth = 0 then 0xFFFF else vgetD s.core.regs.stack (s.core.regs.depth.toNat - 1) 0xFFFF

/-- The parent of the current mask: the entry below it, or 0xFFFF at depth 1 (R94). -/
def parentMask (s : State) : BitVec 16 :=
  if s.core.regs.depth.toNat ≤ 1 then 0xFFFF else vgetD s.core.regs.stack (s.core.regs.depth.toNat - 2) 0xFFFF

/-- Empty bits (R16); `s0` is never empty. -/
def sIsEmpty (s : State) (r : BitVec 5) : Bool := r != 0 && s.core.regs.sEmpty.getLsbD r.toNat

def vIsEmpty (s : State) (r : BitVec 5) : Bool := s.core.regs.vEmpty.getLsbD r.toNat

def setSEmpty (r : BitVec 5) (b : Bool) (s : State) : State :=
  if r = 0 then s else { s with core.regs.sEmpty := setBit s.core.regs.sEmpty r.toNat b }

def setVEmpty (r : BitVec 5) (b : Bool) (s : State) : State :=
  { s with core.regs.vEmpty := setBit s.core.regs.vEmpty r.toNat b }

/-- Flags are ORed into `FPFLAG` (R24). -/
def raiseFlags (f : Flags) (s : State) : State := { s with core.sys.fpflag := s.core.sys.fpflag ||| f }

/-! ## Extension -/

/-- `Ext32` of R52: bits [31:0] sign-extended. -/
def ext32 (x : DWord) : DWord := (x.setWidth 32).signExtend 64

/-- A Bool as a doubleword. -/
def b64 (b : Bool) : DWord := if b then 1 else 0

/-- A Nat as a doubleword. -/
abbrev dw (n : Nat) : DWord := BitVec.ofNat 64 n

/-- Bits [lo+n-1 : lo] of a doubleword as a Nat. -/
def fieldN (x : DWord) (lo n : Nat) : Nat := (x >>> lo).toNat % 2 ^ n

/-- Bits [lo+n-1 : lo] of a doubleword. -/
def field (x : DWord) (lo n : Nat) : BitVec n := x.extractLsb' lo n

/-- A field of a doubleword replaced. -/
def setField {n : Nat} (x : DWord) (lo : Nat) (v : BitVec n) : DWord :=
  (x &&& ~~~ ((BitVec.allOnes n).setWidth 64 <<< lo)) ||| (v.setWidth 64 <<< lo)

/-! ## Waiting -/

/-- The instruction waits at issue: it has not started and issues again (R51, R155). -/
def waitOn (k : WaitKind) (s : State) : Out := .next { s with core.seq.wait := some k }

/-! ## Loops, macros and the program counter (R14, R69, R73) -/

/-- Loop level `i`. -/
def loopLevel (s : State) (i : BitVec 2) : LoopLevel := vget (w := 2) s.core.seq.loops i

/-- Whether a word address is the end word of an active loop level (R69). -/
def isEndWord (s : State) (pc : BitVec 12) : Bool := s.core.seq.loops.toList.any (fun l => l.active && l.stop == pc)

/-- The innermost active level that ends at `pc`, among the levels not yet tested: the one started last. -/
def innermost (ls : Vector LoopLevel 4) (pc : BitVec 12) (done : List Nat) : Option Nat :=
  (List.range 4).foldl (fun best i =>
    let l := vgetD ls i LoopLevel.off
    if l.active && l.stop == pc && !done.contains i then
      match best with
      | none => some i
      | some j => if (vgetD ls j LoopLevel.off).order < l.order then some i else best
    else best) none

/-- The end-of-body tests at `pc`, innermost first, each outer test only when the inner level has just exited (R69):
the levels afterwards, and where the sequencer goes when a level continues. -/
def endTests : Nat → Vector LoopLevel 4 → BitVec 12 → List Nat → Vector LoopLevel 4 × Option (BitVec 12)
  | 0, ls, _, _ => (ls, none)
  | n + 1, ls, pc, done =>
    match innermost ls pc done with
    | none => (ls, none)
    | some i =>
      let l := vgetD ls i LoopLevel.off
      if l.count.toNat ≤ 1 then
        endTests n (ls.setIfInBounds i { l with count := 0, active := false }) pc (i :: done)
      else (ls.setIfInBounds i { l with count := l.count - 1 }, some l.start)

/-- The sequencer continues at `pc`, or past word 4,095 (R14). -/
def goto (pc : Nat) (s : State) : State :=
  { s with core.seq.pc := BitVec.ofNat 12 pc, core.seq.pcOver := decide (4096 ≤ pc), core.seq.wait := none }

/-- The instruction at the program counter has retired as a word of the program: end-of-body tests, then the next word
(R69). -/
def nextWord (s : State) : State :=
  let pc := s.core.seq.pc
  match endTests 4 s.core.seq.loops pc [] with
  | (ls, some start) => goto start.toNat { s with core.seq.loops := ls }
  | (ls, none) => goto (pc.toNat + 1) { s with core.seq.loops := ls }

/-- Fields of `MSTEP` (R28). -/
def mstepStep (s : State) : Nat := fieldN s.core.sys.mstep 0 5
def mstepMac (s : State) : Nat := fieldN s.core.sys.mstep 5 6
def mstepAct (s : State) : Bool := s.core.sys.mstep.getLsbD 15

/-- `MSTEP` of a macro, a step and the ACT bit. -/
def mstepOf (act : Bool) (mac step : Nat) : DWord :=
  dw (step % 32) ||| dw (mac % 64) <<< 5 ||| (if act then 0x8000 else 0)

/-- Operation `step` of macro `mac` in the control store (R72). -/
def macroWord (s : State) (mac step : Nat) : Word := vgetD s.core.seq.ctrl (32 * mac + step) 0

/-- The macro goes on at `step`, or ends there: an all-zero word or step 32 ends it (R72). -/
def macroAt (mac step : Nat) (s : State) : State :=
  if 32 ≤ step ∨ macroWord s mac step = 0 then
    nextWord { s with core.sys.mstep := mstepOf false mac step, core.seq.macroRun := false }
  else { s with core.sys.mstep := mstepOf true mac step, core.seq.wait := none }

/-- An armed instruction step fires after one program instruction has retired (R262). -/
def countStep (s : State) : State :=
  if s.core.seq.stepInst && s.core.seq.mode == .program then { s with core.seq.stepFired := true } else s

/-- The instruction has retired: on to the next word, or to the next operation of the macro. -/
def retire (s : State) : State :=
  let s := countStep s
  if s.core.seq.macroRun then macroAt (mstepMac s) (mstepStep s + 1) s else nextWord s

/-- The instruction retires and the sequencer goes to `pc` instead; only outside macros. -/
def retireTo (pc : Nat) (s : State) : State := goto pc (countStep s)

/-! ## Launches: lookup and the decision to abort -/

/-- What stands for a launch record where none is bound. -/
def LaunchRec.none : LaunchRec where
  id := 0
  src := .queue 0 0
  lrec := 0
  image := 0
  args := 0
  cores := 1
  home := 0
  sfm := false
  pol := false
  pair := 0
  dss := 0
  dbg := false
  narrow := false
  deg7 := false
  sems := 0
  semchip := 0
  pairwait := 0
  regions := []
  groups := []
  span := []
  partw0 := 0
  fpctl0 := 0
  prio := 0
  level := 0
  since := 0
  phase := .bound
  halls := []
  roots := []
  members := []
  loadedAt := []
  touched := []
  podMask := 0
  hallMask := 0
  abort := Option.none
  prepared := []
  preparedAt := []
  decided := false
  witness := Option.none
  flipped := []
  readyAt := 0
  readyNo := 0
  irrev := false
  readyCopies := []
  pairSince := 0
  pairEqual := false
  halted := false
  haltCount := 0

/-- Launch `id`. -/
def launchOf (s : State) (id : Nat) : LaunchRec :=
  (s.sched.launches.find? (fun l => l.id == id)).getD LaunchRec.none

/-- The launch of the modelled core. -/
def ownLaunch (s : State) : LaunchRec := launchOf s s.core.launch

/-- A launch record changed. -/
def updLaunch (id : Nat) (f : LaunchRec → LaunchRec) (s : State) : State :=
  { s with sched.launches := s.sched.launches.map (fun l => if l.id = id then f l else l) }

/-- Hallmarks of a launch changed in every package. -/
def updHalls (id : Nat) (f : HallEntry → HallEntry) (s : State) : State :=
  { s with sched.halls := s.sched.halls.map (fun h => if h.launch = id then f h else h) }

/-- An abort record with a cause and nothing else (R332). -/
def AbortInfo.of (cause : Byte) : AbortInfo := ⟨cause, false, false, 0, 0, 0, 0, 0, 0, 0⟩

/-- Whether an abort may still be decided of a launch: not doomed, and neither committed nor ended (R289). -/
def abortable (l : LaunchRec) : Bool :=
  match l.phase with
  | .waiting | .bound | .ready | .committing => !l.decided
  | .committed | .doomed | .aborted => false

/-- How far the counter of a field is ahead of the model's clock: less than 2^38 ns, so that every difference of two fits the 40 bits
that are published of it (R253). (DESIGN CHOICE, log entry 6.) -/
def trueOffset (pkg : BitVec 7) (f : Nat) : Nat := Config.fieldOffset pkg.toNat f % 2 ^ 38

/-- The region counter of a field of a package (R3). -/
def fieldCounter (s : State) (pkg : BitVec 7) (f : Nat) : DWord := s.now + dw (trueOffset pkg f)

/-- An abort is decided: the hallmark is doomed in every package of the reach, and the abort record is fixed with the
home package's counter (R289, R305, R332). The first decision stands. (DEDUCED, log entry 19.) -/
def doom (id : Nat) (info : AbortInfo) (s : State) : State :=
  let l := launchOf s id
  if abortable l then
    updHalls id (fun h => { h with state := .doomed })
      (updLaunch id (fun l => { l with phase := .doomed, abort := some { info with torn := l.irrev, time := fieldCounter s l.home 0 } }) s)
  else s

/-! ## Traps (R324-R326) -/

/-- The code of a cause (R325). -/
def Cause.code : Cause → BitVec 8
  | .fetchRange => 0x01
  | .fetchHandlerArea => 0x02
  | .fetchError => 0x03
  | .illegal => 0x08
  | .privilege => 0x09
  | .emptySource => 0x0A
  | .address => 0x10
  | .alignment => 0x11
  | .page => 0x12
  | .access => 0x13
  | .pool => 0x14
  | .buffer => 0x15
  | .overlay => 0x16
  | .software => 0x18
  | .breakpoint => 0x19
  | .step => 0x1A
  | .arithmetic => 0x1B
  | .command => 0x20
  | .engine => 0x21
  | .lateCopy => 0x22
  | .deadlock => 0x23
  | .group => 0x24
  | .semaphore => 0x25

/-- Causes taken at a boundary, not by the instruction at `TPC` (R325). -/
def Cause.async : Cause → Bool
  | .step | .engine | .lateCopy => true
  | _ => false

/-- `TSTAT.CR`. -/
def crBit (s : State) : Bool := s.core.sys.tstat.getLsbD 7

/-- The word address a trap reports: the instruction or boundary, or the `ALR` of an open line region (R212). -/
def trapPc (s : State) : BitVec 12 :=
  match s.core.mq.region with
  | some r => r.pc
  | none => s.core.seq.pc

/-- The word at the program counter. -/
def wordAtPc (s : State) : Word := vget (w := 12) s.core.seq.imem s.core.seq.pc

/-! ## Macro operations (R73) -/

/-- A 5-bit field of a word. -/
def word5 (w : Word) (lo : Nat) : BitVec 5 := w.extractLsb' lo 5

/-- A 5-bit field of a word replaced. -/
def setWord5 (w : Word) (lo : Nat) (r : BitVec 5) : Word :=
  (w &&& ~~~ (0x1F#32 <<< lo)) ||| (r.setWidth 32 <<< lo)

/-- `s24` to `s27` read as s(N) to s(N+3). -/
def macroReg (n r : BitVec 5) : BitVec 5 := if 24 ≤ r.toNat ∧ r.toNat ≤ 27 then n + (r - 24) else r

/-- The lowest bits of the fields of an instruction word that name a scalar register: d at 20, a at 15, b at 10, an index, and the parameter
base of format E (R41, R73). -/
def scalarFields (w : Word) : List Nat :=
  let low := (w.bits 0 8).toNat
  match (w.bits 25 7).toNat with
  | 0x01 | 0x02 | 0x03 | 0x04 | 0x06 | 0x07 | 0x61 | 0x66 => [20, 15, 10]
  | 0x05 => if low < 8 then [20, 15, 10] else [20, 15]
  | 0x10 | 0x11 | 0x12 | 0x13 | 0x14 | 0x15 => [20, 15]
  | 0x16 | 0x20 | 0x22 | 0x62 | 0x63 => [15]
  | 0x17 => [20]
  | 0x18 | 0x19 | 0x1A => if w.getLsbD 11 then [20, 15, 6] else [20, 15]
  | 0x1B => if w.getLsbD 9 then [20, 15, 4] else [20, 15]
  | 0x1F => if low < 8 then [15, 10] else if low = 0x18 then [20] else if low = 0x19 then [15] else []
  | 0x21 => if w.bits 22 3 = 0 then [15] else []
  | 0x23 => if w.bits 12 3 = 0 then [20, 15] else if w.bits 12 3 = 1 then [20] else [15]
  | 0x24 => if low = 1 then [20] else if low = 2 then [15] else []
  | 0x48 => if low = 0x0A ∨ low = 0x0B ∨ low = 0x0D then [20] else if low = 0x08 ∨ low = 0x09 ∨ low = 0x0C then [15] else []
  | 0x4A => if w.getLsbD 12 then [15, 7] else [15]
  | 0x4B => if w.getLsbD 10 then [15, 5] else [15]
  | 0x50 | 0x51 | 0x52 | 0x53 | 0x58 | 0x59 | 0x5A | 0x5B | 0x6C | 0x6D => [0]
  | 0x54 => if low = 1 then [15] else if low = 6 then [20] else []
  | 0x5C => if low = 1 then [20] else []
  | 0x5D => if low = 0 then [15, 10] else if low = 3 then [20] else []
  | 0x64 => if low = 0 then [15] else []
  | 0x65 => match (w.bits 3 5).toNat with | 0 => [15] | 4 => [20, 15, 10] | 6 => [15, 10] | _ => []
  | 0x67 => if w.bits 8 12 = 4 then [20] else []
  | 0x69 => if low = 3 then [20, 15] else if low = 1 ∨ low = 4 then [15] else [20]
  | 0x6A => if low < 2 then [20, 15] else [15]
  | 0x6B => if low = 0 then [20, 15] else if low = 2 then [20] else []
  | _ => []

/-- The scalar-register fields of a word put through `macroReg`. -/
def substFields (n : BitVec 5) (w : Word) : Word :=
  (scalarFields w).foldl (fun w lo => setWord5 w lo (macroReg n (word5 w lo))) w

/-- The operation at which the sequencer stands: the word at the program counter, or in a macro its next operation with the parameters of
the `MCALL` there. -/
def operationWord (s : State) : Word :=
  if s.core.seq.macroRun then substFields (word5 (wordAtPc s) 15) (macroWord s (mstepMac s) (mstepStep s)) else wordAtPc s

/-- Whether an instruction word is an access that writes memory, or opens a line region (R81, R110, R198, R205, R208, R210). -/
def storesWord (w : Word) : Bool :=
  let m := (w.bits 25 7).toNat
  m == 0x1B || (m == 0x4B && w.getLsbD 14) || (decide (0x61 ≤ m) && decide (m ≤ 0x64))

/-- A trap condition met in handler mode (R326): with CR clear a double fault, which dooms the launch with cause 12;
with CR set a handler fault, which the management core receives. Either way the core stops. -/
def nestedFault (cause : Cause) (addr : DWord) (s : State) : State :=
  if crBit s then
    { s with core.seq.run := .stopped, core.seq.wait := none, core.mq.region := none,
             core.seq.handlerFault := some ⟨cause, addr, operationWord s, storesWord (operationWord s)⟩ }
  else
    doom s.core.launch
      { AbortInfo.of 12 with ord := s.core.ord, tcause := cause.code, addr := addr }
      { s with core.seq.run := .stopped, core.seq.wait := none, core.mq.region := none }

/-- Taking a trap (R324): cause, address, and the fields of `TSTAT` that an engine fault brings. A line region that is
open is abandoned (R212), an armed instruction step is spent by a precise trap (R262), and the target registers are kept
for `TRET` (R67). (DEDUCED, log entry 20.) -/
def takeTrap (cause : Cause) (addr : DWord) (tstat : DWord) (s : State) : State :=
  match s.core.seq.mode with
  | .handler => nestedFault cause addr s
  | .program =>
    { s with
      core.sys.tcause := cause.code.setWidth 64 ||| (if cause.async then 0x100 else 0)
      core.sys.taddr := addr
      core.sys.taddrTrap := addr
      core.sys.tpc := trapPc s
      core.sys.tstat := tstat
      core.seq.tbSaved := s.core.seq.tb
      core.seq.tbTrap := none
      core.seq.mode := .handler
      core.seq.pc := s.core.sys.tvec
      core.seq.pcOver := false
      core.seq.wait := none
      core.seq.macroRun := false
      core.seq.sleepCap := none
      core.seq.semCap := none
      core.seq.stepInst := if cause.async then s.core.seq.stepInst else false
      core.mq.region := none }

/-- A precise trap of the instruction at issue. -/
def trap (cause : Cause) (addr : DWord) (s : State) : Out := .next (takeTrap cause addr 0 s)

/-- The illegal-instruction trap with the instruction's word (R41). -/
def illegal (w : Word) (s : State) : Out := trap .illegal (w.setWidth 64) s

/-- The privilege trap with the instruction's word (R325). -/
def privilege (w : Word) (s : State) : Out := trap .privilege (w.setWidth 64) s

/-- The fetch state of a target word address in a mode (R64, R65). -/
def fetchStateOf (mode : Mode) (t : Nat) : FetchState :=
  if 4096 ≤ t then .faulted .fetchRange (dw t)
  else if mode == .program && 3584 ≤ t then .faulted .fetchHandlerArea (dw t)
  else .fetching

/-- Target registers as `TRET` restores them (R66, R67): the states held when the trap was taken; but where a branch trapped on a
faulted register and the handler has changed `TADDR`, that register fetches the new address under the checks of R64. A
`TRET.skip` leaves it faulted (R261). (DEDUCED, log entry 66.) -/
def restoreTargets (skip : Bool) (s : State) : Vector TargetReg 8 :=
  match s.core.seq.tbTrap with
  | some b =>
    if !skip && s.core.sys.taddr != s.core.sys.taddrTrap then
      let t := s.core.sys.taddr.toNat
      vset (w := 3) s.core.seq.tbSaved b ⟨BitVec.ofNat 12 t, fetchStateOf .program t⟩
    else s.core.seq.tbSaved
  | none => s.core.seq.tbSaved

/-! ## Gates: where an instruction may stand -/

/-- Where an instruction may stand: inside an atomic line region (R211), as a macro operation (R74, R257), as the end
word of an active loop (R69, R95, R257), in which mode. -/
structure Gate where
  inRegion : Bool := false
  inMacro : Bool := true
  endWord : Bool := true
  only : Option Mode := none

/-- The checks of a gate, in the order of R42: illegal instruction, then privilege. -/
def gate (g : Gate) (w : Word) (s : State) (k : State → Out) : Out :=
  if s.core.mq.region.isSome && !g.inRegion then illegal w s
  else if s.core.seq.macroRun && !g.inMacro then illegal w s
  else if !s.core.seq.macroRun && !g.endWord && isEndWord s s.core.seq.pc then illegal w s
  else
    match g.only with
    | none => k s
    | some m => if s.core.seq.mode = m then k s else privilege w s

/-! ## Issue: empty sources, interlocks, destinations (R16-R18, R49, R91, R199) -/

/-- A register that an instruction reads or writes. -/
inductive RegRef where
  | s (r : BitVec 5)
  | v (r : BitVec 5)
  | q (r : BitVec 3)
  | stack
  deriving DecidableEq, Repr

/-- A source with its empty-source bit (R17). -/
structure Src where
  reg : RegRef
  trap : Bool := false

/-- Number of a register as the empty-source trap reports it (R17). -/
def RegRef.num : RegRef → Nat
  | .s r => r.toNat
  | .v r => r.toNat
  | .q r => r.toNat
  | .stack => 0

/-- Whether the register's empty bit is set. -/
def regEmpty (s : State) : RegRef → Bool
  | .s r => sIsEmpty s r
  | .v r => vIsEmpty s r
  | .q _ => false
  | .stack => false

/-- Whether a result is on its way to the register: the interlock of R49 and R199. (DEDUCED, log entry 18.) -/
def regPending (s : State) : RegRef → Bool
  | .s r => r != 0 && (s.core.regs.latent.any (fun l => match l with | .scalar d _ => d == r | _ => false)
      || s.core.mq.results.any (fun x => x.d == r))
  | .v r => s.core.regs.latent.any (fun l => match l with | .vector d _ => d == r | _ => false)
  | .q r => r != 0 && s.core.regs.latent.any (fun l => match l with | .mask d _ => d == r | _ => false)
  | .stack => false

/-- Whether a load collected in a line region fills a scalar register (R211). -/
def accsFill (accs : List RegionAcc) (r : BitVec 5) : Bool :=
  r != 0 && accs.any (fun a => match a with | .load _ _ d _ => d == r | .store _ _ => false)

/-- Whether a line region that has been sent, from the store queue or over a ring, fills a scalar register (R211, R212). -/
def regionFills (s : State) (r : BitVec 5) : Bool :=
  s.core.mq.stores.any (fun e => match e.op with | .region accs => accsFill accs r | _ => false)
    || s.net.ringReqs.any (fun q => q.launch == s.core.launch && q.sec == s.core.sec && q.ord == s.core.ord &&
        (match q.body with | .store (.region accs) _ _ => accsFill accs r | _ => false))

/-- Whether a global load, of the queue or of a line region, is what the register waits for: such a wait is external (R156). -/
def loadFills (s : State) : RegRef → Bool
  | .s r => s.core.mq.loads.any (fun l => match l.dest with | .scalar d _ => d == r | _ => false)
      || s.core.mq.results.any (fun x => x.d == r) || regionFills s r
  | .v r => s.core.mq.loads.any (fun l => match l.dest with | .vector d _ => d == r | _ => false)
  | _ => false

/-- The kind of a wait on a register (R156): internal for an empty bit set by `GPOP` or an engine status read, external
for a global access. A latency interlock ends by itself; it counts as external so that it never makes a core stuck. -/
def regWait (s : State) (r : RegRef) : WaitKind :=
  if loadFills s r || regPending s r then .external else .internal

/-- Whether a load collected in the open line region will fill the register (R211). -/
def regionLoads (s : State) (r : RegRef) : Bool :=
  match s.core.mq.region, r with
  | some g, .s d => accsFill g.accs d
  | _, _ => false

/-- What an instruction reads and writes. -/
structure Uses where
  srcs : List Src := []
  dsts : List RegRef := []

/-- Issue of an instruction: a read of a register that an open line region will load is illegal (R211); an empty source
whose bit is 1 traps, taking a before b (R17); an empty or interlocked source, and an empty or interlocked destination,
waits (R17, R18, R49, R199). -/
def issue (w : Word) (u : Uses) (s : State) (k : State → Out) : Out :=
  if u.srcs.any (fun x => regionLoads s x.reg) then illegal w s
  else
    match u.srcs.find? (fun x => x.trap && regEmpty s x.reg) with
    | some x => trap .emptySource (dw x.reg.num) s
    | none =>
      match (u.srcs.map (fun x => x.reg) ++ u.dsts).find? (fun r => regEmpty s r || regPending s r) with
      | some r => waitOn (regWait s r) s
      | none => k { s with core.seq.wait := none }

/-- A result on its way, interlocking its destination until `LATENCY_RESULT_DELIVERY` (R49, R91); one for `s0` or `q0`
is discarded at once (R49). (DEDUCED, log entry 18.) -/
def deliverLater (l : Latent) (s : State) : State :=
  match l with
  | .scalar r _ => if r = 0 then s else { s with core.regs.latent := s.core.regs.latent ++ [l] }
  | .mask r _ => if r = 0 then s else { s with core.regs.latent := s.core.regs.latent ++ [l] }
  | .vector _ _ => { s with core.regs.latent := s.core.regs.latent ++ [l] }

/-! ## RSR states (R92, R131) -/

/-- The seed of RSR state `i` (R92); the cluster states of R131 use the same form with their own index. -/
def rsrSeed (fpctl : DWord) (i : Nat) : Word :=
  let x := (fpctl >>> 32).setWidth 32 ^^^ (BitVec.ofNat 32 (i + 1) * 0x9E3779B9#32)
  if x = 0 then 1 else x

/-- `FPCTL` is written: the states of every lane and cluster are seeded afresh (R23, R92, R131). -/
def writeFpctl (x : DWord) (s : State) : State :=
  { s with
    core.sys.fpctl := x
    core.sys.laneRsr := Vector.ofFn (fun i => rsrSeed x i.val)
    core.sys.clusterRsr := Vector.ofFn (fun i => rsrSeed x (16 + i.val))
    core.sys.fpEpoch := s.core.sys.fpEpoch + 1 }

/-! ## Scopes (R6, R7, R83) -/

/-- Whether the system has more than one package, more than one pod: the present scopes (R7). Where there are other pods the pod scope is
present too, even if the core's own pod holds one package (DESIGN CHOICE, log entry 74). -/
def maxScope (s : State) : BitVec 3 :=
  let pod := s.core.id.extractLsb' 17 4
  let other := (List.range 128).filter (fun p => s.health.packages.getLsbD p && p != (s.core.id.extractLsb' 14 7).toNat)
  if other.any (fun p => p / 8 != pod.toNat) then 7
  else if other.any (fun p => p / 8 == pod.toNat) then 6
  else 5

/-- A scope the build has: an absent one acts as the largest present (R7). -/
def presentScope (s : State) (sc : BitVec 3) : BitVec 3 := if sc ≤ maxScope s then sc else maxScope s

/-- The scope of a store-scope field (R6, R83): 0 is the launch's default, whose 0 is package. -/
def storeScope (s : State) (sc : BitVec 3) : BitVec 3 :=
  presentScope s (if sc = 0 then (if (ownLaunch s).dss = 0 then 5 else (ownLaunch s).dss) else sc)

/-- The scope of a fence of the sequencer: `.lanes` acts as `.core` (R193). -/
def fenceScope (s : State) (sc : BitVec 3) : BitVec 3 := presentScope s (if sc = 0 then 1 else sc)

/-! ## The modelled core's place (R26) -/

def corePkg (id : CoreId) : BitVec 7 := id.extractLsb' 14 7
def coreChip (id : CoreId) : BitVec 6 := id.extractLsb' 8 6
def coreRow (id : CoreId) : BitVec 4 := id.extractLsb' 4 4
def coreCol (id : CoreId) : BitVec 4 := id.extractLsb' 0 4

/-- The layer (quadrant) of a core in its chiplet (R26). -/
def coreLayer (id : CoreId) : BitVec 2 :=
  (if (coreRow id).toNat < 8 then 0 else 2) + (if (coreCol id).toNat < 8 then 0 else 1)

/-- The reticle field of a core: chiplets 8f to 8f + 7 (R228). -/
def coreField (id : CoreId) : Nat := (coreChip id).toNat / 8

/-- The power region of a core: 2f holds chiplets 8f to 8f + 3 (R228). -/
def coreRegion (id : CoreId) : Nat := (coreChip id).toNat / 4

/-- The layer cache of a core. -/
def layerOf (id : CoreId) : BitVec 15 := corePkg id ++ coreChip id ++ coreLayer id

/-- The hub of a core's chiplet. -/
def hubOf (id : CoreId) : BitVec 13 := corePkg id ++ coreChip id

/-- The region counter of a core's field (R3, R76). -/
def counterOf (s : State) (id : CoreId) : DWord := fieldCounter s (corePkg id) (coreField id)

end Sys2Proof.Machine
end

