-- ==== Sys2Proof/Machine/Mem.lean ====
section
/-! DEFINITION. Memory: lists of bytes in canonical form, physical addresses (R228), translation (R231-R233), regions
(R294), and the homes with their versions, conflicts, overflow and directory (R226, R291-R299, R389). -/

namespace Sys2Proof.Machine

/-! ## Lists of bytes in canonical form -/

/-- The byte at an address: the listed one, or what an unlisted address reads as. -/
def cellsGet (d : Byte) : List Host.Cell → Nat → Byte
  | [], _ => d
  | (x, b) :: r, a => if a = x then b else cellsGet d r a

/-- A byte written: entries stay in rising order, and a byte equal to what an unlisted address reads as is not listed. -/
def cellsSet (d : Byte) (a : Nat) (v : Byte) : List Host.Cell → List Host.Cell
  | [] => if v = d then [] else [(a, v)]
  | (x, b) :: r =>
    if a < x then (if v = d then (x, b) :: r else (a, v) :: (x, b) :: r)
    else if a = x then (if v = d then r else (a, v) :: r)
    else (x, b) :: cellsSet d a v r

/-- Strictly rising addresses above a bound, no entry equal to the default. -/
def cellsWfFrom (d : Byte) : Option Nat → List Host.Cell → Bool
  | _, [] => true
  | lo, (x, b) :: r =>
    (match lo with | none => true | some y => decide (y < x)) && decide (b ≠ d) && cellsWfFrom d (some x) r

/-- The canonical form of committed memory. -/
def Memory.wf (l : List Host.Cell) : Bool := cellsWfFrom Config.memDefault none l

/-- Several bytes from an address on. -/
def cellsRead (d : Byte) (l : List Host.Cell) (a n : Nat) : List Byte := (List.range n).map (fun i => cellsGet d l (a + i))

/-- Several bytes written from an address on. -/
def cellsWrite (d : Byte) (l : List Host.Cell) (a : Nat) : List Byte → List Host.Cell
  | [] => l
  | b :: r => cellsWrite d (cellsSet d a b l) (a + 1) r

/-- A little-endian number. -/
def leNat : List Byte → Nat
  | [] => 0
  | b :: r => b.toNat + 256 * leNat r

/-- The `n` little-endian bytes of a number. -/
def leBytes : Nat → Nat → List Byte
  | 0, _ => []
  | n + 1, x => BitVec.ofNat 8 x :: leBytes n (x / 256)

/-! ## Lines -/

/-- Byte `i` of a line. -/
def lineByte (d : LineData) (i : Nat) : Byte := d.extractLsb' (8 * i) 8

/-- A line from its bytes. -/
def lineOf (f : Nat → Byte) : LineData :=
  BitVec.ofNat 1024 ((List.range 128).foldr (fun i acc => acc * 256 + (f i).toNat) 0)

/-- A line from a list of bytes. -/
def lineOfList (l : List Byte) : LineData := BitVec.ofNat 1024 (leNat l)

/-- A line's bytes with those of the mask replaced. -/
def lineMerge (old new : LineData) (mask : LineMask) : LineData :=
  lineOf (fun i => if mask.getLsbD i then lineByte new i else lineByte old i)

/-- The mask of `n` bytes from byte `o`. -/
def maskOf (o n : Nat) : LineMask := BitVec.ofNat 128 ((2 ^ n - 1) * 2 ^ o)

/-- Bytes placed in a line at offset `o`. -/
def lineAt (o : Nat) (bs : List Byte) : LineData := BitVec.ofNat 1024 (leNat bs * 256 ^ o)

/-! ## Physical addresses (R228) -/

def paPkg (pa : Nat) : BitVec 7 := BitVec.ofNat 7 (pa / 2 ^ 45)
def paCls (pa : Nat) : Nat := pa / 2 ^ 42 % 8
def paOff (pa : Nat) : Nat := pa % 2 ^ 42

/-- Home die and byte in it of an address in windows 0 to 3 (R228). (DESIGN CHOICE, log entry 10.) -/
def homeOf (pa : Nat) : Nat × Nat :=
  let o := paOff pa
  match paCls pa with
  | 0 => (o / 2 ^ 12 % 64, o / 2 ^ 18 * 4096 + o % 4096)
  | 1 => (8 * (o / 2 ^ 39) + o / 2 ^ 12 % 8, o / 2 ^ 15 % 2 ^ 24 * 4096 + o % 4096)
  | _ => (o / 2 ^ 36, o % 2 ^ 36)

/-- One name for each byte of storage: windows 0 to 2 name bytes of the same dies, so their addresses are turned into
window 2; host memory is one space for every package. DESIGN CHOICE, log entry 10. -/
def paCanon (pa : Nat) : Nat :=
  match paCls pa with
  | 0 | 1 => (paPkg pa).toNat * 2 ^ 45 + 2 * 2 ^ 42 + (homeOf pa).1 * 2 ^ 36 + (homeOf pa).2
  | 6 => 6 * 2 ^ 42 + paOff pa
  | _ => pa

/-- The byte of a mirrored address at its primary, as a near address; the replica's die number differs in bit 0 (R228). -/
def mirrorPrimary (pa : Nat) : Nat := (paPkg pa).toNat * 2 ^ 45 + 2 * 2 ^ 42 + paOff pa
def mirrorReplica (pa : Nat) : Nat := mirrorPrimary pa ^^^ 2 ^ 36

/-- Whether a home die has been lost (R328). -/
def homeLost (s : State) (pkg : BitVec 7) (die : Nat) : Bool := s.health.lostDies.contains (pkg, BitVec.ofNat 7 (64 + die))

/-- Where a canonical address is read: a mirrored one at its primary, or at the replica when the primary is lost (R228). -/
def readCell (s : State) (pa : Nat) : Nat :=
  if paCls pa = 3 then (if homeLost s (paPkg pa) (homeOf pa).1 then mirrorReplica pa else mirrorPrimary pa) else pa

/-- Where a canonical address is written: a mirrored one at its primary and at its replica (R228). -/
def writeCells (pa : Nat) : List Nat := if paCls pa = 3 then [mirrorPrimary pa, mirrorReplica pa] else [pa]

/-- Whether a canonical address lies in host memory. -/
def isHostPa (pa : Nat) : Bool := paCls pa == 6

/-- The constraints of R228 and R232 on the physical address of an access from a package. (DEDUCED, log entry 57.) -/
def paLegal (pkg : BitVec 7) (pa : Nat) : Bool :=
  match paCls pa with
  | 0 | 1 | 2 => decide ((homeOf pa).2 < 62 * 2 ^ 30)
  | 3 => decide ((homeOf pa).2 < 62 * 2 ^ 30) && decide (paOff pa / 2 ^ 35 % 2 = 0)
  | 6 => paPkg pa == pkg
  | _ => false

/-- A committed byte. (DESIGN CHOICE, log entry 2.) -/
def memByte (s : State) (pa : Nat) : Byte := cellsGet Config.memDefault s.homes.mem (readCell s (paCanon pa))

/-- Committed bytes. -/
def memBytes (s : State) (pa n : Nat) : List Byte := (List.range n).map (fun i => memByte s (pa + i))

/-- A committed little-endian number of `n` bytes. -/
def memNat (s : State) (pa n : Nat) : Nat := leNat (memBytes s pa n)

/-- Committed bytes written. -/
def memWrite (pa : Nat) (bs : List Byte) (s : State) : State :=
  let put := fun (m : List Host.Cell) (i : Nat) =>
    (writeCells (paCanon (pa + i))).foldl (fun m a => cellsSet Config.memDefault a (bs.getD i 0) m) m
  { s with homes.mem := (List.range bs.length).foldl put s.homes.mem }

/-- The committed copy of a line (canonical line number). -/
def memLine (s : State) (line : Nat) : LineData :=
  lineOfList (cellsRead Config.memDefault s.homes.mem (readCell s (line * 128)) 128)

/-- The committed copy of a line written. -/
def setMemLine (line : Nat) (d : LineData) (s : State) : State :=
  let bs := (List.range 128).map (lineByte d)
  { s with homes.mem := (writeCells (line * 128)).foldl (fun m a => cellsWrite Config.memDefault m a bs) s.homes.mem }

/-! ## Translation (R231-R233) -/

/-- Why a translation failed, or the physical address. -/
inductive Trans where
  | ok (pa : Nat)
  | fault (c : Cause)
  deriving DecidableEq, Repr

/-- The entry a walk reached: where it stands, its bits, its level, and the page it maps when it is a legal leaf. -/
structure Walk where
  addr : Nat
  entry : DWord
  level : Nat
  page : Option (Nat × Nat × Bool)

/-- Whether an entry is a legal leaf of a size at a level, whose alignment holds (R232). -/
def leafLegal (e : DWord) (level size bits : Nat) : Bool :=
  e.getLsbD 0 && e.getLsbD 1 && fieldN e 3 2 == size && fieldN e 6 7 == 0 && fieldN e 52 12 == 0
    && fieldN e 13 3 == 0 && decide (fieldN e 16 36 * 2 ^ 16 % 2 ^ bits = 0)
    && (if size = 2 then level == 2 else level == 3)

/-- The page that a legal leaf maps: physical base, size in bits, writable. -/
def leafPage (e : DWord) (bits : Nat) : Nat × Nat × Bool := (fieldN e 16 36 * 2 ^ 16, bits, e.getLsbD 2)

/-- One level of the walk: a legal leaf ends it, a pointer leads to the next table, anything else is not valid. At the
levels that can hold large pages the first entry of the aligned group is read first (R232). -/
def walkLevels : Nat → State → Nat → Nat → Nat → Walk
  | 0, _, table, _, level => ⟨table, 0, level, none⟩
  | n + 1, s, table, va, level =>
    let idx := va / 2 ^ (46 - 10 * level) % 1024
    let a := table + 8 * idx
    let e := dw (memNat s a 8)
    let group := if level = 3 then 32 else 16
    let ga := table + 8 * (idx / group * group)
    let ge := dw (memNat s ga 8)
    let size := if level = 3 then 1 else 2
    let bits := if level = 3 then 21 else 30
    if 2 ≤ level ∧ leafLegal ge level size bits then ⟨ga, ge, level, some (leafPage ge bits)⟩
    else if level = 3 then ⟨a, e, level, if leafLegal e 3 0 16 then some (leafPage e 16) else none⟩
    else if e.getLsbD 0 && !e.getLsbD 1 && fieldN e 6 7 == 0 && fieldN e 52 12 == 0
        && paLegal (corePkg s.core.id) (fieldN e 13 39 * 2 ^ 13) then
      walkLevels n s (fieldN e 13 39 * 2 ^ 13) va (level + 1)
    else ⟨a, e, level, none⟩

/-- The walk of a virtual address from a level-0 table. -/
def walk (s : State) (root va : Nat) : Walk := walkLevels 4 s root va 0

/-- A TLB entry that serves an address of a launch. -/
def tlbFind (l : List TlbEntry) (launch va : Nat) : Option TlbEntry :=
  l.find? (fun t => t.launch == launch && t.base == va / 2 ^ t.bits * 2 ^ t.bits)

/-- The set of the layer TLB in which an entry stands: 256 sets of 8 ways (R233). (DESIGN CHOICE, log entry 27.) -/
def tlbSet (t : TlbEntry) : Nat := t.base / 2 ^ t.bits % 256

/-- A layer TLB with one entry more: the oldest of a full set leaves (R233). -/
def layerTlbPut (t : TlbEntry) (l : List TlbEntry) : List TlbEntry :=
  match (l.filter (fun x => tlbSet x == tlbSet t))[7]? with
  | some old => t :: l.filter (fun x => x != old)
  | none => t :: l

/-- The state with a translation in both TLBs (R233): 32 entries, and 2,048 of 8 ways, the oldest going first.
(DESIGN CHOICE, log entry 27.) -/
def tlbFill (t : TlbEntry) (s : State) : State :=
  { s with homes.tlb := (t :: s.homes.tlb).take 32, homes.layerTlb := layerTlbPut t s.homes.layerTlb }

/-- The answer of a TLB entry (R232). -/
def tlbAnswer (s : State) (t : TlbEntry) (va : Nat) (write : Bool) : Trans :=
  let pa := t.pa + va % 2 ^ t.bits
  if ¬ paLegal (corePkg s.core.id) pa then .fault .page
  else if write && !t.writable then .fault .access
  else .ok pa

/-- `Translate` of R81: micro-TLB, layer TLB, then a walk, whose legal leaf fills the TLBs. (DESIGN CHOICE, log entry 27.) -/
def translate (va : Nat) (write : Bool) (s : State) : State × Trans :=
  match tlbFind s.homes.tlb s.core.launch va with
  | some t => (s, tlbAnswer s t va write)
  | none =>
    match tlbFind s.homes.layerTlb s.core.launch va with
    | some t => (s, tlbAnswer s t va write)
    | none =>
      match (walk s s.core.ptroot va).page with
      | none => (s, .fault .page)
      | some (pa, bits, w) =>
        let t : TlbEntry := ⟨s.core.launch, va / 2 ^ bits * 2 ^ bits, bits, pa, w⟩
        match tlbAnswer s t va write with
        | .fault c => (s, .fault c)
        | .ok p => (tlbFill t s, .ok p)

/-! ## Regions (R294, R317) -/

/-- The region of a launch that holds a virtual address. -/
def regionOf (l : LaunchRec) (va : Nat) : Option Region :=
  l.regions.find? (fun r => decide (r.va ≤ va) && decide (va < r.va + r.size))

/-- Class of an address: that of its region; pages of the image's segments are shadowed (R319). -/
def classOf (l : LaunchRec) (va : Nat) : BitVec 2 := ((regionOf l va).map (fun r => r.cls)).getD 0

/-- Whether a package lies in a launch's reach (R288). -/
def inReach (s : State) (l : LaunchRec) (pkg : BitVec 7) : Bool :=
  pkg == corePkg s.core.id || l.halls.any (fun h => h.1 == pkg)

/-- An access of the core checked in the order of R81: address, alignment, translation, and the reach of R288. -/
def accessCheck (va : DWord) (size : Nat) (write : Bool) (s : State) : State × Trans :=
  if va.toNat / 2 ^ 56 ≠ 0 then (s, .fault .address)
  else if va.toNat % size ≠ 0 then (s, .fault .alignment)
  else
    match translate va.toNat write s with
    | (s', .fault c) => (s', .fault c)
    | (s', .ok pa) =>
      let l := ownLaunch s
      if classOf l va.toNat ≠ 1 ∧ ¬ isHostPa pa ∧ ¬ inReach s l (paPkg pa) then (s', .fault .access)
      else (s', .ok pa)

/-! ## Touched dies (R27, R328) -/

/-- The launch touches a die of a package: bits 0-63 chiplets, 64-127 home dies; the home package's pair of registers,
and the pod and hall masks. -/
def touch (launch : Nat) (pkg : BitVec 7) (die : Nat) (s : State) : State :=
  let bit : BitVec 128 := BitVec.twoPow 128 die
  let s := updLaunch launch (fun l =>
    { l with
      touched := if l.touched.any (fun t => t.1 == pkg) then
          l.touched.map (fun t => if t.1 = pkg then (t.1, t.2 ||| bit) else t)
        else (pkg, bit) :: l.touched
      podMask := if pkg.toNat / 8 = l.home.toNat / 8 then l.podMask ||| BitVec.twoPow 8 (pkg.toNat % 8) else l.podMask
      hallMask := l.hallMask ||| BitVec.twoPow 128 pkg.toNat }) s
  if launch ≠ 0 ∧ launch = s.core.launch ∧ pkg = (if (launchOf s launch).id = 0 then corePkg s.core.id else (launchOf s launch).home) then
    if die < 64 then { s with core.sys.tdmaskl := s.core.sys.tdmaskl ||| BitVec.twoPow 64 die }
    else { s with core.sys.tdmaskh := s.core.sys.tdmaskh ||| BitVec.twoPow 64 (die - 64) }
  else s

/-- An access of a launch reaches a line homed at a physical address. -/
def touchPa (launch pa : Nat) (s : State) : State :=
  if isHostPa pa then s
  else
    let die := (homeOf pa).1
    let s := touch launch (paPkg pa) (64 + die) s
    if paCls pa = 3 then touch launch (paPkg pa) (64 + (die ^^^ 1)) s else s

/-- Home traffic at the die of a line, both dies of a mirrored one (R354). -/
def noteHomeTraffic (line : Nat) (s : State) : State :=
  let pa := line * 128
  if isHostPa pa then s
  else
    let die := (homeOf pa).1
    let dies := if paCls pa = 3 then [die, die ^^^ 1] else [die]
    let marks : List (BitVec 7 × BitVec 7 × DWord) := dies.map (fun d => (paPkg pa, BitVec.ofNat 7 d, s.now))
    { s with net.homeSeen := marks ++ s.net.homeSeen.filter (fun x => !marks.any (fun m => m.1 == x.1 && m.2.1 == x.2.1)) }

/-! ## Hallmarks and stamps (R288, R289, R295) -/

/-- `a` is no later than `b`, in a window of 2^31 (R295). -/
def stampLe (a b : Word) : Bool := decide ((b - a).toNat < 2 ^ 31)

/-- The hallmark entry of a launch in a package. -/
def hallOf (s : State) (launch : Nat) (pkg : BitVec 7) : Option HallEntry :=
  s.sched.halls.find? (fun h => h.launch == launch && h.pkg == pkg)

/-- The entry of a hallmark value in a package. -/
def hallEntry (s : State) (pkg : BitVec 7) (h : BitVec 12) : Option HallEntry :=
  s.sched.halls.find? (fun e => e.pkg == pkg && e.hall == h)

/-- The counters of a package. -/
def pkgRec (s : State) (pkg : BitVec 7) : PkgRec := (s.sched.pkgs.find? (fun p => p.pkg == pkg)).getD ⟨pkg, 0, 0, 0, 0⟩

/-- The counters of a package replaced. -/
def setPkgRec (r : PkgRec) (s : State) : State :=
  { s with sched.pkgs := r :: s.sched.pkgs.filter (fun p => p.pkg != r.pkg) }

/-- A launch's start stamp in a package; without a hallmark there, the current stamp. -/
def startStamp (s : State) (launch : Nat) (pkg : BitVec 7) : Word :=
  match hallOf s launch pkg with
  | some h => h.start
  | none => (pkgRec s pkg).stamp

/-- A fresh commit stamp of a package. A launch still running 2^30 stamps past its start stamp is doomed (R295). -/
def nextStamp (pkg : BitVec 7) (s : State) : State × Word :=
  let p := pkgRec s pkg
  let c := p.stamp + 1
  let far := s.sched.halls.filter (fun h => h.pkg == pkg && (h.state == .running || h.state == .irrevocable)
    && decide (2 ^ 30 ≤ (c - h.start).toNat))
  (far.foldl (fun s h => doom h.launch (AbortInfo.of 4) s) (setPkgRec { p with stamp := c } s), c)

/-- A running launch, irrevocable or not (R289, R292). -/
def hallRuns (h : HallEntry) : Bool :=
  match h.state with
  | .running | .irrevocable => true
  | _ => false

/-- A launch that has neither flipped nor been doomed: its shadows are live (R296). -/
def snapshotLive (h : HallEntry) : Bool :=
  match h.state with
  | .running | .irrevocable | .ready | .committing => true
  | _ => false

/-- Whether some running launch of the package has a start stamp below `c` (R292). -/
def priorNeeded (s : State) (pkg : BitVec 7) (c : Word) : Bool :=
  s.sched.halls.any (fun h => h.pkg == pkg && hallRuns h && !stampLe c h.start)

/-! ## Lines at their home (R291-R293) -/

/-- What a home keeps of a line that was never recorded. -/
def LineRec.fresh (line : Nat) : LineRec := ⟨line, 0, (0, 0), [], 0, [], [], [], false, [], false, 0, false, false, 0⟩

/-- The record of a line. -/
def lineRec (s : State) (line : Nat) : LineRec :=
  (s.homes.lines.find? (fun r => r.line == line)).getD (LineRec.fresh line)

/-- The record of a line replaced. -/
def setLineRec (r : LineRec) (s : State) : State :=
  { s with homes.lines := r :: s.homes.lines.filter (fun x => x.line != r.line) }

/-- Package of a canonical line; host memory counts as memory of the asking package. -/
def linePkg (line : Nat) : BitVec 7 := paPkg (line * 128)

/-- Every version of a line beyond C. -/
def LineRec.versions (r : LineRec) : List Way := r.spilled ++ r.ways

/-- A prior put among priors, oldest first. -/
def insertPrior (w : Way) : List Way → List Way
  | [] => [w]
  | x :: r => if stampLe w.replaced x.replaced then w :: x :: r else x :: insertPrior w r

/-- Versions in the order in which they are spilled: the oldest prior first, then committed ways, then shadows (R293). -/
def spillOrder (l : List Way) : List Way :=
  (l.filter (fun w => w.kind == .prior)).foldr insertPrior []
    ++ l.filter (fun w => w.kind == .committed) ++ l.filter (fun w => w.kind == .shadow)

/-- A line with these versions: two stand in ways, the others in the spill area; what was spilled comes back when a way is
free. Of a line that home SRAM has evicted all stand there (R293). -/
def LineRec.withVersions (r : LineRec) (l : List Way) : LineRec :=
  let o := spillOrder l
  let out := if r.evicted then o.length else o.length - 2
  { r with ways := o.drop out, spilled := o.take out }

/-- Whether a way may be emptied: its hallmark is doomed, aborted or discarding, or is no longer known (R293). -/
def wayDead (s : State) (pkg : BitVec 7) (w : Way) : Bool :=
  match w.kind with
  | .shadow =>
    match hallEntry s pkg w.hall with
    | some h => match h.state with
      | .doomed | .aborted | .discarding => true
      | _ => false
    | none => true
  | .committed => false
  | .prior => !priorNeeded s pkg w.replaced

/-- The line without dead ways. -/
def reclaim (s : State) (r : LineRec) : LineRec :=
  r.withVersions (r.versions.filter (fun w => !wayDead s (linePkg r.line) w))

/-- Slots of a home die's spill area (R293). -/
def spillSlots : Nat := 2 ^ 24

/-- Slots in use at the home die of a line: spilled versions that nothing has made reclaimable, and reductions held for a paired
launch that has not been doomed (R207, R293). -/
def spillUsed (s : State) (line : Nat) : Nat :=
  let here := fun (x : Nat) => linePkg x == linePkg line && (homeOf (x * 128)).1 == (homeOf (line * 128)).1
  let live := fun (id : Nat) => match (launchOf s id).phase with | .doomed | .aborted => false | _ => true
  (s.homes.lines.filter (fun r => here r.line)).foldl
      (fun n r => n + (r.spilled.filter (fun w => !wayDead s (linePkg r.line) w)).length) 0
    + (s.homes.heldReds.filter (fun h => here h.line && live h.launch)).length

/-- Whether one version more fits: two ways, and two slots of the spill area while it has room (R293). -/
def fits (s : State) (r : LineRec) : Bool :=
  decide (r.versions.length < 2) || (decide (r.versions.length < 4) && decide (spillUsed s r.line < spillSlots))

/-- The launch of a hallmark of a package, 0 when the table no longer holds it. -/
def hallLaunch (s : State) (pkg : BitVec 7) (h : BitVec 12) : Nat := ((hallEntry s pkg h).map (fun e => e.launch)).getD 0

/-- Folding a line (R292): a committed way makes C a prior, if a snapshot needs it, and becomes C. -/
def foldLine (line : Nat) (s : State) : State :=
  let r := lineRec s line
  let pkg := linePkg line
  match r.versions.find? (fun w => w.kind == .committed) with
  | none => s
  | some w =>
    let prior : Way := ⟨.prior, 0, false, r.stamp, w.stamp, memLine s line, r.poison⟩
    let rest := r.versions.filter (fun x => x != w)
    let all := if priorNeeded s pkg w.stamp then rest ++ [prior] else rest
    setLineRec ({ r with stamp := w.stamp, committer := (hallLaunch s pkg w.hall, w.hall), poison := w.poison }.withVersions all)
      (setMemLine line w.data s)

/-- A launch's own way of a line: shadow, or ghost for the secondary of a pair (R291, R308). -/
def ownWay (s : State) (r : LineRec) (launch : Nat) (sec : Bool) : Option Way :=
  match hallOf s launch (linePkg r.line) with
  | none => none
  | some h => r.versions.find? (fun w => w.kind == .shadow && w.hall == h.hall && w.ghost == sec)

/-- The bytes of doubleword `k` of a line. -/
def wordMask (k : Nat) : LineMask := maskOf (8 * k) 8

/-- Poison marks left after bytes of a mask have been written: a doubleword wholly covered is clean (R389). -/
def clearPoison (p : BitVec 16) (m : LineMask) : BitVec 16 :=
  (List.range 16).foldl (fun q k => if m &&& wordMask k = wordMask k then setBit q k false else q) p

/-- The bytes of a line that a launch has written directly since it became irrevocable (R295, R299). -/
def ownDirect (r : LineRec) (launch : Nat) : OwnBytes :=
  (r.own.find? (fun o => o.launch == launch)).getD ⟨launch, 0, 0⟩

/-- The newest committed value of a folded line no later than a launch's start stamp, with its poisoned doublewords (R291, R389). -/
def snapshotOf (s : State) (launch : Nat) (line : Nat) : LineData × BitVec 16 :=
  let r := lineRec s line
  let st := startStamp s launch (linePkg line)
  if stampLe r.stamp st then (memLine s line, r.poison)
  else
    match r.versions.find? (fun w => w.kind == .prior && stampLe w.stamp st && !stampLe w.replaced st) with
    | some w => (w.data, w.poison)
    | none => (memLine s line, r.poison)

/-- The version a launch reads of a folded line, with its poisoned doublewords (R291, R295, R389): its own way, else its snapshot
under what it has written directly. An escape access reads C (R220). -/
def versionOf (s : State) (launch : Nat) (sec : Bool) (cls : BitVec 2) (line : Nat) : LineData × BitVec 16 :=
  let r := lineRec s line
  if cls = 1 then (memLine s line, r.poison)
  else
    match ownWay s r launch sec with
    | some w => (w.data, w.poison)
    | none =>
      let o := ownDirect r launch
      match snapshotOf s launch line with
      | (d, bad) => if o.mask = 0 then (d, bad) else (lineMerge d o.data o.mask, clearPoison bad o.mask)

/-- Whether the version a launch reads is its own or C, and so may be cached, with which tag (R227).
(DESIGN CHOICE, log entry 28.) -/
def versionTag (s : State) (launch : Nat) (sec : Bool) (cls : BitVec 2) (line : Nat) : Option LayerTag :=
  let r := lineRec s line
  if cls = 1 then some (.committed r.stamp)
  else
    match ownWay s r launch sec with
    | some w => some (.hall w.hall)
    | none => if (ownDirect r launch).mask = 0 && stampLe r.stamp (startStamp s launch (linePkg line)) then some (.committed r.stamp) else none

/-- Whether a read stalls (R249, R301): a way of a committing hallmark other than the reader's own, or a back-invalidate
not yet answered. -/
def readStalls (s : State) (launch : Nat) (line : Nat) : Bool :=
  let r := lineRec s line
  r.backInv || r.versions.any (fun w => w.kind == .shadow &&
    (match hallEntry s (linePkg line) w.hall with
     | some h => h.state == .committing && h.launch != launch
     | none => false))

/-- Whether bytes of a mask lie in a poisoned doubleword (R389). -/
def poisonMet (p : BitVec 16) (m : LineMask) : Bool :=
  (List.range 16).any (fun k => p.getLsbD k && m &&& wordMask k != 0)

/-- The bytes of a line outside its poisoned doublewords. -/
def soundBytes (p : BitVec 16) : LineMask :=
  (List.range 16).foldl (fun m k => if p.getLsbD k then m &&& ~~~ wordMask k else m) (BitVec.allOnes 128)

/-! ## The directory and the layer caches (R226, R227) -/

/-- Every byte that some core has stored into a layer-cache line or a hub line and that has not gone on yet. -/
def unpushedMask (l : List Unpushed) : LineMask := l.foldl (fun m u => m ||| u.mask) 0
def LayerLine.dirty (l : LayerLine) : LineMask := unpushedMask l.unpushed
def HubLine.mask (h : HubLine) : LineMask := unpushedMask h.unpushed

/-- Bytes of a mask leave a list of unpushed bytes. -/
def dropUnpushed (l : List Unpushed) (m : LineMask) : List Unpushed :=
  (l.map (fun u => { u with mask := u.mask &&& ~~~m })).filter (fun u => u.mask != 0)

/-- A core's stored bytes join a list of unpushed bytes. -/
def addUnpushed (core : CoreId) (launch : Nat) (m : LineMask) (l : List Unpushed) : List Unpushed :=
  if m = 0 then l
  else if l.any (fun u => u.core == core && u.launch == launch) then
    l.map (fun u => if u.core = core ∧ u.launch = launch then { u with mask := u.mask ||| m } else u)
  else l ++ [⟨core, launch, m⟩]

/-- Unpushed bytes of a copy on their way to the home: who stored them, under which class. -/
structure Piece where
  core : CoreId
  launch : Nat
  sec : Bool
  cls : BitVec 2
  line : Nat
  data : LineData
  mask : LineMask

/-- The pieces of a list of unpushed bytes; a byte that several cores have stored goes once. -/
def piecesOf (sec : Bool) (cls : BitVec 2) (line : Nat) (data : LineData) : List Unpushed → LineMask → List Piece
  | [], _ => []
  | u :: r, seen =>
    let m := u.mask &&& ~~~seen
    if m = 0 then piecesOf sec cls line data r seen
    else ⟨u.core, u.launch, sec, cls, line, data, m⟩ :: piecesOf sec cls line data r (seen ||| m)

/-- The class under which a tag's unpushed bytes are applied (R227): committed and remote escape lines hold escape stores. -/
def tagClass : LayerTag → BitVec 2
  | .committed _ | .remoteEscape => 1
  | .hall _ | .remoteHall _ => 0

def LayerLine.pieces (l : LayerLine) : List Piece := piecesOf l.ghost (tagClass l.tag) l.line l.data l.unpushed 0
def HubLine.pieces (h : HubLine) : List Piece := piecesOf h.sec h.cls h.line h.data h.unpushed 0

/-- A line's bytes of a mask as cells. -/
def cellsOf (line : Nat) (data : LineData) (mask : LineMask) : List Host.Cell :=
  (List.range 128).filterMap (fun i => if mask.getLsbD i then some (line * 128 + i, lineByte data i) else none)

/-- The physical address of a line in the window through which a launch wrote it (R228). (DESIGN CHOICE, log entry 10.) -/
def windowPa (r : LineRec) : Nat :=
  let pa := r.line * 128
  let die := (homeOf pa).1
  let byte := (homeOf pa).2
  let pkg := (paPkg pa).toNat * 2 ^ 45
  match r.via with
  | 0 => if paCls pa = 2 then pkg + byte / 4096 * 2 ^ 18 + die * 4096 + byte % 4096 else pa
  | 1 => pkg + 2 ^ 42 + die / 8 * 2 ^ 39 + byte / 4096 * 2 ^ 15 + die % 8 * 4096 + byte % 4096
  | _ => pa

/-- Bytes that wait at the home as a request (R296). -/
def holdPiece (d : Piece) (s : State) : State :=
  let q : HomeReq := ⟨d.core, d.launch, d.sec, 0, d.cls, windowPa (lineRec s d.line), .write (.write (cellsOf d.line d.data d.mask)), none⟩
  { s with homes.queue := s.homes.queue ++ [q] }

/-- Whether bytes of a line that a core has stored wait at the home: what it sends of the line waits behind them (R239). -/
def heldBytes (s : State) (core : CoreId) (launch line : Nat) : Bool :=
  s.homes.queue.any (fun q => q.core == core && q.launch == launch && paCanon q.pa / 128 == line &&
    (match q.op with | .write (.write _) => true | _ => false))

/-- Every copy of a line in the layer caches and hub line buffers of its package is dropped; the bytes they held
unpushed come back, to be applied after the write (R226). -/
def dropCopies (line : Nat) (s : State) : State × List Piece :=
  let pkg := linePkg line
  let hit := fun (l : LayerLine) => l.line == line && (isHostPa (line * 128) || l.layer.extractLsb' 8 7 == pkg)
    && (match l.tag with | .committed _ | .hall _ => true | _ => false)
  let hhit := fun (l : HubLine) => l.line == line && (isHostPa (line * 128) || l.hub.extractLsb' 6 7 == pkg)
  ({ s with
      homes.layers := s.homes.layers.filter (fun l => !hit l)
      homes.hubs := s.homes.hubs.filter (fun l => !hhit l) },
    (s.homes.layers.filter hit).flatMap LayerLine.pieces ++ (s.homes.hubs.filter hhit).flatMap HubLine.pieces)

/-- A change of C on a line the host may hold sends a back-invalidate snoop first (R249). -/
def snoopHost (r : LineRec) : LineRec := if r.hostBit then { r with backInv := true } else r

/-! ## Conflicts and overflow (R284, R296-R299) -/

/-- What a home did with a write. -/
inductive HomeRes where
  /-- Applied; the line's value for the writer before it. -/
  | applied (old : LineData)
  /-- Dropped: the writing launch is doomed (R284, R296). -/
  | dropped
  /-- Held until a committing launch has flipped (R296, irrevocable writers). -/
  | held
  deriving DecidableEq, Repr

/-- Whether a launch is still allowed to write: it is not doomed or ended (R284). -/
def writerLive (s : State) (launch : Nat) (pkg : BitVec 7) : Bool :=
  (match (launchOf s launch).phase with | .doomed | .aborted => false | _ => true)
    && (match hallOf s launch pkg with
        | some h => snapshotLive h
        | none => true)

/-- The hallmark of a launch in a package, 0 where it has none. -/
def hallIn (s : State) (launch : Nat) (pkg : BitVec 7) : BitVec 12 :=
  (((launchOf s launch).halls.find? (fun x => x.1 == pkg)).map (fun x => x.2)).getD 0

/-- A launch is doomed in favour of a winner: a launch, and its hallmark in a package (R296, R297). The abort record names the
hallmark in the loser's home package (R332). (DEDUCED, log entry 19.) -/
def doomFor (loser : Nat) (cause : Byte) (pkg : BitVec 7) (winner : Nat × BitVec 12) (s : State) : State :=
  let home := (launchOf s loser).home
  let hall := if pkg = home then winner.2 else hallIn s winner.1 home
  doom loser { AbortInfo.of cause with winner := hall, winnerLaunch := winner.1 } s

/-- An uncorrectable error met by an access of a launch dooms it with cause data error (R202, R389). -/
def doomData (launch line : Nat) (s : State) : State := doom launch { AbortInfo.of 6 with addr := dw (line * 128) } s

/-- Bytes of a mask join what an irrevocable launch has written directly; launches that have ended leave the list. -/
def addOwn (s : State) (o : OwnBytes) (l : List OwnBytes) : List OwnBytes :=
  let live := l.filter (fun x => s.sched.halls.any (fun h => h.launch == x.launch && snapshotLive h))
  if o.launch = 0 then live
  else
    let old := (live.find? (fun x => x.launch == o.launch)).getD ⟨o.launch, 0, 0⟩
    ⟨o.launch, lineMerge old.data o.data o.mask, old.mask ||| o.mask⟩ :: live.filter (fun x => x.launch != o.launch)

/-- C written as a commit of its line with a stamp (R299): the old C is kept as a prior where a snapshot needs it. `mask` says which
bytes the launch has written. -/
def commitLine (line : Nat) (d : LineData) (poison : BitVec 16) (c : Word) (who : Nat × BitVec 12) (mask : LineMask) (s : State) : State :=
  let r := reclaim s (lineRec s line)
  let prior : Way := ⟨.prior, 0, false, r.stamp, c, memLine s line, r.poison⟩
  let all := if priorNeeded s (linePkg line) c then r.versions ++ [prior] else r.versions
  setLineRec (snoopHost ({ r with stamp := c, committer := who, own := addOwn s ⟨who.1, d, mask⟩ r.own, poison := poison }.withVersions all))
    (setMemLine line d s)

/-- Launches involved in an overflow of a line (R298): holders of a version, the requester, and those whose snapshot
keeps a prior. -/
def involved (s : State) (line requester : Nat) : List HallEntry :=
  let r := lineRec s line
  let pkg := linePkg line
  s.sched.halls.filter (fun h => h.pkg == pkg && snapshotLive h &&
    (h.launch == requester
      || r.versions.any (fun w => w.kind == .shadow && w.hall == h.hall)
      || (hallRuns h && r.versions.any (fun w => w.kind == .prior && !stampLe w.replaced h.start))))

/-- The oldest and the youngest entry of a list by start sequence (R288). -/
def oldest (l : List HallEntry) : Option HallEntry :=
  l.foldl (fun a h => match a with
    | none => some h
    | some b => if h.age.toNat < b.age.toNat then some h else a) none

def youngest (l : List HallEntry) : Option HallEntry :=
  l.foldl (fun a h => match a with
    | none => some h
    | some b => if b.age.toNat < h.age.toNat then some h else a) none

/-- Whether a package of a launch's reach already holds an irrevocable launch (R298, R299). (DEDUCED, log entry 25.) -/
def irrevocableNear (s : State) (launch : Nat) : Bool :=
  s.sched.halls.any (fun e => snapshotLive e && (launchOf s e.launch).irrev && (hallOf s launch e.pkg).isSome)

/-- The copies of a line that a change of C makes stale are dropped; what they held unpushed waits at the home to be applied after the
change (R226). -/
def dropHold (line : Nat) (s : State) : State :=
  match dropCopies line s with
  | (s, dirty) => dirty.foldl (fun s d => holdPiece d s) (setLineRec { lineRec s line with sharers := 0 } s)

/-- A launch becomes irrevocable in every package (R289, R298), its way on the line going to C at once as a commit of the line (R299). -/
def makeIrrevocable (h : HallEntry) (line : Nat) (s : State) : State :=
  let s := updLaunch h.launch (fun l => { l with irrev := true }) { s with sched.halls := s.sched.halls.map (fun e =>
    if e.launch = h.launch ∧ e.state = .running then { e with state := .irrevocable } else e) }
  let r := lineRec s line
  match r.versions.find? (fun w => w.kind == .shadow && w.hall == h.hall && !w.ghost) with
  | none => s
  | some w =>
    match nextStamp (linePkg line) s with
    | (s, c) => dropHold line <| commitLine line w.data w.poison c (h.launch, h.hall) (BitVec.allOnes 128)
        (setLineRec ((lineRec s line).withVersions ((lineRec s line).versions.filter (fun x => x != w))) s)

/-- One round of R298: by policy, a launch becomes irrevocable, or the youngest launch involved that an overflow can doom
is doomed with cause overflow. -/
def relieveOverflow (line requester : Nat) (s : State) : State :=
  let inv := involved s line requester
  let may := inv.filter (fun h => (launchOf s h.launch).pol && (launchOf s h.launch).pair == 0 && h.state == .running)
  let chosen := (oldest may).bind (fun h => if irrevocableNear s h.launch then none else some h)
  match chosen with
  | some h => makeIrrevocable h line s
  | none =>
    match youngest (inv.filter hallRuns) with
    | some h => doom h.launch (AbortInfo.of 3) s
    | none => s

/-- Rounds that R298 can take: each dooms a launch of the package or makes one irrevocable. -/
def overflowRounds (s : State) : Nat := s.sched.halls.length + 2

/-- Room for one more version of a line, by reclaiming, spilling and R298, for as long as the version is needed (R293). -/
def makeRoom : Nat → Nat → Nat → (State → Bool) → State → State
  | 0, _, _, _, s => s
  | n + 1, line, requester, need, s =>
    let s := setLineRec (reclaim s (lineRec s line)) s
    if !need s || fits s (lineRec s line) then s
    else makeRoom n line requester need (relieveOverflow line requester s)

/-- A slot of the spill area for a held reduction of a paired launch, by its overflow policy where the area is full (R207). -/
def makeSlot : Nat → Nat → Nat → State → State
  | 0, _, _, s => s
  | n + 1, line, requester, s =>
    if !writerLive s requester (linePkg line) || decide (spillUsed s line < spillSlots) then s
    else makeSlot n line requester (relieveOverflow line requester s)

/-- Bytes of a home die's SRAM (R2, R225), and of one save area in it (R330). -/
def sramBytes : Nat := 384 * 2 ^ 20
def areaBytes : Nat := 2 ^ 18

/-- Bytes in use of the SRAM of a line's home die: save areas, and lines that hold ways. A line without a way leaves it first, without a
trace. (DESIGN CHOICE, log entry 28.) -/
def sramUsed (s : State) (line : Nat) : Nat :=
  let pkg := linePkg line
  let die := (homeOf (line * 128)).1
  let areas := (s.sched.launches.flatMap (fun l => l.members.map (fun m => m.area)) ++ s.sched.slots.map (fun x => x.save)).filter
    (fun a => a != 0 && paPkg a == pkg && a / 2 ^ 36 % 64 == die)
  let here := fun (r : LineRec) => linePkg r.line == pkg && (homeOf (r.line * 128)).1 == die && !r.ways.isEmpty
  areaBytes * areas.eraseDups.length + (s.homes.lines.filter here).foldl (fun n r => n + 128 * (1 + r.ways.length)) 0

/-- Whether the SRAM of a line's home die has no room for another line with two ways, so that it evicts one. -/
def sramFull (s : State) (line : Nat) : Bool := decide (sramBytes < sramUsed s line + 384)

/-- Home SRAM evicts a line: its ways, shadows too, go to the spill area, and where that is full the overflow is resolved (R293, R298). -/
def evictLine : Nat → Nat → State → State
  | 0, _, s => s
  | n + 1, line, s =>
    let r := reclaim s (lineRec s line)
    let s := setLineRec r s
    if r.ways.isEmpty then s
    else if spillUsed s line + r.ways.length ≤ spillSlots then setLineRec { r with evicted := true, ways := [], spilled := r.versions } s
    else evictLine n line (relieveOverflow line 0 s)

/-- Bytes of a line written to C as a commit of the line by an irrevocable launch or the host (R249, R299): a fresh stamp, and room for
the prior. The readers that a read-checked line lists are not doomed: no flip takes place (DESIGN CHOICE, log entry 80).
(DEDUCED, log entry 25.) -/
def commitDirect (line : Nat) (d : LineData) (mask : LineMask) (who : Nat × BitVec 12) (s : State) : State × HomeRes :=
  let pkg := linePkg line
  match nextStamp pkg s with
  | (s, c) =>
    let s := makeRoom (overflowRounds s) line who.1 (fun t => priorNeeded t pkg c) s
    if !writerLive s who.1 pkg then (s, .dropped)
    else
      let old := memLine s line
      (commitLine line (lineMerge old d mask) (clearPoison (lineRec s line).poison mask) c who mask s, .applied old)

/-- A write that acts on C at once: an escape write, or one of a launch without a hallmark in the package (R220). -/
def plainWrite (launch line : Nat) (f : LineData → LineData) (mask reads : LineMask) (s : State) : State × HomeRes :=
  let r := lineRec s line
  if poisonMet r.poison reads then (doomData launch line s, .dropped)
  else
    let old := memLine s line
    (setLineRec (snoopHost { r with poison := clearPoison r.poison mask }) (setMemLine line (f old) s), .applied old)

/-- The write of an irrevocable launch to C (R299); a shadow it wrote before stays and follows. What the write reads of the line is what
the launch reads of it, its own way first (R201, R295). (DESIGN CHOICE, log entry 80.) -/
def directWrite (x : HallEntry) (line : Nat) (f : LineData → LineData) (mask reads : LineMask) (s : State) : State × HomeRes :=
  match versionOf s x.launch false 0 line with
  | (base, bad) =>
    if poisonMet bad reads then (doomData x.launch line s, .dropped)
    else
      let own := fun (w : Way) => w.kind == .shadow && w.hall == x.hall && !w.ghost
      let r := lineRec s line
      let upd := fun (w : Way) => if own w then { w with data := f w.data, poison := clearPoison w.poison mask } else w
      match commitDirect line (f base) mask (x.launch, x.hall) (setLineRec { r with ways := r.ways.map upd, spilled := r.spilled.map upd } s) with
      | (s', .applied _) => (s', .applied base)
      | out => out

/-- The launch's way replaced, or taken: filled with what the launch would read (R291). (DEDUCED, log entry 26.) -/
def shadowWrite (x : HallEntry) (sec : Bool) (line : Nat) (f : LineData → LineData) (mask reads : LineMask) (s : State) :
    State × HomeRes :=
  let r := lineRec s line
  match ownWay s r x.launch sec with
  | some w =>
    if poisonMet w.poison reads then (doomData x.launch line s, .dropped)
    else
      let upd := fun (v : Way) => if v = w then { v with data := f w.data, poison := clearPoison w.poison mask } else v
      (setLineRec { r with ways := r.ways.map upd, spilled := r.spilled.map upd } s, .applied w.data)
  | none =>
    match versionOf s x.launch sec 0 line with
    | (base, bad) =>
      if poisonMet bad reads then (doomData x.launch line s, .dropped)
      else
        let takes := fun (t : State) => writerLive t x.launch x.pkg && !(launchOf t x.launch).irrev
        let s := makeRoom (overflowRounds s) line x.launch takes s
        if !writerLive s x.launch x.pkg then (s, .dropped)
        else if (launchOf s x.launch).irrev then directWrite x line f mask reads s
        else
          let r := lineRec s line
          let w : Way := ⟨.shadow, x.hall, sec, 0, 0, f base, clearPoison bad mask⟩
          (setLineRec (r.withVersions (w :: r.versions)) s, .applied base)

/-- The conflict rules at a home (R296, R299, R308) for a write of launch X to a folded line. (DEDUCED, log entry 25.) -/
def transactWrite (launch : Nat) (sec : Bool) (line : Nat) (f : LineData → LineData) (mask reads : LineMask) (s : State) :
    State × HomeRes :=
  let pkg := linePkg line
  let r := lineRec s line
  match hallOf s launch pkg with
  | none => plainWrite launch line f mask reads s
  | some x =>
    let others := r.versions.filter (fun w => w.kind == .shadow && !w.ghost && w.hall != x.hall)
    let live := others.filterMap (fun w => (hallEntry s pkg w.hall).bind (fun h => if snapshotLive h then some h else none))
    if !snapshotLive x then (s, .dropped)
    else if x.state = .irrevocable then
      if live.any (fun h => h.state == .ready || h.state == .committing) then (s, .held)
      else directWrite x line f mask reads (live.foldl (fun s h => doomFor h.launch 1 pkg (launch, x.hall) s) s)
    else if sec || (ownWay s r launch sec).isSome then shadowWrite x sec line f mask reads s
    else if !stampLe r.stamp x.start then (doomFor launch 1 pkg r.committer s, .dropped)
    else
      match live with
      | [] => shadowWrite x sec line f mask reads s
      | y :: _ =>
        if y.state = .ready ∨ y.state = .committing then (doomFor launch 1 pkg (y.launch, y.hall) s, .dropped)
        else if x.age.toNat < y.age.toNat then
          shadowWrite x sec line f mask reads (doomFor y.launch 1 pkg (launch, x.hall) s)
        else (doomFor launch 1 pkg (y.launch, y.hall) s, .dropped)

/-! ## Readers (R297) -/

/-- Whether a hallmark of a package belongs to a launch that has not ended. -/
def readerLive (s : State) (pkg : BitVec 7) (h : BitVec 12) : Bool :=
  match hallEntry s pkg h with
  | some e => snapshotLive e
  | none => false

/-- What any access to a line brings about: a line that home SRAM has evicted comes back (R293), readers that have ended leave its
list, and the overflow bit goes with the last (R297). -/
def pruneReaders (line : Nat) (s : State) : State :=
  let r := lineRec s line
  if r.readers.isEmpty && !r.overflow && !r.evicted then s
  else
    let live := r.readers.filter (readerLive s (linePkg line))
    let r := { r with readers := live, overflow := r.overflow && !live.isEmpty, beyond := if live.isEmpty then [] else r.beyond
                      evicted := false }
    setLineRec (r.withVersions r.versions) s

/-- A launch enters the reader list of a line, or sets its overflow bit (R297). -/
def recordReader (launch : Nat) (line : Nat) (s : State) : State :=
  match hallOf s launch (linePkg line) with
  | none => s
  | some h =>
    let r := lineRec s line
    if r.readers.contains h.hall then s
    else if r.readers.length < 4 then setLineRec { r with readers := r.readers ++ [h.hall] } s
    else setLineRec { r with overflow := true, beyond := h.hall :: r.beyond.filter (fun x => x != h.hall) } s

/-! ## Accesses at the home -/

/-- The window through which a launch last wrote a line: its number is hashed as that window names it (R228, R309). -/
def noteWindow (line pa : Nat) (s : State) : State :=
  if (lineRec s line).via = paCls pa then s else setLineRec { lineRec s line with via := paCls pa } s

/-- A write applied at its home, with the bytes it reads: the line is folded, escape and host memory change C at once (R220,
R248), every other class follows the transaction rules; a reading write of a read-checked line enters its reader list
(R201). -/
def applyWrite (launch : Nat) (sec : Bool) (cls : BitVec 2) (line : Nat) (f : LineData → LineData) (mask reads : LineMask)
    (s : State) : State × HomeRes :=
  let s := pruneReaders line (foldLine line s)
  if isHostPa (line * 128) then plainWrite launch line f mask reads s
  else if cls = 1 then
    if writerLive s launch (linePkg line) then plainWrite launch line f mask reads s else (s, .dropped)
  else transactWrite launch sec line f mask reads (if cls = 2 ∧ reads ≠ 0 then recordReader launch line s else s)

/-- Under which launch the home judges bytes that a copy held unpushed: escape bytes have performed and are committed state, which
no abort undoes (R196, R306). -/
def Piece.judged (d : Piece) : Nat := if d.cls = 1 then 0 else d.launch

/-- Unpushed bytes of a dropped copy applied at the home (R226). -/
def applyDirty (d : Piece) (s : State) : State :=
  match applyWrite d.judged d.sec d.cls d.line (fun old => lineMerge old d.data d.mask) d.mask 0 s with
  | (_, .held) => holdPiece d s
  | (s', _) => s'

/-- The invalidations of an applied write, and the unpushed bytes that they met (R226, R242). -/
def invalidateCopies (line : Nat) (s : State) : State :=
  match dropCopies line s with
  | (s, dirty) =>
    let s := dirty.foldl (fun s d => applyDirty d s) s
    setLineRec { lineRec s line with sharers := 0 } s

/-- A write at its home with its invalidations (R226, R242). -/
def homeWrite (launch : Nat) (sec : Bool) (cls : BitVec 2) (line : Nat) (f : LineData → LineData) (mask reads : LineMask)
    (s : State) : State × HomeRes :=
  match applyWrite launch sec cls line f mask reads (noteHomeTraffic line (touchPa launch (line * 128) s)) with
  | (s, .applied old) => (invalidateCopies line s, .applied old)
  | r => r

/-- Unpushed bytes that have come to their home, with their invalidations: a push by eviction or by a drain (R235). -/
def homePiece (d : Piece) (s : State) : State :=
  if heldBytes s d.core d.launch d.line then holdPiece d s
  else
    match homeWrite d.judged d.sec d.cls d.line (fun old => lineMerge old d.data d.mask) d.mask 0 (touchPa d.launch (d.line * 128) s) with
    | (_, .held) => holdPiece d s
    | (s', _) => s'

/-- What a home answers to a read: a line with its poisoned doublewords, or that the read stalls or has met poison. -/
inductive ReadRes where
  | data (d : LineData) (poison : BitVec 16)
  | stall
  | poison
  deriving DecidableEq, Repr

/-- A read of bytes of a line at its home (R291, R297, R301, R389). (DEDUCED, log entry 26.) -/
def homeRead (launch : Nat) (sec : Bool) (cls : BitVec 2) (line : Nat) (reads : LineMask) (s : State) : State × ReadRes :=
  if readStalls s launch line then (s, .stall)
  else
    let s := pruneReaders line (foldLine line (noteHomeTraffic line (touchPa launch (line * 128) s)))
    let s := if cls = 2 then recordReader launch line s else s
    match versionOf s launch sec cls line with
    | (d, bad) => if poisonMet bad reads then (doomData launch line s, .poison) else (s, .data d bad)

end Sys2Proof.Machine
end

