-- ==== Sys2Proof/Machine/PoolOps.lean ====
section
/-! DEFINITION. The pool (R22, R79, R151-R153, R204) and its buffers (R137-R139, R165-R168). -/

namespace Sys2Proof.Machine

/-! ## Partition (R22, R151) -/

def partRF (p : DWord) : Nat := fieldN p 0 7
def partSP (p : DWord) : Nat := fieldN p 7 7
def partAC (p : DWord) : Nat := fieldN p 14 7
def partCA (p : DWord) : Nat := fieldN p 21 7

/-- Whether a value is legal for `PARTW` (R22). -/
def partwLegal (p : DWord) : Bool :=
  decide (partRF p + partSP p + partAC p + partCA p = 64) && decide (2 ≤ partRF p) && fieldN p 28 36 == 0

/-- The use of a bank: 0 RF, 1 SP, 2 AC, 3 CA, assigned in that order (R22). -/
def bankUse (p : DWord) (bank : Nat) : Nat :=
  if bank < partRF p then 0
  else if bank < partRF p + partSP p then 1
  else if bank < partRF p + partSP p + partAC p then 2
  else 3

/-- The first pool byte of the AC banks (R109). -/
def acBase (s : State) : Nat := (partRF s.core.sys.partw + partSP s.core.sys.partw) * 2048

/-- The bytes of the AC banks. -/
def acSize (s : State) : Nat := partAC s.core.sys.partw * 2048

/-! ## Bytes -/

/-- What an unlisted pool byte reads as: 0 at launch start (DESIGN CHOICE, log entry 11), and a free value in a bank whose contents a
change of use has left undefined (R22, R153). (DESIGN CHOICE, log entry 3.) -/
def poolDefault (s : State) (a : Nat) : Byte :=
  let g := vgetD s.core.pool.bankGen (a / 2048) 0
  if g = 0 then 0 else Config.freePoolByte g a

/-- A byte of the pool. -/
def poolByte (s : State) (a : Nat) : Byte :=
  match s.core.pool.cells.find? (fun c => c.1 == a) with
  | some c => c.2
  | none => poolDefault s a

/-- Bytes of the pool. -/
def poolRead (s : State) (a n : Nat) : List Byte := (List.range n).map (fun i => poolByte s (a + i))

/-- An entry put into a rising list of cells. -/
def cellsPut (a : Nat) (v : Byte) : List Host.Cell → List Host.Cell
  | [] => [(a, v)]
  | (x, b) :: r => if a < x then (a, v) :: (x, b) :: r else if a = x then (a, v) :: r else (x, b) :: cellsPut a v r

/-- An entry taken out of a rising list of cells. -/
def cellsDrop (a : Nat) (l : List Host.Cell) : List Host.Cell := l.filter (fun c => c.1 != a)

/-- A pool byte written: a zero in a bank that reads 0 where unlisted is not listed. -/
def poolSet (a : Nat) (v : Byte) (s : State) : State :=
  { s with core.pool.cells :=
      if vgetD s.core.pool.bankGen (a / 2048) 0 = 0 ∧ v = 0 then cellsDrop a s.core.pool.cells
      else cellsPut a v s.core.pool.cells }

/-- Pool bytes written. -/
def poolWrite (a : Nat) : List Byte → State → State
  | [], s => s
  | b :: r, s => poolWrite (a + 1) r (poolSet a b s)

/-- Banks whose use changes become undefined: their bytes leave the list and their generation grows (R22, R153).
(DESIGN CHOICE, log entry 3.) -/
def repartition (p : DWord) (s : State) : State :=
  let old := s.core.sys.partw
  let changed := fun (b : Nat) => bankUse old b != bankUse p b
  let gen := s.core.pool.bankGen
  { s with
    core.sys.partw := p
    core.pool.cells := s.core.pool.cells.filter (fun c => !changed (c.1 / 2048))
    core.pool.bankGen := Vector.ofFn (fun i => if changed i.val then s.fresh + 1 else vgetD gen i.val 0)
    core.pool.placed := s.core.pool.placed.filter (fun a => !changed (a / 2048))
    core.pool.unchecked := s.core.pool.unchecked.filter (fun a => !changed (a / 2048))
    fresh := s.fresh + 1 }

/-! ## Buffers (R137, R165-R167) -/

def bufOf (s : State) (n : Nat) : Buffer := vgetD s.core.pool.bufs n Buffer.none

def setBuf (n : Nat) (b : Buffer) (s : State) : State := { s with core.pool.bufs := s.core.pool.bufs.setIfInBounds n b }

/-- Declared buffers that hold a byte of [a, a+n). -/
def buffersAt (s : State) (a n : Nat) : List Nat :=
  (List.range 32).filter (fun i =>
    let b := bufOf s i
    b.declared && decide (a < b.base + b.size) && decide (b.base < a + n))

/-- Whether a word (by its byte address, a multiple of 4) is placed. -/
def isPlaced (s : State) (a : Nat) : Bool := s.core.pool.placed.contains (a / 4 * 4)

/-- Placed words of a buffer, in bytes: `FILL` (R165). -/
def bufFill (s : State) (n : Nat) : Nat :=
  let b := bufOf s n
  4 * (s.core.pool.placed.filter (fun a => decide (b.base ≤ a) && decide (a < b.base + b.size))).length

/-- All the placed bits of a buffer cleared (R165). -/
def clearPlaced (n : Nat) (s : State) : State :=
  let b := bufOf s n
  let keep := fun (a : Nat) => !(decide (b.base ≤ a) && decide (a < b.base + b.size))
  { s with core.pool.placed := s.core.pool.placed.filter keep, core.pool.unchecked := s.core.pool.unchecked.filter keep }

/-- All the placed bits of a buffer set (R165). -/
def setAllPlaced (n : Nat) (s : State) : State :=
  let b := bufOf s n
  let s := clearPlaced n s
  { s with core.pool.placed := s.core.pool.placed ++ (List.range (b.size / 4)).map (fun i => b.base + 4 * i) }

/-- What a buffer state makes of an access (R167). -/
inductive BufAnswer where
  | allowed | fault | wait
  deriving DecidableEq, Repr

/-- A sequencer load against one buffer (R167). -/
def bufSeqLoad (b : Buffer) : Bool :=
  match b.state with
  | .empty | .filling => false
  | .full | .draining => true

/-- A sequencer store against one buffer (R167). -/
def bufSeqStore (b : Buffer) : Bool :=
  match b.state with
  | .empty | .full => true
  | .filling | .draining => false

/-- The words that bytes [a, a+n) lie in, by their byte addresses. -/
def wordsOf (a n : Nat) : List Nat := (List.range ((a % 4 + n + 3) / 4)).map (fun k => a / 4 * 4 + 4 * k)

/-- A local engine read of bytes [a, a+n) against one buffer (R167): in a buffer that a remote writer fills, a word not
placed yet is waited for. -/
def bufEngineRead (s : State) (i a n : Nat) : BufAnswer :=
  let b := bufOf s i
  match b.state with
  | .empty => .fault
  | .filling =>
    if !b.remoteWriter then .fault
    else if (wordsOf a n).all (isPlaced s) then .allowed else .wait
  | .full | .draining => .allowed

/-- A local engine write of a word against one buffer (R165, R167). -/
def bufEngineWrite (s : State) (i a : Nat) : Bool :=
  match (bufOf s i).state with
  | .empty => true
  | .filling => !isPlaced s a
  | .full | .draining => false

/-- After a placement: a buffer that was empty is filling with its writer kind, and a buffer whose every word is placed
and checked is full (R166). -/
def afterPlacement (i : Nat) (remote : Bool) (s : State) : State :=
  let b := bufOf s i
  let b := if b.state = .empty then { b with state := .filling, remoteWriter := remote } else b
  let s := setBuf i b s
  if b.state = .filling && bufFill s i == b.size && b.chk == 0 then setBuf i { b with state := .full } s else s

/-- Words placed in the pool, with their placed bits and the buffers' transitions; `unchecked` as R164. -/
def placeBytes (a : Nat) (bs : List Byte) (remote unchecked : Bool) (s : State) : State :=
  let bufs := buffersAt s a bs.length
  let words := (List.range ((bs.length + 3) / 4)).map (fun k => a / 4 * 4 + 4 * k)
  let inBuf := words.filter (fun w => bufs.any (fun i => decide ((bufOf s i).base ≤ w) && decide (w < (bufOf s i).base + (bufOf s i).size)))
  let s := poolWrite a bs s
  let s := { s with
    core.pool.placed := s.core.pool.placed ++ inBuf.filter (fun w => !s.core.pool.placed.contains w)
    core.pool.unchecked := if unchecked then s.core.pool.unchecked ++ words else s.core.pool.unchecked }
  bufs.foldl (fun s i => afterPlacement i remote s) s

/-- A reader starts in a buffer (R166): full or draining, at most seven; a filling buffer keeps its state. -/
def readerStart (i : Nat) (s : State) : State :=
  let b := bufOf s i
  match b.state with
  | .full => setBuf i { b with state := .draining, readers := 1 } s
  | .draining => setBuf i { b with readers := b.readers + 1 } s
  | _ => s

/-- A reader completes (R166). -/
def readerDone (i : Nat) (s : State) : State :=
  let b := bufOf s i
  match b.state with
  | .draining => if b.readers ≤ 1 then setBuf i { b with state := .full, readers := 0 } s
    else setBuf i { b with readers := b.readers - 1 } s
  | _ => s

/-! ## Sequencer accesses (R79, R80, R109) -/

/-- What a pool check answers: the fault and its address, or nothing. -/
abbrev PoolCheck := Option (Cause × DWord)

/-- The checks of R79 in their order: address, alignment, bank, buffer state. -/
def poolCheck (s : State) (a : DWord) (size : Nat) (load store : Bool) : PoolCheck :=
  if a.toNat / 2 ^ 17 ≠ 0 then some (.pool, a)
  else if a.toNat % size ≠ 0 then some (.alignment, a)
  else
    let use := bankUse s.core.sys.partw (a.toNat / 2048)
    let window := s.core.seq.mode == .handler && decide (a.toNat + size ≤ 2048)
    if ¬ (use = 1 ∨ use = 2 ∨ window) then some (.pool, a)
    else if (buffersAt s a.toNat size).any (fun i =>
        (load && !bufSeqLoad (bufOf s i)) || (store && !bufSeqStore (bufOf s i))) then some (.buffer, a)
    else none

/-- The checks of `VLDA` and `VSTA` (R79, R109): step 3 is the bound of the AC banks, its `TADDR` the offset; the other steps report
the pool byte address. (DEDUCED, log entry 33.) -/
def acCheck (s : State) (o : DWord) (load : Bool) : PoolCheck :=
  let a := dw (acBase s) + o
  if a.toNat / 2 ^ 17 ≠ 0 then some (.pool, a)
  else if a.toNat % 64 ≠ 0 then some (.alignment, a)
  else if acSize s < o.toNat + 64 then some (.pool, o)
  else if (buffersAt s a.toNat 64).any (fun i =>
      if load then !bufSeqLoad (bufOf s i) else !bufSeqStore (bufOf s i)) then some (.buffer, a)
  else none

/-- A scalar of a kind from its bytes (R78): size by the low two bits, zero extension from kind 4 on. -/
def loadValue (kind : BitVec 3) (bs : List Byte) : DWord :=
  let x := leNat bs
  match kind.toNat with
  | 0 => (BitVec.ofNat 8 x).signExtend 64
  | 1 => (BitVec.ofNat 16 x).signExtend 64
  | 2 => (BitVec.ofNat 32 x).signExtend 64
  | _ => BitVec.ofNat 64 x

/-- Size of an access kind (R78). -/
def kindSize (kind : BitVec 3) : Nat := 2 ^ (kind.toNat % 4)

/-- The low bytes of a register, as a store writes them. -/
def storeBytes (size : Nat) (x : DWord) : List Byte := leBytes size x.toNat

/-- The 64 bytes of a vector register: lane i in bytes 4i to 4i + 3 (R109). -/
def vregBytes (v : VReg) : List Byte := v.toList.flatMap (fun w => leBytes 4 w.toNat)

/-- Lane `i` of 64 bytes. -/
def bytesLane (bs : List Byte) (i : Nat) : Word := BitVec.ofNat 32 (leNat ((bs.drop (4 * i)).take 4))

/-- A vector register with the lanes of a mask taken from another. -/
def laneMerge (mask : BitVec 16) (old new : VReg) : VReg :=
  Vector.ofFn (fun i => if mask.getLsbD i.val then new[i] else old[i])

/-- A vector register from a function of the lane. -/
def vregOf (f : Nat → Word) : VReg := Vector.ofFn (fun i => f i.val)

/-- Lane `i` of a vector register. -/
def lane (v : VReg) (i : Nat) : Word := vgetD v i 0

end Sys2Proof.Machine
end

