-- ==== Sys2Proof/Machine/RingOps.lean ====
section
/-! DEFINITION. Requests on the rings as their source sees them (R360, R363, R365, R366): sequence numbers, direction, and
the copy the source station keeps until the answer. -/

namespace Sys2Proof.Machine

/-- What a source and a target keep of one another. -/
def ringPair (s : State) (src dst : BitVec 7) : RingPair :=
  (s.net.ringPairs.find? (fun p => p.src == src && p.dst == dst)).getD ⟨src, dst, 0, 0, []⟩

def setRingPair (p : RingPair) (s : State) : State :=
  { s with net.ringPairs := p :: s.net.ringPairs.filter (fun q => !(q.src == p.src && q.dst == p.dst)) }

/-- The stations of the rings: a package by its number, the bridge of a pod as the ninth station of the pod's ring at 128 + pod, and as a
station of the hall ring at 256 + pod (R368). The data plane of the link on which a station sends in a direction: mesh links are numbered
below 2^40 (see `meshLink`). -/
def ringLink (port : Nat) (ccw : Bool) : Nat := 2 ^ 40 + port * 2 + (if ccw then 1 else 0)

/-- Its control plane. -/
def ringControl (port : Nat) (ccw : Bool) : Nat := 2 ^ 41 + port * 2 + (if ccw then 1 else 0)

/-- The station that sends on a ring link, and the direction. -/
def linkPort (l : Nat) : Nat := l % 2 ^ 40 / 2
def linkCcw (l : Nat) : Bool := l % 2 == 1

/-- A link in its default state: full, trained, idle. -/
def LinkRec.start (l : Nat) : LinkRec where
  link := l
  power := .full
  failed := false
  narrowed := false
  detoured := false
  fails := 0
  lastTraffic := 0
  frame := 0
  keyGen := 0
  keyStart := 0
  oldKey := false
  session := true
  openFrame := []
  openAt := 0
  closed := 0
  fwd := ⟨0, [], [], 0⟩
  back := ⟨0, [], [], 0⟩
  frames := []
  slot := 0

/-- The record of a link, or what a link in its default state would hold. (DESIGN CHOICE, log entry 53.) -/
def linkRec (s : State) (l : Nat) : LinkRec :=
  (s.net.links.find? (fun r => r.link == l)).getD (LinkRec.start l)

def setLink (r : LinkRec) (s : State) : State := { s with net.links := r :: s.net.links.filter (fun x => x.link != r.link) }

/-- Failures in a row after which a link retrains: of one frame four (R362), of one flit the first and four failed replays (R342). -/
def failLimit (l : Nat) : Nat := if 2 ^ 40 ≤ l then 4 else 5

/-- A link that has come to its retrain. -/
def mustRetrain (r : LinkRec) : Bool := decide (failLimit r.link ≤ r.fails)

/-! ## Stations and ways (R363, R368, R369) -/

/-- The pod of a station. -/
def portPod (port : Nat) : Nat := if port < 128 then port / 8 else port % 128

/-- Whether a package is in the system. -/
def present (s : State) (p : Nat) : Bool := decide (p < 128) && s.health.packages.getLsbD p

/-- Whether a pod has a package in the system. -/
def podPresent (s : State) (pod : Nat) : Bool := (List.range 8).any (fun i => present s (8 * pod + i))

/-- The stations of the ring that a station is on, clockwise: the present packages of a pod and, when the system has other pods, its
bridge behind position 7; or the bridges of the pods. -/
def ringPorts (s : State) (port : Nat) : List Nat :=
  if 256 ≤ port then ((List.range 16).filter (podPresent s)).map (fun d => 256 + d)
  else
    let pod := portPod port
    ((List.range 8).map (fun i => 8 * pod + i)).filter (present s)
      ++ (if (List.range 16).any (fun d => d != pod && podPresent s d) then [128 + pod] else [])

/-- The station beside another on its ring. -/
def ringBeside (s : State) (port : Nat) (ccw : Bool) : Nat :=
  let l := ringPorts s port
  let i := l.findIdx (fun x => x == port)
  l.getD ((if ccw then i + l.length - 1 else i + 1) % l.length) port

/-- Whether a station has been lost. -/
def portLost (s : State) (port : Nat) : Bool := decide (port < 128) && s.net.lostStations.contains (BitVec.ofNat 7 port)

/-- Where a flit goes from a station in a direction: the station it comes to, and in which direction it then travels. In front of a lost
station the two rings are joined into one loop: the flit goes back the other way (R369). -/
def ringNext (s : State) (port : Nat) (ccw : Bool) : Nat × Bool :=
  let x := ringBeside s port ccw
  if portLost s x then (ringBeside s port (!ccw), !ccw) else (x, ccw)

/-- The links of a way from a station to another: stations with the direction in which each sends; none where it does not come there. -/
def ringWay (s : State) : Nat → Nat → Nat → Bool → Option (List (Nat × Bool))
  | 0, _, _, _ => none
  | n + 1, a, b, ccw =>
    if a = b then some []
    else
      let x := ringNext s a ccw
      (ringWay s n x.1 b x.2).map (fun l => (a, x.2) :: l)

/-- The way from a station to another that sets out in a direction, through at most two rounds of the ring. -/
def ringPath (s : State) (a b : Nat) (ccw : Bool) : Option (List (Nat × Bool)) := ringWay s 40 a b ccw

/-- A link that has failed, or that retrains (R362). -/
def ringLinkOut (r : LinkRec) : Bool := r.failed || mustRetrain r

/-- Whether a way holds no link that is retraining or failed (R363). -/
def ringUsable (s : State) (way : List (Nat × Bool)) : Bool :=
  !way.any (fun x => ringLinkOut (linkRec s (ringLink x.1 x.2)) || ringLinkOut (linkRec s (ringControl x.1 x.2)))

/-- Flits that wait in a station's injection queue of a direction: its own that are in frames not yet released (R363). -/
def ringWaiting (s : State) (port : Nat) (ccw : Bool) : Nat :=
  let own := fun (l : Nat) => ((linkRec s l).openFrame.filter (fun f => f.own)).length
  own (ringLink port ccw) + own (ringControl port ccw)

/-- What a direction costs: hops and a quarter of what waits; none where it may not be chosen. -/
def ringCost (s : State) (a b : Nat) (ccw : Bool) : Option Nat :=
  (ringPath s a b ccw).bind (fun w => if ringUsable s w then some (w.length + (ringWaiting s a ccw + 3) / 4) else none)

/-- The direction of lower cost from a station to another of its ring, a tie going clockwise; none where both are out (R363). -/
def ringDir (s : State) (a b : Nat) : Option Bool :=
  match ringCost s a b false, ringCost s a b true with
  | none, none => none
  | none, some _ => some true
  | some _, none => some false
  | some x, some y => some (decide (y < x))

/-- The station on the ring of `port` at which a flit for a package leaves it: the package, or the bridge on the way to it (R368). -/
def ringGoal (port : Nat) (dst : BitVec 7) : Nat :=
  let pod := dst.toNat / 8
  if 256 ≤ port then 256 + pod else if portPod port = pod then dst.toNat else 128 + portPod port

/-- Unacknowledged requests of one package to another. -/
def ringOpen (s : State) (src dst : BitVec 7) : Nat := (s.net.ringReqs.filter (fun r => r.src == src && r.dst == dst)).length

/-- Whether a request travels on the control plane: reads, atomics, and messages; the rest are data flits (R361). -/
def RingBody.isControl : RingBody → Bool
  | .lineRead _ _ | .prepare _ | .flip _ | .semAdd _ _ _ | .barArrive _ => true
  | .store (.atomic _ _ _ _ _) _ _ => true
  | .store _ _ _ => false
  | .copyData e => !e.write

/-- The name of a request in frames. -/
def ringKey (r : RingReq) : Nat := (r.src.toNat * 128 + r.dst.toNat) * 65536 + r.seq.toNat

/-- The name of an answer in frames. -/
def answerKey (x : RingResp) : Nat := 2 ^ 32 + (x.src.toNat * 128 + x.dst.toNat) * 65536 + x.seq.toNat

/-- The first control slot from `n` on that a station may fill (R364): one of its own owner tag, or an unowned one. -/
def slotFrom (owner n : Nat) : Nat :=
  match (List.range 16).find? (fun k => (n + k) % 16 == owner || decide (9 ≤ (n + k) % 16)) with
  | some k => n + k
  | none => n

/-- The owner tag of a station: its position on the pod's ring, 8 of a bridge; on the hall ring its pod (R364, R368). -/
def ownerTag (port : Nat) : Nat := if port < 128 then port % 8 else if port < 256 then 8 else port - 256

/-- A flit put into the open frame of the link on which it leaves a station (R362), on the control plane in the next slot that the station
may fill (R364); traffic brings a data plane back to full width (R360). (DESIGN CHOICE, log entry 48.) -/
def putFlit (link key : Nat) (own : Bool) (s : State) : State :=
  let l := linkRec s link
  let s := setLink { l with openFrame := l.openFrame ++ [⟨key, own⟩], lastTraffic := s.now,
                            openAt := if (l.openFrame.length - l.closed) % 16 = 0 then s.now else l.openAt
                            slot := if link < 2 ^ 41 then l.slot else slotFrom (ownerTag (linkPort link)) l.slot + 1 } s
  if l.power = .full ∨ l.failed ∨ (l.narrowed ∧ l.power = .narrow) ∨ s.net.waking.contains l.link then s
  else { s with net.waking := l.link :: s.net.waking }

/-- A flit leaves a station in a direction. -/
def ringPut (port : Nat) (ccw control : Bool) (key : Nat) (own : Bool) (s : State) : State :=
  let d := (ringNext s port ccw).2
  putFlit (if control then ringControl port d else ringLink port d) key own s

/-- A request changed in its source station. -/
def setReq (r : RingReq) (s : State) : State :=
  { s with net.ringReqs := s.net.ringReqs.map (fun x => if ringKey x = ringKey r then r else x) }

/-- A request goes out from its source, for the first time or again, in a direction chosen then; where neither may be taken it waits at
the source (R363, R366). -/
def frameFlit (r : RingReq) (s : State) : State :=
  match ringDir s r.src.toNat (ringGoal r.src.toNat r.dst) with
  | none => s
  | some ccw =>
    ringPut r.src.toNat ccw r.body.isControl (ringKey r) true
      (setReq { r with ccw := ccw, refused := 0, sentAt := s.now, resendAt := none, sent := true, arrived := false } s)

/-- An answer enters a station on its way to the package that asked; where neither direction may be taken it takes the clockwise one, whose
frames wait. -/
def frameAnswer (port : Nat) (x : RingResp) (s : State) : State :=
  ringPut port ((ringDir s port (ringGoal port x.src)).getD false) x.control (answerKey x) true
    { s with net.ringResps := s.net.ringResps ++ [x] }

/-- A request enters its source station (R366): the next sequence number of the pair; beyond 1,024 unacknowledged
requests it waits there. -/
def ringSend (r : RingReq) (s : State) : State :=
  let p := ringPair s r.src r.dst
  let r := { r with seq := p.nextSeq, ccw := false, refused := 0, sentAt := s.now, resendAt := none, sent := false, arrived := false }
  let go := decide (ringOpen s r.src r.dst < 1024)
  let s := setRingPair { p with nextSeq := p.nextSeq + 1 } { s with net.ringReqs := s.net.ringReqs ++ [r] }
  if go then frameFlit r s else s

/-- A request of the modelled core. -/
def ownRequest (s : State) (cls : BitVec 2) (pa : Nat) (body : RingBody) : RingReq where
  src := corePkg s.core.id
  dst := paPkg pa
  seq := 0
  core := s.core.id
  ord := s.core.ord
  launch := s.core.launch
  sec := s.core.sec
  cls := cls
  pa := pa
  body := body
  ccw := false
  refused := 0
  sentAt := 0
  resendAt := none
  sent := false
  arrived := false
  stale := false
  performed := false

/-- The memory sequence number a request body stands for, when it is an access of a core. -/
def RingBody.memSeq : RingBody → Option Nat
  | .lineRead q _ => some q
  | .store _ _ q => some q
  | .semAdd _ _ q => some q
  | .copyData _ | .prepare _ | .flip _ | .barArrive _ => none

/-- Whether a request body writes memory. -/
def RingBody.isStore : RingBody → Bool
  | .store _ _ _ => true
  | _ => false

/-- Whether a request comes from the modelled core, wherever the core was when it sent it. -/
def isOwnReq (s : State) (r : RingReq) : Bool := r.launch == s.core.launch && r.sec == s.core.sec && r.ord == s.core.ord

/-- Whether a request has a memory sequence number of at most `q`. -/
def upTo (r : RingReq) (q : Nat) : Bool := match r.body.memSeq with | some x => decide (x ≤ q) | none => false

/-- Whether a posted write of the modelled core with a memory sequence number of at most `q` is not yet acknowledged
(R194). -/
def ringPosted (s : State) (q : Nat) : Bool := s.net.ringReqs.any (fun r => isOwnReq s r && r.body.isStore && upTo r q)

/-- Whether a request body performs only when it has been applied at its home: atomics, reductions, line regions (R193). -/
def RingBody.appliesAtHome : RingBody → Bool
  | .store (.atomic _ _ _ _ _) _ _ | .store (.red _ _ _ _) _ _ | .store (.redo _ _ _ _) _ _ | .store (.region _) _ _ => true
  | _ => false

/-- Whether an atomic, reduction or line region of the modelled core up to `q` is still on its way to a home in another package
(R193, R194). -/
def ringUnapplied (s : State) (q : Nat) : Bool := s.net.ringReqs.any (fun r => isOwnReq s r && r.body.appliesAtHome && upTo r q)

/-- Whether an unacknowledged write of the modelled core touches a line. -/
def ringWritesLine (s : State) (line : Nat) : Bool :=
  s.net.ringReqs.any (fun r => isOwnReq s r && r.body.isStore && paCanon r.pa / 128 == line)

/-- Whether a write of the modelled core's launch from its package is unacknowledged that touches bytes of a line: a later one waits
for it, since two requests may arrive in either order (R239, R363). -/
def ringOverlaps (s : State) (line : Nat) (m : LineMask) : Bool :=
  s.net.ringReqs.any (fun r => r.launch == s.core.launch && r.sec == s.core.sec && (r.src == corePkg s.core.id || isOwnReq s r)
    && paCanon r.pa / 128 == line &&
    (match r.body with
     | .store (.write cells) _ _ => cells.any (fun c => m.getLsbD (c.1 % 128))
     | .store _ _ _ => true
     | _ => false))

/-- Whether an atomic, reduction or line region of the modelled core travels to a home in another package and touches bytes
[pa, pa+n) (R199, R206, R212). -/
def ringTouches (s : State) (pa n : Nat) : Bool :=
  s.net.ringReqs.any (fun r => isOwnReq s r && r.body.appliesAtHome && paCanon r.pa / 128 == paCanon pa / 128 &&
    (match r.body with
     | .store (.atomic _ dbl _ _ _) _ _ => decide (r.pa % 128 < pa % 128 + n) && decide (pa % 128 < r.pa % 128 + (if dbl then 8 else 4))
     | _ => true))

/-- Whether a line read of the modelled core's layer is under way that may still be cached. -/
def ringReadsLine (s : State) (line : Nat) : Bool :=
  s.net.ringReqs.any (fun r => r.launch == s.core.launch && layerOf r.core == layerOf s.core.id && paCanon r.pa / 128 == line &&
    !r.stale && (match r.body with | .lineRead _ _ => true | _ => false))

/-- Line reads of the modelled core's layer are not to be cached when they come back: those of one line, or all (R199, R222). -/
def spoilReads (hit : Nat → Bool) (s : State) : State :=
  let upd := fun (r : RingReq) =>
    match r.body with
    | .lineRead _ _ => if layerOf r.core = layerOf s.core.id ∧ hit (paCanon r.pa / 128) then { r with stale := true } else r
    | _ => r
  { s with net.ringReqs := s.net.ringReqs.map upd }

end Sys2Proof.Machine
end

