-- ==== Sys2Proof/Machine/Hierarchy.lean ====
section
/-! DEFINITION. The levels between a core and the homes (R225-R227, R234-R238): the L1 and its scope records, the layer
caches, the hub line buffers, and what stores, loads, releases and acquires of the modelled core do in them. -/

namespace Sys2Proof.Machine

/-! ## Places and tags -/

/-- The line of a physical address. -/
def lineNo (pa : Nat) : Nat := paCanon pa / 128

/-- The byte of its line. -/
def lineOff (pa : Nat) : Nat := pa % 128

/-- Whether an address is homed in another package than the core's; host memory counts as local (R248). -/
def isRemote (s : State) (line : Nat) : Bool := !isHostPa (line * 128) && linePkg line != corePkg s.core.id

/-- The class of an address of the modelled core's launch; host memory is always of the escape class (R248). -/
def ownClass (s : State) (va : Nat) (pa : Nat) : BitVec 2 := if isHostPa pa then 1 else classOf (ownLaunch s) va

/-- The tag under which a store of a class by the modelled core's launch stands in a layer cache (R227). -/
def ownTag (s : State) (line : Nat) (cls : BitVec 2) : LayerTag :=
  if isRemote s line then (if cls = 1 then .remoteEscape else .remoteHall s.core.hall)
  else if cls = 1 then .committed (lineRec s line).stamp
  else .hall s.core.hall

/-- Whether two tags name the same kind of copy; of committed copies the stamp is a note, not a name. -/
def sameTag : LayerTag → LayerTag → Bool
  | .committed _, .committed _ => true
  | .hall a, .hall b => a == b
  | .remoteEscape, .remoteEscape => true
  | .remoteHall a, .remoteHall b => a == b
  | _, _ => false

/-- Whether a layer-cache line is a hit for the modelled core's launch (R227). -/
def layerHits (s : State) (cls : BitVec 2) (l : LayerLine) : Bool :=
  match l.tag with
  | .committed c => cls == 1 || stampLe c (startStamp s s.core.launch (linePkg l.line))
  | .hall h => cls != 1 && h == s.core.hall && l.ghost == s.core.sec
  | .remoteEscape => cls == 1
  | .remoteHall h => cls != 1 && h == s.core.hall && l.ghost == s.core.sec

/-! ## Layer caches -/

/-- Lines of the modelled core's layer that hold a line and hit, those tagged for the launch first. -/
def layerLines (s : State) (cls : BitVec 2) (line : Nat) : List LayerLine :=
  let ls := s.homes.layers.filter (fun l => l.layer == layerOf s.core.id && l.line == line && layerHits s cls l)
  ls.filter (fun l => match l.tag with | .committed _ => false | _ => true)
    ++ ls.filter (fun l => match l.tag with | .committed _ => true | _ => false)

/-- The copy of a tag in the modelled core's layer. -/
def layerGet (s : State) (line : Nat) (tag : LayerTag) : Option LayerLine :=
  s.homes.layers.find? (fun l => l.layer == layerOf s.core.id && l.line == line && sameTag l.tag tag && l.ghost == s.core.sec)

/-- The ordinal of a core in a launch, 0 where no member is placed there. -/
def ordAt (s : State) (launch : Nat) (sec : Bool) (id : CoreId) : BitVec 24 :=
  if id = s.core.id ∧ launch = s.core.launch then s.core.ord
  else (((launchOf s launch).members.find? (fun m => m.sec == sec && m.place == id)).map (fun m => m.ord)).getD 0

/-- A store to host memory whose CXL completion is outstanding (R248), on port OFF[13:12] of the accessing package (R372). -/
def noteCxl (pkg : BitVec 7) (line seq : Nat) (s : State) : State :=
  if isHostPa (line * 128) then { s with sched.host.cxl := s.sched.host.cxl ++ [(pkg, BitVec.ofNat 2 (line / 32), seq)] } else s

/-- Unpushed bytes leave a copy of a package for their home (R235): over the ring when that is another package. -/
def sendHome (pkg : BitVec 7) (d : Piece) (s : State) : State :=
  if !isHostPa (d.line * 128) && linePkg d.line != pkg then
    ringSend { ownRequest s d.cls (windowPa (lineRec s d.line)) (.store (.write (cellsOf d.line d.data d.mask)) 5 0) with
      src := pkg, core := d.core, launch := d.launch, sec := d.sec, ord := ordAt s d.launch d.sec d.core, performed := true } s
  else noteCxl pkg d.line 0 (homePiece d s)

/-- Sets and ways of a layer cache: 32 MiB of 128-byte lines (R2, R225). (DESIGN CHOICE, log entry 28.) -/
def layerSets : Nat := 16384
def layerWays : Nat := 16

/-- A copy put in place of the one with the same name, or beside those of its set, of which the oldest is evicted when all the
ways are taken (R225, R235). -/
def layerPut (l : LayerLine) (s : State) : State :=
  let same := fun (x : LayerLine) => x.layer == l.layer && x.line == l.line && sameTag x.tag l.tag && x.ghost == l.ghost
  let rest := s.homes.layers.filter (fun x => !same x)
  let set := rest.filter (fun x => x.layer == l.layer && x.line % layerSets == l.line % layerSets)
  match set[layerWays - 1]? with
  | none => { s with homes.layers := l :: rest }
  | some old =>
    old.pieces.foldl (fun s d => sendHome (l.layer.extractLsb' 8 7) d s)
      { s with homes.layers := l :: rest.filter (fun x => x != old) }

/-- Bytes written into the layer cache, unpushed (visibility point of layer scope, R234). -/
def layerWrite (line : Nat) (cls : BitVec 2) (data : LineData) (mask : LineMask) (s : State) : State :=
  let tag := ownTag s line cls
  let own := addUnpushed s.core.id s.core.launch mask
  match layerGet s line tag with
  | some l => layerPut { l with data := lineMerge l.data data mask, valid := l.valid ||| mask, unpushed := own l.unpushed } s
  | none => layerPut ⟨layerOf s.core.id, line, tag, s.core.sec, data, mask, own []⟩ s

/-- A remote-class copy that the storing launch may hit is updated in place, without becoming unpushed (R234). -/
def layerUpdate (line : Nat) (cls : BitVec 2) (data : LineData) (mask : LineMask) (s : State) : State :=
  if !isRemote s line then s
  else
    match layerGet s line (ownTag s line cls) with
    | some l => layerPut { l with data := lineMerge l.data data mask, valid := l.valid ||| mask } s
    | none => s

/-- The remote-class copies of the core's layer that satisfy a test lose their clean bytes, and line reads under way for such
lines will not be cached (R199, R238). -/
def dropRemote (hit : Nat → Bool) (s : State) : State :=
  let upd := fun (l : LayerLine) =>
    match l.tag with
    | .remoteEscape | .remoteHall _ => if l.layer == layerOf s.core.id && hit l.line then { l with valid := l.dirty } else l
    | _ => l
  spoilReads hit { s with homes.layers := (s.homes.layers.map upd).filter (fun l => l.valid != 0) }

/-! ## Hub line buffers (R235) -/

/-- The modelled core's lines of a hub. -/
def hubGet (s : State) (line : Nat) : Option HubLine :=
  s.homes.hubs.find? (fun h => h.hub == hubOf s.core.id && h.line == line && h.launch == s.core.launch && h.sec == s.core.sec)

/-- A hub line applied at its home, or sent to it: whether it has left the buffer. -/
def hubDrain (h : HubLine) (s : State) : State × Bool :=
  let pkg := h.hub.extractLsb' 6 7
  let s' := { s with homes.hubs := s.homes.hubs.filter (fun x => x != h) }
  if !isHostPa (h.line * 128) && linePkg h.line != pkg then (h.pieces.foldl (fun s d => sendHome pkg d s) s', true)
  else
    if h.unpushed.any (fun u => heldBytes s u.core u.launch h.line) then (s, false)
    else
    match homeWrite (if h.cls = 1 then 0 else h.launch) h.sec h.cls h.line (fun old => lineMerge old h.data h.mask) h.mask 0
        (touchPa h.launch (h.line * 128) s') with
    | (_, .held) => (s, false)
    | (s'', _) => (noteCxl pkg h.line 0 s'', true)

/-- What became of a store at its point. -/
inductive PointRes where
  | done
  | held
  deriving DecidableEq, Repr

/-- Lines of a hub line buffer (R225). -/
def hubLines : Nat := 256

/-- Bytes written into the core's hub line buffer, each with its owner: layer copies of the chiplet that the launch could hit
lose their clean bytes of the line (R226, R242), and a full buffer drains its oldest line before it takes another (R235). -/
def hubWrite (line : Nat) (cls : BitVec 2) (data : LineData) (own : List Unpushed) (s : State) : State × PointRes :=
  let chip := hubOf s.core.id
  let tag := ownTag s line cls
  let mine := fun (l : LayerLine) => sameTag l.tag tag || (match l.tag with | .committed _ => true | _ => false)
  let clean := fun (l : LayerLine) =>
    if l.layer.extractLsb' 2 13 == chip && l.line == line && !isRemote s line && mine l then { l with valid := l.dirty } else l
  let put := fun (s : State) => { s with homes.layers := (s.homes.layers.map clean).filter (fun l => l.valid != 0) }
  let join := fun (l : List Unpushed) => own.foldl (fun l u => addUnpushed u.core u.launch u.mask l) l
  match hubGet s line with
  | some h =>
    let h' := { h with data := lineMerge h.data data (unpushedMask own), unpushed := join h.unpushed }
    (put { s with homes.hubs := s.homes.hubs.map (fun x => if x = h then h' else x) }, .done)
  | none =>
    let room : State × Bool :=
      match (s.homes.hubs.filter (fun h => h.hub == chip)) with
      | old :: rest => if hubLines ≤ rest.length + 1 then hubDrain old s else (s, true)
      | [] => (s, true)
    match room with
    | (_, false) => (s, .held)
    | (s', true) =>
      (put { s' with homes.hubs := s'.homes.hubs ++ [⟨chip, line, s.core.launch, s.core.sec, cls, data, join []⟩] }, .done)

/-! ## Stores to their points (R234, R236) -/

/-- Bytes on their way: data, and who stored which of them. -/
structure Carried where
  data : LineData
  own : List Unpushed

/-- Later bytes over earlier ones. -/
def Carried.over (c : Carried) (data : LineData) (own : List Unpushed) : Carried :=
  ⟨lineMerge c.data data (unpushedMask own), own.foldl (fun l u => addUnpushed u.core u.launch u.mask l) c.own⟩

/-- Unpushed bytes of a line that the core's layer and hub hold for its launch, nearest over farther, taken out: its own bytes,
or those of every core of the launch. -/
def takeUnpushed (line : Nat) (cls : BitVec 2) (fromHub everyCore : Bool) (s : State) : State × Carried :=
  let pick := fun (l : List Unpushed) =>
    l.filter (fun u => u.launch == s.core.launch && (everyCore || u.core == s.core.id))
  let (s, c) : State × Carried :=
    match if fromHub then hubGet s line else none with
    | some h =>
      let own := pick h.unpushed
      let h' := { h with unpushed := dropUnpushed h.unpushed (unpushedMask own) }
      let hubs := s.homes.hubs.map (fun x => if x = h then h' else x)
      ({ s with homes.hubs := hubs.filter (fun x => !x.unpushed.isEmpty) }, ⟨h.data, own⟩)
    | none => (s, ⟨0, []⟩)
  match layerGet s line (ownTag s line cls) with
  | some l =>
    let own := pick l.unpushed
    if own.isEmpty then (s, c)
    else (layerPut { l with unpushed := dropUnpushed l.unpushed (unpushedMask own) } s, c.over l.data own)
  | none => (s, c)

/-- Bytes of a line that other launches have left unpushed in the core's layer (tag 0 only), and that a store overlaps: they go to
their home before it. -/
def settleForeign (line : Nat) (cls : BitVec 2) (mask : LineMask) (s : State) : State :=
  match layerGet s line (ownTag s line cls) with
  | some l =>
    let foreign := l.pieces.filter (fun d => d.launch != s.core.launch && d.mask &&& mask != 0)
    foreign.foldl (fun s d => sendHome (corePkg s.core.id) d s)
      (if foreign.isEmpty then s
       else layerPut { l with unpushed := dropUnpushed l.unpushed (foreign.foldl (fun m d => m ||| d.mask) 0) } s)
  | none => s

/-- A store of the modelled core carried to the point of a scope, with the bytes of the line that stand nearer. `seq` is its
place in program order. At its home the core's own bytes go under it, and those of other cores follow it (R226); to another
package, where two requests would not keep their order, one request carries them all. -/
def toPoint (line : Nat) (cls : BitVec 2) (data : LineData) (mask : LineMask) (scope : BitVec 3) (seq : Nat) (s : State) :
    State × PointRes :=
  let own := addUnpushed s.core.id s.core.launch mask []
  if scope.toNat ≤ 2 then (if mask = 0 then s else layerWrite line cls data mask s, .done)
  else if scope = 3 then
    match takeUnpushed line cls false true (settleForeign line cls mask s) with
    | (s', c) =>
      let c := c.over data own
      if c.own.isEmpty then (s, .done)
      else
        match hubWrite line cls c.data c.own s' with
        | (_, .held) => (s, .held)
        | (s', .done) => (layerUpdate line cls data mask s', .done)
  else
    match takeUnpushed line cls true (isRemote s line) s with
    | (s', taken) =>
      let c := taken.over data own
      let m := unpushedMask c.own
      if m = 0 then (s, .done)
      else if isRemote s line then
        if ringOverlaps s line m then (s, .held)
        else
          let s' := spoilReads (fun x => x == line) (layerUpdate line cls c.data m s')
          (ringSend { ownRequest s' cls (windowPa (lineRec s' line)) (.store (.write (cellsOf line c.data m)) scope seq) with
            performed := !taken.own.isEmpty } s', .done)
      else if heldBytes s s.core.id s.core.launch line then (s, .held)
      else
        match homeWrite s.core.launch s.core.sec cls line (fun old => lineMerge old c.data m) m 0 s' with
        | (_, .held) => (s, .held)
        | (s', _) => (noteCxl (corePkg s.core.id) line seq s', .done)

/-- The L1 line of a line. -/
def l1Get (s : State) (line : Nat) : Option L1Line := s.core.mq.l1.find? (fun l => l.line == line)

/-- The L1 holds a line in place of what it held of it. -/
def l1Set (l : L1Line) (s : State) : State :=
  { s with core.mq.l1 := s.core.mq.l1.filter (fun x => x.line != l.line) ++ [l] }

/-- The L1 no longer holds a line. -/
def l1Drop (line : Nat) (s : State) : State := { s with core.mq.l1 := s.core.mq.l1.filter (fun x => x.line != line) }

/-- Whether the core has an L1 (R225). -/
def hasL1 (s : State) : Bool := partCA s.core.sys.partw != 0

/-- A line of the L1 pushed to a scope: its unpushed bytes travel to the point of the scope, and the record grows (R237).
Nothing happens where the record already reaches it. -/
def pushLine (l : L1Line) (scope : BitVec 3) (seq : Nat) (s : State) : State × PointRes :=
  if scope ≤ l.scope && l.dirty == 0 then (s, .done)
  else
    let narrower := decide (l.scope < scope)
    if l.dirty = 0 && !narrower then (s, .done)
    else
      match toPoint l.line l.cls l.data l.dirty scope seq s with
      | (_, .held) => (s, .held)
      | (s', .done) => (l1Set { l with dirty := 0, scope := if narrower then scope else l.scope } s', .done)

/-- Every line of a list pushed in turn; stops at one that is held. -/
def pushLines (scope : BitVec 3) (seq : Nat) : List L1Line → State → State × PointRes
  | [], s => (s, .done)
  | l :: r, s =>
    match pushLine l scope seq s with
    | (s', .held) => (s', .held)
    | (s', .done) => pushLines scope seq r s'

/-- A line leaves the L1 by eviction: pushed to package scope when it holds unpushed bytes or a record narrower than
package (R236). -/
def l1Evict (l : L1Line) (seq : Nat) (s : State) : State × PointRes :=
  match (if l.dirty != 0 || decide (l.scope < 5) then pushLine l 5 seq s else (s, .done)) with
  | (s', .held) => (s', .held)
  | (s', .done) => (l1Drop l.line s', .done)

/-- Room for a line in the L1: four ways of `4 × CA` sets (R151, R236), the oldest of the set leaving. -/
def l1Room (line : Nat) (seq : Nat) (s : State) : State × PointRes :=
  let sets := 4 * partCA s.core.sys.partw
  let way := s.core.mq.l1.filter (fun l => l.line % sets == line % sets && l.line != line)
  if way.length < 4 then (s, .done)
  else
    match way with
    | l :: _ => l1Evict l seq s
    | [] => (s, .done)

/-- Recorded lines of a core without an L1 (R236). -/
def recordLines : Nat := 16

/-- The record of R236 for a core without an L1: line, class and scope of the last store narrower than reticle; the oldest is
pushed to package scope when one more comes than the record holds. -/
def recordScope (line : Nat) (cls : BitVec 2) (scope : BitVec 3) (seq : Nat) (s : State) : State × PointRes :=
  let others := s.core.mq.records.filter (fun r => r.1 != line)
  if 4 ≤ scope.toNat then ({ s with core.mq.records := others }, .done)
  else if others.length < recordLines then ({ s with core.mq.records := others ++ [(line, cls, scope)] }, .done)
  else
    match others with
    | (l, c, _) :: rest =>
      match toPoint l c 0 0 5 seq s with
      | (_, .held) => (s, .held)
      | (s', .done) => ({ s' with core.mq.records := rest ++ [(line, cls, scope)] }, .done)
    | [] => (s, .done)

/-- A store of the modelled core performs (R236): into the L1, its line's unpushed bytes travelling with it at layer
scope or wider; without an L1 into the layer cache at least. A remote-class copy follows whatever the scope (R234). -/
def performStore (line : Nat) (cls : BitVec 2) (data : LineData) (mask : LineMask) (scope : BitVec 3) (seq : Nat)
    (s : State) : State × PointRes :=
  if hasL1 s then
    match l1Room line seq s with
    | (_, .held) => (s, .held)
    | (s', .done) =>
      let l := (l1Get s' line).getD ⟨line, cls, 0, 0, 0, 7⟩
      let l := { l with data := lineMerge l.data data mask, valid := l.valid ||| mask, dirty := l.dirty ||| mask, scope := scope }
      if scope.toNat ≤ 1 then (layerUpdate line cls data mask (l1Set l s'), .done)
      else
        match toPoint line cls l.data l.dirty scope seq s' with
        | (_, .held) => (s, .held)
        | (s', .done) => (l1Set { l with dirty := 0 } s', .done)
  else
    match toPoint line cls data mask scope seq s with
    | (_, .held) => (s, .held)
    | (s', .done) =>
      match recordScope line cls scope seq s' with
      | (_, .held) => (s, .held)
      | r => r

/-- Every unpushed byte of a line of the modelled core, wherever it stands, pushed to its home (R199, R206, R212); the L1
copy is then invalidated. -/
def flushLine (line : Nat) (cls : BitVec 2) (seq : Nat) (s : State) : State × PointRes :=
  let (d, m) : LineData × LineMask := match l1Get s line with | some l => (l.data, l.dirty) | none => (0, 0)
  match toPoint line cls d m 5 seq s with
  | (_, .held) => (s, .held)
  | (s', .done) => (l1Drop line s', .done)

/-! ## Releases and acquires (R237, R238) -/

/-- One recorded line of a core without an L1 pushed to a scope, where its record is narrower (R236, R237). -/
def pushRecord (scope : BitVec 3) (seq : Nat) (r : State × PointRes) (x : Nat × BitVec 2 × BitVec 3) : State × PointRes :=
  match r with
  | (s, .held) => (s, .held)
  | (s, .done) =>
    if scope ≤ x.2.2 then (s, .done)
    else
      match toPoint x.1 x.2.1 0 0 scope seq s with
      | (_, .held) => (s, .held)
      | (s', .done) =>
        let upd := fun (r : Nat × BitVec 2 × BitVec 3) => if r.1 = x.1 then (r.1, r.2.1, scope) else r
        ({ s' with core.mq.records := (s'.core.mq.records.map upd).filter (fun r => r.2.2.toNat < 4) }, .done)

/-- The push of a release at a scope: every line recorded narrower, in the L1 or in the records of a core without one. -/
def releasePush (scope : BitVec 3) (seq : Nat) (s : State) : State × PointRes :=
  if hasL1 s then pushLines scope seq (s.core.mq.l1.filter (fun l => decide (l.scope < scope))) s
  else s.core.mq.records.foldl (pushRecord scope seq) (s, .done)

/-- An acquire at a scope (R238). -/
def acquire (scope : BitVec 3) (s : State) : State :=
  let s := if 2 ≤ scope.toNat then { s with core.mq.l1 := s.core.mq.l1.map (fun l => { l with valid := l.dirty }) } else s
  if 6 ≤ scope.toNat then dropRemote (fun _ => true) s else s

/-- The L1 written back and emptied, and every record moved to package scope: a change of CA (R153, R236). -/
def l1Flush (s : State) : State × PointRes :=
  match pushLines 5 s.core.mq.seq (s.core.mq.l1.filter (fun l => l.dirty != 0 || decide (l.scope < 5))) s with
  | (s', .held) => (s', .held)
  | (s', .done) =>
    match releasePush 5 s'.core.mq.seq { s' with core.mq.l1 := [] } with
    | (s'', r) => ({ s'' with core.mq.l1 := [] }, r)

/-- Whether older work that has left the store queue still keeps a scope from being reached: bytes that wait at their home, from
reticle scope on (R193, R296), atomics, reductions and line regions not yet applied at a home elsewhere (R193), stores beyond the
package not acknowledged at pod or hall scope (R194), and stores to host memory not completed at package scope or wider (R248). -/
def scopeOpen (s : State) (scope : BitVec 3) (q : Nat) : Bool :=
  ringUnapplied s q
    || (4 ≤ scope.toNat && s.homes.queue.any (fun r => r.core == s.core.id && r.launch == s.core.launch &&
        (match r.op with | .write (.write _) => true | _ => false)))
    || (6 ≤ scope.toNat && ringPosted s q)
    || (5 ≤ scope.toNat && s.sched.host.cxl.any (fun c => c.1 == corePkg s.core.id && decide (c.2.2 ≤ q)))

/-! ## Loads (R225, R240) -/

/-- What a read of the modelled core answers: bytes, a wait, or an error that has aborted the launch. -/
inductive GetRes where
  | bytes (l : List Byte)
  | wait
  | poison
  deriving DecidableEq, Repr

/-- What a read below the L1 answers: a line, valid in the bytes asked for. -/
inductive BelowRes where
  | line (d : LineData)
  | wait
  | poison
  deriving DecidableEq, Repr

/-- Bytes [o, o+n) of a line. -/
def lineBytes (d : LineData) (o n : Nat) : List Byte := (List.range n).map (fun i => lineByte d (o + i))

/-- The lines of the core's hub that its reads of a class see: those of its launch, and of an escape line everyone's (R196, R234). -/
def hubSeen (s : State) (cls : BitVec 2) (line : Nat) : List HubLine :=
  s.homes.hubs.filter (fun h => h.hub == hubOf s.core.id && h.line == line &&
    ((h.launch == s.core.launch && h.sec == s.core.sec) || (cls == 1 && h.cls == 1)))

/-- What the layer and the hub hold of a line for the modelled core, nearest over farther. -/
def cachedLine (s : State) (cls : BitVec 2) (line : Nat) : LineData × LineMask :=
  let fromHub := (hubSeen s cls line).foldl (fun (acc : LineData × LineMask) h =>
    (lineMerge acc.1 h.data h.mask, acc.2 ||| h.mask)) (0, 0)
  (layerLines s cls line).reverse.foldl (fun (acc : LineData × LineMask) l =>
    (lineMerge acc.1 l.data l.valid, acc.2 ||| l.valid)) fromHub

/-- A line brought into the core's layer from its home: every sound byte but those it holds unpushed, or that its hub holds
newer, for whichever launch of the chiplet (R225, R227, R239). (DESIGN CHOICE, log entry 28.) -/
def layerFill (line : Nat) (tag : LayerTag) (data : LineData) (sound : LineMask) (s : State) : State :=
  let hub : LineMask := (hubSeen s 1 line).foldl (fun m h => m ||| h.mask) 0
  match layerGet s line tag with
  | some l =>
    let dirty := l.dirty
    layerPut { l with tag := tag, data := lineMerge data l.data dirty, valid := (sound &&& ~~~hub) ||| dirty } s
  | none => layerPut ⟨layerOf s.core.id, line, tag, s.core.sec, data, sound &&& ~~~hub, []⟩ s

/-- The directory notes the chiplet of the modelled core as a sharer (R226). -/
def noteSharer (line : Nat) (s : State) : State :=
  let r := lineRec s line
  setLineRec { r with sharers := r.sharers ||| BitVec.twoPow 64 (coreChip s.core.id).toNat } s

/-- Whether a read of a line may be served before its home has seen one by the launch: the first read of a read-checked line
goes to the home (R297). -/
def listedReader (s : State) (cls : BitVec 2) (line : Nat) : Bool :=
  let h := if isRemote s line then hallIn s s.core.launch (linePkg line) else s.core.hall
  cls != 2 || (lineRec s line).beyond.contains h || (lineRec s line).readers.contains h

/-- The first byte of a mask, and the bytes from it to its last. -/
def maskSpan (m : LineMask) : Nat × Nat :=
  let on := (List.range 128).filter (fun i => m.getLsbD i)
  (on.headD 0, on.getLastD 0 + 1 - on.headD 0)

/-- A read of bytes of a line below the L1 (R225): from the layer and the hub when they hold every byte, else merged with the
home's version; a line homed in another package is first brought into the layer over the ring. (DEDUCED, log entry 29.) -/
def readBelow (cls : BitVec 2) (line : Nat) (need : LineMask) (seq : Nat) (s : State) : State × BelowRes :=
  match cachedLine s cls line with
  | (d, m) =>
    if need &&& ~~~m = 0 && listedReader s cls line then (s, .line d)
    else if isRemote s line then
      if ringReadsLine s line || ringWritesLine s line then (s, .wait)
      else
        let (o, n) := maskSpan need
        (ringSend (ownRequest s cls (line * 128 + o) (.lineRead seq n)) s, .wait)
    else
      match homeRead s.core.launch s.core.sec cls line (need &&& ~~~m) s with
      | (s', .stall) => (s', .wait)
      | (s', .poison) => (s', .poison)
      | (s', .data h bad) =>
        let s' := match versionTag s' s.core.launch s.core.sec cls line with
          | some t => noteSharer line (layerFill line t h (soundBytes bad) s')
          | none => s'
        (s', .line (lineMerge h d m))

/-- The bytes of the single-copy units of [o, o+n) that are not wholly valid (R240). -/
def missingUnits (valid : LineMask) (o n unit : Nat) : LineMask :=
  (List.range (n / unit)).foldl (fun m i =>
    let u := maskOf (o + unit * i) unit
    if u &&& ~~~valid = 0 then m else m ||| u) 0

/-- A read of the sequencer, of units of `unit` bytes: a unit wholly valid in the L1 is served there; of any other the L1 takes
every byte that it does not hold unpushed from the next level (R225, R240). -/
def readOwn (cls : BitVec 2) (line o n unit seq : Nat) (s : State) : State × GetRes :=
  if !hasL1 s then
    match readBelow cls line (maskOf o n) seq s with
    | (s', .line d) => (s', .bytes (lineBytes d o n))
    | (s', .wait) => (s', .wait)
    | (s', .poison) => (s', .poison)
  else
    let room : State × PointRes := match l1Get s line with | some _ => (s, .done) | none => l1Room line seq s
    match room with
    | (_, .held) => (s, .wait)
    | (s, .done) =>
      let l := (l1Get s line).getD ⟨line, cls, 0, 0, 0, 7⟩
      let miss := missingUnits l.valid o n unit
      if miss = 0 then (s, .bytes (lineBytes l.data o n))
      else
        match readBelow cls line (miss &&& ~~~l.dirty) seq s with
        | (s', .line b) =>
          let d := lineMerge l.data b (miss &&& ~~~l.dirty)
          (l1Set { l with data := d, valid := l.valid ||| miss } s', .bytes (lineBytes d o n))
        | (s', .wait) => (s', .wait)
        | (s', .poison) => (s', .poison)

/-- An access of the modelled core reaches a line: its home die is touched before it proceeds (R328), and a write's window is the one that
names the line in a hash (R309). -/
def noteAccess (cls : BitVec 2) (pa : Nat) (s : State) : State :=
  let s := touchPa s.core.launch pa s
  if cls = 1 then s else noteWindow (lineNo pa) pa s

/-- A read of an engine: past the L1, but with the unpushed L1 bytes of its own core (R225). -/
def readEngine (cls : BitVec 2) (pa n : Nat) (s : State) : State × GetRes :=
  let line := lineNo pa
  let o := lineOff pa
  let s := touchPa s.core.launch pa s
  let (own, dirty) : LineData × LineMask := match l1Get s line with | some l => (l.data, l.dirty) | none => (0, 0)
  match readBelow cls line (maskOf o n &&& ~~~dirty) s.core.mq.seq s with
  | (s', .line d) => (s', .bytes (lineBytes (lineMerge d own dirty) o n))
  | (s', .wait) => (s', .wait)
  | (s', .poison) => (s', .poison)

/-- A write of an engine: unpushed L1 bytes of the line go first, and the written bytes are invalidated in the L1 (R225). -/
def writeEngine (cls : BitVec 2) (pa : Nat) (bs : List Byte) (scope : BitVec 3) (s : State) : State × PointRes :=
  let line := lineNo pa
  let o := lineOff pa
  let s := noteAccess cls pa s
  let seq := s.core.mq.seq
  let mask := maskOf o bs.length
  let scope := if scope.toNat ≤ 2 then 2 else scope
  let pushed : State × PointRes :=
    match l1Get s line with
    | some l => if l.dirty = 0 then (s, .done) else pushLine { l with scope := 0 } scope seq s
    | none => (s, .done)
  match pushed with
  | (_, .held) => (s, .held)
  | (s', .done) =>
    match toPoint line cls (lineAt o bs) mask scope seq s' with
    | (_, .held) => (s, .held)
    | (s', .done) =>
      match l1Get s' line with
      | some l => (l1Set { l with valid := l.valid &&& ~~~mask } s', .done)
      | none => (s', .done)

/-- Whether some of a list of unpushed bytes are the modelled core's. -/
def ownUnpushed (s : State) (l : List Unpushed) : Bool := l.any (fun u => u.core == s.core.id && u.launch == s.core.launch)

/-- Every unpushed line of the core's layer and hub that it wrote for its launch is pushed to the point of a scope: the push
before a command's completion (R246). -/
def pushLayer (scope : BitVec 3) (s : State) : State × PointRes :=
  if scope.toNat ≤ 2 then (s, .done)
  else
    let mine := fun (l : LayerLine) => l.layer == layerOf s.core.id && l.ghost == s.core.sec && ownUnpushed s l.unpushed
    let lines := (s.homes.layers.filter mine).map (fun l => (l.line, tagClass l.tag))
    let hubs := if scope.toNat ≤ 3 then [] else
      (s.homes.hubs.filter (fun h => h.hub == hubOf s.core.id && h.sec == s.core.sec && ownUnpushed s h.unpushed)).map
        (fun h => (h.line, h.cls))
    (lines ++ hubs).foldl (fun r x =>
      match r with
      | (s, .held) => (s, .held)
      | (s, .done) => match toPoint x.1 x.2 0 0 scope s.core.mq.seq s with
        | (_, .held) => (s, .held)
        | r => r) (s, .done)

end Sys2Proof.Machine
end

