-- ==== Sys2Proof/Machine/Operands.lean ====
section
/-! DEFINITION. The operand forms: scalar register forms, immediates, addresses, and the forms that end in a predicate.
Each runs the checks of R42 in order and then the effect it is given. -/

namespace Sys2Proof.Machine

/-- An instruction that an atomic line region accepts (R211). (DEDUCED, log entry 52.) -/
def inLine : Gate := { inRegion := true }

/-- An instruction with no restriction but that a line region refuses it. -/
def anywhere : Gate := {}

/-- A source register with its empty-source bit. -/
def srcS (r : BitVec 5) (f : Bool := false) : Src := ⟨.s r, f⟩

/-- A vector source. -/
def srcV (r : BitVec 5) : Src := ⟨.v r, false⟩

/-- Registers an instruction of two scalar sources and a scalar destination uses. -/
def usesDAB (d a b : BitVec 5) (fa fb : Bool) : Uses := ⟨[srcS a fa, srcS b fb], [.s d]⟩

/-! ## Scalar results -/

/-- Format A, two sources, a result at once (R49). -/
def alu (w : Word) (d a b : BitVec 5) (fa fb : Bool) (f : DWord → DWord → DWord) (s : State) : Out :=
  gate inLine w s fun s => issue w (usesDAB d a b fa fb) s fun s =>
    .next (retire (writeS d (f (readS s a) (readS s b)) s))

/-- Format A, two sources, a result after its latency (R49). -/
def aluLate (w : Word) (d a b : BitVec 5) (fa fb : Bool) (f : DWord → DWord → DWord) (s : State) : Out :=
  gate inLine w s fun s => issue w (usesDAB d a b fa fb) s fun s =>
    .next (retire (deliverLater (.scalar d (f (readS s a) (readS s b))) s))

/-- One source, a result at once. -/
def alu1 (w : Word) (d a : BitVec 5) (fa : Bool) (f : DWord → DWord) (s : State) : Out :=
  gate inLine w s fun s => issue w ⟨[srcS a fa], [.s d]⟩ s fun s => .next (retire (writeS d (f (readS s a)) s))

/-- A compare of two registers into a predicate (R63). -/
def cmpTo (w : Word) (p : BitVec 3) (a b : BitVec 5) (fa fb : Bool) (f : DWord → DWord → Bool) (s : State) : Out :=
  gate inLine w s fun s => issue w ⟨[srcS a fa, srcS b fb], []⟩ s fun s =>
    .next (retire (writeP p (f (readS s a) (readS s b)) s))

/-- A compare with a sign-extended 12-bit immediate into a predicate (R61). -/
def cmpImm (w : Word) (p : BitVec 3) (a : BitVec 5) (imm : BitVec 12) (f : DWord → DWord → Bool) (s : State) : Out :=
  gate inLine w s fun s => issue w ⟨[srcS a], []⟩ s fun s => .next (retire (writeP p (f (readS s a) (imm.signExtend 64)) s))

/-- Predicate logic (R63). -/
def predOp (w : Word) (d : BitVec 3) (x : State → Bool) (s : State) : Out :=
  gate inLine w s fun s => issue w {} s fun s => .next (retire (writeP d (x s) s))

/-- Compares of `R61` and `R63`. -/
def ltS (x y : DWord) : Bool := x.slt y
def ltU (x y : DWord) : Bool := x.ult y

/-! ## Results of scalar operations -/

/-- Saturation to 64 bits signed (R52). -/
def clamp64 (x : Int) : DWord :=
  BitVec.ofInt 64 (if x < -2 ^ 63 then -2 ^ 63 else if 2 ^ 63 - 1 < x then 2 ^ 63 - 1 else x)

/-- High 64 bits of a product (R54). -/
def mulHigh (x y : Int) : DWord := BitVec.ofInt 64 ((x * y) / 2 ^ 64)

/-- Signed quotient and remainder of R55 at a width. -/
def quotS {w : Nat} (x y : BitVec w) : BitVec w := if y = 0 then BitVec.allOnes w else x.sdiv y
def remS {w : Nat} (x y : BitVec w) : BitVec w := if y = 0 then x else x.srem y

/-- Unsigned quotient and remainder of R55 at a width. -/
def quotU {w : Nat} (x y : BitVec w) : BitVec w := if y = 0 then BitVec.allOnes w else x / y
def remU {w : Nat} (x y : BitVec w) : BitVec w := if y = 0 then x else x % y

/-- The low word of a doubleword. -/
def lo32 (x : DWord) : Word := x.setWidth 32

/-- A 32-bit result, sign-extended. -/
def sx (x : Word) : DWord := x.signExtend 64

/-- Leading zeros (R56). -/
def clz64 (x : DWord) : DWord := if x = 0 then 64 else dw (63 - Nat.log2 x.toNat)

/-- Number of set bits (R56). -/
def popc64 (x : DWord) : DWord := dw (((List.range 64).filter (fun i => x.getLsbD i)).length)

/-! ## Addresses (R78, R109, R110) -/

/-- An address with a signed offset in units of the access size. -/
def addrOff {n : Nat} (base : DWord) (off : BitVec n) (size : Nat) : DWord := base + off.signExtend 64 * dw size

/-- An address with an index register. -/
def addrIdx (base idx : DWord) : DWord := base + idx

end Sys2Proof.Machine
end

