-- ==== Sys2Proof/Machine/Flags.lean ====
section
/-! DEFINITION. Flags and rounding as the sequencer and the vector unit compute them (R23, R24, R90, R92, R93, R97): the
rounding mode of an instruction, the advance of the RSR states, and the flags of active lanes. -/

namespace Sys2Proof.Machine

/-- The number of the rounding mode an `rm` field selects: 0 takes `FPCTL.RM`, 1 to 5 name a mode (R35). -/
def modeOf (s : State) (rm : BitVec 3) : BitVec 3 := if rm = 0 then field s.core.sys.fpctl 0 3 else rm - 1

/-- The RSR state of a lane. -/
def laneState (s : State) (i : Nat) : Word := vgetD s.core.sys.laneRsr i 0

/-- What a lane makes of its operands: the lane number and the modes of the first and the second element it rounds. -/
abbrev LaneFn := Nat → Rnd → Rnd → Word × Flags

/-- The mode of the `k`th element (1 or 2) that lane `i` rounds (R93). -/
def laneMode (s : State) (mode : BitVec 3) (i k : Nat) : Rnd :=
  Rnd.ofBits mode (if k = 1 then rsrNext (laneState s i) else rsrNext (rsrNext (laneState s i)))

/-- Results and flags of every lane. -/
def laneResults (s : State) (mode : BitVec 3) (f : LaneFn) : Vector (Word × Flags) 16 :=
  Vector.ofFn (fun i => f i.val (laneMode s mode i.val 1) (laneMode s mode i.val 2))

/-- The flags of the lanes of a mask, ORed (R90). -/
def laneFlags (mask : BitVec 16) (r : Vector (Word × Flags) 16) : Flags :=
  (List.range 16).foldl (fun fl i => if mask.getLsbD i then fl ||| (vgetD r i (0, 0)).2 else fl) 0

/-- The lanes of a mask advance their RSR state once for each of the `n` elements they round, when the mode is RSR
(R89, R93). -/
def advanceRsr (mask : BitVec 16) (mode : BitVec 3) (n : Nat) (s : State) : State :=
  if mode = 4 then
    let next := fun (x : Word) => if n = 1 then rsrNext x else rsrNext (rsrNext x)
    let v := Vector.ofFn (fun (i : Fin 16) => if mask.getLsbD i.val then next (laneState s i.val) else laneState s i.val)
    { s with core.sys.laneRsr := v }
  else s

/-- A rounding operation on the lanes of a mask: the state with flags and RSR states, and the destination's new value. -/
def roundLanes (mask : BitVec 16) (mode : BitVec 3) (n : Nat) (old : VReg) (f : LaneFn) (s : State) : State × VReg :=
  let r := laneResults s mode f
  (raiseFlags (laneFlags mask r) (advanceRsr mask mode n s), laneMerge mask old (r.map (fun x => x.1)))

/-- A masked vector instruction that rounds: reads `srcs`, writes `v[d]` after its latency (R89, R91). -/
def vecRound (w : Word) (d : BitVec 5) (srcs : List Src) (rm : BitVec 3) (n : Nat) (f : State → LaneFn) (s : State) : Out :=
  gate anywhere w s fun s => issue w ⟨srcs, [.v d]⟩ s fun s =>
    match roundLanes (topMask s) (modeOf s rm) n (readV s d) (f s) s with
    | (s, v) => .next (retire (deliverLater (.vector d v) s))

/-- A masked vector instruction that rounds nothing: lane by lane. -/
def vecLanes (w : Word) (d : BitVec 5) (srcs : List Src) (f : State → Nat → Word) (s : State) : Out :=
  gate anywhere w s fun s => issue w ⟨srcs, [.v d]⟩ s fun s =>
    .next (retire (deliverLater (.vector d (laneMerge (topMask s) (readV s d) (vregOf (f s)))) s))

/-- Two sources. -/
def vsrc2 (a b : BitVec 5) : List Src := [srcV a, srcV b]

end Sys2Proof.Machine
end

