-- ==== Sys2Proof/Machine/VecFp.lean ====
section
/-! DEFINITION. Vector floating-point arithmetic and transcendentals (R96-R99): majors 0x40 and 0x41. -/

namespace Sys2Proof.Machine


/-- An exact FP32 result rounded once, with its flags. -/
def f32Result (r : Rnd) (v : FVal × Flags) : Word × Flags :=
  let p := fp32.finish r v
  (BitVec.ofNat 32 p.1, p.2)

/-- Element 0 (low) or 1 (high) of a lane that holds two 16-bit elements (R98). -/
def half (x : Word) (k : Nat) : Nat := (x >>> (16 * k)).toNat % 65536

/-- Two elements as one lane. -/
def halves (lo hi : Nat) : Word := BitVec.ofNat 32 (lo + 65536 * hi)

/-- A BF16 operation on both elements of a lane, the low one first (R98). -/
def bf16Lane (f : Rnd → FVal → FVal → FVal → FVal × Flags) (r1 r2 : Rnd) (x y z : Word) : Word × Flags :=
  let one := fun (r : Rnd) (k : Nat) => bf16.finish r (f r (bf16.value (half x k)) (bf16.value (half y k)) (bf16.value (half z k)))
  let lo := one r1 0
  let hi := one r2 1
  (halves lo.1 hi.1, lo.2 ||| hi.2)

/-- The exact operations of R96: on va, vb and the old vd. -/
def fAdd (r : Rnd) (x y _z : FVal) : FVal × Flags := x.add r y
def fSub (r : Rnd) (x y _z : FVal) : FVal × Flags := x.add r y.neg
def fMul (_r : Rnd) (x y _z : FVal) : FVal × Flags := x.mul y
def fFma (r : Rnd) (x y z : FVal) : FVal × Flags := x.fma r y z
def fFms (r : Rnd) (x y z : FVal) : FVal × Flags := x.fma r y z.neg
def fFnma (r : Rnd) (x y z : FVal) : FVal × Flags := x.neg.fma r y z

/-- An FP32 arithmetic instruction. -/
def vecF32 (w : Word) (d a b : BitVec 5) (rm : BitVec 3) (f : Rnd → FVal → FVal → FVal → FVal × Flags) (s : State) : Out :=
  vecRound w d (vsrc2 a b) rm 1 (fun s i r _ =>
    f32Result r (f r (valF32 (lane (readV s a) i)) (valF32 (lane (readV s b) i)) (valF32 (lane (readV s d) i)))) s

/-- A BF16 arithmetic instruction. -/
def vecBf16 (w : Word) (d a b : BitVec 5) (rm : BitVec 3) (f : Rnd → FVal → FVal → FVal → FVal × Flags) (s : State) : Out :=
  vecRound w d (vsrc2 a b) rm 2 (fun s i r1 r2 =>
    bf16Lane f r1 r2 (lane (readV s a) i) (lane (readV s b) i) (lane (readV s d) i)) s

/-- `VADD.f32` (R96). -/
def execVaddF32 (d a b : BitVec 5) (rm : BitVec 3) (s : State) : Out :=
  vecF32 (wordVaddF32 d a b rm) d a b rm fAdd s

/-- `VADD.bf16` (R96). -/
def execVaddBf16 (d a b : BitVec 5) (rm : BitVec 3) (s : State) : Out :=
  vecBf16 (wordVaddBf16 d a b rm) d a b rm fAdd s

/-- `VSUB.f32` (R96). -/
def execVsubF32 (d a b : BitVec 5) (rm : BitVec 3) (s : State) : Out :=
  vecF32 (wordVsubF32 d a b rm) d a b rm fSub s

/-- `VSUB.bf16` (R96). -/
def execVsubBf16 (d a b : BitVec 5) (rm : BitVec 3) (s : State) : Out :=
  vecBf16 (wordVsubBf16 d a b rm) d a b rm fSub s

/-- `VMUL.f32` (R96). -/
def execVmulF32 (d a b : BitVec 5) (rm : BitVec 3) (s : State) : Out :=
  vecF32 (wordVmulF32 d a b rm) d a b rm fMul s

/-- `VMUL.bf16` (R96). -/
def execVmulBf16 (d a b : BitVec 5) (rm : BitVec 3) (s : State) : Out :=
  vecBf16 (wordVmulBf16 d a b rm) d a b rm fMul s

/-- `VFMA.f32` (R96). -/
def execVfmaF32 (d a b : BitVec 5) (rm : BitVec 3) (s : State) : Out :=
  vecF32 (wordVfmaF32 d a b rm) d a b rm fFma s

/-- `VFMA.bf16` (R96). -/
def execVfmaBf16 (d a b : BitVec 5) (rm : BitVec 3) (s : State) : Out :=
  vecBf16 (wordVfmaBf16 d a b rm) d a b rm fFma s

/-- `VFMS.f32` (R96). -/
def execVfmsF32 (d a b : BitVec 5) (rm : BitVec 3) (s : State) : Out :=
  vecF32 (wordVfmsF32 d a b rm) d a b rm fFms s

/-- `VFMS.bf16` (R96). -/
def execVfmsBf16 (d a b : BitVec 5) (rm : BitVec 3) (s : State) : Out :=
  vecBf16 (wordVfmsBf16 d a b rm) d a b rm fFms s

/-- `VFNMA.f32` (R96). -/
def execVfnmaF32 (d a b : BitVec 5) (rm : BitVec 3) (s : State) : Out :=
  vecF32 (wordVfnmaF32 d a b rm) d a b rm fFnma s

/-- `VFNMA.bf16` (R96). -/
def execVfnmaBf16 (d a b : BitVec 5) (rm : BitVec 3) (s : State) : Out :=
  vecBf16 (wordVfnmaBf16 d a b rm) d a b rm fFnma s

/-- `VMIN.f32` (R97). -/
def execVminF32 (d a b : BitVec 5) (s : State) : Out :=
  vecLanes (wordVminF32 d a b) d (vsrc2 a b) (fun s i =>
    BitVec.ofNat 32 (fp32.minMax false (lane (readV s a) i).toNat (lane (readV s b) i).toNat)) s

/-- `VMIN.bf16` (R97, R98). -/
def execVminBf16 (d a b : BitVec 5) (s : State) : Out :=
  vecLanes (wordVminBf16 d a b) d (vsrc2 a b) (fun s i =>
    let x := lane (readV s a) i
    let y := lane (readV s b) i
    halves (bf16.minMax false (half x 0) (half y 0)) (bf16.minMax false (half x 1) (half y 1))) s

/-- `VMAX.f32` (R97). -/
def execVmaxF32 (d a b : BitVec 5) (s : State) : Out :=
  vecLanes (wordVmaxF32 d a b) d (vsrc2 a b) (fun s i =>
    BitVec.ofNat 32 (fp32.minMax true (lane (readV s a) i).toNat (lane (readV s b) i).toNat)) s

/-- `VMAX.bf16` (R97, R98). -/
def execVmaxBf16 (d a b : BitVec 5) (s : State) : Out :=
  vecLanes (wordVmaxBf16 d a b) d (vsrc2 a b) (fun s i =>
    let x := lane (readV s a) i
    let y := lane (readV s b) i
    halves (bf16.minMax true (half x 0) (half y 0)) (bf16.minMax true (half x 1) (half y 1))) s

/-- `VABS.f32` (R96): on the bits. -/
def execVabsF32 (d a : BitVec 5) (s : State) : Out :=
  vecLanes (wordVabsF32 d a) d [srcV a] (fun s i => let x := lane (readV s a) i; x &&& 0x7FFFFFFF) s

/-- `VNEG.f32` (R96): on the bits. -/
def execVnegF32 (d a : BitVec 5) (s : State) : Out :=
  vecLanes (wordVnegF32 d a) d [srcV a] (fun s i => let x := lane (readV s a) i; x ^^^ 0x80000000) s

/-- `VABS.bf16` (R96): on the bits. -/
def execVabsBf16 (d a : BitVec 5) (s : State) : Out :=
  vecLanes (wordVabsBf16 d a) d [srcV a] (fun s i => let x := lane (readV s a) i; x &&& 0x7FFF7FFF) s

/-- `VNEG.bf16` (R96): on the bits. -/
def execVnegBf16 (d a : BitVec 5) (s : State) : Out :=
  vecLanes (wordVnegBf16 d a) d [srcV a] (fun s i => let x := lane (readV s a) i; x ^^^ 0x80008000) s

/-- A transcendental (R99): correctly rounded RNE whatever `rm` and `FPCTL.RM` say, and RSR states stay. -/
def vecTrans (w : Word) (d a : BitVec 5) (f : Word → Word × Flags) (s : State) : Out :=
  vecRound w d [srcV a] 1 1 (fun s i _ _ => f (lane (readV s a) i)) s

/-- `VEXP2` (R99). -/
def execVexp2 (d a : BitVec 5) (rm : Bool) (s : State) : Out := vecTrans (wordVexp2 d a rm) d a exp2F32 s

/-- `VRCP` (R99). -/
def execVrcp (d a : BitVec 5) (rm : Bool) (s : State) : Out := vecTrans (wordVrcp d a rm) d a rcpF32 s

/-- `VRSQ` (R99). -/
def execVrsq (d a : BitVec 5) (rm : Bool) (s : State) : Out := vecTrans (wordVrsq d a rm) d a rsqF32 s

/-- `VLOG2` (R99). -/
def execVlog2 (d a : BitVec 5) (rm : Bool) (s : State) : Out := vecTrans (wordVlog2 d a rm) d a log2F32 s

end Sys2Proof.Machine
end

