-- ==== Sys2Proof/Machine/HomeOps.lean ====
section
/-! DEFINITION. What arrives at a home and is applied there, one at a time (R200): stores, atomics (R198, R201), reductions
(R205-R207), ordered reductions (R208) and atomic line regions (R212), of the modelled core and of others. -/

namespace Sys2Proof.Machine

/-! ## Atomics (R198, R204) -/

/-- The new value of an atomic on `w`-bit numbers. -/
def atomicNew {w : Nat} (op : BitVec 4) (old opnd cmp : BitVec w) : BitVec w :=
  match op.toNat with
  | 0 => old + opnd
  | 1 => old &&& opnd
  | 2 => old ||| opnd
  | 3 => old ^^^ opnd
  | 4 => if opnd.slt old then opnd else old
  | 5 => if old.slt opnd then opnd else old
  | 6 => if opnd.ult old then opnd else old
  | 7 => if old.ult opnd then opnd else old
  | 8 => opnd
  | _ => if old = cmp then opnd else old

/-- New memory value of an atomic of a width, from the doublewords of the registers. -/
def atomicMem (op : BitVec 4) (dbl : Bool) (old opnd cmp : DWord) : DWord :=
  if dbl then atomicNew op old opnd cmp else (atomicNew op (lo32 old) (lo32 opnd) (lo32 cmp)).setWidth 64

/-- The value an atomic returns: word forms sign-extend, but zero-extend for the unsigned minimum and maximum. -/
def atomicReturn (op : BitVec 4) (dbl : Bool) (old : DWord) : DWord :=
  if dbl then old else if op = 6 ∨ op = 7 then (lo32 old).setWidth 64 else sx (lo32 old)

/-- Size of an atomic. -/
def atomicSize (dbl : Bool) : Nat := if dbl then 8 else 4

/-! ## Reductions (R205, R206) -/

/-- An FP32 sum rounded once, RNE, without flags. -/
def redF32 (x y : Word) : Word := (f32Result .rne ((valF32 x).add .rne (valF32 y))).1

/-- A BF16 sum rounded once, RNE. -/
def redBf16 (x y : Nat) : Nat := (bf16.finish .rne ((bf16.value x).add .rne (bf16.value y))).1

/-- One 4-byte lane of a reduction. -/
def redLane (op : RedOp) (x y : Word) : Word :=
  match op with
  | .f32 => redF32 x y
  | .bf16 => halves (redBf16 (half x 0) (half y 0)) (redBf16 (half x 1) (half y 1))
  | .i32 => x + y
  | .f32max => BitVec.ofNat 32 (fp32.minMax true x.toNat y.toNat)

/-- Word `i` of a line. -/
def lineWord (d : LineData) (i : Nat) : Word := d.extractLsb' (32 * i) 32

/-- A line from its 32 words. -/
def lineOfWords (f : Nat → Word) : LineData :=
  BitVec.ofNat 1024 ((List.range 32).foldr (fun i acc => acc * 2 ^ 32 + (f i).toNat) 0)

/-- A reduction on a line: active words take the combination. -/
def redLine (op : RedOp) (data : LineData) (mask : LineMask) (old : LineData) : LineData :=
  lineOfWords (fun i => if mask.getLsbD (4 * i) then redLane op (lineWord old i) (lineWord data i) else lineWord old i)

/-! ## Groups (R216, R218) -/

/-- The ranges of ordinals of a group, when the launch's table has it. -/
def groupOf (l : LaunchRec) (g : Byte) : Option (List (Nat × Nat)) :=
  match l.groups[g.toNat]? with
  | some r => if r.isEmpty then none else some r
  | none => none

/-- Number of members of a group. -/
def groupSize (r : List (Nat × Nat)) : Nat := r.foldl (fun n x => n + (x.2 + 1 - x.1)) 0

/-- Whether an ordinal is a member. -/
def groupHas (r : List (Nat × Nat)) (ord : Nat) : Bool := r.any (fun x => decide (x.1 ≤ ord) && decide (ord ≤ x.2))

/-- Members with a lower ordinal: the rank of a member (R208). -/
def groupRank (r : List (Nat × Nat)) (ord : Nat) : Nat :=
  r.foldl (fun n x => if ord ≤ x.1 then n else n + (min ord (x.2 + 1) - x.1)) 0

/-! ## Arrival at a home -/

/-- What a home makes of an operation: done with the bytes it returns, held for later, refused (R208), or dropped. -/
inductive HomeOut where
  | done (result : List Byte)
  | held
  | refused
  | dropped
  deriving DecidableEq, Repr

/-- Who sends an operation, and to which class of region. -/
structure Sender where
  core : CoreId
  launch : Nat
  sec : Bool
  ord : BitVec 24
  cls : BitVec 2

/-- A write of a line, with the bytes that it reads, under the rules of its class, answered in the terms of `HomeOut`. -/
def homeUpdate (x : Sender) (line : Nat) (f : LineData → LineData) (mask reads : LineMask) (res : LineData → List Byte) (s : State) :
    State × HomeOut :=
  match homeWrite x.launch x.sec x.cls line f mask reads s with
  | (s', .applied old) => (s', .done (res old))
  | (s', .dropped) => (s', .dropped)
  | (_, .held) => (s, .held)

/-- The round of a line and a group (R208). -/
def roundOf (s : State) (x : Sender) (line : Nat) (g : Byte) : RedoRound :=
  (s.homes.rounds.find? (fun r => r.launch == x.launch && r.sec == x.sec && r.line == line && r.group == g)).getD
    ⟨x.launch, x.sec, line, g, 0, 0, []⟩

def setRound (r : RedoRound) (s : State) : State :=
  { s with homes.rounds := r :: s.homes.rounds.filter (fun q =>
      !(q.launch == r.launch && q.sec == r.sec && q.line == r.line && q.group == r.group)) }

/-- The oldest of a core's outstanding contributions to a line and group taken off. -/
def redoTaken (line : Nat) (g : Byte) (l : List (Nat × Byte × Nat)) : List (Nat × Byte × Nat) :=
  match l.findIdx? (fun r => r.1 == line && r.2.1 == g) with
  | some i => l.eraseIdx i
  | none => l

/-- A contribution of an ordinal has been applied: its core, or the save area that holds it, no longer waits (R208).
(DEDUCED, log entry 24.) -/
def redoAcked (launch : Nat) (sec : Bool) (ord : BitVec 24) (line : Nat) (g : Byte) (s : State) : State :=
  if s.core.launch = launch ∧ s.core.sec = sec ∧ s.core.ord = ord then
    { s with core.mq.redoOut := redoTaken line g s.core.mq.redoOut }
  else
    { s with sched.saves := s.sched.saves.map (fun a =>
        if a.launch = launch ∧ a.sec = sec ∧ a.ord = ord then
          { a with image := { a.image with mq := { a.image.mq with redoOut := redoTaken line g a.image.mq.redoOut } } }
        else a) }

/-- Applies the contributions of a round that are next in rank, and opens the next round (R208); one that the conflict rules hold
back (R296) arrives again. (DEDUCED, log entry 24.) -/
def redoAdvance : Nat → Sender → Nat → RedoRound → State → State
  | 0, _, _, r, s => setRound r s
  | n + 1, x, size, r, s =>
    if size ≤ r.next then redoAdvance n x size { r with next := 0, round := r.round + 1 } s
    else
      match r.held.find? (fun h => h.round == r.round && h.rank == r.next) with
      | none => setRound r s
      | some h =>
        let r' := { r with held := r.held.filter (fun y => y != h) }
        match homeUpdate x r.line (redLine h.op h.data h.mask) h.mask h.mask (fun _ => []) s with
        | (_, .held) =>
          let q : HomeReq := ⟨x.core, x.launch, x.sec, h.ord, x.cls, r.line * 128, .write (.redo h.op h.data h.mask r.group), none⟩
          setRound r' { s with homes.queue := s.homes.queue ++ [q] }
        | (s', _) => redoAdvance n x size { r' with next := r.next + 1 } (redoAcked x.launch x.sec h.ord r.line r.group s')

/-- Contributions that a home die holds out of order (R208). -/
def heldRedos (s : State) (line : Nat) : Nat :=
  (s.homes.rounds.filter (fun r => linePkg r.line == linePkg line && (homeOf (r.line * 128)).1 == (homeOf (line * 128)).1)).foldl
    (fun n r => n + r.held.length) 0

/-- The arrival of a `REDO` contribution (R208); one that the conflict rules hold back waits where it is (R296). -/
def redoArrive (x : Sender) (line : Nat) (op : RedOp) (data : LineData) (mask : LineMask) (g : Byte) (s : State) :
    State × HomeOut :=
  let s := touchPa x.launch (line * 128) s
  match groupOf (launchOf s x.launch) g with
  | none => (s, .dropped)
  | some ranges =>
    let r := roundOf s x line g
    let rank := groupRank ranges x.ord.toNat
    let size := groupSize ranges
    let seen := decide (rank < r.next) || r.held.any (fun h => h.round == r.round && h.rank == rank)
    let h : HeldRedo := ⟨if seen then r.round + 1 else r.round, rank, op, data, mask, x.ord⟩
    if (seen || rank != r.next) && decide (32 ≤ heldRedos s line) then (s, .refused)
    else if !seen && rank == r.next && (homeUpdate x line (redLine op data mask) mask mask (fun _ => []) s).2 == .held then (s, .held)
    else (redoAdvance (size + 2) x size { r with held := r.held ++ [h] } s, .done [])

/-- The loads of a line region, read from the line as it stood (R212). -/
def regionLoadBytes (old : LineData) (accs : List RegionAcc) : List Byte :=
  accs.flatMap (fun a => match a with
    | .load pa n _ _ => lineBytes old (lineOff pa) n
    | .store _ _ => [])

/-- The stores of a line region on its line, in program order, and the bytes they write. -/
def regionStores (accs : List RegionAcc) (old : LineData) : LineData :=
  accs.foldl (fun d a => match a with
    | .load _ _ _ _ => d
    | .store pa bs => lineMerge d (lineAt (lineOff pa) bs) (maskOf (lineOff pa) bs.length)) old

def regionMask (accs : List RegionAcc) : LineMask :=
  accs.foldl (fun m a => match a with
    | .load _ _ _ _ => m
    | .store pa bs => m ||| maskOf (lineOff pa) bs.length) 0

/-- The bytes that the loads of a line region read. -/
def regionReads (accs : List RegionAcc) : LineMask :=
  accs.foldl (fun m a => match a with
    | .load pa n _ _ => m ||| maskOf (lineOff pa) n
    | .store _ _ => m) 0

/-- An operation applied at the home of its line (R200, R201, R206-R208, R212, R234). -/
def homeApply (x : Sender) (pa : Nat) (op : StoreOp) (s : State) : State × HomeOut :=
  let line := lineNo pa
  let s := if x.cls = 1 then s else noteWindow line pa s
  match op with
  | .write cells =>
    let d := cells.foldl (fun (d : LineData) c => lineMerge d (lineAt (c.1 % 128) [c.2]) (maskOf (c.1 % 128) 1)) 0
    let m := cells.foldl (fun (m : LineMask) c => m ||| maskOf (c.1 % 128) 1) 0
    homeUpdate x line (fun old => lineMerge old d m) m 0 (fun _ => []) s
  | .atomic aop dbl opnd cmp _ =>
    let n := atomicSize dbl
    let o := lineOff pa
    let rd := fun (old : LineData) => dw (leNat (lineBytes old o n))
    homeUpdate x line (fun old => lineMerge old (lineAt o (leBytes n (atomicMem aop dbl (rd old) opnd cmp).toNat)) (maskOf o n))
      (maskOf o n) (maskOf o n) (fun old => lineBytes old o n) s
  | .red rop data mask index =>
    if (launchOf s x.launch).pair ≠ 0 ∧ rop ≠ .i32 then
      let s := makeSlot (overflowRounds s) line x.launch (touchPa x.launch (line * 128) s)
      if !writerLive s x.launch (linePkg line) then (s, .dropped)
      else ({ s with homes.heldReds := s.homes.heldReds ++ [⟨x.launch, x.sec, x.ord, index, line, x.cls, rop, data, mask⟩] }, .done [])
    else homeUpdate x line (redLine rop data mask) mask mask (fun _ => []) s
  | .redo rop data mask group => redoArrive x line rop data mask group s
  | .region accs =>
    let m := regionMask accs
    if m = 0 ∧ x.cls = 1 then
      -- loads of committed state alone write nothing
      match homeRead x.launch x.sec x.cls line (regionReads accs) s with
      | (s', .data d _) => (s', .done (regionLoadBytes d accs))
      | (_, .stall) => (s, .held)
      | (s', .poison) => (s', .dropped)
    else homeUpdate x line (regionStores accs) m (regionReads accs) (fun old => regionLoadBytes old accs) s
  | .mark | .fenceRel | .semAdd _ _ _ | .barArrive _ => (s, .done [])

/-- A write of the device itself, within one line, which acts as an escape store (R312, R313). -/
def deviceStore (pa : Nat) (bs : List Byte) (s : State) : State :=
  let m := maskOf (lineOff pa) bs.length
  (homeWrite 0 false 1 (lineNo pa) (fun old => lineMerge old (lineAt (lineOff pa) bs) m) m 0 s).1

/-- The sender that the modelled core is. -/
def ownSender (s : State) (cls : BitVec 2) : Sender := ⟨s.core.id, s.core.launch, s.core.sec, s.core.ord, cls⟩

end Sys2Proof.Machine
end

