-- ==== Sys2Proof/Machine/Access.lean ====
section
/-! DEFINITION. Loads and stores of the sequencer and the vector unit: pool (R79, R80, R109), pool atomics (R204), global
memory (R81-R84, R110), and the events by which loads perform and return and results are delivered. -/

namespace Sys2Proof.Machine

/-! ## The pool (R78-R80, R109, R204) -/

/-- Registers of an address: base, and index where there is one. -/
def addrSrcs (a : BitVec 5) (idx : Option (BitVec 5)) : List Src :=
  match idx with
  | some i => [srcS a, srcS i]
  | none => [srcS a]

/-- A scalar pool load (R79): checks, then the value after its latency. -/
def poolLoad (w : Word) (d a : BitVec 5) (idx : Option (BitVec 5)) (kind : BitVec 3) (addr : State → DWord) (s : State) : Out :=
  gate anywhere w s fun s => issue w ⟨addrSrcs a idx, [.s d]⟩ s fun s =>
    let x := addr s
    match poolCheck s x (kindSize kind) true false with
    | some (c, t) => trap c t s
    | none => .next (retire (deliverLater (.scalar d (loadValue kind (poolRead s x.toNat (kindSize kind)))) s))

/-- A scalar pool store (R79, R80): performs before the next instruction issues. -/
def poolStore (w : Word) (d a : BitVec 5) (idx : Option (BitVec 5)) (kind : BitVec 2) (addr : State → DWord) (s : State) : Out :=
  gate anywhere w s fun s => issue w ⟨addrSrcs a idx ++ [srcS d], []⟩ s fun s =>
    let x := addr s
    let n := 2 ^ kind.toNat
    match poolCheck s x n false true with
    | some (c, t) => trap c t s
    | none => .next (retire (poolWrite x.toNat (storeBytes n (readS s d)) s))

/-- `PLD` (R78, R79). -/
def execPld (d a : BitVec 5) (kind : BitVec 3) (off : BitVec 11) (s : State) : Out :=
  poolLoad (wordPld d a kind off) d a none kind (fun s => addrOff (readS s a) off (kindSize kind)) s

/-- `PLD` with an index register (R78, R79). -/
def execPldIndexed (d a : BitVec 5) (kind : BitVec 3) (idx : BitVec 5) (s : State) : Out :=
  poolLoad (wordPldIndexed d a kind idx) d a (some idx) kind (fun s => addrIdx (readS s a) (readS s idx)) s

/-- `PST` (R78-R80). -/
def execPst (d a : BitVec 5) (kind : BitVec 2) (off : BitVec 11) (s : State) : Out :=
  poolStore (wordPst d a kind off) d a none kind (fun s => addrOff (readS s a) off (2 ^ kind.toNat)) s

/-- `PST` with an index register (R78-R80). -/
def execPstIndexed (d a : BitVec 5) (kind : BitVec 2) (idx : BitVec 5) (s : State) : Out :=
  poolStore (wordPstIndexed d a kind idx) d a (some idx) kind (fun s => addrIdx (readS s a) (readS s idx)) s

/-- The 64 bytes of a vector load in the lanes of a mask. -/
def loadLanes (mask : BitVec 16) (old : VReg) (bs : List Byte) : VReg := laneMerge mask old (vregOf (bytesLane bs))

/-- The bytes of the active lanes written to the pool, lane i at bytes 4i to 4i + 3 (R109). -/
def poolLanes (mask : BitVec 16) (a : Nat) (v : VReg) (s : State) : State :=
  (List.range 16).foldl (fun s i => if mask.getLsbD i then poolWrite (a + 4 * i) (leBytes 4 (lane v i).toNat) s else s) s

/-- A vector pool load (R109): `at` gives the pool address of the checked offset. -/
def vecLoad (w : Word) (d a : BitVec 5) (idx : Option (BitVec 5)) (addr : State → DWord)
    (check : State → DWord → PoolCheck) (pool : State → DWord → Nat) (s : State) : Out :=
  gate anywhere w s fun s => issue w ⟨addrSrcs a idx, [.v d]⟩ s fun s =>
    let x := addr s
    match check s x with
    | some (c, t) => trap c t s
    | none => .next (retire (deliverLater (.vector d (loadLanes (topMask s) (readV s d) (poolRead s (pool s x) 64))) s))

/-- A vector pool store (R109). -/
def vecStore (w : Word) (d a : BitVec 5) (idx : Option (BitVec 5)) (addr : State → DWord)
    (check : State → DWord → PoolCheck) (pool : State → DWord → Nat) (s : State) : Out :=
  gate anywhere w s fun s => issue w ⟨addrSrcs a idx ++ [srcV d], []⟩ s fun s =>
    let x := addr s
    match check s x with
    | some (c, t) => trap c t s
    | none => .next (retire (poolLanes (topMask s) (pool s x) (readV s d) s))

/-- The offset of R109 in 64-byte units, unsigned. -/
def off64 (base : DWord) (off : BitVec 12) : DWord := base + off.setWidth 64 * 64

/-- A pool byte address, and an offset into the AC banks as a pool byte address. -/
def poolAt (_s : State) (x : DWord) : Nat := x.toNat
def acAt (s : State) (x : DWord) : Nat := acBase s + x.toNat

/-- `VPLD` (R109). -/
def execVpld (d a : BitVec 5) (off : BitVec 12) (s : State) : Out :=
  vecLoad (wordVpld d a off) d a none (fun s => off64 (readS s a) off) (fun s x => poolCheck s x 64 true false) poolAt s

/-- `VPLD` with an index register (R109). -/
def execVpldIndexed (d a idx : BitVec 5) (s : State) : Out :=
  vecLoad (wordVpldIndexed d a idx) d a (some idx) (fun s => addrIdx (readS s a) (readS s idx))
    (fun s x => poolCheck s x 64 true false) poolAt s

/-- `VPST` (R109). -/
def execVpst (d a : BitVec 5) (off : BitVec 12) (s : State) : Out :=
  vecStore (wordVpst d a off) d a none (fun s => off64 (readS s a) off) (fun s x => poolCheck s x 64 false true) poolAt s

/-- `VPST` with an index register (R109). -/
def execVpstIndexed (d a idx : BitVec 5) (s : State) : Out :=
  vecStore (wordVpstIndexed d a idx) d a (some idx) (fun s => addrIdx (readS s a) (readS s idx))
    (fun s x => poolCheck s x 64 false true) poolAt s

/-- `VLDA` (R109). -/
def execVlda (d a : BitVec 5) (off : BitVec 12) (s : State) : Out :=
  vecLoad (wordVlda d a off) d a none (fun s => off64 (readS s a) off) (fun s x => acCheck s x true) acAt s

/-- `VLDA` with an index register (R109). -/
def execVldaIndexed (d a idx : BitVec 5) (s : State) : Out :=
  vecLoad (wordVldaIndexed d a idx) d a (some idx) (fun s => addrIdx (readS s a) (readS s idx))
    (fun s x => acCheck s x true) acAt s

/-- `VSTA` (R109). -/
def execVsta (d a : BitVec 5) (off : BitVec 12) (s : State) : Out :=
  vecStore (wordVsta d a off) d a none (fun s => off64 (readS s a) off) (fun s x => acCheck s x false) acAt s

/-- `VSTA` with an index register (R109). -/
def execVstaIndexed (d a idx : BitVec 5) (s : State) : Out :=
  vecStore (wordVstaIndexed d a idx) d a (some idx) (fun s => addrIdx (readS s a) (readS s idx))
    (fun s x => acCheck s x false) acAt s

/-- A pool atomic (R204): checked as a load and a store, it performs before the next instruction issues; the old value
returns after its latency. `AMOCAS` reads `s[d]`. -/
def poolAtomic (w : Word) (op : BitVec 4) (d a b : BitVec 5) (fa fb dbl : Bool) (s : State) : Out :=
  gate anywhere w s fun s => issue w ⟨[srcS a fa, srcS b fb], [.s d]⟩ s fun s =>
    let x := readS s a
    let n := atomicSize dbl
    match poolCheck s x n true true with
    | some (c, t) => trap c t s
    | none =>
      let old := dw (leNat (poolRead s x.toNat n))
      let new := atomicMem op dbl old (readS s b) (readS s d)
      .next (retire (deliverLater (.scalar d (atomicReturn op dbl old)) (poolWrite x.toNat (leBytes n new.toNat) s)))

/-- `PAMOADD` (R204). -/
def execPamoadd (d a b : BitVec 5) (fa fb dbl : Bool) (s : State) : Out :=
  poolAtomic (wordPamoadd d a b fa fb dbl) 0 d a b fa fb dbl s

/-- `PAMOAND` (R204). -/
def execPamoand (d a b : BitVec 5) (fa fb dbl : Bool) (s : State) : Out :=
  poolAtomic (wordPamoand d a b fa fb dbl) 1 d a b fa fb dbl s

/-- `PAMOOR` (R204). -/
def execPamoor (d a b : BitVec 5) (fa fb dbl : Bool) (s : State) : Out :=
  poolAtomic (wordPamoor d a b fa fb dbl) 2 d a b fa fb dbl s

/-- `PAMOXOR` (R204). -/
def execPamoxor (d a b : BitVec 5) (fa fb dbl : Bool) (s : State) : Out :=
  poolAtomic (wordPamoxor d a b fa fb dbl) 3 d a b fa fb dbl s

/-- `PAMOMIN` (R204). -/
def execPamomin (d a b : BitVec 5) (fa fb dbl : Bool) (s : State) : Out :=
  poolAtomic (wordPamomin d a b fa fb dbl) 4 d a b fa fb dbl s

/-- `PAMOMAX` (R204). -/
def execPamomax (d a b : BitVec 5) (fa fb dbl : Bool) (s : State) : Out :=
  poolAtomic (wordPamomax d a b fa fb dbl) 5 d a b fa fb dbl s

/-- `PAMOMINZ` (R204). -/
def execPamominz (d a b : BitVec 5) (fa fb dbl : Bool) (s : State) : Out :=
  poolAtomic (wordPamominz d a b fa fb dbl) 6 d a b fa fb dbl s

/-- `PAMOMAXZ` (R204). -/
def execPamomaxz (d a b : BitVec 5) (fa fb dbl : Bool) (s : State) : Out :=
  poolAtomic (wordPamomaxz d a b fa fb dbl) 7 d a b fa fb dbl s

/-- `PAMOSWAP` (R204). -/
def execPamoswap (d a b : BitVec 5) (fa fb dbl : Bool) (s : State) : Out :=
  poolAtomic (wordPamoswap d a b fa fb dbl) 8 d a b fa fb dbl s

/-- `PAMOCAS` (R204). -/
def execPamocas (d a b : BitVec 5) (fa fb dbl : Bool) (s : State) : Out :=
  poolAtomic (wordPamocas d a b fa fb dbl) 9 d a b fa fb dbl s

/-! ## Global memory (R81-R84, R110) -/

/-- The next place in program order among the memory operations. -/
def takeSeq (s : State) : State × Nat := ({ s with core.mq.seq := s.core.mq.seq + 1 }, s.core.mq.seq)

/-- Loads of the queue, `MARK` entries among them (R82, R158). -/
def loadQueueFull (s : State) : Bool := decide (Config.memQueueDepth ≤ s.core.mq.loads.length)

def storeQueueFull (s : State) : Bool := decide (Config.memQueueDepth ≤ s.core.mq.stores.length)

/-- A load enters its queue (R82). -/
def enqueueLoad (dest : LoadDest) (va pa size : Nat) (s : State) : State :=
  match takeSeq s with
  | (s, q) => { s with core.mq.loads := s.core.mq.loads ++ [⟨q, dest, va, pa, size, none, false⟩] }

/-- An operation enters the store queue (R82). -/
def enqueueStore (op : StoreOp) (va pa size : Nat) (scope : BitVec 3) (s : State) : State :=
  match takeSeq s with
  | (s, q) => { s with core.mq.stores := s.core.mq.stores ++ [⟨q, op, va, pa, size, scope⟩] }

/-- Whether the open line region holds eight accesses: a ninth is illegal (R211). -/
def regionFull (s : State) : Bool := match s.core.mq.region with | some g => decide (8 ≤ g.accs.length) | none => false

/-- Whether a register holds its value: neither empty nor waiting for a result. -/
def regReady (s : State) (r : RegRef) : Bool := !regEmpty s r && !regPending s r

/-- Whether an access stands outside the line of the open region: illegal (R211), which no wait delays once the registers of the address
hold their values (R42). -/
def outsideLine (s : State) (srcs : List Src) (va : DWord) (size : Nat) : Bool :=
  match s.core.mq.region with
  | some g => srcs.all (fun x => regReady s x.reg) && (decide (va.toNat < g.va) || decide (g.va + 128 < va.toNat + size))
  | none => false

/-- An access collected in the open line region (R211): bytes outside the line are illegal. -/
def regionAccess (w : Word) (va : DWord) (size : Nat) (write : Bool) (acc : Nat → RegionAcc) (s : State) : Out :=
  match s.core.mq.region with
  | none => illegal w s
  | some g =>
    if va.toNat < g.va ∨ g.va + 128 < va.toNat + size then illegal w s
    else
      match accessCheck va size write s with
      | (s', .fault c) => trap c va s'
      | (s', .ok pa) => .next (retire { s' with core.mq.region := some { g with accs := g.accs ++ [acc pa] } })

/-- A global scalar load (R81): in a line region it is collected (R211). -/
def globalLoad (w : Word) (d a : BitVec 5) (idx : Option (BitVec 5)) (kind : BitVec 3) (addr : State → DWord) (s : State) : Out :=
  gate inLine w s fun s => if regionFull s || outsideLine s (addrSrcs a idx) (addr s) (kindSize kind) then illegal w s
    else issue w ⟨addrSrcs a idx, [.s d]⟩ s fun s =>
    let va := addr s
    let n := kindSize kind
    if s.core.mq.region.isSome then regionAccess w va n false (fun pa => .load pa n d kind) s
    else
      match accessCheck va n false s with
      | (s', .fault c) => trap c va s'
      | (s', .ok pa) =>
        if loadQueueFull s' then waitOn .external s'
        else .next (retire (enqueueLoad (.scalar d kind) va.toNat pa n (setSEmpty d true s')))

/-- A global scalar store (R81, R83). -/
def globalStore (w : Word) (d a : BitVec 5) (idx : Option (BitVec 5)) (width : BitVec 2) (sc : BitVec 3) (addr : State → DWord)
    (s : State) : Out :=
  gate inLine w s fun s => if regionFull s || outsideLine s (addrSrcs a idx) (addr s) (2 ^ width.toNat) then illegal w s
    else issue w ⟨addrSrcs a idx ++ [srcS d], []⟩ s fun s =>
    let va := addr s
    let n := 2 ^ width.toNat
    let bs := storeBytes n (readS s d)
    if s.core.mq.region.isSome then regionAccess w va n true (fun pa => .store pa bs) s
    else
      match accessCheck va n true s with
      | (s', .fault c) => trap c va s'
      | (s', .ok pa) =>
        if storeQueueFull s' then waitOn .external s'
        else
          let cells := (List.range n).map (fun i => (pa + i, bs.getD i 0))
          .next (retire (enqueueStore (.write cells) va.toNat pa n (storeScope s' sc) s'))

/-- `GLD` (R81). -/
def execGld (d a : BitVec 5) (kind : BitVec 3) (off : BitVec 11) (s : State) : Out :=
  globalLoad (wordGld d a kind off) d a none kind (fun s => addrOff (readS s a) off (kindSize kind)) s

/-- `GLD` with an index register (R81). -/
def execGldIndexed (d a : BitVec 5) (kind : BitVec 3) (idx : BitVec 5) (s : State) : Out :=
  globalLoad (wordGldIndexed d a kind idx) d a (some idx) kind (fun s => addrIdx (readS s a) (readS s idx)) s

/-- `GST` (R81, R83). -/
def execGst (d a : BitVec 5) (width : BitVec 2) (sc : BitVec 3) (off : BitVec 9) (s : State) : Out :=
  globalStore (wordGst d a width sc off) d a none width sc (fun s => addrOff (readS s a) off (2 ^ width.toNat)) s

/-- `GST` with an index register (R81, R83). -/
def execGstIndexed (d a : BitVec 5) (width : BitVec 2) (sc : BitVec 3) (idx : BitVec 5) (s : State) : Out :=
  globalStore (wordGstIndexed d a width sc idx) d a (some idx) width sc (fun s => addrIdx (readS s a) (readS s idx)) s

/-- A global vector load (R110): an empty mask performs no access after the checks. -/
def vecGlobalLoad (w : Word) (d a : BitVec 5) (idx : Option (BitVec 5)) (addr : State → DWord) (s : State) : Out :=
  gate anywhere w s fun s => issue w ⟨addrSrcs a idx, [.v d]⟩ s fun s =>
    let va := addr s
    match accessCheck va 64 false s with
    | (s', .fault c) => trap c va s'
    | (s', .ok pa) =>
      if topMask s' = 0 then .next (retire s')
      else if loadQueueFull s' then waitOn .external s'
      else .next (retire (enqueueLoad (.vector d (topMask s')) va.toNat pa 64 (setVEmpty d true s')))

/-- Bytes of the active lanes of a vector register as cells. -/
def laneCells (mask : BitVec 16) (pa : Nat) (v : VReg) : List Host.Cell :=
  (List.range 64).filterMap (fun i =>
    if mask.getLsbD (i / 4) then some (pa + i, (lane v (i / 4)).extractLsb' (8 * (i % 4)) 8) else none)

/-- A global vector store (R110). -/
def vecGlobalStore (w : Word) (d a : BitVec 5) (idx : Option (BitVec 5)) (sc : BitVec 3) (addr : State → DWord) (s : State) : Out :=
  gate anywhere w s fun s => issue w ⟨addrSrcs a idx ++ [srcV d], []⟩ s fun s =>
    let va := addr s
    match accessCheck va 64 true s with
    | (s', .fault c) => trap c va s'
    | (s', .ok pa) =>
      if topMask s' = 0 then .next (retire s')
      else if storeQueueFull s' then waitOn .external s'
      else .next (retire (enqueueStore (.write (laneCells (topMask s') pa (readV s' d))) va.toNat pa 64 (storeScope s' sc) s'))

/-- `VGLD` (R110). -/
def execVgld (d a : BitVec 5) (off : BitVec 10) (s : State) : Out :=
  vecGlobalLoad (wordVgld d a off) d a none (fun s => addrOff (readS s a) off 64) s

/-- `VGLD` with an index register (R110). -/
def execVgldIndexed (d a idx : BitVec 5) (s : State) : Out :=
  vecGlobalLoad (wordVgldIndexed d a idx) d a (some idx) (fun s => addrIdx (readS s a) (readS s idx)) s

/-- `VGST` (R110). -/
def execVgst (d a : BitVec 5) (sc : BitVec 3) (off : BitVec 10) (s : State) : Out :=
  vecGlobalStore (wordVgst d a sc off) d a none sc (fun s => addrOff (readS s a) off 64) s

/-- `VGST` with an index register (R110). -/
def execVgstIndexed (d a : BitVec 5) (sc : BitVec 3) (idx : BitVec 5) (s : State) : Out :=
  vecGlobalStore (wordVgstIndexed d a sc idx) d a (some idx) sc (fun s => addrIdx (readS s a) (readS s idx)) s

/-! ## Loads perform and return (R82, R84, R158) -/

/-- Whether bytes [x, x+n) and [y, y+m) of memory overlap. -/
def overlaps (x n y m : Nat) : Bool := decide (x < y + m) && decide (y < x + n)

/-- Whether a store-queue operation overlaps bytes [pa, pa+n): a vector store with all its 64 bytes, whatever lanes it writes
(R110). -/
def storeTouches (e : StoreEntry) (pa n : Nat) : Bool :=
  match e.op with
  | .write _ | .atomic _ _ _ _ _ | .red _ _ _ _ | .redo _ _ _ _ | .region _ => overlaps e.pa e.size pa n
  | .mark | .fenceRel | .semAdd _ _ _ | .barArrive _ => false

/-- Whether a store-queue operation writes some byte of [pa, pa+n). -/
def storeWrites (e : StoreEntry) (pa n : Nat) : Bool :=
  match e.op with
  | .write cells => cells.any (fun c => decide (pa ≤ c.1) && decide (c.1 < pa + n))
  | _ => storeTouches e pa n

/-- The bytes [pa, pa+n) when one store holds all of them. (DEDUCED, log entry 23.) -/
def storeHolds (e : StoreEntry) (pa n : Nat) : Option (List Byte) :=
  match e.op with
  | .write cells => (List.range n).mapM (fun i => (cells.find? (fun c => c.1 == pa + i)).map (fun c => c.2))
  | _ => none

/-- What older store-queue entries make of a load (R82, R110, R199, R206): the youngest that writes some of its bytes gives them when it
holds all of them; any other overlap is waited for. (DEDUCED, log entry 23.) -/
def forward (s : State) (l : LoadEntry) : Option (Option (List Byte)) :=
  let older := s.core.mq.stores.filter (fun e => decide (e.seq < l.seq) && storeTouches e l.pa l.size)
  match (older.filter (fun e => storeWrites e l.pa l.size)).getLast? with
  | some e => some (storeHolds e l.pa l.size)
  | none => if older.isEmpty then none else some none

/-- Whether a load stands behind a `MARK` entry (R158). -/
def behindMark (s : State) (l : LoadEntry) : Bool :=
  s.core.mq.loads.any (fun m => m.dest == .mark && decide (m.seq < l.seq))

/-- A load's data is fixed: it has performed. -/
def setLoadData (seq : Nat) (bs : List Byte) (s : State) : State :=
  { s with core.mq.loads := s.core.mq.loads.map (fun l => if l.seq = seq then { l with data := some bs } else l) }

/-- A load has been sent to memory. -/
def setLoadSent (seq : Nat) (s : State) : State :=
  { s with core.mq.loads := s.core.mq.loads.map (fun l => if l.seq = seq then { l with sent := true } else l) }

/-- Whether a load waits for an older atomic, reduction or line region of its core that has left the store queue and has not been
applied (R199, R206, R208). -/
def behindApplied (s : State) (l : LoadEntry) : Bool :=
  ringTouches s l.pa l.size || s.core.mq.redoOut.any (fun r => decide (r.2.2 < l.seq) && r.1 == lineNo l.pa)

/-- Whether a load waits for older loads: behind one that a store or an operation of its core holds back before it is sent (R82, R158), and
behind one of the same location, since loads of one location perform in program order (R239). Every other older load is sent at the
latest now and may perform later (R158, R241). -/
def behindLoads (s : State) (l : LoadEntry) : Bool :=
  s.core.mq.loads.any (fun m => decide (m.seq < l.seq) && m.dest != .mark && m.data.isNone &&
    (overlaps m.pa m.size l.pa l.size || (!m.sent && (forward s m == some none || behindApplied s m))))

/-- The unit in which a load is single-copy atomic (R240): the whole of a scalar, each lane of a vector. -/
def loadUnit (l : LoadEntry) : Nat := match l.dest with | .vector _ _ => 4 | _ => if l.size = 64 then 4 else l.size

/-- Whether a `MARK`'s load-queue entry may leave (R158, R194): its store-queue entry has gone, and older stores have
performed at its scope, which stands in `size`. (DEDUCED, log entry 30.) -/
def markOpen (s : State) (m : LoadEntry) : Bool :=
  s.core.mq.stores.any (fun e => decide (e.seq ≤ m.seq)) || s.core.mq.redoOut.any (fun r => decide (r.2.2 < m.seq))
    || scopeOpen s (BitVec.ofNat 3 m.size) m.seq

/-- A load of the modelled core performs (R82, R158, R225, R291); a `MARK` entry leaves the load queue. -/
def performLoad (idx : Nat) (s : State) : State :=
  match s.core.mq.loads[idx]? with
  | none => s
  | some l =>
    if l.dest = .mark then
      if markOpen s l then s else { s with core.mq.loads := s.core.mq.loads.filter (fun x => x.seq != l.seq) }
    else if l.data.isSome || behindMark s l || behindLoads s l || behindApplied s l then s
    else
      match forward s l with
      | some (some bs) => setLoadData l.seq bs s
      | some none => s
      | none =>
        match readOwn (ownClass s l.va l.pa) (lineNo l.pa) (lineOff l.pa) l.size (loadUnit l) l.seq (touchPa s.core.launch l.pa s) with
        | (s', .bytes bs) => setLoadData l.seq bs s'
        | (s', _) => setLoadSent l.seq s'

/-- The data of a load fills its destination and clears the empty bit (R84, R110). -/
def returnLoad (dest : LoadDest) (bs : List Byte) (s : State) : State :=
  match dest with
  | .scalar d kind => setSEmpty d false (writeS d (loadValue kind bs) s)
  | .vector d lanes => setVEmpty d false (writeV d (loadLanes lanes (readV s d) bs) s)
  | .discard | .mark => s

/-- `GLD_DATA_RETURN` (R84, R110): the data fills the destination and clears its empty bit; an uncorrectable error aborts
the launch and fills nothing. -/
def execGldDataReturn (idx : Nat) (err : Bool) (s : State) : Out :=
  match s.core.mq.loads[idx]? with
  | none => .next s
  | some l =>
    if err then .next (doom s.core.launch { AbortInfo.of 6 with addr := dw l.va } s)
    else
      match l.data with
      | none => .next s
      | some bs => .next (returnLoad l.dest bs { s with core.mq.loads := s.core.mq.loads.eraseIdx idx })

/-- `LATENCY_RESULT_DELIVERY` (R49, R91): a result is written and its interlock ends. (DEDUCED, log entry 18.) -/
def execLatencyResultDelivery (idx : Nat) (s : State) : Out :=
  match s.core.regs.latent[idx]? with
  | none => .next s
  | some l =>
    let s := { s with core.regs.latent := s.core.regs.latent.eraseIdx idx }
    match l with
    | .scalar r x => .next (writeS r x s)
    | .vector r x => .next (writeV r x s)
    | .mask r x => .next (writeQ r x s)

/-- `HOME_READ` (R291): a read reaches its home, the modelled core's `idx`th load or the `idx`th request of others. -/
def execHomeRead (src : ReqSrc) (s : State) : Out :=
  match src with
  | .own idx => .next (performLoad idx s)
  | .other idx =>
    match s.homes.queue[idx]? with
    | some r =>
      match r.op with
      | .read size =>
        match homeRead r.launch r.sec r.cls (lineNo r.pa) (maskOf (lineOff r.pa) size) s with
        | (s', .stall) => .next s'
        | (s', _) => .next { s' with homes.queue := s'.homes.queue.eraseIdx idx }
      | .write _ => .next s
    | none => .next s

end Sys2Proof.Machine
end

