-- ==== Sys2Proof/Machine/Sync.lean ====
section
/-! DEFINITION. Synchronisation (chapter 08): fences and MARK, global atomics, reductions, atomic line regions, semaphores,
groups and barriers, and the events by which the store queue's entries are applied. -/

namespace Sys2Proof.Machine

/-! ## Fences (R193-R195) -/

/-- Whether an older load, atomic result or line-region result has not returned (R194). -/
def resultsOut (s : State) : Bool :=
  s.core.mq.loads.any (fun l => l.dest != .mark) || !s.core.mq.results.isEmpty
    || s.core.mq.stores.any (fun e => match e.op with | .region _ => true | _ => false)
    || s.net.ringReqs.any (fun r => isOwnReq s r && (match r.body with | .store (.region _) _ _ => true | _ => false))

/-- A fence that continues at once (R194): `MARK` takes an entry in each queue, `FENCE.rel` one in the store queue. -/
def postFence (w : Word) (mark : Bool) (sc : BitVec 3) (s : State) : Out :=
  gate anywhere w s fun s => issue w {} s fun s =>
    let scope := fenceScope s sc
    if storeQueueFull s || (mark && loadQueueFull s) then waitOn .external s
    else
      match takeSeq s with
      | (s, q) =>
        let loads := if mark then s.core.mq.loads ++ [⟨q, .mark, 0, 0, scope.toNat, none, false⟩] else s.core.mq.loads
        let entry : StoreEntry := ⟨q, if mark then .mark else .fenceRel, 0, 0, 0, scope⟩
        .next (retire { s with core.mq.loads := loads, core.mq.stores := s.core.mq.stores ++ [entry], core.mq.lastFence := q })

/-- `MARK` (R158, R194). -/
def execMark (sc : BitVec 3) (s : State) : Out := postFence (wordMark sc) true sc s

/-- `FENCE.rel` (R194). -/
def execFenceRel (sc : BitVec 3) (s : State) : Out := postFence (wordFenceRel sc) false sc s

/-- `FENCE.acq` (R194): waits for older results, then invalidates (R238). -/
def execFenceAcq (sc : BitVec 3) (s : State) : Out :=
  let w := wordFenceAcq sc
  gate anywhere w s fun s => issue w {} s fun s =>
    if resultsOut s then waitOn .external s else .next (retire (acquire (fenceScope s sc) s))

/-- `FENCE.full` (R194, R237): waits until the store queue is empty, every older access has performed at the scope and
every older load has returned, then acts as `FENCE.acq`. -/
def execFenceFull (sc : BitVec 3) (s : State) : Out :=
  let w := wordFenceFull sc
  gate anywhere w s fun s => issue w {} s fun s =>
    let scope := fenceScope s sc
    if !s.core.mq.stores.isEmpty then waitOn .external s
    else
      match releasePush scope s.core.mq.seq s with
      | (s', .held) => waitOn .external s'
      | (s', .done) =>
        if resultsOut s' || !s'.core.mq.redoOut.isEmpty || scopeOpen s' scope s'.core.mq.seq then waitOn .external s'
        else .next (retire (acquire scope s'))

/-! ## Global atomics (R198, R199) -/

/-- A wait on a register's interlock alone. -/
def waitPending (r : BitVec 5) (s : State) (k : State → Out) : Out :=
  if r ≠ 0 ∧ regPending s (.s r) then waitOn .external s else k s

/-- The result of an operation on its way to `s[d]`: none for a posted one (R198, R199). -/
def pendResult (d : BitVec 5) (s : State) : State :=
  if d = 0 then s else { s with core.mq.results := s.core.mq.results ++ [⟨s.core.mq.seq, d, none⟩] }

/-- A global atomic (R199). `AMOCAS` reads `s[d]` at issue. -/
def globalAtomic (w : Word) (op : BitVec 4) (d a b : BitVec 5) (fa fb esc dbl : Bool) (s : State) : Out :=
  let cas : List Src := if op = 9 then [srcS d] else []
  gate anywhere w s fun s => issue w ⟨[srcS a fa, srcS b fb] ++ cas, []⟩ s fun s =>
    if sIsEmpty s d then waitOn (regWait s (.s d)) s
    else
      let va := readS s a
      match accessCheck va (atomicSize dbl) true s with
      | (s', .fault c) => trap c va s'
      | (s', .ok pa) =>
        if esc != (ownClass s' va.toNat pa == 1) then trap .access va s'
        else waitPending d s' fun s' =>
          if storeQueueFull s' then waitOn .external s'
          else
            let e : StoreOp := .atomic op dbl (readS s' b) (readS s' d) d
            .next (retire (enqueueStore e va.toNat pa (atomicSize dbl) 5 (pendResult d s')))

/-- `AMOADD` (R198, R199). -/
def execAmoadd (d a b : BitVec 5) (fa fb esc dbl : Bool) (s : State) : Out :=
  globalAtomic (wordAmoadd d a b fa fb esc dbl) 0 d a b fa fb esc dbl s

/-- `AMOAND` (R198, R199). -/
def execAmoand (d a b : BitVec 5) (fa fb esc dbl : Bool) (s : State) : Out :=
  globalAtomic (wordAmoand d a b fa fb esc dbl) 1 d a b fa fb esc dbl s

/-- `AMOOR` (R198, R199). -/
def execAmoor (d a b : BitVec 5) (fa fb esc dbl : Bool) (s : State) : Out :=
  globalAtomic (wordAmoor d a b fa fb esc dbl) 2 d a b fa fb esc dbl s

/-- `AMOXOR` (R198, R199). -/
def execAmoxor (d a b : BitVec 5) (fa fb esc dbl : Bool) (s : State) : Out :=
  globalAtomic (wordAmoxor d a b fa fb esc dbl) 3 d a b fa fb esc dbl s

/-- `AMOMIN` (R198, R199). -/
def execAmomin (d a b : BitVec 5) (fa fb esc dbl : Bool) (s : State) : Out :=
  globalAtomic (wordAmomin d a b fa fb esc dbl) 4 d a b fa fb esc dbl s

/-- `AMOMAX` (R198, R199). -/
def execAmomax (d a b : BitVec 5) (fa fb esc dbl : Bool) (s : State) : Out :=
  globalAtomic (wordAmomax d a b fa fb esc dbl) 5 d a b fa fb esc dbl s

/-- `AMOMINZ` (R198, R199). -/
def execAmominz (d a b : BitVec 5) (fa fb esc dbl : Bool) (s : State) : Out :=
  globalAtomic (wordAmominz d a b fa fb esc dbl) 6 d a b fa fb esc dbl s

/-- `AMOMAXZ` (R198, R199). -/
def execAmomaxz (d a b : BitVec 5) (fa fb esc dbl : Bool) (s : State) : Out :=
  globalAtomic (wordAmomaxz d a b fa fb esc dbl) 7 d a b fa fb esc dbl s

/-- `AMOSWAP` (R198, R199). -/
def execAmoswap (d a b : BitVec 5) (fa fb esc dbl : Bool) (s : State) : Out :=
  globalAtomic (wordAmoswap d a b fa fb esc dbl) 8 d a b fa fb esc dbl s

/-- `AMOCAS` (R198, R199). -/
def execAmocas (d a b : BitVec 5) (fa fb esc dbl : Bool) (s : State) : Out :=
  globalAtomic (wordAmocas d a b fa fb esc dbl) 9 d a b fa fb esc dbl s

/-! ## Reductions (R205-R208) -/

/-- The 128 bytes of a contribution: v[b] and then v[b+1]. -/
def redData (s : State) (b : BitVec 5) : LineData :=
  lineOfWords (fun i => if i < 16 then lane (readV s b) i else lane (readV s (b + 1)) (i - 16))

/-- The bytes of the active lanes, the mask governing lane i of both registers (R205). -/
def redMask (s : State) : LineMask :=
  (List.range 32).foldl (fun m i => if (topMask s).getLsbD (i % 16) then m ||| maskOf (4 * i) 4 else m) 0

/-- A posted reduction of a line (R205, R206). -/
def reduction (w : Word) (a b : BitVec 5) (fa : Bool) (scope : State → BitVec 3)
    (check : State → Option (Cause × DWord)) (op : State → StoreOp) (after : State → State) (s : State) : Out :=
  gate anywhere w s fun s => issue w ⟨[srcS a fa, srcV b, srcV (b + 1)], []⟩ s fun s =>
    let va := readS s a
    match accessCheck va 128 true s with
    | (s', .fault c) => trap c va s'
    | (s', .ok pa) =>
      match check s' with
      | some (c, t) => trap c t s'
      | none =>
        if storeQueueFull s' then waitOn .external s'
        else .next (retire (after (enqueueStore (op s') va.toNat pa 128 (scope s') s')))

/-- `RED` (R205, R207): the per-core index counts this core's `RED` instructions. -/
def redInstr (w : Word) (op : RedOp) (a b : BitVec 5) (fa : Bool) (sc : BitVec 3) (s : State) : Out :=
  reduction w a b fa (fun s => storeScope s sc) (fun _ => none)
    (fun s => .red op (redData s b) (redMask s) s.core.mq.redIndex)
    (fun s => { s with core.mq.redIndex := s.core.mq.redIndex + 1 }) s

/-- `REDO` (R205, R208): the core must be a member of a group of the launch's table. -/
def redoInstr (w : Word) (op : RedOp) (a b : BitVec 5) (fa : Bool) (grp : Byte) (s : State) : Out :=
  reduction w a b fa (fun s => storeScope s 0)
    (fun s => match groupOf (ownLaunch s) grp with
      | some r => if groupHas r s.core.ord.toNat then none else some (.group, grp.setWidth 64)
      | none => some (.group, grp.setWidth 64))
    (fun s => .redo op (redData s b) (redMask s) grp) (fun s => s) s

/-- `RED.f32` (R205). -/
def execRedF32 (a b : BitVec 5) (fa : Bool) (sc : BitVec 3) (s : State) : Out := redInstr (wordRedF32 a b fa sc) .f32 a b fa sc s

/-- `RED.bf16` (R205). -/
def execRedBf16 (a b : BitVec 5) (fa : Bool) (sc : BitVec 3) (s : State) : Out := redInstr (wordRedBf16 a b fa sc) .bf16 a b fa sc s

/-- `RED.i32` (R205). -/
def execRedI32 (a b : BitVec 5) (fa : Bool) (sc : BitVec 3) (s : State) : Out := redInstr (wordRedI32 a b fa sc) .i32 a b fa sc s

/-- `RED.f32max` (R205). -/
def execRedF32max (a b : BitVec 5) (fa : Bool) (sc : BitVec 3) (s : State) : Out := redInstr (wordRedF32max a b fa sc) .f32max a b fa sc s

/-- `REDO.f32` (R205, R208). -/
def execRedoF32 (a b : BitVec 5) (fa : Bool) (grp : Byte) (s : State) : Out := redoInstr (wordRedoF32 a b fa grp) .f32 a b fa grp s

/-- `REDO.bf16` (R205, R208). -/
def execRedoBf16 (a b : BitVec 5) (fa : Bool) (grp : Byte) (s : State) : Out := redoInstr (wordRedoBf16 a b fa grp) .bf16 a b fa grp s

/-- `REDO.i32` (R205, R208). -/
def execRedoI32 (a b : BitVec 5) (fa : Bool) (grp : Byte) (s : State) : Out := redoInstr (wordRedoI32 a b fa grp) .i32 a b fa grp s

/-- `REDO.f32max` (R205, R208). -/
def execRedoF32max (a b : BitVec 5) (fa : Bool) (grp : Byte) (s : State) : Out := redoInstr (wordRedoF32max a b fa grp) .f32max a b fa grp s

/-! ## Atomic line regions (R210-R212) -/

/-- `ALR` (R210): opens a region on a line. -/
def execAlr (a : BitVec 5) (fa : Bool) (s : State) : Out :=
  let w := wordAlr a fa
  gate { inMacro := false, endWord := false } w s fun s => issue w ⟨[srcS a fa], []⟩ s fun s =>
    let va := readS s a
    match accessCheck va 128 true s with
    | (s', .fault c) => trap c va s'
    | (s', .ok pa) => .next (retire { s' with core.mq.region := some ⟨s'.core.seq.pc, va.toNat, pa, []⟩ })

/-- Bytes that the loads of a region read in all. -/
def regionLoadSize (accs : List RegionAcc) : Nat :=
  accs.foldl (fun n a => match a with | .load _ k _ _ => n + k | .store _ _ => n) 0

/-- The destinations of a region's loads marked empty. -/
def markRegion (accs : List RegionAcc) (s : State) : State :=
  accs.foldl (fun s a => match a with | .load _ _ d _ => setSEmpty d true s | .store _ _ => s) s

/-- `ALRE` (R211, R212): waits until every older store-queue entry has left, then sends the region as one request. A
region on a line of another package whose loads read more than 16 bytes is an access fault (R367). -/
def execAlre (s : State) : Out :=
  match s.core.mq.region with
  | none => illegal wordAlre s
  | some g =>
    gate { inRegion := true, inMacro := false, endWord := false } wordAlre s fun s => issue wordAlre {} s fun s =>
      if !s.core.mq.stores.isEmpty then waitOn .external s
      else if isRemote s (lineNo g.pa) ∧ 16 < regionLoadSize g.accs then trap .access (dw g.va) s
      else
        let s := markRegion g.accs { s with core.mq.region := none }
        .next (retire (enqueueStore (.region g.accs) g.va g.pa 128 5 s))

/-- The loads of an applied region fill their destinations (R212). -/
def fillRegion : List RegionAcc → List Byte → State → State
  | [], _, s => s
  | .load _ n d kind :: r, bs, s =>
    fillRegion r (bs.drop n) (setSEmpty d false (writeS d (loadValue kind (bs.take n)) s))
  | .store _ _ :: r, bs, s => fillRegion r bs s

/-! ## Semaphores (R213-R215) -/

/-- The value of a semaphore. -/
def semValue (s : State) (launch : Nat) (sec : Bool) (n : Byte) : Word :=
  ((s.sched.sems.find? (fun x => x.1 == launch && x.2.1 == sec && x.2.2.1 == n)).map (fun x => x.2.2.2)).getD 0

/-- Whether a semaphore value has passed a captured one (R215). -/
def semPassed (c v : Word) : Bool := decide ((c - v).toNat < 2 ^ 31)

/-- The hub wakes the modelled core when the semaphore its `SEMWAIT` captured has passed the value (R215). -/
def semWake (s : State) : State :=
  match s.core.seq.semCap with
  | some (n, v, false) =>
    if semPassed (semValue s s.core.launch s.core.sec n) v then { s with core.seq.semCap := some (n, v, true) } else s
  | _ => s

/-- An add applied at the hub: the state, and the old value. -/
def semApply (launch : Nat) (sec : Bool) (n : Byte) (v : Word) (s : State) : State × Word :=
  let old := semValue s launch sec n
  let rest := s.sched.sems.filter (fun x => !(x.1 == launch && x.2.1 == sec && x.2.2.1 == n))
  (semWake { s with sched.sems := if old + v = 0 then rest else (launch, sec, n, old + v) :: rest }, old)

/-- Whether a register names a semaphore of the launch (R214). -/
def semLegal (s : State) (x : DWord) : Bool := decide (x.toNat < 256) && decide (x.toNat < (ownLaunch s).sems)

/-- A token slot. -/
def slotOf (s : State) (k : BitVec 5) : TokenSlot := vget (w := 5) s.core.eng.slots k

def setSlot (k : BitVec 5) (t : TokenSlot) (s : State) : State :=
  { s with core.eng.slots := vset (w := 5) s.core.eng.slots k t }

/-- `SEMBIND` (R214, R215): the semaphore fault comes before the wait for the slot's counters. -/
def execSembind (slot a : BitVec 5) (fa : Bool) (s : State) : Out :=
  let w := wordSembind slot a fa
  gate anywhere w s fun s => issue w ⟨[srcS a fa], []⟩ s fun s =>
    let x := readS s a
    if !semLegal s x then trap .semaphore x s
    else
      let t := slotOf s slot
      if t.cmp ≠ t.iss then waitOn .external s
      else .next (retire (setSlot slot { t with sem := some (x.setWidth 8) } s))

/-- `SEMBIND.off` (R214, R215). -/
def execSembindOff (slot : BitVec 5) (s : State) : Out :=
  let w := wordSembindOff slot
  gate anywhere w s fun s => issue w {} s fun s =>
    let t := slotOf s slot
    if t.cmp ≠ t.iss then waitOn .external s else .next (retire (setSlot slot { t with sem := none } s))

/-- Issue of `SEMADD` and `SEMWAIT`: the semaphore fault on s[a] comes after an empty-source trap and before every wait but that for s[a]
itself (R42, R214). -/
def semIssue (w : Word) (a b : BitVec 5) (fa fb : Bool) (s : State) (k : State → DWord → Out) : Out :=
  let trapping : List Src := if fb && sIsEmpty s b then [srcS b fb] else []
  issue w ⟨srcS a fa :: trapping, []⟩ s fun s =>
    let x := readS s a
    if !semLegal s x then trap .semaphore x s else issue w ⟨[srcS b fb], []⟩ s fun s => k s x

/-- `SEMADD` (R214, R215): a release at its scope, then the add at the hub; the old value returns under the interlock of
R199. -/
def execSemadd (d a b : BitVec 5) (fa fb : Bool) (sc : BitVec 3) (s : State) : Out :=
  let w := wordSemadd d a b fa fb sc
  gate anywhere w s fun s => semIssue w a b fa fb s fun s x =>
    if sIsEmpty s d then waitOn (regWait s (.s d)) s
    else waitPending d s fun s =>
      if storeQueueFull s then waitOn .external s
      else .next (retire (enqueueStore (.semAdd (x.setWidth 8) (lo32 (readS s b)) d) 0 0 0 (fenceScope s sc) (pendResult d s)))

/-- `SEMWAIT` (R214, R215): sleeps until the semaphore has passed the captured value, then acts as `FENCE.acq`. What has been satisfied
stays so while older results are still out. -/
def execSemwait (a b : BitVec 5) (fa fb : Bool) (sc : BitVec 3) (s : State) : Out :=
  let w := wordSemwait a b fa fb sc
  gate anywhere w s fun s => semIssue w a b fa fb s fun s x =>
    let n : Byte := x.setWidth 8
    let v := lo32 (readS s b)
    let woken := match s.core.seq.semCap with | some (_, _, y) => y | none => false
    let passed := woken || semPassed (semValue s s.core.launch s.core.sec n) v
    if !passed || resultsOut s then waitOn .external { s with core.seq.semCap := some (n, v, passed) }
    else .next (retire (acquire (fenceScope s sc) { s with core.seq.semCap := none }))

/-! ## Groups and barriers (R216-R218) -/

/-- The place of a member: the core it is bound to or last ran on. -/
def memberPlace (s : State) (m : Member) : CoreId :=
  if m.ord = s.core.ord ∧ m.sec = s.core.sec ∧ s.core.seq.run ≠ .unbound then s.core.id else m.place

/-- The smallest scope that encloses cores, coded as in R6. -/
def enclosingScope (l : List CoreId) : BitVec 3 :=
  match l with
  | [] => 1
  | x :: r =>
    if r.all (fun y => y == x) then 1
    else if r.all (fun y => layerOf y == layerOf x) then 2
    else if r.all (fun y => hubOf y == hubOf x) then 3
    else if r.all (fun y => corePkg y == corePkg x && coreField y == coreField x) then 4
    else if r.all (fun y => corePkg y == corePkg x) then 5
    else if r.all (fun y => (corePkg y).toNat / 8 == (corePkg x).toNat / 8) then 6
    else 7

/-- Members of a group in the modelled core's copy of its launch. -/
def groupMembers (s : State) (r : List (Nat × Nat)) : List Member :=
  (ownLaunch s).members.filter (fun m => m.sec == s.core.sec && groupHas r m.ord.toNat)

/-- The scope of a group (R218). -/
def groupScope (s : State) (r : List (Nat × Nat)) : BitVec 3 := enclosingScope ((groupMembers s r).map (memberPlace s))

/-- Arrivals of an ordinal at a group's barrier (R217). -/
def barCount (s : State) (launch : Nat) (sec : Bool) (g : Byte) (ord : BitVec 24) : Nat :=
  ((s.sched.bars.find? (fun b => b.1 == launch && b.2.1 == sec && b.2.2.1 == g && b.2.2.2.1 == ord)).map (fun b => b.2.2.2.2)).getD 0

/-- One more arrival. -/
def barArrival (launch : Nat) (sec : Bool) (g : Byte) (ord : BitVec 24) (s : State) : State :=
  let n := barCount s launch sec g ord
  let rest := s.sched.bars.filter (fun b => !(b.1 == launch && b.2.1 == sec && b.2.2.1 == g && b.2.2.2.1 == ord))
  { s with sched.bars := (launch, sec, g, ord, n + 1) :: rest }

/-- Whether the modelled core's arrival is still on its way: in the store queue or on the ring. -/
def barSent (s : State) (g : Byte) : Bool :=
  s.core.mq.stores.any (fun e => e.op == .barArrive g)
    || s.net.ringReqs.any (fun r => isOwnReq s r && r.body == .barArrive g)

/-- Whether every member has arrived at the modelled core's episode or has executed `EXIT`; one that a save has met while it drained has. -/
def barOpen (s : State) (g : Byte) (r : List (Nat × Nat)) : Bool :=
  let n := barCount s s.core.launch s.core.sec g s.core.ord
  let left := fun (m : Member) => s.sched.saves.any (fun a => a.launch == s.core.launch && a.sec == m.sec && a.ord == m.ord && a.exited)
  (groupMembers s r).all (fun m =>
    m.ord == s.core.ord || decide (n ≤ barCount s s.core.launch s.core.sec g m.ord)
      || m.state == .exited || m.state == .done || (m.state == .saved && left m))

/-- The scope of the core's pending barrier on a group: 0 where a handler has skipped the `BAR` that arrived (R217). -/
def barPending (s : State) (g : Byte) : Option (BitVec 3) :=
  (s.core.seq.barWait.find? (fun b => b.1 == g)).map (fun b => b.2)

/-- The core's pending barrier on a group with a scope. -/
def setBarWait (g : Byte) (sc : BitVec 3) (s : State) : State :=
  { s with core.seq.barWait := (g, sc) :: s.core.seq.barWait.filter (fun b => b.1 != g) }

/-- The pending barrier on a group is over. -/
def clearBarWait (g : Byte) (s : State) : State :=
  { s with core.seq.barWait := s.core.seq.barWait.filter (fun b => b.1 != g) }

/-- `BAR` (R216, R217): a release and the arrival go into the store queue once, and the core waits on until every member
has arrived; then it acts as `FENCE.acq`. A `BAR` that follows one skipped in its wait releases again, the arrival at the episode
standing. (DEDUCED, log entry 64.) -/
def execBar (sc : BitVec 3) (grp : Byte) (s : State) : Out :=
  let w := wordBar sc grp
  gate anywhere w s fun s => issue w {} s fun s =>
    match groupOf (ownLaunch s) grp with
    | none => trap .group (grp.setWidth 64) s
    | some r =>
      if !groupHas r s.core.ord.toNat then trap .group (grp.setWidth 64) s
      else
        let scope := presentScope s (if sc = 0 then groupScope s r else sc)
        let release := fun (op : StoreOp) =>
          if storeQueueFull s then waitOn .external s
          else waitOn .external (enqueueStore op 0 0 0 scope (setBarWait grp scope s))
        match barPending s grp with
        | some held =>
          if held = 0 then release .fenceRel
          else if barSent s grp || !barOpen s grp r || resultsOut s then waitOn .external s
          else .next (retire (acquire held (clearBarWait grp s)))
        | none => release (.barArrive grp)

/-- The record `GRPINFO` returns (R218). -/
def groupInfo (s : State) (r : List (Nat × Nat)) : DWord :=
  let mem := groupHas r s.core.ord.toNat
  dw (groupSize r % 2 ^ 24) ||| dw (if mem then groupRank r s.core.ord.toNat % 2 ^ 24 else 0) <<< 24
    ||| b64 mem <<< 48 ||| (groupScope s r).setWidth 64 <<< 49

/-- `GRPINFO` (R216, R218). -/
def execGrpinfo (d : BitVec 5) (grp : Byte) (s : State) : Out :=
  let w := wordGrpinfo d grp
  gate anywhere w s fun s => issue w ⟨[], [.s d]⟩ s fun s =>
    match groupOf (ownLaunch s) grp with
    | none => trap .group (grp.setWidth 64) s
    | some r => .next (retire (deliverLater (.scalar d (groupInfo s r)) s))

/-! ## The store queue's head (R158, R199, R206, R212, R217, R234, R237) -/

/-- The head of the store queue leaves. -/
def popStore (s : State) : State := { s with core.mq.stores := s.core.mq.stores.drop 1 }

/-- The package whose hub holds a launch's semaphores (R213). -/
def semPackage (s : State) : BitVec 7 := if (ownLaunch s).id = 0 then corePkg s.core.id else (ownLaunch s).home

/-- The package whose hub holds a group's barrier: that of the member of lowest ordinal (R217). -/
def barPackage (s : State) (g : Byte) : BitVec 7 :=
  match groupOf (ownLaunch s) g with
  | none => corePkg s.core.id
  | some r =>
    let ms := groupMembers s r
    match ms.foldl (fun (a : Option Member) m => match a with
        | none => some m
        | some x => if m.ord.toNat < x.ord.toNat then some m else a) none with
    | some m => corePkg (memberPlace s m)
    | none => corePkg s.core.id

/-- A result has come back for a register (R199, R215). -/
def setResult (seq : Nat) (x : DWord) (s : State) : State :=
  { s with core.mq.results := s.core.mq.results.map (fun r => if r.seq = seq then { r with result := some x } else r) }

/-- What the bytes a home returned do at the modelled core; a home that met bad data returns none, and no result is made of that
(R202). -/
def takeReturn (e : StoreEntry) (bs : List Byte) (s : State) : State :=
  match e.op with
  | .atomic op dbl _ _ _ => if bs.length < atomicSize dbl then s else setResult e.seq (atomicReturn op dbl (dw (leNat bs))) s
  | .region accs => if bs.length < regionLoadSize accs then s else fillRegion accs bs s
  | _ => s

/-- A release at the head of the store queue: the push, and whether everything older has performed at its scope: loads
too for a fence, a semaphore add and a barrier (R194, R215, R217). -/
def releaseHead (e : StoreEntry) (s : State) : State × Bool :=
  match releasePush e.scope e.seq s with
  | (s', .held) => (s', false)
  | (s', .done) =>
    (s', !(scopeOpen s' e.scope e.seq || s'.core.mq.redoOut.any (fun r => decide (r.2.2 < e.seq))
      || s'.core.mq.loads.any (fun l => decide (l.seq < e.seq) && l.data.isNone && l.dest != .mark)))

/-- Whether an older load of the bytes of a store-queue entry has not performed: the entry waits for it (R239, R241). -/
def behindRead (s : State) (e : StoreEntry) : Bool :=
  s.core.mq.loads.any (fun l => decide (l.seq < e.seq) && l.dest != .mark && l.data.isNone && storeTouches e l.pa l.size)

/-- An operation that performs at its home in another package leaves on the ring, once nothing of the line that was sent before can
arrive after it; the layer's copy goes (R199, R206, R212). -/
def sendOperation (e : StoreEntry) (cls : BitVec 2) (s : State) : State :=
  let line := lineNo e.pa
  if ringOverlaps s line (BitVec.allOnes 128) then s
  else popStore (ringSend (ownRequest s cls e.pa (.store e.op e.scope e.seq)) (dropRemote (fun x => x == line) s))

/-- The head of the store queue goes to its point and is applied there, or stays where it must wait. The 32 bits that `SEMADD` returns
are zero-extended (DESIGN CHOICE, log entry 81). (DEDUCED, log entry 30.) -/
def storeHead (s : State) : State :=
  match s.core.mq.stores with
  | [] => s
  | e :: _ =>
    let line := lineNo e.pa
    let cls := ownClass s e.va e.pa
    if behindRead s e then s else
    match e.op with
    | .write cells =>
      let d := cells.foldl (fun (d : LineData) c => lineMerge d (lineAt (c.1 % 128) [c.2]) (maskOf (c.1 % 128) 1)) 0
      let m := cells.foldl (fun (m : LineMask) c => m ||| maskOf (c.1 % 128) 1) 0
      match performStore line cls d m e.scope e.seq (noteAccess cls e.pa s) with
      | (_, .held) => s
      | (s', .done) => popStore s'
    | .atomic _ _ _ _ _ | .red _ _ _ _ | .region _ =>
      match flushLine line cls e.seq (noteAccess cls e.pa s) with
      | (_, .held) => s
      | (s', .done) =>
        if isRemote s line then sendOperation e cls s'
        else
          match homeApply (ownSender s' cls) e.pa e.op s' with
          | (_, .held) => s
          | (s'', .done bs) => popStore (takeReturn e bs (noteCxl (corePkg s.core.id) line e.seq s''))
          | (s'', _) => popStore s''
    | .redo _ _ _ g =>
      if s.core.mq.redoOut.any (fun r => r.1 == line && r.2.1 == g) then s
      else
        match flushLine line cls e.seq (noteAccess cls e.pa s) with
        | (_, .held) => s
        | (s', .done) =>
          let out := fun (s : State) => { s with core.mq.redoOut := s.core.mq.redoOut ++ [(line, g, e.seq)] }
          if isRemote s line then
            if ringOverlaps s' line (BitVec.allOnes 128) then s' else sendOperation e cls (out s')
          else
            match homeApply (ownSender s' cls) e.pa e.op (out s') with
            | (_, .held) => s
            | (s'', .refused) =>
              let q : HomeReq := ⟨s.core.id, s.core.launch, s.core.sec, s.core.ord, cls, e.pa, .write e.op, some s.now⟩
              popStore { s'' with homes.queue := s''.homes.queue ++ [q] }
            | (s'', _) => popStore s''
    | .mark =>
      match releasePush e.scope e.seq s with
      | (_, .held) => s
      | (s', .done) => popStore s'
    | .fenceRel =>
      match releaseHead e s with
      | (s', true) => popStore s'
      | (s', false) => s'
    | .semAdd n v d =>
      match releaseHead e s with
      | (s', false) => s'
      | (s', true) =>
        if semPackage s' != corePkg s'.core.id then
          popStore (ringSend { ownRequest s' 0 0 (.semAdd n v e.seq) with dst := semPackage s' } s')
        else
          match semApply s'.core.launch s'.core.sec n v s' with
          -- the old value stands zero-extended in the register
          | (s'', old) => popStore (if d = 0 then s'' else setResult e.seq (old.setWidth 64) s'')
    | .barArrive g =>
      match releaseHead e s with
      | (s', false) => s'
      | (s', true) =>
        if barPackage s' g != corePkg s'.core.id then
          popStore (ringSend { ownRequest s' 0 0 (.barArrive g) with dst := barPackage s' g } s')
        else popStore (barArrival s'.core.launch s'.core.sec g s'.core.ord s')

/-- The `idx`th request of others is applied at its home; one that is held stays, a refused one waits for its resend. -/
def otherApply (idx : Nat) (want : StoreOp → Bool) (s : State) : State :=
  match s.homes.queue[idx]? with
  | none => s
  | some r =>
    match r.op with
    | .read _ => s
    | .write op =>
      if !want op || r.refusedAt.isSome then s
      else
        match homeApply ⟨r.core, r.launch, r.sec, r.ord, r.cls⟩ r.pa op s with
        | (_, .held) => s
        | (s', .refused) =>
          { s' with homes.queue := s'.homes.queue.set idx { r with refusedAt := some s'.now } }
        | (s', _) => { s' with homes.queue := s'.homes.queue.eraseIdx idx }

/-- Everything that the core has stored and its caches hold goes to the homes: its L1, and what the layer and the hub have not pushed. A
core does so before it leaves its place. -/
def pushOut (s : State) : State × PointRes :=
  match l1Flush s with
  | (s, .held) => (s, .held)
  | (s, .done) => pushLayer 5 s

/-- Whether a save area holds a core that has been saved, and not the frozen state of one that is still in its place (R331). -/
def areaSaved (s : State) (a : SaveArea) : Bool :=
  (launchOf s a.launch).members.any (fun m => m.sec == a.sec && m.ord == a.ord && m.state == .saved)

/-- The hub performs the oldest entry of the store queue that a saved core has handed to it (R329): the `k`th save area's. -/
def handedApply (k : Nat) (want : StoreOp → Bool) (s : State) : State :=
  match s.sched.saves[k]? with
  | none => s
  | some a =>
    if !areaSaved s a then s
    else
      match a.image.mq.stores with
      | [] => s
      | e :: _ =>
        if !want e.op then s
        else
          match pushOut (storeHead { s with core := a.image }) with
          | (_, .held) => s
          | (t, .done) => semWake { t with core := s.core, sched.saves := t.sched.saves.set k { a with image := t.core } }

/-- An application event: the modelled core's store-queue head when it is of the event's kind, a request of others, or past those a store
that a saved core has handed to its hub. -/
def applyEvent (src : ReqSrc) (want : StoreOp → Bool) (s : State) : Out :=
  match src with
  | .own _ => .next (match s.core.mq.stores with
      | [] => s
      | e :: _ => if want e.op then storeHead s else s)
  | .other idx =>
    .next (if idx < s.homes.queue.length then otherApply idx want s else handedApply (idx - s.homes.queue.length) want s)

/-- `STORE_APPLY` (R234): a store performs; the fences, releases and arrivals of the store queue are its entries too. -/
def execStoreApply (src : ReqSrc) (s : State) : Out :=
  applyEvent src (fun op => match op with
    | .write _ | .mark | .fenceRel | .semAdd _ _ _ | .barArrive _ => true
    | .atomic _ _ _ _ _ | .red _ _ _ _ | .redo _ _ _ _ | .region _ => false) s

/-- `ATOMIC_APPLY` (R200). -/
def execAtomicApply (src : ReqSrc) (s : State) : Out :=
  applyEvent src (fun op => match op with | .atomic _ _ _ _ _ => true | _ => false) s

/-- `RED_APPLY` (R206, R207). -/
def execRedApply (src : ReqSrc) (s : State) : Out :=
  applyEvent src (fun op => match op with | .red _ _ _ _ => true | _ => false) s

/-- `REDO_ARRIVAL` (R208). -/
def execRedoArrival (src : ReqSrc) (s : State) : Out :=
  applyEvent src (fun op => match op with | .redo _ _ _ _ => true | _ => false) s

/-- `LINE_REGION_APPLY` (R212). -/
def execLineRegionApply (src : ReqSrc) (s : State) : Out :=
  applyEvent src (fun op => match op with | .region _ => true | _ => false) s

/-- `REDO_RESEND` (R208): a refused contribution is offered again once 1 µs has passed. -/
def execRedoResend (idx : Nat) (s : State) : Out :=
  match s.homes.queue[idx]? with
  | some r =>
    match r.refusedAt with
    | some t => .next (if (s.now - t).toNat < 1000 then s
        else { s with homes.queue := s.homes.queue.set idx { r with refusedAt := none } })
    | none => .next s
  | none => .next s

/-- `ATOMIC_RESULT_RETURN` (R199): the old value is written and the interlock ends. -/
def execAtomicResultReturn (idx : Nat) (s : State) : Out :=
  match s.core.mq.results[idx]? with
  | some r =>
    match r.result with
    | some x => .next (writeS r.d x { s with core.mq.results := s.core.mq.results.eraseIdx idx })
    | none => .next s
  | none => .next s

/-- `SEMAPHORE_ADD` (R215): an add that has arrived at the hub from another package's station, or a bound slot's, is
applied: the `idx`th add under way. -/
def execSemaphoreAdd (idx : Nat) (s : State) : Out :=
  match s.sched.semAdds[idx]? with
  | some (launch, sec, n, v) =>
    .next (semApply launch sec n v { s with sched.semAdds := s.sched.semAdds.eraseIdx idx }).1
  | none => .next s

end Sys2Proof.Machine
end

