-- ==== Sys2Proof/Machine/Queues.lean ====
section
/-! DEFINITION. The six command queues and the token slots (R15, R30, R111-R117): issue, waits, completion, and the
records that status reads return. -/

namespace Sys2Proof.Machine

/-! ## Queues (R30) -/

/-- The command queue `q`. -/
def queueOf (s : State) (q : Nat) : CmdQueue := vgetD s.core.eng.queues q CmdQueue.start

def setQueue (q : Nat) (c : CmdQueue) (s : State) : State :=
  { s with core.eng.queues := s.core.eng.queues.setIfInBounds q c }

/-- Empty and full by the wrap bits (R30). -/
def queueEmpty (s : State) (q : Nat) : Bool := (queueOf s q).head == (queueOf s q).tail

def queueFull (s : State) (q : Nat) : Bool := (queueOf s q).tail - (queueOf s q).head == 16

/-- Every engine is idle: no command is queued or in execution. -/
def enginesIdle (s : State) : Bool := (List.range 6).all (queueEmpty s)

/-- The entries of a queue from its head on. -/
def queued (s : State) (q : Nat) : List Command :=
  let c := queueOf s q
  let n := (c.tail - c.head).toNat
  (List.range n).filterMap (fun k => vgetD c.slots ((c.head.toNat + k) % 16) none)

/-- The command at the head of a queue. -/
def queueHead (s : State) (q : Nat) : Option Command :=
  if queueEmpty s q then none else vgetD (queueOf s q).slots ((queueOf s q).head.toNat % 16) none

/-- A command enters a queue at its tail. -/
def enqueueCmd (q : Nat) (c : Command) (s : State) : State :=
  let k := queueOf s q
  setQueue q { k with slots := k.slots.setIfInBounds (k.tail.toNat % 16) (some c), tail := k.tail + 1 } s

/-- The head of a queue leaves. -/
def dequeueCmd (q : Nat) (s : State) : State :=
  let k := queueOf s q
  setQueue q { k with slots := k.slots.setIfInBounds (k.head.toNat % 16) none, head := k.head + 1 } s

/-- The command in execution. -/
def execOf (s : State) (q : Nat) : Option Running := vgetD s.core.eng.exec q none

def setExec (q : Nat) (r : Option Running) (s : State) : State :=
  { s with core.eng.exec := s.core.eng.exec.setIfInBounds q r }

def updExec (q : Nat) (f : Running → Running) (s : State) : State :=
  match execOf s q with
  | some r => setExec q (some (f r)) s
  | none => s

/-- Commands of a queue that have not started. -/
def notStarted (s : State) (q : Nat) : List Command :=
  match execOf s q with
  | some r => (queued s q).filter (fun c => c.id != r.id)
  | none => queued s q

/-- A queue's record as `QHT` returns it (R30). -/
def qhtValue (s : State) (q : Nat) : DWord :=
  (queueOf s q).head.setWidth 64 ||| (queueOf s q).tail.setWidth 64 <<< 8

/-! ## Token slots (R15, R113, R114, R116) -/

/-- Whether a captured value has been reached (R15). -/
def slotReached (s : State) (k : BitVec 5) (c : BitVec 16) : Bool :=
  k == 31 || decide (((slotOf s k).cmp - c).toNat < 2 ^ 15)

/-- The counter part of a completion: the longest prefix of completed producers is counted (R114). -/
def countPrefix : List Producer → List Producer × Nat
  | [] => ([], 0)
  | p :: r => if p.done then let x := countPrefix r; (x.1, x.2 + 1) else (p :: r, 0)

/-- A producer of a slot has completed: the counted prefix grows, and each completion counted adds 1 to the semaphore the
slot is bound to (R114, R215). -/
def slotComplete (k : BitVec 5) (id : Nat) (late err : Bool) (s : State) : State :=
  if k = 31 then s
  else
    let t := slotOf s k
    let marked := t.pending.map (fun p => if p.id = id then { p with done := true } else p)
    match countPrefix marked with
    | (rest, n) =>
      let t := { t with
        pending := rest, cmp := t.cmp + BitVec.ofNat 16 n
        late := if t.last = id then late else t.late, err := if t.last = id then err else t.err }
      let s := setSlot k t s
      match t.sem with
      | some m => { s with sched.semAdds := s.sched.semAdds ++ List.replicate n (s.core.launch, s.core.sec, m, 1) }
      | none => s

/-- A slot's producer has started and promised (R116, R142). -/
def slotPromise (k : BitVec 5) (id : Nat) (promise : Option DWord) (s : State) : State :=
  if k = 31 then s
  else
    let t := slotOf s k
    match promise with
    | some p => if t.last = id then setSlot k { t with pv := true, prom := p.setWidth 24 } s else s
    | none => s

/-- The record `KSTAT` returns (R116). -/
def kstatValue (s : State) (k : BitVec 5) : DWord :=
  let t := slotOf s k
  t.iss.setWidth 64 ||| t.cmp.setWidth 64 <<< 16 ||| b64 t.pv <<< 32 ||| b64 t.late <<< 33 ||| b64 t.err <<< 34
    ||| (if t.pv then t.prom.setWidth 64 <<< 40 else 0)

/-- The record `BUFSTAT` returns (R139). -/
def bufstatValue (s : State) (n : Nat) : DWord :=
  let b := bufOf s n
  if !b.declared then 0
  else
    let st : DWord := match b.state with | .empty => 0 | .filling => 1 | .full => 2 | .draining => 3
    let fill := match b.state with | .full => b.size | _ => bufFill s n
    st ||| 4 ||| b64 (decide (b.chk ≠ 0)) <<< 3 ||| dw fill <<< 4

/-! ## Data queues (R170) -/

/-- Branch-outcome bits in the queue or held for it (log entry 65). -/
def pqLoad (s : State) : Nat := s.core.grid.pq.length + (match s.core.grid.run with | some g => g.pqHeld.length | none => 0)

/-- An emptied queue returns its grants. -/
def settleQueues (s : State) : State :=
  let g := s.core.grid
  { s with
    core.grid.feedGrants := if g.feed.isEmpty then 0 else g.feedGrants
    core.grid.outGrants := if g.outq.isEmpty then 0 else g.outGrants
    core.grid.pqGrants := if pqLoad s = 0 then 0 else g.pqGrants }

/-! ## Issue of an engine command (R113) -/

/-- The parameter registers `s` to `s+3`. -/
def paramRegs (sp : BitVec 5) : List (BitVec 5) := [sp, sp + 1, sp + 2, sp + 3]

/-- The values of the parameter registers. -/
def readParams (s : State) (sp : BitVec 5) : Vector DWord 4 :=
  Vector.ofFn (fun i => readS s (sp + BitVec.ofNat 5 i.val))

/-- Whether the bits of a parameter outside those a mask assigns are zero (R112). -/
def onlyBits (x mask : DWord) : Bool := x &&& ~~~mask == 0

/-- A mask of `n` bits from bit `lo`. -/
def bitsMask (lo n : Nat) : DWord := dw ((2 ^ n - 1) * 2 ^ lo)

/-- The common field PSC, and LATE (R112). -/
def pscMask : DWord := bitsMask 61 3
def lateMask : DWord := bitsMask 59 2

def cmdPsc (c : Command) : BitVec 3 := field c.params[3] 61 3
def cmdLate (c : Command) : Nat := fieldN c.params[3] 59 2

/-- What a description requires of the four parameters. -/
structure ParamRules where
  p0 : Bool
  p1 : Bool
  p2 : Bool
  p3 : Bool

/-- The first parameter that breaks its rules (R113). -/
def ParamRules.bad (r : ParamRules) : Option Nat :=
  if !r.p0 then some 0 else if !r.p1 then some 1 else if !r.p2 then some 2 else if !r.p3 then some 3 else none

/-- The waits a command captures: `k31` is none (R15, R113). -/
def captures (s : State) (ks : List (BitVec 5)) : List (BitVec 5 × BitVec 16) :=
  (ks.filter (fun k => k != 31)).map (fun k => (k, (slotOf s k).iss))

/-- The slot's issued counter grows, and its record starts afresh with the new producer. -/
def slotIssue (k : BitVec 5) (id : Nat) (psc : BitVec 3) (s : State) : State :=
  if k = 31 then s
  else
    let t := slotOf s k
    setSlot k { t with iss := t.iss + 1, pending := t.pending ++ [⟨id, false⟩], last := id, pv := false, prom := 0, late := false, err := false, wide := t.wide || decide (6 ≤ storeScope s psc) } s

/-- Whether a command's signal would bring the counters of its slot 2^15 apart (R15), or a record of the slot is being
read (R116). -/
def slotStall (s : State) (k : BitVec 5) : Bool :=
  k != 31 && ((slotOf s k).iss + 1 - (slotOf s k).cmp == 0x8000
    || s.core.mq.status.any (fun r => match r with | .kstat _ x => x == k | _ => false))

/-- What a kind of engine command brings to its issue (R113): its operation, its queue, the bank it names, the rules of its
parameters, what stands between those rules and the waits, and what happens when it enters its queue. -/
structure CmdSpec where
  op : CmdOp
  queue : Vector DWord 4 → Nat
  bank : State → Vector DWord 4 → BitVec 2 := fun _ _ => 0
  rules : State → Vector DWord 4 → ParamRules
  more : Vector DWord 4 → State → (State → Out) → Out := fun _ s k => k s
  enters : Vector DWord 4 → State → State := fun _ s => s

/-- The command that is issued. -/
def newCommand (c : CmdSpec) (sig wa wb wc : BitVec 5) (p : Vector DWord 4) (s : State) : Command :=
  ⟨c.op, sig, p, captures s [wa, wb, wc], s.core.eng.cmdId, c.bank s p, s.core.mq.lastFence,
    (captures s [wa, wb, wc]).any (fun x => (slotOf s x.1).wide)⟩

/-- Issue of an engine command (R113): the parameter rules, the waits for queue space and for the slot, the captures, and
the entry. -/
def issueCommand (w : Word) (c : CmdSpec) (sig wa wb wc sp : BitVec 5) (s : State) : Out :=
  gate anywhere w s fun s => issue w ⟨(paramRegs sp).map (fun r => srcS r), []⟩ s fun s =>
    let p := readParams s sp
    match (c.rules s p).bad with
    | some i => trap .command (dw i) s
    | none => c.more p s fun s =>
      if queueFull s (c.queue p) then waitOn .internal s
      else if slotStall s sig then waitOn .internal s
      else
        let x := newCommand c sig wa wb wc p s
        .next (retire (c.enters p (enqueueCmd (c.queue p) x (slotIssue sig x.id (cmdPsc x) { s with core.eng.cmdId := x.id + 1 }))))

/-! ## Faults of engines (R117) -/

/-- Subcauses of an engine fault (R325). -/
def subCommand : BitVec 2 := 0
def subMemory : BitVec 2 := 1
def subBuffer : BitVec 2 := 2
def subSequence : BitVec 2 := 3

/-- An engine fault becomes pending on the sequencer. -/
def raiseEngine (queue : Nat) (sub : BitVec 2) (addr : DWord) (seq : Nat) (s : State) : State :=
  { s with core.eng.faults := s.core.eng.faults ++ [⟨BitVec.ofNat 3 queue, sub, addr, BitVec.ofNat 48 seq⟩] }

/-- A command ends with an error in its own parameters or descriptors: ERR, and an engine fault of subcause command. -/
def commandError (q : Nat) (s : State) : State :=
  raiseEngine q subCommand 0 0 (updExec q (fun r => { r with finished := true, err := true }) s)

/-- A fault during execution stops the engine at its cursor; a translation fault in pager mode goes to the management core
instead (R117, R327). -/
def engineStop (q port : Nat) (sub : BitVec 2) (addr : Nat) (seq : Nat) (write translation : Bool) (s : State) : State :=
  if translation && (ownLaunch s).sfm then updExec q (fun r => { r with stopped := true, pager := some (addr, write) }) s
  else raiseEngine port sub (dw addr) seq (updExec q (fun r => { r with stopped := true }) s)

/-- Whether a fence that a command was issued after still holds it back (R195). -/
def fenceHolds (s : State) (c : Command) : Bool :=
  s.core.mq.stores.any (fun e => decide (e.seq ≤ c.fence) &&
      (match e.op with | .mark | .fenceRel => true | _ => false))
    || s.core.mq.loads.any (fun l => l.dest == .mark && decide (l.seq ≤ c.fence))

/-- Whether a command's waits have all been reached and no fence holds it (R114, R195). -/
def waitsReached (s : State) (c : Command) : Bool := c.waits.all (fun w => slotReached s w.1 w.2) && !fenceHolds s c

/-- The engine status reads (R16): the destination is marked empty, and filled when the request has been answered. -/
def statusRead (w : Word) (d : BitVec 5) (r : StatusReq) (s : State) : Out :=
  gate anywhere w s fun s => issue w ⟨[], [.s d]⟩ s fun s =>
    .next (retire (setSEmpty d true { s with core.mq.status := s.core.mq.status ++ [r] }))

end Sys2Proof.Machine
end

