-- ==== Sys2Proof/Machine/VecCvt.lean ====
section
/-! DEFINITION. Vector conversions (R102, R103): major 0x44. -/

namespace Sys2Proof.Machine


/-- A narrowing of two FP32 lanes into the halves of a lane, va's first (R102 codes 0 and 1). -/
def cvtPair (f : Fmt) (sat : Bool) (r1 r2 : Rnd) (x y : Word) : Word × Flags :=
  let lo := f.narrow sat r1 (valF32 x)
  let hi := f.narrow sat r2 (valF32 y)
  (halves lo.1 hi.1, lo.2 ||| hi.2)

/-- `VCVT.bf16.f32` (R102). -/
def execVcvtBf16F32 (d a b : BitVec 5) (rm : BitVec 3) (sat : Bool) (s : State) : Out :=
  vecRound (wordVcvtBf16F32 d a b rm sat) d (vsrc2 a b) rm 2 (fun s i r1 r2 =>
    cvtPair bf16 sat r1 r2 (lane (readV s a) i) (lane (readV s b) i)) s

/-- `VCVT.f16.f32` (R102). -/
def execVcvtF16F32 (d a b : BitVec 5) (rm : BitVec 3) (sat : Bool) (s : State) : Out :=
  vecRound (wordVcvtF16F32 d a b rm sat) d (vsrc2 a b) rm 2 (fun s i r1 r2 =>
    cvtPair fp16 sat r1 r2 (lane (readV s a) i) (lane (readV s b) i)) s

/-- A widening conversion: exact, a NaN canonical. -/
def vecWiden (w : Word) (d a : BitVec 5) (f : Fmt) (code : Word → Nat) (s : State) : Out :=
  vecLanes w d [srcV a] (fun s i => (roundFp32 .rne (f.value (code (lane (readV s a) i)))).1) s

/-- `VCVT.f32.bf16` of the low half (R102). -/
def execVcvtF32Bf16Lo (d a : BitVec 5) (s : State) : Out := vecWiden (wordVcvtF32Bf16Lo d a) d a bf16 (fun x => half x 0) s

/-- `VCVT.f32.bf16` of the high half (R102). -/
def execVcvtF32Bf16Hi (d a : BitVec 5) (s : State) : Out := vecWiden (wordVcvtF32Bf16Hi d a) d a bf16 (fun x => half x 1) s

/-- `VCVT.f32.f16` of the low half (R102). -/
def execVcvtF32F16Lo (d a : BitVec 5) (s : State) : Out := vecWiden (wordVcvtF32F16Lo d a) d a fp16 (fun x => half x 0) s

/-- `VCVT.f32.f16` of the high half (R102). -/
def execVcvtF32F16Hi (d a : BitVec 5) (s : State) : Out := vecWiden (wordVcvtF32F16Hi d a) d a fp16 (fun x => half x 1) s

/-- Bits [lo+n-1 : lo] of a lane replaced by a code. -/
def putBits (x : Word) (lo n code : Nat) : Word :=
  (x &&& ~~~BitVec.ofNat 32 ((2 ^ n - 1) * 2 ^ lo)) ||| BitVec.ofNat 32 (code % 2 ^ n * 2 ^ lo)

/-- Bits [lo+n-1 : lo] of a lane. -/
def getBits (x : Word) (lo n : Nat) : Nat := x.toNat / 2 ^ lo % 2 ^ n

/-- A narrowing into `n` bits at position `lo` of each lane, the other bits kept (R102 codes 6, 7, 10). -/
def vecNarrow (w : Word) (d a : BitVec 5) (rm : BitVec 3) (f : Fmt) (sat : Bool) (lo n : Nat) (s : State) : Out :=
  vecRound w d [srcV a] rm 1 (fun s i r _ =>
    let c := f.narrow sat r (valF32 (lane (readV s a) i))
    (putBits (lane (readV s d) i) lo n c.1, c.2)) s

/-- `VCVT.e4m3.f32` (R102). -/
def execVcvtE4m3F32 (d a : BitVec 5) (j : BitVec 2) (rm : BitVec 3) (sat : Bool) (rd : BitVec 2) (s : State) : Out :=
  vecNarrow (wordVcvtE4m3F32 d a j rm sat rd) d a rm (e4m3 (readingOf rd)) sat (8 * j.toNat) 8 s

/-- `VCVT.e5m2.f32` (R102). -/
def execVcvtE5m2F32 (d a : BitVec 5) (j : BitVec 2) (rm : BitVec 3) (sat : Bool) (rd : BitVec 2) (s : State) : Out :=
  vecNarrow (wordVcvtE5m2F32 d a j rm sat rd) d a rm (e5m2 (readingOf rd)) sat (8 * j.toNat) 8 s

/-- `VCVT.e2m1.f32` (R102). -/
def execVcvtE2m1F32 (d a : BitVec 5) (n : BitVec 3) (rm : BitVec 3) (sat : Bool) (rd : BitVec 2) (s : State) : Out :=
  vecNarrow (wordVcvtE2m1F32 d a n rm sat rd) d a rm (e2m1 (readingOf rd)) sat (4 * n.toNat) 4 s

/-- `VCVT.f32.e4m3` (R102). -/
def execVcvtF32E4m3 (d a : BitVec 5) (j rd : BitVec 2) (s : State) : Out :=
  vecWiden (wordVcvtF32E4m3 d a j rd) d a (e4m3 (readingOf rd)) (fun x => getBits x (8 * j.toNat) 8) s

/-- `VCVT.f32.e5m2` (R102). -/
def execVcvtF32E5m2 (d a : BitVec 5) (j rd : BitVec 2) (s : State) : Out :=
  vecWiden (wordVcvtF32E5m2 d a j rd) d a (e5m2 (readingOf rd)) (fun x => getBits x (8 * j.toNat) 8) s

/-- `VCVT.f32.e2m1` (R102). -/
def execVcvtF32E2m1 (d a : BitVec 5) (n : BitVec 3) (rd : BitVec 2) (s : State) : Out :=
  vecWiden (wordVcvtF32E2m1 d a n rd) d a (e2m1 (readingOf rd)) (fun x => getBits x (4 * n.toNat) 4) s

/-- FP32 to an integer range (R102 codes 12 and 13). -/
def vecToInt (w : Word) (d a : BitVec 5) (rm : BitVec 3) (lo hi : Int) (s : State) : Out :=
  vecRound w d [srcV a] rm 1 (fun s i r _ =>
    let x := (valF32 (lane (readV s a) i)).toInt r lo hi
    (BitVec.ofInt 32 x.1, x.2)) s

/-- `VCVT.i32.f32` (R102). -/
def execVcvtI32F32 (d a : BitVec 5) (rm : BitVec 3) (s : State) : Out :=
  vecToInt (wordVcvtI32F32 d a rm) d a rm (-2 ^ 31) (2 ^ 31 - 1) s

/-- `VCVT.z32.f32` (R102). -/
def execVcvtZ32F32 (d a : BitVec 5) (rm : BitVec 3) (s : State) : Out :=
  vecToInt (wordVcvtZ32F32 d a rm) d a rm 0 (2 ^ 32 - 1) s

/-- `VCVT.f32.i32` (R102). -/
def execVcvtF32I32 (d a : BitVec 5) (rm : BitVec 3) (s : State) : Out :=
  vecRound (wordVcvtF32I32 d a rm) d [srcV a] rm 1 (fun s i r _ =>
    roundFp32 r (FVal.ofInt (lane (readV s a) i).toInt)) s

/-- `VCVT.f32.z32` (R102). -/
def execVcvtF32Z32 (d a : BitVec 5) (rm : BitVec 3) (s : State) : Out :=
  vecRound (wordVcvtF32Z32 d a rm) d [srcV a] rm 1 (fun s i r _ =>
    roundFp32 r (FVal.ofInt (lane (readV s a) i).toNat)) s

end Sys2Proof.Machine
end

