-- ==== Sys2Proof/Machine/VecBlock.lean ====
section
/-! DEFINITION. Block operations and lane reductions (R104-R107): majors 0x45 to 0x47. -/

namespace Sys2Proof.Machine


/-- The 32 words of a block: the lanes of va, then those of vb. -/
def blockWords (s : State) (a b : BitVec 5) : List Word := (readV s a).toList ++ (readV s b).toList

/-- `VBSCALE` (R104): every active lane takes the scale byte. -/
def execVbscale (d a b : BitVec 5) (fmt rd : BitVec 2) (s : State) : Out :=
  vecLanes (wordVbscale d a b fmt rd) d (vsrc2 a b) (fun s _ =>
    (blockScale (narrowFmt fmt (readingOf rd)) ((blockWords s a b).map valF32)).setWidth 32) s

/-- `VBAMAX` (R104). -/
def execVbamax (d a b : BitVec 5) (s : State) : Out :=
  vecLanes (wordVbamax d a b) d (vsrc2 a b) (fun s _ => blockAmax (blockWords s a b)) s

/-- The code `VBPACK` writes for an element (R105): zero for E2M1's 0b1000. -/
def packCode (f : Fmt) (isE2m1 : Bool) (scale : Byte) (r : Rnd) (x : Word) : Nat × Flags :=
  let c := f.narrow true r ((valF32 x).scale (127 - (scale.toNat : Int)))
  (if isE2m1 && c.1 == 8 then 0 else c.1, c.2)

/-- The codes of a block and its flags; lane i rounds element i and then element i + 16. -/
def packCodes (s : State) (mode : BitVec 3) (f : Fmt) (isE2m1 : Bool) (ws : List Word) : List Nat × Flags :=
  let scale := blockScale f (ws.map valF32)
  if scale = 0xFF then (ws.map (fun _ => 0), if ws.any (fun w => (valF32 w).isNan) then flagNV else 0)
  else
    let cs := (List.range 32).map (fun k => packCode f isE2m1 scale (laneMode s mode (k % 16) (if k < 16 then 1 else 2)) (ws.getD k 0))
    (cs.map (fun c => c.1), cs.foldl (fun fl c => fl ||| c.2) 0)

/-- Lane `j` of the packed codes: four FP8 codes or eight E2M1 codes, the first lowest. -/
def packedLane (isE2m1 : Bool) (codes : List Nat) (j : Nat) : Word :=
  if isE2m1 then (List.range 8).foldl (fun w k => putBits w (4 * k) 4 (codes.getD (8 * j + k) 0)) 0
  else (List.range 4).foldl (fun w k => putBits w (8 * k) 8 (codes.getD (4 * j + k) 0)) 0

/-- `VBPACK` (R105): the codes at position p, unmasked. (DEDUCED, log entry 31.) -/
def execVbpack (d a b : BitVec 5) (rm : BitVec 3) (pHi : Bool) (fmt rd : BitVec 2) (pLo : Bool) (s : State) : Out :=
  let w := wordVbpack d a b rm pHi fmt rd pLo
  gate anywhere w s fun s => issue w ⟨vsrc2 a b, [.v d]⟩ s fun s =>
    let small := fmt == 2
    let f := narrowFmt fmt (readingOf rd)
    let ws := blockWords s a b
    let mode := modeOf s rm
    let p := (if pHi then 2 else 0) + (if pLo then 1 else 0)
    let n := if small then 4 else 8
    match packCodes s mode f small ws with
    | (codes, fl) =>
      let v := vregOf (fun i => if n * p ≤ i ∧ i < n * p + n then packedLane small codes (i - n * p) else lane (readV s d) i)
      .next (retire (deliverLater (.vector d v) (raiseFlags fl (advanceRsr 0xFFFF mode 2 s))))

/-- Element `k` of the codes at position p of a register (R105). -/
def unpackCode (isE2m1 : Bool) (v : VReg) (p k : Nat) : Nat :=
  if isE2m1 then getBits (lane v (4 * p + k / 8)) (4 * (k % 8)) 4 else getBits (lane v (8 * p + k / 4)) (8 * (k % 4)) 8

/-- `VBUNPK` (R106). (DEDUCED, log entry 31.) -/
def execVbunpk (d a b : BitVec 5) (rm : BitVec 3) (fmt rd p : BitVec 2) (h : Bool) (s : State) : Out :=
  let w := wordVbunpk d a b rm fmt rd p h
  gate anywhere w s fun s => issue w ⟨vsrc2 a b, [.v d]⟩ s fun s =>
    let small := fmt == 2
    let f := narrowFmt fmt (readingOf rd)
    let sl := lane (readV s b) p.toNat
    let scale := sl.extractLsb' 0 8
    let special := sl.extractLsb' 8 8
    let elem : LaneFn := fun i r _ =>
      let v := blockValue f small scale (some special) (unpackCode small (readV s a) p.toNat ((if h then 16 else 0) + i))
      roundFp32 r v
    let mode := modeOf s rm
    match roundLanes (topMask s) (if scale = 0xFF then 0 else mode) 1 (readV s d) elem s with
    | (s, v) => .next (retire (deliverLater (.vector d v) s))

/-! ## Lane reductions (R107) -/

/-- One stage of the tree: neighbours combined, flags ORed. -/
def redStage (f : Word → Word → Word × Flags) : List (Word × Flags) → List (Word × Flags)
  | x :: y :: r => ((f x.1 y.1).1, x.2 ||| y.2 ||| (f x.1 y.1).2) :: redStage f r
  | l => l

/-- The four stages of R107. (DEDUCED, log entry 32.) -/
def redTree (f : Word → Word → Word × Flags) (xs : List Word) : Word × Flags :=
  let l := redStage f (redStage f (redStage f (redStage f (xs.map (fun x => (x, (0 : Flags)))))))
  l.headD (0, 0)

/-- A lane reduction into lane 0, unmasked; an inactive lane enters as the identity. -/
def vecReduce (w : Word) (d a : BitVec 5) (ident : Word) (pre : Word → Word) (f : State → Word → Word → Word × Flags)
    (s : State) : Out :=
  gate anywhere w s fun s => issue w ⟨[srcV a], [.v d]⟩ s fun s =>
    let m := topMask s
    let xs := (List.range 16).map (fun i => if m.getLsbD i then pre (lane (readV s a) i) else ident)
    match redTree (f s) xs with
    | (x, fl) =>
      let v := vregOf (fun i => if i = 0 then x else lane (readV s d) i)
      .next (retire (deliverLater (.vector d v) (raiseFlags fl s)))

/-- `VRADD.f32` (R107): each node rounds once, RSR acting as RNE. -/
def execVraddF32 (d a : BitVec 5) (rm : BitVec 3) (s : State) : Out :=
  vecReduce (wordVraddF32 d a rm) d a 0x80000000 (fun x => x) (fun s x y =>
    let r := (Rnd.ofBits (modeOf s rm) 0).noRsr
    f32Result r ((valF32 x).add r (valF32 y))) s

/-- FP32 minimum or maximum of two words, no flag. -/
def mm32 (max : Bool) (x y : Word) : Word × Flags := (BitVec.ofNat 32 (fp32.minMax max x.toNat y.toNat), 0)

/-- `VRMAX.f32` (R107). -/
def execVrmaxF32 (d a : BitVec 5) (s : State) : Out :=
  vecReduce (wordVrmaxF32 d a) d a 0xFF800000 (fun x => x) (fun _ => mm32 true) s

/-- `VRMIN.f32` (R107). -/
def execVrminF32 (d a : BitVec 5) (s : State) : Out :=
  vecReduce (wordVrminF32 d a) d a 0x7F800000 (fun x => x) (fun _ => mm32 false) s

/-- `VRAMAX.f32` (R107): magnitudes under the rules of `VMAX`. (DEDUCED, log entry 32.) -/
def execVramaxF32 (d a : BitVec 5) (s : State) : Out :=
  vecReduce (wordVramaxF32 d a) d a 0 (fun x => x &&& 0x7FFFFFFF) (fun _ => mm32 true) s

/-- `VRADD.i32` (R107). -/
def execVraddI32 (d a : BitVec 5) (s : State) : Out :=
  vecReduce (wordVraddI32 d a) d a 0 (fun x => x) (fun _ x y => (x + y, 0)) s

/-- `VRMAX.i32` (R107). -/
def execVrmaxI32 (d a : BitVec 5) (s : State) : Out :=
  vecReduce (wordVrmaxI32 d a) d a 0x80000000 (fun x => x) (fun _ x y => (if x.slt y then y else x, 0)) s

/-- `VRMIN.i32` (R107). -/
def execVrminI32 (d a : BitVec 5) (s : State) : Out :=
  vecReduce (wordVrminI32 d a) d a 0x7FFFFFFF (fun x => x) (fun _ x y => (if y.slt x then y else x, 0)) s

end Sys2Proof.Machine
end

