-- ==== Sys2Proof/Machine/VecInt.lean ====
section
/-! DEFINITION. Vector integer arithmetic, compares and mask logic (R100, R101): majors 0x42 and 0x43. -/

namespace Sys2Proof.Machine


/-- A lane-by-lane integer instruction of two sources. -/
def vecInt (w : Word) (d a b : BitVec 5) (f : Word → Word → Word) (s : State) : Out :=
  vecLanes w d (vsrc2 a b) (fun s i => f (lane (readV s a) i) (lane (readV s b) i)) s

/-- A lane-by-lane integer instruction with an immediate shift. -/
def vecShift (w : Word) (d a : BitVec 5) (f : Word → Word) (s : State) : Out :=
  vecLanes w d [srcV a] (fun s i => f (lane (readV s a) i)) s

/-- Clamping to a range, as a lane. -/
def clampLane (lo hi x : Int) : Word := BitVec.ofInt 32 (if x < lo then lo else if hi < x then hi else x)

/-- High 32 bits of a product. -/
def mulHigh32 (x y : Int) : Word := BitVec.ofInt 32 ((x * y) / 2 ^ 32)

/-- `VADD.i32` (R100). -/
def execVaddI32 (d a b : BitVec 5) (s : State) : Out := vecInt (wordVaddI32 d a b) d a b (fun x y => x + y) s

/-- `VSUB.i32` (R100). -/
def execVsubI32 (d a b : BitVec 5) (s : State) : Out := vecInt (wordVsubI32 d a b) d a b (fun x y => x - y) s

/-- `VMUL.i32` (R100). -/
def execVmulI32 (d a b : BitVec 5) (s : State) : Out := vecInt (wordVmulI32 d a b) d a b (fun x y => x * y) s

/-- `VMULH.i32` (R100). -/
def execVmulhI32 (d a b : BitVec 5) (s : State) : Out := vecInt (wordVmulhI32 d a b) d a b (fun x y => mulHigh32 x.toInt y.toInt) s

/-- `VMULH.z32` (R100). -/
def execVmulhZ32 (d a b : BitVec 5) (s : State) : Out := vecInt (wordVmulhZ32 d a b) d a b (fun x y => mulHigh32 x.toNat y.toNat) s

/-- `VADDS.i32` (R100). -/
def execVaddsI32 (d a b : BitVec 5) (s : State) : Out := vecInt (wordVaddsI32 d a b) d a b (fun x y => clampLane (-2 ^ 31) (2 ^ 31 - 1) (x.toInt + y.toInt)) s

/-- `VSUBS.i32` (R100). -/
def execVsubsI32 (d a b : BitVec 5) (s : State) : Out := vecInt (wordVsubsI32 d a b) d a b (fun x y => clampLane (-2 ^ 31) (2 ^ 31 - 1) (x.toInt - y.toInt)) s

/-- `VADDS.z32` (R100). -/
def execVaddsZ32 (d a b : BitVec 5) (s : State) : Out := vecInt (wordVaddsZ32 d a b) d a b (fun x y => clampLane 0 (2 ^ 32 - 1) ((x.toNat : Int) + y.toNat)) s

/-- `VSUBS.z32` (R100). -/
def execVsubsZ32 (d a b : BitVec 5) (s : State) : Out := vecInt (wordVsubsZ32 d a b) d a b (fun x y => clampLane 0 (2 ^ 32 - 1) ((x.toNat : Int) - y.toNat)) s

/-- `VMIN.i32` (R100). -/
def execVminI32 (d a b : BitVec 5) (s : State) : Out := vecInt (wordVminI32 d a b) d a b (fun x y => if y.slt x then y else x) s

/-- `VMAX.i32` (R100). -/
def execVmaxI32 (d a b : BitVec 5) (s : State) : Out := vecInt (wordVmaxI32 d a b) d a b (fun x y => if x.slt y then y else x) s

/-- `VMIN.z32` (R100). -/
def execVminZ32 (d a b : BitVec 5) (s : State) : Out := vecInt (wordVminZ32 d a b) d a b (fun x y => if y.ult x then y else x) s

/-- `VMAX.z32` (R100). -/
def execVmaxZ32 (d a b : BitVec 5) (s : State) : Out := vecInt (wordVmaxZ32 d a b) d a b (fun x y => if x.ult y then y else x) s

/-- `VAND` (R100). -/
def execVand (d a b : BitVec 5) (s : State) : Out := vecInt (wordVand d a b) d a b (fun x y => x &&& y) s

/-- `VOR` (R100). -/
def execVor (d a b : BitVec 5) (s : State) : Out := vecInt (wordVor d a b) d a b (fun x y => x ||| y) s

/-- `VXOR` (R100). -/
def execVxor (d a b : BitVec 5) (s : State) : Out := vecInt (wordVxor d a b) d a b (fun x y => x ^^^ y) s

/-- `VANDN` (R100). -/
def execVandn (d a b : BitVec 5) (s : State) : Out := vecInt (wordVandn d a b) d a b (fun x y => x &&& ~~~y) s

/-- `VSLL` (R100). -/
def execVsll (d a b : BitVec 5) (s : State) : Out := vecInt (wordVsll d a b) d a b (fun x y => x <<< (y.toNat % 32)) s

/-- `VSRL` (R100). -/
def execVsrl (d a b : BitVec 5) (s : State) : Out := vecInt (wordVsrl d a b) d a b (fun x y => x >>> (y.toNat % 32)) s

/-- `VSRA` (R100). -/
def execVsra (d a b : BitVec 5) (s : State) : Out := vecInt (wordVsra d a b) d a b (fun x y => x.sshiftRight (y.toNat % 32)) s

/-- `VSLLI` (R100). -/
def execVslli (d a n : BitVec 5) (s : State) : Out := vecShift (wordVslli d a n) d a (fun x => x <<< n.toNat) s

/-- `VSRLI` (R100). -/
def execVsrli (d a n : BitVec 5) (s : State) : Out := vecShift (wordVsrli d a n) d a (fun x => x >>> n.toNat) s

/-- `VSRAI` (R100). -/
def execVsrai (d a n : BitVec 5) (s : State) : Out := vecShift (wordVsrai d a n) d a (fun x => x.sshiftRight n.toNat) s

/-! ## Compares (R101) -/

/-- The six conditions over an equality and an order. -/
def condHolds (cond : BitVec 3) (eq lt gt : Bool) : Bool :=
  match cond.toNat with
  | 0 => eq
  | 1 => !eq
  | 2 => lt
  | 3 => lt || eq
  | 4 => gt
  | _ => gt || eq

/-- An FP32 compare with its flag: -0 equals +0; a NaN makes only `NE` true, and sets NV in the ordered conditions. -/
def cmpF32 (cond : BitVec 3) (x y : Word) : Bool × Flags :=
  let u := valF32 x
  let v := valF32 y
  if u.isNan || v.isNan then (decide (cond = 1), if 2 ≤ cond.toNat then flagNV else 0)
  else
    let lt := u.lt false v
    let gt := v.lt false u
    (condHolds cond (!lt && !gt) lt gt, 0)

/-- An integer compare, signed or not. -/
def cmpInt (signed : Bool) (cond : BitVec 3) (x y : Word) : Bool × Flags :=
  (condHolds cond (x == y) (if signed then x.slt y else x.ult y) (if signed then y.slt x else y.ult x), 0)

/-- A compare of two vectors: the condition in each active lane, 0 in the others (R101). -/
def vecCmp (w : Word) (q : BitVec 3) (a b : BitVec 5) (f : Word → Word → Bool × Flags) (s : State) : Out :=
  gate anywhere w s fun s => issue w ⟨vsrc2 a b, [.q q]⟩ s fun s =>
    let m := topMask s
    let r := fun (i : Nat) => f (lane (readV s a) i) (lane (readV s b) i)
    let bits := (List.range 16).foldl (fun x i => if m.getLsbD i && (r i).1 then setBit x i true else x) (0 : BitVec 16)
    let fl := (List.range 16).foldl (fun x i => if m.getLsbD i then x ||| (r i).2 else x) (0 : Flags)
    .next (retire (deliverLater (.mask q bits) (raiseFlags fl s)))

/-- `VCMP.f32` (R101). -/
def execVcmpF32 (q : BitVec 3) (a b : BitVec 5) (cond : BitVec 3) (s : State) : Out :=
  vecCmp (wordVcmpF32 q a b cond) q a b (cmpF32 cond) s

/-- `VCMP.i32` (R101). -/
def execVcmpI32 (q : BitVec 3) (a b : BitVec 5) (cond : BitVec 3) (s : State) : Out :=
  vecCmp (wordVcmpI32 q a b cond) q a b (cmpInt true cond) s

/-- `VCMP.z32` (R101). -/
def execVcmpZ32 (q : BitVec 3) (a b : BitVec 5) (cond : BitVec 3) (s : State) : Out :=
  vecCmp (wordVcmpZ32 q a b cond) q a b (cmpInt false cond) s

/-! ## Mask logic (R101) -/

/-- Mask logic on whole registers, unmasked. -/
def maskOp (w : Word) (d : BitVec 3) (srcs : List (BitVec 3)) (f : State → BitVec 16) (s : State) : Out :=
  gate anywhere w s fun s => issue w ⟨srcs.map (fun r => ⟨.q r, false⟩), [.q d]⟩ s fun s =>
    .next (retire (deliverLater (.mask d (f s)) s))

/-- `QAND` (R101). -/
def execQand (d a b : BitVec 3) (s : State) : Out := maskOp (wordQand d a b) d [a, b] (fun s => readQ s a &&& readQ s b) s

/-- `QOR` (R101). -/
def execQor (d a b : BitVec 3) (s : State) : Out := maskOp (wordQor d a b) d [a, b] (fun s => readQ s a ||| readQ s b) s

/-- `QXOR` (R101). -/
def execQxor (d a b : BitVec 3) (s : State) : Out := maskOp (wordQxor d a b) d [a, b] (fun s => readQ s a ^^^ readQ s b) s

/-- `QANDN` (R101). -/
def execQandn (d a b : BitVec 3) (s : State) : Out := maskOp (wordQandn d a b) d [a, b] (fun s => readQ s a &&& ~~~readQ s b) s

/-- `QNOT` (R101). -/
def execQnot (d a : BitVec 3) (s : State) : Out := maskOp (wordQnot d a) d [a] (fun s => ~~~readQ s a) s

/-- `QTOP` (R101): the current mask. -/
def execQtop (d : BitVec 3) (s : State) : Out := maskOp (wordQtop d) d [] topMask s

end Sys2Proof.Machine
end

