-- ==== Sys2Proof/Machine/Cells.lean ====
section
/-! DEFINITION. The grid's configurations: bank images (R122), cluster words (R36, R37), the checks of `GGO` (R38, R127,
R131, R385), the cell operations (R130, R131) and one step in lock step (R128, R129, R160). -/

namespace Sys2Proof.Machine

/-! ## Bank images (R122) -/

/-- Byte `o` of bank `b`; a byte that nothing has loaded is 0. -/
def bankByte (s : State) (b : BitVec 2) (o : Nat) : Byte := cellsGet 0 (vget (w := 2) s.core.grid.banks b) o

/-- A little-endian number of a bank. -/
def bankNat (s : State) (b : BitVec 2) (o n : Nat) : Nat := leNat ((List.range n).map (fun i => bankByte s b (o + i)))

/-- Bytes of a bank written. -/
def setBank (b : BitVec 2) (o : Nat) (bs : List Byte) (s : State) : State :=
  { s with core.grid.banks := vset (w := 2) s.core.grid.banks b (cellsWrite 0 (vget (w := 2) s.core.grid.banks b) o bs) }

/-- The six counts of a bank's nest table, c0 first. -/
def nestOf (s : State) (b : BitVec 2) : Vector Word 6 := Vector.ofFn (fun i => BitVec.ofNat 32 (bankNat s b (0x800 + 4 * i.val) 4))

/-- The trip of six counts (R119, R126). -/
def tripOf (c : Vector Word 6) : Nat := c.toList.foldl (fun t x => t * x.toNat) 1

/-- Cluster word `n` = 4 × cell + cluster. -/
def clusterWord (s : State) (b : BitVec 2) (n : Nat) : DWord := dw (bankNat s b (8 * n) 8)

/-! ## Cluster words (R36, R37) -/

def cop (x : DWord) : Nat := fieldN x 56 8
def copD (x : DWord) : Nat := fieldN x 53 3
def selA (x : DWord) : Nat := fieldN x 48 5
def selB (x : DWord) : Nat := fieldN x 43 5
def selC (x : DWord) : Nat := fieldN x 38 5
def linkDir (x : DWord) : Nat := fieldN x 36 2
def linkOut (x : DWord) : Bool := x.getLsbD 35
def rowSink (x : DWord) : Bool := x.getLsbD 33
def pushQ (x : DWord) : Bool := x.getLsbD 32
def cimm (x : DWord) : Nat := fieldN x 16 16
def cmode (x : DWord) : Nat := fieldN x 8 8

/-- What a cell operation uses (R130): local destination, operands a, b, c, rounding field, variant bits, imm16 as
parameters, cluster 0 only. -/
structure CopInfo where
  d : Bool
  a : Bool
  b : Bool
  c : Bool
  rounds : Bool
  variant : Nat
  params : Bool
  only0 : Bool

/-- The table of R130; `DOT` and values that are not in it have no entry here. -/
def copInfo : Nat → Option CopInfo
  | 0x00 => some ⟨false, false, false, false, false, 0, false, false⟩
  | 0x02 => some ⟨true, true, true, true, true, 1, false, false⟩
  | 0x03 => some ⟨false, true, false, false, false, 0, false, false⟩
  | 0x10 | 0x11 | 0x12 => some ⟨true, true, true, false, true, 0, false, false⟩
  | 0x13 => some ⟨true, true, true, true, true, 0, false, false⟩
  | 0x14 | 0x15 => some ⟨true, true, true, false, false, 0, false, false⟩
  | 0x16 | 0x17 => some ⟨true, true, false, false, false, 0, false, false⟩
  | 0x18 => some ⟨true, true, true, false, false, 7, false, false⟩
  | 0x19 | 0x1A => some ⟨true, true, false, false, false, 0, false, true⟩
  | 0x20 | 0x21 | 0x22 | 0x23 | 0x24 | 0x25 | 0x26 => some ⟨true, true, true, false, false, 0, false, false⟩
  | 0x27 | 0x28 | 0x29 => some ⟨true, true, true, false, false, 1, false, false⟩
  | 0x2A => some ⟨true, true, true, false, false, 15, false, false⟩
  | 0x2B => some ⟨true, true, true, true, false, 0, false, false⟩
  | 0x2C => some ⟨true, true, false, false, false, 0, false, false⟩
  | 0x2D => some ⟨false, true, false, false, false, 0, true, false⟩
  | 0x30 => some ⟨true, true, false, true, true, 0, true, false⟩
  | 0x31 => some ⟨true, true, false, false, false, 0, true, false⟩
  | 0x32 | 0x33 => some ⟨true, true, false, false, true, 1, false, false⟩
  | 0x38 => some ⟨true, true, false, false, false, 0, true, false⟩
  | 0x39 => some ⟨true, true, false, false, false, 0, true, false⟩
  | 0x3A => some ⟨true, true, true, true, true, 0, true, false⟩
  | _ => none

/-- Operands that an operation uses, with their selectors, in the order a, b, c. -/
def usedSels (i : CopInfo) (x : DWord) : List (Nat × Nat) :=
  (if i.a then [(0, selA x)] else []) ++ (if i.b then [(1, selB x)] else []) ++ (if i.c then [(2, selC x)] else [])

/-! ## Parameters (R131) -/

def parFmt (imm : Nat) : Nat := imm % 4
def parReading (imm : Nat) : Nat := imm / 4 % 4
def parPos (imm : Nat) : Nat := imm / 16 % 8
def parSat (imm : Nat) : Bool := imm / 128 % 2 = 1

/-- Bits of a code of a format. -/
def parWidth (imm : Nat) : Nat := if parFmt imm < 2 then 8 else if parFmt imm = 2 then 4 else 16

/-- The format under its reading. -/
def parFormat (imm : Nat) : Fmt :=
  if parFmt imm = 3 then bf16 else narrowFmt (BitVec.ofNat 2 (parFmt imm)) (readingOf (BitVec.ofNat 2 (parReading imm)))

/-- Parameters that a `GGO` accepts (R127, R131); `BSCL` takes no position. -/
def parLegal (c imm : Nat) : Bool :=
  if c = 0x2D then decide (imm < 8)
  else if c = 0x38 then decide (imm < 32)
  else
    decide (imm < 256) && decide (parReading imm < 3) && (parFmt imm != 3 || parReading imm == 0)
      && decide ((parPos imm + 1) * parWidth imm ≤ 32) && (!parSat imm || c == 0x30) && (parPos imm == 0 || c != 0x39)
      && (parFmt imm != 3 || !(c == 0x39 || c == 0x3A))

/-! ## Links -/

/-- The neighbour of a cluster in a direction: 0 north, 1 east, 2 south, 3 west; none beyond the edge. -/
def linkTarget (n dir : Nat) : Option Nat :=
  let r := n / 32
  let c := n / 4 % 8
  match dir with
  | 0 => if r = 0 then none else some (n - 32)
  | 1 => if c = 7 then none else some (n + 4)
  | 2 => if r = 7 then none else some (n + 32)
  | _ => if c = 0 then none else some (n - 4)

/-- Where a cluster sends its result. -/
def sendsTo (s : State) (b : BitVec 2) (n : Nat) : Option Nat :=
  let x := clusterWord s b n
  if linkOut x then linkTarget n (linkDir x) else none

/-- The clusters that send into a cluster's link input. -/
def senders (s : State) (b : BitVec 2) (n : Nat) : List Nat :=
  ((List.range 4).filterMap (fun d => linkTarget n d)).filter (fun m => sendsTo s b m == some n)

/-- Whether a walk along the link edges from `m` meets `n` within `k` edges. -/
def linkMeets (s : State) (b : BitVec 2) (n : Nat) : Nat → Nat → Bool
  | 0, _ => false
  | k + 1, m =>
    match sendsTo s b m with
    | some t => t == n || linkMeets s b n k t
    | none => false

/-! ## The checks of `GGO` (R38, R127, R385) -/

/-- Conditions in a cluster's own word; `BMAX` is not among the operations that R130 lists as taking imm16 as parameters. (DEDUCED,
log entry 36.) -/
def wordOffends (s : State) (b : BitVec 2) (n : Nat) : Bool :=
  let x := clusterWord s b n
  match copInfo (cop x) with
  | none => true
  | some i =>
    let sels := usedSels i x
    let reads := fun (k : Nat) => sels.any (fun u => u.2 == k)
    x.getLsbD 34 || fieldN x 0 8 != 0
      || (cop x == 0 && x != 0)
      || (!i.a && selA x != 0) || (!i.b && selB x != 0) || (!i.c && selC x != 0)
      || sels.any (fun u => decide (13 < u.2))
      || (reads 12 && i.params && cop x != 0x38)
      || (reads 13 && (n % 4 == 0 || cop (clusterWord s b (n - 1)) == 0))
      || (!i.d && copD x != 0)
      || (!i.params && !reads 12 && cimm x != 0)
      || (i.params && !parLegal (cop x) (cimm x))
      || decide ((if i.rounds then 5 else 0) < cmode x / 32)
      || (BitVec.ofNat 8 (cmode x % 32) &&& ~~~BitVec.ofNat 8 i.variant) != 0
      || ((cop x == 0x18 || cop x == 0x2A) && decide (5 < cmode x % 8))
      || (i.only0 && n % 4 != 0)
      || (linkOut x && (linkTarget n (linkDir x)).isNone)
      || (reads 8 && (senders s b n).isEmpty)

/-- Whether a cluster is involved in a condition over several clusters (R127). -/
def sharedOffends (s : State) (b : BitVec 2) (n : Nat) : Bool :=
  let x := clusterWord s b n
  let twoSenders := match sendsTo s b n with
    | some t => decide (1 < (senders s b t).length)
    | none => false
  let sinks := (List.range 32).filter (fun k => rowSink (clusterWord s b (n / 32 * 32 + k)))
  let pqs := (List.range 256).filter (fun k => pushQ (clusterWord s b k))
  twoSenders || linkMeets s b n 64 n || (rowSink x && decide (1 < sinks.length)) || (pushQ x && decide (1 < pqs.length))

/-- A cluster that works in the failed column of an 8x7 grid (R385). -/
def columnOffends (s : State) (b : BitVec 2) (n : Nat) : Bool :=
  match s.core.grid.degraded with
  | some c => n / 4 % 8 == c.toNat && cop (clusterWord s b n) != 0
  | none => false

/-- The first offending cluster of a bank. The reserved bytes of its image outside the cluster words are not looked at (DESIGN CHOICE, log
entry 77). -/
def offending (s : State) (b : BitVec 2) : Option Nat :=
  (List.range 256).find? (fun n => wordOffends s b n || sharedOffends s b n || columnOffends s b n)

/-- Cell index in [5:0] and cluster in [7:6] (R38). -/
def offenderAddr (n : Nat) : DWord := dw (n / 4 + 64 * (n % 4))

/-! ## Stages (R126) -/

/-- The greatest number of link hops on a chain that ends at cluster `n`; a value that passes by `prev` stays on its chain
(DEDUCED, log entry 40). -/
def linkDepth (s : State) (b : BitVec 2) : Nat → Nat → Nat
  | 0, _ => 0
  | k + 1, n =>
    let x := clusterWord s b n
    let viaLink := (senders s b n).foldl (fun m t => Nat.max m (linkDepth s b k t + 1)) 0
    let readsPrev := match copInfo (cop x) with
      | some i => (usedSels i x).any (fun u => u.2 == 13)
      | none => false
    if readsPrev && n % 4 != 0 then Nat.max viaLink (linkDepth s b k (n - 1)) else viaLink

/-- The stage count S: a chain of acyclic links and of `prev` visits each of the 256 clusters at most once.
(DEDUCED, log entry 40.) -/
def stagesOf (s : State) (b : BitVec 2) : Nat := 1 + (List.range 256).foldl (fun m n => Nat.max m (linkDepth s b 256 n)) 0

/-- Whether some cluster reads a port: 9 row, 10 column. -/
def readsPort (s : State) (b : BitVec 2) (port : Nat) : Bool :=
  (List.range 256).any (fun n =>
    let x := clusterWord s b n
    match copInfo (cop x) with
    | some i => (usedSels i x).any (fun u => u.2 == port)
    | none => false)

/-- Whether some cluster has a row sink. -/
def hasSink (s : State) (b : BitVec 2) : Bool := (List.range 256).any (fun n => rowSink (clusterWord s b n))

/-! ## Operations (R130, R131) -/

/-- A result, its flags, and whether it rounded an element. -/
abbrev CellVal := Word × Flags × Bool

/-- A result without flags or rounding. -/
def plainVal (x : Word) : CellVal := (x, 0, false)

/-- An exact value rounded once. -/
def roundVal (r : Rnd) (v : FVal × Flags) : CellVal := let x := f32Result r v; (x.1, x.2, true)

/-- `SCACC`. With a scale byte of 0xFF nothing is rounded, and the cluster's RSR state stays (DESIGN CHOICE, log entry 87). -/
def scacc (r : Rnd) (finite : Bool) (a b c : Word) : CellVal :=
  let s0 := b.toNat % 256
  let s1 := b.toNat / 256 % 256
  if s0 = 255 ∨ s1 = 255 then plainVal (if finite then 0 else BitVec.ofNat 32 fp32.nanCode)
  else roundVal r ((valF32 c).add r ((valF32 a).scale ((s0 : Int) + s1 - 254)))

/-- Operations on 32-bit integers. -/
def cellInt (c variant : Nat) (a b : Word) : Word :=
  let z := variant % 2 = 1
  match c with
  | 0x20 => a + b
  | 0x21 => a - b
  | 0x22 => a * b
  | 0x23 => a &&& b
  | 0x24 => a ||| b
  | 0x25 => a ^^^ b
  | 0x26 => a <<< (b.toNat % 32)
  | 0x27 => if z then a.sshiftRight (b.toNat % 32) else a >>> (b.toNat % 32)
  | 0x28 => if z then (if b.ult a then b else a) else (if b.slt a then b else a)
  | 0x29 => if z then (if a.ult b then b else a) else (if a.slt b then b else a)
  | _ => if (cmpInt (variant / 8 % 2 = 0) (BitVec.ofNat 3 variant) a b).1 then 1 else 0

/-- A code put at its position of a word. -/
def insertCode (imm : Nat) (c : Word) (code : Nat) : Word := putBits c (parPos imm * parWidth imm) (parWidth imm) code

/-- The result of an operation on its operands; `old` is the local register d (`BMAX`). -/
def cellOp (c variant imm t : Nat) (r : Rnd) (a b x old : Word) : CellVal :=
  let va := valF32 a
  let vb := valF32 b
  match c with
  | 0x02 => scacc r (variant % 2 = 1) a b x
  | 0x03 | 0x2C => plainVal a
  | 0x10 => roundVal r (va.add r vb)
  | 0x11 => roundVal r (va.add r vb.neg)
  | 0x12 => roundVal r (va.mul vb)
  | 0x13 => roundVal r (va.fma r vb (valF32 x))
  | 0x14 => plainVal (BitVec.ofNat 32 (fp32.minMax false a.toNat b.toNat))
  | 0x15 => plainVal (BitVec.ofNat 32 (fp32.minMax true a.toNat b.toNat))
  | 0x16 => plainVal (a &&& 0x7FFFFFFF)
  | 0x17 => plainVal (a ^^^ 0x80000000)
  | 0x18 => let y := cmpF32 (BitVec.ofNat 3 variant) a b; (if y.1 then 1 else 0, y.2, false)
  | 0x19 => let y := exp2F32 a; (y.1, y.2, false)
  | 0x1A => let y := rcpF32 a; (y.1, y.2, false)
  | 0x2B => plainVal (if x = 0 then b else a)
  | 0x30 =>
    let y := (parFormat imm).narrow (parSat imm) r va
    (insertCode imm x y.1, y.2, true)
  | 0x31 => plainVal (roundFp32 .rne ((parFormat imm).value (getBits a (parPos imm * parWidth imm) (parWidth imm)))).1
  | 0x32 => roundVal r (FVal.ofInt (if variant % 2 = 1 then (a.toNat : Int) else a.toInt), 0)
  | 0x33 =>
    let y := if variant % 2 = 1 then FVal.toInt r 0 (2 ^ 32 - 1) va else FVal.toInt r (-2 ^ 31) (2 ^ 31 - 1) va
    (BitVec.ofInt 32 y.1, y.2, true)
  | 0x38 =>
    let m := a &&& 0x7FFFFFFF
    let o := if t % 2 ^ (imm % 32) = 0 then 0 else old
    if va.isNan || (valF32 o).isNan then plainVal (BitVec.ofNat 32 fp32.nanCode)
    else plainVal (if (valF32 o).lt false (valF32 m) then m else o)
  | 0x39 => plainVal ((blockScale (parFormat imm) [va]).setWidth 32)
  | 0x3A =>
    if b.toNat % 256 = 255 then (insertCode imm x 0, if va.isNan then flagNV else 0, true)
    else
      let y := packCode (parFormat imm) (parFmt imm == 2) (b.setWidth 8) r a
      (insertCode imm x y.1, y.2, true)
  | _ => plainVal (cellInt c variant a b)

/-- Whether an operand takes imm16 as an integer (R130). -/
def immSigned (c k : Nat) : Bool :=
  (decide (0x20 ≤ c) && decide (c ≤ 0x2C)) || c == 0x03 || c == 0x32 || (c == 0x02 && k == 1)

/-- imm16 as an operand takes it (R130). -/
def immValue (c k imm : Nat) : Word :=
  if immSigned c k then (BitVec.ofNat 16 imm).signExtend 32 else (BitVec.ofNat 16 imm).setWidth 32 <<< 16

/-! ## One step (R128, R129, R160) -/

/-- What a step runs with: bank, step number, the first step and the trip, default rounding mode, the tokens at the row and the column
ports. -/
structure StepIn where
  bank : BitVec 2
  t : Nat
  first : Nat
  trip : Nat
  rm : BitVec 3
  row : Option Token
  col : Option Token

/-- A valid value that passes on no tag. -/
def GVal.const (x : Word) : GVal := ⟨x, true, none, false⟩

/-- An invalid +0. -/
def GVal.off : GVal := ⟨0, false, none, false⟩

/-- Word `i` of a port's token; with no token the port presents an invalid one of the step's number (R128). -/
def portVal (tok : Option Token) (t i : Nat) : GVal :=
  match tok with
  | some k => ⟨k.data.extractLsb' (32 * i) 32, true, some t, !k.windows.isEmpty⟩
  | none => ⟨0, false, some t, false⟩

/-- What a cluster did in a step. -/
structure CellRes where
  val : GVal
  l : Vector GVal 8
  acc : Option GVal
  rsr : Word
  flags : Flags

/-- Cluster `n` of the state. -/
def gridCluster (st : GridState) (n : Nat) : Cluster := vgetD st.clusters n ⟨Vector.replicate 8 (GVal.const 0), GVal.off⟩

/-- The operand that a selector names (R37, R128). -/
def operand (st : GridState) (i : StepIn) (n c imm : Nat) (prev : GVal) (k sel : Nat) : GVal :=
  let me := gridCluster st n
  if sel < 8 then let v := vgetD me.l sel GVal.off; { v with tag := none }
  else match sel with
    | 8 => me.link
    | 9 => portVal i.row i.t (n / 32)
    | 10 => portVal i.col i.t (n / 4 % 8)
    | 11 => let v := vgetD (vgetD st.acc (n / 4) (Vector.replicate 64 GVal.off)) (i.t % 64) GVal.off; { v with tag := none }
    | 12 => GVal.const (immValue c k imm)
    | _ => prev

/-- Whether a selector passes on a tag (R129): a port, a link or `prev`. -/
def tagged (sel : Nat) : Bool := sel == 8 || sel == 9 || sel == 10 || sel == 13

/-- Whether a stage is disabled in a step (R172): the token it would work on is before the first or past the last. -/
def StepIn.disabled (i : StepIn) (stage : Nat) : Bool := decide (i.t < i.first + stage) || decide (i.trip + stage ≤ i.t)

/-- The computation of cluster `n` in a step; `prev` is the result of the cluster before it in the cell. The ring of a `DLY` records in every
step (R160), in a disabled stage an invalid entry (R172). -/
def clusterStep (s : State) (st : GridState) (i : StepIn) (n : Nat) (prev : GVal) : CellRes :=
  let x := clusterWord s i.bank n
  let me := gridCluster st n
  let rsr := vgetD st.rsr n 0
  match copInfo (cop x) with
  | none => ⟨GVal.off, me.l, none, rsr, 0⟩
  | some info =>
    if cop x = 0 then ⟨GVal.off, me.l, none, rsr, 0⟩
    else
      let ops := (usedSels info x).map (fun u => (u.1, u.2, operand st i n (cop x) (cimm x) prev u.1 u.2))
      let arg := fun (k : Nat) => ((ops.find? (fun o => o.1 == k)).map (fun o => o.2.2)).getD GVal.off
      let tag := ((ops.find? (fun o => tagged o.2.1)).bind (fun o => o.2.2.tag)).getD i.t
      let unchecked := ops.any (fun o => o.2.2.unchecked)
      let off := i.disabled (linkDepth s i.bank 256 n)
      if cop x = 0x2D then
        let a := arg 0
        let n := cimm x % 8 + 1
        let out := vgetD me.l ((i.t + 8 - n) % 8) GVal.off
        ⟨{ out with valid := out.valid && !off },
          me.l.setIfInBounds (i.t % 8) { a with tag := some tag, valid := a.valid && !off }, none, rsr, 0⟩
      else if off || !ops.all (fun o => o.2.2.valid) then ⟨⟨0, false, some tag, unchecked⟩, me.l, none, rsr, 0⟩
      else
        let mode : BitVec 3 := if cmode x / 32 = 0 then i.rm else BitVec.ofNat 3 (cmode x / 32 - 1)
        let old := vgetD me.l (copD x) GVal.off
        let y := cellOp (cop x) (cmode x % 32) (cimm x) i.t (Rnd.ofBits mode (rsrNext rsr)) (arg 0).bits (arg 1).bits (arg 2).bits old.bits
        let v : GVal := ⟨y.1, true, some tag, unchecked || (cop x == 0x38 && i.t % 2 ^ (cimm x % 32) != 0 && old.unchecked)⟩
        ⟨v, if info.d then me.l.setIfInBounds (copD x) { v with tag := none } else me.l,
          if cop x = 0x03 then some { v with tag := none } else none,
          if mode = 4 && y.2.2 then rsrNext rsr else rsr, y.2.1⟩

/-- What every cluster of the grid did, in the order of cell and cluster. -/
def allClusters (s : State) (st : GridState) (i : StepIn) : List CellRes :=
  ((List.range 256).foldl (fun (acc : List CellRes × GVal) n =>
    let prev := if n % 4 = 0 then GVal.off else acc.2
    let r := clusterStep s st i n prev
    (r :: acc.1, r.val)) ([], GVal.off)).1.reverse

/-- What a step hands on: the next state, flags, the sinks' valid results by lane group, the bit for the branch-outcome
queue. -/
structure StepOut where
  st : GridState
  flags : Flags
  sinks : List (Nat × GVal)
  pq : Option Bool

/-- A row's accumulator files after a step: the last `ACCW` of a cell in the order of clusters remains. -/
def cellAcc (st : GridState) (rs : List CellRes) (cell t : Nat) : Vector GVal 64 :=
  (List.range 4).foldl (fun f k =>
    match (rs[4 * cell + k]?).bind (fun r => r.acc) with
    | some v => f.setIfInBounds (t % 64) v
    | none => f) (vgetD st.acc cell (Vector.replicate 64 GVal.off))

/-- One step of a configuration. -/
def gridCompute (s : State) (st : GridState) (i : StepIn) : StepOut :=
  let rs := allClusters s st i
  let res := fun (n : Nat) => ((rs[n]?).map (fun r => r.val)).getD GVal.off
  let link := fun (n : Nat) => match (senders s i.bank n).head? with | some m => res m | none => GVal.off
  { st := {
      clusters := Vector.ofFn (fun n => ⟨((rs[n.val]?).map (fun r => r.l)).getD (Vector.replicate 8 GVal.off), link n.val⟩)
      acc := Vector.ofFn (fun c => cellAcc st rs c.val i.t)
      rsr := Vector.ofFn (fun n => ((rs[n.val]?).map (fun r => r.rsr)).getD 0)
      step := i.t + 1 }
    flags := rs.foldl (fun f r => f ||| r.flags) 0
    sinks := (List.range 256).filterMap (fun n =>
      if rowSink (clusterWord s i.bank n) && (res n).valid then some (n / 32, res n) else none)
    pq := ((List.range 256).find? (fun n => pushQ (clusterWord s i.bank n) && (res n).valid)).map (fun n => (res n).bits.getLsbD 0) }

/-- The grid at the start of a `GGO` (R160): registers and accumulators valid +0, link latches invalid, the rings of `DLY`
invalid, RSR states as they stand. -/
def gridStart (s : State) (b : BitVec 2) (first : Nat) : GridState where
  clusters := Vector.ofFn (fun n =>
    ⟨Vector.replicate 8 (if cop (clusterWord s b n.val) = 0x2D then GVal.off else GVal.const 0), GVal.off⟩)
  acc := Vector.replicate 64 (Vector.replicate 64 (GVal.const 0))
  rsr := s.core.sys.clusterRsr
  step := first

/-- Marks of unchecked values taken off a grid state, once the window they came from has passed (R164). -/
def GridState.checked (st : GridState) : GridState :=
  let clean := fun (v : GVal) => { v with unchecked := false }
  { st with
    clusters := st.clusters.map (fun c => ⟨c.l.map clean, clean c.link⟩)
    acc := st.acc.map (fun f => f.map clean) }

end Sys2Proof.Machine
end

