-- ==== Sys2Proof/Machine/Streams.lean ====
section
/-! DEFINITION. Engine accesses to the pool and to memory (R117, R166, R167, R225), streams (R118-R121, R162-R164), and the
data queues (R123, R169, R170). -/

namespace Sys2Proof.Machine

/-! ## Engine accesses -/

/-- Whether the engines of the core work: a core that is saved, halted, stopped or unbound has none at work. -/
def engineLive (s : State) : Bool :=
  match s.core.seq.run with
  | .running | .overlay _ | .exited => true
  | .unbound | .bound | .done | .saving _ | .saved | .halted _ | .stopped => false

/-- What an engine's read met. -/
inductive EngRes where
  | ok (bs : List Byte) (windows : List (Nat × Nat))
  /-- The bytes are not there yet. -/
  | wait
  /-- A fault: subcause, address, and whether it is a translation fault. -/
  | fault (sub : BitVec 2) (addr : Nat) (translation : Bool)
  /-- An uncorrectable error, which has aborted the launch. -/
  | error
  deriving DecidableEq, Repr

/-- Whether bytes [a, a+n) lie in SP or AC banks (R79). -/
def enginePoolOk (s : State) (a n : Nat) : Bool :=
  decide (a + n ≤ Config.poolBytes) && (List.range (n / 2048 + 2)).all (fun k =>
    let x := Nat.min (a + 2048 * k) (a + n - 1)
    let u := bankUse s.core.sys.partw (x / 2048)
    u == 1 || u == 2)

/-- The check windows that unchecked words of [a, a+n) belong to (R164). -/
def windowsOf (s : State) (a n : Nat) : List (Nat × Nat) :=
  let own := fun (c : Nat) => s.net.circuits.any (fun x => x.id == c && x.receiver == s.core.id)
  let words := (List.range ((n + 3) / 4 + 1)).map (fun k => a / 4 * 4 + 4 * k)
  let hot := words.filter (fun w => decide (w < a + n) && s.core.pool.unchecked.contains w)
  (s.net.rx.filter (fun r => own r.circuit && !r.passed && r.placed.any (fun w => hot.contains w))).map (fun r => (r.circuit, r.start))

/-- The command in execution of a queue becomes a reader of a buffer (R166): none when seven read it already. -/
def joinBuffer (q i : Nat) (s : State) : Option State :=
  let b := bufOf s i
  let mine := match execOf s q with | some r => r.buffers.contains i | none => true
  if mine then some s
  else if b.state = .draining ∧ 7 ≤ b.readers then none
  else some (updExec q (fun r => { r with buffers := i :: r.buffers }) (readerStart i s))

/-- Joins every full or draining buffer of a list. -/
def joinBuffers (q : Nat) : List Nat → State → Option State
  | [], s => some s
  | i :: r, s =>
    match (bufOf s i).state with
    | .full | .draining => (joinBuffer q i s).bind (joinBuffers q r)
    | .empty | .filling => joinBuffers q r s

/-- A read of the pool by the command in execution of queue `q`. -/
def enginePoolRead (q a n : Nat) (s : State) : State × EngRes :=
  if !enginePoolOk s a n then (s, .fault subMemory a false)
  else
    let bufs := buffersAt s a n
    let part := fun (i : Nat) => let b := bufOf s i; (Nat.max a b.base, Nat.min (a + n) (b.base + b.size))
    let ans := bufs.map (fun i => bufEngineRead s i (part i).1 ((part i).2 - (part i).1))
    if ans.contains .fault then (s, .fault subBuffer a false)
    else if ans.contains .wait then (s, .wait)
    else
      match joinBuffers q bufs s with
      | none => (s, .wait)
      | some s => (s, .ok (poolRead s a n) (windowsOf s a n))

/-- A read of the pool whose bytes leave the core: it waits while a check window that they belong to has not passed (R164, R167).
(DEDUCED, log entry 67.) -/
def checkedRead (q a n : Nat) (s : State) : State × EngRes :=
  match enginePoolRead q a n s with
  | (s', .ok bs ws) => (s', if ws.isEmpty then .ok bs [] else .wait)
  | r => r

/-- The physical address of an engine access to memory, in the order of R81: address, translation, reach.
(DEDUCED, log entry 37.) -/
def engineTranslate (va : Nat) (write : Bool) (s : State) : State × (Nat ⊕ (Nat × Bool)) :=
  if 2 ^ 56 ≤ va then (s, .inr (va, false))
  else
    match translate va write s with
    | (s', .fault _) => (s', .inr (va, true))
    | (s', .ok pa) =>
      let l := ownLaunch s
      if classOf l va ≠ 1 ∧ ¬ isHostPa pa ∧ ¬ inReach s l (paPkg pa) then (s', .inr (va, false)) else (s', .inl pa)

/-- A read of memory within one line by an engine. -/
def engineLineRead (va n : Nat) (s : State) : State × EngRes :=
  match engineTranslate va false s with
  | (s', .inr (a, t)) => (s', .fault subMemory a t)
  | (s', .inl pa) =>
    match readEngine (ownClass s' va pa) pa n s' with
    | (s', .bytes bs) => (s', .ok bs [])
    | (s', .wait) => (s', .wait)
    | (s', .poison) => (s', .error)

/-- A read of up to 128 bytes of memory by an engine, line by line. -/
def engineGlobalRead (va n : Nat) (s : State) : State × EngRes :=
  let head := 128 - va % 128
  if n ≤ head then engineLineRead va n s
  else
    match engineLineRead va head s with
    | (s', .ok bs _) =>
      match engineLineRead (va + head) (n - head) s' with
      | (s'', .ok cs _) => (s'', .ok (bs ++ cs) [])
      | r => r
    | r => r

/-- A read of a space at an address, for the command in execution of queue `q`. -/
def engineRead (q : Nat) (sp : Space) (a : DWord) (n : Nat) (s : State) : State × EngRes :=
  match sp with
  | .pool => enginePoolRead q a.toNat n s
  | .ac => if acSize s < a.toNat + n then (s, .fault subMemory a.toNat false) else enginePoolRead q (acBase s + a.toNat) n s
  | .global => engineGlobalRead a.toNat n s
  | .queue => (s, .wait)

/-- A word written to the pool by a local engine: whether its buffers admit it (R165, R167). -/
def engineWordOk (s : State) (a : Nat) : Bool := (buffersAt s a 4).all (fun i => bufEngineWrite s i a)

/-- What an engine's write met. -/
inductive EngWrite where
  | done
  | wait
  | fault (sub : BitVec 2) (addr : Nat) (translation : Bool)
  deriving DecidableEq, Repr

/-- Bytes written to memory within one line by an engine, at a scope. -/
def engineLineWrite (va : Nat) (bs : List Byte) (scope : BitVec 3) (s : State) : State × EngWrite :=
  match engineTranslate va true s with
  | (s', .inr (a, t)) => (s', .fault subMemory a t)
  | (s', .inl pa) =>
    match writeEngine (ownClass s' va pa) pa bs scope s' with
    | (s', .done) => (s', .done)
    | (s', .held) => (s', .wait)

/-! ## Data queues (R123, R169, R170) -/

/-- Capacities with the grants in force. -/
def feedCap (s : State) : Nat := Config.dataQueueDepth + 2 * s.core.grid.feedGrants
def outCap (s : State) : Nat := Config.dataQueueDepth + 2 * s.core.grid.outGrants
def pqCap (s : State) : Nat := Config.dataQueueDepth + 512 * s.core.grid.pqGrants

/-! ## Descriptors (R118, R119) -/

/-- A little-endian field of a descriptor. -/
def descField (d : List Byte) (o n : Nat) : Nat := leNat ((d.drop o).take n)

/-- The space a stream control word names. -/
def spaceOf (sc : Nat) : Space :=
  match sc / 2 % 4 with
  | 0 => .pool
  | 1 => .ac
  | 2 => .global
  | _ => .queue

/-- Whether a stream control word and the reserved bytes keep R118. -/
def streamDescLegal (d : List Byte) : Bool :=
  let sc := descField d 0x30 4
  descField d 0x34 12 == 0 && decide (sc < 256) && decide (sc / 8 % 4 < 2) && (sc % 2 == 0 || sc / 8 % 4 == 0)

/-- The stream of an engine. -/
def streamOf (s : State) (se : Nat) : Option StreamRun := vgetD s.core.eng.streams se none

def setStream (se : Nat) (r : Option StreamRun) (s : State) : State :=
  { s with core.eng.streams := s.core.eng.streams.setIfInBounds se r }

/-- `SRP` of an engine: sequence number, V (R29). -/
def setSrp (se seq : Nat) (v : Bool) (s : State) : State :=
  { s with core.sys.srp := s.core.sys.srp.setIfInBounds se (dw (seq % 2 ^ 48) ||| b64 v <<< 63) }

def srpV (s : State) (se : Nat) : Bool := (vgetD s.core.sys.srp se 0).getLsbD 63
def srpSeq (s : State) (se : Nat) : Nat := fieldN (vgetD s.core.sys.srp se 0) 0 48

/-- Whether another stream holds the port that a stream needs (R119). -/
def portBusy (s : State) (se : Nat) (write column : Bool) : Bool :=
  (List.range 4).any (fun i => i != se && (match streamOf s i, execOf s i with
    | some r, some x => !x.finished && r.write == write && (write || r.column == column)
    | _, _ => false))

/-- The strides of a descriptor. -/
def descStrides (d : List Byte) : Vector Word 6 := Vector.ofFn (fun i => BitVec.ofNat 32 (descField d (8 + 4 * i.val) 4))

/-- `SRUN` starts (R119): the descriptor is read once, and its trip is that of the counts it took when it started (R123); T of 0 or a start
at or beyond T ends it. The descriptor is read as any engine read is, and an access that faults stops the engine until it is restarted
(DEDUCED, log entry 68). -/
def startStream (se : Nat) (c : Command) (s : State) : State :=
  let s := setSrp se 0 false s
  let counts := ((execOf s se).bind (fun x => x.nest)).getD (nestOf s (field c.params[3] 2 2))
  let trip := tripOf counts
  let first := fieldN c.params[1] 0 48
  match checkedRead se c.params[0].toNat 64 s with
  | (s, .wait) => s
  | (s, .fault sub a t) => engineStop se se sub a 0 false t s
  | (s, .error) => updExec se (fun r => { r with stopped := true }) s
  | (s, .ok d _) =>
    let sc := descField d 0x30 4
    let write := sc % 2 = 1
    let column := sc / 8 % 4 = 1
    if 2 ^ 48 ≤ trip ∨ !streamDescLegal d ∨ portBusy s se write column then commandError se s
    else if trip = 0 ∨ trip ≤ first then updExec se (fun r => { r with finished := true }) s
    else
      setStream se (some ⟨write, spaceOf sc, column, BitVec.ofNat 3 (sc / 32), cmdPsc c, dw (descField d 0 8) + c.params[2],
        descStrides d, counts, first, trip, first, []⟩) s

/-- The address of the iteration of a sequence number (R119). -/
def streamAddr (r : StreamRun) (seq : Nat) : DWord :=
  ((List.range 6).foldl (fun (x : Nat × DWord) l =>
    let n := (vgetD r.counts l 1).toNat
    (x.1 / n, x.2 + dw (x.1 % n) * (vgetD r.strides l 0).signExtend 64)) (seq, r.base)).2

/-- The check of an address that stands before each access of 32 bytes: alignment (R119). -/
def tokenAligned (a : DWord) : Bool := a.toNat % 32 == 0

/-! ## Delivery and commit (R120, R121, R162) -/

/-- The stream and the command of an engine, when its command works. -/
def liveStream (s : State) (se : Nat) : Option (StreamRun × Running) :=
  match streamOf s se, execOf s se with
  | some r, some x => if engineLive s && !x.finished && !x.stopped then some (r, x) else none
  | _, _ => none

/-- A token read ahead. -/
def pushToken (se : Nat) (r : StreamRun) (bs : List Byte) (w : List (Nat × Nat)) (s : State) : State :=
  setStream se (some { r with ahead := r.ahead ++ [⟨r.nextRead, BitVec.ofNat 256 (leNat bs), w⟩], nextRead := r.nextRead + 1 }) s

/-- A restarted engine is no longer stopped for the restore of a pre-emption (R30). -/
def restarted (q : Nat) (s : State) : State :=
  if s.core.eng.restoring.getLsbD q then { s with core.eng.restoring := setBit s.core.eng.restoring q false } else s

/-- `STREAM_TOKEN_DELIVER` (R120): the next token is read ahead, at most 16; a fault waits until its token is the next to
deliver (R162). -/
def execStreamTokenDeliver (se : BitVec 2) (s : State) : Out :=
  let q := se.toNat
  match liveStream s q with
  | none => .next s
  | some (r, _) =>
    if r.write ∨ 16 ≤ r.ahead.length ∨ r.trip ≤ r.nextRead then .next s
    else
      match r.space with
      | .queue =>
        match s.core.grid.feed with
        | [] => .next s
        | t :: ts => .next (restarted q (settleQueues (pushToken q r (leBytes 32 t.toNat) [] { s with core.grid.feed := ts })))
      | sp =>
        let a := streamAddr r r.nextRead
        let res := if tokenAligned a then engineRead q sp a 32 s else (s, .fault subMemory a.toNat false)
        match res with
        | (s', .ok bs w) => .next (restarted q (pushToken q r bs w s'))
        | (s', .wait) => .next s'
        | (s', .fault sub addr t) => .next (if r.ahead.isEmpty then engineStop q q sub addr r.nextRead false t s' else s)
        | (s', .error) => .next (updExec q (fun x => { x with stopped := true }) s')

/-- A token has been consumed or committed: `SRP`, and the stream ends with its last token. -/
def countToken (se seq : Nat) (r : StreamRun) (s : State) : State :=
  let s := setSrp se seq true s
  if r.trip ≤ seq + 1 then updExec se (fun x => { x with finished := true }) s else s

/-- The rows of a gathered token with their words. -/
def sinkRows (k : SinkToken) : List (Nat × Word) :=
  (List.range 8).filterMap (fun r => if k.rows.getLsbD r then some (r, k.data.extractLsb' (32 * r) 32) else none)

/-- The rows of a token written to memory one after another; nothing happens unless all of them perform. -/
def commitRows (a : Nat) (scope : BitVec 3) : List (Nat × Word) → State → State × EngWrite
  | [], s => (s, .done)
  | (r, w) :: rest, s =>
    match engineLineWrite (a + 4 * r) (leBytes 4 w.toNat) scope s with
    | (s', .done) => commitRows a scope rest s'
    | x => x

/-- A token written into the pool: every word must be admitted by its buffers. -/
def commitPool (a : Nat) (rows : List (Nat × Word)) (s : State) : State × EngWrite :=
  if !enginePoolOk s a 32 then (s, .fault subMemory a false)
  else
    match rows.find? (fun x => !engineWordOk s (a + 4 * x.1)) with
    | some _ => (s, .fault subBuffer a false)
    | none => (rows.foldl (fun s x => placeBytes (a + 4 * x.1) (leBytes 4 x.2.toNat) false false s) s, .done)

/-- An output-queue entry; the words of rows without a sink are free values. (DESIGN CHOICE, log entry 12.) -/
def outEntry (k : SinkToken) : TokenData :=
  let word := fun (r : Nat) => if k.rows.getLsbD r then k.data.extractLsb' (32 * r) 32 else Config.freeRow k.seq r
  BitVec.ofNat 256 (leNat ((List.range 8).flatMap (fun r => leBytes 4 (word r).toNat)))

/-- A running grid command has had data of its sinks written to memory (R160). -/
def noteWrote (s : State) : State := { s with core.grid.run := s.core.grid.run.map (fun g => { g with wrote := true }) }

/-- A gathered token written to a stream's space. -/
def commitToken (r : StreamRun) (k : SinkToken) (s : State) : State × EngWrite :=
  let a := streamAddr r k.seq
  match r.space with
  | .queue =>
    if outCap s ≤ s.core.grid.outq.length then (s, .wait)
    else ({ s with core.grid.outq := s.core.grid.outq ++ [outEntry k] }, .done)
  | .pool => if tokenAligned a then commitPool a.toNat (sinkRows k) s else (s, .fault subMemory a.toNat false)
  | .ac =>
    if !tokenAligned a || decide (acSize s < a.toNat + 32) then (s, .fault subMemory a.toNat false)
    else commitPool (acBase s + a.toNat) (sinkRows k) s
  | .global =>
    if tokenAligned a then commitRows a.toNat (storeScope s r.ssc) (sinkRows k) (noteWrote s) else (s, .fault subMemory a.toNat false)

/-- Whether the grid command that a write stream serves has ended by `GSTOP` (R124). -/
def gridStopped (s : State) : Bool :=
  match s.core.grid.run, execOf s 4 with
  | some g, some x => g.stopping && x.finished && hasSink s g.bank
  | _, _ => false

/-- Whether a write stream has not ended. -/
def writeOpen (s : State) : Bool :=
  (List.range 4).any (fun i => match streamOf s i, execOf s i with
    | some r, some x => r.write && !x.finished
    | _, _ => false)

/-- `STREAM_TOKEN_COMMIT` (R120): the gathered token of the stream's next sequence number is written; one that no stream
will gather is dropped (DESIGN CHOICE, log entry 41). A checked window is awaited (R164). -/
def execStreamTokenCommit (se : BitVec 2) (s : State) : Out :=
  let q := se.toNat
  match liveStream s q with
  | none => .next s
  | some (r, _) =>
    if !r.write then .next s
    else
      match s.core.eng.sinks with
      | [] => .next (if gridStopped s then updExec q (fun x => { x with finished := true }) s else s)
      | k :: ks =>
        if k.seq < r.nextRead then .next { s with core.eng.sinks := ks }
        else if r.nextRead < k.seq ∨ k.unchecked then .next s
        else
          match commitToken r k s with
          | (s', .done) =>
            .next (restarted q (countToken q k.seq r (setStream q (some { r with nextRead := r.nextRead + 1 })
              { s' with core.eng.sinks := ks })))
          | (_, .wait) => .next s
          | (s', .fault sub addr t) => .next (engineStop q q sub addr k.seq true t s')

/-! ## Cutting a stream (R121, R124, R163) -/

/-- Tokens read ahead are discarded and read again: the cursor goes back to the first of them; a feed-queue entry goes back
to its queue, which may then hold more than its capacity (DESIGN CHOICE, log entry 82). -/
def rewindAhead (se : Nat) (s : State) : State :=
  match streamOf s se with
  | some r =>
    if r.write then s
    else
      let s := if r.space = .queue then { s with core.grid.feed := r.ahead.map (fun t => t.data) ++ s.core.grid.feed } else s
      setStream se (some { r with ahead := [], nextRead := r.nextRead - r.ahead.length }) s
  | none => s

/-- Tokens read ahead from a check window on are discarded and read again (R163). -/
def rewindWindow (w : Nat × Nat) (se : Nat) (s : State) : State :=
  match streamOf s se with
  | some r =>
    let keep := r.ahead.takeWhile (fun t => !t.windows.contains w)
    setStream se (some { r with ahead := keep, nextRead := r.nextRead - (r.ahead.length - keep.length) }) s
  | none => s

/-- A cut stream goes on at SEQ + 1 of its `SRP` register, and at its command's start while V is 0 (R29, R121): tokens read ahead are
read again. -/
def resumeStream (se : Nat) (s : State) : State :=
  let s := rewindAhead se s
  match streamOf s se with
  | none => s
  | some r =>
    let n := if srpV s se then srpSeq s se + 1 else r.first
    let s := setStream se (some { r with nextRead := n }) s
    if r.trip ≤ n then updExec se (fun x => { x with finished := true }) s else s

/-- A read stream ends after its last consumed token (R124). -/
def endStream (se : Nat) (s : State) : State := updExec se (fun x => { x with finished := true }) (rewindAhead se s)

/-- The running read stream of a port. -/
def portStream (s : State) (column : Bool) : Option Nat :=
  (List.range 4).find? (fun i => match liveStream s i with
    | some (r, _) => !r.write && r.column == column
    | none => false)

end Sys2Proof.Machine
end

