-- ==== Sys2Proof/Machine/GridCmd.lean ====
section
/-! DEFINITION. The sequencer's stream, grid, token and buffer instructions (R111-R139): issue of `SRUN`, `GLDC`, `GGO` and
`GMMA`, and the A-format instructions of majors 0x54, 0x5C and 0x5D. -/

namespace Sys2Proof.Machine

/-! ## Engine commands (R119, R125, R126, R132) -/

/-- A pool address that is a multiple of 64 with bits [63:17] zero. -/
def poolAddr64 (x : DWord) : Bool := onlyBits x (bitsMask 6 11)

/-- `SRUN` (R119). -/
def srunSpec : CmdSpec where
  op := .srun
  queue := fun p => fieldN p[3] 0 2
  bank := fun _ p => field p[3] 2 2
  rules := fun _ p => ⟨poolAddr64 p[0], onlyBits p[1] (bitsMask 0 48), true, onlyBits p[3] (bitsMask 0 4 ||| pscMask)⟩

def execSrun (sig wa wb wc sp : BitVec 5) (s : State) : Out := issueCommand (wordSrun sig wa wb wc sp) srunSpec sig wa wb wc sp s

/-- `GLDC` (R125): the target is the shadow bank at issue. -/
def gldcSpec : CmdSpec where
  op := .gldc
  queue := fun _ => 4
  bank := fun s _ => s.core.grid.shadowBank
  rules := fun _ p => ⟨p[0].toNat % 64 == 0, p[1] == 0, p[2] == 0, onlyBits p[3] (bitsMask 0 1 ||| pscMask)⟩

/-- `GLDC` (R125): illegal while the shadow bank is the active one, before every other check. -/
def execGldc (sig wa wb wc sp : BitVec 5) (s : State) : Out :=
  let w := wordGldc sig wa wb wc sp
  gate anywhere w s fun s =>
    if s.core.grid.shadowBank = s.core.grid.activeBank then illegal w s else issueCommand w gldcSpec sig wa wb wc sp s

/-- `GGO` (R126): after the parameter rules it waits for every `GLDC` before it, then checks the bank (R38, R127). -/
def ggoSpec : CmdSpec where
  op := .ggo
  queue := fun _ => 4
  bank := fun _ p => field p[0] 0 2
  rules := fun _ p => ⟨onlyBits p[0] 3, onlyBits p[1] (bitsMask 0 48), p[2] == 0, onlyBits p[3] pscMask⟩
  more := fun p s k =>
    if (queued s 4).any (fun c => c.op == .gldc) then waitOn .external s
    else
      match offending s (field p[0] 0 2) with
      | some n => trap .illegal (offenderAddr n) s
      | none => k s
  enters := fun p s => { s with core.grid.activeBank := field p[0] 0 2 }

def execGgo (sig wa wb wc sp : BitVec 5) (s : State) : Out := issueCommand (wordGgo sig wa wb wc sp) ggoSpec sig wa wb wc sp s

/-! ### The parameters of `GMMA` (R132) -/

def gmmaM (p : Vector DWord 4) : Nat := fieldN p[2] 0 7
def gmmaN (p : Vector DWord 4) : Nat := fieldN p[2] 8 7
def gmmaK (p : Vector DWord 4) : Nat := fieldN p[2] 16 24
def gmmaOff (p : Vector DWord 4) : Nat := fieldN p[3] 0 17
def gmmaFa (p : Vector DWord 4) : Nat := fieldN p[3] 17 3
def gmmaFb (p : Vector DWord 4) : Nat := fieldN p[3] 20 3
def gmmaClr (p : Vector DWord 4) : Bool := p[3].getLsbD 23
def gmmaScl (p : Vector DWord 4) : Bool := p[3].getLsbD 24

/-- The K-block size. -/
def gmmaKb (p : Vector DWord 4) : Nat := if gmmaFa p = 0 then 16 else 32

/-- Pairs of formats that may be mixed. -/
def gmmaPair (fa fb : Nat) : Bool :=
  (fa == 0 && fb == 0) || (fa == 3 && fb == 3) || ((fa == 1 || fa == 2) && (fb == 1 || fb == 2))

/-- `GMMA` (R132). (DEDUCED, log entry 55.) -/
def gmmaSpec : CmdSpec where
  op := .gmma
  queue := fun _ => 4
  rules := fun s p => ⟨poolAddr64 p[0], poolAddr64 p[1],
    onlyBits p[2] (bitsMask 0 7 ||| bitsMask 8 7 ||| bitsMask 16 24) && decide (gmmaM p ≤ 64) && decide (gmmaN p ≤ 64)
      && gmmaK p % gmmaKb p == 0,
    onlyBits p[3] (bitsMask 0 25 ||| pscMask) && gmmaPair (gmmaFa p) (gmmaFb p) && !(gmmaScl p && gmmaFa p == 0)
      && gmmaOff p % 256 == 0 && decide (gmmaOff p + 256 * gmmaM p ≤ acSize s)⟩

def execGmma (sig wa wb wc sp : BitVec 5) (s : State) : Out := issueCommand (wordGmma sig wa wb wc sp) gmmaSpec sig wa wb wc sp s

/-! ## Major 0x54 (R123, R124) -/

/-- `GSEL` (R123): illegal for the active bank. -/
def execGsel (n : BitVec 2) (s : State) : Out :=
  let w := wordGsel n
  gate anywhere w s fun s =>
    if n = s.core.grid.activeBank then illegal w s
    else issue w {} s fun s => .next (retire { s with core.grid.shadowBank := n })

/-- Whether an issued command that names bank `n` keeps `SNEST` waiting (R123). -/
def nestBusy (s : State) (n : BitVec 2) : Bool :=
  (notStarted s 4).any (fun c => c.op == .ggo && c.bank == n)
    || (List.range 4).any (fun q => (notStarted s q).any (fun c => c.op == .srun && c.bank == n))
    || (queued s 4).any (fun c => c.op == .gldc && c.bank == n)

/-- `SNEST` (R123). -/
def execSnest (n : BitVec 2) (a : BitVec 5) (lvl : BitVec 3) (fa : Bool) (s : State) : Out :=
  let w := wordSnest n a lvl fa
  gate anywhere w s fun s =>
    if n = s.core.grid.activeBank ∨ 6 ≤ lvl.toNat then illegal w s
    else issue w ⟨[srcS a fa], []⟩ s fun s =>
      if nestBusy s n then waitOn .external s
      else .next (retire (setBank n (0x800 + 4 * lvl.toNat) (leBytes 4 (lo32 (readS s a)).toNat) s))

/-- Whether a `GGO` or a `GMMA` is in execution, and not a `GLDC`, which no iteration enters. -/
def gridExecuting (s : State) : Bool :=
  match queueHead s 4, execOf s 4 with
  | some c, some x => !x.finished && c.op != .gldc
  | _, _ => false

/-- `GSTOP` on a running `GGO`: no new iteration enters after the step boundary, the iterations inside drain, the read
streams that feed it end and the write streams end with the drained tokens (R124). Before its first step nothing is inside. -/
def stopGrid (g : GridRun) (s : State) : State :=
  let trip := Nat.min g.trip g.st.step
  let last := g.last - (g.trip - trip)
  let s := { s with core.grid.run := some { g with trip := trip, last := last, stopping := true } }
  let s := (List.range 4).foldl (fun s i =>
    match streamOf s i, execOf s i with
    | some r, some x => if !x.finished && !r.write && readsPort s g.bank (if r.column then 10 else 9) then endStream i s else s
    | _, _ => s) s
  if g.st.step ≤ g.first ∨ last < g.st.step then updExec 4 (fun x => { x with finished := true }) s else s

/-- `GSTOP` (R124, R135). A `GMMA` that has not read its descriptors yet ends at its first retire point. -/
def execGstop (s : State) : Out :=
  gate anywhere wordGstop s fun s => issue wordGstop {} s fun s =>
    if !gridExecuting s then .next (retire s)
    else
      match s.core.grid.run, s.core.grid.gmma with
      | some g, _ => .next (retire (stopGrid g s))
      | none, some m => .next (retire { s with core.grid.gmma := some { m with stopping := true } })
      | none, none => .next (retire (updExec 4 (fun x => { x with stopping := true }) s))

/-- Lanes 0 to 7 of a vector register as 32 bytes. -/
def vecToken (v : VReg) : TokenData := BitVec.ofNat 256 (leNat ((vregBytes v).take 32))

/-- `GFEED` (R123). -/
def execGfeed (a : BitVec 5) (fa : Bool) (s : State) : Out :=
  let w := wordGfeed a fa
  gate anywhere w s fun s => issue w ⟨[⟨.v a, fa⟩], []⟩ s fun s =>
    if feedCap s ≤ s.core.grid.feed.length then waitOn .internal s
    else .next (retire { s with core.grid.feed := s.core.grid.feed ++ [vecToken (readV s a)] })

/-- `GPOP` (R123): the register is marked empty; the entry arrives with `ENGINE_STATUS_FILL`. -/
def execGpop (d : BitVec 5) (s : State) : Out :=
  let w := wordGpop d
  gate anywhere w s fun s => issue w ⟨[], [.v d]⟩ s fun s =>
    .next (retire (setVEmpty d true { s with core.mq.gpops := s.core.mq.gpops ++ [d] }))

/-- `PQPOP` (R123). -/
def execPqpop (d : BitVec 3) (s : State) : Out :=
  let w := wordPqpop d
  gate anywhere w s fun s => issue w {} s fun s =>
    match s.core.grid.pq with
    | [] => waitOn .internal s
    | b :: r => .next (retire (settleQueues (writeP d b { s with core.grid.pq := r })))

/-- `GBANK` (R123). -/
def execGbank (d : BitVec 5) (s : State) : Out :=
  let w := wordGbank d
  gate anywhere w s fun s => issue w ⟨[], [.s d]⟩ s fun s =>
    .next (retire (writeS d (s.core.grid.activeBank.setWidth 64 ||| s.core.grid.shadowBank.setWidth 64 <<< 2) s))

/-! ## Tokens (R116) -/

/-- `KWAIT` (R116): the wait is internal (R156). -/
def execKwait (a : BitVec 5) (s : State) : Out :=
  let w := wordKwait a
  gate anywhere w s fun s => issue w {} s fun s =>
    if slotReached s a (slotOf s a).iss then .next (retire s) else waitOn .internal s

/-- `KSTAT` (R116). -/
def execKstat (d a : BitVec 5) (s : State) : Out := statusRead (wordKstat d a) d (.kstat d a) s

/-! ## Buffers (R137-R139) -/

/-- Whether every bank of [a, a+n) is an SP bank. -/
def inSpBanks (s : State) (a n : Nat) : Bool :=
  decide (a + n ≤ Config.poolBytes) && (List.range 64).all (fun b =>
    bankUse s.core.sys.partw b == 1 || decide (2048 * b + 2048 ≤ a) || decide (a + n ≤ 2048 * b))

/-- The checks of `BUFDEF` in their order (R138). -/
def bufdefCheck (s : State) (n : Nat) (base desc : DWord) : Option (Cause × DWord) :=
  let size := fieldN desc 0 17
  let st := fieldN desc 17 2
  if base.toNat / 2 ^ 17 ≠ 0 ∨ base.toNat % 64 ≠ 0 ∨ bankUse s.core.sys.partw (base.toNat / 2048) ≠ 1 then some (.pool, base)
  else if (bufOf s n).declared then some (.buffer, dw n)
  else if size % 64 ≠ 0 ∨ size < 64 ∨ 126976 < size ∨ (st ≠ 0 ∧ st ≠ 2) ∨ fieldN desc 19 45 ≠ 0 then some (.buffer, dw n)
  else if !inSpBanks s base.toNat size then some (.pool, base)
  else if !(buffersAt s base.toNat size).isEmpty then some (.buffer, dw n)
  else none

/-- `BUFDEF` (R138, R165): declared empty its placed bits clear, declared full they are set. -/
def execBufdef (n a b : BitVec 5) (fa fb : Bool) (s : State) : Out :=
  let w := wordBufdef n a b fa fb
  gate anywhere w s fun s => issue w ⟨[srcS a fa, srcS b fb], []⟩ s fun s =>
    match bufdefCheck s n.toNat (readS s a) (readS s b) with
    | some (c, t) => trap c t s
    | none =>
      let full := fieldN (readS s b) 17 2 = 2
      let x : Buffer := ⟨true, (readS s a).toNat, fieldN (readS s b) 0 17, if full then .full else .empty, false, 0, 0⟩
      let s := setBuf n.toNat x s
      .next (retire (if full then setAllPlaced n.toNat s else clearPlaced n.toNat s))

/-- `BUFREL` (R137, R165). -/
def execBufrel (n : BitVec 5) (s : State) : Out :=
  let w := wordBufrel n
  gate anywhere w s fun s => issue w {} s fun s =>
    let b := bufOf s n.toNat
    if b.declared ∧ b.state = .full then
      .next (retire (clearPlaced n.toNat (setBuf n.toNat { b with state := .empty, readers := 0, remoteWriter := false } s)))
    else trap .buffer (n.setWidth 64) s

/-- `BUFREL.free` (R137). -/
def execBufrelFree (n : BitVec 5) (s : State) : Out :=
  let w := wordBufrelFree n
  gate anywhere w s fun s => issue w {} s fun s =>
    let b := bufOf s n.toNat
    if b.declared ∧ (b.state = .full ∨ b.state = .empty) then .next (retire (setBuf n.toNat Buffer.none s))
    else trap .buffer (n.setWidth 64) s

/-- `BUFSTAT` (R139). -/
def execBufstat (d a : BitVec 5) (s : State) : Out := statusRead (wordBufstat d a) d (.bufstat d a) s

/-- The code of a buffer state (R137). -/
def BufState.code : BufState → BitVec 2
  | .empty => 0
  | .filling => 1
  | .full => 2
  | .draining => 3

/-- `BUFWAIT` (R139): the kind of the wait is judged from the buffer's state (R156). -/
def execBufwait (n : BitVec 5) (st : BitVec 2) (s : State) : Out :=
  let w := wordBufwait n st
  gate anywhere w s fun s => issue w {} s fun s =>
    let b := bufOf s n.toNat
    if !b.declared then trap .buffer (n.setWidth 64) s
    else if b.state.code = st then .next (retire s)
    else
      let internal := (b.state == .filling && !b.remoteWriter) || b.state == .draining || st == 0
      waitOn (if internal then .internal else .external) s

end Sys2Proof.Machine
end

