-- ==== Sys2Proof/Machine/GridWork.lean ====
section
/-! DEFINITION. The grid at work: start of `GLDC`, `GGO` and `GMMA`, steps of a configuration, K-blocks and retire points
(R124-R136, R159-R164, R173, R187, R384). -/

namespace Sys2Proof.Machine

/-- A queue's command has done its own work. -/
def finishCmd (q : Nat) (s : State) : State := updExec q (fun x => { x with finished := true }) s

/-! ## `GLDC` (R125) -/

/-- The next 128 bytes of a bank image; a fault stops the queue, an uncorrectable error has aborted the launch.
(DEDUCED, log entry 37.) -/
def gldcPiece (c : Command) (cursor : Nat) (s : State) : State :=
  let a := c.params[0] + dw (128 * cursor)
  let sp : Space := if c.params[3].getLsbD 0 then .global else .pool
  match engineRead 4 sp a 128 s with
  | (s', .ok bs ws) =>
    if !ws.isEmpty then s
    else
    let s' := updExec 4 (fun x => { x with cursor := cursor + 1 }) (setBank c.bank (128 * cursor) bs s')
    if cursor = 63 then finishCmd 4 s' else s'
  | (s', .wait) => s'
  | (s', .fault sub addr _) => engineStop 4 4 sub addr 0 false false s'
  | (s', .error) => updExec 4 (fun x => { x with stopped := true }) s'

/-- Whether an `SRUN` issued before a `GLDC` that names its bank has not started (R125). -/
def gldcHeld (s : State) (c : Command) : Bool :=
  (List.range 4).any (fun q => (notStarted s q).any (fun x => x.op == .srun && x.bank == c.bank && decide (x.id < c.id)))

/-! ## `GGO` (R126) -/

/-- A `GGO` starts: the nest is copied, the grid is set as R160 says. -/
def startGgo (c : Command) (s : State) : State :=
  let trip := tripOf (nestOf s c.bank)
  let first := fieldN c.params[1] 0 48
  if 2 ^ 48 ≤ trip then commandError 4 s
  else if trip = 0 ∨ trip ≤ first then finishCmd 4 s
  else
    { s with core.grid.run := some {
        bank := c.bank, first := first, trip := trip, last := trip + stagesOf s c.bank - 2, rm := field s.core.sys.fpctl 0 3
        fpEpoch := s.core.sys.fpEpoch, flags := 0, st := gridStart s c.bank first
        check := none, checkFlags := 0, window := none, taken := [], pqHeld := [], wrote := false, stopping := false } }

/-- The token that a port of a running `GGO` presents in its next step: none where no cluster reads the port or the step
drains; otherwise the token of the step's number, or a wait. -/
def portToken (s : State) (g : GridRun) (column : Bool) : Option (Option Token) :=
  if g.trip ≤ g.st.step ∨ !readsPort s g.bank (if column then 10 else 9) then some none
  else
    match (portStream s column).bind (fun i => streamOf s i) with
    | some r =>
      match r.ahead with
      | t :: _ => if t.seq = g.st.step then some (some t) else none
      | [] => none
    | none => none

/-- A token is taken from a port (R120). -/
def takeToken (column : Bool) (t : Token) (s : State) : State :=
  match portStream s column with
  | some i =>
    match streamOf s i with
    | some r => countToken i t.seq r (setStream i (some { r with ahead := r.ahead.drop 1 }) s)
    | none => s
  | none => s

/-- The gathered token of a step: its words by lane group (R129). -/
def gather (sinks : List (Nat × GVal)) (seq : Nat) : SinkToken where
  seq := seq
  data := sinks.foldl (fun (d : TokenData) x => d ||| ((x.2.bits.setWidth 256 : TokenData) <<< (32 * x.1))) 0
  rows := sinks.foldl (fun (m : Byte) x => m ||| BitVec.twoPow 8 x.1) 0
  unchecked := sinks.any (fun x => x.2.unchecked)

/-- A grid cut point has been passed with a grid step armed: the grid stops and the step trap is due (R262). -/
def fireGridStep (s : State) : State :=
  if s.core.seq.stepGrid && s.core.seq.mode == .program && !s.core.seq.gridStepFired then
    updExec 4 (fun x => { x with stopped := true }) { s with core.seq.gridStepFired := true }
  else s

/-- Whether the grid command works: started, admitted (R376), not stopped. -/
def gridWorks (s : State) : Bool :=
  match execOf s 4 with
  | some x => !x.finished && !x.stopped && s.core.grid.admitted
  | none => false

/-- The check windows that the tokens at the ports were drawn from. -/
def portWindows (row col : Option Token) : List (Nat × Nat) := (row.toList ++ col.toList).flatMap (fun k => k.windows)

/-- The step of a running `GGO` with the tokens its ports present. While there is a checkpoint, branch-outcome bits are held (DESIGN
CHOICE, log entry 65). -/
def runStep (g : GridRun) (row col : Option Token) (s : State) : State :=
  let t := g.st.step
  let windows := portWindows row col
  let g := match g.window, windows with
    | none, w :: _ => { g with check := some g.st, checkFlags := g.flags, window := some w, taken := [] }
    | _, _ => g
  let o := gridCompute s g.st ⟨g.bank, t, g.first, g.trip, g.rm, row, col⟩
  let tags := o.sinks.map (fun x => x.2.tag.getD t)
  if !tags.all (fun x => x == tags.headD t) then engineStop 4 4 subSequence 0 t false false s
  else
    let seq := tags.headD t
    let keep := !o.sinks.isEmpty && decide (seq < g.trip)
    if o.pq.isSome && decide (pqCap s ≤ pqLoad s) then s
    else
      let s := match row with | some k => takeToken false k s | none => s
      let s := match col with | some k => takeToken true k s | none => s
      let taken := if g.check.isSome then
          g.taken ++ (row.toList.map (fun k => (false, k))) ++ (col.toList.map (fun k => (true, k)))
        else []
      let s := { s with
        core.grid.run := some { g with
          st := o.st, flags := g.flags ||| o.flags, taken := taken
          pqHeld := if g.check.isSome then g.pqHeld ++ o.pq.toList else g.pqHeld }
        core.grid.pq := if g.check.isSome then s.core.grid.pq else s.core.grid.pq ++ o.pq.toList
        core.eng.sinks := if keep then s.core.eng.sinks ++ [gather o.sinks seq] else s.core.eng.sinks }
      fireGridStep (if g.last ≤ t then finishCmd 4 s else s)

/-- `GRID_STEP` (R128): the step runs when every port that is read holds its token, the sinks have room (DESIGN CHOICE, log entry 41), and
no token of a second check window would enter (R164). -/
def execGridStep (s : State) : Out :=
  match s.core.grid.run with
  | none => .next s
  | some g =>
    if !engineLive s || !gridWorks s || !s.core.eng.sinks.isEmpty then .next s
    else
      match portToken s g false, portToken s g true with
      | some row, some col =>
        if (g.window.toList ++ portWindows row col).eraseDups.length ≤ 1 then .next (runStep g row col (restarted 4 s)) else .next s
      | _, _ => .next s

/-! ## `GMMA` (R132-R136, R187) -/

/-- The format number that a descriptor's TD must name for an operand format (R133). -/
def tdOf (fmt : Nat) : Nat := match fmt with | 0 => 1 | 1 => 3 | 2 => 4 | _ => 5

/-- Whether a descriptor may feed a `GMMA` (R118, R133). (DEDUCED, log entry 55.) -/
def gmmaDescLegal (d : List Byte) (fmt : Nat) : Bool :=
  let sc := descField d 0x30 4
  let td := descField d 0x2C 4
  streamDescLegal d && sc % 2 == 0 && decide (sc / 2 % 4 < 3) && descField d 0x0C 20 == 0
    && decide (td < 128) && td % 16 == tdOf fmt && decide (td / 16 % 4 < 3) && (fmt != 0 || td / 16 % 4 == 0)
    && (td / 64 == 0 || fmt == 3)

/-- Bytes of one row of a K-block. -/
def blockBytes (fmt : Nat) : Nat := if fmt = 3 then 16 else 32

/-- Element `k` of the bytes of a row of a K-block, as a code. -/
def blockCode (fmt : Nat) (bs : List Byte) (k : Nat) : Nat :=
  match fmt with
  | 0 => leNat ((bs.drop (2 * k)).take 2)
  | 3 => (bs.getD (k / 2) 0).toNat / 16 ^ (k % 2) % 16
  | _ => (bs.getD k 0).toNat

/-- The format of an operand under the reading of its TD. -/
def operandFmt (fmt rd : Nat) : Fmt :=
  if fmt = 0 then bf16 else narrowFmt (BitVec.ofNat 2 (fmt - 1)) (readingOf (BitVec.ofNat 2 rd))

/-- A BF16 element converted to E4M3 under a cap (R384): finite-only, RNE, saturating, with the flags of the conversion (R103).
(DEDUCED, log entry 35.) -/
def narrowed (v : FVal) : FVal × Flags :=
  let x := (e4m3 .finite).narrow true .rne v
  ((e4m3 .finite).value x.1, x.2)

/-- What one row of an operand reads as in a K-block: its elements, its scale byte, its check windows, the flags of its conversions; or why
not. -/
inductive RowRes where
  | ok (xs : List FVal) (scale : Byte) (windows : List (Nat × Nat)) (flags : Flags)
  | stop (r : EngRes)

/-- Row `m` (of B: column `m`) of K-block `j` (R133). The special byte is read even where the scale is not used. A row of BF16 elements at
an odd address is a fault on the access (R378; DEDUCED, log entry 55). -/
def operandRow (fmt kb : Nat) (d : List Byte) (scl narrow : Bool) (j m : Nat) (s : State) : State × RowRes :=
  let td := descField d 0x2C 4
  let spc := td / 64 % 2 = 1
  let sp := spaceOf (descField d 0x30 4)
  let str := (BitVec.ofNat 32 (descField d 8 4)).signExtend 64
  let sstr := (BitVec.ofNat 32 (descField d 0x28 4)).signExtend 64
  let w := if spc then 2 else 1
  let at_ := dw (descField d 0 8) + dw m * str + dw (j * blockBytes fmt)
  if fmt = 0 ∧ at_.getLsbD 0 then (s, .stop (.fault subMemory at_.toNat false))
  else
  match engineRead 4 sp at_ (blockBytes fmt) s with
  | (s, .ok bs ws) =>
    let entry : State × EngRes :=
      if scl ∨ spc then engineRead 4 sp (dw (descField d 0x20 8) + dw m * sstr + dw (j * w)) w s else (s, .ok [] [])
    match entry with
    | (s, .ok es ws') =>
      let scale : Byte := if scl then es.getD 0 0 else 127
      let special := if spc then some (es.getD 1 0) else none
      let f := operandFmt fmt (td / 16 % 4)
      let val := fun (c : Nat) =>
        let v := blockValue f (fmt == 3) (if scale = 0xFF then 0xFF else 127) special c
        if narrow then narrowed v else (v, 0)
      let xs := (List.range kb).map (fun k => val (blockCode fmt bs k))
      (s, .ok (xs.map (fun x => x.1)) (if scale = 0xFF then 127 else scale) (ws ++ ws') (xs.foldl (fun f x => f ||| x.2) 0))
    | (s, r) => (s, .stop r)
  | (s, r) => (s, .stop r)

/-- What an operand reads as in a K-block: its rows with their scale bytes, the check windows they were drawn from, and the flags of
their conversions. -/
structure OperandBlock where
  rows : List (List FVal × Byte)
  windows : List (Nat × Nat)
  flags : Flags

/-- The rows 0 to n-1 of an operand, in order; the first that cannot be read ends it. -/
def operandRows (fmt kb : Nat) (d : List Byte) (scl narrow : Bool) (j : Nat) :
    List Nat → State → OperandBlock → State × (EngRes ⊕ OperandBlock)
  | [], s, b => (s, .inr { b with rows := b.rows.reverse })
  | m :: r, s, b =>
    match operandRow fmt kb d scl narrow j m s with
    | (s', .ok xs sc w fl) =>
      operandRows fmt kb d scl narrow j r s' { rows := (xs, sc) :: b.rows, windows := w ++ b.windows, flags := b.flags ||| fl }
    | (s', .stop e) => (s', .inl e)

/-- The partial of a block and its accumulation (R187). -/
def accumulate (scl : Bool) (acc : Word) (a b : List FVal × Byte) : Word × Flags :=
  let prods := (a.1.zip b.1).map (fun x => x.1.mul x.2)
  let sum := exactSum (prods.map (fun x => x.1))
  let p := f32Result .rne (sum.1, prods.foldl (fun f x => f ||| x.2) sum.2)
  let e : Int := if scl then (a.2.toNat : Int) + b.2.toNat - 254 else 0
  let r := f32Result .rne ((valF32 acc).add .rne ((valF32 p.1).scale e))
  (r.1, p.2 ||| r.2)

/-- The AC address of element (m, n) of the tile. -/
def tileAddr (s : State) (p : Vector DWord 4) (m n : Nat) : Nat := acBase s + gmmaOff p + 256 * m + 4 * n

/-- The accumulators as a start or a resume loads them (R134, R135). -/
def loadTile (p : Vector DWord 4) (s : State) : List Word :=
  (List.range (gmmaM p)).flatMap (fun m => (List.range (gmmaN p)).map (fun n =>
    if gmmaClr p && !srpV s 0 then 0 else BitVec.ofNat 32 (leNat (poolRead s (tileAddr s p m n) 4))))

/-- The accumulators written to AC. -/
def writeTile (p : Vector DWord 4) (acc : List Word) (s : State) : State :=
  (List.range (gmmaM p)).foldl (fun s m => (List.range (gmmaN p)).foldl (fun s n =>
    poolWrite (tileAddr s p m n) (leBytes 4 (acc.getD (m * gmmaN p + n) 0).toNat) s) s) s

/-- A `GMMA` starts (R133, R134, R384). Its descriptors are read as those of `SRUN` are (DEDUCED, log entry 68). -/
def startGmma (c : Command) (s : State) : State :=
  let p := c.params
  if gmmaM p = 0 ∨ gmmaN p = 0 then finishCmd 4 s
  else
    let fail := fun (r : EngRes) (s : State) => match r with
      | .fault sub a t => engineStop 4 4 sub a 0 false t s
      | .error => updExec 4 (fun x => { x with stopped := true }) s
      | .ok _ _ | .wait => s
    match checkedRead 4 p[0].toNat 64 s with
    | (s, .ok a _) =>
     match checkedRead 4 p[1].toNat 64 s with
     | (s, .ok b _) =>
      if !gmmaDescLegal a (gmmaFa p) || !gmmaDescLegal b (gmmaFb p) then commandError 4 s
      else
        let s := setSrp 1 0 false (setSrp 0 0 false s)
        if gmmaK p = 0 then
          finishCmd 4 (if gmmaClr p then writeTile p (loadTile p s) s else s)
        else
          let narrow := (ownLaunch s).narrow && gmmaFa p == 0
            && (vgetD s.power (coreRegion s.core.id) PowerRegion.start).nsub
          let stopping := ((execOf s 4).map (fun x => x.stopping)).getD false
          { s with core.grid.gmma := some ⟨a, b, loadTile p s, 0, 0, 0, [], stopping, narrow⟩ }
     | (s, r) => fail r s
    | (s, r) => fail r s

/-- The K-block after the last retired one. -/
def retired (s : State) : Nat := if srpV s 0 then srpSeq s 0 + 1 else 0

/-- The work since the last retire is discarded; the command goes on from it with the tile reloaded (R135). -/
def resetGmma (c : Command) (g : GmmaRun) (s : State) : State :=
  { s with core.grid.gmma := some { g with acc := loadTile c.params s, nextBlock := retired s, flagsNew := 0, windows := [] } }

/-- Number of K-blocks. -/
def gmmaBlocks (p : Vector DWord 4) : Nat := gmmaK p / gmmaKb p

/-- Whether blocks that have been computed await their retire (R134). -/
def retireDue (p : Vector DWord 4) (g : GmmaRun) (s : State) : Bool :=
  decide (retired s < g.nextBlock) && (g.nextBlock % 32 == 0 || g.nextBlock == gmmaBlocks p)

/-- `Retire` (R134, R173): AC first, then `SRP0` and `SRP1`; the command ends with its last block, or at a `GSTOP`. -/
def retireTile (p : Vector DWord 4) (g : GmmaRun) (s : State) : State :=
  let j := g.nextBlock - 1
  let s := setSrp 1 j true (setSrp 0 j true (writeTile p g.acc s))
  let s := { s with core.grid.gmma := some { g with flags := g.flags ||| g.flagsNew, flagsNew := 0 } }
  fireGridStep (if g.nextBlock = gmmaBlocks p ∨ g.stopping then finishCmd 4 s else s)

/-- Reloaded after a fault, a `GMMA` is charged again (R376). -/
def gmmaFault (c : Command) (g : GmmaRun) (port : Nat) (r : EngRes) (s : State) : State :=
  match r with
  | .fault sub addr t =>
    engineStop 4 port sub addr g.nextBlock false t { resetGmma c g s with core.grid.admitted := false, core.grid.readyAt := none }
  | .error => updExec 4 (fun x => { x with stopped := true }) s
  | .ok _ _ | .wait => s

/-- The next K-block, unless a row-progress register that a handler wrote leaves none: its operands read, its partials accumulated; then
the retire where one is due and its windows have passed (R164). -/
def gmmaBlock (c : Command) (g : GmmaRun) (s : State) : State :=
  let p := c.params
  if gmmaBlocks p ≤ g.nextBlock then finishCmd 4 s
  else
  match operandRows (gmmaFa p) (gmmaKb p) g.descA (gmmaScl p) g.narrow g.nextBlock (List.range (gmmaM p)) s ⟨[], [], 0⟩ with
  | (s', .inl r) => gmmaFault c g 0 r s'
  | (s', .inr a) =>
    match operandRows (gmmaFb p) (gmmaKb p) g.descB (gmmaScl p) g.narrow g.nextBlock (List.range (gmmaN p)) s' ⟨[], [], 0⟩ with
    | (s'', .inl r) => gmmaFault c g 1 r s''
    | (s'', .inr b) =>
      let cells := (List.range (gmmaM p * gmmaN p)).map (fun i =>
        accumulate (gmmaScl p) (g.acc.getD i 0) (a.rows.getD (i / gmmaN p) ([], 127)) (b.rows.getD (i % gmmaN p) ([], 127)))
      let g' := { g with
        acc := cells.map (fun x => x.1), nextBlock := g.nextBlock + 1
        flagsNew := cells.foldl (fun f x => f ||| x.2) (g.flagsNew ||| a.flags ||| b.flags)
        windows := a.windows ++ b.windows ++ g.windows }
      let s := { s'' with core.grid.gmma := some g' }
      if retireDue p g' s && g'.windows.isEmpty then retireTile p g' s else s

/-- Whether a save of the core is under way. -/
def isSaving (s : State) : Bool :=
  match s.core.seq.run with
  | .saving _ => true
  | _ => false

/-- `GMMA_KBLOCK` (R134): a retire that is due waits for the check windows before it. During a save the command goes on to
its next retire point and no farther (R135). -/
def execGmmaKblock (s : State) : Out :=
  match s.core.grid.gmma, queueHead s 4 with
  | some g, some c =>
    if !(engineLive s || isSaving s) || !gridWorks s then .next s
    else if retireDue c.params g s then .next (if g.windows.isEmpty then retireTile c.params g s else s)
    else if isSaving s && g.nextBlock == retired s then .next s
    else .next (gmmaBlock c g (restarted 4 s))
  | _, _ => .next s

/-- `GMMA_PREEMPT_CUT` (R135): no retire point was reached in 4,160 cy, so the work since the last one is discarded. -/
def execGmmaPreemptCut (s : State) : Out :=
  match s.core.grid.gmma, queueHead s 4 with
  | some g, some c => if isSaving s then .next (resetGmma c g s) else .next s
  | _, _ => .next s

/-! ## Completion of a grid command (R114, R131, R160) -/

/-- A finished `GGO` gives its RSR states back unless `FPCTL` has been written since, and its flags (R131). -/
def endGrid (s : State) : State :=
  let s := match s.core.grid.run with
    | some g => raiseFlags g.flags
        (if g.fpEpoch = s.core.sys.fpEpoch then { s with core.sys.clusterRsr := g.st.rsr } else s)
    | none => s
  let s := match s.core.grid.gmma with
    | some g => raiseFlags g.flags s
    | none => s
  { s with core.grid.run := none, core.grid.gmma := none, core.grid.admitted := false, core.grid.readyAt := none }

/-- Steps charged for a grid command, in units of 0.125 A (R376). -/
def gridCharge (c : Command) : Nat :=
  let cost := fun (f : Nat) => if f = 0 then 8 else if f = 3 then 12 else 10
  match c.op with
  | .gmma => Nat.max (cost (gmmaFa c.params)) (cost (gmmaFb c.params))
  | _ => 4

/-! ## Check windows and the grid (R163, R164) -/

/-- A check window has passed: tokens and values drawn from it are checked, a checkpoint is released, and the branch-outcome bits
held since enter their queue. -/
def windowPassed (w : Nat × Nat) (s : State) : State :=
  let clear := fun (t : Token) => { t with windows := t.windows.filter (fun x => x != w) }
  let s := { s with
    core.eng.streams := s.core.eng.streams.map (fun (r : Option StreamRun) => r.map (fun (x : StreamRun) => { x with ahead := x.ahead.map clear }))
    core.grid.gmma := s.core.grid.gmma.map (fun (g : GmmaRun) => { g with windows := g.windows.filter (fun x => x != w) }) }
  match s.core.grid.run with
  | some g =>
    if g.window = some w then
      { s with
        core.grid.run := some { g with st := g.st.checked, check := none, window := none, taken := [], pqHeld := [] }
        core.grid.pq := s.core.grid.pq ++ g.pqHeld
        core.eng.sinks := s.core.eng.sinks.map (fun (k : SinkToken) => { k with unchecked := false }) }
    else s
  | none => s

/-- A stream goes back so that the token of a sequence number is the next it delivers; tokens of a feed-queue stream that
were taken since are put back. -/
def rewindTo (se seq : Nat) (taken : List Token) (s : State) : State :=
  match streamOf s se with
  | some r =>
    let s := if r.space = .queue then
        setStream se (some { r with ahead := taken ++ r.ahead }) s
      else setStream se (some { r with ahead := [], nextRead := Nat.max r.first (Nat.min seq r.nextRead) }) s
    let s := if r.first < seq then setSrp se (seq - 1) true s else setSrp se 0 false s
    updExec se (fun x => { x with finished := false }) s
  | none => s

/-- A check window has failed: a grid that took its tokens returns to its checkpoint with the streams that feed it, a
`GMMA` to its last retire point, and tokens read ahead from it on are read again (R163, R164). An emptied branch-outcome queue returns its
grants (R170). -/
def windowFailed (w : Nat × Nat) (s : State) : State :=
  let s := (List.range 4).foldl (fun s i => match streamOf s i with
    | some r => if r.ahead.any (fun t => t.windows.contains w) then rewindWindow w i s else s
    | none => s) s
  let s := match s.core.grid.gmma, queueHead s 4 with
    | some g, some c =>
      if g.windows.contains w then { resetGmma c g s with core.grid.admitted := false, core.grid.readyAt := none } else s
    | _, _ => s
  match s.core.grid.run with
  | some g =>
    match g.check with
    | some st =>
      if g.window = some w then
        let back := fun (column : Bool) (s : State) =>
          match (List.range 4).find? (fun i => match streamOf s i with
              | some r => (execOf s i).isSome && !r.write && r.column == column && readsPort s g.bank (if column then 10 else 9)
              | none => false) with
          | some i => rewindTo i st.step ((g.taken.filter (fun x => x.1 == column)).map (fun x => x.2)) s
          | none => s
        let s := back true (back false s)
        updExec 4 (fun x => { x with finished := false }) (settleQueues { s with
          core.grid.run := some { g with st := st, flags := g.checkFlags, check := none, window := none, taken := [], pqHeld := [] }
          core.eng.sinks := s.core.eng.sinks.filter (fun k => !k.unchecked) })
      else s
    | none => s
  | none => s

/-! ## Engines that go on (R117, R121, R135, R163) -/

/-- A stopped engine goes on at its cursor: a stream by its `SRP` register, a `GMMA` from `SRP0` with its tile reloaded, a `GGO` at its
step, the copy at its piece. -/
def resumeEngine (q : Nat) (s : State) : State :=
  let s := updExec q (fun r => { r with stopped := false, pager := none }) s
  if q < 4 then resumeStream q s
  else if q = 4 then
    match s.core.grid.gmma, queueHead s 4 with
    | some g, some c => resetGmma c g s
    | _, _ => s
  else s

end Sys2Proof.Machine
end

