-- ==== Sys2Proof/Machine/MeshOps.lean ====
section
/-! DEFINITION. The mesh of a package: places of dies and routers (R229), links and their power (R354), packets entering a
port (R339-R341), and the core that holds an ordinal (R140, R141). -/

namespace Sys2Proof.Machine

/-! ## Places (R229, R339) -/

/-- Site of a die of the panel, column and row: compute chiplets 0-63, home dies 64-127. -/
def siteOf (die : Nat) : Nat × Nat :=
  let i := die % 64
  let f := i / 8
  let j := i % 8
  let y := j / 2
  let x := if die < 64 then 2 * (j % 2) + y % 2 else 2 * (j % 2) + 1 - y % 2
  (4 * (f % 4) + x, 4 * (f / 4) + y)

/-- A router from its column and row. -/
def routerAt (col row : Nat) : Router := BitVec.ofNat 7 row ++ BitVec.ofNat 8 col

def routerCol (r : Router) : Nat := r.toNat % 256
def routerRow (r : Router) : Nat := r.toNat / 256

/-- The router of a core. -/
def routerOf (id : CoreId) : Router :=
  let s := siteOf (coreChip id).toNat
  routerAt (16 * s.1 + (coreCol id).toNat) (16 * s.2 + (coreRow id).toNat)

/-- The die whose array holds a router. -/
def routerDie (r : Router) : Option Nat :=
  (List.range 128).find? (fun d => siteOf d == (routerCol r / 16, routerRow r / 16))

/-- The router beside another in a direction (R343): 1 north, 2 east, 3 south, 4 west. -/
def routerStep (r : Router) (d : Dir) : Router :=
  match d.toNat with
  | 1 => routerAt (routerCol r) (routerRow r - 1)
  | 2 => routerAt (routerCol r + 1) (routerRow r)
  | 3 => routerAt (routerCol r) (routerRow r + 1)
  | 4 => routerAt (routerCol r - 1) (routerRow r)
  | _ => r

/-- The input of the next router that an output leads to. -/
def inputOf (d : Dir) : Dir := match d.toNat with | 1 => 3 | 2 => 4 | 3 => 1 | 4 => 2 | _ => 0

/-- The output towards a destination, along X first or along Y first; local where the place is reached (R340, R348). -/
def routeDir (yFirst : Bool) (at_ dest : Router) : Dir :=
  let x : Dir := if routerCol at_ < routerCol dest then 2 else if routerCol dest < routerCol at_ then 4 else 0
  let y : Dir := if routerRow at_ < routerRow dest then 3 else if routerRow dest < routerRow at_ then 1 else 0
  if yFirst then (if y = 0 then x else y) else (if x = 0 then y else x)

/-- The X-then-Y path between two routers: every output on the way. -/
def routePath : Nat → Router → Router → List (Router × Dir)
  | 0, _, _ => []
  | n + 1, a, b => let d := routeDir false a b; if d = 0 then [] else (a, d) :: routePath n (routerStep a d) b

/-! ## Links (R343, R354) -/

/-- The number of the mesh link at an output of a router; planes 0 packet, 1 circuit. Both directions are one link. -/
def meshLink (plane : Nat) (pkg : BitVec 7) (r : Router) (d : Dir) : Nat :=
  let x := match d.toNat with
    | 1 => ((routerStep r 1).toNat, 1)
    | 4 => ((routerStep r 4).toNat, 0)
    | 3 => (r.toNat, 1)
    | _ => (r.toNat, 0)
  ((plane * 128 + pkg.toNat) * 32768 + x.1) * 2 + x.2

/-- Plane and package of a mesh link. -/
def linkPlane (l : Nat) : Nat := l / 2 ^ 23
def linkPkg (l : Nat) : BitVec 7 := BitVec.ofNat 7 (l / 65536 % 128)

/-- Whether a link is one of the rings. -/
def isRingLink (l : Nat) : Bool := decide (2 ^ 40 ≤ l)

/-- The two dies that a mesh link joins. -/
def linkDies (l : Nat) : List Nat :=
  let r : Router := BitVec.ofNat 15 (l / 2)
  ([r, if l % 2 = 1 then routerStep r 3 else routerStep r 2]).filterMap routerDie

/-- Whether a mesh link has failed, or ends at a die that is fenced or lost, whose links are held in reset (R328, R353, R370). -/
def linkFailed (s : State) (l : Nat) : Bool :=
  (linkRec s l).failed
    || (!s.health.lostDies.isEmpty && (linkDies l).any (fun d => s.health.lostDies.contains (linkPkg l, BitVec.ofNat 7 d)))

/-- Whether a link is at its full width: every lane, or those that its last retrain has trained (R353). (DEDUCED, log entry 47.) -/
def atWidth (r : LinkRec) : Bool := r.power == .full || (r.narrowed && r.power == .narrow)

/-- A link starts back to full width, unless it is there or has failed. -/
def wakeLink (l : Nat) (s : State) : State :=
  let r := linkRec s l
  if atWidth r ∨ r.failed ∨ s.net.waking.contains l then s else { s with net.waking := s.net.waking ++ [l] }

/-- Traffic passes a link now. -/
def linkTraffic (l : Nat) (s : State) : State := setLink { linkRec s l with lastTraffic := s.now } s

/-- The links of both planes on the path from the modelled core to another (R272). -/
def wakePath (s : State) (dst : CoreId) : List Nat :=
  (routePath 400 (routerOf s.core.id) (routerOf dst)).flatMap
    (fun x => [meshLink 0 (corePkg s.core.id) x.1 x.2, meshLink 1 (corePkg s.core.id) x.1 x.2])

/-! ## Who holds an ordinal (R140, R141, R143) -/

/-- What is found at the core that holds an ordinal of a launch. -/
inductive Holder where
  /-- The modelled core, at work. -/
  | own
  /-- The modelled core, frozen by a debug halt. -/
  | frozen
  /-- Another core, at work. -/
  | other (id : CoreId)
  /-- Saved, or bound and not started: an access waits. -/
  | away
  /-- No core of the launch holds it any more. -/
  | gone
  deriving DecidableEq, Repr

def holderOf (s : State) (launch : Nat) (sec : Bool) (ord : BitVec 24) : Holder :=
  let mine := decide (s.core.launch = launch) && s.core.sec == sec && s.core.ord == ord && s.core.seq.run != .unbound
  if mine then
    match s.core.seq.run with
    | .running | .overlay _ | .exited => .own
    | .halted _ => .frozen
    | .bound | .saving _ | .saved => .away
    | .unbound | .done | .stopped => .gone
  else
    match (launchOf s launch).members.find? (fun m => m.sec == sec && m.ord == ord) with
    | some m =>
      match m.state with
      | .assigned | .loaded | .saved => .away
      | .running | .exited => .other m.place
      | .stopped | .done => .gone
    | none => .gone

/-- The core an ordinal of the modelled core's launch is on, or was last. -/
def ordPlace (s : State) (ord : BitVec 24) : CoreId :=
  if ord = s.core.ord then s.core.id
  else
    match (ownLaunch s).members.find? (fun m => m.sec == s.core.sec && m.ord == ord) with
    | some m => m.place
    | none => s.core.id

/-- A free answer of an agent the model does not hold, below `n`; 0 stands for success. (DESIGN CHOICE, log entry 13.) -/
def freeAnswer (n : Nat) (s : State) : State × Nat := ({ s with fresh := s.fresh + 1 }, Config.otherAnswer s.fresh % n)

/-- Free bytes that such an agent answers with. (DESIGN CHOICE, log entry 13.) -/
def freeBytes (n : Nat) (s : State) : State × List Byte :=
  ({ s with fresh := s.fresh + n },
   (List.range n).map (fun i => (Config.freeWord (s.fresh + i)).setWidth 8))

/-! ## Packets (R339-R341) -/

/-- Flits of a packet of `n` data bytes. -/
def flitCount (n : Nat) : Nat := if n ≤ 96 then 1 else 1 + (n - 96 + 127) / 128

/-- The class of a kind of packet. -/
def kindClass (kind : Nat) : BitVec 2 :=
  match kind with
  | 0 => 0
  | 1 => 1
  | 2 | 3 | 4 => 2
  | _ => 3

/-- Bytes 0x00 to 0x1F of a packet's header flit (R341). -/
def headerBytes (p : Packet) : List Byte :=
  leBytes 4 (p.kind.toNat + p.cls.toNat * 16 + p.dest.toNat * 256) ++ leBytes 4 (p.label.toNat + p.data.length * 65536)
    ++ leBytes 4 p.ofs.toNat ++ leBytes 4 p.aux.toNat ++ leBytes 16 p.src.toNat

/-- The 128 bytes of flit `i` of a packet: header and data, then data (R339). -/
def flitBytes (p : Packet) (i : Nat) : List Byte :=
  let bs := headerBytes p ++ p.data
  leBytes 128 (leNat ((bs.drop (128 * i)).take 128))

/-- CRC-32C, one byte into the register: reflected polynomial 0x1EDC6F41. (PRESUMED, log entry 72.) -/
def crc32cByte (crc : Word) (b : Byte) : Word :=
  (List.range 8).foldl (fun (x : Word) _ => if x.getLsbD 0 then (x >>> 1) ^^^ 0x82F63B78 else x >>> 1) (crc ^^^ b.setWidth 32)

def crc32c (bs : List Byte) : Word := ~~~ (bs.foldl crc32cByte (BitVec.allOnes 32))

/-- A packet handed to its source port; it leaves flit by flit. -/
def sendPacket (p : Packet) (s : State) : State :=
  { s with net.packets := s.net.packets ++ [{ p with id := s.net.nextPkt, sent := 0, ejected := 0, answered := false }]
           net.nextPkt := s.net.nextPkt + 1 }

/-- A control packet from one core to another (kinds 5 to 8), about a command or a circuit. -/
def controlPacket (kind : BitVec 4) (pkg : BitVec 7) (src dst : CoreId) (label : BitVec 16) (ofs aux : Word) (cmd : Nat)
    (result : BitVec 2) : Packet where
  id := 0
  pkg := pkg
  kind := kind
  cls := 3
  dest := routerOf dst
  src := routerOf src
  label := label
  ofs := ofs
  aux := aux
  data := []
  sender := src
  receiver := dst
  launch := 0
  sec := false
  ord := 0
  cmd := cmd
  sent := 0
  ejected := 0
  answered := false
  retryAt := 0
  result := result

/-- Whether every flit of a packet has been ejected at its destination. -/
def arrived (p : Packet) : Bool := decide (flitCount p.data.length ≤ p.ejected)

/-- A packet by its number. -/
def packetOf (s : State) (id : Nat) : Option Packet := s.net.packets.find? (fun p => p.id == id)

/-- Bytes that an entry of the holding buffer takes. -/
def heldSize (s : State) (h : Held) : Nat :=
  match h with
  | .packet id => match packetOf s id with | some p => p.data.length | none => 0
  | .beat b => if b.check.isSome then 8 else b.data.length

/-- Whether the holding buffer of a debug halt takes one more: 8 KiB. -/
def holdingRoom (s : State) (h : Held) : Bool :=
  decide (s.core.port.holding.foldl (fun n x => n + heldSize s x) (heldSize s h) ≤ 8192)

def holdData (h : Held) (s : State) : State := { s with core.port.holding := s.core.port.holding ++ [h] }

/-- Whether a packet is the next that its destination's port takes: it has arrived, it neither waits for its sender nor stands in a holding
buffer, and no packet of the same class from the same port is before it (R331, R340). -/
def nextArrived (s : State) (p : Packet) : Bool :=
  let open_ := fun (q : Packet) => arrived q && !q.answered && !s.core.port.holding.contains (.packet q.id)
  ((s.net.packets.find? (fun q => q.pkg == p.pkg && q.src == p.src && q.dest == p.dest && q.cls == p.cls && open_ q)).map
    (fun q => q.id)) == some p.id

/-- Which of its flits a packet sends next. -/
def newFlit (p : Packet) : Flit := ⟨p.id, p.sent, p.src, 0, p.cls, 0, crc32c (flitBytes p p.sent)⟩

/-- The direction of a link in which an output sends, and its record changed. -/
def linkWay (r : LinkRec) (d : Dir) : LinkDir := if d.toNat = 2 ∨ d.toNat = 3 then r.fwd else r.back
def setWay (d : Dir) (w : LinkDir) (r : LinkRec) : LinkRec := if d.toNat = 2 ∨ d.toNat = 3 then { r with fwd := w } else { r with back := w }

/-- A flit is sent on a link: it takes the direction's next sequence number, and the sender keeps a copy (R339, R342). -/
def sendFlit (l : Nat) (d : Dir) (f : Flit) (s : State) : State :=
  let r := linkRec s l
  let w := linkWay r d
  let f := { f with seq := w.next }
  setLink (setWay d { w with next := w.next + 1, replay := f :: w.replay.take 63, wire := w.wire ++ [f] } { r with lastTraffic := s.now }) s

/-- What a direction sends again: the kept flits from the one that the receiving end expects (R342, R352). -/
def resendFrom (w : LinkDir) : LinkDir := { w with wire := w.replay.reverse.dropWhile (fun f => f.seq != w.expect) }

/-- The oldest flit under way is discarded with every later one, and the sender goes back to the flit that the NAK names (R342). -/
def nakFlit (l : Nat) (d : Dir) (s : State) : State :=
  let r := linkRec s l
  setLink (setWay d (resendFrom (linkWay r d)) { r with fails := r.fails + 1 }) s

/-- A retrained link sends again from its oldest unacknowledged flit, in both directions (R352). -/
def replayLink (r : LinkRec) : LinkRec := { r with fwd := resendFrom r.fwd, back := resendFrom r.back }

/-- Whether a link has nothing to carry. -/
def linkEmpty (r : LinkRec) : Bool := r.fwd.wire.isEmpty && r.back.wire.isEmpty && r.openFrame.isEmpty

/-- A packet leaves the list. -/
def dropPacket (id : Nat) (s : State) : State :=
  { s with net.packets := s.net.packets.filter (fun p => p.id != id), net.flits := s.net.flits.filter (fun f => f.pkt != id) }

def updPacket (id : Nat) (f : Packet → Packet) (s : State) : State :=
  { s with net.packets := s.net.packets.map (fun p => if p.id = id then f p else p) }

end Sys2Proof.Machine
end

