-- ==== Sys2Proof/Machine/CircuitOps.lean ====
section
/-! DEFINITION. Circuits as their two ports see them (R273-R277, R343-R351): handles, meter entries, windows at the
receiver, cuts and releases. -/

namespace Sys2Proof.Machine

/-! ## Handles and labels -/

def handleOf (s : State) (h : BitVec 3) : Handle := vget (w := 3) s.core.port.handles h

def setHandle (h : BitVec 3) (x : Handle) (s : State) : State :=
  { s with core.port.handles := vset (w := 3) s.core.port.handles h x }

/-- The buffer a label is bound to for receiving at the modelled core. -/
def recvBuffer (s : State) (label : BitVec 16) : Option (BitVec 5) :=
  (s.core.port.recvLabels.find? (fun x => x.1 == label)).map (fun x => x.2)

/-- The circuit of a handle or slot of the modelled core. -/
def ownCircuit (s : State) (h : BitVec 3) : Option Circuit :=
  s.net.circuits.find? (fun c => c.sender == s.core.id && c.slot == h && !c.releasing)

def updCircuit (id : Nat) (f : Circuit → Circuit) (s : State) : State :=
  { s with net.circuits := s.net.circuits.map (fun c => if c.id = id then f c else c) }

def circuitOf (s : State) (id : Nat) : Option Circuit := s.net.circuits.find? (fun c => c.id == id)

/-- Meter entries changed. -/
def updMeters (p : Meter → Bool) (f : Meter → Meter) (s : State) : State :=
  { s with core.port.meters := s.core.port.meters.map (fun m => if p m then f m else m) }

/-- The power region record `r`. -/
def regionRec (s : State) (r : Nat) : PowerRegion := vgetD s.power r PowerRegion.start

/-- Nanoseconds of `n` cycles of the modelled core's region (R4, R377, R381): 2, 1.75, 1.5, 1 GHz, halved by a stretch. -/
def cyToNs (n : Nat) (s : State) : Nat :=
  let p := regionRec s (coreRegion s.core.id)
  let x := match p.step.toNat with
    | 0 => n / 2
    | 1 => 4 * n / 7
    | 2 => 2 * n / 3
    | _ => n
  if p.str then 2 * x else x

/-- The meter interval (R335). -/
def meterInterval (s : State) : DWord := dw (cyToNs 4096 s)

/-- The end of the interval that an entry is in now: whole intervals after the one it holds (R335). -/
def currentEnd (m : Meter) (s : State) : DWord :=
  if s.now.toNat < m.intervalEnd.toNat then m.intervalEnd
  else m.intervalEnd + meterInterval s * dw ((s.now.toNat - m.intervalEnd.toNat) / (meterInterval s).toNat + 1)

/-- The entry that owns a promoted circuit's slot gives it up, its count restarting in the interval it is in (R350). -/
def freeMeterSlot (h : BitVec 3) (s : State) : State :=
  updMeters (fun m => m.slot == some h)
    (fun m => { m with slot := none, clasped := false, tripped := false, count := 0, intervalEnd := currentEnd m s }) s

/-- The command of the copy queue, when it is a `CSTREAM` on a handle. -/
def streamsOn (h : BitVec 3) (c : Command) : Bool := c.op == .cstream && field c.params[1] 0 3 == h

/-! ## Windows at the modelled receiver (R345) -/

def updWindow (circuit start : Nat) (f : RxWindow → RxWindow) (s : State) : State :=
  { s with net.rx := s.net.rx.map (fun w => if w.circuit = circuit ∧ w.start = start then f w else w) }

/-- The outstanding checks of the buffer bound to a label change. -/
def changeChk (label : BitVec 16) (f : Nat → Nat) (s : State) : State :=
  match recvBuffer s label with
  | some n => let b := bufOf s n.toNat; setBuf n.toNat { b with chk := f b.chk } s
  | none => s

/-- The words of a window are discarded, to be sent again: their placed bits clear, and engines that drew from it go back. Its check
stays outstanding (R336, R345). -/
def failWindow (w : RxWindow) (s : State) : State :=
  let keep := fun (a : Nat) => !w.placed.contains a
  windowFailed (w.circuit, w.start) (updWindow w.circuit w.start (fun w => { w with placed := [], data := [], refused := false }) { s with
    core.pool.placed := s.core.pool.placed.filter keep
    core.pool.unchecked := s.core.pool.unchecked.filter keep })

/-- A window is given up: its words are discarded, and no check of it is outstanding any more (R345, R351). -/
def dropWindow (w : RxWindow) (s : State) : State :=
  let s := failWindow w s
  let s := { s with net.rx := s.net.rx.filter (fun x => !(x.circuit == w.circuit && x.start == w.start)) }
  if w.counted then changeChk w.label (fun n => n - 1) s else s

/-- Windows of a circuit at the modelled receiver when the circuit goes: an incomplete one is discarded; one that has passed
is remembered only where its acknowledgement has not reached the sender (R351). -/
def endWindows (c : Circuit) (s : State) : State :=
  let mine := s.net.rx.filter (fun w => w.circuit == c.id)
  let unacked := fun (w : RxWindow) => c.tx.any (fun t => t.start == w.start) ||
    s.net.packets.any (fun p => p.kind == 6 && p.cmd == c.id && p.ofs.toNat == w.start)
  let s := (mine.filter (fun w => !w.passed)).foldl (fun s w => dropWindow w s) s
  { s with net.rx := s.net.rx.filter (fun w => w.circuit != c.id || unacked w) }

/-! ## Ends of a circuit -/

/-- The crosspoints of a circuit are free again, and what is on its way in it is lost. -/
def removeCircuit (c : Circuit) (s : State) : State :=
  let s := { s with
    net.circuits := s.net.circuits.filter (fun x => x.id != c.id)
    net.beats := s.net.beats.filter (fun b => b.circuit != c.id) }
  if c.receiver = s.core.id then endWindows c s else s

/-- A cut (R277, R350, R351): the handle or slot goes to state 4 with the cause; a `CSTREAM` in execution on it ends with ERR,
a `SEND` in execution starts again as a packet. -/
def cutCircuit (id : Nat) (cause : BitVec 2) (s : State) : State :=
  match circuitOf s id with
  | none => s
  | some c =>
    let s := removeCircuit c s
    if c.sender ≠ s.core.id ∨ c.releasing then s
    else
      let s := setHandle c.slot { handleOf s c.slot with st := 4, cause := cause, cutAt := s.core.eng.cmdId } s
      match queueHead s 5 with
      | some x =>
        if c.promoted then
          let s := freeMeterSlot c.slot s
          if x.op = .sendCmd then updExec 5 (fun r => if 2 ≤ r.cursor ∧ r.cursor ≤ 4 then { r with cursor := 0 } else r) s else s
        else if streamsOn c.slot x then updExec 5 (fun r => { r with finished := true, err := true }) s
        else s
      | none => if c.promoted then freeMeterSlot c.slot s else s

/-- Every circuit that a condition names is cut. -/
def cutCircuits (p : Circuit → Bool) (cause : BitVec 2) (s : State) : State :=
  (s.net.circuits.filter p).foldl (fun s c => cutCircuit c.id cause s) s

/-- The events of the modelled core as sender: a pre-emption or a kill (R277). Its probes end with their handles as they were
before (R274, R335). -/
def cutSending (s : State) : State :=
  let mine := s.net.probes.filter (fun p => p.sender == s.core.id)
  let s := mine.foldl (fun s p => setHandle p.slot { handleOf s p.slot with st := p.before } s)
    { s with net.probes := s.net.probes.filter (fun p => p.sender != s.core.id) }
  let s := match queueHead s 5 with
    | some x => if x.op = .copen then updExec 5 (fun r => { r with cursor := 0 }) s else s
    | none => s
  cutCircuits (fun c => c.sender == s.core.id) 1 s

/-- The events at the modelled core as receiver (R277). -/
def cutReceiving (s : State) : State := cutCircuits (fun c => c.receiver == s.core.id) 3 s

/-- The circuit-plane links of a chain of outputs. -/
def circuitLinks (pkg : BitVec 7) (path : List (Router × Dir)) : List Nat :=
  path.filterMap (fun x => if x.2 = 0 then none else some (meshLink 1 pkg x.1 x.2))

/-- Circuits that a condition on their chain of outputs names are cut as by the failure of a link, and a probe that has reserved outputs of
it gives up (R349, R352). -/
def cutPaths (hit : BitVec 7 → List (Router × Dir) → Bool) (s : State) : State :=
  let stop := fun (p : Probe) => if p.state != .giveUp && hit p.pkg p.reserved then { p with b := 3, state := .giveUp } else p
  cutCircuits (fun c => hit c.pkg c.path) 2 { s with net.probes := s.net.probes.map stop }

/-- Circuits that cross a link are cut as by its failure (R352). -/
def cutLink (l : Nat) (s : State) : State := cutPaths (fun pkg path => (circuitLinks pkg path).contains l) s

/-- Beats of a circuit pass its links now (R354). -/
def circuitTraffic (c : Circuit) (s : State) : State := (circuitLinks c.pkg c.path).foldl (fun s l => linkTraffic l s) s

/-- A promoted circuit is released by its sender: the slot is closed, and a release message frees the crosspoints
(R341, R350). -/
def releasePromoted (c : Circuit) (s : State) : State :=
  let s := updCircuit c.id (fun x => { x with releasing := true }) s
  let s := setHandle c.slot { handleOf s c.slot with st := 0 } (freeMeterSlot c.slot s)
  sendPacket (controlPacket 8 c.pkg c.sender c.receiver c.label 0 0 c.id 0) s

/-- An explicit circuit is released (R273, R275). -/
def releaseExplicit (c : Circuit) (s : State) : State :=
  setHandle c.slot { handleOf s c.slot with st := 0 } (removeCircuit c s)

/-- Handles that close are closed when every `CSTREAM` issued before their `CCLOSE` has completed (R275). -/
def settleCloses (s : State) : State :=
  (List.range 8).foldl (fun s i =>
    let h := BitVec.ofNat 3 i
    let x := handleOf s h
    if x.st = 3 ∧ ¬ (queued s 5).any (fun c => streamsOn h c && decide (c.id < x.closeAt)) then
      match ownCircuit s h with
      | some c => releaseExplicit c s
      | none => setHandle h { x with st := 0 } s
    else s) s

/-- The open circuits of a core that reports done are released (R273, R350). -/
def releaseAll (s : State) : State :=
  (s.net.circuits.filter (fun c => c.sender == s.core.id && !c.releasing)).foldl
    (fun s c => if c.promoted then releasePromoted c s else releaseExplicit c s) s

/-- A lease that has run out cuts its circuit with cause 0 (R275, R277). -/
def expireLease (h : BitVec 3) (s : State) : State :=
  let x := handleOf s h
  if (x.st = 2 ∨ x.st = 3) ∧ x.leaseEnd.toNat ≤ (counterOf s s.core.id).toNat then
    match ownCircuit s h with
    | some c => if c.promoted then s else cutCircuit c.id 0 s
    | none => setHandle h { x with st := 4, cause := 0, cutAt := s.core.eng.cmdId } s
  else s

/-- `LEASE_EXPIRY` (R273, R277). -/
def execLeaseExpiry (h : BitVec 3) (s : State) : Out := .next (expireLease h s)

/-! ## Stopping a core at once -/

/-- The queues and units of the modelled core are discarded, and its circuits are cut: a kill, or the stop of an abort
(R266, R323, R329). -/
def discardCore (s : State) : State :=
  let s := cutReceiving (cutSending s)
  { s with
    core.eng.queues := Vector.replicate 6 CmdQueue.start
    core.eng.exec := Vector.replicate 6 none
    core.eng.streams := Vector.replicate 4 none
    core.eng.sinks := []
    core.eng.faults := []
    core.eng.lateCopies := []
    core.grid.run := none
    core.grid.gmma := none
    core.grid.admitted := false
    core.grid.readyAt := none
    core.mq.loads := []
    core.mq.stores := []
    core.mq.results := []
    core.mq.region := none
    core.mq.status := []
    core.mq.gpops := []
    net.remote := s.net.remote.filter (fun r => r.sender != s.core.id)
    core.seq.run := .stopped
    core.seq.wait := none
    core.seq.sleepCap := none
    core.seq.semCap := none }

end Sys2Proof.Machine
end

