-- ==== Sys2Proof/Machine/VecPerm.lean ====
section
/-! DEFINITION. Permutes and moves, the mask stack and region skipping (R94, R95, R108): majors 0x48 and 0x49. -/

namespace Sys2Proof.Machine


/-- `VPERM` (R108): each lane of `vb` names a lane of `va`. -/
def execVperm (d a b : BitVec 5) (s : State) : Out :=
  vecLanes (wordVperm d a b) d (vsrc2 a b) (fun s i => lane (readV s a) ((lane (readV s b) i).toNat % 16)) s

/-- `VROT` (R108). -/
def execVrot (d a n : BitVec 5) (s : State) : Out :=
  vecLanes (wordVrot d a n) d [srcV a] (fun s i => lane (readV s a) ((i + n.toNat) % 16)) s

/-- `VZIPL` (R108). -/
def execVzipl (d a b : BitVec 5) (s : State) : Out :=
  vecLanes (wordVzipl d a b) d (vsrc2 a b) (fun s i => lane (readV s (if i % 2 = 0 then a else b)) (i / 2)) s

/-- `VZIPH` (R108). -/
def execVziph (d a b : BitVec 5) (s : State) : Out :=
  vecLanes (wordVziph d a b) d (vsrc2 a b) (fun s i => lane (readV s (if i % 2 = 0 then a else b)) (8 + i / 2)) s

/-- `VMOV` (R108). -/
def execVmov (d a : BitVec 5) (s : State) : Out := vecLanes (wordVmov d a) d [srcV a] (fun s i => lane (readV s a) i) s

/-- `VBCAST` (R108). -/
def execVbcast (d a : BitVec 5) (s : State) : Out := vecLanes (wordVbcast d a) d [srcS a] (fun s _ => lo32 (readS s a)) s

/-- `VINS` (R108): lane n, unmasked. -/
def execVins (d a n : BitVec 5) (s : State) : Out :=
  let w := wordVins d a n
  gate anywhere w s fun s => issue w ⟨[srcS a], [.v d]⟩ s fun s =>
    let v := vregOf (fun i => if i = n.toNat then lo32 (readS s a) else lane (readV s d) i)
    .next (retire (deliverLater (.vector d v) s))

/-- A move out of the vector unit into a scalar register (R91, R108). -/
def vecToScalar (w : Word) (d : BitVec 5) (srcs : List Src) (f : State → DWord) (s : State) : Out :=
  gate anywhere w s fun s => issue w ⟨srcs, [.s d]⟩ s fun s => .next (retire (deliverLater (.scalar d (f s)) s))

/-- `VEXT` (R108). -/
def execVext (d a n : BitVec 5) (s : State) : Out :=
  vecToScalar (wordVext d a n) d [srcV a] (fun s => sx (lane (readV s a) n.toNat)) s

/-- `VEXTZ` (R108). -/
def execVextz (d a n : BitVec 5) (s : State) : Out :=
  vecToScalar (wordVextz d a n) d [srcV a] (fun s => (lane (readV s a) n.toNat).setWidth 64) s

/-- `S2Q` (R108). -/
def execS2q (d : BitVec 3) (a : BitVec 5) (s : State) : Out :=
  let w := wordS2q d a
  gate anywhere w s fun s => issue w ⟨[srcS a], [.q d]⟩ s fun s =>
    .next (retire (deliverLater (.mask d ((readS s a).setWidth 16)) s))

/-- `Q2S` (R108). -/
def execQ2s (d : BitVec 5) (a : BitVec 3) (s : State) : Out :=
  vecToScalar (wordQ2s d a) d [⟨.q a, false⟩] (fun s => (readQ s a).setWidth 64) s

/-! ## The mask stack (R94) -/

/-- Depth of the mask stack. -/
def maskDepth (s : State) : Nat := s.core.regs.depth.toNat

/-- `MPUSH` (R12, R94): pushes top & q[a]; an illegal instruction at depth 16. -/
def execMpush (a : BitVec 3) (s : State) : Out :=
  let w := wordMpush a
  gate anywhere w s fun s =>
    if 16 ≤ maskDepth s then illegal w s
    else issue w ⟨[⟨.q a, false⟩], []⟩ s fun s =>
      .next (retire { s with
        core.regs.stack := s.core.regs.stack.setIfInBounds (maskDepth s) (topMask s &&& readQ s a)
        core.regs.depth := s.core.regs.depth + 1 })

/-- `MINV` (R94): top becomes parent & ~top. (DEDUCED, log entry 21.) -/
def execMinv (s : State) : Out :=
  gate anywhere wordMinv s fun s =>
    if s.core.regs.depth = 0 then illegal wordMinv s
    else issue wordMinv {} s fun s =>
      .next (retire { s with
        core.regs.stack := s.core.regs.stack.setIfInBounds (maskDepth s - 1) (parentMask s &&& ~~~topMask s) })

/-- `MPOP` (R12, R94). -/
def execMpop (s : State) : Out :=
  gate anywhere wordMpop s fun s =>
    if s.core.regs.depth = 0 then illegal wordMpop s
    else issue wordMpop {} s fun s => .next (retire { s with core.regs.depth := s.core.regs.depth - 1 })

/-- Whether a word address lies beyond instruction memory, or in the handler area in program mode (R68, R95). -/
def beyondCode (s : State) (t : Nat) : Bool := decide (4095 < t) || (s.core.seq.mode == .program && decide (3584 ≤ t))

/-- `BRMZ` (R95): skips the next `len` words when the current mask is empty. -/
def execBrmz (len : BitVec 12) (s : State) : Out :=
  let w := wordBrmz len
  gate { inMacro := false, endWord := false } w s fun s =>
    let pc := s.core.seq.pc.toNat
    let stop := pc + len.toNat
    if beyondCode s stop then illegal w s
    else if s.core.seq.loops.toList.any (fun l => l.active && decide (pc < l.stop.toNat) && decide (l.stop.toNat ≤ stop)) then
      illegal w s
    else issue w {} s fun s => .next (if topMask s = 0 then retireTo (stop + 1) s else retire s)

end Sys2Proof.Machine
end

