-- ==== Sys2Proof/Machine/Control.lean ====
section
/-! DEFINITION. Control: branches through target registers (R64-R67), loops (R68-R71), macros (R72-R74), system registers
(R20-R32, R75, R325), `CYC`, `OVL` and `EXIT` (R76, R86, R87). -/

namespace Sys2Proof.Machine

/-- Instructions that neither a macro nor the end of a loop admits (R69, R74). -/
def control : Gate := { inMacro := false, endWord := false }

/-! ## Branches (R64-R67) -/

/-- Target register `b`. -/
def targetOf (s : State) (b : BitVec 3) : TargetReg := vget (w := 3) s.core.seq.tb b

def setTarget (b : BitVec 3) (t : TargetReg) (s : State) : State :=
  { s with core.seq.tb := vset (w := 3) s.core.seq.tb b t }

/-- A target register starts to fetch a word address, or records the fault (R64). -/
def fetchTarget (b : BitVec 3) (t : Nat) (s : State) : State :=
  setTarget b ⟨BitVec.ofNat 12 t, fetchStateOf s.core.seq.mode t⟩ s

/-- `PBR` (R64). -/
def execPbr (b : BitVec 3) (disp : BitVec 22) (s : State) : Out :=
  let w := wordPbr b disp
  gate control w s fun s => issue w {} s fun s =>
    .next (retire (fetchTarget b (s.core.seq.pc.setWidth 22 + disp).toNat s))

/-- `PBRR` (R65): set bits above [11:0] are a fetch-range fault; those above [21:0] are cut off in its address. -/
def execPbrr (d : BitVec 3) (a : BitVec 5) (fa : Bool) (s : State) : Out :=
  let w := wordPbrr d a fa
  gate control w s fun s => issue w ⟨[srcS a fa], []⟩ s fun s =>
    let x := readS s a
    .next (retire (if x.toNat < 4096 then fetchTarget d x.toNat s
      else setTarget d ⟨x.setWidth 12, .faulted .fetchRange ((x.setWidth 22).setWidth 64)⟩ s))

/-- `BR` and `BRL` (R66). -/
def branch (w : Word) (link : Bool) (b p : BitVec 3) (neg : Bool) (s : State) : Out :=
  gate control w s fun s =>
    if readP s p == neg then issue w {} s fun s => .next (retire s)
    else
      match (targetOf s b).state with
      | .idle => illegal w s
      | .faulted c a =>
        match s.core.seq.mode with
        | .program => .next { takeTrap c a 0 s with core.seq.tbTrap := some b }
        | .handler => trap c a s
      | .fetching => waitOn .external s
      | .ready =>
        issue w ⟨[], if link then [.s 31] else []⟩ s fun s =>
          let s := if link then writeS 31 (dw (s.core.seq.pc.toNat + 1)) s else s
          .next (retireTo (targetOf s b).addr.toNat s)

/-- `BR` (R66). -/
def execBr (b p : BitVec 3) (neg : Bool) (s : State) : Out := branch (wordBr b p neg) false b p neg s

/-- `BRL` (R66). -/
def execBrl (b p : BitVec 3) (neg : Bool) (s : State) : Out := branch (wordBrl b p neg) true b p neg s

/-- `TARGET_FETCH_READY` (R64): a fetch ends, ready, or faulted on an uncorrectable error in the word. -/
def execTargetFetchReady (b : BitVec 3) (err : Bool) (s : State) : Out :=
  let t := targetOf s b
  match t.state with
  | .fetching =>
    if err || s.core.seq.badWords.contains t.addr then
      .next (setTarget b { t with state := .faulted .fetchError (t.addr.setWidth 64) } s)
    else .next (setTarget b { t with state := .ready } s)
  | _ => .next s

/-! ## Loops (R68-R71) -/

/-- A loop level replaced. -/
def setLoop (i : BitVec 2) (l : LoopLevel) (s : State) : State :=
  { s with core.seq.loops := vset (w := 2) s.core.seq.loops i l }

/-- The position after every active level's. -/
def nextOrder (s : State) : Nat := 1 + s.core.seq.loops.toList.foldl (fun m l => if l.active then Nat.max m l.order else m) 0

/-- `LOOP` and `LOOPI` (R68): the checks stand before the wait for the count register (R42). -/
def openLoop (w : Word) (lvl : BitVec 2) (len : BitVec 12) (srcs : List Src) (count : State → Word) (s : State) : Out :=
  gate control w s fun s =>
    let pc := s.core.seq.pc.toNat
    let stop := pc + len.toNat
    if len = 0 then illegal w s
    else if (loopLevel s lvl).active then illegal w s
    else if beyondCode s stop then illegal w s
    else if s.core.seq.loops.toList.any (fun l => l.active && decide (l.stop.toNat < stop)) then illegal w s
    else issue w ⟨srcs, []⟩ s fun s =>
      if count s = 0 then .next (retireTo (stop + 1) (setLoop lvl { loopLevel s lvl with count := 0 } s))
      else .next (retire (setLoop lvl ⟨count s, BitVec.ofNat 12 (pc + 1), BitVec.ofNat 12 stop, true, nextOrder s⟩ s))

/-- `LOOP` (R68). -/
def execLoop (lvl : BitVec 2) (a : BitVec 5) (len : BitVec 12) (s : State) : Out :=
  openLoop (wordLoop lvl a len) lvl len [srcS a] (fun s => lo32 (readS s a)) s

/-- The count of `LOOPI`: n[4:0] stands in field a, n[7:5] in imm15[14:12] (R68). -/
def loopiCount (raw : BitVec 8) : Word := ((raw.extractLsb' 0 3) ++ (raw.extractLsb' 3 5)).setWidth 32

/-- `LOOPI` (R68). -/
def execLoopi (lvl : BitVec 2) (raw : BitVec 8) (len : BitVec 12) (s : State) : Out :=
  openLoop (wordLoopi lvl raw len) lvl len [] (fun _ => loopiCount raw) s

/-- `LBRK` (R70): the level and every active level started after it end. -/
def execLbrk (lvl : BitVec 2) (s : State) : Out :=
  let w := wordLbrk lvl
  gate control w s fun s =>
    let l := loopLevel s lvl
    if !l.active then illegal w s
    else issue w {} s fun s =>
      let stop := fun (x : LoopLevel) => if x.active && decide (l.order ≤ x.order) then { x with count := 0, active := false } else x
      .next (retireTo (l.stop.toNat + 1) { s with core.seq.loops := s.core.seq.loops.map stop })

/-! ## Macros (R72-R74) -/

/-- `MCALL` (R73): its operations are the next steps; a macro without an operation ends at once. -/
def execMcall (a : BitVec 5) (m : BitVec 6) (s : State) : Out :=
  let w := wordMcall a m
  gate control w s fun s => issue w {} s fun s =>
    let s := if macroWord s m.toNat 0 = 0 then countStep s else s
    .next (macroAt m.toNat 0 { s with core.seq.macroRun := true })

/-- `MSTORE` (R73). -/
def execMstore (a : BitVec 5) (stepNo : BitVec 5) (m : BitVec 6) (s : State) : Out :=
  let w := wordMstore a stepNo m
  gate { inMacro := false } w s fun s => issue w ⟨[srcS a], []⟩ s fun s =>
    let i := 32 * m.toNat + stepNo.toNat
    .next (retire { s with core.seq.ctrl := s.core.seq.ctrl.setIfInBounds i (lo32 (readS s a)) })

/-! ## Reading system registers (R20, R21, R75) -/

/-- `HMARK` (R25). -/
def hmarkValue (s : State) : DWord := s.core.hall.setWidth 64 ||| b64 s.core.sec <<< 12

/-- `CORENO` (R26). -/
def corenoValue (s : State) : DWord :=
  let i := s.core.id
  (coreCol i).setWidth 64 ||| (coreRow i).setWidth 64 <<< 4 ||| (coreLayer i).setWidth 64 <<< 8
    ||| (coreChip i).setWidth 64 <<< 10 ||| (corePkg i).setWidth 64 <<< 16 ||| s.core.ord.setWidth 64 <<< 32

/-- The value of a system register, or none for a number that is not in the table of R20. -/
def sysRead (s : State) (r : BitVec 12) : Option DWord :=
  let y := s.core.sys
  match r.toNat with
  | 0x000 => some y.partw
  | 0x001 => some y.fpctl
  | 0x002 => some (y.fpflag.setWidth 64)
  | 0x003 => some (hmarkValue s)
  | 0x004 => some (corenoValue s)
  | 0x005 => some y.tdmaskl
  | 0x006 => some y.tdmaskh
  | 0x007 => some y.mstep
  | 0x008 => some y.srp[0]
  | 0x009 => some y.srp[1]
  | 0x00A => some y.srp[2]
  | 0x00B => some y.srp[3]
  | 0x00C => some (qhtValue s 0)
  | 0x00D => some (qhtValue s 1)
  | 0x00E => some (qhtValue s 2)
  | 0x00F => some (qhtValue s 3)
  | 0x010 => some (qhtValue s 4)
  | 0x011 => some (qhtValue s 5)
  | 0x012 => some ((loopLevel s 0).count.setWidth 64)
  | 0x013 => some ((loopLevel s 1).count.setWidth 64)
  | 0x014 => some ((loopLevel s 2).count.setWidth 64)
  | 0x015 => some ((loopLevel s 3).count.setWidth 64)
  | 0x016 => some (s.core.regs.depth.setWidth 64)
  | 0x020 => some y.tcause
  | 0x021 => some y.taddr
  | 0x022 => some (y.tpc.setWidth 64)
  | 0x023 => some y.tstat
  | 0x024 => some (y.tvec.setWidth 64)
  | 0x025 => some y.tscr
  | _ => none

/-- Whether a register is one of the trap registers, which only handler mode reaches (R20). -/
def isTrapReg (r : BitVec 12) : Bool := decide (0x020 ≤ r.toNat) && decide (r.toNat ≤ 0x025)

/-- A register that a read accesses in its mode: the value, after the checks of R21. -/
def readSys (w : Word) (d : BitVec 5) (r : BitVec 12) (after : State → State) (s : State) : Out :=
  gate anywhere w s fun s =>
    match sysRead s r with
    | none => illegal w s
    | some _ =>
      if isTrapReg r && s.core.seq.mode == .program then privilege w s
      else issue w ⟨[], [.s d]⟩ s fun s => .next (retire (after (writeS d ((sysRead s r).getD 0) s)))

/-- `MFS` (R75). -/
def execMfs (d : BitVec 5) (r : BitVec 12) (s : State) : Out := readSys (wordMfs d r) d r (fun s => s) s

/-- `MFS` of `TCAUSE`: sets `TSTAT.CR` (R325). -/
def execMfsTcause (d : BitVec 5) (s : State) : Out :=
  readSys (wordMfsTcause d) d 0x020 (fun s => { s with core.sys.tstat := s.core.sys.tstat ||| 0x80 }) s

/-- `MFS` of `SRP0`-`SRP3` and `QHT0`-`QHT5` (R16): the destination is marked empty. -/
def execMfsEngineStatus (d : BitVec 5) (r : BitVec 12) (s : State) : Out :=
  let w := wordMfsEngineStatus d r
  if r.toNat < 0x008 ∨ 0x011 < r.toNat then illegal w s
  else if r.toNat < 0x00C then statusRead w d (.srp d (r.setWidth 2)) s
  else statusRead w d (.qht d (r.toNat - 0x00C)) s

/-! ## Writing system registers (R20-R32, R325) -/

/-- An `MTS`: what makes it illegal whatever the value, which no wait delays (R42), the wait for the source, the check of the value, and the
effect, which performs before the next instruction issues. -/
def writeSys (w : Word) (a : BitVec 5) (may : State → Bool) (legal : State → DWord → Bool) (effect : DWord → State → Out)
    (s : State) : Out :=
  gate anywhere w s fun s =>
    if !may s then illegal w s
    else issue w ⟨[srcS a], []⟩ s fun s =>
      if legal s (readS s a) then effect (readS s a) s else illegal w s

/-- Registers that only handler mode writes. -/
def handlerWrites (s : State) : Bool := s.core.seq.mode == .handler

/-- The effect of an `MTS` to a register without behaviour of its own. -/
def storeSys (r : Nat) (x : DWord) (s : State) : State :=
  match r with
  | 0x007 => { s with core.sys.mstep := x }
  | 0x008 => { s with core.sys.srp := s.core.sys.srp.set 0 x }
  | 0x009 => { s with core.sys.srp := s.core.sys.srp.set 1 x }
  | 0x00A => { s with core.sys.srp := s.core.sys.srp.set 2 x }
  | 0x00B => { s with core.sys.srp := s.core.sys.srp.set 3 x }
  | 0x020 => { s with core.sys.tcause := x }
  | 0x021 => { s with core.sys.taddr := x }
  | 0x022 => { s with core.sys.tpc := x.setWidth 12 }
  | 0x023 => { s with core.sys.tstat := (x &&& ~~~(0x80#64)) ||| (s.core.sys.tstat &&& 0x80) }
  | 0x024 => { s with core.sys.tvec := x.setWidth 12 }
  | 0x025 => { s with core.sys.tscr := x }
  | _ => s

/-- Values that a register without behaviour of its own accepts (R28, R29, R325). -/
def sysLegal (r : Nat) (x : DWord) : Bool :=
  match r with
  | 0x007 => onlyBits x 0x87FF
  | 0x008 | 0x009 | 0x00A | 0x00B => onlyBits x 0x8000FFFFFFFFFFFF
  | 0x020 => onlyBits x 0x1FF
  | 0x022 => decide (x.toNat < 3584)
  | 0x023 => onlyBits x 0x00FFFFFFFFFFFFB7
  | 0x024 => decide (3584 ≤ x.toNat) && decide (x.toNat < 4096)
  | _ => true

/-- Registers that `MTS` never writes (R20): `HMARK`, `CORENO`, `TDMASKL`, `TDMASKH`. -/
def sysReadOnly (r : Nat) : Bool := decide (0x003 ≤ r) && decide (r ≤ 0x006)

/-- `MTS` to a register without behaviour of its own (R21, R75). In program mode a trap register raises the privilege trap whatever the
value (DESIGN CHOICE, log entry 76). -/
def execMts (a : BitVec 5) (r : BitVec 12) (s : State) : Out :=
  let w := wordMts a r
  gate anywhere w s fun s =>
    if (sysRead s r).isNone || sysReadOnly r.toNat then illegal w s
    else if isTrapReg r && s.core.seq.mode == .program then privilege w s
    else writeSys w a handlerWrites (fun _ x => sysLegal r.toNat x) (fun x s => .next (retire (storeSys r.toNat x s))) s

/-- Whether a value moves a bank that holds a byte of a declared buffer (R138). -/
def movesBuffer (s : State) (p : DWord) : Bool :=
  (List.range 64).any (fun b => bankUse s.core.sys.partw b != bankUse p b && !(buffersAt s (2048 * b) 2048).isEmpty)

/-- `MTS PARTW` (R22, R138, R153): a change of CA first writes back the L1. -/
def execMtsPartw (a : BitVec 5) (s : State) : Out :=
  writeSys (wordMtsPartw a) a enginesIdle (fun s x => partwLegal x && !movesBuffer s x)
    (fun x s =>
      if partCA x = partCA s.core.sys.partw then .next (retire (repartition x s))
      else
        match l1Flush s with
        | (s, .done) => .next (retire (repartition x s))
        | (s, .held) => waitOn .external s) s

/-- Whether a vector result is still on its way. -/
def vectorsOut (s : State) : Bool :=
  s.core.regs.latent.any (fun l => match l with | .scalar _ _ => false | .vector _ _ => true | .mask _ _ => true)

/-- `MTS FPCTL` (R23). -/
def execMtsFpctl (a : BitVec 5) (s : State) : Out :=
  writeSys (wordMtsFpctl a) a (fun _ => true) (fun _ x => decide (fieldN x 0 3 ≤ 4) && fieldN x 8 24 == 0)
    (fun x s => if vectorsOut s then waitOn .external s else .next (retire (writeFpctl x s))) s

/-- `MTS FPFLAG` (R24). -/
def execMtsFpflag (a : BitVec 5) (s : State) : Out :=
  writeSys (wordMtsFpflag a) a (fun _ => true) (fun _ x => onlyBits x 0x3F)
    (fun x s => .next (retire { s with core.sys.fpflag := x.setWidth 6 })) s

/-- `MTS` to `LC0`-`LC3` (R31, R75): the test of the same cycle reads the old count, and the written count remains. -/
def execMtsLc (a : BitVec 5) (r : BitVec 12) (s : State) : Out :=
  let lvl : BitVec 2 := (r - 0x012).setWidth 2
  writeSys (wordMtsLc a r) a (fun _ => true) (fun _ x => fieldN x 32 32 == 0)
    (fun x s =>
      let s := retire s
      .next (setLoop lvl { loopLevel s lvl with count := lo32 x } s)) s

/-- `MTS MSDEPTH` (R32). -/
def execMtsMsdepth (a : BitVec 5) (s : State) : Out :=
  writeSys (wordMtsMsdepth a) a handlerWrites (fun _ x => decide (x.toNat ≤ 16))
    (fun x s => .next (retire { s with core.regs.depth := x.setWidth 5 })) s

/-- `MTS` to `QHT0`-`QHT5` (R30): legal only in handler mode while that engine is stopped for pre-emption restore. -/
def execMtsQht (a : BitVec 5) (r : BitVec 12) (s : State) : Out :=
  let q := r.toNat - 0x00C
  writeSys (wordMtsQht a r) a (fun s => handlerWrites s && s.core.eng.restoring.getLsbD q) (fun _ x => onlyBits x 0x1F1F)
    (fun x s => .next (retire (setQueue q { queueOf s q with head := field x 0 5, tail := field x 8 5 } s))) s

/-! ## Engine status (R16) -/

/-- The record `CSTAT` returns (R273). -/
def cstatValue (s : State) (h : BitVec 3) : DWord :=
  let x := vget (w := 3) s.core.port.handles h
  x.st.setWidth 64 ||| (if x.st = 4 then x.cause.setWidth 64 <<< 3 else 0)
    ||| (x.leaseEnd.setWidth 24).setWidth 64 <<< 8 ||| x.resume.setWidth 64 <<< 32

/-- The value of an engine-status read when it reaches its engine. -/
def statusValue (s : State) : StatusReq → BitVec 5 × DWord
  | .srp d n => (d, vget (w := 2) s.core.sys.srp n)
  | .qht d n => (d, qhtValue s n)
  | .kstat d k => (d, kstatValue s k)
  | .bufstat d n => (d, bufstatValue s n.toNat)
  | .cstat d h => (d, cstatValue s h)

/-- Lanes 0 to 7 from an output-queue entry, lanes 8 to 15 zero (R123). -/
def tokenVec (t : TokenData) : VReg := vregOf (fun i => if i < 8 then t.extractLsb' (32 * i) 32 else 0)

/-- `ENGINE_STATUS_FILL` (R16): the `idx`th status read is answered; past the last one, the oldest waiting `GPOP` takes the
next entry of the output queue (R123, R170). -/
def execEngineStatusFill (idx : Nat) (s : State) : Out :=
  match s.core.mq.status[idx]? with
  | some r =>
    let (d, x) := statusValue s r
    .next (setSEmpty d false (writeS d x { s with core.mq.status := s.core.mq.status.eraseIdx idx }))
  | none =>
    match s.core.mq.gpops, s.core.grid.outq with
    | d :: ds, t :: ts =>
      .next (settleQueues (setVEmpty d false (writeV d (tokenVec t) { s with core.mq.gpops := ds, core.grid.outq := ts })))
    | _, _ => .next s

/-! ## `CYC`, `OVL`, `EXIT` (R76, R86, R87) -/

/-- `CYC` (R76). -/
def execCyc (d : BitVec 5) (s : State) : Out :=
  let w := wordCyc d
  gate anywhere w s fun s => issue w ⟨[], [.s d]⟩ s fun s => .next (retire (writeS d (counterOf s s.core.id) s))

/-- Every target register idle. -/
def idleTargets (s : State) : State := { s with core.seq.tb := Vector.replicate 8 TargetReg.idle }

/-- The trailer mask of the overlay that is loaded (R86). -/
def trailerOf (s : State) : BitVec 6 :=
  match s.core.seq.overlays[s.core.seq.curOverlay]? with
  | some o => o.trailer
  | none => 0

/-- `OVL` (R86): the checks, the trailer wait, and the load. -/
def execOvl (a : BitVec 5) (fa : Bool) (s : State) : Out :=
  let w := wordOvl a fa
  gate control w s fun s =>
    if s.core.seq.ovb ≤ s.core.seq.pc.toNat || s.core.seq.loops.toList.any (fun l => l.active) || mstepAct s then illegal w s
    else issue w ⟨[srcS a fa], []⟩ s fun s =>
      let n := (readS s a).toNat
      if 2 ^ 16 ≤ n ∨ s.core.seq.overlays.length ≤ n then trap .overlay (readS s a) s
      else if (List.range 6).any (fun q => (trailerOf s).getLsbD q && !queueEmpty s q) then waitOn .external s
      else .next { s with core.seq.run := .overlay n }

/-- Words written to instruction memory from an address on; a word that is written has no error any more. -/
def loadWords : Nat → List Word → State → State
  | _, [], s => s
  | a, w :: ws, s =>
    loadWords (a + 1) ws { s with
      core.seq.imem := s.core.seq.imem.setIfInBounds a w
      core.seq.badWords := s.core.seq.badWords.filter (fun b => b.toNat != a) }

/-- `OVERLAY_LOAD_DONE` (R86): the overlay stands in the overlay area, where words beyond a shorter overlay stay as they were (DESIGN
CHOICE, log entry 78); target registers are idle, and the program goes on
after the `OVL`; an uncorrectable error aborts the launch with cause data error. -/
def execOverlayLoadDone (err : Bool) (s : State) : Out :=
  match s.core.seq.run with
  | .overlay n =>
    if err then .next (doom s.core.launch (AbortInfo.of 6) { s with core.seq.run := .stopped })
    else
      match s.core.seq.overlays[n]? with
      | some o =>
        .next (retire (idleTargets (loadWords s.core.seq.ovb (o.words.take (3584 - s.core.seq.ovb))
          { s with core.seq.run := .running, core.seq.curOverlay := n })))
      | none => .next { s with core.seq.run := .running }
  | _ => .next s

/-- `EXIT` (R87): fetching stops; commands, stores and loads drain, and load data is discarded. -/
def execExit (s : State) : Out :=
  gate control wordExit s fun s => issue wordExit {} s fun s =>
    .next (idleTargets { countStep s with
      core.seq.run := .exited
      core.seq.loops := Vector.replicate 4 LoopLevel.off
      core.mq.loads := s.core.mq.loads.map (fun l => if l.dest = .mark then l else { l with dest := .discard }) })

/-- `ILLEGAL_INSTRUCTION` (R41): a word that encodes no instruction. -/
def execIllegalInstruction (w : Word) (s : State) : Out := illegal w s

end Sys2Proof.Machine
end

