-- ==== Sys2Proof/Machine/System.lean ====
section
/-! DEFINITION. System, trap, launch and circuit instructions (R256-R278). -/

namespace Sys2Proof.Machine

/-! ## Traps and returns (R258-R262) -/

/-- A gate of R257 for instructions of one mode. -/
def controlIn (m : Mode) : Gate := { inMacro := false, endWord := false, only := some m }

/-- `TRAP` (R259). -/
def execTrap (n : BitVec 10) (s : State) : Out :=
  gate (controlIn .program) (wordTrap n) s fun s => trap .software (n.setWidth 64) s

/-- A debug halt of a launch is requested (R331): every running core of it is ordered to stop; a core that starts or is resumed before
the release comes up frozen. The launch counts its halts (R265). -/
def requestHalt (launch : Nat) (s : State) : State :=
  let own := decide (s.core.launch = launch) && (match s.core.seq.run with
    | .running | .overlay _ | .exited => true
    | _ => false)
  let s := updLaunch launch (fun l => { l with
    halted := true
    haltCount := if l.halted ∨ l.haltCount = 0xFFFF then l.haltCount else l.haltCount + 1 }) s
  let s := { s with sched.slots := s.sched.slots.map (fun x =>
    if x.launch = launch ∧ x.state = .running then { x with op := 5 } else x) }
  if own then { s with core.seq.haltRequested := true } else s

/-- `BKPT` (R259): a breakpoint trap, or with a debugger attached a debug halt of the launch after it has retired. -/
def execBkpt (n : BitVec 10) (s : State) : Out :=
  gate (controlIn .program) (wordBkpt n) s fun s =>
    if (ownLaunch s).dbg then .next (requestHalt s.core.launch (retire s)) else trap .breakpoint (n.setWidth 64) s

/-- `TFENCE` (R260): waits for the older work, then traps on enabled flags. -/
def execTfence (s : State) : Out :=
  gate control wordTfence s fun s =>
    if !s.core.regs.latent.isEmpty || !enginesIdle s then waitOn .internal s
    else
      let m := s.core.sys.fpflag.setWidth 5 &&& field s.core.sys.fpctl 3 5
      if m = 0 then .next (retire { s with core.seq.wait := none }) else trap .arithmetic (m.setWidth 64) s

/-- Every engine that an engine fault stopped restarts at its cursor (R117, R261), one whose fault is still pending with them; an
engine that waits for the pager waits on. So does a grid that a step trap stopped (R262). (DEDUCED, log entry 37.) -/
def restartEngines (s : State) : State :=
  (List.range 6).foldl (fun s q =>
    match execOf s q with
    | some r => if r.stopped && r.pager.isNone then resumeEngine q s else s
    | none => s) s

/-- The instruction or operation word that `TRET.skip` passes over (R261). -/
def skippedWord (s : State) : Word :=
  let w := vget (w := 12) s.core.seq.imem s.core.sys.tpc
  if mstepAct s then macroWord s (w.bits 0 6).toNat (mstepStep s) else w

/-- A barrier whose wait is passed over: the arrival stands, and the next `BAR` on the group does not arrive again (R217).
(DEDUCED, log entry 64.) -/
def skipBarrier (s : State) : State :=
  let w := skippedWord s
  let g : Byte := w.bits 0 8
  if w.bits 25 7 = 0x67#7 ∧ w.bits 8 12 = 0#12 ∧ (barPending s g).isSome then setBarWait g 0 s else s

/-- Leaving handler mode (R261, R67, R74): to `TPC` or past it, or into the macro whose `MCALL` stands there. A `TPC` that has been
moved off the `MCALL` is continued as a plain word (DEDUCED, log entry 42). -/
def leaveHandler (skip : Bool) (s : State) : State :=
  let n := if skip then 1 else 0
  let s := if skip then skipBarrier s else s
  let tb := restoreTargets skip s
  let w := vget (w := 12) s.core.seq.imem s.core.sys.tpc
  let mcall := w.bits 25 7 == 0x22#7 && w.bits 20 5 == 0#5
  let s := restartEngines { s with core.seq.tb := tb, core.seq.mode := .program, core.seq.pc := s.core.sys.tpc, core.seq.wait := none }
  if mstepAct s then
    if mcall then macroAt (w.bits 0 6).toNat (mstepStep s + n) { s with core.seq.macroRun := true }
    else goto (s.core.sys.tpc.toNat + n) { s with core.sys.mstep := mstepOf false (mstepMac s) (mstepStep s) }
  else goto (s.core.sys.tpc.toNat + n) s

/-- `TRET` (R261). -/
def execTret (s : State) : Out := gate (controlIn .handler) wordTret s fun s => .next (leaveHandler false s)

/-- `TRET.skip` (R261). -/
def execTretSkip (s : State) : Out := gate (controlIn .handler) wordTretSkip s fun s => .next (leaveHandler true s)

/-- `DSTEP` (R262): arms or disarms the two steps for the program that `TRET` resumes. -/
def execDstep (m : BitVec 2) (s : State) : Out :=
  gate (controlIn .handler) (wordDstep m) s fun s =>
    .next (retire { s with core.seq.stepInst := m.getLsbD 0, core.seq.stepGrid := m.getLsbD 1,
                           core.seq.stepFired := false, core.seq.gridStepFired := false })

/-- `STEP_TRAP` (R262): an armed step that has fired is taken at the boundary, and disarmed. -/
def execStepTrap (grid : Bool) (s : State) : Out :=
  if s.core.seq.mode ≠ .program ∨ s.core.seq.run ≠ .running then .next s
  else if grid then
    if s.core.seq.gridStepFired then
      .next { takeTrap .step 1 0 s with core.seq.stepGrid := false, core.seq.gridStepFired := false }
    else .next s
  else if s.core.seq.stepFired then
    .next { takeTrap .step 0 0 s with core.seq.stepInst := false, core.seq.stepFired := false }
  else .next s

/-! ## Launch and transaction (R263-R269) -/

/-- Spilled shadow lines of the launch in the core's package (R264). -/
def spilledLines (s : State) : Nat :=
  (s.homes.lines.filter (fun r => linePkg r.line == corePkg s.core.id &&
    r.spilled.any (fun w => w.kind == .shadow && w.hall == s.core.hall))).length

/-- The record of `TXSTAT` (R264). -/
def txstatValue (s : State) : DWord :=
  let l := ownLaunch s
  let state : DWord := match hallOf s s.core.launch (corePkg s.core.id) with
    | some h => match h.state with
      | .irrevocable => 1
      | .doomed => 2
      | _ => 0
    | none => 0
  s.core.hall.setWidth 64 ||| state <<< 12 ||| b64 (l.pair != 0) <<< 14 ||| b64 s.core.sec <<< 15 ||| b64 l.pol <<< 16
    ||| b64 (l.regions.any (fun r => r.cls == 2)) <<< 17 ||| dw (Nat.min 0xFFFF (spilledLines s / 1024)) <<< 32

/-- A scalar result that is written after its latency. -/
def lateScalar (w : Word) (g : Gate) (d : BitVec 5) (srcs : List Src) (f : State → DWord) (s : State) : Out :=
  gate g w s fun s => issue w ⟨srcs, [.s d]⟩ s fun s => .next (retire (deliverLater (.scalar d (f s)) s))

/-- `TXSTAT` (R264). -/
def execTxstat (d : BitVec 5) (s : State) : Out := lateScalar (wordTxstat d) anywhere d [] txstatValue s

/-- The record of `DSTAT` (R265). -/
def dstatValue (s : State) : DWord :=
  b64 (ownLaunch s).dbg ||| b64 s.core.seq.stepInst <<< 1 ||| b64 s.core.seq.stepGrid <<< 2
    ||| b64 s.core.seq.haltRequested <<< 3 ||| (ownLaunch s).haltCount.setWidth 64 <<< 16

/-- `DSTAT` (R265). -/
def execDstat (d : BitVec 5) (s : State) : Out := lateScalar (wordDstat d) anywhere d [] dstatValue s

/-- `TXABORT` (R266): the abort is decided with cause program abort, unless the launch is committing or doomed already, and
this core stops. -/
def execTxabort (a : BitVec 5) (fa : Bool) (s : State) : Out :=
  let w := wordTxabort a fa
  gate control w s fun s => issue w ⟨[srcS a fa], []⟩ s fun s =>
    .next (discardCore (if (ownLaunch s).phase = .committing then s
      else doom s.core.launch { AbortInfo.of 8 with code := (readS s a).setWidth 16, ord := s.core.ord } s))

/-- `YIELD` (R267): 1 with a save pending, which is then taken at the boundary after it. -/
def execYield (d : BitVec 5) (s : State) : Out :=
  gate control (wordYield d) s fun s => issue (wordYield d) ⟨[], [.s d]⟩ s fun s =>
    let s := { s with core.seq.yielded := s.core.seq.savePending }
    .next (retire (deliverLater (.scalar d (b64 s.core.seq.savePending)) s))

/-- Whether a trap is pending for the sequencer's next boundary. -/
def trapPends (s : State) : Bool :=
  !s.core.eng.faults.isEmpty || !s.core.eng.lateCopies.isEmpty || s.core.seq.gridStepFired

/-- Completed counters of slots 0 to 30. -/
def completedAll (s : State) : List (BitVec 16) := (List.range 31).map (fun j => (slotOf s (BitVec.ofNat 5 j)).cmp)

/-- The slots of a mask whose completed counter differs from a capture. -/
def wokenMask (s : State) (m : BitVec 31) (c : List (BitVec 16)) : BitVec 31 :=
  (List.range 31).foldl (fun (x : BitVec 31) j =>
    if m.getLsbD j && (slotOf s (BitVec.ofNat 5 j)).cmp != c.getD j 0 then x ||| BitVec.twoPow 31 j else x) 0

/-- `SLEEP` (R268): captures once, sleeps until a slot of the mask has completed something or a trap is pending, and retires
with the mask of the slots that have. -/
def execSleep (d a : BitVec 5) (fa : Bool) (s : State) : Out :=
  let w := wordSleep d a fa
  gate control w s fun s => issue w ⟨[srcS a fa], [.s d]⟩ s fun s =>
    let m : BitVec 31 := (readS s a).setWidth 31
    let done := fun (x : DWord) (s : State) =>
      Host.Outcome.next (retire (deliverLater (.scalar d x) { s with core.seq.sleepCap := none }))
    match s.core.seq.sleepCap with
    | none =>
      if (List.range 31).any (fun j => m.getLsbD j &&
          (slotOf s (BitVec.ofNat 5 j)).iss != (slotOf s (BitVec.ofNat 5 j)).cmp) then
        waitOn .internal { s with core.seq.sleepCap := some (completedAll s) }
      else done 0 s
    | some c =>
      let x := wokenMask s m c
      if x ≠ 0 ∨ trapPends s then done (x.setWidth 64) s else waitOn .internal s

/-- `SLEEPT` (R269). -/
def execSleept (a : BitVec 5) (fa : Bool) (s : State) : Out :=
  let w := wordSleept a fa
  gate control w s fun s => issue w ⟨[srcS a fa], []⟩ s fun s =>
    if (readS s a).toNat ≤ (counterOf s s.core.id).toNat then .next (retire s) else waitOn .external s

/-- `SLEEPT_WAKE` (R269): the deadline of the `SLEEPT` that waits is reached and it retires. -/
def execSleeptWake (s : State) : Out :=
  let w := wordAtPc s
  if s.core.seq.run = .running ∧ s.core.seq.wait = some .external ∧ !s.core.seq.macroRun
      ∧ w.bits 25 7 = 0x69#7 ∧ w.bits 0 8 = 0x04#8 then
    execSleept (w.bits 15 5) (w.getLsbD 9) s
  else .next s

/-! ## Links (R270, R272) -/

/-- The links an `LWAKE` names: none for an ordinal whose core is in another package, to which no path of the mesh leads (DESIGN CHOICE, log
entry 85). -/
def namedLinks (s : State) (x : DWord) : List Nat :=
  if x.getLsbD 24 then [ringLink (corePkg s.core.id).toNat false, ringLink (corePkg s.core.id).toNat true]
  else if (ownLaunch s).cores ≤ fieldN x 0 24 then []
  else
    let dst := ordPlace s (field x 0 24)
    if corePkg dst = corePkg s.core.id then wakePath s dst else []

/-- `LWAKE` (R272): posted. -/
def execLwake (a : BitVec 5) (fa : Bool) (s : State) : Out :=
  let w := wordLwake a fa
  gate anywhere w s fun s => issue w ⟨[srcS a fa], []⟩ s fun s =>
    .next (retire ((namedLinks s (readS s a)).foldl (fun s l => wakeLink l s) s))

/-- `LWAKE.wait` (R272): retires when every link named is at full width; a link that has failed is not waited for. -/
def execLwakeWait (a : BitVec 5) (fa : Bool) (s : State) : Out :=
  let w := wordLwakeWait a fa
  gate anywhere w s fun s => issue w ⟨[srcS a fa], []⟩ s fun s =>
    let ls := namedLinks s (readS s a)
    if ls.all (fun l => atWidth (linkRec s l) || (linkRec s l).failed) then .next (retire s)
    else waitOn .external (ls.foldl (fun s l => wakeLink l s) s)

/-! ## Explicit circuits (R273, R275) -/

/-- `CHOLD` (R275): expiry is tested first; then the lease of an open handle is extended. -/
def execChold (d a : BitVec 5) (h : BitVec 3) (fa : Bool) (s : State) : Out :=
  let w := wordChold d a h fa
  gate anywhere w s fun s => issue w ⟨[srcS a fa], [.s d]⟩ s fun s =>
    let s := expireLease h s
    let x := handleOf s h
    if x.st ≠ 2 then .next (retire (deliverLater (.scalar d 0) s))
    else
      let now := (counterOf s s.core.id).toNat
      let e := Nat.min (now + 2 ^ 24) (Nat.max x.leaseEnd.toNat (now + Nat.min (readS s a).toNat (2 ^ 24)))
      .next (retire (deliverLater (.scalar d 1) (setHandle h { x with leaseEnd := dw e } s)))

/-- `CCLOSE` (R275). -/
def execCclose (h : BitVec 3) (s : State) : Out :=
  gate anywhere (wordCclose h) s fun s =>
    let x := handleOf s h
    .next (retire (if x.st = 2 then settleCloses (setHandle h { x with st := 3, closeAt := s.core.eng.cmdId } s) else s))

/-- `CSTAT` (R273): through the empty bit. -/
def execCstat (d : BitVec 5) (h : BitVec 3) (s : State) : Out := statusRead (wordCstat d h) d (.cstat d h) s

end Sys2Proof.Machine
end

