-- ==== Sys2Proof/Machine/Discovery.lean ====
section
/-! DEFINITION. The discovery table and the monitors of a power region (R250-R255, R270, R271, R381). -/

namespace Sys2Proof.Machine

/-! ## Published figures -/

/-- A published pair of costs: typical, worst, in ns rather than cy (R252). -/
structure Cost where
  typ : Nat
  worst : Nat
  ns : Bool
  deriving DecidableEq, Repr

/-- The layout of R252 for section 1. -/
def Cost.entry (c : Cost) : DWord := dw (c.typ % 2 ^ 28) ||| dw (c.worst % 2 ^ 28) <<< 28 ||| b64 c.ns <<< 63

def cy (t w : Nat) : Cost := ⟨t, w, false⟩
def ns (t w : Nat) : Cost := ⟨t, w, true⟩

/-- Fence costs of the spread placement by scope (R197): `MARK` and `FENCE.rel`, `FENCE.acq`, worst of `FENCE.full`. -/
def spreadFences : List (Cost × Cost × Nat) :=
  [(cy 4 12, cy 2 8, 20), (cy 4 12, cy 2 8, 20), (cy 40 120, cy 30 80, 200), (cy 90 300, cy 40 100, 400),
   (ns 200 900, ns 50 100, 1000), (ns 350 2600, ns 50 2100, 4700), (ns 2100 22000, ns 100 10100, 32000),
   (ns 5000 64000, ns 200 40200, 104000)]

/-- Release cost and `FENCE.full` worst by scope and placement class, where they differ from spread (R255). -/
def classFence (scope cls : Nat) : Option (Cost × Nat) :=
  match scope, cls with
  | 4, 1 => some (ns 150 700, 800)
  | 4, 2 => some (ns 100 500, 600)
  | 4, 3 => some (ns 250 1100, 1200)
  | 5, 1 => some (ns 250 2450, 4550)
  | 5, 2 => some (ns 150 2300, 4400)
  | 5, 3 => some (ns 400 2800, 4900)
  | 6, 3 => some (ns 2300 22200, 32200)
  | 7, 3 => some (ns 5200 64200, 104200)
  | _, _ => none

/-- Section 1: fence cost of a kind, a scope and a placement class; `FENCE.full` publishes the sum of the two typical
figures (R255). A scope that the build lacks keeps the figures of the standard build, and so does a module with failed resources, here and in
sections 5 to 7 (DESIGN CHOICE, log entry 75). -/
def fenceEntry (kind scope cls : Nat) : Cost :=
  let x := spreadFences.getD scope (cy 0 0, cy 0 0, 0)
  let y := (classFence scope cls).getD (x.1, x.2.2)
  match kind with
  | 0 => y.1
  | 1 => x.2.1
  | _ => ⟨y.1.typ + x.2.1.typ, y.2, y.1.ns⟩

/-! Latency tables of section 6 (R254), rows in the printed order; a figure that is a formula or a reference is 0. -/

/-- R50. -/
def tableControl : List Cost :=
  [cy 1 1, cy 3 3, cy 12 34, cy 8 18, cy 1 1, cy 1 1, cy 0 5, cy 1 1, cy 0 0, cy 2 2, cy 0 0, cy 1 1, cy 1 1, cy 6 20, cy 1 1,
   cy 2 2, cy 2 6, cy 1 5, cy 0 0, cy 1 1, cy 0 0, cy 1 1]

/-- R85. -/
def tableLoads : List Cost := [cy 3 3, cy 4 8, cy 30 70, ns 80 2450, ns 190 3100, ns 1400 19000, ns 3500 58000]

/-- R91. -/
def tableVector : List Cost :=
  [cy 2 2, cy 4 4, cy 2 2, cy 3 3, cy 6 6, cy 7 7, cy 4 4, cy 14 14, cy 9 9, cy 2 2, cy 1 1, cy 2 2, cy 3 7, cy 1 5, cy 0 0,
   cy 1 1]

/-- R145. -/
def tableEngines : List Cost :=
  [cy 1 1, cy 1 1, cy 1 1, cy 4 12, cy 1 1, cy 1 1, cy 1 1, cy 3 6, cy 2 2, cy 2 4, cy 0 0, cy 0 0, cy 128 256, ns 500 3200,
   cy 0 0, cy 0 0, cy 0 0, cy 20 60]

/-- R203, R215, R217. -/
def tableAtomics : List Cost := [ns 90 2500, ns 1500 19500, ns 3600 58500]
def tableSemaphores : List Cost := [cy 2 2, ns 60 800, ns 1400 19000, cy 20 40]
def tableBarriers : List Cost := [cy 80 300, ns 250 1100, ns 500 3200, ns 3000 24000, ns 8000 70000]

/-- R278. -/
def tableSystem : List Cost :=
  [cy 4 8, cy 2 2, cy 2 2, cy 4 12, ns 3400 6000, cy 1 1, cy 2 4, ns 10 40, cy 6 20, ns 100 400, ns 60 1500, cy 8 20, cy 1 1,
   ns 300 1200, cy 0 0]

/-- R303: two pairs of figures in each row. -/
def tableCommit : List Cost := [ns 600 2500, ns 600 2000, ns 4000 12000, ns 3500 10000, ns 16000 46000, ns 14000 40000]

/-- R356. -/
def tableFabric : List Cost :=
  [cy 3 3, cy 1 4, cy 8 20, ns 800 2000, cy 4 4, cy 0 0, cy 2 2, cy 8 8, ns 8000 20000]

/-- R170. -/
def tableRelief : List Cost := [cy 68 72, cy 68 72]

/-- A latency table by number. -/
def latencyTable (t : Nat) : List Cost :=
  match t with
  | 0 => tableControl
  | 1 => tableLoads
  | 2 => tableVector
  | 3 => tableEngines
  | 4 => tableAtomics
  | 5 => tableSemaphores
  | 6 => tableBarriers
  | 7 => tableSystem
  | 8 => tableCommit
  | 9 => tableFabric
  | 10 => tableRelief
  | _ => []

/-- Whether two reticle fields share an edge (R229). -/
def fieldsTouch (f g : Nat) : Bool :=
  (f / 4 == g / 4 && (f + 1 == g || g + 1 == f)) || f + 4 == g || g + 4 == f

/-- Dies at work of a package, compute chiplets or home dies: those that are neither fenced nor lost (R251, R370, R373). -/
def workingDies (s : State) (pkg : BitVec 7) (home : Bool) : Nat :=
  64 - (s.health.lostDies.filter (fun x => x.1 == pkg && decide (64 ≤ x.2.toNat) == home)).length

/-- Header entries (R251): a chiplet that works has its four layers. (DESIGN CHOICE, log entry 79.) -/
def headerEntry (s : State) (e : Nat) : DWord :=
  let pkg := (corePkg s.core.id).toNat
  let here := fun (p : Nat) => s.health.packages.getLsbD p
  match e with
  | 0 =>
    let pres := dw (2 ^ ((maxScope s).toNat + 1) - 1)
    let pods := ((List.range 16).filter (fun q => (List.range 8).any (fun i => here (8 * q + i)))).length
    let pks := ((List.range 8).filter (fun i => here (pkg / 8 * 8 + i))).length
    1 ||| pres <<< 16 ||| dw pkg <<< 24 ||| dw (pks - 1) <<< 31 ||| dw (pods - 1) <<< 35
  | 1 =>
    let chips := workingDies s (corePkg s.core.id) false
    dw (4 * chips) ||| dw chips <<< 9 ||| dw (workingDies s (corePkg s.core.id) true) <<< 16
  | _ => 0

/-- How long the 1,024 exchanges of bring-up from a field to a neighbouring one take, each less than 2^15 ns (DESIGN CHOICE, log entry 6). -/
def exchanges (pkg : BitVec 7) (f g : Nat) : List Nat := (List.range 1024).map (fun i => Config.exchangeTime pkg.toNat f g i % 2 ^ 15)

/-- Section 3 (R253), as step 5 of bring-up measures it (R388): half the mean difference of the one-way times between two fields, which
holds the true offset of field g against field f, and half their spread plus 1 ns, within which the true offset lies. The spread is that of
the times of both ways, net of the offset. (DESIGN CHOICE, log entry 6.) -/
def offsetEntry (pkg : BitVec 7) (f g : Nat) : DWord :=
  let there := exchanges pkg f g
  let back := exchanges pkg g f
  let half : Int := ((there.sum : Int) - back.sum) / 2048
  let spread := (there ++ back).foldl max 0 - (there ++ back).foldl min (2 ^ 15)
  let ofs := dw (trueOffset pkg g) - dw (trueOffset pkg f) + BitVec.ofInt 64 half
  (ofs &&& 0xFFFFFFFFFF) ||| dw (spread / 2 + 1) <<< 40

/-- The entry of the discovery table at an index (R250): nothing before bring-up has built the table (R388). -/
def discEntry (s : State) (x : Nat) : DWord :=
  let e := x % 4096
  if s.health.bootStep < 6 then 0
  else match x / 4096 with
  | 0 => headerEntry s e
  | 1 => if e < 96 then (fenceEntry (e / 32) (e / 4 % 8) (e % 4)).entry else 0
  | 2 => if e < 64 ∧ fieldsTouch (e / 8) (e % 8) then Config.measured 2 e &&& 0x0000FFFFFFFFFFFF else 0
  | 3 => if e < 64 ∧ fieldsTouch (e / 8) (e % 8) then offsetEntry (corePkg s.core.id) (e / 8) (e % 8) else 0
  | 4 => if e = 0 then dw Config.wakeNarrow else if e = 1 then dw Config.wakeSleep else 0
  | 5 => if e = 0 then 1 ||| 11 <<< 16 else 0
  | 6 => match (latencyTable (e / 64))[e % 64]? with | some c => c.entry | none => 0
  | 7 => if e < 6 then let c := Config.promiseClass e; dw c.1 ||| dw c.2 <<< 32 else 0
  | _ => 0

/-- `DISC` (R270). -/
def execDisc (d a : BitVec 5) (fa : Bool) (s : State) : Out :=
  lateScalar (wordDisc d a fa) anywhere d [srcS a fa]
    (fun s => let x := readS s a; if x.toNat < 2 ^ 16 then discEntry s x.toNat else 0) s

/-! ## Monitors (R271, R381) -/

/-- Nominal supply of a region in mV, between 650 and 850 (R381). (DESIGN CHOICE, log entry 5.) -/
def nominal (r : Nat) : Nat := 650 + (Config.nominalSupply r).toNat % 201

/-- `VMON` (R381): the lowest supply of the last 1 µs, which lies below 92 % of nominal when an alarm fell in it.
(DESIGN CHOICE, log entry 5.) -/
def vmonValue (s : State) (r : Nat) : DWord :=
  let nom := nominal r
  let raw := (Config.sensor s.fresh).toNat % 2 ^ 16
  let recent := match (regionRec s r).lastAlarm with | some t => decide (s.now.toNat < t.toNat + 1000) | none => false
  let low := (92 * nom - 1) / 100
  let mv := if recent then raw % (low + 1) else raw
  dw mv ||| dw nom <<< 16

/-- A register of a power region (R381). (DESIGN CHOICE, log entry 5.) -/
def prdValue (s : State) (x : DWord) : DWord :=
  let self := x.getLsbD 7
  let r := if self then coreRegion s.core.id else fieldN x 0 4
  let p := regionRec s r
  if !onlyBits x 0xFF8F then 0
  else
    match fieldN x 8 8 with
    | 0x00 => p.limit.setWidth 64
    | 0x01 => p.step.setWidth 64 ||| b64 p.str <<< 2 ||| b64 p.cap <<< 3 ||| b64 p.nsub <<< 4 ||| p.ndrp.setWidth 64 <<< 16
    | 0x02 | 0x03 | 0x04 | 0x05 => (Config.sensor s.fresh).setWidth 64 &&& 0xFFF
    | 0x06 => vmonValue s r
    | 0x07 => (Config.sensor s.fresh).setWidth 64
    | 0x10 =>
      match self, s.core.grid.degraded with
      | true, some c => 1 ||| c.setWidth 64 <<< 1
      | _, _ => 0
    | _ => 0

/-- `PRD` (R271, R381). A measurement is a free value (DESIGN CHOICE, log entry 5). -/
def execPrd (d a : BitVec 5) (fa : Bool) (s : State) : Out :=
  let w := wordPrd d a fa
  gate anywhere w s fun s => issue w ⟨[srcS a fa], [.s d]⟩ s fun s =>
    .next (retire (deliverLater (.scalar d (prdValue s (readS s a))) { s with fresh := s.fresh + 1 }))

end Sys2Proof.Machine
end

