-- ==== Sys2Proof/Machine/CopyCmd.lean ====
section
/-! DEFINITION. The commands of the copy queue as they issue, and their promises (R140-R144, R274, R276). -/

namespace Sys2Proof.Machine

/-! ## Parameters (R140, R143, R144, R274, R276) -/

def copySsp (p : Vector DWord 4) : Nat := fieldN p[3] 0 2
def copyDsp (p : Vector DWord 4) : Nat := fieldN p[3] 2 2
def copyOrd (p : Vector DWord 4) : BitVec 24 := field p[3] 34 24

/-- A multiple of 4. -/
def mult4 (x : DWord) : Bool := x.toNat % 4 == 0

/-- The rules of `s+3` that `COPY` and `COPY2D` share: spaces, ordinal, `LATE`. -/
def copyShared (s : State) (p : Vector DWord 4) : Bool :=
  let a := copySsp p
  let b := copyDsp p
  let ord := (copyOrd p).toNat
  decide (a < 3) && decide (b < 3) && !(a == 2 && b == 2) &&
    (if a = 2 ∨ b = 2 then decide (ord < (ownLaunch s).cores) else ord == 0) &&
    fieldN p[3] 59 2 != 3 && !p[3].getLsbD 58

/-- `COPY` (R140). -/
def copySpec : CmdSpec where
  op := .copy
  queue := fun _ => 5
  rules := fun s p => ⟨mult4 p[0], mult4 p[1], mult4 p[2] && onlyBits p[2] (bitsMask 0 32),
    copyShared s p && fieldN p[3] 4 30 == 0⟩

def execCopy (sig wa wb wc sp : BitVec 5) (s : State) : Out :=
  issueCommand (wordCopy sig wa wb wc sp) copySpec sig wa wb wc sp s

/-- `COPY2D` (R140). -/
def copy2dSpec : CmdSpec where
  op := .copy2d
  queue := fun _ => 5
  rules := fun s p => ⟨mult4 p[0], mult4 p[1], fieldN p[2] 0 2 == 0 && fieldN p[2] 32 2 == 0, copyShared s p⟩

def execCopy2d (sig wa wb wc sp : BitVec 5) (s : State) : Out :=
  issueCommand (wordCopy2d sig wa wb wc sp) copy2dSpec sig wa wb wc sp s

/-- The common fields with PSC of 0 or 1 and a `LATE` that is not reserved. -/
def portFields (x : DWord) : Bool := decide (fieldN x 61 3 ≤ 1) && fieldN x 59 2 != 3

/-- `SEND` (R143): a length that the limits exclude, whatever it is, is met at start (R334; DEDUCED, log entry 70). -/
def sendSpec : CmdSpec where
  op := .sendCmd
  queue := fun _ => 5
  rules := fun _ p => ⟨true, onlyBits p[1] (bitsMask 0 32), true,
    onlyBits p[3] (bitsMask 0 40 ||| lateMask ||| pscMask) && portFields p[3]⟩

def execSend (sig wa wb wc sp : BitVec 5) (s : State) : Out :=
  issueCommand (wordSend sig wa wb wc sp) sendSpec sig wa wb wc sp s

/-- `LBIND`, and `LUNBIND` with UNB = 1 (R144). -/
def lbindSpec : CmdSpec where
  op := .lbind
  queue := fun _ => 5
  rules := fun _ p => ⟨onlyBits p[0] (bitsMask 0 16), onlyBits p[1] (bitsMask 0 5), onlyBits p[2] (bitsMask 0 32),
    onlyBits p[3] (bitsMask 0 2)⟩

def execLbind (sig wa wb wc sp : BitVec 5) (s : State) : Out :=
  issueCommand (wordLbind sig wa wb wc sp) lbindSpec sig wa wb wc sp s

/-- `LUNBIND` (R144): the same word as `LBIND`; the UNB parameter decides. -/
def execLunbind (sig wa wb wc sp : BitVec 5) (s : State) : Out :=
  issueCommand (wordLunbind sig wa wb wc sp) lbindSpec sig wa wb wc sp s

/-- `COPEN` (R274). -/
def copenSpec : CmdSpec where
  op := .copen
  queue := fun _ => 5
  rules := fun _ p => ⟨onlyBits p[0] (bitsMask 0 3), onlyBits p[1] (bitsMask 0 40), onlyBits p[2] (bitsMask 0 25), p[3] == 0⟩

def execCopen (sig wa wb wc sp : BitVec 5) (s : State) : Out :=
  issueCommand (wordCopen sig wa wb wc sp) copenSpec sig wa wb wc sp s

/-- `CSTREAM` (R276). -/
def cstreamSpec : CmdSpec where
  op := .cstream
  queue := fun _ => 5
  rules := fun _ p => ⟨mult4 p[0], onlyBits p[1] (bitsMask 0 3 ||| bitsMask 44 20),
    onlyBits p[2] (bitsMask 0 32) && mult4 p[2] && decide (4 ≤ p[2].toNat) && decide (p[2].toNat ≤ 2 ^ 31)
      && decide (fieldN p[1] 32 32 + p[2].toNat ≤ 2 ^ 32),
    onlyBits p[3] (lateMask ||| pscMask) && portFields p[3]⟩

def execCstream (sig wa wb wc sp : BitVec 5) (s : State) : Out :=
  issueCommand (wordCstream sig wa wb wc sp) cstreamSpec sig wa wb wc sp s

/-! ## The shape of a copy (R140, R141) -/

/-- Rows and bytes of a row. -/
def copyRows (c : Command) : Nat × Nat :=
  if c.op = .copy2d then (fieldN c.params[3] 18 16, 4 * fieldN c.params[3] 4 14) else (1, fieldN c.params[2] 0 32)

/-- Bytes in all. -/
def copyBytes (c : Command) : Nat := (copyRows c).1 * (copyRows c).2

/-- Pieces of 64 bytes in a row, and in all. -/
def rowPieces (c : Command) : Nat := ((copyRows c).2 + 63) / 64
def copyPieces (c : Command) : Nat := (copyRows c).1 * rowPieces c

/-- The addresses of a row: source and destination. -/
def rowAddrs (c : Command) (r : Nat) : DWord × DWord :=
  if c.op = .copy2d then
    (c.params[0] + dw r * (field c.params[2] 0 32).signExtend 64, c.params[1] + dw r * (field c.params[2] 32 32).signExtend 64)
  else (c.params[0], c.params[1])

/-- Piece `k`: source, destination, length. -/
def copyPiece (c : Command) (k : Nat) : DWord × DWord × Nat :=
  let n := Nat.max 1 (rowPieces c)
  let a := rowAddrs c (k / n)
  let o := 64 * (k % n)
  (a.1 + dw o, a.2 + dw o, Nat.min 64 ((copyRows c).2 - o))

/-! ## Promises (R142) -/

/-- The 64 KiB pages that one side of a copy touches. -/
def sidePages (c : Command) (dst : Bool) : List Nat :=
  ((List.range (copyRows c).1).flatMap (fun r =>
    let a := (if dst then (rowAddrs c r).2 else (rowAddrs c r).1).toNat
    (List.range ((a % 65536 + (copyRows c).2 + 65535) / 65536)).map (fun i => a / 65536 + i))).eraseDups

/-- The promise class of a place in another package. -/
def pkgClass (s : State) (p : BitVec 7) : Nat :=
  if p = corePkg s.core.id then 1 else if p.toNat / 8 = (corePkg s.core.id).toNat / 8 then 3 else 4

/-- The class of a global page: by where it is homed; class 1 for one that does not translate when the command starts (DESIGN CHOICE, log
entry 88). -/
def pageClass (s : State) (page : Nat) : Nat :=
  match (translate (page * 65536) false s).2 with
  | .ok pa => if isHostPa (paCanon pa) then 1 else pkgClass s (paPkg pa)
  | .fault _ => 1

/-- The class of the core of an ordinal. -/
def ordClass (s : State) (ord : BitVec 24) : Nat :=
  let p := corePkg (ordPlace s ord)
  if p = corePkg s.core.id then 2 else pkgClass s p

/-- The slower of two classes: the greater L. -/
def slower (a b : Nat) : Nat := if (Config.promiseClass a).1 < (Config.promiseClass b).1 then b else a

/-- The class of one side of a copy. -/
def sideClass (s : State) (c : Command) (dst : Bool) : Nat :=
  match (if dst then copyDsp c.params else copySsp c.params) with
  | 0 => 0
  | 1 => (sidePages c dst).foldl (fun x p => slower x (pageClass s p)) 1
  | _ => ordClass s (copyOrd c.params)

/-- The promise of a command of the copy queue that computes one, started at `t` (R142, R276); a copy of no bytes promises its
start. A copy with two global sides counts the pages of both (DEDUCED, log entry 43). -/
def promiseOf (s : State) (c : Command) (t : DWord) : Option DWord :=
  let span := fun (cls bytes pages rows : Nat) =>
    let l := Config.promiseClass cls
    t + dw (l.1 + (bytes * 1000 + l.2 - 1) / l.2 + 4000 * (pages - 1) + 4 * rows)
  match c.op with
  | .copy | .copy2d =>
    if copyBytes c = 0 then some t
    else
      let pages := (if copySsp c.params = 1 then sidePages c false else []) ++ (if copyDsp c.params = 1 then sidePages c true else [])
      some (span (slower (sideClass s c false) (sideClass s c true)) (copyBytes c) (Nat.max 1 pages.eraseDups.length)
        (if c.op = .copy2d then (copyRows c).1 else 0))
  | .sendCmd => some (span (ordClass s (field c.params[3] 16 24)) c.params[2].toNat 1 0)
  | .cstream => some (span 5 c.params[2].toNat 1 0)
  | .srun | .gldc | .ggo | .gmma | .lbind | .copen => none

end Sys2Proof.Machine
end

