-- ==== Sys2Proof/Machine/CopyWork.lean ====
section
/-! DEFINITION. The copy engine at work (R141-R144, R274, R276): pieces of copies, accesses to the pools of other cores, packets,
labels, probes and check windows at the sender. -/

namespace Sys2Proof.Machine

/-- A command of the copy queue ends with ERR and no engine fault. -/
def quietError (s : State) : State := updExec 5 (fun r => { r with finished := true, err := true }) s

/-- The next piece, window or wait of the copy engine. -/
def setCursor (n : Nat) (s : State) : State := updExec 5 (fun r => { r with cursor := n }) s

/-! ## Accesses to a pool from outside (R140, R141, R167) -/

/-- What the core that holds an ordinal makes of an access. -/
inductive RemoteAns where
  | ok (bs : List Byte)
  | refused
  | error
  /-- The access stays where it is (a frozen core, R331). -/
  | stays
  deriving DecidableEq, Repr

/-- Whether an access is the first of its copy to touch a buffer: the row before does not reach it, nor do the pieces before in its
row. -/
def firstTouch (e : RemotePool) (b : Buffer) : Bool :=
  decide (e.addr ≤ Nat.max e.row b.base) &&
    (match e.before with | some p => decide (p + e.width ≤ b.base) || decide (b.base + b.size ≤ p) | none => true)

/-- A placement of bytes [a, a+n) against one buffer of the modelled core (R141, R167): a copy that covers the whole buffer waits for
it to be empty; `e` is the access of the copy that brings the bytes. -/
def remotePlace (s : State) (i a n : Nat) (e : Option RemotePool) : BufAnswer :=
  let b := bufOf s i
  let whole := match e with | some e => decide (e.lo ≤ b.base) && decide (b.base + b.size ≤ e.hi) && firstTouch e b | none => false
  match b.state with
  | .empty => .allowed
  | .filling =>
    if whole then .wait
    else if (List.range ((n + 3) / 4)).any (fun k =>
        decide (b.base ≤ a + 4 * k) && decide (a + 4 * k < b.base + b.size) && isPlaced s (a + 4 * k)) then .fault
    else .allowed
  | .full | .draining => .wait

/-- Bytes placed in the pool of the modelled core from outside; a place that is not a multiple of 4 is an error
(DESIGN CHOICE, log entry 71). -/
def placeRemote (e : Option RemotePool) (a : Nat) (bs : List Byte) (s : State) : State × RemoteAns :=
  if a % 4 ≠ 0 ∨ !enginePoolOk s a bs.length then (s, .error)
  else
    let ans := (buffersAt s a bs.length).map (fun i => remotePlace s i a bs.length e)
    if ans.contains .fault then (s, .error)
    else if ans.contains .wait then (s, .refused)
    else (placeBytes a bs true false s, .ok [])

/-- A read of the pool of the modelled core from outside: buffers answer as to a local engine, and count no reader (DEDUCED, log entry
44). -/
def readRemote (a n : Nat) (s : State) : State × RemoteAns :=
  if a % 4 ≠ 0 ∨ !enginePoolOk s a n then (s, .error)
  else
    let part := fun (i : Nat) => let b := bufOf s i; (Nat.max a b.base, Nat.min (a + n) (b.base + b.size))
    let ans := (buffersAt s a n).map (fun i => bufEngineRead s i (part i).1 ((part i).2 - (part i).1))
    if ans.contains .fault then (s, .error)
    else if ans.contains .wait then (s, .refused)
    else (s, .ok (poolRead s a n))

/-- Data for a label of a core (R143, R345): the buffer bound to it, and the pool address of a flow offset. -/
def labelAddr (c : Core) (label : BitVec 16) (ofs n : Nat) : Option Nat :=
  match c.port.recvLabels.find? (fun x => x.1 == label) with
  | none => none
  | some x =>
    let b := vgetD c.pool.bufs x.2.toNat Buffer.none
    if b.declared ∧ ofs + n ≤ b.size then some (b.base + ofs) else none

/-- `SEND` data placed at the modelled core: a packet's, or a part of one whose flow bytes end at `stop`. -/
def placeLabel (label : BitVec 16) (ofs stop : Nat) (bs : List Byte) (s : State) : State × RemoteAns :=
  match labelAddr s.core label ofs (stop - ofs) with
  | none => (s, .error)
  | some a => placeRemote none a bs s

/-- What a save area says of `SEND` data for the core it holds: it waits, unless its label is not bound there (R143). -/
def savedLabel (s : State) (launch : Nat) (sec : Bool) (ord : BitVec 24) (label : BitVec 16) (ofs n : Nat) : RemoteAns :=
  match s.sched.saves.find? (fun a => a.launch == launch && a.sec == sec && a.ord == ord) with
  | some a => if (labelAddr a.image label ofs n).isNone then .error else .refused
  | none => .refused

/-- An access that has reached the core that holds its ordinal. The answer of a core that the model does not hold is free (DESIGN CHOICE, log
entry 13). -/
def remoteAccess (e : RemotePool) (s : State) : State × RemoteAns :=
  match holderOf s e.launch e.sec e.ord with
  | .own =>
    match e.label, e.write with
    | some l, _ => placeLabel l e.addr e.hi e.data s
    | none, true => placeRemote (some e) e.addr e.data s
    | none, false => readRemote e.addr e.len s
  | .frozen => (s, .stays)
  | .away =>
    match e.label with
    | some l => (s, savedLabel s e.launch e.sec e.ord l e.addr (e.hi - e.addr))
    | none => (s, .refused)
  | .gone => (s, .error)
  | .other _ =>
    let x := freeAnswer 3 s
    match x.2 with
    | 0 => if e.write || e.label.isSome then (x.1, .ok []) else let y := freeBytes e.len x.1; (y.1, .ok y.2)
    | 1 => (x.1, .refused)
    | _ => (x.1, .error)

/-- A piece of the modelled core that waits for its answer: at another core of the package, or on the ring. -/
def pieceOut (s : State) (id : Nat) : Option RemotePool :=
  s.net.remote.find? (fun e => e.sender == s.core.id && e.cmd == id)

def pieceOnRing (s : State) (id : Nat) : Bool :=
  s.net.ringReqs.any (fun r => r.core == s.core.id && r.launch == s.core.launch &&
    (match r.body with | .copyData e => e.cmd == id | _ => false))

def dropPiece (id : Nat) (s : State) : State :=
  { s with net.remote := s.net.remote.filter (fun e => !(e.sender == s.core.id && e.cmd == id)) }

/-- The packet of an access within the package: copy data, or the request of a read (R340, R341). -/
def remotePacket (e : RemotePool) (s : State) : Packet :=
  let p := controlPacket (if e.write then 4 else 0) (corePkg s.core.id) s.core.id (ordPlace s e.ord) 0 (BitVec.ofNat 32 e.addr) 0 e.cmd 0
  { p with cls := kindClass (if e.write then 4 else 0), data := if e.write then e.data else [], launch := e.launch, sec := e.sec, ord := e.ord }

/-- An access sent to the core of an ordinal: in a packet within the package, or over the ring. -/
def sendRemote (e : RemotePool) (s : State) : State :=
  let dst := ordPlace s e.ord
  if corePkg dst = corePkg s.core.id then
    let id := s.net.nextPkt
    let s := sendPacket (remotePacket e s) s
    { s with net.remote := s.net.remote ++ [{ e with pkt := id, retryAt := 0 }] }
  else ringSend { ownRequest s 1 0 (.copyData e) with dst := corePkg dst } s

/-- The access of a command of the modelled core. -/
def ownRemote (s : State) (c : Command) (ord : BitVec 24) (addr : Nat) : RemotePool where
  write := false
  launch := s.core.launch
  sec := s.core.sec
  sender := s.core.id
  cmd := c.id
  ord := ord
  addr := addr
  data := []
  len := 0
  retryAt := 0
  pkt := 0
  lo := 0
  hi := 0
  row := 0
  width := 0
  before := none
  label := none

/-! ## Copies (R141) -/

/-- Bytes written to memory, line by line. -/
def engineGlobalWrite (va : Nat) (bs : List Byte) (scope : BitVec 3) (s : State) : State × EngWrite :=
  let head := 128 - va % 128
  if bs.length ≤ head then engineLineWrite va bs scope s
  else
    match engineLineWrite va (bs.take head) scope s with
    | (s', .done) => engineLineWrite (va + head) (bs.drop head) scope s'
    | r => r

/-- Bytes written into the own pool by a copy. -/
def engineOwnWrite (a : Nat) (bs : List Byte) (s : State) : State × EngWrite :=
  if !enginePoolOk s a bs.length then (s, .fault subMemory a false)
  else if (List.range (bs.length / 4)).all (fun k => engineWordOk s (a + 4 * k)) then (placeBytes a bs false false s, .done)
  else (s, .fault subBuffer a false)

/-- A piece has been written. -/
def pieceDone (c : Command) (k : Nat) (s : State) : State :=
  let s := setCursor (k + 1) s
  if copyPieces c ≤ k + 1 then finishCmd 5 s else s

/-- Piece `k` written at its destination in the own pool or in memory. -/
def writePiece (c : Command) (k : Nat) (bs : List Byte) (s : State) : State :=
  let a := (copyPiece c k).2.1.toNat
  let r := if copyDsp c.params = 0 then engineOwnWrite a bs s
    else engineGlobalWrite a bs (storeScope s (cmdPsc c)) s
  match r with
  | (s', .done) => pieceDone c k (dropPiece c.id s')
  | (s', .wait) => s'
  | (s', .fault sub addr t) => engineStop 5 5 sub addr k true t s'

/-- The run of destination bytes that row `r` of a copy belongs to: rows that touch or overlap make one run, others one each. -/
def copyRun (c : Command) (r : Nat) : Nat × Nat :=
  let h := (copyRows c).1
  let w := (copyRows c).2
  let row := fun (k : Nat) => (rowAddrs c k).2.toNat
  let st : Int := if c.op = .copy2d then (field c.params[2] 32 32).toInt else 0
  if st.natAbs ≤ w then (Nat.min (row 0) (row (h - 1)), Nat.max (row 0) (row (h - 1)) + w) else (row r, row r + w)

/-- Piece `k` sent to the pool of another core, with the run of destination bytes that it is part of (R141). -/
def sendPiece (c : Command) (k : Nat) (bs : List Byte) (s : State) : State :=
  let e := ownRemote s c (copyOrd c.params) (copyPiece c k).2.1.toNat
  let r := k / Nat.max 1 (rowPieces c)
  sendRemote { e with
    write := true, data := bs, len := bs.length, lo := (copyRun c r).1, hi := (copyRun c r).2, row := (rowAddrs c r).2.toNat
    width := (copyRows c).2, before := if r = 0 then none else some (rowAddrs c (r - 1)).2.toNat } s

/-- A read of the source of a copy: bytes of a check window that has not passed are waited for (R164, R167).
(DEDUCED, log entry 67.) -/
def copyRead (sp : Nat) (a : DWord) (n : Nat) (s : State) : State × EngRes :=
  if sp = 0 then checkedRead 5 a.toNat n s else engineRead 5 .global a n s

/-- The next step of a copy: read the piece, then write it; a remote side is awaited. -/
def copyStep (c : Command) (k : Nat) (s : State) : State :=
  let x := copyPiece c k
  if pieceOnRing s c.id then s
  else
    match pieceOut s c.id with
    | some e => if !e.write && e.data.length == e.len then writePiece c k e.data s else s
    | none =>
      match copySsp c.params with
      | 2 => sendRemote { ownRemote s c (copyOrd c.params) x.1.toNat with len := x.2.2 } s
      | sp =>
        match copyRead sp x.1 x.2.2 s with
        | (s', .ok bs _) => if copyDsp c.params = 2 then sendPiece c k bs s' else writePiece c k bs s'
        | (s', .wait) => s'
        | (s', .fault sub addr t) => engineStop 5 5 sub addr k false t s'
        | (s', .error) => updExec 5 (fun r => { r with stopped := true }) s'

/-! The parameters of a `SEND` (R143). -/

def sendLabel (c : Command) : BitVec 16 := field c.params[3] 0 16
def sendOrd (c : Command) : BitVec 24 := field c.params[3] 16 24
def sendOfs (c : Command) : Nat := fieldN c.params[1] 0 32
def sendLen (c : Command) : Nat := c.params[2].toNat

/-- Bytes of a `SEND` that one data flit of the ring carries (R361). -/
def ringPayload : Nat := 448

/-- A part of a `SEND` over the ring has been placed: the next one follows, or the `SEND` completes. -/
def sendPartDone (c : Command) (r : Running) (s : State) : State :=
  if 16 ≤ r.cursor ∧ ringPayload * (r.cursor - 15) < sendLen c then setCursor (r.cursor + 1) s else finishCmd 5 s

/-- The answer to a piece of the modelled core. -/
def pieceAnswer (id : Nat) (a : RemoteAns) (s : State) : State :=
  match queueHead s 5, execOf s 5 with
  | some c, some r =>
    if c.id ≠ id then dropPiece id s
    else
      match a with
      | .ok bs =>
        if c.op = .sendCmd then sendPartDone c r (dropPiece id s)
        else if copyDsp c.params = 2 then pieceDone c r.cursor (dropPiece id s)
        else { s with net.remote := s.net.remote.filter (fun e => !(e.sender == s.core.id && e.cmd == id)) ++
                 [{ ownRemote s c (copyOrd c.params) 0 with data := bs, len := bs.length }] }
      | .refused => s
      | .error => commandError 5 (dropPiece id s)
      | .stays => s
  | _, _ => dropPiece id s

/-- Whether an access has been answered with the bytes it asked for. -/
def RemotePool.answered (e : RemotePool) : Bool := !e.write && e.len != 0 && e.data.length == e.len && e.label.isNone

/-- Whether the packet that carries an access has arrived (R340). -/
def accessArrived (s : State) (e : RemotePool) : Bool := s.net.packets.any (fun p => p.id == e.pkt && nextArrived s p)

/-- The answer to an access goes back in a packet: the bytes of a read as a response, anything else as a placement acknowledgement
(R340, R341). -/
def answerAccess (e : RemotePool) (a : RemoteAns) (s : State) : State :=
  match s.net.packets.find? (fun p => p.id == e.pkt) with
  | none => s
  | some p =>
    let back := fun (kind : BitVec 4) (result : BitVec 2) (bs : List Byte) =>
      { controlPacket kind p.pkg p.receiver p.sender 0 p.ofs 0 e.cmd result with
        cls := kindClass kind.toNat, data := bs, launch := e.launch, sec := e.sec }
    match a with
    | .stays => s
    | .refused => sendPacket (back 5 1 []) (updPacket p.id (fun x => { x with answered := true }) s)
    | .error => sendPacket (back 5 2 []) (dropPacket p.id s)
    | .ok bs => sendPacket (back (if e.write then 5 else 1) 0 bs) (dropPacket p.id s)

/-- Whether the core that an access has reached is frozen by a debug halt. -/
def accessFrozen (s : State) (e : RemotePool) : Bool := holderOf s e.launch e.sec e.ord == .frozen

/-- `REMOTE_POOL_ACCESS` (R141, R331): the `idx`th access has reached the core that holds its ordinal, and is served, placed, refused, or
ends in an error; its sender is told by a packet. Data for a frozen core goes into its holding buffer, or is refused where that is
full. -/
def execRemotePoolAccess (idx : Nat) (s : State) : Out :=
  match s.net.remote[idx]? with
  | none => .next s
  | some e =>
    if e.retryAt ≠ 0 ∨ e.answered ∨ !accessArrived s e then .next s
    else if e.write ∧ accessFrozen s e then
      .next (if holdingRoom s (.packet e.pkt) then holdData (.packet e.pkt) s else answerAccess e .refused s)
    else
      let x := remoteAccess e s
      .next (answerAccess e x.2 x.1)

/-! ## Meters and probes at the sender (R335, R346, R347) -/

/-- A probe for a slot of the modelled core (R348). -/
def launchProbe (slot : BitVec 3) (ord : BitVec 24) (label : BitVec 16) (promoted : Bool) (lease : Nat) (before : BitVec 3)
    (s : State) : State :=
  { s with
    net.probes := s.net.probes ++ [{
      id := s.net.nextPkt, pkg := corePkg s.core.id, pos := routerOf s.core.id, input := 0, dest := routerOf (ordPlace s ord)
      yFirst := false, b := 0, reserved := [], state := .launch, sender := s.core.id, receiver := ordPlace s ord, ord := ord, slot := slot
      label := label, promoted := promoted, lease := lease, before := before }]
    net.nextPkt := s.net.nextPkt + 1 }

/-- The highest-numbered slot that a promotion may take (R273). -/
def freeSlot (s : State) : Option (BitVec 3) :=
  ((List.range 8).map (fun i => BitVec.ofNat 3 (7 - i))).find? (fun h =>
    let st := (handleOf s h).st
    st == 0 || st == 4 || st == 5)

/-- A meter trips (R335, R347): a slot is taken and a probe launched, or the entry goes into hold-off. -/
def meterTrip (m : Meter) (s : State) : State :=
  let key := fun (x : Meter) => x.dest == m.dest && x.label == m.label
  match freeSlot s with
  | none => updMeters key (fun x => { x with holdOff := 3 }) s
  | some h =>
    let before := (handleOf s h).st
    let s := setHandle h { handleOf s h with st := 6 } (updMeters key (fun x => { x with tripped := true }) s)
    launchProbe h m.dest m.label true 0 before s

/-- Room for a meter entry (R346): the one with the oldest last departure is replaced, its circuit being released. -/
def meterRoom (s : State) : State :=
  if s.core.port.meters.length < 16 then s
  else
    match s.core.port.meters.foldl (fun (b : Option Meter) m => match b with
        | none => some m
        | some x => if m.lastDeparture.toNat < x.lastDeparture.toNat then some m else some x) none with
    | none => s
    | some m =>
      let s := match m.slot with
        | some h => match ownCircuit s h with | some c => releasePromoted c s | none => s
        | none => s
      { s with core.port.meters := s.core.port.meters.filter (fun x => !(x.dest == m.dest && x.label == m.label)) }

/-- Whether the core of an ordinal of the modelled core's launch is bound and has not started. -/
def boundMember (s : State) (ord : BitVec 24) : Bool :=
  (ownLaunch s).members.any (fun m => m.sec == s.core.sec && m.ord == ord && (m.state == .assigned || m.state == .loaded))

/-- Whether a `SEND` is metered, and its threshold (R346). -/
def metered (s : State) (ord : BitVec 24) (label : BitVec 16) : Option Nat :=
  match s.core.port.sendLabels.find? (fun x => x.1 == label) with
  | none => none
  | some x =>
    match holderOf s s.core.launch s.core.sec ord with
    | .own | .frozen | .other _ => if corePkg (ordPlace s ord) = corePkg s.core.id then some x.2.toNat else none
    | .away =>
      if boundMember s ord ∧ corePkg (ordPlace s ord) = corePkg s.core.id then some x.2.toNat else none
    | .gone => none

/-- Whether a `SEND` of a flow is in execution on its circuit. -/
def sendOnCircuit (m : Meter) (s : State) : Bool :=
  match queueHead s 5, execOf s 5 with
  | some c, some r => c.op == .sendCmd && sendOrd c == m.dest && sendLabel c == m.label && (r.cursor == 2 || r.cursor == 4)
  | _, _ => false

/-- One interval of a meter entry ends (R335, R346, R347, R350): the count restarts; an entry that ends it at zero is freed, unless it has a
probe out or a circuit; a promoted circuit without a `SEND` in it is released, though not under one that is still on it (DEDUCED, log
entry 58); a hold-off runs down. -/
def endInterval (m : Meter) (s : State) : State :=
  let key := fun (x : Meter) => x.dest == m.dest && x.label == m.label
  if m.slot.isNone ∧ m.count = 0 ∧ !m.tripped then
    { s with core.port.meters := s.core.port.meters.filter (fun x => !key x) }
  else
    let idle := m.slot.isSome && !m.started && !sendOnCircuit m s
    let s := updMeters key (fun x => { x with
      count := 0, holdOff := x.holdOff - 1, started := false, intervalEnd := x.intervalEnd + meterInterval s }) s
    match idle, m.slot.bind (fun h => ownCircuit s h) with
    | true, some c => releasePromoted c s
    | _, _ => s

/-- Intervals of an entry that have ended by now. -/
def settleIntervals : Nat → (Meter → Bool) → State → State
  | 0, _, s => s
  | n + 1, key, s =>
    match s.core.port.meters.find? key with
    | some m => if s.now.toNat < m.intervalEnd.toNat then s else settleIntervals n key (endInterval m s)
    | none => s

/-- A packet of a metered flow departs (R335): its bytes count in the current interval of the entry of its key, and the entry may
trip. After four intervals without a departure no entry is left that could count on. -/
def meterDepart (ord : BitVec 24) (label : BitVec 16) (n thr : Nat) (s : State) : State :=
  let key := fun (x : Meter) => x.dest == ord && x.label == label
  let s := settleIntervals 8 key s
  let s := if s.core.port.meters.any key then s
    else
      let s := meterRoom s
      { s with core.port.meters := s.core.port.meters ++
          [⟨ord, label, 0, s.now + meterInterval s, s.now, false, 0, none, false, 0, false⟩] }
  let s := updMeters key (fun x => { x with count := x.count + n, lastDeparture := s.now, started := true }) s
  match s.core.port.meters.find? key with
  | some m => if thr ≤ m.count ∧ !m.tripped ∧ m.slot = none ∧ m.holdOff = 0 then meterTrip m s else s
  | none => s

/-! ## Check windows at the sender (R344, R345) -/

/-- CRC-64/XZ of R344: reflected polynomial 0x42F0E1EBA9EA3693, one byte into the register. -/
def crc64Byte (crc : DWord) (b : Byte) : DWord :=
  (List.range 8).foldl (fun (x : DWord) _ =>
    if x.getLsbD 0 then (x >>> 1) ^^^ 0xC96C5795D7870F42 else x >>> 1) (crc ^^^ b.setWidth 64)

/-- The check of a window: its start offset as 8 bytes, then its data. -/
def windowCrc (start : Nat) (bs : List Byte) : DWord :=
  ~~~ (((leBytes 8 start) ++ bs).foldl crc64Byte (BitVec.allOnes 64))

/-- The beats of a window: data of up to 256 bytes each, then the check. -/
def windowBeats (circuit start : Nat) (bs : List Byte) : List Beat :=
  (List.range ((bs.length + 255) / 256)).map (fun i =>
    let d := (bs.drop (256 * i)).take 256
    ⟨circuit, start, start + 256 * i, none, d.length, d⟩) ++ [⟨circuit, start, start, some (windowCrc start bs), 0, []⟩]

/-- A window leaves, its bytes read from the pool (R345). -/
def sendWindow (c : Circuit) (t : TxWindow) (s : State) : State :=
  match checkedRead 5 t.src t.len s with
  | (s', .ok bs _) =>
    circuitTraffic c <| updCircuit c.id (fun x => { x with tx := x.tx.filter (fun y => y.start != t.start) ++ [{ t with retryAt := none }] })
      { s' with net.beats := s'.net.beats ++ windowBeats c.id t.start bs }
  | (_, .wait) => s
  | (s', .fault sub addr tr) => engineStop 5 5 sub addr (t.start / 64) false tr s'
  | (s', .error) => updExec 5 (fun r => { r with stopped := true }) s'

/-- A window that is to be sent again, and when. -/
def dueWindow (s : State) (c : Circuit) : Option TxWindow :=
  c.tx.find? (fun t => match t.retryAt with | some x => decide (x.toNat ≤ s.now.toNat) | none => false)

/-! ## `SEND` (R143, R335, R336) -/

/-- The entry of a `SEND`'s flow that owns a circuit. -/
def flowEntry (s : State) (c : Command) : Option (Meter × Circuit) :=
  match s.core.port.meters.find? (fun m => m.dest == sendOrd c && m.label == sendLabel c && m.slot.isSome) with
  | some m => (m.slot.bind (fun h => ownCircuit s h)).map (fun x => (m, x))
  | none => none

/-- A `SEND` leaves as a packet of a kind: 2 data, 3 the clasp with the offset at which circuit data begins. -/
def departPacket (c : Command) (bs : List Byte) (clasp : Bool) (s : State) : State :=
  let dst := ordPlace s (sendOrd c)
  let thr := metered s (sendOrd c) (sendLabel c)
  let p := controlPacket (if clasp then 3 else 2) (corePkg s.core.id) s.core.id dst (sendLabel c) (BitVec.ofNat 32 (sendOfs c))
    (if clasp then BitVec.ofNat 32 (sendOfs c + sendLen c) else 0) c.id 0
  let s := sendPacket { p with cls := 2, data := bs, launch := s.core.launch, sec := s.core.sec, ord := sendOrd c } (setCursor 1 s)
  match thr with
  | some n => meterDepart (sendOrd c) (sendLabel c) (sendLen c) n s
  | none => s

/-- Whether the length of a `SEND` keeps its limits (R143, R334). -/
def sendLegal (c : Command) : Bool := sendLen c % 4 == 0 && decide (4 ≤ sendLen c) && decide (sendLen c ≤ 4096)

/-- A `SEND` starts: how it is to travel is settled by what its flow holds then, after the intervals that have ended (R335, R336, R346,
R350). Its cursor is 0 for a packet, 3 for the clasp, 4 for the flow's circuit, on which it must keep the chain of offsets, and 16 on for
parts over the ring to another package; it becomes 1 when a packet and 2 when a window has departed. (DEDUCED, log entry 70.) -/
def sendStart (c : Command) (s : State) : State :=
  if !sendLegal c then commandError 5 s
  else if corePkg (ordPlace s (sendOrd c)) ≠ corePkg s.core.id then setCursor 16 s
  else
    let s := settleIntervals 8 (fun y => y.dest == sendOrd c && y.label == sendLabel c) s
    match flowEntry s c with
    | none => s
    | some (m, x) =>
      let key := fun (y : Meter) => y.dest == m.dest && y.label == m.label
      let s := updMeters key (fun y => { y with started := true }) s
      if !m.clasped then setCursor 3 s
      else if m.chainEnd.toNat = sendOfs c then
        setCursor 4 (updMeters key (fun y => { y with chainEnd := BitVec.ofNat 32 (sendOfs c + sendLen c) }) s)
      else releasePromoted x s

/-- A `SEND` leaves as its start has settled, or as a packet where its circuit has gone since (R350). -/
def sendDepart (c : Command) (k : Nat) (bs : List Byte) (s : State) : State :=
  match flowEntry s c with
  | none => departPacket c bs false s
  | some (_, x) =>
    if k = 4 then sendWindow x ⟨c.id, sendOfs c, sendLen c, fieldN c.params[0] 0 17, 0, none⟩ (setCursor 2 s)
    else departPacket c bs (k == 3) s

/-- A part of a `SEND` sent over the ring. -/
def sendPart (c : Command) (i : Nat) (bs : List Byte) (s : State) : State :=
  sendRemote { ownRemote s c (sendOrd c) (sendOfs c + ringPayload * i) with
    write := true, data := bs, len := bs.length, lo := sendOfs c, hi := sendOfs c + sendLen c, label := some (sendLabel c) } s

/-- Bytes of a `SEND`'s source read, and what is done with them. The source needs no alignment (DESIGN CHOICE, log entry 71). -/
def sendRead (c : Command) (o n : Nat) (f : List Byte → State → State) (s : State) : State :=
  if 2 ^ 17 ≤ c.params[0].toNat then engineStop 5 5 subMemory c.params[0].toNat 0 false false s
  else
    match checkedRead 5 (c.params[0].toNat + o) n s with
    | (s', .ok bs _) => f bs s'
    | (_, .wait) => s
    | (s', .fault sub addr t) => engineStop 5 5 sub addr 0 false t s'
    | (s', .error) => updExec 5 (fun r => { r with stopped := true }) s'

/-- The next step of a `SEND`. -/
def sendStep (c : Command) (k : Nat) (s : State) : State :=
  if 16 ≤ k then
    if pieceOnRing s c.id || (pieceOut s c.id).isSome then s
    else sendRead c (ringPayload * (k - 16)) (Nat.min ringPayload (sendLen c - ringPayload * (k - 16))) (sendPart c (k - 16)) s
  else if k = 2 then
    match flowEntry s c with
    | some (_, x) => match dueWindow s x with | some t => sendWindow x t s | none => s
    | none => s
  else if k = 1 then s
  else sendRead c 0 (sendLen c) (sendDepart c k) s

/-! ## `CSTREAM` (R276) -/

def streamLen (c : Command) : Nat := fieldN c.params[2] 0 32
def streamOfs (c : Command) : Nat := fieldN c.params[1] 32 32

/-- The next step of a `CSTREAM` with `k` bytes sent: a window that is due again, or the next window while fewer than two are
unacknowledged and the one two before it is not (R345); the command's work ends with the last acknowledgement. -/
def streamStep (c : Command) (k : Nat) (s : State) : State :=
  match ownCircuit s (field c.params[1] 0 3) with
  | none => s
  | some x =>
    match dueWindow s x with
    | some t => sendWindow x t s
    | none =>
      if streamLen c ≤ k then (if x.tx.isEmpty then finishCmd 5 s else s)
      else if 2 ≤ x.tx.length ∨ x.tx.any (fun t => t.cmd == c.id && decide (t.start + 8192 ≤ streamOfs c + k)) then s
      else
        let n := Nat.min 4096 (streamLen c - k)
        let t : TxWindow := ⟨c.id, streamOfs c + k, n, c.params[0].toNat + k, 0, none⟩
        let s' := sendWindow x t s
        if ((circuitOf s' x.id).map (fun y => y.tx.any (fun z => z.start == t.start))) = some true then setCursor (k + n) s' else s'

/-! ## `LBIND` and `COPEN` (R144, R274) -/

/-- Packets for a label that have reached the modelled core and are not placed yet (R144). -/
def labelPackets (s : State) (label : BitVec 16) : Bool :=
  s.net.packets.any (fun p => p.receiver == s.core.id && p.label == label && (p.kind == 2 || p.kind == 3) && arrived p && !p.answered)

/-- A send label is unbound: its meter entries are freed, a promoted circuit of it released as an idle one (R346). -/
def freeLabelMeters (label : BitVec 16) (s : State) : State :=
  let s := (s.core.port.meters.filter (fun m => m.label == label)).foldl (fun s m => match m.slot with
    | some h => match ownCircuit s h with | some c => releasePromoted c s | none => s
    | none => s) s
  { s with core.port.meters := s.core.port.meters.filter (fun m => m.label != label) }

/-- `LBIND` runs. (DEDUCED, log entry 22.) -/
def bindStep (c : Command) (s : State) : State :=
  let label : BitVec 16 := field c.params[0] 0 16
  let send := c.params[3].getLsbD 0
  let unb := c.params[3].getLsbD 1
  let recv := s.core.port.recvLabels
  let sends := s.core.port.sendLabels
  let bound := if send then sends.any (fun x => x.1 == label) else recv.any (fun x => x.1 == label)
  match unb, send with
  | true, false =>
    if !bound then commandError 5 s
    else if labelPackets s label then s
    else
      let s := cutCircuits (fun x => x.receiver == s.core.id && x.label == label) 3 s
      finishCmd 5 { s with core.port.recvLabels := recv.filter (fun x => x.1 != label) }
  | true, true =>
    if !bound then commandError 5 s
    else finishCmd 5 { freeLabelMeters label s with core.port.sendLabels := sends.filter (fun x => x.1 != label) }
  | false, false =>
    let n : BitVec 5 := field c.params[1] 0 5
    if bound ∨ 64 ≤ recv.length ∨ !(bufOf s n.toNat).declared then commandError 5 s
    else finishCmd 5 { s with core.port.recvLabels := recv ++ [(label, n)] }
  | false, true =>
    let thr : Word := field c.params[2] 0 32
    if bound ∨ 64 ≤ sends.length then commandError 5 s
    else finishCmd 5 { s with core.port.sendLabels := sends ++ [(label, if thr = 0 then 65536 else thr)] }

/-- Whether a label has a receive binding at the core of an ordinal: known of the modelled core and of a save area, free of any
other core that has started (DESIGN CHOICE, log entry 13). -/
def labelBound (ord : BitVec 24) (label : BitVec 16) (s : State) : State × Bool :=
  match holderOf s s.core.launch s.core.sec ord with
  | .own | .frozen => (s, (recvBuffer s label).isSome)
  | .away =>
    match s.sched.saves.find? (fun a => a.launch == s.core.launch && a.sec == s.core.sec && a.ord == ord) with
    | some a => (s, a.image.port.recvLabels.any (fun x => x.1 == label))
    | none =>
      if boundMember s ord then (s, false)
      else let x := freeAnswer 2 s; (x.1, x.2 == 0)
  | .gone => (s, false)
  | .other _ => let x := freeAnswer 2 s; (x.1, x.2 == 0)

/-- `COPEN` runs: its conditions, then one probe. -/
def openStep (c : Command) (k : Nat) (s : State) : State :=
  if k ≠ 0 then s
  else
    let h : BitVec 3 := field c.params[0] 0 3
    let ord : BitVec 24 := field c.params[1] 0 24
    let label : BitVec 16 := field c.params[1] 24 16
    let lease := c.params[2].toNat
    let x := handleOf s h
    let b := labelBound ord label s
    let s := b.1
    if lease = 0 ∨ 2 ^ 24 < lease ∨ corePkg (ordPlace s ord) ≠ corePkg s.core.id ∨ !b.2 ∨ x.st = 1 ∨ x.st = 2 ∨ x.st = 3 then
      commandError 5 s
    else if x.st = 6 then quietError (setHandle h { x with resume := 0, resumeCmd := 0 } s)
    else
      let s := setHandle h { x with st := 1, resume := 0, resumeCmd := 0, dest := ord, label := label } s
      launchProbe h ord label false lease x.st (setCursor 1 s)

/-- Whether a `CSTREAM` may start on its handle (R276, R277): one that a cut met while it was queued ends with ERR quietly. -/
def streamStart (c : Command) (s : State) : State :=
  let x := handleOf s (field c.params[1] 0 3)
  if c.id < x.cutAt then quietError s
  else if x.st ≠ 2 ∧ x.st ≠ 3 then commandError 5 s
  else s

/-- The next step of the command in execution of the copy queue. -/
def copyQueueStep (c : Command) (k : Nat) (s : State) : State :=
  match c.op with
  | .copy | .copy2d => if copyBytes c = 0 then finishCmd 5 s else copyStep c k s
  | .sendCmd => sendStep c k s
  | .lbind => bindStep c s
  | .copen => openStep c k s
  | .cstream => streamStep c k s
  | .srun | .gldc | .ggo | .gmma => s

end Sys2Proof.Machine
end

