-- ==== Sys2Proof/Machine/EngineEvents.lean ====
section
/-! DEFINITION. Engine commands starting and completing (R114, R117, R125, R133, R246, R376), traps that become due at a
boundary (R117, R142), stuck cores (R156, R170, R171), and pager mode (R327). -/

namespace Sys2Proof.Machine

/-! ## Start (R114) -/

/-- Whether something other than its waits holds a command back at the head of its queue: an `SRUN` on SE0 or SE1 behind an
earlier `GMMA`, a `GMMA` before SE0 and SE1 have completed earlier commands (R133), a `GLDC` before an `SRUN` of its bank has
started (R125). -/
def commandHeld (s : State) (q : Nat) (c : Command) : Bool :=
  match c.op with
  | .srun => decide (q ≤ 1) && (queued s 4).any (fun x => x.op == .gmma && decide (x.id < c.id))
  | .gmma => (queued s 0 ++ queued s 1).any (fun x => decide (x.id < c.id))
  | .gldc => gldcHeld s c
  | _ => false

/-- Whether a command is admitted by its power region before it starts (R376). -/
def needsAdmission (c : Command) : Bool := c.op == .ggo || c.op == .gmma

/-- A grid command is ready: the moment is noted, once (R376). -/
def gridReady (s : State) : State :=
  match s.core.grid.readyAt with
  | some _ => s
  | none => { s with core.grid.readyAt := some s.now }

/-- The command at the head of queue `q` starts: its promise is made (R142), it is dated, an `SRUN` takes the counts of its nest (R119,
R123), and it reads its descriptors. -/
def startCommand (q : Nat) (c : Command) (s : State) : State :=
  let t := counterOf s s.core.id
  let p := promiseOf s c t
  let nest := if c.op = .srun then some (nestOf s (field c.params[3] 2 2)) else none
  let s := setExec q (some ⟨c.id, t, p, 0, false, false, false, none, [], nest, false⟩) s
  let s := slotPromise c.sig c.id p (if c.far then dropRemote (fun _ => true) s else s)
  match c.op with
  | .srun => startStream q c s
  | .ggo => startGgo c s
  | .gmma => startGmma c s
  | .cstream => streamStart c s
  | .sendCmd => sendStart c s
  | .gldc | .copy | .copy2d | .lbind | .copen => s

/-- `ENGINE_COMMAND_START` (R114): the head of a queue starts, or the engine of a `GLDC` or of the copy queue takes its next
step. -/
def execEngineCommandStart (q : Nat) (s : State) : Out :=
  match queueHead s q with
  | none => .next s
  | some c =>
    if !engineLive s then .next s
    else
      let s' := restarted q s
      match execOf s q with
      | none =>
        if !waitsReached s c then .next s
        else if needsAdmission c && !s.core.grid.admitted then .next (gridReady s')
        else if commandHeld s q c then .next s
        else .next (startCommand q c s')
      | some r =>
        if r.finished || r.stopped then .next s
        else if needsAdmission c && !s.core.grid.admitted then .next (gridReady s')
        else
          match c.op with
          | .gldc => .next (gldcPiece c r.cursor s')
          | .copy | .copy2d | .sendCmd | .lbind | .copen | .cstream => .next (copyQueueStep c r.cursor s')
          -- a stream or a `GMMA` that could not read its descriptors reads them now
          | .srun => .next (if (streamOf s q).isNone then startStream q c s' else s')
          | .gmma => .next (if s.core.grid.gmma.isNone then startGmma c s' else s')
          | .ggo => .next s'

/-! ## Completion (R114, R142, R246) -/

/-- The wider of two scopes. -/
def widerScope (a b : BitVec 3) : BitVec 3 := if a.toNat < b.toNat then b else a

/-- The scope at which a command's writes to memory must have performed before it completes: of a `GGO` whose sinks have written, its
own or that of the stream that wrote them, the wider (R114, R160); none where it wrote no memory. (DEDUCED, log entry 69.) -/
def writeScope (s : State) (q : Nat) (c : Command) : Option (BitVec 3) :=
  let own := storeScope s (cmdPsc c)
  match c.op with
  | .copy | .copy2d => if copyDsp c.params = 1 then some own else none
  | .srun => match streamOf s q with | some r => if r.write && r.space == .global then some own else none | none => none
  | .ggo =>
    match s.core.grid.run with
    | some g =>
      if g.wrote then
        some (s.core.eng.streams.toList.foldl (fun x r => match r with
          | some r => if r.write && r.space == .global then widerScope x (storeScope s r.psc) else x
          | none => x) own)
      else none
    | none => none
  | .gldc | .gmma | .sendCmd | .lbind | .copen | .cstream => none

/-- Whether a finished command must still wait: a grid command for its sinks, for the check of what it took, and after a `GSTOP` for
the write stream that it ends (R124, R160, R164); a read stream for the check that could rewind it (R163, R164). -/
def completionHeld (s : State) (q : Nat) : Bool :=
  if q = 4 then
    match s.core.grid.run with
    | some g => !s.core.eng.sinks.isEmpty || g.window.isSome || (gridStopped s && writeOpen s)
    | none => false
  else if q < 4 then
    match streamOf s q, s.core.grid.run with
    | some r, some g => !r.write && g.window.isSome
    | _, _ => false
  else false

/-- A command leaves its queue: flags are merged, its buffers lose a reader, its slot is signalled (R24, R114, R166), and its
lateness is noted (R142). -/
def retireCommand (q : Nat) (c : Command) (r : Running) (s : State) : State :=
  let s := r.buffers.foldl (fun s i => readerDone i s) s
  let s := if q = 4 then endGrid s else if q < 4 then setStream q none s else s
  let late := decide (1 ≤ cmdLate c) && (match r.promise with
    | some p => decide (p.toNat < (counterOf s s.core.id).toNat)
    | none => false)
  let s := slotComplete c.sig c.id late r.err (setExec q none (dequeueCmd q s))
  let s := if late ∧ cmdLate c = 2 then { s with core.eng.lateCopies := s.core.eng.lateCopies ++ [c.sig] } else s
  if q = 5 then settleCloses s else s

/-- `ENGINE_COMMAND_COMPLETE` (R114): the command's work has ended and its writes have performed at its publish scope (R246). -/
def execEngineCommandComplete (q : Nat) (s : State) : Out :=
  match queueHead s q, execOf s q with
  | some c, some r =>
    if !engineLive s || !r.finished || completionHeld s q then .next s
    else
      let s := restarted q s
      match writeScope s q c with
      | some scope =>
        match pushLayer scope s with
        | (s', .done) => if scopeOpen s' scope s'.core.mq.seq then .next s' else .next (retireCommand q c r s')
        | (s', .held) => .next s'
      | none => .next (retireCommand q c r s)
  | _, _ => .next s

/-! ## Traps at a boundary (R117, R142, R324) -/

/-- Whether the sequencer stands at a boundary of program mode, where held traps are taken. -/
def atBoundary (s : State) : Bool := s.core.seq.run == .running && s.core.seq.mode == .program

/-- The fields of `TSTAT` of an engine fault (R325). -/
def faultStat (f : EngineFault) : DWord :=
  f.queue.setWidth 64 ||| f.sub.setWidth 64 <<< 4 ||| f.seq.setWidth 64 <<< 8

/-- `ENGINE_FAULT` (R117): the oldest pending engine fault is taken. -/
def execEngineFault (s : State) : Out :=
  match s.core.eng.faults with
  | f :: rest =>
    if atBoundary s then .next (takeTrap .engine f.addr (faultStat f) { s with core.eng.faults := rest }) else .next s
  | [] => .next s

/-- `LATE_COPY_TRAP` (R142): the oldest late copy whose command asked for a trap. -/
def execLateCopyTrap (s : State) : Out :=
  match s.core.eng.lateCopies with
  | k :: rest =>
    if atBoundary s then .next (takeTrap .lateCopy (k.setWidth 64) 0 { s with core.eng.lateCopies := rest }) else .next s
  | [] => .next s

/-! ## Stuck cores (R156, R170, R171) -/

/-- What a unit of the core is doing (R156). -/
inductive UnitState where
  | idle
  | busy
  | waits (k : WaitKind)
  deriving DecidableEq, Repr

/-- The sequencer: idle once it has finished the drain after `EXIT`. -/
def seqUnit (s : State) : UnitState :=
  match s.core.seq.run with
  | .running => match s.core.seq.wait with
    | some k => .waits k
    | none => .busy
  | .exited => if s.core.mq.loads.isEmpty && s.core.mq.stores.isEmpty then .idle else .waits .external
  | .done => .idle
  | .unbound | .bound | .overlay _ | .saving _ | .saved | .halted _ | .stopped => .waits .external

/-- A read stream (R156): it waits on the grid to consume, or on the feed queue; a fault waits for the tokens before it. A wait for
memory or for a remote placement is external. -/
def readUnit (q : Nat) (r : StreamRun) (s : State) : UnitState :=
  if 16 ≤ r.ahead.length ∨ r.trip ≤ r.nextRead then .waits .internal
  else
    match r.space with
    | .queue => if s.core.grid.feed.isEmpty then .waits .internal else .busy
    | sp =>
      let a := streamAddr r r.nextRead
      match (if tokenAligned a then (engineRead q sp a 32 s).2 else .fault subMemory a.toNat false) with
      | .wait => .waits .external
      | .fault _ _ _ => if r.ahead.isEmpty then .busy else .waits .internal
      | .ok _ _ | .error => .busy

/-- A write stream. -/
def writeUnit (r : StreamRun) (s : State) : UnitState :=
  match s.core.eng.sinks with
  | [] => if gridStopped s then .busy else .waits .internal
  | k :: _ =>
    if k.unchecked then .waits .external
    else if r.nextRead < k.seq then .waits .internal
    else if r.space = .queue ∧ outCap s ≤ s.core.grid.outq.length then .waits .internal
    else .busy

/-- Whether the next step of a configuration pushes a branch-outcome bit. -/
def pushes (g : GridRun) (row col : Option Token) (s : State) : Bool :=
  (gridCompute s g.st ⟨g.bank, g.st.step, g.first, g.trip, g.rm, row, col⟩).pq.isSome

/-- A running configuration (R156): it waits for a sink or a port token; for a check window, which is external; or for room in the
branch-outcome queue where its step pushes a bit, which only this core makes unless bits held for a check fill it. -/
def gridUnit (g : GridRun) (s : State) : UnitState :=
  if !s.core.eng.sinks.isEmpty then .waits .internal
  else
    match portToken s g false, portToken s g true with
    | some row, some col =>
      if 1 < (g.window.toList ++ portWindows row col).eraseDups.length then .waits .external
      else if pqCap s ≤ pqLoad s ∧ pushes g row col s then .waits (if g.pqHeld.isEmpty then .internal else .external)
      else .busy
    | _, _ => .waits .internal

/-- A finished command that must wait (R156): on a sink, or for a check window. -/
def heldUnit (s : State) (q : Nat) : UnitState :=
  match s.core.grid.run with
  | some g => if q = 4 ∧ g.window.isNone then .waits .internal else .waits .external
  | none => .waits .external

/-- The engine of queue `q`. -/
def engineUnit (s : State) (q : Nat) : UnitState :=
  match queueHead s q, execOf s q with
  | none, _ => .idle
  | some c, none =>
    if !engineLive s then .waits .external
    else if !c.waits.all (fun w => slotReached s w.1 w.2) then .waits .internal
    else if fenceHolds s c then .waits .external
    else if needsAdmission c && s.core.grid.readyAt.isSome && !s.core.grid.admitted then .waits .external
    else if commandHeld s q c then .waits .internal
    else .busy
  | some c, some r =>
    if r.pager.isSome then .waits .external
    else if r.stopped then .waits .internal
    else if r.finished then (if completionHeld s q then heldUnit s q else .busy)
    else if needsAdmission c && !s.core.grid.admitted then .waits .external
    else
      match c.op, streamOf s q, s.core.grid.run with
      | .srun, some x, _ => if x.write then writeUnit x s else readUnit q x s
      | .ggo, _, some g => gridUnit g s
      | _, _, _ => .waits .external

/-- Units of the core: the sequencer, SE0 to SE3, the grid, the copy engine. -/
def units (s : State) : List UnitState := seqUnit s :: (List.range 6).map (engineUnit s)

/-- A stuck core (R156): every unit idle or in an internal wait, one at least waiting, and nothing on its way inside the core that
would end a wait: an answer to a status read or to a `GPOP`, a result, a trap. -/
def isStuck (s : State) : Bool :=
  (units s).all (fun u => u == .idle || u == .waits .internal) && (units s).any (fun u => u == .waits .internal)
    && s.core.mq.status.isEmpty && s.core.regs.latent.isEmpty && (s.core.mq.gpops.isEmpty || s.core.grid.outq.isEmpty)
    && (s.core.eng.faults.isEmpty || s.core.seq.mode == .handler || s.core.seq.run == .exited)

/-- Full data queues, each with its number and its capacity in bytes (R170). -/
def fullQueues (s : State) : List (Nat × Nat) :=
  let g := s.core.grid
  (if feedCap s ≤ g.feed.length then [(0, 32 * feedCap s)] else []) ++
  (if outCap s ≤ g.outq.length then [(1, 32 * outCap s)] else []) ++
  (if pqCap s ≤ g.pq.length then [(2, pqCap s / 8)] else [])

/-- Grants of the relief pool in use. -/
def grantsUsed (s : State) : Nat := s.core.grid.feedGrants + s.core.grid.outGrants + s.core.grid.pqGrants

/-- The full queue of smallest capacity, a tie going to the lower number. -/
def grantTo (s : State) : Option Nat :=
  ((fullQueues s).foldl (fun (b : Option (Nat × Nat)) x => match b with
    | none => some x
    | some y => if x.2 < y.2 then some x else some y) none).map (fun x => x.1)

/-- `RELIEF_GRANT` (R170). -/
def execReliefGrant (s : State) : Out :=
  if !isStuck s || decide (Config.reliefGrants ≤ grantsUsed s) then .next s
  else
    match grantTo s with
    | some 0 => .next { s with core.grid.feedGrants := s.core.grid.feedGrants + 1 }
    | some 1 => .next { s with core.grid.outGrants := s.core.grid.outGrants + 1 }
    | some _ => .next { s with core.grid.pqGrants := s.core.grid.pqGrants + 1 }
    | none => .next s

/-- `TADDR` of a deadlock trap (R171). -/
def deadlockMap (s : State) : DWord :=
  let blk := (List.range 7).foldl (fun x i =>
    if (units s).getD i .idle = .waits .internal then x + 2 ^ i else x) 0
  let full := (fullQueues s).foldl (fun x y => x + 2 ^ y.1) 0
  dw (blk + full * 256 + grantsUsed s * 2048)

/-- `DEADLOCK_TRAP` (R171): a stuck core that cannot be given a grant traps at the waiting instruction; after `EXIT` its launch
aborts with cause deadlock. -/
def execDeadlockTrap (s : State) : Out :=
  if !isStuck s || ((grantTo s).isSome && decide (grantsUsed s < Config.reliefGrants)) then .next s
  else
    match s.core.seq.run with
    | .running => .next (takeTrap .deadlock (deadlockMap s) 0 s)
    | _ => .next (doom s.core.launch { AbortInfo.of 7 with ord := s.core.ord } s)

/-! ## Pager mode (R313, R326, R327) -/

/-- The offset in its window of the 64 KiB page that a choice names (R228, R230): any page of a spread window, of one field, of one die, or of a
die's mirrored half, below the spill areas. -/
def pageOff (place : BitVec 2) (c : Nat) : Nat :=
  match place.toNat with
  | 0 => c % (62 * 2 ^ 20) * 2 ^ 16
  | 1 => c / 2 ^ 24 % 8 * 2 ^ 39 + c % (62 * 2 ^ 17) * 2 ^ 16
  | 2 => c / 2 ^ 24 % 64 * 2 ^ 36 + c % (62 * 2 ^ 14) * 2 ^ 16
  | _ => c / 2 ^ 24 % 64 * 2 ^ 36 + c % 2 ^ 19 * 2 ^ 16

/-- The physical 64 KiB page that a choice of the management core names for a page of a region, in the region's window and package;
without one, in the launch's home (R219, R230). (DESIGN CHOICE, log entry 8.) -/
def pagePa (r : Region) (home : BitVec 7) (c : Nat) : Nat :=
  (r.pkg.getD home).toNat * 2 ^ 45 + r.place.toNat * 2 ^ 42 + pageOff r.place c

/-- The 4 KiB granules of the homes that a page takes, by their committed addresses, both copies of a mirrored one. -/
def pageGranules (pa : Nat) : List Nat := ((List.range 16).map (fun i => paCanon (pa + 4096 * i))).flatMap writeCells

/-- Whether a page shares no granule with one that has been given out (R280). -/
def pageFree (s : State) (pa : Nat) : Bool :=
  let here := pageGranules pa
  s.sched.pages.all (fun x => (pageGranules x.2).all (fun g => !here.contains g))

/-- A page that the management core chooses for a launch, 0 for one that stays: from a free choice on, the next that nobody has (R280;
DESIGN CHOICE, log entry 8), and the state after the choice. -/
def freshPage (owner : Nat) (r : Region) (home : BitVec 7) (s : State) : State × Nat :=
  let c := Config.placeChoice s.fresh
  let tries := (List.range (32 * s.sched.pages.length + 1)).map (fun j => pagePa r home (c + j))
  let pa := (tries.find? (pageFree s)).getD (pagePa r home c)
  ({ s with fresh := s.fresh + 1, sched.pages := (owner, pa) :: s.sched.pages }, pa)

/-- The committed bytes of [base, base+n) become zero, with no record of the lines left. -/
def zeroPage (base n : Nat) (s : State) : State :=
  let spans := (List.range (n / 4096)).map (fun i => paCanon (base + 4096 * i))
  let hit := fun (l : List Nat) (a : Nat) => l.any (fun b => decide (b ≤ a) && decide (a < b + 4096))
  { s with
    homes.mem := s.homes.mem.filter (fun c => !hit (spans.flatMap writeCells) c.1)
    homes.lines := s.homes.lines.filter (fun l => !hit spans (l.line * 128)) }

/-- A page copied from another (R313). -/
def copyPage (src dst : Nat) (s : State) : State :=
  (List.range 16).foldl (fun s i => memWrite (dst + 4096 * i) (memBytes s (src + 4096 * i) 4096) s) (zeroPage dst 65536 s)

/-- A level-3 entry of a launch's tables replaced, from a level down (R231, R232): missing tables on the way are built of zeros in
chosen pages of a package. -/
def tableWrite (owner : Nat) : Nat → BitVec 7 → Nat → Nat → Nat → (DWord → Nat) → State → State
  | 0, _, _, _, _, _, s => s
  | n + 1, pkg, table, level, va, f, s =>
    let a := table + 8 * (va / 2 ^ (46 - 10 * level) % 1024)
    let e := dw (memNat s a 8)
    if 3 ≤ level then memWrite a (leBytes 8 (f e)) s
    else if e.getLsbD 0 then tableWrite owner n pkg (fieldN e 13 39 * 2 ^ 13) (level + 1) va f s
    else
      let x := freshPage owner ⟨0, 0, 0, 2, false, some pkg, 0⟩ pkg s
      let s := memWrite a (leBytes 8 (1 + x.2)) (zeroPage x.2 65536 x.1)
      tableWrite owner n pkg x.2 (level + 1) va f s

/-- A 64 KiB leaf for a page: it keeps W and ZF of the entry it replaces where there was one, else it is writable. -/
def leafEntry (pa : Nat) (e : DWord) : Nat :=
  3 + (if e = 0 then 4 else fieldN e 2 1 * 4) + fieldN e 5 1 * 32 + pa / 65536 % 2 ^ 36 * 65536

/-- A page is mapped in the tables of every package of a launch, which hold the same mappings (R231). -/
def mapPage (l : LaunchRec) (va pa : Nat) (s : State) : State :=
  l.roots.foldl (fun s r => tableWrite l.id 4 r.1 r.2 0 va (leafEntry pa) s) s

/-- The unit that waited for a page goes on: an engine at its cursor, or the sequencer still in handler mode. -/
def pagerResume (q : Nat) (s : State) : State :=
  if q < 6 then resumeEngine q s
  else { s with core.seq.run := .running, core.seq.handlerFault := none }

/-- What a unit waits for the pager with: address and write. -/
def pagerNeed (s : State) (q : Nat) : Option (Nat × Bool) :=
  if q < 6 then (execOf s q).bind (fun r => r.pager)
  else
    match s.core.seq.handlerFault with
    | some f => if f.cause = .page then some (f.addr.toNat, f.write) else none
    | none => none

/-- The abort that a refused page brings (R326, R327). -/
def pagerAbort (launch : Nat) (ord : BitVec 24) (q va : Nat) (s : State) : State :=
  if q < 6 then doom launch { AbortInfo.of 14 with ord := ord, addr := dw va } s
  else doom launch { AbortInfo.of 13 with ord := ord, tcause := Cause.page.code, addr := dw va } s

/-- Entries of the event ring, 0 when it is disabled (R313). -/
def ringEntries (s : State) : Nat :=
  let e := fieldN s.sched.host.evqcfg 0 4
  if 4 ≤ e ∧ e ≤ 10 then 2 ^ e else 0

/-- The launch queue that a launch came from. -/
def launchQueue (s : State) (l : LaunchRec) : Nat :=
  match l.src with
  | .queue q _ => q.toNat
  | .node g _ => match s.sched.graphs.find? (fun x => x.id == g) with | some x => x.queue.toNat | none => 0

/-- A page request written to the event ring (R313), as an escape store, with its MSI-X vector. -/
def askHost (q va : Nat) (write : Bool) (s : State) : State :=
  let h := s.sched.host
  let l := ownLaunch s
  let e := leBytes 8 (1 + launchQueue s l * 16 + s.core.hall.toNat * 4096) ++ leBytes 8 va ++
    leBytes 8 (if write then 1 else 0) ++ leBytes 8 0
  let s := deviceStore (h.evqbase.toNat + 32 * h.evqtail.toNat) e s
  { s with
    sched.host.evqtail := BitVec.ofNat 10 ((h.evqtail.toNat + 1) % ringEntries s)
    sched.host.msix := h.msix ++ [field h.evqcfg 16 11]
    sched.host.pageReqs := h.pageReqs ++ [⟨h.evqtail, s.core.launch, s.core.sec, s.core.ord, va, write, q⟩] }

/-- `PAGER_FAULT` (R327): the management core acts on the leaf entry that the walk reached. A handler fault that is no page fault
inside a region aborts the launch (R326). -/
def execPagerFault (q : Nat) (s : State) : Out :=
  match pagerNeed s q with
  | none =>
    match q, s.core.seq.handlerFault with
    | 6, some f => .next (doom s.core.launch { AbortInfo.of 13 with ord := s.core.ord, tcause := f.cause.code, addr := f.addr }
        { s with core.seq.handlerFault := none })
    | _, _ => .next s
  | some (va, write) =>
    let w := walk s s.core.ptroot va
    match regionOf (ownLaunch s) va, w.page with
    | none, _ => .next (pagerAbort s.core.launch s.core.ord q va s)
    | some _, some p => if write ∧ !p.2.2 then .next (pagerAbort s.core.launch s.core.ord q va s) else .next (pagerResume q s)
    | some r, none =>
      if s.sched.host.pageReqs.any (fun x => x.launch == s.core.launch && x.queue == q) then .next s
      else if w.entry.getLsbD 5 then
        let x := freshPage s.core.launch r (ownLaunch s).home s
        .next (pagerResume q (mapPage (ownLaunch s) va x.2 (zeroPage x.2 65536 x.1)))
      else if ringEntries s = 0 then .next (pagerAbort s.core.launch s.core.ord q va s)
      else if (s.sched.host.evqtail.toNat + 1) % ringEntries s = s.sched.host.evqhead.toNat then .next s
      else .next (askHost q va write s)

/-- Whether a page request is one of the unit that the modelled core runs now. -/
def isOwnPage (x : PageReq) (s : State) : Bool := x.launch == s.core.launch && x.sec == s.core.sec && x.ord == s.core.ord

/-- The unit that asked for a page goes on, on the core or in its save area, where it is found stopped for the pager. -/
def pageArrived (x : PageReq) (s : State) : State :=
  if isOwnPage x s then (if (pagerNeed s x.queue).isSome then pagerResume x.queue s else s)
  else
    { s with sched.saves := s.sched.saves.map (fun a =>
        if a.launch = x.launch ∧ a.sec = x.sec ∧ a.ord = x.ord ∧ (pagerNeed { s with core := a.image } x.queue).isSome then
          { a with image := (pagerResume x.queue { s with core := a.image }).core }
        else a) }

/-- `PGRESP` (R313): the host answers the page request of an event entry, wherever the core that asked is by then. -/
def execPgresp (slot : BitVec 10) (ok : Bool) (s : State) : Out :=
  match s.sched.host.pageReqs.find? (fun x => x.slot == slot) with
  | none => .next s
  | some x =>
    let s := { s with sched.host.pageReqs := s.sched.host.pageReqs.filter (fun y => y.slot != slot) }
    let l := launchOf s x.launch
    match ok, regionOf l x.va with
    | true, some r =>
      let y := freshPage x.launch r l.home s
      .next (pageArrived x (mapPage l x.va y.2 (copyPage (fieldN s.sched.host.pgpa 16 36 * 65536) y.2 y.1)))
    | _, _ => .next (pagerAbort x.launch x.ord x.queue x.va s)

end Sys2Proof.Machine
end

