-- ==== Sys2Proof/Machine/Keccak.lean ====
section
/-! DEFINITION. SHAKE256 (FIPS 202), which the spec uses for digests and names (R309, R317, R319). A sponge state is five sheets,
one for each x, of five lanes of 64 bits, one for each y. The round constants and rotations are computed as FIPS 202 defines them. -/

namespace Sys2Proof.Machine

/-- The five sheets of a sponge state. -/
abbrev Sponge := Vector (Vector DWord 5) 5

/-- The sponge state whose lane (x, y) is `f x y`. -/
def Sponge.make (f : Nat → Nat → DWord) : Sponge := Vector.ofFn (fun x => Vector.ofFn (fun y => f x.val y.val))

/-- Lane (x, y), both taken modulo 5. -/
def Sponge.lane (a : Sponge) (x y : Nat) : DWord := vgetD (vgetD a (x % 5) (Vector.replicate 5 0)) (y % 5) 0

/-- One tick of the shift register of `rc`: it is multiplied by x modulo x^8 + x^6 + x^5 + x^4 + 1. -/
def rcTick (r : Byte) : Byte := if r.msb then (r <<< 1) ^^^ 0x71 else r <<< 1

/-- Bits 2^j - 1 of a round constant, from the next seven output bits of the register `r`; with the register after them. -/
def roundConstant (r : Byte) : DWord × Byte :=
  (List.range 7).foldl (fun (k, g) j => (if g.getLsbD 0 then k ||| (1#64 <<< (2 ^ j - 1)) else k, rcTick g)) (0, r)

/-- What ρ and π do to a state: the walk from (1, 0) by (x, y) ↦ (y, 2x + 3y), whose step `t` takes the lane at (x, y), turned by the
t-th triangular number, to where the walk goes next. -/
def rhoPi (a : Sponge) : Nat → Nat → Nat → Nat → Sponge → Sponge
  | 0, _, _, _, b => b
  | left + 1, t, x, y, b =>
    let y' := (2 * x + 3 * y) % 5
    let turned := (a.lane x y).rotateLeft (t * (t + 1) / 2 % 64)
    rhoPi a left (t + 1) y y' (b.setIfInBounds y ((vgetD b y (Vector.replicate 5 0)).setIfInBounds y' turned))

/-- One round with the constant `k`. -/
def spongeRound (a : Sponge) (k : DWord) : Sponge :=
  let parity (x : Nat) : DWord := (List.range 5).foldl (fun d y => d ^^^ a.lane x y) 0
  let mixed := Sponge.make (fun x y => a.lane x y ^^^ parity (x + 4) ^^^ (parity (x + 1)).rotateLeft 1)
  let moved := rhoPi mixed 24 1 1 0 mixed
  Sponge.make (fun x y =>
    let d := moved.lane x y ^^^ (moved.lane (x + 2) y &&& ~~~moved.lane (x + 1) y)
    if x + y = 0 then d ^^^ k else d)

/-- `n` rounds, the register of the constants at `r`. -/
def spongeRounds : Nat → Byte → Sponge → Sponge
  | 0, _, a => a
  | n + 1, r, a => spongeRounds n (roundConstant r).2 (spongeRound a (roundConstant r).1)

/-- `n` blocks of 136 bytes taken in, each followed by the permutation of 24 rounds. -/
def spongeAbsorb : Nat → List Byte → Sponge → Sponge
  | 0, _, a => a
  | n + 1, bs, a =>
    let word (i : Nat) : DWord := if i < 17 then dw (leNat ((bs.drop (8 * i)).take 8)) else 0
    spongeAbsorb n (bs.drop 136) (spongeRounds 24 1 (Sponge.make (fun x y => a.lane x y ^^^ word (x + 5 * y))))

/-- A message with the suffix 1111 of SHAKE and the padding 10*1. -/
def shakePad (msg : List Byte) : List Byte :=
  let gap := 135 - msg.length % 136
  if gap = 0 then msg ++ [0x9F] else msg ++ [0x1F] ++ List.replicate (gap - 1) 0 ++ [0x80]

/-- The first `n` bytes, at most 136, of SHAKE256 of a message. -/
def shake256 (n : Nat) (msg : List Byte) : List Byte :=
  let padded := shakePad msg
  let a := spongeAbsorb (padded.length / 136) padded (Sponge.make (fun _ _ => 0))
  ((List.range 25).flatMap (fun i => leBytes 8 (a.lane i (i / 5)).toNat)).take n

end Sys2Proof.Machine
end

