-- ==== Sys2Proof/Machine/SchedOps.lean ====
section
/-! DEFINITION. What the schedulers report and how a launch ends (R305, R312, R332): queue entries, abort records, the
discarding of what a launch leaves behind, the loss of a die. -/

namespace Sys2Proof.Machine

/-! ## Committed state -/

/-- A byte of committed state: of a committed way not folded yet, else of the committed copy (R291). -/
def committedByte (s : State) (pa : Nat) : Byte :=
  match (lineRec s (lineNo pa)).versions.find? (fun w => w.kind == .committed) with
  | some w => lineByte w.data (lineOff pa)
  | none => memByte s pa

def committedBytes (s : State) (pa n : Nat) : List Byte := (List.range n).map (fun i => committedByte s (pa + i))

/-- A committed little-endian number of `n` bytes, as the schedulers read records, images and graphs. -/
def committedNat (s : State) (pa n : Nat) : Nat := leNat (committedBytes s pa n)

/-! ## Queue entries (R312) -/

/-- The registers of a launch queue. -/
def hostQueue (s : State) (q : BitVec 6) : HostQueue := vgetD s.sched.host.queues q.toNat ⟨0, 0, 0, 0, 0⟩

def setHostQueue (q : BitVec 6) (x : HostQueue) (s : State) : State :=
  { s with sched.host.queues := s.sched.host.queues.setIfInBounds q.toNat x }

/-- Entries of a queue, 0 when it is disabled. -/
def queueSize (x : HostQueue) : Nat :=
  let n := fieldN x.cfg 0 4
  if 4 ≤ n ∧ n ≤ 12 then 2 ^ n else 0

/-- What a device register reads as (R312, R313): an unlisted one as 0, and one that is written only too. (DESIGN CHOICE, log
entry 50.) -/
def registerRead (s : State) (off : Nat) : DWord :=
  let h := s.sched.host
  if off = 0x08 then h.qerr
  else if off = 0x40 then h.evqbase
  else if off = 0x48 then h.evqcfg
  else if off = 0x50 then h.evqtail.setWidth 64
  else if off = 0x58 then h.evqhead.setWidth 64
  else if off = 0x68 then h.pgpa
  else if off = 0x70 then h.keyValid.setWidth 64 ||| b64 h.lock <<< 8
  else if 0x1000 ≤ off ∧ off < 0x1800 then
    let q := hostQueue s (BitVec.ofNat 6 ((off - 0x1000) / 32))
    if off % 32 = 0 then q.base
    else if off % 32 = 8 then q.cfg
    else if off % 32 = 16 then q.head.setWidth 64
    else 0
  else if 0x2000 ≤ off ∧ off < 0x2200 then
    (vgetD h.keys ((off - 0x2000) / 64) 0).extractLsb' (8 * ((off - 0x2000) % 64)) 64
  else 0

/-- Bytes of the device registers, each 64 bits and little-endian (R313). -/
def registerBytes (s : State) (off n : Nat) : List Byte :=
  (List.range n).map (fun i => (registerRead s ((off + i) / 8 * 8)).extractLsb' (8 * ((off + i) % 8)) 8)

/-- The physical address of an entry of a queue. -/
def entryPa (s : State) (q : BitVec 6) (e : Nat) : Nat := (hostQueue s q).base.toNat + 128 * e

/-- The STATUS of an entry: ST, REJ, HALL. -/
def setEntryStatus (q : BitVec 6) (e st rej hall : Nat) (s : State) : State :=
  deviceStore (entryPa s q e + 8) (leBytes 8 (st + rej * 2 ^ 4 + hall * 2 ^ 12)) s

/-- The OUTCOME of an entry. -/
def setEntryOutcome (q : BitVec 6) (e : Nat) (bs : List Byte) (s : State) : State :=
  deviceStore (entryPa s q e + 64) bs s

/-- The abort record (R332). -/
def abortRecord (a : AbortInfo) : List Byte :=
  leBytes 64 (a.cause.toNat + a.torn.toNat * 2 ^ 8 + a.applied.toNat * 2 ^ 9 + a.code.toNat * 2 ^ 16 + a.winner.toNat * 2 ^ 32
    + a.ord.toNat * 2 ^ 64 + a.tcause.toNat * 2 ^ 88 + a.addr.toNat * 2 ^ 96 + a.time.toNat * 2 ^ 160)

/-- The hallmark of a launch in its home package, 0 before it has one. -/
def launchHall (l : LaunchRec) : BitVec 12 :=
  match l.halls.find? (fun h => h.1 == l.home) with
  | some h => h.2
  | none => 0

/-- The STATUS of the queue entry of a launch; a launch of a graph node has none. -/
def launchStatus (l : LaunchRec) (st : Nat) (s : State) : State :=
  match l.src with
  | .queue q e => setEntryStatus q e st 0 (launchHall l).toNat s
  | .node _ _ => s

/-- A task graph by its number. -/
def graphOf (s : State) (g : Nat) : Option GraphRec := s.sched.graphs.find? (fun x => x.id == g)

/-- How a launch ended is written: ST 5 and an OUTCOME of zeros, or ST 6 and the abort record, at the entry, or for a node of a
graph at RECS (R312, R332). -/
def reportEnd (l : LaunchRec) (s : State) : State :=
  match l.abort, l.src with
  | none, .queue q e => setEntryStatus q e 5 0 (launchHall l).toNat (setEntryOutcome q e (List.replicate 64 0) s)
  | some a, .queue q e => setEntryStatus q e 6 0 (launchHall l).toNat (setEntryOutcome q e (abortRecord a) s)
  | some a, .node g n =>
    match graphOf s g with
    | some x =>
      let recs := committedNat s (x.header + 48) 8
      if recs = 0 then s else deviceStore (recs + 64 * n) (abortRecord a) s
    | none => s
  | none, .node _ _ => s

/-! ## Slots and members -/

/-- The bind record of a slot, a free one where none has been written (R323). -/
def slotRec (s : State) (id : CoreId) : SlotRec :=
  (s.sched.slots.find? (fun x => x.id == id)).getD ⟨id, 0, 0, 0, false, 0, 0, 0, 0, 0, 0, 0, 0, .free, false, none⟩

def setSlotRec (r : SlotRec) (s : State) : State :=
  { s with sched.slots := r :: s.sched.slots.filter (fun x => x.id != r.id) }

/-- A slot gives its core back; what built-in test found of the core stays. -/
def freeSlotRec (x : SlotRec) : SlotRec := { x with op := 0, launch := 0, state := .free }

/-- The physical address of save area `k` of the home die beside a core's chiplet (R330). R228 gives home SRAM no window: the address is
built as those of the near window are, in a class that R228 reserves (DESIGN CHOICE, log entry 34). -/
def areaPa (slot : CoreId) (k : Nat) : Nat :=
  (corePkg slot).toNat * 2 ^ 45 + 4 * 2 ^ 42 + (coreChip slot).toNat * 2 ^ 36 + k * 2 ^ 18

/-- Save areas that the 384 MiB SRAM of a home die has room for (R2, R330). -/
def areasPerDie : Nat := 1536

/-- A save area that holds no core and is named in no bind record. -/
def freeArea (s : State) (slot : CoreId) : Nat :=
  let used := s.sched.launches.flatMap (fun l => l.members.map (fun m => m.area)) ++ s.sched.slots.map (fun x => x.save)
  (((List.range areasPerDie).map (areaPa slot)).find? (fun a => !used.contains a)).getD (areaPa slot 0)

/-- The member that a slot runs. -/
def updMember (launch : Nat) (sec : Bool) (ord : BitVec 24) (f : Member → Member) (s : State) : State :=
  updLaunch launch (fun l => { l with members := l.members.map (fun m => if m.sec = sec ∧ m.ord = ord then f m else m) }) s

/-- The modelled core leaves its launch and is free. -/
def unbindOwn (s : State) : State :=
  { s with core.seq.run := .unbound, core.seq.wait := none, core.launch := 0, core.hall := 0 }

/-! ## The end of a launch (R213, R305, R306) -/

/-- Whether a ring request is an access of a core (and ends with its launch), as against copy data or a message. -/
def ringAccess (b : RingBody) : Bool :=
  match b with
  | .lineRead _ _ | .store _ _ _ | .semAdd _ _ _ | .barArrive _ => true
  | .copyData _ | .prepare _ | .flip _ => false

/-- A layer line without the shadowed bytes that a launch has stored into it and never pushed; its escape bytes stay, and so do those for
host memory (R306). -/
def forgetUnpushed (launch : Nat) (l : LayerLine) : LayerLine :=
  let gone := if tagClass l.tag = 1 then 0 else unpushedMask (l.unpushed.filter (fun u => u.launch == launch))
  if gone = 0 then l
  else { l with valid := l.valid &&& ~~~gone, unpushed := dropUnpushed (l.unpushed.filter (fun u => u.launch != launch)) gone }

/-- What a launch leaves that does not outlive it: semaphores, barriers, held reductions and rounds, translations, slots and
saves, accesses on their way. Escape stores that have performed stay wherever they stand on their way home (R306). -/
def discardLaunch (id : Nat) (s : State) : State :=
  let pkgs := (s.sched.slots.filter (fun x => x.launch == id)).map (fun x => corePkg x.id)
  let s := pkgs.foldl (fun s p => setPkgRec { pkgRec s p with lastBound := s.now } s) s
  let reach := (launchOf s id).halls.map (fun h => h.1)
  let rest := s.net.reachSeen.filter (fun x => !reach.contains x.1)
  let s := { s with net.reachSeen := reach.map (fun p => (p, s.now)) ++ rest }
  let s := { s with
    sched.sems := s.sched.sems.filter (fun x => x.1 != id)
    sched.semAdds := s.sched.semAdds.filter (fun x => x.1 != id)
    sched.bars := s.sched.bars.filter (fun x => x.1 != id)
    sched.saves := s.sched.saves.filter (fun x => x.launch != id)
    sched.slots := s.sched.slots.map (fun x => if x.launch = id then freeSlotRec x else x)
    sched.host.pageReqs := s.sched.host.pageReqs.filter (fun x => x.launch != id)
    homes.queue := s.homes.queue.filter (fun x => x.launch != id)
    homes.rounds := s.homes.rounds.filter (fun x => x.launch != id)
    homes.heldReds := s.homes.heldReds.filter (fun x => x.launch != id)
    homes.hubs := s.homes.hubs.filter (fun x => x.launch != id || x.cls == 1)
    homes.layers := (s.homes.layers.map (forgetUnpushed id)).filter (fun x => x.valid != 0)
    homes.tlb := s.homes.tlb.filter (fun x => x.launch != id)
    homes.layerTlb := s.homes.layerTlb.filter (fun x => x.launch != id)
    net.ringReqs := s.net.ringReqs.filter (fun x => !(x.launch == id && ringAccess x.body && !(x.performed && x.cls == 1))) }
  if s.core.launch = id ∧ id ≠ 0 then unbindOwn s else s

/-- Lines of an aborted hallmark go from the layer caches of its package (R305); with `ghost` only those of the secondary. -/
def dropHallLines (pkg : BitVec 7) (h : BitVec 12) (ghostOnly : Bool) (s : State) : State :=
  let hit := fun (l : LayerLine) => l.layer.extractLsb' 8 7 == pkg && (l.ghost || !ghostOnly) &&
    (match l.tag with
     | .hall x => x == h
     | .remoteHall x => x == h
     | .committed _ | .remoteEscape => false)
  { s with homes.layers := s.homes.layers.filter (fun l => !hit l) }

/-- Hallmarks that end become free: no line of their package holds a way of theirs, and no layer cache a line of theirs (R290). -/
def freeHalls (pkg : BitVec 7) (s : State) : State :=
  let held := fun (h : BitVec 12) =>
    s.homes.lines.any (fun r => linePkg r.line == pkg && r.versions.any (fun w => w.kind != .prior && w.hall == h))
    || s.homes.layers.any (fun l => l.layer.extractLsb' 8 7 == pkg && (match l.tag with
        | .hall x => x == h
        | .remoteHall x => x == h
        | .committed _ | .remoteEscape => false))
  { s with sched.halls := s.sched.halls.filter (fun h =>
      !(h.pkg == pkg && (h.state == .folding || h.state == .discarding) && !held h.hall)) }

/-! ## Loss of a die or a package (R328, R369, R373, R385) -/

/-- A core is removed from the slot table: it is never bound again (R385). -/
def removeCore (id : CoreId) (s : State) : State := setSlotRec { slotRec s id with removed := true } s

/-- The abort record of a lost die: package in [6:0], die in [14:8]. -/
def lostDieAddr (pkg die : BitVec 7) : DWord := dw (pkg.toNat + die.toNat * 256)

/-- A launch doomed by the loss of a package as a whole: the spec names no die for it, so the die of the record is free (DESIGN CHOICE, log
entry 12). -/
def doomLost (launch : Nat) (pkg : BitVec 7) (s : State) : State :=
  doom launch { AbortInfo.of 11 with addr := lostDieAddr pkg ((Config.freeWord s.fresh).setWidth 7) } { s with fresh := s.fresh + 1 }

/-- The links of both planes that join a die to its neighbours. -/
def dieEdges (pkg : BitVec 7) (die : Nat) : List Nat :=
  let x := 16 * (siteOf die).1
  let y := 16 * (siteOf die).2
  let both := fun (r : Router) (d : Dir) => [meshLink 0 pkg r d, meshLink 1 pkg r d]
  (List.range 16).flatMap (fun i =>
    (if 0 < y then both (routerAt (x + i) y) 1 else []) ++ (if y < 112 then both (routerAt (x + i) (y + 15)) 3 else [])
      ++ (if 0 < x then both (routerAt x (y + i)) 4 else []) ++ (if x < 240 then both (routerAt (x + 15) (y + i)) 2 else []))

/-- A die is lost: every launch whose touched-dies mask in the package names it is doomed, unless it has committed (R289, R301,
R328); the circuits through the die are cut as by the failure of their links, and those of its neighbours retrain (R352, R373). -/
def loseDie (pkg die : BitVec 7) (s : State) : State :=
  let hit := s.sched.launches.filter (fun l => l.touched.any (fun t => t.1 == pkg && t.2.getLsbD die.toNat))
  let s := hit.foldl (fun s l => doom l.id { AbortInfo.of 11 with addr := lostDieAddr pkg die } s) s
  let s := cutPaths (fun p path => p == pkg && path.any (fun x => routerDie x.1 == some die.toNat)) s
  let edges := dieEdges pkg die.toNat
  let s := { s with
    net.links := edges.map (fun l => { linkRec s l with fails := failLimit l }) ++ s.net.links.filter (fun r => !edges.contains r.link)
    health.lostDies := (pkg, die) :: s.health.lostDies.filter (fun x => x != (pkg, die))
    health.heartbeats := s.health.heartbeats.filter (fun x => !(x.1 == pkg && x.2.1 == die)) }
  -- the cores of a lost chiplet are gone
  if die.toNat < 64 then
    let gone := s.sched.slots.filter (fun x => corePkg x.id == pkg && (coreChip x.id).toNat == die.toNat)
    gone.foldl (fun s x => setSlotRec { x with removed := true } s) s
  else s

end Sys2Proof.Machine
end

