-- ==== Sys2Proof/Machine/FabricEvents.lean ====
section
/-! DEFINITION. Events of the packet plane and the circuit plane: flits, placements and acknowledgements, meters, probes, circuit
data and check windows, links (R141, R143, R335, R336, R339-R355). -/

namespace Sys2Proof.Machine

/-! ## Flits (R339-R341) -/

/-- Whether a flit stands at a router of a package. -/
def flitAt (s : State) (pkg : BitVec 7) (r : Router) (f : Flit) : Bool :=
  f.router == r && (match packetOf s f.pkt with | some p => p.pkg == pkg | none => false)

/-- The flits under way to an input of a router. -/
def inbound (s : State) (pkg : BitVec 7) (r : Router) (input : Dir) : List Flit :=
  if input = 0 then [] else (linkWay (linkRec s (meshLink 0 pkg r input)) (inputOf input)).wire

/-- Flits of a class that an input buffer holds or has room kept for. -/
def bufferLoad (s : State) (pkg : BitVec 7) (r : Router) (input : Dir) (cls : BitVec 2) : Nat :=
  (s.net.flits.filter (fun f => flitAt s pkg r f && f.input == input && f.cls == cls)).length
    + ((inbound s pkg r input).filter (fun f => f.cls == cls)).length

/-- Flits that an input buffer holds for each class. -/
def bufferFlits : Nat := 8

/-- Whether a header is one that device hardware sends: a KIND that is not reserved, and the class of its kind (R341). -/
def headerLegal (p : Packet) : Bool := decide (p.kind.toNat ≤ 8) && p.cls == kindClass p.kind.toNat

/-- A link can carry a flit now: trained at bring-up, or detoured, awake, and not about to retrain (R342, R353, R354, R388). (DEDUCED, log
entry 47.) -/
def linkCarries (s : State) (l : Nat) : Bool :=
  let r := linkRec s l
  decide (4 ≤ s.health.bootStep) && (!linkFailed s l || r.detoured) && r.power != .sleep && !mustRetrain r

/-- The receiving end of a link takes the oldest flit under way to an input: into the buffer when its CRC holds and it is the one expected,
else it is discarded with the later ones and a NAK goes back (R342). A flit of a packet that a router has dropped goes no further. -/
def takeFlit (pkg : BitVec 7) (r : Router) (input : Dir) (s : State) : Option State :=
  let l := meshLink 0 pkg r input
  let d := inputOf input
  match inbound s pkg r input with
  | [] => none
  | f :: rest =>
    if !linkCarries s l then none
    else
      let x := linkRec s l
      let w := linkWay x d
      let packet := packetOf s f.pkt
      if f.seq = w.expect ∧ packet.all (fun p => f.crc == crc32c (flitBytes p f.idx)) then
        let s := setLink (setWay d { w with wire := rest, expect := w.expect + 1 } { x with fails := 0, lastTraffic := s.now }) s
        some (if packet.isSome then { s with net.flits := s.net.flits ++ [f] } else s)
      else some (nakFlit l d s)

/-- The first flit of every input and class of a router, in the order of the list. -/
def headFlits (s : State) (pkg : BitVec 7) (r : Router) : List (Flit × Nat) :=
  (s.net.flits.zipIdx.filter (fun x => flitAt s pkg r x.1)).foldl (fun acc x =>
    if acc.any (fun y => y.1.input == x.1.input && y.1.cls == x.1.cls) then acc else acc ++ [x]) []

/-- Whether a flit may move on from its router: ejected at its destination, else over a link that carries it to a buffer with a
credit. -/
def flitMoves (s : State) (p : Packet) (f : Flit) : Bool :=
  let d := routeDir false f.router p.dest
  d == 0 || !headerLegal p || (linkCarries s (meshLink 0 p.pkg f.router d)
    && decide (bufferLoad s p.pkg (routerStep f.router d) (inputOf d) f.cls < bufferFlits))

/-- A flit moves, the `i`th of the list. A router that meets a header which no device hardware sends drops the packet and reports a link
error to the management core (R341). -/
def moveFlit (p : Packet) (f : Flit) (i : Nat) (s : State) : State :=
  let d := routeDir false f.router p.dest
  let rest := s.net.flits.eraseIdx i
  if !headerLegal p then
    let s := dropPacket p.id s
    { s with health.linkErrors := s.health.linkErrors ++ [p.pkg.toNat * 2 ^ 15 + f.router.toNat] }
  else if d = 0 then updPacket p.id (fun x => { x with ejected := x.ejected + 1 }) { s with net.flits := rest }
  else
    let l := meshLink 0 p.pkg f.router d
    wakeLink l (sendFlit l d { f with router := routerStep f.router d, input := inputOf d } { s with net.flits := rest })

/-- A flit of a packet enters the local input of its source router. -/
def injectFlit (p : Packet) (s : State) : State :=
  updPacket p.id (fun x => { x with sent := x.sent + 1 }) { s with net.flits := s.net.flits ++ [newFlit p] }

/-- The packet whose flit a source port may send next: the first of its class that has not left, with room at the local input. -/
def nextInject (s : State) (pkg : BitVec 7) (r : Router) : Option Packet :=
  ((List.range 4).filterMap (fun c =>
    (s.net.packets.find? (fun p => p.pkg == pkg && p.src == r && p.cls == BitVec.ofNat 2 c && decide (p.sent < flitCount p.data.length)
      && p.retryAt == 0)).bind (fun p => if bufferLoad s pkg r 0 p.cls < bufferFlits then some p else none))).head?

/-- `FLIT_FORWARD` (R340-R342): a router takes in a flit that has come to it, or else moves one on: the first of its input and class that
holds a credit, else one of its own port. A flit that meets a sleeping link wakes it. Routers are numbered package by package. -/
def execFlitForward (router : Nat) (s : State) : Out :=
  let pkg := BitVec.ofNat 7 (router / 2 ^ 15)
  let r : Router := BitVec.ofNat 15 router
  let heads := headFlits s pkg r
  match ([1, 2, 3, 4] : List Dir).findSome? (fun i => takeFlit pkg r i s) with
  | some t => .next t
  | none =>
  match heads.findSome? (fun x => match packetOf s x.1.pkt with
      | some p => if flitMoves s p x.1 then some (p, x.1, x.2) else none
      | none => none) with
  | some (p, f, i) => .next (moveFlit p f i s)
  | none =>
    match nextInject s pkg r with
    | some p => .next (injectFlit p s)
    | none =>
      .next (heads.foldl (fun s x => match packetOf s x.1.pkt with
        | some p =>
          let d := routeDir false r p.dest
          if d = 0 then s else wakeLink (meshLink 0 pkg r d) s
        | none => s) s)

/-! ## Placements (R141, R143, R145, R331, R336) -/

/-- What the port at a packet's destination makes of it. (DESIGN CHOICE, log entry 13.) -/
def receivePacket (p : Packet) (s : State) : State × RemoteAns :=
  match holderOf s p.launch p.sec p.ord with
  | .own => placeLabel p.label p.ofs.toNat (p.ofs.toNat + p.data.length) p.data s
  | .frozen =>
    if s.core.port.holding.contains (.packet p.id) then (s, .stays)
    else if holdingRoom s (.packet p.id) then (holdData (.packet p.id) s, .stays)
    else (s, .refused)
  | .away => (s, savedLabel s p.launch p.sec p.ord p.label p.ofs.toNat p.data.length)
  | .gone => (s, .error)
  | .other _ =>
    let x := freeAnswer 3 s
    (x.1, if x.2 = 0 then .ok [] else if x.2 = 1 then .refused else .error)

/-- The acknowledgement of a packet goes back to its sender: 0 placed, 1 refused, 2 error. A refused packet stays with its sender. -/
def answerPacket (p : Packet) (a : RemoteAns) (s : State) : State :=
  let result : BitVec 2 := match a with | .ok _ => 0 | .refused => 1 | .error => 2 | .stays => 1
  match a with
  | .stays => s
  | _ =>
    let s := if result = 1 then updPacket p.id (fun x => { x with answered := true }) s else dropPacket p.id s
    let s := { s with core.port.holding := s.core.port.holding.filter (fun x => x != .packet p.id) }
    sendPacket { controlPacket 5 p.pkg p.receiver p.sender p.label p.ofs 0 p.cmd result with launch := p.launch, sec := p.sec } s

/-- A packet placed, refused or held at its destination; the clasp arms circuit placement of its flow. -/
def placePacket (p : Packet) (s : State) : State :=
  let x := receivePacket p s
  let arm := p.kind == 3 && (match x.2 with | .ok _ => true | _ => false)
  let s := if arm then
      { x.1 with net.circuits := x.1.net.circuits.map (fun c =>
          if c.promoted ∧ c.sender = p.sender ∧ c.receiver = p.receiver ∧ c.label = p.label then { c with armed := true, claspEnd := p.aux.toNat } else c) }
    else x.1
  answerPacket p x.2 s

/-- A packet or access that was held is served. -/
def placeHeld (id : Nat) (s : State) : State :=
  match s.net.remote.find? (fun e => e.pkt == id && !e.answered), packetOf s id with
  | some e, _ => let x := remoteAccess e s; answerAccess e x.2 x.1
  | none, some p => placePacket p s
  | none, none => s

/-- `PACKET_PLACEMENT` (R143): a `SEND` data packet that has arrived is placed, refused or ends in an error. -/
def execPacketPlacement (idx : Nat) (s : State) : Out :=
  match s.net.packets[idx]? with
  | some p => if p.kind = 2 ∧ nextArrived s p then .next (placePacket p s) else .next s
  | none => .next s

/-- `CLASP_PLACEMENT` (R336). -/
def execClaspPlacement (idx : Nat) (s : State) : Out :=
  match s.net.packets[idx]? with
  | some p => if p.kind = 3 ∧ nextArrived s p then .next (placePacket p s) else .next s
  | none => .next s

/-- The entry of a flow whose clasp has been placed now counts on circuit data from the end of the clasp. After a clasp that ended with ERR
the next `SEND` is the clasp again (DESIGN CHOICE, log entry 86). -/
def noteClasp (c : Command) (s : State) : State :=
  match flowEntry s c with
  | some (m, x) =>
    if x.armed ∧ !m.clasped then
      updMeters (fun y => y.dest == m.dest && y.label == m.label)
        (fun y => { y with clasped := true, chainEnd := BitVec.ofNat 32 (sendOfs c + sendLen c) }) s
    else s
  | none => s

/-- The command of the copy queue that a packet or acknowledgement belongs to, when it is in execution. -/
def copyCommand (s : State) (launch cmd : Nat) : Option Command :=
  match queueHead s 5, execOf s 5 with
  | some c, some r => if s.core.launch = launch ∧ c.id = cmd ∧ r.id = cmd then some c else none
  | _, _ => none

/-- The access that an answer belongs to: the one its sender's command has out. -/
def answeredAccess (s : State) (p : Packet) : Option RemotePool :=
  s.net.remote.find? (fun e => e.sender == p.receiver && e.cmd == p.cmd && e.launch == p.launch && !e.answered)

/-- The answer to an access of a copy: data or an acknowledgement, a refusal after which it is offered again in 1 µs, or an error. -/
def accessAnswer (e : RemotePool) (p : Packet) (s : State) : State :=
  if p.result = 1 then
    { s with net.remote := s.net.remote.map (fun x => if x = e then { x with retryAt := s.now + 1000 } else x) }
  else
    let s := { s with net.remote := s.net.remote.filter (fun x => x != e) }
    if p.receiver ≠ s.core.id then s
    else pieceAnswer p.cmd (if p.result = 0 then .ok p.data else .error) s

/-- `PLACEMENT_ACKNOWLEDGEMENT` (R141, R143, R145): the `SEND` or the piece of a copy completes, ends with ERR, or is offered again
after 1 µs; the response to a read of another core's pool brings its bytes. -/
def execPlacementAcknowledgement (idx : Nat) (s : State) : Out :=
  match s.net.packets[idx]? with
  | some p =>
    if (p.kind ≠ 5 ∧ p.kind ≠ 1) ∨ !nextArrived s p then .next s
    else
      let s := dropPacket p.id s
      match answeredAccess s p with
      | some e => .next (accessAnswer e p s)
      | none =>
      if p.result = 1 then
        .next { s with net.packets := s.net.packets.map (fun x =>
          if x.answered ∧ x.sender = p.receiver ∧ x.cmd = p.cmd ∧ x.launch = p.launch ∧ (x.kind = 2 ∨ x.kind = 3) then
            { x with retryAt := s.now + 1000 } else x) }
      else if p.receiver ≠ s.core.id then .next s
      else
        match copyCommand s p.launch p.cmd with
        | some c => if p.result = 0 then .next (finishCmd 5 (noteClasp c s)) else .next (commandError 5 s)
        | none => .next s
  | none => .next s

/-- A packet goes out again from its port, to the core that holds the ordinal now. -/
def resendPacket (p : Packet) (s : State) : State :=
  let dst := match holderOf s p.launch p.sec p.ord with
    | .own | .frozen => s.core.id
    | .other id => id
    | .away | .gone => p.receiver
  { s with net.packets := s.net.packets.filter (fun x => x.id != p.id) ++
    [{ p with sent := 0, ejected := 0, answered := false, retryAt := 0, receiver := dst, dest := routerOf dst }] }

/-- `REOFFER` (R141): what was refused is offered again once 1 µs has passed: the `idx`th packet, or past the packets the access to a
remote pool, with its packet. Where the ordinal's core is in another package by then, the `SEND` or the piece starts anew. -/
def execReoffer (idx : Nat) (s : State) : Out :=
  match s.net.packets[idx]? with
  | some p =>
    if p.retryAt = 0 ∨ s.now.toNat < p.retryAt.toNat then .next s
    else
      if p.sender = s.core.id ∧ p.launch = s.core.launch ∧ corePkg (ordPlace s p.ord) ≠ p.pkg then
        .next (setCursor 0 (dropPacket p.id s))
      else .next (resendPacket p s)
  | none =>
    let i := idx - s.net.packets.length
    match s.net.remote[i]? with
    | some e =>
      if e.retryAt = 0 ∨ s.now.toNat < e.retryAt.toNat then .next s
      else
        let s := { s with net.remote := s.net.remote.modify i (fun e => { e with retryAt := 0 }) }
        match packetOf s e.pkt with
        | none => .next s
        | some p =>
          if e.sender = s.core.id ∧ e.launch = s.core.launch ∧ corePkg (ordPlace s e.ord) ≠ p.pkg then
            .next (dropPacket p.id { s with net.remote := s.net.remote.eraseIdx i })
          else .next (resendPacket p s)
    | none => .next s

/-! ## Meters (R335, R346, R347, R350) -/

/-- `METER_INTERVAL_END` (R335, R346, R350): the count restarts; an idle entry is freed; a promoted circuit without a `SEND` in the
interval is released; a hold-off runs down. -/
def execMeterIntervalEnd (entry : Nat) (s : State) : Out :=
  match s.core.port.meters[entry]? with
  | none => .next s
  | some m =>
    if s.now.toNat < m.intervalEnd.toNat then .next s
    else .next (endInterval m s)

/-! ## Probes (R274, R335, R348, R349) -/

/-- Whether an output of the circuit plane is held: by a circuit, by a probe, or by the failure of its link; before bring-up has trained the
links, by that (R388). -/
def outputHeld (s : State) (pkg : BitVec 7) (r : Router) (d : Dir) : Bool :=
  s.net.circuits.any (fun c => c.pkg == pkg && c.path.contains (r, d))
  || s.net.probes.any (fun p => p.pkg == pkg && p.reserved.contains (r, d))
  || (d != 0 && (linkFailed s (meshLink 1 pkg r d) || decide (s.health.bootStep < 4)))

/-- Whether the core that a probe of the modelled core has reached holds the ordinal it was sent to, at work: probes never wait for a
resume (R274). -/
def probeHolder (s : State) (p : Probe) : Bool :=
  match holderOf s s.core.launch s.core.sec p.ord with
  | .own | .frozen => p.receiver == s.core.id
  | .other id => p.receiver == id
  | .away | .gone => false

/-- Whether a receiving port accepts one more circuit: fewer than 8, its core at work (R273, R274, R343). -/
def portAccepts (s : State) (p : Probe) : Bool :=
  let used := (s.net.circuits.filter (fun c => c.receiver == p.receiver)).length
    + (s.net.probes.filter (fun q => q.id != p.id && q.receiver == p.receiver && (match q.state with | .confirm _ => true | _ => false))).length
  let awake := if p.sender = s.core.id then probeHolder s p
    else if p.receiver = s.core.id then
      (match s.core.seq.run with | .running | .overlay _ | .exited | .halted _ => true | _ => false)
    else s.sched.launches.any (fun l => l.members.any (fun m => m.place == p.receiver && (m.state == .running || m.state == .exited)))
  decide (used < 8) && awake

/-- The output that a probe wants where it stands. -/
def probeOutput (p : Probe) : Dir := routeDir p.yFirst p.pos p.dest

/-- Whether another probe at the same router wants the same output and its input comes first after the input that last won it, in
the order local, north, east, south, west (R349). (DEDUCED, log entry 60.) -/
def probeYields (s : State) (p : Probe) : Bool :=
  let d := probeOutput p
  let last := match s.net.won.find? (fun w => w.1 == p.pkg && w.2.1 == p.pos && w.2.2.1 == d) with | some w => w.2.2.2.toNat | none => 4
  let rank := fun (i : Dir) => (i.toNat + 9 - last) % 5
  s.net.probes.any (fun q => q.id != p.id && q.pkg == p.pkg && q.pos == p.pos && q.state == .advance && p.state == .advance
    && probeOutput q == d && decide (rank q.input < rank p.input))

def setProbe (p : Probe) (s : State) : State :=
  { s with net.probes := s.net.probes.map (fun q => if q.id = p.id then p else q) }

def dropProbe (p : Probe) (s : State) : State := { s with net.probes := s.net.probes.filter (fun q => q.id != p.id) }

/-- An output reserved: the input that won it is remembered. (DEDUCED, log entry 60.) -/
def noteWon (pkg : BitVec 7) (r : Router) (d input : Dir) (s : State) : State :=
  { s with net.won := (pkg, r, d, input) :: s.net.won.filter (fun w => !(w.1 == pkg && w.2.1 == r && w.2.2.1 == d)) }

/-- A probe whose way is blocked backtracks, or gives up at the third time. -/
def probeBlocked (p : Probe) (s : State) : State :=
  if 2 ≤ p.b then setProbe { p with b := 3, state := .giveUp } s
  else
    match p.reserved.reverse with
    | [] => setProbe { p with b := p.b + 1, yFirst := !p.yFirst } s
    | (r, d) :: rest =>
      let before : Dir := match rest with | (_, e) :: _ => inputOf e | [] => 0
      -- after an X hop the order is Y-then-X, after a Y hop X-then-Y
      setProbe { p with b := p.b + 1, reserved := rest.reverse, pos := r, input := before, yFirst := d == 2 || d == 4 } s

/-- The circuit that a confirmed probe leaves, and what its sender's port does (R274, R335). -/
def probeSuccess (p : Probe) (s : State) : State :=
  let c : Circuit := ⟨p.id, p.pkg, p.reserved, p.sender, p.receiver, p.slot, p.label, p.promoted, false, 0, 0, [], false⟩
  let s := { dropProbe p s with net.circuits := s.net.circuits ++ [c] }
  if p.sender ≠ s.core.id then s
  else if p.promoted then
    let mine := fun (m : Meter) => m.dest == p.ord && m.label == p.label && m.tripped
    -- the entry may have gone while its probe was out
    if !s.core.port.meters.any mine then releasePromoted c s
    else updMeters mine (fun m => { m with slot := some p.slot, tripped := false, clasped := false, started := true }) s
  else
    finishCmd 5 (setHandle p.slot { handleOf s p.slot with st := 2, leaseEnd := counterOf s s.core.id + dw p.lease } s)

/-- The end of a probe that gave up: the slot is 5 for a `COPEN`, and as it was for a promotion, whose entry holds off (R274, R335,
R347). -/
def probeEnd (p : Probe) (s : State) : State :=
  let s := dropProbe p s
  if p.sender ≠ s.core.id then s
  else if p.promoted then
    updMeters (fun m => m.dest == p.ord && m.label == p.label && m.tripped)
      (fun m => { m with tripped := false, holdOff := 3 }) (setHandle p.slot { handleOf s p.slot with st := p.before } s)
  else quietError (setHandle p.slot { handleOf s p.slot with st := 5 } s)

/-- Links of a reserved path that are not at full width (R349). -/
def narrowLinks (s : State) (p : Probe) : List Nat := (circuitLinks p.pkg p.reserved).filter (fun l => !atWidth (linkRec s l))

/-- Whether a link of a reserved path has failed, or retrains: the path is not confirmed (R349, R352). -/
def pathOut (s : State) (p : Probe) : Bool :=
  (circuitLinks p.pkg p.reserved).any (fun l => linkFailed s l || mustRetrain (linkRec s l))

/-- `PROBE_ACTION` (R348, R349): the next action of the `idx`th probe. A narrow link that it crosses wakes. -/
def execProbeAction (idx : Nat) (s : State) : Out :=
  match s.net.probes[idx]? with
  | none => .next s
  | some p =>
    match p.state with
    | .launch => .next (setProbe { p with state := .advance } s)
    | .advance =>
      let d := probeOutput p
      if probeYields s p then .next s
      else if outputHeld s p.pkg p.pos d || (d == 0 && !portAccepts s p) then .next (probeBlocked p s)
      else if d = 0 then
        .next (noteWon p.pkg p.pos 0 p.input (setProbe { p with reserved := p.reserved ++ [(p.pos, 0)], state := .confirm p.reserved.length } s))
      else
        .next (wakeLink (meshLink 1 p.pkg p.pos d) (noteWon p.pkg p.pos d p.input
          (setProbe { p with reserved := p.reserved ++ [(p.pos, d)], pos := routerStep p.pos d, input := inputOf d } s)))
    | .confirm (n + 1) => .next (setProbe { p with state := .confirm n } s)
    | .confirm 0 =>
      if pathOut s p then .next (setProbe { p with b := 3, state := .giveUp } s)
      else match narrowLinks s p with
      | [] => .next (probeSuccess p s)
      | l => .next (l.foldl (fun s x => wakeLink x s) s)
    | .giveUp =>
      match p.reserved with
      | [] => .next (probeEnd p s)
      | l => .next (setProbe { p with reserved := l.dropLast } s)

/-! ## Circuit data and check windows (R336, R344, R345, R351) -/

/-- Whether a beat is the first one of its circuit still on its way. -/
def firstBeat (s : State) (idx : Nat) (b : Beat) : Bool := !(s.net.beats.take idx).any (fun x => x.circuit == b.circuit)

/-- The window of a circuit at the modelled receiver. -/
def rxWindow (s : State) (circuit start : Nat) : Option RxWindow :=
  s.net.rx.find? (fun w => w.circuit == circuit && w.start == start)

/-- A window of the same label and start that has passed and whose acknowledgement may have been lost (R351).
(DEDUCED, log entry 39.) -/
def passedBefore (s : State) (c : Circuit) (start : Nat) : Option RxWindow :=
  s.net.rx.find? (fun w => w.label == c.label && w.start == start && w.passed)

/-- The state of the buffer bound to a label admits a circuit word, holds it off, or the word ends its window (R165, R345). -/
def wordAnswer (s : State) (label : BitVec 16) (a n : Nat) : BufAnswer :=
  match recvBuffer s label with
  | none => .fault
  | some k =>
    match (bufOf s k.toNat).state with
    | .full | .draining => .wait
    | .empty | .filling =>
      if (List.range ((n + 3) / 4)).any (fun i => isPlaced s (a + 4 * i)) then .fault else .allowed

/-- Where the receiver takes a beat's window to start. Circuit data carries no offset: that of a promoted flow goes to the end of the
clasp plus the bytes received of windows before it (R336); the windows of a `CSTREAM` follow its offset (R344). -/
def windowStart (c : Circuit) (b : Beat) : Nat := if c.promoted then c.claspEnd + c.taken else b.window

/-- Where a beat's data goes in the flow. -/
def beatOfs (c : Circuit) (b : Beat) : Nat := windowStart c b + (b.ofs - b.window)

/-- Whether every data beat of a window that is still on its way lies in the buffer bound to the label (R345). -/
def windowFits (s : State) (c : Circuit) (window : Nat) : Bool :=
  s.net.beats.all (fun x => !(x.circuit == c.id && x.window == window && x.check.isNone)
    || (labelAddr s.core c.label (beatOfs c x) x.data.length).isSome)

/-- A window is there for the beats that come. -/
def openWindow (c : Circuit) (start : Nat) (s : State) : State :=
  if (rxWindow s c.id start).isSome then s
  else { s with net.rx := s.net.rx ++ [⟨c.id, c.label, start, [], [], false, false, false, false⟩] }

/-- Data of a window placed unchecked at the modelled receiver, as it arrives; of a window that reaches past the buffer no word is
placed. -/
def placeBeat (c : Circuit) (b : Beat) (s : State) : State :=
  let start := windowStart c b
  let s := openWindow c start s
  match rxWindow s c.id start with
  | none => s
  | some w =>
    let ofs := beatOfs c b
    let s := updWindow c.id start (fun w => { w with data := w.data ++ b.data.zipIdx.map (fun x => (ofs + x.2, x.1)) }) s
    if w.refused ∨ w.range then s
    else
      match labelAddr s.core c.label ofs b.data.length with
      | none => updWindow c.id start (fun w => { w with range := true }) s
      | some a =>
        if !windowFits s c b.window then updWindow c.id start (fun w => { w with range := true }) s
        else match wordAnswer s c.label a b.data.length with
        | .wait => updWindow c.id start (fun w => { w with refused := true }) s
        | .fault => updWindow c.id start (fun w => { w with range := true }) s
        | .allowed =>
          let s := if w.counted then s else changeChk c.label (fun n => n + 1) s
          let words := (List.range ((b.data.length + 3) / 4)).map (fun i => a / 4 * 4 + 4 * i)
          placeBytes a b.data true true (updWindow c.id start (fun w => { w with placed := w.placed ++ words, counted := true }) s)

/-- Whether the modelled core is frozen as the receiver of a circuit (R331). -/
def frozenAt (s : State) (c : Circuit) : Bool :=
  c.receiver == s.core.id && (match s.core.seq.run with | .halted _ => true | _ => false)

/-- A beat for a frozen core goes into its holding buffer; where that is full, its window is refused (R331, R345). -/
def holdBeat (c : Circuit) (b : Beat) (s : State) : State :=
  if holdingRoom s (.beat b) then holdData (.beat b) s
  else updWindow c.id (windowStart c b) (fun w => { w with refused := true }) (openWindow c (windowStart c b) s)

/-- `CIRCUIT_BEAT` (R331, R336, R345): a data beat arrives. No circuit byte of a promoted flow is placed before its clasp. -/
def execCircuitBeat (idx : Nat) (s : State) : Out :=
  match s.net.beats[idx]? with
  | none => .next s
  | some b =>
    match circuitOf s b.circuit with
    | none => .next { s with net.beats := s.net.beats.eraseIdx idx }
    | some c =>
      if b.check.isSome ∨ !firstBeat s idx b ∨ (c.promoted ∧ !c.armed) then .next s
      else
        let s := circuitTraffic c { s with net.beats := s.net.beats.eraseIdx idx }
        if c.receiver ≠ s.core.id then .next s
        else if frozenAt s c then .next (holdBeat c b s)
        else .next (placeBeat c b s)

/-- The answer to a window goes back on the packet plane: 6 passed, or 7 with REFUSED and RANGE. -/
def windowAnswer (c : Circuit) (kind : BitVec 4) (start : Nat) (aux : Word) (s : State) : State :=
  sendPacket (controlPacket kind c.pkg c.receiver c.sender c.label (BitVec.ofNat 32 start) aux c.id 0) s

/-- The data of a window of a promoted flow counts as received (R336). -/
def takeWindow (c : Circuit) (w : RxWindow) (s : State) : State :=
  updCircuit c.id (fun x => { x with taken := x.taken + w.data.length }) s

/-- A window has passed: its words are checked, and the buffer may become full (R164, R345). -/
def passWindow (c : Circuit) (w : RxWindow) (s : State) : State :=
  let s := takeWindow c w s
  let s := { updWindow w.circuit w.start (fun w => { w with passed := true, counted := false }) s with
    core.pool.unchecked := s.core.pool.unchecked.filter (fun a => !w.placed.contains a) }
  let s := windowPassed (w.circuit, w.start) (if w.counted then changeChk c.label (fun n => n - 1) s else s)
  let s := match recvBuffer s c.label with
    | some k => afterPlacement k.toNat true s
    | none => s
  windowAnswer c 6 w.start 0 s

/-- A check beat at the modelled receiver. A window that had passed before is acknowledged again when it is the same, and nothing is
placed (R351). -/
def checkWindow (c : Circuit) (b : Beat) (crc : DWord) (s : State) : State :=
  match rxWindow s c.id (windowStart c b) with
  | none => s
  | some w =>
    match (passedBefore s c w.start).bind (fun o =>
        if windowCrc o.start (o.data.map (fun x => x.2)) = crc ∧ o.data.length = w.data.length ∧ w.placed = [] then some o else none) with
    | some o =>
      let rx := s.net.rx.filter (fun x => x != w && x != o)
      takeWindow c w (windowAnswer c 6 w.start 0 { s with net.rx := rx ++ [{ o with circuit := c.id }] })
    | none =>
      if w.range then takeWindow c w (windowAnswer c 7 w.start 2 (dropWindow w s))
      else if w.refused then windowAnswer c 7 w.start 1 (failWindow w s)
      else if windowCrc w.start (w.data.map (fun x => x.2)) = crc then passWindow c w s
      else windowAnswer c 7 w.start 0 (failWindow w s)

/-- `WINDOW_CHECK` (R331, R344, R345, R351): a check beat arrives. At a frozen core it waits behind the data that is held, unless its window
has been refused. -/
def execWindowCheck (idx : Nat) (s : State) : Out :=
  match s.net.beats[idx]? with
  | none => .next s
  | some b =>
    match circuitOf s b.circuit, b.check with
    | some c, some crc =>
      if !firstBeat s idx b then .next s
      else
        let s := circuitTraffic c { s with net.beats := s.net.beats.eraseIdx idx }
        if c.receiver ≠ s.core.id then
          let x := freeAnswer 5 s
          match x.2 with
          | 0 => .next (windowAnswer c 6 b.window 0 x.1)
          | 1 => .next (windowAnswer c 7 b.window 0 x.1)
          | 2 => .next (windowAnswer c 7 b.window 1 x.1)
          | 3 => .next (windowAnswer c 7 b.window 2 x.1)
          -- it has unbound the label (R277, R350)
          | _ => .next (cutCircuit c.id 3 x.1)
        else if frozenAt s c then
          let refused := match rxWindow s c.id (windowStart c b) with | some w => w.refused || !holdingRoom s (.beat b) | none => !holdingRoom s (.beat b)
          if refused then
            let keep := fun (h : Held) => match h with | .beat x => !(x.circuit == c.id && x.window == b.window) | .packet _ => true
            let s := { s with core.port.holding := s.core.port.holding.filter keep }
            let s := match rxWindow s c.id (windowStart c b) with | some w => failWindow w s | none => s
            .next (windowAnswer c 7 (windowStart c b) 1 s)
          else .next (holdData (.beat b) s)
        else .next (checkWindow c b crc s)
    | _, _ => .next s

/-- Held data goes to its target. -/
def drainOne (h : Held) (s : State) : State :=
  match h with
  | .packet id => placeHeld id s
  | .beat b =>
    match circuitOf s b.circuit, b.check with
    | some c, some crc => checkWindow c b crc s
    | some c, none => placeBeat c b s
    | none, _ => s

/-- The holding buffer of the modelled core drains into its targets, in the order of arrival, while the core is still frozen (R331). -/
def drainHolding (s : State) : State :=
  let run := s.core.seq.run
  let s := s.core.port.holding.foldl (fun s h => drainOne h s) { s with core.port.holding := [], core.seq.run := .running }
  { s with core.seq.run := run }

/-- The window of a circuit that the sender has not had acknowledged. -/
def txWindow (c : Circuit) (start : Nat) : Option TxWindow := c.tx.find? (fun t => t.start == start)

/-- A handle after an acknowledgement: each complete window advances RESUME to its end, in whichever order the windows of one `CSTREAM` are
acknowledged (R273, R276). A window that ends at flow byte 2^32 leaves 0 (DESIGN CHOICE, log entry 83). -/
def resumeAfter (x : Handle) (t : TxWindow) : Handle :=
  let old := if x.resume = 0 then 2 ^ 32 else x.resume.toNat
  if x.resumeCmd = t.cmd ∧ t.start + t.len ≤ old then x
  else { x with resume := BitVec.ofNat 32 (t.start + t.len), resumeCmd := t.cmd }

/-- `WINDOW_ACKNOWLEDGEMENT` (R276, R336, R345): the resume point moves on, or the `SEND` of a promoted flow completes. -/
def execWindowAcknowledgement (idx : Nat) (s : State) : Out :=
  match s.net.packets[idx]? with
  | some p =>
    if p.kind ≠ 6 ∨ !nextArrived s p then .next s
    else
      let s := dropPacket p.id s
      match circuitOf s p.cmd with
      | none => .next s
      | some c =>
        match txWindow c p.ofs.toNat with
        | none => .next s
        | some t =>
          let s := updCircuit c.id (fun c => { c with tx := c.tx.filter (fun y => y.start != t.start) })
            { s with net.rx := s.net.rx.filter (fun w => !(w.circuit == c.id && w.start == t.start)) }
          if c.sender ≠ s.core.id then .next s
          else if c.promoted then
            match queueHead s 5, execOf s 5 with
            | some x, some r => if x.op = .sendCmd ∧ r.cursor = 2 then .next (finishCmd 5 s) else .next s
            | _, _ => .next s
          else .next (setHandle c.slot (resumeAfter (handleOf s c.slot) t) s)
  | none => .next s

/-- A window that the receiver turned away for its range ends its command with ERR, and with it its other windows; the circuit stays (R143,
R345). -/
def rangeError (c : Circuit) (t : TxWindow) (s : State) : State :=
  let s := updCircuit c.id (fun c => { c with tx := c.tx.filter (fun y => y.cmd != t.cmd) }) s
  match queueHead s 5 with
  | some x =>
    if x.id ≠ t.cmd then s
    else if c.promoted && x.op == .sendCmd then commandError 5 s
    else if streamsOn c.slot x then quietError s
    else s
  | none => s

/-- `WINDOW_NAK` (R345): the sender sends the window again at once, or 1 µs after a refusal, or ends with ERR; the third failed check
cuts the circuit. -/
def execWindowNak (idx : Nat) (s : State) : Out :=
  match s.net.packets[idx]? with
  | some p =>
    if p.kind ≠ 7 ∨ !nextArrived s p then .next s
    else
      let s := dropPacket p.id s
      match circuitOf s p.cmd with
      | none => .next s
      | some c =>
        match txWindow c p.ofs.toNat with
        | none => .next s
        | some t =>
          let upd := fun (f : TxWindow → TxWindow) =>
            updCircuit c.id (fun c => { c with tx := c.tx.map (fun y => if y.start = t.start then f y else y) }) s
          if p.aux.getLsbD 1 then
            if c.sender = s.core.id then .next (rangeError c t s)
            else .next (updCircuit c.id (fun c => { c with tx := c.tx.filter (fun y => y.start != t.start) }) s)
          else if p.aux.getLsbD 0 then .next (upd (fun y => { y with retryAt := some (s.now + 1000) }))
          else if 2 ≤ t.fails then .next (cutCircuit c.id 2 s)
          else .next (upd (fun y => { y with fails := y.fails + 1, retryAt := some s.now }))
  | none => .next s

/-- `CIRCUIT_RELEASE` (R341, R350): a release message frees the crosspoints of a promoted circuit. -/
def execCircuitRelease (idx : Nat) (s : State) : Out :=
  match s.net.packets[idx]? with
  | some p =>
    if p.kind ≠ 8 ∨ !nextArrived s p then .next s
    else
      let s := dropPacket p.id s
      match circuitOf s p.cmd with
      | some c => .next (removeCircuit c s)
      | none => .next s
  | none => .next s

/-! ## Links (R342, R352-R355, R360, R362, R371) -/

/-- `LINK_REPLAY` (R342, R362): the oldest flit under way on a link fails its CRC at the receiving end, in the direction east or south where
one is under way there; on a ring link the frame does. What was sent since goes again; failures in a row make the link retrain. (DESIGN
CHOICE, log entry 84.) -/
def execLinkReplay (link : Nat) (s : State) : Out :=
  let r := linkRec s link
  if r.failed || mustRetrain r then .next s
  else if isRingLink link then
    .next (if r.openFrame.isEmpty then s else setLink { r with fails := r.fails + 1 } s)
  else if !r.fwd.wire.isEmpty then .next (nakFlit link 2 s)
  else if !r.back.wire.isEmpty then .next (nakFlit link 4 s)
  else .next s

/-- A link has failed and is reported to the management core: what crosses it on the circuit plane is cut, packets wait for the detour, and
what its ring frames held is lost (R353, R363). -/
def failLink (l : Nat) (s : State) : State :=
  let s := cutLink l s
  setLink { linkRec s l with failed := true, detoured := false, fails := 0, openFrame := [], closed := 0 }
    { s with health.failedLinks := s.health.failedLinks ++ [l] }

/-- `LINK_RETRAIN` (R352, R353, R371): buffers and credits are kept, circuits that cross the link are cut, and it sends again from its oldest
unacknowledged flit; it comes back at full width, on the lanes that trained, or with none. A ring link sets up its session again, or has
failed. -/
def execLinkRetrain (link : Nat) (lanes : LaneOutcome) (s : State) : Out :=
  let s := cutLink link s
  let r := replayLink (linkRec s link)
  if r.failed then .next s
  else
    match lanes with
    | .none => .next (setLink { r with fails := failLimit link } s)
    | .full | .narrow =>
      let narrow := decide (lanes = .narrow)
      let s := setLink { r with fails := 0, narrowed := narrow, power := if narrow then .narrow else r.power } s
      if !isRingLink link then .next s
      else if Config.sessionHolds s.fresh then .next { s with fresh := s.fresh + 1 }
      else .next (failLink link (setLink { linkRec s link with session := false } { s with fresh := s.fresh + 1 }))

/-- `LINK_FAILURE` (R353): a retrain that trained no lane fails the link. -/
def execLinkFailure (link : Nat) (s : State) : Out := .next (failLink link s)

/-- `DETOUR_LOAD` (R328, R353): detour routes are set for a failed mesh link or one of a lost die, and what waited takes them.
(DEDUCED, log entry 47.) -/
def execDetourLoad (link : Nat) (s : State) : Out :=
  let r := linkRec s link
  if linkFailed s link ∧ !isRingLink link then .next (setLink { r with detoured := true } s) else .next s

/-- Whether a circuit or a probe holds a link of the circuit plane. -/
def linkReserved (s : State) (l : Nat) : Bool :=
  s.net.circuits.any (fun c => (circuitLinks c.pkg c.path).contains l) || s.net.probes.any (fun p => (circuitLinks p.pkg p.reserved).contains l)

/-- Nanoseconds since a link last carried anything. -/
def linkIdle (s : State) (l : Nat) : Nat := (s.now - (linkRec s l).lastTraffic).toNat

/-- `LINK_NARROW` (R354, R360): a link idle for 1 µs, with no circuit reserved on it, drops to a quarter of its lanes; control lanes
of a ring never do. -/
def execLinkNarrow (link : Nat) (s : State) : Out :=
  let r := linkRec s link
  if r.power = .full ∧ link < 2 ^ 41 ∧ !r.failed ∧ 1000 ≤ linkIdle s link ∧ !linkReserved s link ∧ !s.net.waking.contains link then
    .next (setLink { r with power := .narrow } s)
  else .next s

/-- Whether a slot holds a bound core. -/
def slotBound (x : SlotRec) : Bool :=
  match x.state with
  | .loading | .running | .saving | .halted => true
  | .free | .saved | .done => false

/-- Whether no core of a package has been bound for 100 µs. -/
def packageIdle (s : State) (pkg : BitVec 7) : Bool :=
  !s.sched.slots.any (fun x => corePkg x.id == pkg && slotBound x)
    && decide (100000 ≤ (s.now - (pkgRec s pkg).lastBound).toNat)

/-- Whether a package lies beyond a station: another one, or for a bridge one of another pod (R360, R368). -/
def beyond (port : Nat) (pkg : BitVec 7) : Bool := if port < 128 then pkg.toNat != port else pkg.toNat / 8 != portPod port

/-- Whether a launch whose reach holds a package beyond a station is bound, or ended in the last 100 µs (R360).
(DEDUCED, log entry 63.) -/
def reachBeyond (s : State) (port : Nat) : Bool :=
  s.sched.launches.any (fun l => l.halls.any (fun h => beyond port h.1) &&
    (match l.phase with | .bound | .ready | .committing | .doomed => true | .waiting | .committed | .aborted => false))
  || s.net.reachSeen.any (fun x => beyond port x.1 && decide ((s.now - x.2).toNat < 100000))

/-- Whether neither end die of a mesh link has carried home traffic for 100 µs (R354). (DEDUCED, log entry 63.) -/
def endsQuiet (s : State) (l : Nat) : Bool :=
  let dies := linkDies l
  !s.net.homeSeen.any (fun x => x.1 == linkPkg l && dies.contains (64 + x.2.1.toNat) && decide ((s.now - x.2.2).toNat < 100000))

/-- `LINK_SLEEP` (R354, R360): a narrow packet-plane link with nothing to carry sleeps when for 100 µs its package has had no bound core and
its end dies no home traffic; a data link of the ring when for 100 µs no launch that reaches beyond the station was bound. -/
def execLinkSleep (link : Nat) (s : State) : Out :=
  let r := linkRec s link
  let may := if isRingLink link then !reachBeyond s (linkPort link) else linkPlane link == 0 && packageIdle s (linkPkg link) && endsQuiet s link
  if r.power = .narrow ∧ !r.failed ∧ linkEmpty r ∧ may ∧ !s.net.waking.contains link then .next (setLink { r with power := .sleep } s)
  else .next s

/-- `LINK_WAKE` (R272, R353-R355): a link on its way back is at full width, or on the lanes that its last retrain has trained. -/
def execLinkWake (link : Nat) (s : State) : Out :=
  if s.net.waking.contains link then
    let r := linkRec s link
    .next (setLink { r with power := if r.narrowed then .narrow else .full, lastTraffic := s.now }
      { s with net.waking := s.net.waking.filter (fun x => x != link) })
  else .next s

end Sys2Proof.Machine
end

