-- ==== Sys2Proof/Machine/HostEvents.lean ====
section
/-! DEFINITION. The host's writes to device registers (R312, R313), and the checks of a launch record, its tables and its image at
submission (R314-R319). -/

namespace Sys2Proof.Machine

/-! ## Device registers (R312, R313) -/

/-- How many entries of a queue a TAIL announces that have not been read: HEAD to TAIL - 1, all of them for a TAIL of 2^QSZ with HEAD 0
(R312). -/
def announcedBy (q : HostQueue) (tail : BitVec 16) : Nat :=
  let size := queueSize q
  let t := if tail.toNat ≤ size then tail.toNat else tail.toNat % size
  if q.head.toNat ≤ t then t - q.head.toNat else t + size - q.head.toNat

/-- `LMBOX` (R312, R313): entries up to TAIL - 1 of a queue are announced; the first write after boot sets LOCK.
(DEDUCED, log entry 50.) -/
def execLmbox (queue : BitVec 6) (tail : BitVec 16) (s : State) : Out :=
  let q := hostQueue s queue
  .next (setHostQueue queue { q with tail := tail, announced := announcedBy q tail } { s with sched.host.lock := true })

/-- Whether a value is legal for `QCFGn`. -/
def qcfgLegal (value : DWord) : Bool :=
  let n := fieldN value 0 4
  (n == 0 || (decide (4 ≤ n) && decide (n ≤ 12))) && fieldN value 7 25 != 0

/-- `QCFG` (R312): an illegal value is ignored and sets the queue's error bit. -/
def execQcfg (queue : BitVec 6) (value : DWord) (s : State) : Out :=
  if qcfgLegal value then
    .next (setHostQueue queue { hostQueue s queue with cfg := dw (fieldN value 0 32) } s)
  else .next { s with sched.host.qerr := s.sched.host.qerr ||| BitVec.twoPow 64 queue.toNat }

/-- `QERR` (R313): bits written as 1 clear. -/
def execQerr (value : DWord) (s : State) : Out := .next { s with sched.host.qerr := s.sched.host.qerr &&& ~~~value }

/-- `EVQHEAD` (R313). -/
def execEvqhead (value : DWord) (s : State) : Out := .next { s with sched.host.evqhead := field value 0 10 }

/-- `IKEY` (R313): ignored while LOCK is set. -/
def execIkey (write : KeyWrite) (s : State) : Out :=
  if s.sched.host.lock then .next s
  else
    match write with
    | .valid bits => .next { s with sched.host.keyValid := bits }
    | .key k d value =>
      let old := vgetD s.sched.host.keys k.toNat 0
      let lo := 64 * d.toNat
      let new : BitVec 512 := (old &&& ~~~(((0xFFFFFFFFFFFFFFFF : DWord).setWidth 512) <<< lo)) ||| (value.setWidth 512 <<< lo)
      .next { s with sched.host.keys := s.sched.host.keys.setIfInBounds k.toNat new }

/-- `DEVICE_REGISTER_WRITE` (R313): `QBASEn`, `EVQBASE`, `EVQCFG` and `PGPA`; any other offset is unlisted, read-only, or has an
event of its own, and the write is ignored. -/
def execDeviceRegisterWrite (offset : BitVec 16) (value : DWord) (s : State) : Out :=
  let o := offset.toNat
  if o = 0x40 then .next { s with sched.host.evqbase := dw (fieldN value 12 40 * 4096) }
  else if o = 0x48 then .next { s with sched.host.evqcfg := value &&& 0x07FF000F }
  else if o = 0x68 then .next { s with sched.host.pgpa := dw (fieldN value 16 36 * 65536) }
  else if 0x1000 ≤ o ∧ o < 0x1800 ∧ o % 32 = 0 then
    let q := BitVec.ofNat 6 ((o - 0x1000) / 32)
    .next (setHostQueue q { hostQueue s q with base := dw (fieldN value 12 40 * 4096) } s)
  else .next s

/-! ## Images (R319) -/

/-- A number in an image. -/
def imageNat (s : State) (img off n : Nat) : Nat := committedNat s (img + off) n

/-- Data segments: virtual address, offset in the image, file size, memory size, writable. -/
def imageSegs (s : State) (img : Nat) : List (Nat × Nat × Nat × Nat × Bool) :=
  let t := imageNat s img 0x40 8
  (List.range (imageNat s img 0x48 2)).map (fun i =>
    let m := imageNat s img (t + 32 * i + 24) 8
    (imageNat s img (t + 32 * i) 8, imageNat s img (t + 32 * i + 8) 8, imageNat s img (t + 32 * i + 16) 8, m % 2 ^ 56, m / 2 ^ 63 = 1))

/-- A byte at a virtual address of the image's data segments. -/
def segByte (s : State) (img va : Nat) : Option Byte :=
  match (imageSegs s img).find? (fun x => decide (x.1 ≤ va) && decide (va < x.1 + x.2.2.2.1)) with
  | some (base, off, file, _, _) => some (if va - base < file then committedByte s (img + off + (va - base)) else 0)
  | none => none

/-- A number at a virtual address of the data segments; none where a byte lies in no segment. -/
def segNat (s : State) (img va n : Nat) : Option Nat := ((List.range n).mapM (fun i => segByte s img (va + i))).map leNat

/-- Overlays: offset of the words, length in words, trailer mask. -/
def imageOverlays (s : State) (img : Nat) : List (Nat × Nat × BitVec 6) :=
  let t := imageNat s img 0x20 8
  (List.range (imageNat s img 0x12 2)).map (fun i =>
    let x := imageNat s img (t + 16 * i + 8) 4
    (imageNat s img (t + 16 * i) 8, x % 2 ^ 16, BitVec.ofNat 6 (x / 2 ^ 16)))

/-- Words of an image. -/
def imageWords (s : State) (img off n : Nat) : List Word :=
  (List.range n).map (fun i => BitVec.ofNat 32 (imageNat s img (off + 4 * i) 4))

/-- Whether two ranges of addresses overlap. -/
def overlap (a n b m : Nat) : Bool := decide (a < b + m) && decide (b < a + n)

/-- Whether no two ranges of a list overlap. -/
def disjoint : List (Nat × Nat) → Bool
  | [] => true
  | x :: l => !l.any (fun y => overlap x.1 x.2 y.1 y.2) && disjoint l

/-- Whether a physical address lies in device memory. -/
def inDevice (pa : Nat) : Bool := decide (pa < 2 ^ 52) && decide (paCls pa ≤ 3) && paLegal (paPkg pa) pa

/-- The limits of every field of an image (R319). -/
def imageFields (s : State) (img : Nat) (regions : List Region) : Bool :=
  let f := imageNat s img
  let size := f 0x08 8
  let ovb := f 0x10 2
  let fits := fun (off n : Nat) => decide (off + n ≤ size)
  let segs := imageSegs s img
  img % 4096 = 0 && inDevice img && f 0 4 = 0x4E310001 && f 4 4 = 1
  && decide (1 ≤ ovb) && decide (ovb ≤ 3584) && decide (f 0x12 2 ≤ 256) && (f 0x12 2 != 0 || ovb == 3584)
  && decide (3584 ≤ f 0x14 2) && decide (f 0x14 2 < 4096) && f 0x16 2 = 0
  && fits (f 0x18 8) (4 * ovb) && fits (f 0x20 8) (16 * f 0x12 2) && fits (f 0x28 8) 2048 && fits (f 0x30 8) 2048
  && fits (f 0x38 8) 8192 && fits (f 0x40 8) (32 * f 0x48 2) && decide (f 0x48 2 ≤ 64) && f 0x4A 6 = 0
  && f 0x50 8 = size && decide (f 0x58 1 ≤ 7) && f 0x59 167 = 0
  && (imageOverlays s img).all (fun o => decide (o.2.1 ≤ 3584 - ovb) && fits o.1 (4 * o.2.1))
  && segs.all (fun x => fits x.2.1 x.2.2.1 && decide (x.2.2.1 ≤ x.2.2.2.1) && decide (x.1 + x.2.2.2.1 ≤ 0x3FFFFC000))
  && disjoint (segs.map (fun x => (x.1, x.2.2.2.1)) ++ regions.map (fun r => (r.va, r.size)))

/-- The signature of an image (R319): by a key that is enrolled, over the digest of the image (DESIGN CHOICE, log entry 7). -/
def imageSigned (s : State) (img : Nat) : Bool :=
  let size := imageNat s img 0x08 8
  let key := imageNat s img 0x58 1
  let digest := BitVec.ofNat 512 (leNat (shake256 64 (committedBytes s img size)))
  s.sched.host.keyValid.getLsbD key
    && Config.signatureValid digest (vgetD s.sched.host.keys key 0) (committedBytes s (img + size) 49856)

/-! ## Launch records (R314-R318) -/

/-- The bits of each doubleword of a launch record that hold a field. -/
def recordMasks : List DWord :=
  [0xFFFFFFFFFFFFFFFF, 0x00FFFFFFFFFFFFFF, 0x0003FF7F07FFFFFF, 0x0000FFFFFFFF7FFF, 0x00FFFFFFFFFFFFFF, 0x7F,
   0x00FFFFFFFFFFFFFF, 0x1FF, 0x00FFFFFFFFFFFFFF, 0xFF, 0xFFFFFFFFFFFFFFFF, 0xFFFFFFFFFFFFFFFF]

/-- A doubleword of a record. -/
def recDw (s : State) (pa i : Nat) : DWord := dw (committedNat s (pa + 8 * i) 8)

/-- A list of options whose every entry is there. -/
def allSome {α : Type} (l : List (Option α)) : Option (List α) := l.mapM id

/-- The span list (R219, R316): package and cores, in ordinal order; the home package holds all cores without one. -/
def readSpan (s : State) (img : Nat) (r : Nat → DWord) (home : BitVec 7) (cores : Nat) : Option (List (BitVec 7 × Nat)) :=
  let va := fieldN (r 8) 0 56
  let n := fieldN (r 9) 0 8
  if va = 0 then (if n = 0 then some [(home, cores)] else none)
  else
    match allSome ((List.range n).map (fun i => segNat s img (va + 8 * i) 8)) with
    | none => none
    | some l =>
      let span := l.map (fun x => (BitVec.ofNat 7 x, x / 2 ^ 16 % 2 ^ 24))
      if l.all (fun x => x % 2 ^ 16 / 2 ^ 7 == 0 && x / 2 ^ 40 == 0) && (span.map (fun x => x.1)).Nodup
          && (span.map (fun x => x.2)).sum == cores then some span else none

/-- Ordinals of the ranges of one group, for the rules of R318. -/
def rangeOverlap (x y : Nat × Nat) : Bool := decide (x.1 ≤ y.2) && decide (y.1 ≤ x.2)

def rangesApart : List (Nat × Nat) → Bool
  | [] => true
  | x :: l => !l.any (rangeOverlap x) && rangesApart l

/-- The group table (R318), none when it is illegal. -/
def readGroups (s : State) (img : Nat) (r : Nat → DWord) (cores : Nat) : Option (List (List (Nat × Nat))) :=
  let va := fieldN (r 6) 0 56
  let n := fieldN (r 7) 0 9
  let range := fun (i : Nat) => (segNat s img (va + 8 * n + 8 * i) 8).map (fun x => (x % 2 ^ 24, x / 2 ^ 24 % 2 ^ 24))
  let group := fun (g : Nat) => (segNat s img (va + 8 * g) 4).bind (fun x =>
    allSome ((List.range (x / 2 ^ 16)).map (fun k => range (x % 2 ^ 16 + k))))
  match allSome ((List.range n).map group) with
  | none => none
  | some gs =>
    let all := gs.flatMap id
    -- an ordinal of more than four groups shows at the first ordinal of some range
    if all.all (fun x => decide (x.1 ≤ x.2) && decide (x.2 < cores)) && gs.all rangesApart
        && all.all (fun x => decide ((gs.filter (fun g => g.any (fun y => rangeOverlap (x.1, x.1) y))).length ≤ 4)) then some gs
    else none

/-- Packages that the entries of the region table name, whether or not the table is legal (R219, R314). -/
def regionPkgs (s : State) (img : Nat) (r : Nat → DWord) : List (BitVec 7) :=
  (List.range (fieldN (r 5) 0 7)).filterMap (fun i => (segNat s img (fieldN (r 4) 0 56 + 32 * i + 16) 8).bind (fun f =>
    if (dw f).getLsbD 12 then some (field (dw f) 5 7) else none))

/-- The region table (R317), none when it is illegal. -/
def readRegions (s : State) (img : Nat) (r : Nat → DWord) : Option (List Region) :=
  let va := fieldN (r 4) 0 56
  let n := fieldN (r 5) 0 7
  let entry := fun (i : Nat) =>
    match segNat s img (va + 32 * i) 8, segNat s img (va + 32 * i + 8) 8, segNat s img (va + 32 * i + 16) 8,
        segNat s img (va + 32 * i + 24) 8 with
    | some b, some z, some f, some nm =>
      let f := dw f
      let reg : Region := ⟨b, z, field f 0 2, field f 2 2, f.getLsbD 4, if f.getLsbD 12 then some (field f 5 7) else none, BitVec.ofNat 32 nm⟩
      if b % 65536 = 0 ∧ z % 65536 = 0 ∧ b + z ≤ 2 ^ 56 ∧ fieldN f 13 51 = 0 ∧ nm < 2 ^ 32 ∧ (reg.host = false ∨ reg.cls = 1) then some reg
      else none
    | _, _, _, _ => none
  match allSome ((List.range n).map entry) with
  | none => none
  | some l => if disjoint (l.map (fun x => (x.va, x.size))) then some l else none

/-- The fields of a launch record that stand in the record itself (R316); none when it is malformed. Groups and regions are read
apart from it. -/
def readRecord (s : State) (pa : Nat) (src : LaunchSrc) (prio : BitVec 3) : Option LaunchRec :=
  let r := recDw s pa
  let img := (r 0).toNat
  let cores := fieldN (r 2) 0 24
  let home : BitVec 7 := field (r 2) 32 7
  let partw := r 10
  let fpctl := r 11
  let reserved := (List.range 32).all (fun i => r i &&& ~~~((recordMasks[i]?).getD 0) == 0)
  if pa % 256 ≠ 0 ∨ !inDevice pa ∨ !reserved ∨ cores = 0 ∨ fieldN (r 2) 42 2 = 3 ∨ 256 < fieldN (r 3) 0 9 ∨ 64 < fieldN (r 5) 0 7
      ∨ 256 < fieldN (r 7) 0 9 ∨ (partw ≠ 0 ∧ !partwLegal partw) ∨ 4 < fieldN fpctl 0 3 ∨ fieldN fpctl 8 24 ≠ 0 then none
  else
    match readSpan s img r home cores with
    | none => none
    | some span =>
      some { LaunchRec.none with
        id := s.sched.nextLaunch, src := src, lrec := pa, image := img, args := fieldN (r 1) 0 56, cores := cores, home := home
        sfm := (r 2).getLsbD 40, pol := (r 2).getLsbD 41, pair := field (r 2) 42 2, dss := field (r 2) 44 3, dbg := (r 2).getLsbD 47
        narrow := (r 2).getLsbD 48, deg7 := (r 2).getLsbD 49, sems := fieldN (r 3) 0 9, semchip := field (r 3) 9 6
        pairwait := fieldN (r 3) 16 32, span := span, partw0 := if partw = 0 then Config.defaultPartw else partw, fpctl0 := fpctl
        prio := prio, level := prio, since := s.now, phase := .waiting }

/-- Whether a core may be bound at all for a launch: its chiplet is there, it has not been removed, and it is a full core unless the
record allows others (R385). (DESIGN CHOICE, log entry 9.) -/
def coreFit (s : State) (deg7 : Bool) (id : CoreId) : Bool :=
  let x := slotRec s id
  !x.removed && (deg7 || x.degraded.isNone) && s.health.packages.getLsbD (corePkg id).toNat
    && !s.health.lostPkgs.contains (corePkg id) && !s.health.lostDies.contains (corePkg id, (coreChip id).setWidth 7)

/-- Whether a core is free for a bind. -/
def coreFree (s : State) (id : CoreId) : Bool :=
  match (slotRec s id).state with
  | .free | .saved => true
  | .loading | .running | .saving | .halted | .done => false

/-- Whether a core is on its way to being free: it saves, or has been ordered to. -/
def coreLeaving (s : State) (id : CoreId) : Bool :=
  let x := slotRec s id
  x.state == .saving || (x.state == .running && x.op == 3)

/-- The cores of a package that a condition admits. -/
def countCores (p : CoreId → Bool) (pkg : BitVec 7) : Nat :=
  ((List.range 16384).filter (fun i => p (BitVec.ofNat 21 (pkg.toNat * 16384 + i)))).length

/-- Packages a record names (R219). -/
def namedPackages (l : LaunchRec) : List (BitVec 7) :=
  (l.home :: l.span.map (fun x => x.1) ++ l.regions.filterMap (fun r => r.pkg)).eraseDups

/-- Whether pairing is refused (R308, R384). -/
def pairRefused (s : State) (l : LaunchRec) : Bool :=
  let free := countCores (fun id => coreFit s l.deg7 id && coreFree s id)
  l.pair != 0 && (l.narrow || l.regions.any (fun r => r.cls == 1 || r.host)
    || (if l.pair = 1 then decide (free l.home < 2 * l.cores)
        else decide (free l.home < l.cores) || !(List.range 8).any (fun i =>
          let p := BitVec.ofNat 7 (l.home.toNat / 8 * 8 + i)
          p != l.home && decide (l.cores ≤ free p))))

/-- The checks of R314 in their order: 0, or the rejection code, with the launch. Objects bound to regions take their place. -/
def checkRecord (s : State) (pa : Nat) (src : LaunchSrc) (prio : BitVec 3) (binds : List (Word × Region)) : Nat × LaunchRec :=
  match readRecord s pa src prio with
  | none => (1, LaunchRec.none)
  | some l =>
    let r := recDw s pa
    let groups := readGroups s l.image r l.cores
    let regions := readRegions s l.image r
    let bound := fun (x : Region) => match binds.find? (fun b => b.1 == x.name) with
      | some b => { b.2 with name := x.name }
      | none => x
    let l := { l with groups := groups.getD [], regions := (regions.getD []).map bound }
    if (namedPackages l ++ regionPkgs s l.image r).any (fun p => !s.health.packages.getLsbD p.toNat || s.health.lostPkgs.contains p) then (2, l)
    else if l.span.any (fun x => decide (countCores (coreFit s l.deg7) x.1 < x.2)) then (3, l)
    else if groups.isNone then (4, l)
    else if regions.isNone then (5, l)
    else if pairRefused s l then (6, l)
    else if !(imageFields s l.image (regions.getD []) && imageSigned s l.image) then (7, l)
    else (0, l)

end Sys2Proof.Machine
end

