-- ==== Sys2Proof/Machine/GraphEvents.lean ====
section
/-! DEFINITION. Task graphs (R280-R283, R320-R322): submission, nodes, edges, the end of a graph, and the submission of launches
(R314). -/

namespace Sys2Proof.Machine

/-! ## The parts of a graph in memory (R320) -/

/-- A doubleword of the header of a graph. -/
def graphDw (s : State) (header i : Nat) : Nat := committedNat s (header + 8 * i) 8

/-- Physical address of a node. -/
def nodePa (s : State) (g : GraphRec) (n : Nat) : Nat := graphDw s g.header 0 + 64 * n

/-- The first doubleword of a node, its LREC, a target, its binding list. -/
def nodeHead (s : State) (g : GraphRec) (n : Nat) : DWord := dw (committedNat s (nodePa s g n) 8)
def nodeLrec (s : State) (g : GraphRec) (n : Nat) : Nat := committedNat s (nodePa s g n + 8) 8
def nodeTarget (s : State) (g : GraphRec) (n i : Nat) : Nat := committedNat s (nodePa s g n + 16 + 2 * i) 2
def nodeBind (s : State) (g : GraphRec) (n : Nat) : Nat := committedNat s (nodePa s g n + 48) 8

/-- Edges: from, to, region-list index, count. -/
def graphEdges (s : State) (header : Nat) : List (Nat × Nat × Nat × Nat) :=
  (List.range (graphDw s header 3 % 2 ^ 12)).map (fun i =>
    let x := committedNat s (graphDw s header 2 + 16 * i) 8
    (x % 2 ^ 16, x / 2 ^ 16 % 2 ^ 16, x / 2 ^ 32 % 2 ^ 16, x / 2 ^ 48))

/-- Entry `i` of the region lists: object, offset, length. The lists stand after the edge array, and the offset takes the rest of an
entry's first doubleword, the length its second (PRESUMED, log entry 45). -/
def regionList (s : State) (header i : Nat) : Nat × Nat × Nat :=
  let a := graphDw s header 2 + 16 * (graphDw s header 3 % 2 ^ 12) + 16 * i
  let x := committedNat s a 8
  (x % 2 ^ 8, x / 2 ^ 8, committedNat s (a + 8) 8)

/-- The virtual address that the scheduler gives object `i` of a graph (R320, log entry 8): each object has its own range. -/
def objectVa (g i : Nat) : Nat := (i + 1) * 2 ^ 47 + Config.placeChoice (2 ^ 80 + g * 2 ^ 10 + i) % 2 ^ 30 * 65536

/-- A page of host memory as a package reaches it: the package of such an address is the one that accesses (R228). -/
def hostPage (pkg : BitVec 7) (c : Nat) : Nat := pkg.toNat * 2 ^ 45 + 6 * 2 ^ 42 + c % 2 ^ 26 * 65536

/-- The physical page that holds page `k` of object `i` of a graph (R280), as a package reaches it: the same in every launch that
binds it; host memory for an object with HOST set (R320). (DESIGN CHOICE, log entry 8.) -/
def objectPage (g : GraphRec) (i : Nat) (r : Region) (pkg : BitVec 7) (k : Nat) : Nat :=
  if r.host then hostPage pkg (Config.placeChoice (2 ^ 90 + (g.id * 2 ^ 10 + i) * 2 ^ 40 + k))
  else ((g.pages[i]?).getD []).getD k 0

/-- `n` pages given out for an object, which stay. -/
def givePages (r : Region) (home : BitVec 7) : Nat → State → State × List Nat
  | 0, s => (s, [])
  | n + 1, s =>
    let x := freshPage 0 r home s
    let y := givePages r home n x.1
    (y.1, x.2 :: y.2)

/-- The pages of the objects of a graph, given out at its submission; an object in host memory has none (R280). -/
def objectPages (home : BitVec 7) : List Region → State → State × List (List Nat)
  | [], s => (s, [])
  | r :: l, s =>
    let x := givePages r home (if r.host then 0 else r.size / 65536) s
    let y := objectPages home l x.1
    (y.1, x.2 :: y.2)

/-- Objects of a graph (R320). One that names no package lies in that whose memory holds the graph's header, and belongs to the reach of
every launch that binds it (R219, R280; DESIGN CHOICE, log entry 8). -/
def readObjects (s : State) (id header : Nat) : List Region :=
  (List.range (graphDw s header 5 % 2 ^ 8)).map (fun i =>
    let a := graphDw s header 4 + 32 * i
    let f := dw (committedNat s (a + 16) 8)
    ⟨objectVa id i, committedNat s (a + 8) 8, field f 0 2, field f 2 2, f.getLsbD 4,
      if f.getLsbD 12 then some (field f 5 7) else if f.getLsbD 4 then none else some (paPkg header),
      BitVec.ofNat 32 (committedNat s (a + 24) 4)⟩)

/-- Bindings of a kernel node: region name and object; the list has an entry for each region of the image. -/
def nodeBindings (s : State) (g : GraphRec) (n : Nat) : List (Word × Region) :=
  let b := nodeBind s g n
  let count := fieldN (recDw s (nodeLrec s g n) 5) 0 7
  (List.range count).filterMap (fun i =>
    let x := committedNat s (b + 8 * i) 8
    (g.objects[x / 2 ^ 32 % 2 ^ 8]?).map (fun r => (BitVec.ofNat 32 x, r)))

/-- Kind of a node. -/
def nodeKind (s : State) (g : GraphRec) (n : Nat) : Nat := fieldN (nodeHead s g n) 0 3

def nodeCount (g : GraphRec) : Nat := g.nodes.length

/-- The word that a condition, loop or switch reads: its physical address (R282, R320). -/
def nodeWordPa (s : State) (g : GraphRec) (n : Nat) : Option Nat :=
  let x := nodeLrec s g n
  let i := x % 2 ^ 8
  let ofs := x / 2 ^ 8 % 2 ^ 24
  (g.objects[i]?).map (fun r => objectPage g i r (paPkg g.header) (ofs / 65536) + ofs % 65536)

/-- The word as committed state holds it; none while its line commits. -/
def nodeWord (s : State) (g : GraphRec) (n : Nat) : Option Nat :=
  match nodeWordPa s g n with
  | some pa => if readStalls s 0 (lineNo pa) then none else some (committedNat s pa 8)
  | none => none

/-! ## Status (R320, R321) -/

def nodeState (g : GraphRec) (n : Nat) : NodeState := (g.nodes[n]?).getD ⟨0, 0, 0, none, none⟩

def setGraph (g : GraphRec) (s : State) : State :=
  { s with sched.graphs := s.sched.graphs.map (fun x => if x.id = g.id then g else x) }

/-- The entry of a graph holds ST 3 once a node of it has acted (R312). -/
def startGraph (g : GraphRec) (s : State) : State := if g.started then s else setEntryStatus g.queue g.entry 3 0 0 s

/-- The status of a node, with its STATUS word written by the device. -/
def setNode (gid n : Nat) (x : NodeState) (s : State) : State :=
  match graphOf s gid with
  | none => s
  | some g =>
    let s := setGraph { g with nodes := g.nodes.set n x, started := true } (startGraph g s)
    deviceStore (nodePa s g n + 56) (leBytes 8 (x.status.toNat + x.iterations % 2 ^ 16 * 16)) s

/-- Ended, limit, not run or failed. -/
def nodeFinished (x : NodeState) : Bool := decide (2 ≤ x.status.toNat)

/-- Nodes with an edge into a node. -/
def nodeSources (s : State) (g : GraphRec) (n : Nat) : List Nat :=
  (graphEdges s g.header).filterMap (fun e => if e.2.1 = n then some e.1 else none)

/-- The loop whose body a node is. -/
def loopOf (s : State) (g : GraphRec) (n : Nat) : Option Nat :=
  (List.range (nodeCount g)).find? (fun m => nodeKind s g m == 2 && nodeTarget s g m 0 == n)

/-- Whether a node may act (R321); a loop's body acts once for each iteration that the loop has opened (R282). -/
def nodeEligible (s : State) (g : GraphRec) (n : Nat) : Bool :=
  let x := nodeState g n
  let src := nodeSources s g n
  g.running && decide (n < nodeCount g) &&
  (match loopOf s g n with
   | some m => (nodeState g m).status == 1 && x.status != 1 && decide (x.taken < (nodeState g m).iterations)
   | none => x.status == 0 && (if nodeKind s g n = 4 then src.all (fun m => nodeFinished (nodeState g m))
       else src.all (fun m => (nodeState g m).status == 2)))

/-- Nodes that become not run: they wait and depend on a node that failed, reached its limit or was not run; the body of a loop
that will not run it. -/
def notRun (s : State) (g : GraphRec) : List Nat :=
  (List.range (nodeCount g)).filter (fun n => (nodeState g n).status == 0 && nodeKind s g n != 4 &&
    (match loopOf s g n with
     | some m => nodeFinished (nodeState g m)
     | none => (nodeSources s g n).any (fun m => let t := (nodeState g m).status; t == 3 || t == 4 || t == 5)))

/-- Not-run marks spread. -/
def spreadNotRun : Nat → Nat → State → State
  | 0, _, s => s
  | k + 1, gid, s =>
    match graphOf s gid with
    | none => s
    | some g =>
      match notRun s g with
      | [] => s
      | l => spreadNotRun k gid (l.foldl (fun s n => setNode gid n { nodeState g n with status := 4 } s) s)

/-- The graph ends when every node has finished: done with ST 5, or failed with ST 6 (R312, R321, R332). A loop's body counts with the
status of its last iteration (DEDUCED, log entry 61). The outcome of a failed graph is the record of the first of its kernel nodes to
fail; zeros where none failed, or where it failed before there was a launch (R332). -/
def settleGraph (gid : Nat) (s : State) : State :=
  let s := spreadNotRun 1025 gid s
  match graphOf s gid with
  | none => s
  | some g =>
    if !(g.running && g.nodes.all nodeFinished) then s
    else
      let bad := g.nodes.any (fun x => x.status == 3 || x.status == 5)
      let s := setGraph { g with running := false } s
      let record := (g.failed.head?.bind (fun n => (nodeState g n).launch)).bind (fun l => (launchOf s l).abort)
      let outcome := (record.map abortRecord).getD (List.replicate 64 0)
      setEntryStatus g.queue g.entry (if bad then 6 else 5) 0 0
        (setEntryOutcome g.queue g.entry (if bad then outcome else List.replicate 64 0) s)

/-- A node takes a status, and what follows of it. -/
def finishNode (gid n : Nat) (status : BitVec 4) (s : State) : State :=
  match graphOf s gid with
  | none => s
  | some g => settleGraph gid (setNode gid n { nodeState g n with status := status } s)

/-- A kernel node fails. -/
def failNode (gid n : Nat) (s : State) : State :=
  match graphOf s gid with
  | none => s
  | some g => finishNode gid n 5 (setGraph { g with failed := g.failed ++ [n] } s)

/-! ## Nodes at work -/

/-- Targets that a condition or a switch did not choose are not run; a join never becomes that (R321). -/
def chooseTarget (gid n : Nat) (targets : List Nat) (chosen : Nat) (s : State) : State :=
  let lost := targets.filter (fun t => t != chosen && t != 0xFFFF)
  let s := lost.foldl (fun s t => match graphOf s gid with
    | some g => if (nodeState g t).status = 0 ∧ nodeKind s g t ≠ 4 then setNode gid t { nodeState g t with status := 4 } s else s
    | none => s) s
  finishNode gid n 2 s

/-- An eligible node takes up its iteration, if it is the body of a loop. -/
def takeUp (s : State) (g : GraphRec) (n : Nat) : NodeState :=
  match loopOf s g n with
  | some m => { nodeState g n with taken := (nodeState g m).iterations, iterations := (nodeState g m).iterations }
  | none => nodeState g n

/-- `CONDITION_NODE` (R321). -/
def execConditionNode (graph node : Nat) (s : State) : Out :=
  match graphOf s graph with
  | none => .next s
  | some g =>
    if !(nodeEligible s g node && nodeKind s g node == 1) then .next s
    else
      match nodeWord s g node with
      | none => .next s
      | some w =>
        let t := (List.range 2).map (nodeTarget s g node)
        .next (chooseTarget graph node t (nodeTarget s g node (if w ≠ 0 then 0 else 1)) (setNode graph node (takeUp s g node) s))

/-- `SWITCH_NODE` (R321). -/
def execSwitchNode (graph node : Nat) (s : State) : Out :=
  match graphOf s graph with
  | none => .next s
  | some g =>
    if !(nodeEligible s g node && nodeKind s g node == 3) then .next s
    else
      match nodeWord s g node with
      | none => .next s
      | some w =>
        let n := fieldN (nodeHead s g node) 32 4
        let t := (List.range n).map (nodeTarget s g node)
        .next (chooseTarget graph node t (nodeTarget s g node (min w (n - 1))) (setNode graph node (takeUp s g node) s))

/-- `JOIN_NODE` (R321). -/
def execJoinNode (graph node : Nat) (s : State) : Out :=
  match graphOf s graph with
  | none => .next s
  | some g =>
    if nodeEligible s g node && nodeKind s g node == 4 then .next (finishNode graph node 2 (setNode graph node (takeUp s g node) s))
    else .next s

/-- Whether the winner that a loop holds for has neither committed nor aborted (R283); a host's write has no launch to wait for. -/
def holdOpen (s : State) (hold : Option Nat) : Bool :=
  match hold with
  | some 0 => false
  | some l => match (launchOf s l).phase with
    | .waiting | .bound | .ready | .committing | .doomed => decide ((launchOf s l).id = l)
    | .committed | .aborted => false
  | none => false

/-- `LOOP_NODE` (R282, R283): before each iteration the condition is evaluated on committed state; the body runs again, or the loop
ends, or its limit is reached. -/
def execLoopNode (graph node : Nat) (s : State) : Out :=
  match graphOf s graph with
  | none => .next s
  | some g =>
    let x := nodeState g node
    let body := nodeTarget s g node 0
    let b := nodeState g body
    let start := nodeEligible s g node && nodeKind s g node == 2
    let again := g.running && nodeKind s g node == 2 && x.status == 1 && b.taken == x.iterations && nodeFinished b && !holdOpen s x.hold
    if !(start || again) then .next s
    else
      match nodeWord s g node with
      | none => .next s
      | some w =>
        let h := nodeHead s g node
        let runs := if h.getLsbD 11 then w != 0 else w == 0
        let x := if start then { takeUp s g node with iterations := 0 } else x
        if !runs then .next (finishNode graph node 2 (setNode graph node { x with hold := none } s))
        else if fieldN h 16 16 ≤ x.iterations then .next (finishNode graph node 3 (setNode graph node { x with hold := none } s))
        else .next (setNode graph node { x with status := 1, iterations := x.iterations + 1, hold := none }
          (setNode graph body { b with status := 0, taken := x.iterations, launch := none }
            (setGraph { g with failed := g.failed.filter (fun m => m != body) } s)))

/-- The remote-class lines of a listed range of an object go from every layer of the consumer's reach, and line reads under way for it
are not kept (R322). The producer has committed: its writes are all applied at their homes by then (R300). -/
def edgeInvalidate (g : GraphRec) (pkgs : List (BitVec 7)) (e : Nat × Nat × Nat) (s : State) : State :=
  match g.objects[e.1]? with
  | none => s
  | some r =>
    let hit := fun (p : BitVec 7) (line : Nat) => pkgs.contains p && (List.range (e.2.2 / 128)).any (fun i =>
      let o := e.2.1 + 128 * i
      line == lineNo (objectPage g e.1 r p (o / 65536) + o % 65536))
    let clean := fun (l : LayerLine) =>
      match l.tag with
      | .remoteEscape | .remoteHall _ => if hit (l.layer.extractLsb' 8 7) l.line then { l with valid := l.dirty } else l
      | .committed _ | .hall _ => l
    let spoil := fun (q : RingReq) =>
      match q.body with
      | .lineRead _ _ => if hit (corePkg q.core) (lineNo q.pa) then { q with stale := true } else q
      | _ => q
    { s with
      homes.layers := (s.homes.layers.map clean).filter (fun l => l.valid != 0)
      net.ringReqs := s.net.ringReqs.map spoil }

/-- What the edges into a node invalidate between the commits of their sources and its launch's start in some packages (R322). -/
def edgesInvalidate (g : GraphRec) (node : Nat) (pkgs : List (BitVec 7)) (s : State) : State :=
  let lists := (graphEdges s g.header).filter (fun e => e.2.1 == node)
    |>.flatMap (fun e => (List.range e.2.2.2).map (fun k => regionList s g.header (e.2.2.1 + k)))
  lists.foldl (fun s e => edgeInvalidate g pkgs e s) s

/-- Priority of a kernel node (R316, R320). -/
def nodePrio (s : State) (g : GraphRec) (n : Nat) : BitVec 3 :=
  let h := nodeHead s g n
  if h.getLsbD 12 then field h 8 3 else field (recDw s (nodeLrec s g n) 2) 24 3

/-- `KERNEL_NODE` (R321): an eligible kernel node launches; a running one ends when its launch commits and fails when it aborts. A
write conflict in the body of a loop makes the loop hold for the winner (R283). -/
def execKernelNode (graph node : Nat) (s : State) : Out :=
  match graphOf s graph with
  | none => .next s
  | some g =>
    let x := nodeState g node
    if nodeKind s g node ≠ 0 then .next s
    else if nodeEligible s g node then
      match checkRecord s (nodeLrec s g node) (.node graph node) (nodePrio s g node) (nodeBindings s g node) with
      | (0, l) =>
        let s := { s with sched.launches := s.sched.launches ++ [l], sched.nextLaunch := s.sched.nextLaunch + 1 }
        .next (setNode graph node { takeUp s g node with status := 1, launch := some l.id } s)
      | (_, _) => .next (failNode graph node s)
    else
      match x.status, x.launch with
      | 1, some l =>
        match (launchOf s l).phase with
        | .committed => .next (finishNode graph node 2 s)
        | .aborted =>
          let a := ((launchOf s l).abort).getD (AbortInfo.of 0)
          let s := match loopOf s g node with
            | some m => if a.cause = 1 ∧ a.winnerLaunch ≠ 0 then
                setNode graph m { nodeState g m with hold := some a.winnerLaunch } s else s
            | none => s
          .next (failNode graph node s)
        | .waiting | .bound | .ready | .committing | .doomed => .next s
      | _, _ => .next s

/-! ## Submission (R312, R314, R320) -/

/-- The checks of a graph at submission: 0 or a rejection code. The kernel nodes' records are checked as launches are.
(DEDUCED, log entry 46.) -/
def checkGraph (s : State) (g : GraphRec) : Nat :=
  let nn := graphDw s g.header 1
  let ne := graphDw s g.header 3
  let no := graphDw s g.header 5
  let idx := List.range nn
  let target := fun (t : Nat) => t == 0xFFFF || decide (t < nn)
  let word := fun (n : Nat) =>
    let x := nodeLrec s g n
    match g.objects[x % 2 ^ 8]? with
    | some r => decide (x / 2 ^ 8 % 2 ^ 24 % 8 = 0) && decide (x / 2 ^ 8 % 2 ^ 24 + 8 ≤ r.size) && decide (x / 2 ^ 32 = 0)
    | none => false
  let node := fun (n : Nat) =>
    let h := nodeHead s g n
    match fieldN h 0 3 with
    | 0 => true
    | 1 => word n && target (nodeTarget s g n 0) && target (nodeTarget s g n 1)
    | 2 => word n && decide (nodeTarget s g n 0 < nn) && fieldN h 16 16 != 0
    | 3 => word n && decide (1 ≤ fieldN h 32 4) && decide (fieldN h 32 4 ≤ 8)
        && (List.range (fieldN h 32 4)).all (fun i => target (nodeTarget s g n i))
    | 4 => true
    | _ => false
  if nn = 0 ∨ 1024 < nn ∨ 4095 < ne ∨ 255 < no ∨ graphDw s g.header 7 ≠ 0 ∨ graphDw s g.header 6 % 64 ≠ 0
      ∨ !(idx.all node) ∨ !((graphEdges s g.header).all (fun e => decide (e.1 < nn) && decide (e.2.1 < nn)))
      ∨ !(g.objects.all (fun r => r.size % 65536 == 0)) then 1
  else if g.objects.any (fun r => r.host && r.cls != 1) then 5
  else
    let kernel := fun (n : Nat) =>
      if nodeKind s g n ≠ 0 then 0
      else
        let r := recDw s (nodeLrec s g n)
        let own := (readRegions s (r 0).toNat r).getD []
        let binds := nodeBindings s g n
        if binds.any (fun b => match own.find? (fun x => x.name == b.1) with
            | some x => x.size != b.2.size || x.cls != b.2.cls
            | none => true) then 5
        else (checkRecord s (nodeLrec s g n) (.node g.id n) 0 binds).1
    ((idx.map kernel).find? (fun c => c != 0)).getD 0

/-- `LAUNCH_SUBMIT` (R312, R314, R320): the scheduler reads the next announced entry of a queue. A record or graph that fails a check
is rejected with ST 7; a launch waits with ST 2, and so does a graph until a node of it acts. (DESIGN CHOICE, log entry 16.)
(DEDUCED, log entry 46.) (DEDUCED, log entry 50.) -/
def execLaunchSubmit (queue : BitVec 6) (s : State) : Out :=
  let q := hostQueue s queue
  let size := queueSize q
  if s.health.bootStep < 7 ∨ size = 0 ∨ q.announced = 0 then .next s
  else
    let e := q.head.toNat
    let record := committedNat s (entryPa s queue e) 8
    let s := setHostQueue queue { q with head := BitVec.ofNat 12 ((e + 1) % size), announced := q.announced - 1 } s
    let pa := record / 2 * 2
    if !inDevice pa then
      .next (setEntryStatus queue e 7 1 0 { s with sched.host.qerr := s.sched.host.qerr ||| BitVec.twoPow 64 queue.toNat })
    else if record % 2 = 0 then
      match checkRecord s record (.queue queue e) (field q.cfg 4 3) [] with
      | (0, l) =>
        .next (setEntryStatus queue e 2 0 0
          { s with sched.launches := s.sched.launches ++ [l], sched.nextLaunch := s.sched.nextLaunch + 1 })
      | (c, _) => .next (setEntryStatus queue e 7 c 0 s)
    else
      let id := s.sched.nextLaunch
      let g : GraphRec := ⟨id, queue, e, pa, List.replicate (graphDw s pa 1) ⟨0, 0, 0, none, none⟩, true, false, readObjects s id pa, [],
        []⟩
      match checkGraph s g with
      | 0 =>
        let x := objectPages (paPkg pa) g.objects s
        .next (setEntryStatus queue e 2 0 0
          { x.1 with sched.graphs := s.sched.graphs ++ [{ g with pages := x.2 }], sched.nextLaunch := id + 1 })
      | c => .next (setEntryStatus queue e 7 c 0 s)

end Sys2Proof.Machine
end

