-- ==== Sys2Proof/Machine/RingFlits.lean ====
section
/-! DEFINITION. What the rings carry, byte by byte: control and data flits, frames and their trailers (R361, R362, R371). -/

namespace Sys2Proof.Machine

/-! ## Flits (R361) -/

/-- `KIND` of a request, on the plane it travels. -/
def RingBody.flitKind : RingBody → Nat
  | .lineRead _ _ => 0
  | .prepare _ | .flip _ => 6
  | .semAdd _ _ _ | .barArrive _ => 7
  | .copyData e => if e.write then 3 else 0
  | .store op _ _ =>
    match op with
    | .atomic _ _ _ _ _ => 2
    | .red _ _ _ _ | .redo _ _ _ _ => 2
    | .region _ => 4
    | .write _ | .mark | .fenceRel | .semAdd _ _ _ | .barArrive _ => 0

/-- `OP` of a request: fn of an atomic (R198), the scope code of a store, 0 otherwise; a read of more than 16 bytes asks for its line,
and gives 0 too. (DESIGN CHOICE, log entry 79.) -/
def RingBody.flitOp (cls : BitVec 2) : RingBody → Nat
  | .lineRead _ n => if 16 < n then 0 else Nat.log2 n
  | .store (.atomic op dbl _ _ _) _ _ => op.toNat + (if dbl then 16 else 0) + (if cls = 1 then 32 else 0)
  | .store (.write _) scope _ => scope.toNat
  | .copyData e => if !e.write && decide (e.len ≤ 16) then Nat.log2 e.len else 0
  | .store _ _ _ | .prepare _ | .flip _ | .semAdd _ _ _ | .barArrive _ => 0

/-- Bytes 0x00 to 0x0F of a flit. -/
def flitHead (kind : Nat) (src dst : BitVec 7) (core : CoreId) (seq : BitVec 16) (lag op pa : Nat) (hall : BitVec 12) : List Byte :=
  leBytes 4 (kind + src.toNat * 2 ^ 4 + dst.toNat * 2 ^ 11 + core.toNat % 2 ^ 14 * 2 ^ 18)
    ++ leBytes 4 (seq.toNat + lag % 1024 * 2 ^ 16 + op * 2 ^ 26) ++ leBytes 8 (pa % 2 ^ 52 + hall.toNat * 2 ^ 52)

/-- The operands or message body of a control flit, 16 bytes. (DESIGN CHOICE, log entry 79.) -/
def RingBody.operands : RingBody → List Byte
  | .store (.atomic _ _ opnd cmp _) _ _ => leBytes 8 opnd.toNat ++ leBytes 8 cmp.toNat
  | .semAdd n v _ => leBytes 8 v.toNat ++ leBytes 8 n.toNat
  | .barArrive g => leBytes 16 g.toNat
  | .prepare l | .flip l => leBytes 16 l
  | .lineRead _ _ | .store _ _ _ | .copyData _ => leBytes 16 0

/-- The data bytes of a data flit. -/
def RingBody.payload : RingBody → List Byte
  | .store (.write cells) _ _ => cells.map (fun c => c.2)
  | .store (.red _ d _ _) _ _ | .store (.redo _ d _ _) _ _ => lineBytes d 0 128
  | .store (.region accs) _ _ => accs.flatMap (fun a => match a with | .load _ _ _ _ => [] | .store _ bs => bs)
  | .copyData e => e.data
  | .store _ _ _ | .lineRead _ _ | .prepare _ | .flip _ | .semAdd _ _ _ | .barArrive _ => []

/-- A control flit: 32 bytes. -/
def controlFlit (head body : List Byte) : List Byte := head ++ (body ++ leBytes 16 0).take 16

/-- A data flit: 512 bytes; LEN counts the payload bytes, which stand from 0x40 on. -/
def dataFlit (head body : List Byte) : List Byte :=
  head ++ leBytes 2 body.length ++ leBytes 46 0 ++ (body ++ leBytes 448 0).take 448

/-- Whether a number of the sequence space precedes another, modulo 2^16. -/
def seqBefore (a b : BitVec 16) : Bool := decide ((a - b).toInt < 0)

/-- The oldest unacknowledged number of a source to a target. -/
def oldestOpen (s : State) (r : RingReq) : BitVec 16 :=
  (s.net.ringReqs.filter (fun x => x.src == r.src && x.dst == r.dst)).foldl (fun b x => if seqBefore x.seq b then x.seq else b) r.seq

/-- `LAG` of a request: how far its number is ahead of the oldest of its source that the target has not acknowledged. -/
def lagOf (s : State) (r : RingReq) : Nat := (r.seq - oldestOpen s r).toNat

/-- The flit of a request. -/
def requestFlit (s : State) (r : RingReq) : List Byte :=
  let hall := if r.cls = 1 then 0 else hallIn s r.launch r.dst
  let head := flitHead r.body.flitKind r.src r.dst r.core r.seq (lagOf s r) (r.body.flitOp r.cls) r.pa hall
  if r.body.isControl then controlFlit head r.body.operands else dataFlit head r.body.payload

/-- `KIND` of an answer: a NACK, a line or pool data, the result of a read or an atomic, or an acknowledgement. -/
def answerKind (b : RingBody) (x : RingResp) : Nat :=
  if x.nack then 5
  else if !x.control then (match b with | .copyData _ => 3 | _ => 1)
  else
    match b with
    | .lineRead _ _ => 1
    | .store (.atomic _ _ _ _ _) _ _ => 3
    | .store _ _ _ => 4
    | .copyData e => if e.write then 4 else 1
    | .prepare _ | .flip _ => 6
    | .semAdd _ _ _ | .barArrive _ => 7

/-- The flit of an answer to a request. -/
def answerFlit (r : RingReq) (x : RingResp) : List Byte :=
  let head := flitHead (answerKind r.body x) x.dst x.src r.core x.seq 0 0 r.pa 0
  if x.control then controlFlit head x.result else dataFlit head x.result

/-! ## Frames (R362, R371) -/

/-- The 96-bit nonce of a frame: the plane, the direction, and the frame counter; 1 stands for the data plane and for counter-clockwise.
(DESIGN CHOICE, log entry 79.) -/
def frameNonce (control ccw : Bool) (counter : DWord) : BitVec 96 :=
  (if control then 0 else 2 ^ 95) ||| (if ccw then 2 ^ 94 else 0) ||| counter.setWidth 96

/-- The trailer of a frame: frame counter, CRC-32C over the frame, and tag, in a flit of its plane. (DESIGN CHOICE, log entry 79:
where they stand in it.) -/
def frameTrailer (control : Bool) (counter : DWord) (flits tag : List Byte) : List Byte :=
  let body := leBytes 8 counter.toNat ++ leBytes 4 (crc32c flits).toNat ++ leBytes 4 0
  if control then controlFlit (leBytes 4 8 ++ body.take 12) tag
  else dataFlit (leBytes 16 8) (body ++ tag)

/-- The tag of a frame on a link, under the key that the link holds. -/
def frameTag (link : Nat) (l : LinkRec) (flits : List Byte) : List Byte :=
  Config.gcmTag (Config.ringKey link l.keyGen) (frameNonce (decide (2 ^ 41 ≤ link)) (link % 2 == 1) l.frame) flits

end Sys2Proof.Machine
end

