-- ==== Sys2Proof/Machine/TransEvents.lean ====
section
/-! DEFINITION. Events of launches as transactions: the drain of a core, readiness, the comparison of pairs, the two phases of a
commit, aborts, the homes' background work, uncorrectable errors, and the host's accesses to memory (R87, R202, R207, R233,
R235, R248, R249, R288-R310, R389). -/

namespace Sys2Proof.Machine

/-! ## The homes' own work -/

/-- `HUB_LINE_DRAIN` (R235): the oldest line of a hub line buffer leaves for its home. -/
def execHubLineDrain (hub : Nat) (s : State) : Out :=
  match s.homes.hubs.find? (fun h => h.hub.toNat == hub) with
  | some h => .next (hubDrain h s).1
  | none => .next s

/-- `HOME_SWEEP` (R290, R292): the background sweep folds a line and drops what no snapshot needs; hallmarks without ways and
layer lines are free again. Where the home's SRAM is full it evicts the line (R293). (DESIGN CHOICE, log entry 28.) -/
def execHomeSweep (line : Nat) (s : State) : Out :=
  let s := foldLine line s
  let s :=
    if !s.homes.lines.any (fun r => r.line == line) then s
    else if sramFull s line then evictLine (overflowRounds s) line s
    else setLineRec (reclaim s (lineRec s line)) s
  .next (freeHalls (linePkg line) s)

/-- `PAGE_WALK` (R232, R233): a walk of the modelled core's tables fills the TLBs. (DESIGN CHOICE, log entry 27.) -/
def execPageWalk (va : DWord) (write : Bool) (s : State) : Out := .next (translate va.toNat write s).1

/-- `TLB_INVALIDATE` (R233): the management core's invalidation of a page of a launch reaches the TLBs.
(DESIGN CHOICE, log entry 27.) -/
def execTlbInvalidate (launch page : Nat) (s : State) : Out :=
  let keep := fun (t : TlbEntry) => !(t.launch == launch && decide (t.base ≤ page) && decide (page < t.base + 2 ^ t.bits))
  .next { s with homes.tlb := s.homes.tlb.filter keep, homes.layerTlb := s.homes.layerTlb.filter keep }

/-! ## Done and ready (R87, R300) -/

/-- Whether the modelled core has run down after `EXIT`: queues and engines empty, no load or result out, every posted write
acknowledged. -/
def drained (s : State) : Bool :=
  s.core.seq.run == .exited
  && s.core.eng.queues.toList.all (fun q => q.head == q.tail) && s.core.eng.exec.toList.all (fun e => e.isNone)
  && s.core.mq.loads.isEmpty && s.core.mq.stores.isEmpty && s.core.mq.results.isEmpty && s.core.mq.redoOut.isEmpty
  && !ringPosted s s.core.mq.seq

/-- The pushes of the `EXIT` drain (R300): L1 lines and records to package scope, layer and hub lines to the homes. -/
def exitPush (s : State) : State × Bool :=
  match releasePush 5 s.core.mq.seq s with
  | (s, .held) => (s, false)
  | (s, .done) =>
    match pushLayer 5 s with
    | (s, .held) => (s, false)
    | (s, .done) => (s, !ringPosted s s.core.mq.seq)

/-- A core of a launch has reported done. -/
def memberDone (launch : Nat) (sec : Bool) (ord : BitVec 24) (s : State) : State :=
  let gone := (launchOf s launch).members.filter (fun m => m.sec == sec && m.ord == ord && m.place != s.core.id)
  let s := (s.net.circuits.filter (fun c => gone.any (fun m => m.place == c.sender))).foldl (fun s c => removeCircuit c s) s
  let s := updMember launch sec ord (fun m => { m with state := .done }) s
  { s with sched.slots := s.sched.slots.map (fun x =>
      if x.launch = launch ∧ x.sec = sec ∧ x.ord = ord then { x with state := .done } else x) }

/-- `CORE_DONE` (R87, R273): the modelled core reports done once it has run down, its open circuits being released; another core
of a launch reports done when it has. -/
def execCoreDone (launch ord : Nat) (s : State) : Out :=
  if launch = s.core.launch ∧ ord = s.core.ord.toNat then
    if !drained s then .next s
    else
      match exitPush s with
      | (s, false) => .next s
      | (s, true) => .next (memberDone launch s.core.sec s.core.ord (releaseAll { s with core.seq.run := .done }))
  else
    match (launchOf s launch).members.find? (fun m => m.ord.toNat == ord && (m.state == .running || m.state == .exited)
        && m.place != s.core.id) with
    | some m => .next (memberDone launch m.sec m.ord s)
    | none => .next s

/-- Whether every write of a copy of a launch has been applied at its home. -/
def writesApplied (s : State) (l : LaunchRec) (sec : Bool) : Bool :=
  !s.homes.queue.any (fun r => r.launch == l.id && r.sec == sec) && !s.homes.hubs.any (fun h => h.launch == l.id && h.sec == sec)
  && !s.homes.rounds.any (fun r => r.launch == l.id && r.sec == sec && !r.held.isEmpty)
  && !s.net.ringReqs.any (fun r => r.launch == l.id && r.sec == sec && r.body.isStore)
  && !s.homes.layers.any (fun y => y.ghost == sec && y.unpushed.any (fun u => u.launch == l.id))

/-- Whether every core of a copy has reported done. -/
def copyDone (l : LaunchRec) (sec : Bool) : Bool :=
  l.members.any (fun m => m.sec == sec) && l.members.all (fun m => m.sec != sec || m.state == .done)

/-- Held reductions in increasing (ORD, index) order (R207). -/
def insertRed (x : HeldRed) : List HeldRed → List HeldRed
  | [] => [x]
  | y :: ys => if x.ord.toNat < y.ord.toNat ∨ (x.ord = y.ord ∧ x.index ≤ y.index) then x :: y :: ys else y :: insertRed x ys

def sortReds (l : List HeldRed) : List HeldRed := l.foldr insertRed []

/-- The held reductions of a copy applied to its ways (R207). -/
def applyHeld (l : LaunchRec) (sec : Bool) (s : State) : State :=
  let mine := fun (r : HeldRed) => r.launch == l.id && r.sec == sec
  let s' := (sortReds (s.homes.heldReds.filter mine)).foldl
    (fun s r => (homeWrite l.id sec r.cls r.line (redLine r.op r.data r.mask) r.mask r.mask s).1) s
  { s' with homes.heldReds := s'.homes.heldReds.filter (fun r => !mine r) }

/-- The launch is ready in every package of its reach (R289, R300), after every launch that became ready before it (R302). -/
def setReady (id : Nat) (s : State) : State :=
  let s := updHalls id (fun h => if h.state = .running ∨ h.state = .irrevocable then { h with state := .ready } else h) s
  let n := s.sched.readyCount
  updLaunch id (fun l => { l with phase := .ready, readyAt := s.now, readyNo := n }) { s with sched.readyCount := n + 1 }

/-- `LAUNCH_READY` (R300, R310, R331): a launch, or a copy of a pair, meets the condition of R300; a halted launch does not become
ready. -/
def execLaunchReady (launch : Nat) (s : State) : Out :=
  let l := launchOf s launch
  if l.phase ≠ .bound ∨ l.halted then .next s
  else if l.pair = 0 then
    if copyDone l false && writesApplied s l false then .next (setReady launch s) else .next s
  else
    match [false, true].find? (fun c => copyDone l c && writesApplied s l c && !l.readyCopies.contains c) with
    | none => .next s
    | some c =>
      let s := applyHeld l c s
      if (launchOf s launch).phase ≠ .bound then .next s
      else
        let s := updLaunch launch (fun l => { l with readyCopies := c :: l.readyCopies, pairSince := s.now }) s
        if l.readyCopies.contains (!c) then .next (setReady launch s) else .next s

/-! ## Pairs (R309, R310) -/

/-- The hash of one way of a line (R309). -/
def lineHash (r : LineRec) (d : LineData) : DWord :=
  dw (leNat (shake256 8 (leBytes 8 (windowPa r / 128) ++ leBytes 128 d.toNat)))

/-- The write-set hash of a copy: the sum over every line that holds a way of it, in every package of the reach. -/
def copyHash (s : State) (l : LaunchRec) (sec : Bool) : DWord :=
  s.homes.lines.foldl (fun sum r =>
    r.versions.foldl (fun sum w =>
      if w.kind = .shadow ∧ w.ghost = sec ∧ l.halls.contains (linePkg r.line, w.hall) then sum + lineHash r w.data
      else sum) sum) 0

/-- Ways of a launch changed or removed, wherever they stand. -/
def mapWays (l : LaunchRec) (f : Way → Option Way) (s : State) : State :=
  let g := fun (r : LineRec) (w : Way) =>
    if w.kind = .shadow ∧ l.halls.contains (linePkg r.line, w.hall) then f w else some w
  { s with homes.lines := s.homes.lines.map (fun r =>
      { r with ways := r.ways.filterMap (g r), spilled := r.spilled.filterMap (g r) }) }

/-- Ghost ways are discarded as those of an aborted copy (R310). -/
def dropGhosts (l : LaunchRec) (s : State) : State :=
  let s := mapWays l (fun w => if w.ghost then none else some w) s
  l.halls.foldl (fun s h => dropHallLines h.1 h.2 true s) s

/-- `PAIR_COMPARE` (R310): the hashes of both copies are compared. -/
def execPairCompare (launch : Nat) (s : State) : Out :=
  let l := launchOf s launch
  if l.pair = 0 ∨ l.phase ≠ .ready ∨ l.pairEqual then .next s
  else if copyHash s l false = copyHash s l true then
    .next (updLaunch launch (fun l => { l with pairEqual := true }) (dropGhosts l s))
  else .next (doom launch (AbortInfo.of 9) s)

/-- The limit on the wait of one copy for the other, in ns (R316). -/
def pairWaitNs (l : LaunchRec) : Nat := (if l.pairwait = 0 then 1000 else l.pairwait) * 1000

/-- `PAIR_WAIT_EXPIRY` (R310, R316). -/
def execPairWaitExpiry (launch : Nat) (s : State) : Out :=
  let l := launchOf s launch
  if l.pair ≠ 0 ∧ l.phase = .bound ∧ l.readyCopies.length = 1 ∧ pairWaitNs l ≤ (s.now - l.pairSince).toNat then
    .next (doom launch (AbortInfo.of 9) s)
  else .next s

/-! ## Commit (R301, R302, R304, R307) -/

/-- A request of one package's scheduler to another's (R307). -/
def commitMessage (src dst : BitVec 7) (body : RingBody) : RingReq where
  src := src
  dst := dst
  seq := 0
  core := 0
  ord := 0
  launch := 0
  sec := false
  cls := 0
  pa := 0
  body := body
  ccw := false
  refused := 0
  sentAt := 0
  resendAt := none
  sent := false
  arrived := false
  stale := false
  performed := false

/-- Lines of a package that hold a way of a hallmark. -/
def hallLines (s : State) (pkg : BitVec 7) (h : BitVec 12) : List LineRec :=
  s.homes.lines.filter (fun r => linePkg r.line == pkg && r.versions.any (fun w => w.kind == .shadow && w.hall == h))

/-- Phase 1 in one package (R301): the hallmark is committing, every clean tag-0 copy of its lines goes from the layer caches, and
the host is snooped where it may hold the line. (DEDUCED, log entry 38.) -/
def preparePackage (launch : Nat) (pkg : BitVec 7) (s : State) : State :=
  match hallOf s launch pkg with
  | none => s
  | some h =>
    if h.state ≠ .ready then s
    else
      let lines := hallLines s pkg h.hall
      let tag0 := fun (l : LayerLine) => l.layer.extractLsb' 8 7 == pkg && l.dirty == 0 && lines.any (fun r => r.line == l.line)
        && (match l.tag with | .committed _ => true | .hall _ | .remoteEscape | .remoteHall _ => false)
      let s := { s with
        sched.halls := s.sched.halls.map (fun e => if e = h then { e with state := .committing } else e)
        homes.layers := s.homes.layers.filter (fun l => !tag0 l) }
      let s := updLaunch launch (fun l => { l with preparedAt := (pkg, s.now) :: l.preparedAt }) s
      lines.foldl (fun s r => setLineRec (snoopHost { r with sharers := 0 }) s) s

/-- Whether a package has answered prepare: no snoop of the host is still out. -/
def snoopsDone (s : State) (l : LaunchRec) : Bool :=
  l.halls.all (fun h => (hallLines s h.1 h.2).all (fun r => !r.backInv))

/-- Whether two launches share a package of their reach. (DEDUCED, log entry 38.) -/
def shareReach (a b : LaunchRec) : Bool := a.halls.any (fun x => b.halls.any (fun y => x.1 == y.1))

/-- Whether a launch is still between prepare and flip in a package that another's reach holds too (R302). -/
def flipsBefore (m l : LaunchRec) : Bool :=
  m.phase == .committing && m.halls.any (fun x => !m.flipped.contains x.1 && l.halls.any (fun y => x.1 == y.1))

/-- `COMMIT_PREPARE` (R301, R302): phase 1 of a ready launch starts, in the order in which launches became ready, one at a time in
a package. (DEDUCED, log entry 38.) -/
def execCommitPrepare (launch : Nat) (s : State) : Out :=
  let l := launchOf s launch
  let behind := s.sched.launches.any (fun m => m.id != launch &&
    (flipsBefore m l || (shareReach l m && m.phase == .ready && decide (m.readyNo < l.readyNo))))
  if l.phase ≠ .ready ∨ (l.pair ≠ 0 ∧ !l.pairEqual) ∨ behind then .next s
  else
    let s := launchStatus l 4 (updLaunch launch (fun l => { l with phase := .committing, prepared := [l.home], readyAt := s.now }) s)
    let s := preparePackage launch l.home s
    .next ((l.halls.filter (fun h => h.1 != l.home)).foldl (fun s h => ringSend (commitMessage l.home h.1 (.prepare launch)) s) s)

/-- Readers that a flip dooms on one line (R297): listed and running and younger; every younger running read-checked launch of the
package when the list has overflowed. (DEDUCED, log entry 62.) -/
def flipReaders (s : State) (h : HallEntry) (r : LineRec) : List Nat :=
  let live := s.sched.halls.filter (fun e => e.pkg == h.pkg && e.hall != h.hall && (e.state == .running || e.state == .irrevocable)
    && decide (h.age.toNat < e.age.toNat))
  (live.filter (fun e => r.readers.contains e.hall
    || (r.overflow && (launchOf s e.launch).regions.any (fun x => x.cls == 2)))).map (fun e => e.launch)

/-- The flip in one package (R301, R304): a fresh commit stamp, the ways of the hallmark committed, the layer caches retagged. -/
def flipPackage (launch : Nat) (pkg : BitVec 7) (s : State) : State :=
  match hallOf s launch pkg with
  | none => s
  | some h =>
    let l := launchOf s launch
    match nextStamp pkg s with
    | (s, c) =>
      let losers := (hallLines s pkg h.hall).filter (fun r => r.versions.any (fun w => w.kind == .shadow && w.hall == h.hall && !w.ghost))
        |>.flatMap (flipReaders s h)
      let s := losers.foldl (fun s x => doomFor x 2 pkg (launch, h.hall) s) s
      let s := { s with sched.halls := s.sched.halls.map (fun e =>
        if e.pkg = pkg ∧ e.hall = h.hall then { e with state := .folding, commit := c } else e) }
      let here : LaunchRec := { l with halls := [(pkg, h.hall)] }
      let s := mapWays here (fun w => if w.ghost then none else some { w with kind := .committed, stamp := c }) s
      let retag := fun (y : LayerLine) => match y.tag with
        | .hall x => if x = h.hall ∧ y.layer.extractLsb' 8 7 = pkg then { y with tag := .committed c, unpushed := [] } else y
        | .committed _ | .remoteEscape | .remoteHall _ => y
      let gone := fun (y : LayerLine) => y.layer.extractLsb' 8 7 == pkg && (match y.tag with
        | .remoteHall x => x == h.hall
        | .hall x => x == h.hall && y.ghost
        | .committed _ | .remoteEscape => false)
      { s with homes.layers := (s.homes.layers.filter (fun y => !gone y)).map retag }

/-- A package of the launch has flipped. -/
def noteFlip (launch : Nat) (pkg : BitVec 7) (s : State) : State :=
  updLaunch launch (fun l => { l with flipped := pkg :: l.flipped }) (flipPackage launch pkg s)

/-- The launch has committed in every package. -/
def finishCommit (launch : Nat) (s : State) : State :=
  let s := updLaunch launch (fun l => { l with phase := .committed }) s
  discardLaunch launch (reportEnd (launchOf s launch) s)

/-- The witness of a launch: the next present ring position of its home's pod (R369). -/
def witnessOf (s : State) (home : BitVec 7) : Option (BitVec 7) :=
  ((List.range 7).map (fun i => BitVec.ofNat 7 (home.toNat / 8 * 8 + (home.toNat + 1 + i) % 8))).find? (fun p =>
    s.health.packages.getLsbD p.toNat && !s.health.lostPkgs.contains p && !s.net.lostStations.contains p)

/-- `COMMIT_FLIP` (R301, R307, R369): with every package prepared the home decides, records it at the witness, flips and sends the
flip to the others; with every package flipped the launch has committed. -/
def execCommitFlip (launch : Nat) (s : State) : Out :=
  let l := launchOf s launch
  if l.phase ≠ .committing then .next s
  else if l.decided then
    if l.halls.all (fun h => l.flipped.contains h.1 || s.health.lostPkgs.contains h.1) then .next (finishCommit launch s) else .next s
  else if l.halls.all (fun h => l.prepared.contains h.1) && snoopsDone s l && !s.health.lostPkgs.contains l.home then
    let many := decide (1 < l.halls.length)
    let s := noteFlip launch l.home (updLaunch launch (fun l => { l with decided := true, witness := if many then witnessOf s l.home else none }) s)
    if many then
      .next ((l.halls.filter (fun h => h.1 != l.home)).foldl (fun s h => ringSend (commitMessage l.home h.1 (.flip launch)) s) s)
    else .next (finishCommit launch s)
  else .next s

/-- The packages that are committing and have had no flip for 1 ms after prepare; the home knows its own decision (R369). -/
def lateFlips (s : State) (l : LaunchRec) : List (BitVec 7) :=
  (l.preparedAt.filter (fun x => x.1 != l.home && !l.flipped.contains x.1 && !s.health.lostPkgs.contains x.1
    && decide (1000000 ≤ (s.now - x.2).toNat))).map (fun x => x.1)

/-- `WITNESS_QUERY` (R369): the packages of a committing launch that are late ask the witness. Where it holds the decision they flip;
otherwise the launch aborts in every package. A decision of a home that is still there, or that another package has followed, is not
undone (DEDUCED, log entry 49). -/
def execWitnessQuery (launch : Nat) (s : State) : Out :=
  let l := launchOf s launch
  let late := lateFlips s l
  if l.phase ≠ .committing ∨ late = [] then .next s
  else
    match l.witness with
    | some _ =>
      let t := late.foldl (fun s p => noteFlip launch p s) s
      if l.halls.all (fun h => (launchOf t launch).flipped.contains h.1 || s.health.lostPkgs.contains h.1) then .next (finishCommit launch t)
      else .next t
    | none =>
      if l.decided ∧ (!s.health.lostPkgs.contains l.home ∨ l.flipped.any (fun p => p != l.home)) then .next s
      else .next (doomLost launch l.home (updLaunch launch (fun l => { l with decided := false }) s))

/-! ## Aborts (R289, R305, R332) -/

/-- The cores of a doomed launch stop. -/
def stopMembers (launch : Nat) (s : State) : State :=
  let s := updLaunch launch (fun l => { l with members := l.members.map (fun m => { m with state := .stopped }) }) s
  if s.core.launch = launch ∧ launch ≠ 0 then discardCore s else s

/-- `ABORT_DECIDE` (R305): the scheduler kills a launch, or a launch already doomed has its cores stopped. -/
def execAbortDecide (launch : Nat) (s : State) : Out :=
  let l := launchOf s launch
  if l.phase = .doomed then
    if l.members.all (fun m => m.state == .stopped) then .next s else .next (stopMembers launch s)
  else .next (doom launch (AbortInfo.of 10) s)

/-- `LAUNCH_ABORTED` (R289, R305, R332): every core has stopped; the hallmark is aborted and at once discarding in every package,
its layer lines are dropped, and the abort record is written. -/
def execLaunchAborted (launch : Nat) (s : State) : Out :=
  let l := launchOf s launch
  if l.phase = .doomed ∧ l.members.all (fun m => m.state == .stopped) then
    let s := updHalls launch (fun h => { h with state := .discarding }) s
    let s := l.halls.foldl (fun s h => dropHallLines h.1 h.2 false s) s
    let s := updLaunch launch (fun l => { l with phase := .aborted }) s
    let t := discardLaunch launch (reportEnd l s)
    -- the pages it was given are free again
    .next { t with sched.pages := t.sched.pages.filter (fun x => x.1 != launch || launch == 0) }
  else .next s

/-! ## Uncorrectable errors (R152, R202, R389) -/

/-- An uncorrectable error in the pool of a core: the fourth within 1 s removes the core from the slot table (R385).
(DEDUCED, log entry 59.) -/
def notePoolError (core : CoreId) (s : State) : State :=
  let mine := s.health.poolErrors.filter (fun x => x.1 == core && decide ((s.now - x.2).toNat < 1000000000))
  let s := { s with health.poolErrors := (core, s.now) :: s.health.poolErrors.filter (fun x => decide ((s.now - x.2).toNat < 1000000000)) }
  if 3 ≤ mine.length then removeCore core s else s

/-- The launch whose access met an error, or whose data it was, aborts with cause data error; a launch that is ready or committing
has no access left (R289, R389). -/
def doomAccess (launch : Nat) (info : AbortInfo) (s : State) : State :=
  if (launchOf s launch).phase = .bound then doom launch info s else s

/-- The hash units of a home die disagree before the copies of a pair are compared: the pair is doomed with cause data error (R386). -/
def doomHash (launch : Nat) (s : State) : State :=
  let l := launchOf s launch
  if l.pair ≠ 0 ∧ l.phase = .ready ∧ !l.pairEqual then doom launch (AbortInfo.of 6) s else s

/-- Poison marked in a prior of a line: the `idx`th (R389). -/
def markPrior (line off idx : Nat) (s : State) : State :=
  let r := lineRec s line
  match (r.versions.filter (fun w => w.kind == .prior))[idx]? with
  | none => s
  | some p =>
    let upd := fun (w : Way) => if w = p then { w with poison := setBit w.poison (off / 8) true } else w
    setLineRec { r with ways := r.ways.map upd, spilled := r.spilled.map upd } s

/-- The launch that a core runs. -/
def launchOn (s : State) (core : CoreId) : Nat := if core = s.core.id then s.core.launch else (slotRec s core).launch

/-- A packet altered inside a router: the flits that leave the router carry a CRC of what it made of them (R386). One that is misdelivered
bears the ordinal of the core it goes to, or one that no core holds. -/
def alterPacket (id k : Nat) (flip : Byte) (dest : Option CoreId) (s : State) : State :=
  match packetOf s id with
  | none => s
  | some p =>
    if arrived p then s
    else
      let q := { p with data := p.data.modify k (fun b => b ^^^ flip) }
      let q := match dest with
        | none => q
        | some c =>
          let ord := ((launchOf s p.launch).members.find? (fun m => m.sec == p.sec && m.place == c)).map (fun m => m.ord)
          { q with receiver := c, dest := routerOf c, ord := ord.getD 0xFFFFFF }
      let mend := fun (f : Flit) => if f.pkt = id then { f with crc := crc32c (flitBytes q f.idx) } else f
      let way := fun (w : LinkDir) => { w with replay := w.replay.map mend, wire := w.wire.map mend }
      updPacket id (fun _ => q) { s with
        net.flits := s.net.flits.map mend
        net.links := s.net.links.map (fun r => { r with fwd := way r.fwd, back := way r.back }) }

/-- A lane of a vector register altered. -/
def alterLane (r : BitVec 5) (lane : BitVec 4) (flip : Word) (s : State) : State :=
  writeV r (Vector.ofFn (fun l : Fin 16 => if l.val = lane.toNat then (readV s r)[l] ^^^ flip else (readV s r)[l])) s

/-- An accumulator of the running `GGO` altered. -/
def alterCell (i j : BitVec 6) (flip : Word) (s : State) : State :=
  match s.core.grid.run with
  | none => s
  | some g =>
    let x := g.st.acc[i.toNat][j.toNat]
    let acc := g.st.acc.set i.toNat (g.st.acc[i.toNat].set j.toNat { x with bits := x.bits ^^^ flip })
    { s with core.grid.run := some { g with st := { g.st with acc := acc } } }

/-- `UNCORRECTABLE_ERROR` (R152, R202, R385-R387, R389): an error that no check corrects. One in a store is met as the place says; one in a
router crossbar or in a vector or grid datapath meets no check, and alters what passes. (DEDUCED, log entry 59.) -/
def execUncorrectableError (place : ErrPlace) (s : State) : Out :=
  match place with
  | .access launch addr applied => .next (doomAccess launch { AbortInfo.of 6 with addr := dw addr, applied := applied } s)
  | .version line hall =>
    match hallEntry s (linePkg line) hall with
    | some h => .next (doom h.launch { AbortInfo.of 6 with addr := dw (line * 128) } s)
    | none => .next s
  | .committed addr =>
    let line := lineNo addr
    let s := foldLine line s
    let r := lineRec s line
    .next (setLineRec { r with poison := setBit r.poison (lineOff addr / 8) true } s)
  | .prior addr idx => .next (markPrior (lineNo addr) (lineOff addr) idx s)
  | .returnPath launch addr applied => .next (doomAccess launch { AbortInfo.of 6 with addr := dw addr, applied := applied } s)
  | .window => .next (notePoolError s.core.id (doomAccess s.core.launch { AbortInfo.of 6 with ord := s.core.ord } s))
  | .pool core =>
    let ord := if core = s.core.id then s.core.ord else (slotRec s core).ord
    .next (notePoolError core (doomAccess (launchOn s core) { AbortInfo.of 6 with ord := ord } s))
  | .crossbar pkt k flip dest => .next (alterPacket pkt k flip dest s)
  | .vector r lane flip => .next (alterLane r lane flip s)
  | .grid i j flip => .next (alterCell i j flip s)
  | .hash launch => .next (doomHash launch s)
  | .die pkg die => .next (loseDie pkg die s)

/-! ## The host at memory (R248, R249) -/

/-- Whether an address lies in no window of the physical address space, or in one that R228 reserves.
(DEDUCED, log entry 57.) -/
def reservedPa (pa : Nat) : Bool := decide (2 ^ 52 ≤ pa) || paCls pa == 4 || paCls pa == 5

/-- The parts of `n` bytes from an address on, line by line: address and length. -/
def lineSpans : Nat → Nat → Nat → List (Nat × Nat)
  | 0, _, _ => []
  | fuel + 1, pa, n =>
    if n = 0 then []
    else (pa, min n (128 - lineOff pa)) :: lineSpans fuel (pa + (128 - lineOff pa)) (n - min n (128 - lineOff pa))

/-- The CXL port at whose HDM decoder an access of the host to a package arrives (R372): the host interleaves a package's memory over 1, 2 or 4
of its four ports by 4 KiB. -/
def hostPort (pa : Nat) : BitVec 2 := BitVec.ofNat 2 (pa / 4096 % 2 ^ (Config.hostWays (paPkg pa).toNat % 3))

/-- What the host's read has returned, and on which port. -/
def hostReceives (pa : Nat) (bs : List Byte) (poison : Bool) (s : State) : State :=
  { s with sched.host.received := some (hostPort pa, pa, bs, poison) }

/-- The unpushed bytes that device caches hold of a line of host memory go there, nearer over farther (R248). -/
def pushHostLine (line : Nat) (s : State) : State :=
  let dirty := ((s.homes.hubs.filter (fun h => h.line == line)).flatMap HubLine.pieces)
    ++ ((s.homes.layers.filter (fun l => l.line == line)).flatMap LayerLine.pieces)
  let s := { s with
    homes.hubs := s.homes.hubs.filter (fun h => h.line != line)
    homes.layers := s.homes.layers.map (fun l => if l.line = line then { l with unpushed := [] } else l) }
  dirty.foldl (fun s d => applyDirty d s) s

/-- The part of a host read in one line of device memory: the line is folded and the host may cache it from then on (R249). -/
def hostReadLine (line : Nat) (s : State) : State :=
  let s := pruneReaders line (foldLine line (noteHomeTraffic line s))
  setLineRec { lineRec s line with hostBit := true } s

/-- `HOST_READ` (R249, R313, R372): a read over CXL.mem returns committed state, or poison, and waits while a line of it commits; of
the host's own memory it returns what the device's caches push first; of device registers their values.
(DEDUCED, log entry 50.) (DEDUCED, log entry 57.) -/
def execHostRead (pa len : Nat) (s : State) : Out :=
  let spans := lineSpans len pa len
  let lines := spans.map (fun x => lineNo x.1)
  if reservedPa pa then .fault (.reservedWindow pa)
  else if paCls pa = 7 then .next (hostReceives pa (registerBytes s (paOff pa) len) false s)
  else if paCls pa = 6 then
    let s := lines.foldl (fun s x => pushHostLine x s) s
    .next (hostReceives pa (memBytes s pa len) false s)
  else if s.health.bootStep < 7 ∨ len = 0 ∨ lines.any (readStalls s 0) then .next s
  else
    let s := lines.foldl (fun s x => hostReadLine x s) s
    let bad := spans.any (fun x => poisonMet (lineRec s (lineNo x.1)).poison (maskOf (lineOff x.1) x.2))
    .next (hostReceives pa (if bad then [] else memBytes s pa len) bad s)

/-- The class of the region whose page holds a line, as the tables of some launch map it; shadowed where none does. -/
def lineClass (s : State) (line : Nat) : BitVec 2 :=
  let maps := fun (l : LaunchRec) (r : Region) => l.roots.any (fun t =>
    (List.range (r.size / 65536)).any (fun i => match (walk s t.2 (r.va + 65536 * i)).page with
      | some (pa, _, _) =>
        (List.range 16).any (fun k => decide (paCanon (pa + 4096 * k) ≤ line * 128) && decide (line * 128 < paCanon (pa + 4096 * k) + 4096))
      | none => false))
  (s.sched.launches.findSome? (fun l => (l.regions.find? (maps l)).map (fun r => r.cls))).getD 0

/-- Launches that hold a shadow way of a line. -/
def wayHolders (s : State) (line : Nat) : List Nat :=
  (lineRec s line).versions.filterMap (fun w =>
    if w.kind = .shadow then (hallEntry s (linePkg line) w.hall).map (fun h => h.launch) else none)

/-- The part of a host write in one line of device memory (R249): launches that hold a shadow way of the line abort with cause host
conflict. -/
def hostWriteLine (pa : Nat) (bytes : List Byte) (s : State) : State :=
  let line := lineNo pa
  let mask := maskOf (lineOff pa) bytes.length
  let s := pruneReaders line (foldLine line (noteHomeTraffic line s))
  let s := (wayHolders s line).foldl (fun s l => doom l (AbortInfo.of 5) s) s
  if lineClass s line = 1 then deviceStore pa bytes s
  else invalidateCopies line (commitDirect line (lineAt (lineOff pa) bytes) mask (0, 0) s).1

/-- Bytes at an address, line by line. -/
def linePieces : Nat → Nat → List Byte → List (Nat × List Byte)
  | 0, _, _ => []
  | n + 1, pa, bs =>
    if bs.isEmpty then []
    else (pa, bs.take (128 - lineOff pa)) :: linePieces n (pa + (128 - lineOff pa)) (bs.drop (128 - lineOff pa))

/-- `HOST_WRITE` (R249): a write over CXL.mem takes effect on committed state at once. A launch that holds a shadow way of the line
aborts with cause host conflict, but one whose commit is decided flips first. On a line of a transactional class the write takes
a fresh stamp and keeps a prior; on a line of an escape region C simply changes. (DEDUCED, log entry 39.)
(DEDUCED, log entry 50.) (DEDUCED, log entry 57.) -/
def execHostWrite (pa : Nat) (bytes : List Byte) (s : State) : Out :=
  if reservedPa pa then .fault (.reservedWindow pa)
  else if isHostPa (paCanon pa) then
    -- the host's own memory: the device's copies of it go, and what they held unpushed follows
    .next ((lineSpans bytes.length pa bytes.length).foldl (fun s x => invalidateCopies (lineNo x.1) s) (memWrite pa bytes s))
  else
    let pieces := linePieces bytes.length pa bytes
    if s.health.bootStep < 7 ∨ 3 < paCls pa ∨ pieces.any (fun x => (wayHolders s (lineNo x.1)).any (fun l => (launchOf s l).decided)) then
      .next s
    else .next (pieces.foldl (fun s x => hostWriteLine x.1 x.2 s) s)

/-- `HOST_SNOOP` (R248): the host's CXL.cache snoop of a line of host memory that layer caches or hub line buffers hold: unpushed
bytes go to the host's memory, and with `invalidate` the copies go. -/
def execHostSnoop (line : Nat) (invalidate : Bool) (s : State) : Out :=
  if !isHostPa (line * 128) then .next s
  else
    let s := pushHostLine line s
    .next (if invalidate then { s with homes.layers := s.homes.layers.filter (fun l => l.line != line) } else s)

/-- `CXL_WRITE_COMPLETION` (R248): the completion of a store to host memory arrives. -/
def execCxlWriteCompletion (idx : Nat) (s : State) : Out :=
  .next { s with sched.host.cxl := s.sched.host.cxl.eraseIdx idx }

/-- `BACK_INVALIDATE_RESPONSE` (R249): the host no longer holds the line, and the write may be returned to readers. -/
def execBackInvalidateResponse (line : Nat) (s : State) : Out :=
  let r := lineRec s line
  if r.backInv then .next (setLineRec { r with backInv := false, hostBit := false } s) else .next s

end Sys2Proof.Machine
end

