-- ==== Sys2Proof/Machine/SchedEvents.lean ====
section
/-! DEFINITION. Binding, starting, saving, resuming, killing and halting cores (R285, R288, R315, R319, R322, R323, R329-R331, R375). -/

namespace Sys2Proof.Machine

/-! ## Hallmarks at launch start (R288) -/

/-- The first free hallmark of a package after the last one assigned, taken cyclically over 1 to 4,095. -/
def nextHall (s : State) (pkg : BitVec 7) : Option (BitVec 12) :=
  let last := (pkgRec s pkg).lastHall.toNat
  ((List.range 4095).map (fun i => BitVec.ofNat 12 ((last + i) % 4095 + 1))).find? (fun h => (hallEntry s pkg h).isNone)

/-- A hallmark that is assigned anew stands in no reader list of the package (R297). -/
def forgetReader (pkg : BitVec 7) (h : BitVec 12) (s : State) : State :=
  { s with homes.lines := s.homes.lines.map (fun r =>
      if linePkg r.line = pkg then { r with readers := r.readers.filter (fun x => x != h) } else r) }

/-- A hallmark assigned to a launch in a package, with its age and start stamp. -/
def assignHall (launch : Nat) (pkg : BitVec 7) (s : State) : State :=
  match nextHall s pkg with
  | none => s
  | some h =>
    let p := pkgRec s pkg
    let s := setPkgRec { p with startSeq := p.startSeq + 1, lastHall := h } s
    let s := { s with sched.halls := s.sched.halls ++ [⟨pkg, h, .running, launch, p.startSeq + 1, p.stamp, 0⟩] }
    let s := dropHallLines pkg h false (forgetReader pkg h s)
    updLaunch launch (fun l => { l with halls := l.halls ++ [(pkg, h)] }) s

/-! ## The launch's address space (R230, R231, R280, R319) -/

/-- A table of zeros for the launch in a package. -/
def buildRoot (launch : Nat) (pkg : BitVec 7) (s : State) : State :=
  let x := freshPage launch ⟨0, 0, 0, 2, false, some pkg, 0⟩ pkg s
  updLaunch launch (fun l => { l with roots := l.roots ++ [(pkg, x.2)] }) (zeroPage x.2 65536 x.1)

/-- A level-3 entry written in the tables of every package of a launch. -/
def mapEntry (launch : Nat) (va : Nat) (entry : BitVec 7 → Nat) (s : State) : State :=
  (launchOf s launch).roots.foldl (fun s r => tableWrite launch 4 r.1 r.2 0 va (fun _ => entry r.1) s) s

/-- A 64 KiB leaf (R232). -/
def leafBits (pa : Nat) (w : Bool) : Nat := 3 + w.toNat * 4 + pa / 65536 % 2 ^ 36 * 65536

/-- The pages of the image's data segments: fresh, filled from the image, writable where a segment is. -/
def mapSegments (launch img : Nat) (s : State) : State :=
  let segs := imageSegs s img
  let pages := (segs.flatMap (fun x => (List.range ((x.1 % 65536 + x.2.2.2.1 + 65535) / 65536)).map (fun k => x.1 / 65536 + k))).eraseDups
  pages.foldl (fun s k =>
    let here := segs.filter (fun x => overlap x.1 x.2.2.2.1 (k * 65536) 65536)
    let bytes := (List.range 65536).map (fun o => (segByte s img (k * 65536 + o)).getD 0)
    let x := freshPage launch ⟨0, 0, 0, 2, false, none, 0⟩ (launchOf s launch).home s
    let w := here.any (fun y => y.2.2.2.2)
    mapEntry launch (k * 65536) (fun _ => leafBits x.2 w) (memWrite x.2 bytes (zeroPage x.2 65536 x.1))) s

/-- The object of a task graph that a region was bound to. -/
def regionObject (s : State) (l : LaunchRec) (r : Region) : Option (GraphRec × Nat) :=
  match l.src with
  | .node g _ => (graphOf s g).bind (fun x => (x.objects.findIdx? (fun o => o.va == r.va)).map (fun i => (x, i)))
  | .queue _ _ => none

/-- One page of a region. A page of an object is the object's (R280); a host page names host memory; any other is fresh and zero, but in
pager mode the management core may leave it out for the pager, with ZF set or clear (R327): the choice is its own (DESIGN CHOICE, log
entry 8). -/
def mapRegionPage (launch : Nat) (r : Region) (k : Nat) (s : State) : State :=
  let l := launchOf s launch
  let va := r.va + 65536 * k
  match regionObject s l r with
  | some (g, i) => mapEntry launch va (fun p => leafBits (objectPage g i r p k) true) s
  | none =>
    let c := Config.placeChoice s.fresh
    let s := { s with fresh := s.fresh + 1 }
    if r.host then
      mapEntry launch va (fun p => leafBits (hostPage p c) true) s
    else
      match if l.sfm then c % 3 else 0 with
      | 0 =>
        let x := freshPage launch r l.home s
        mapEntry launch va (fun _ => leafBits x.2 true) (zeroPage x.2 65536 x.1)
      | 1 => mapEntry launch va (fun _ => 4 + 32) s
      | _ => mapEntry launch va (fun _ => 4) s

def mapRegion (launch : Nat) (r : Region) (s : State) : State :=
  (List.range (r.size / 65536)).foldl (fun s k => mapRegionPage launch r k s) s

/-! ## Binding (R315, R322, R323) -/

/-- The package that a span gives an ordinal. -/
def spanPkg : List (BitVec 7 × Nat) → Nat → BitVec 7
  | [], _ => 0
  | x :: l, i => if i < x.2 then x.1 else spanPkg l (i - x.2)

/-- Whether cores are a legal place for a launch: one for each ordinal, and for each ordinal of the secondary copy; distinct, fit, in
the packages that the span and the pairing name. -/
def placeLegal (s : State) (l : LaunchRec) (place : List CoreId) : Bool :=
  let second := place.drop l.cores
  place.length == (if l.pair = 0 then l.cores else 2 * l.cores) && decide place.Nodup && place.all (coreFit s l.deg7)
  && (place.take l.cores).zipIdx.all (fun x => corePkg x.1 == spanPkg l.span x.2)
  && (if l.pair = 1 then second.all (fun x => corePkg x == l.home)
      else second.all (fun x => corePkg x != l.home && (corePkg x).toNat / 8 == l.home.toNat / 8
        && second.all (fun y => corePkg y == corePkg x)))

/-- Whether a waiting launch, or a saved core, goes before a launch of a level (R315). -/
def outranked (s : State) (l : LaunchRec) : Bool :=
  s.sched.launches.any (fun m => m.phase == .waiting && decide (l.level.toNat < m.level.toNat))
  || s.sched.launches.any (fun m => m.phase == .bound && m.members.any (fun x => x.state == .saved) && decide (l.level.toNat ≤ m.prio.toNat))

/-- Whether a slot runs a core of a launch of lower queued priority. -/
def preemptable (s : State) (prio : BitVec 3) (id : CoreId) : Bool :=
  let x := slotRec s id
  x.state == .running && x.op == 0 && decide ((launchOf s x.launch).prio.toNat < prio.toNat)

/-- A slot is ordered to save, at an area that its bind record names (R323, R330). -/
def orderSave (id : CoreId) (s : State) : State :=
  let x := slotRec s id
  if x.op = 0 then setSlotRec { x with op := 3, save := freeArea s id } s else s

/-- Where a launch stands in the turns of its level: its queue, or its node of a graph (R315). -/
def turnKey (l : LaunchRec) : Nat :=
  match l.src with
  | .queue q _ => q.toNat
  | .node _ n => 64 + n

/-- Whether a waiting launch is before another in the round robin of their level: by the source whose turn comes first, and the older
one of one source (R315). (DESIGN CHOICE, log entry 16.) -/
def turnBefore (s : State) (l m : LaunchRec) : Bool :=
  let next := vgetD s.sched.turns l.level.toNat 0
  let rank := fun (x : LaunchRec) => if next ≤ turnKey x then turnKey x - next else turnKey x + 65536
  decide (rank l < rank m) || (rank l == rank m && decide (l.id < m.id))

/-- Whether it is a launch's turn among the waiting launches of its level. -/
def itsTurn (s : State) (l : LaunchRec) : Bool :=
  s.sched.launches.all (fun m => m.phase != .waiting || m.level != l.level || m.id == l.id || turnBefore s l m)

/-- A turn has been taken. -/
def passTurn (l : LaunchRec) (s : State) : State :=
  { s with sched.turns := s.sched.turns.setIfInBounds l.level.toNat (turnKey l + 1) }

/-- Whether a place of a launch in which some cores are not free takes no more running cores than each package lacks, beside those that
are free or on their way to it (R315). -/
def placeNeeded (s : State) (l : LaunchRec) (place : List CoreId) : Bool :=
  place.all (fun id =>
    let here := fun (x : CoreId) => corePkg x == corePkg id
    !preemptable s l.prio id || coreFree s id || decide (
      countCores (fun x => coreFit s l.deg7 x && (coreFree s x || coreLeaving s x)) (corePkg id)
        + (place.filter (fun x => here x && preemptable s l.prio x)).length ≤ (place.filter here).length))

/-- The group numbers of an ordinal, for its bind record: four numbers and their valid bits. -/
def ordGroups (l : LaunchRec) (ord : Nat) : Word × BitVec 4 :=
  let g := ((List.range l.groups.length).filter (fun i => groupHas ((l.groups[i]?).getD []) ord)).take 4
  (BitVec.ofNat 32 (g.zipIdx.foldl (fun x y => x + y.1 * 256 ^ y.2) 0), BitVec.ofNat 4 (2 ^ g.length - 1))

/-- A bind record for a core, of one ordinal of a launch, with an order and the address of a save area (R323). -/
def bindRecord (s : State) (launch : Nat) (op : BitVec 4) (sec : Bool) (ord : BitVec 24) (save : Nat) (id : CoreId) : SlotRec :=
  let l := launchOf s launch
  let old := slotRec s id
  let hall := ((l.halls.find? (fun h => h.1 == corePkg id)).map (fun h => h.2)).getD 0
  let root := ((l.roots.find? (fun r => r.1 == corePkg id)).map (fun r => r.2)).getD 0
  let g := ordGroups l ord.toNat
  ⟨id, op, hall, ord, sec, launch, l.image, l.args, root, save, g.1, g.2, l.lrec, .loading, old.removed, old.degraded⟩

/-- The bind record of one core is written. -/
def writeBind (launch : Nat) (sec : Bool) (ord : Nat) (id : CoreId) (s : State) : State :=
  let s := setSlotRec (bindRecord s launch 1 sec (BitVec.ofNat 24 ord) 0 id) s
  let s := setPkgRec { pkgRec s (corePkg id) with lastBound := s.now } s
  let s := updLaunch launch (fun l => { l with members := l.members ++ [⟨sec, BitVec.ofNat 24 ord, id, .assigned, 0⟩] }) s
  touch launch (corePkg id) (coreChip id).toNat s

/-- Every sleeping packet-plane link of a package wakes before a bind completes (R355). -/
def wakePackage (pkg : BitVec 7) (s : State) : State :=
  (s.net.links.filter (fun r => r.power == .sleep && !isRingLink r.link && linkPkg r.link == pkg)).foldl (fun s r => wakeLink r.link s) s

/-- Whether a packet-plane link of a package sleeps, or has not come back to full width: a bind or a resume there waits for it (R355). -/
def stillWaking (pkg : BitVec 7) (s : State) : Bool :=
  s.net.links.any (fun r => r.power == .sleep && !r.failed && !isRingLink r.link && linkPkg r.link == pkg)

/-- The start of a launch (R322): in every layer where it binds cores an acquire at hall scope, for the remote-class lines of its
shadowed and read-checked regions; and for a node of a graph what its edges list goes from every layer of its reach. A layer line of a
hallmark that is assigned anew has gone already, so what is left of the first are the line reads under way. -/
def startAcquire (launch : Nat) (pkgs : List (BitVec 7)) (place : List CoreId) (s : State) : State :=
  let layers := place.map layerOf
  let spoil := fun (q : RingReq) =>
    match q.body with
    | .lineRead _ _ => if layers.contains (layerOf q.core) ∧ q.launch = launch ∧ q.cls ≠ 1 then { q with stale := true } else q
    | _ => q
  let clean := fun (y : LayerLine) =>
    match y.tag with
    | .remoteHall h => if layers.contains y.layer && (hallEntry s (y.layer.extractLsb' 8 7) h).any (fun e => e.launch == launch)
        then { y with valid := y.dirty } else y
    | _ => y
  let s := { s with
    homes.layers := (s.homes.layers.map clean).filter (fun y => y.valid != 0)
    net.ringReqs := s.net.ringReqs.map spoil }
  match (launchOf s launch).src with
  | .node g n => match graphOf s g with
    | some x => edgesInvalidate x n pkgs s
    | none => s
  | .queue _ _ => s

/-- A launch is bound: hallmarks in every package of its reach, its tables, its start as an acquire, its bind records (R288, R322). -/
def bindLaunch (launch : Nat) (place : List CoreId) (s : State) : State :=
  let l := launchOf s launch
  let pkgs := (namedPackages l ++ place.map corePkg).eraseDups
  let s := pkgs.foldl (fun s p => buildRoot launch p (assignHall launch p s)) s
  let s := mapSegments launch l.image s
  let s := startAcquire launch pkgs place (l.regions.foldl (fun s r => mapRegion launch r s) s)
  let s := place.zipIdx.foldl (fun s x =>
    if x.2 < l.cores then writeBind launch false x.2 x.1 s else writeBind launch true (x.2 - l.cores) x.1 s) s
  let s := if l.sems = 0 then s else touch launch l.home l.semchip.toNat s
  let s := pkgs.foldl (fun s p => wakePackage p s) s
  let s := updLaunch launch (fun l => { l with phase := .bound }) s
  launchStatus (launchOf s launch) 3 s

/-- `LAUNCH_BIND` (R288, R315): the waiting launch whose turn it is is bound on cores that are free, or where too few are orders the saves
of cores that run launches of lower queued priority. The place is the scheduler's choice. (DESIGN CHOICE, log entry 16.) -/
def execLaunchBind (launch : Nat) (place : List CoreId) (s : State) : Out :=
  let l := launchOf s launch
  if l.phase ≠ .waiting ∨ !placeLegal s l place ∨ outranked s l ∨ !itsTurn s l then .next s
  else if place.all (coreFree s) then
    if (namedPackages l ++ place.map corePkg).all (fun p => (nextHall s p).isSome) then
      .next (bindLaunch launch place (passTurn l s))
    else .next s
  else if place.all (fun id => coreFree s id || coreLeaving s id || preemptable s l.prio id) ∧ placeNeeded s l place then
    .next ((place.filter (preemptable s l.prio)).foldl (fun s id => orderSave id s) s)
  else .next s

/-- `LAUNCH_AGING` (R315): a launch that has waited AGE µs rises one level, up to 7. -/
def execLaunchAging (launch : Nat) (s : State) : Out :=
  let l := launchOf s launch
  let age := fieldN (hostQueue s (BitVec.ofNat 6 (launchQueue s l))).cfg 7 25
  if l.phase = .waiting ∧ l.level.toNat < 7 ∧ age * 1000 ≤ (s.now - l.since).toNat then
    .next (updLaunch launch (fun l => { l with level := l.level + 1, since := s.now }) s)
  else .next s

/-! ## Loading a core (R11, R72, R86, R152, R319, R323) -/

/-- Instruction memory from an image: resident words, overlay 0, the handler area. -/
def loadImem (s : State) (img : Nat) (ovl : List Overlay) : Vector Word 4096 :=
  let f := imageNat s img
  let ovb := f 0x10 2
  let code := imageWords s img (f 0x18 8) ovb
  let first := match ovl with | o :: _ => o.words | [] => []
  let hand := imageWords s img (f 0x28 8) 512
  Vector.ofFn (fun i => if i.val < ovb then code.getD i 0 else if i.val < 3584 then first.getD (i.val - ovb) 0 else hand.getD (i.val - 3584) 0)

/-- The touched dies of a launch in its home package (R27). -/
def touchedHome (l : LaunchRec) : BitVec 128 := ((l.touched.find? (fun t => t.1 == l.home)).map (fun t => t.2)).getD 0

/-- The modelled core as a bind loads it. (DESIGN CHOICE, log entry 11.) (DESIGN CHOICE, log entry 54.) -/
def loadCore (x : SlotRec) (s : State) : Core :=
  let l := launchOf s x.launch
  let f := imageNat s x.image
  let ovl : List Overlay := (imageOverlays s x.image).map (fun o => ⟨imageWords s x.image o.1 o.2.1, o.2.2⟩)
  let macros := imageWords s x.image (f 0x38 8) 2048
  let sys := SysRegs.start l.partw0 l.fpctl0 (BitVec.ofNat 12 (f 0x14 2))
  let window : List Host.Cell := (committedBytes s (x.image + f 0x30 8) 2048).zipIdx.filterMap
    (fun y => if y.1 = 0 then none else some (y.2, y.1))
  { Core.start with
    id := x.id, ord := x.ord, launch := x.launch, hall := x.hall, sec := x.sec, ptroot := x.ptroot
    regs := Regs.start (dw x.args)
    seq := { Seq.start with
      run := .bound, imem := loadImem s x.image ovl, ctrl := Vector.ofFn (fun i => macros.getD i 0), ovb := f 0x10 2, overlays := ovl }
    sys := { sys with
      laneRsr := Vector.ofFn (fun i => rsrSeed l.fpctl0 i), clusterRsr := Vector.ofFn (fun i => rsrSeed l.fpctl0 (16 + i.val))
      tdmaskl := (touchedHome l).setWidth 64, tdmaskh := (touchedHome l).extractLsb' 64 64 }
    pool := { Pool.start with cells := window }
    grid := { Grid.start with degraded := x.degraded } }

/-- When every core of a launch in a package is loaded, the moment is noted (R375). -/
def noteLoaded (launch : Nat) (pkg : BitVec 7) (s : State) : State :=
  let l := launchOf s launch
  if l.members.all (fun m => corePkg m.place != pkg || m.state != .assigned) && !l.loadedAt.any (fun x => x.1 == pkg) then
    updLaunch launch (fun l => { l with loadedAt := (pkg, s.now) :: l.loadedAt }) s
  else s

/-- `BIND` (R323): the dispatch hardware acts on a bind record. (DESIGN CHOICE, log entry 16.) -/
def execBind (slot : CoreId) (s : State) : Out :=
  let x := slotRec s slot
  if x.op ≠ 1 ∨ x.state ≠ .loading ∨ stillWaking (corePkg slot) s then .next s
  else
    let s := setSlotRec { x with op := 0 } s
    let s := if slot = s.core.id then { s with core := loadCore x s } else s
    .next (noteLoaded x.launch (corePkg slot) (updMember x.launch x.sec x.ord (fun m => { m with state := .loaded }) s))

/-- Power regions of a package that hold cores of a launch, rising (R375). -/
def launchRegions (l : LaunchRec) (pkg : BitVec 7) : List Nat :=
  (List.range 16).filter (fun r => l.members.any (fun m => corePkg m.place == pkg && coreRegion m.place == r))

/-- How a core's sequencer stands when it comes up: at work, or frozen where its launch is halted (R331). -/
def comesUp (l : LaunchRec) (exited : Bool) : RunState := if l.halted then .halted exited else if exited then .exited else .running

/-- The state of its slot. -/
def slotUp (l : LaunchRec) : SlotState := if l.halted then .halted else .running

/-- `SEQUENCER_START` (R323, R375): the cores of a power region start, region i of the launch in the package not before 200 ns × i
after the last bind record there has been loaded, and not before the regions ahead of it. (DESIGN CHOICE, log entry 16.) -/
def execSequencerStart (launch : Nat) (pkg : BitVec 7) (region : BitVec 4) (s : State) : Out :=
  let l := launchOf s launch
  match l.loadedAt.find? (fun x => x.1 == pkg), (launchRegions l pkg).findIdx? (fun r => r == region.toNat) with
  | some t, some i =>
    let early := fun (m : Member) => corePkg m.place == pkg && m.state == .loaded
      && ((launchRegions l pkg).take i).contains (coreRegion m.place)
    if s.now.toNat < t.2.toNat + 200 * i ∨ l.members.any early then .next s
    else
      let go := l.members.filter (fun m => corePkg m.place == pkg && coreRegion m.place == region.toNat && m.state == .loaded)
      .next (go.foldl (fun s m =>
        let s := updMember launch m.sec m.ord (fun m => { m with state := .running }) (setSlotRec { slotRec s m.place with state := slotUp l } s)
        if m.place = s.core.id then { s with core.seq.run := comesUp l false } else s) s)
  | _, _ => .next s

/-! ## Save and resume (R285, R329, R330) -/

/-- A `SEND` whose packet waits to be offered again goes back to its start; so does a copy whose remote piece waits, with its
packet. -/
def recallCopies (s : State) : State :=
  let waiting := s.net.remote.filter (fun e => e.sender == s.core.id && e.retryAt != 0)
  let s := waiting.foldl (fun s e => dropPacket e.pkt s) s
  let mine := fun (p : Packet) => p.sender == s.core.id && p.launch == s.core.launch && p.retryAt != 0 && (p.kind == 2 || p.kind == 3)
  let s := if s.net.packets.any mine then
      updExec 5 (fun r => { r with cursor := 0 }) { s with net.packets := s.net.packets.filter (fun p => !mine p) }
    else s
  { s with net.remote := s.net.remote.filter (fun e => !(e.sender == s.core.id && e.retryAt != 0)) }

/-- The cut of the modelled core at its boundary: circuits with CAUSE 1, read streams at their cursors, the copy at its last piece. -/
def cutCore (exited : Bool) (s : State) : State :=
  let s := cutReceiving (cutSending s)
  let s := (List.range 4).foldl (fun s i => match streamOf s i with
    | some r => if r.write then s else rewindAhead i s
    | none => s) s
  -- an open line region is abandoned (R212), a sleep captures again (R268)
  let pc := match s.core.mq.region with | some r => r.pc | none => s.core.seq.pc
  recallCopies { s with core.seq.run := .saving exited, core.seq.savePending := false, core.seq.yielded := false, core.seq.wait := none,
                        core.seq.pc := pc, core.seq.sleepCap := none, core.seq.semCap := none, core.mq.region := none }

/-- The save area of the modelled core as it stands, at an address. (DESIGN CHOICE, log entry 34.) -/
def saveArea (addr : Nat) (exited : Bool) (s : State) : SaveArea := ⟨s.core.launch, s.core.sec, s.core.ord, addr, exited, s.core⟩

/-- A save area is written; it takes the place of an older one of the same core. -/
def putArea (a : SaveArea) (s : State) : State :=
  { s with sched.saves := s.sched.saves.filter (fun b => !(b.launch == a.launch && b.sec == a.sec && b.ord == a.ord)) ++ [a] }

/-- The save area of a slot's core is written: its home die counts as touched first (R328), and the launch keeps its address. -/
def noteArea (x : SlotRec) (s : State) : State :=
  updMember x.launch x.sec x.ord (fun m => { m with area := x.save }) (touch x.launch (corePkg x.id) (64 + (coreChip x.id).toNat) s)

/-- The circuits that end at another core which is saved or killed are cut, at their receiver or at their sender (R277). -/
def cutTo (slot : CoreId) (s : State) : State :=
  if slot = s.core.id then s else cutCircuits (fun c => c.sender == slot) 1 (cutCircuits (fun c => c.receiver == slot) 3 s)

/-- `SAVE` (R329, R331): a core ordered to save stops issue at its next boundary and cuts its engines. A halted core is written as it
stands and stays halted: the debugger's save, for which the management core first writes the record. -/
def execSave (slot : CoreId) (s : State) : Out :=
  let x := slotRec s slot
  let own := decide (slot = s.core.id ∧ x.launch = s.core.launch)
  match x.state with
  | .halted =>
    if x.op = 0 then .next (orderSave slot s)
    else if x.op ≠ 3 then .next s
    else
      let s := noteArea x (setSlotRec { x with op := 0 } s)
      if own then .next (putArea (saveArea x.save (s.core.seq.run == .halted true) s) s) else .next s
  | .running =>
    if x.op ≠ 3 then .next s
    else
      let s := setSlotRec { x with op := 0, state := .saving } s
      .next (if own then { s with core.seq.savePending := true } else cutTo slot s)
  | .saving =>
    if own ∧ s.core.seq.savePending then
      match s.core.seq.run with
      | .running | .overlay _ => .next (cutCore false s)
      | .exited => .next (cutCore true s)
      | .unbound | .bound | .done | .saving _ | .saved | .halted _ | .stopped => .next s
    else .next s
  | .free | .loading | .saved | .done => .next s

/-- Whether a load or result comes over a ring. -/
def overRing (s : State) (seq : Nat) : Bool := s.net.ringReqs.any (fun r => isOwnReq s r && r.body.memSeq == some seq)

/-- Whether an entry of the store queue goes over a ring when the hub performs it: a semaphore's by the package of the semaphores. -/
def leavesPackage (s : State) (e : StoreEntry) : Bool :=
  match e.op with
  | .semAdd _ _ _ => semPackage s != corePkg s.core.id
  | _ => isRemote s (lineNo e.pa)

/-- Whether a load or result waits for such an entry. -/
def behindStore (s : State) (seq : Nat) : Bool := s.core.mq.stores.any (fun e => e.seq == seq && leavesPackage s e)

/-- Whether the modelled core has come to rest for a save (R135, R329): results delivered but those of other packages, the copy between
pieces, a `GMMA` at a retire point. What stands in the store queue is handed to the hub, but for a line region of the core's own package, whose
loads complete first (R19, R211). (DEDUCED, log entry 39.) -/
def quiesced (s : State) : Bool :=
  let sending := s.net.packets.any (fun p => p.launch == s.core.launch &&
    ((p.sender == s.core.id && !p.answered && (p.kind == 0 || p.kind == 2 || p.kind == 3 || p.kind == 4))
      || ((p.kind == 1 || p.kind == 5) && p.receiver == s.core.id)))
  s.core.regs.latent.isEmpty && s.core.mq.loads.all (fun l => overRing s l.seq)
  && s.core.mq.results.all (fun r => overRing s r.seq || behindStore s r.seq) && s.core.mq.status.isEmpty && !sending
  && s.core.mq.stores.all (fun e => match e.op with
    | .region accs => leavesPackage s e || !accs.any (fun x => match x with | .load _ _ _ _ => true | .store _ _ => false)
    | _ => true)
  && !s.net.remote.any (fun e => e.sender == s.core.id && e.launch == s.core.launch && !e.answered)
  && !s.net.ringReqs.any (fun r => isOwnReq s r && (match r.body with | .copyData _ => true | _ => false))
  && (match s.core.grid.gmma with
      | some g => g.nextBlock == retired s || !gridWorks s
      | none => true)

/-- `CORE_SAVED` (R329, R330): the save area is written, the slot is saved and the core is free. -/
def execCoreSaved (slot : CoreId) (s : State) : Out :=
  let x := slotRec s slot
  if x.state ≠ .saving ∨ x.op = 4 then .next s
  else
    let note := fun (s : State) =>
      let s := noteArea x (setPkgRec { pkgRec s (corePkg slot) with lastBound := s.now } s)
      updMember x.launch x.sec x.ord (fun m => { m with state := .saved }) (setSlotRec { x with state := .saved, op := 0 } s)
    if slot = s.core.id ∧ x.launch = s.core.launch then
      match s.core.seq.run with
      | .saving exited =>
        if !quiesced s then .next s
        else
          match pushOut s with
          | (s, .held) => .next s
          | (s, .done) => .next (note (unbindOwn (putArea (saveArea x.save exited s) s)))
      | _ => .next s
    else .next (note s)

/-- Target registers restart their fetches (R67, R329). -/
def refetch (t : TargetReg) : TargetReg :=
  match t.state with
  | .ready => { t with state := .fetching }
  | .idle | .fetching | .faulted _ _ => t

/-- The engines that a resume has to restart: those with a command in their queue (R30, R329). -/
def busyEngines (e : Engines) : BitVec 6 :=
  BitVec.ofNat 6 (((List.range 6).map (fun q =>
    let x := vgetD e.queues q CmdQueue.start
    if x.head = x.tail then 0 else 2 ^ q)).sum)

/-- The modelled core as a resume restores it at the core that a bind record is for. Grid commands are charged again, every meter entry
is free, and the cache partition comes back empty (R330, R346, R376). (DESIGN CHOICE, log entry 34.) -/
def restoreCore (a : SaveArea) (x : SlotRec) (s : State) : Core :=
  let c := a.image
  let l := launchOf s a.launch
  { c with
    id := x.id, hall := x.hall, ptroot := x.ptroot
    seq := { c.seq with run := comesUp l a.exited, tb := c.seq.tb.map refetch, savePending := false, haltRequested := false, wait := none }
    sys := { c.sys with tdmaskl := (touchedHome l).setWidth 64, tdmaskh := (touchedHome l).extractLsb' 64 64 }
    mq := { c.mq with l1 := [], records := [] }
    eng := { c.eng with restoring := busyEngines c.eng }
    grid := { c.grid with admitted := false, readyAt := none, degraded := x.degraded }
    port := { c.port with meters := [], holding := [] } }

/-- The save area of a member that the model holds. -/
def areaOf (s : State) (launch : Nat) (sec : Bool) (ord : BitVec 24) : Option SaveArea :=
  s.sched.saves.find? (fun a => a.launch == launch && a.sec == sec && a.ord == ord)

/-- Whether a saved member of a launch may be resumed on a slot: a fit core of a package of the launch's reach (R219, R285), not
promised another slot, with nothing owed to it from other packages (R329). The modelled core itself takes only one whose area the model
holds (DESIGN CHOICE, log entry 34). -/
def resumable (s : State) (slot : CoreId) (l : LaunchRec) (m : Member) : Bool :=
  l.phase == .bound && m.state == .saved && coreFit s l.deg7 slot && l.halls.any (fun h => h.1 == corePkg slot)
  && !s.sched.slots.any (fun x => x.op == 2 && x.launch == l.id && x.sec == m.sec && x.ord == m.ord)
  && (match areaOf s l.id m.sec m.ord with
      | some a => a.image.mq.loads.isEmpty && !resultsOut { s with core := a.image }
      | none => slot != s.core.id)

/-- The members that a slot could take. -/
def resumables (s : State) (slot : CoreId) : List (LaunchRec × Member) :=
  s.sched.launches.flatMap (fun l => (l.members.filter (resumable s slot l)).map (fun m => (l, m)))

/-- The saved member that a slot takes: one of the highest queued priority. -/
def resumeChoice (s : State) (slot : CoreId) : Option (LaunchRec × Member) :=
  (resumables s slot).foldl (fun b x => match b with
    | none => some x
    | some y => if y.1.prio.toNat < x.1.prio.toNat then some x else b) none

/-- The model follows its core to another slot: the power regions of the package it leaves stay as they are (R376, R381). -/
def moveCore (slot : CoreId) (s : State) : State :=
  let here := corePkg s.core.id
  let t := { s with core.id := slot, homes.tlb := [] }
  if here = corePkg slot then t
  else
    let there := ((s.otherPower.find? (fun x => x.1 == corePkg slot)).map (fun x => x.2)).getD (Vector.replicate 16 PowerRegion.start)
    { t with power := there, otherPower := (here, s.power) :: s.otherPower.filter (fun x => x.1 != corePkg slot) }

/-- A bind record with a resume order is written for a free slot. The model follows the core whose area it holds, unless its own core runs
another launch by now: the saved one then goes on as a core that the model does not hold (DESIGN CHOICE, log entry 34). -/
def writeResume (l : LaunchRec) (m : Member) (slot : CoreId) (s : State) : State :=
  let s := setSlotRec (bindRecord s l.id 2 m.sec m.ord m.area slot) s
  let s := updMember l.id m.sec m.ord (fun m => { m with place := slot }) (touch l.id (corePkg slot) (coreChip slot).toNat s)
  let s := wakePackage (corePkg slot) s
  if (areaOf s l.id m.sec m.ord).isSome ∧ s.core.launch = 0 ∧ s.core.id ≠ slot then moveCore slot s else s

/-- A restored core at work: its streams go on by their `SRP` registers (R29), and in a layer that is not the one it left, an acquire of
its own there does not hold, so that the remote copies of the layer go (R222). -/
def goOn (a : SaveArea) (x : SlotRec) (s : State) : State :=
  let s := { s with core := restoreCore a x s, sched.saves := s.sched.saves.filter (fun b => b != a) }
  let s := (List.range 4).foldl (fun s i => match execOf s i with
    | some r => if r.finished then s else resumeStream i s
    | none => s) s
  if layerOf a.image.id = layerOf x.id then s else dropRemote (fun _ => true) s

/-- The dispatch hardware acts on a resume order: the core goes on from the save area, frozen where its launch is halted. -/
def actResume (x : SlotRec) (s : State) : Out :=
  let l := launchOf s x.launch
  let area := areaOf s x.launch x.sec x.ord
  if (x.id = s.core.id ∧ area.isNone) ∨ stillWaking (corePkg x.id) s then .next s
  else
    let exited := area.any (fun a => a.exited)
    let s := setSlotRec { x with op := 0, state := slotUp l } s
    let s := updMember x.launch x.sec x.ord (fun m => { m with state := if exited then .exited else .running, area := 0 }) s
    match area with
    | some a =>
      if x.id = s.core.id then .next (goOn a x s)
      else .next { s with sched.saves := s.sched.saves.filter (fun b => b != a) }
    | none => .next s

/-- `RESUME` (R315, R323, R329): a saved core goes on, on a free core that no waiting launch of a higher level needs: a bind record is
written, and the dispatch hardware acts on it. Where its package has too few free cores it may order the save of a core of lower
queued priority. -/
def execResume (slot : CoreId) (s : State) : Out :=
  let x := slotRec s slot
  if x.op = 2 ∧ x.state = .loading then actResume x s
  else
    match resumeChoice s slot with
    | none => .next s
    | some (l, m) =>
      let needed := fun (y : LaunchRec) => y.phase == .waiting && decide (l.prio.toNat < y.level.toNat)
        && (y.span.any (fun z => z.1 == corePkg slot) || y.home == corePkg slot)
      if s.sched.launches.any needed then .next s
      else if coreFree s slot then .next (writeResume l m slot s)
      else if preemptable s l.prio slot
          ∧ countCores (fun id => coreFit s l.deg7 id && (coreFree s id || coreLeaving s id)) (corePkg slot) < (resumables s slot).length then
        .next (orderSave slot s)
      else .next s

/-! ## Kill and debug halt (R323, R329, R331) -/

/-- `KILL` (R323, R329): a bind record orders the kill, and the core stops at once and its queues are discarded; always part of an abort.
It wins over a save. -/
def execKill (slot : CoreId) (s : State) : Out :=
  let x := slotRec s slot
  match x.state with
  | .free | .saved | .done => .next s
  | .loading | .running | .saving | .halted =>
    if (launchOf s x.launch).phase ≠ .doomed then .next s
    else if x.op ≠ 4 then .next (setSlotRec { x with op := 4 } s)
    else
      let s := updMember x.launch x.sec x.ord (fun m => { m with state := .stopped }) (setSlotRec (freeSlotRec x) (cutTo slot s))
      if slot = s.core.id ∧ x.launch = s.core.launch then .next (discardCore { s with core.seq.savePending := false, core.seq.haltRequested := false })
      else .next s

/-- `HALT` (R331): a core ordered to halt freezes: the sequencer at its next boundary, the engines in place. -/
def execHalt (slot : CoreId) (s : State) : Out :=
  let x := slotRec s slot
  if x.op ≠ 5 ∨ x.state ≠ .running then .next s
  else
    let done := setSlotRec { x with op := 0, state := .halted } s
    if slot = s.core.id ∧ x.launch = s.core.launch then
      match s.core.seq.run with
      | .running | .overlay _ => .next { done with core.seq.run := .halted false, core.seq.wait := none }
      | .exited => .next { done with core.seq.run := .halted true }
      | .unbound | .bound | .done | .saving _ | .saved | .halted _ | .stopped => .next s
    else .next done

/-- The release of a halt is ordered of every halted core of a launch, and the modelled core's holding buffer drains into its targets
before any of them goes on (R331). -/
def orderRelease (launch : Nat) (s : State) : State :=
  let s := if s.core.launch = launch then drainHolding s else s
  { s with sched.slots := s.sched.slots.map (fun x => if x.launch = launch ∧ x.state = .halted then { x with op := 6 } else x) }

/-- `RELEASE_HALT` (R323, R331): the release is ordered in the bind records of the launch's halted cores, and the dispatch hardware acts
on this one. The launch is no longer halted when no core of it is. -/
def execReleaseHalt (slot : CoreId) (s : State) : Out :=
  let x := slotRec s slot
  if x.state ≠ .halted then .next s
  else if x.op ≠ 6 then .next (orderRelease x.launch s)
  else
    let s := setSlotRec { x with op := 0, state := .running } s
    let s := if slot = s.core.id ∧ x.launch = s.core.launch then
        match s.core.seq.run with
        | .halted exited => { drainHolding s with core.seq.run := if exited then .exited else .running, core.seq.haltRequested := false }
        | _ => s
      else s
    if s.sched.slots.any (fun y => y.launch == x.launch && (y.state == .halted || y.op == 5)) then .next s
    else .next (updLaunch x.launch (fun l => { l with halted := false }) s)

/-- `DEBUG_HALT_REQUEST` (R331): the debugger asks for a halt through the management core. -/
def execDebugHaltRequest (launch : Nat) (s : State) : Out := .next (requestHalt launch s)

end Sys2Proof.Machine
end

