-- ==== Sys2Proof/Machine/RingEvents.lean ====
section
/-! DEFINITION. The rings at work (R362-R371): frames and keys, the duplicate filter at the target, answers and resends at
the source, and the loss of stations, packages and dies (R328, R369, R373). -/

namespace Sys2Proof.Machine

/-! ## Frames (R362, R371) -/

/-- `FRAME_CLOSE` (R362): a frame that has not filled closes 64 ns after its first flit; what comes later is of the next frame. -/
def execFrameClose (link : Nat) (s : State) : Out :=
  let l := linkRec s link
  if !l.openFrame.isEmpty ∧ l.openFrame.length < 16 ∧ l.closed = 0 ∧ 64 ≤ (s.now - l.openAt).toNat then
    .next (setLink { l with closed := l.openFrame.length } s)
  else .next s

/-- Whether a plane may send a frame: bring-up has trained the link, it has a session, it has not failed or come to a retrain, its data
lanes do not sleep, and the frame counter has not reached the limit of the key (R360, R362, R371, R388). -/
def frameMaySend (s : State) (l : LinkRec) : Bool :=
  decide (4 ≤ s.health.bootStep) && l.session && !ringLinkOut l && l.power != .sleep && decide (l.frame.toNat + 1 < 2 ^ 32 + l.keyStart)

/-- Flits of the frame that goes next: those of a frame that has closed, or sixteen. -/
def frameLength (l : LinkRec) : Nat := if l.closed = 0 then 16 else l.closed

/-- Where a flit is that has come to the last station of a ring: what became of it. -/
inductive Arrival where
  /-- The package it is for. -/
  | home
  /-- It enters the next ring, in a direction. -/
  | on (port : Nat) (ccw : Bool)
  /-- The bridge has no room for it. -/
  | full
  deriving DecidableEq, Repr

/-- What the last station of a ring makes of a flit (R368): a bridge passes it to its other ring, in a direction chosen afresh. -/
def arrival (s : State) (port : Nat) (dst : BitVec 7) (room : Bool) : Arrival :=
  if port = dst.toNat then .home
  else
    let next := if 256 ≤ port then port - 128 else port + 128
    match ringDir s next (ringGoal next dst) with
    | some ccw => if room then .on next ccw else .full
    | none => .full

/-- A request's flit comes to a station, travelling in a direction: passed on; taken at its target; or at a bridge passed on, or where the
bridge has no room for a data flit once more round the ring and then refused with a NACK to the source (R365, R368; DESIGN CHOICE, log
entry 48). -/
def requestComes (port : Nat) (ccw : Bool) (r : RingReq) (s : State) : State :=
  if port ≠ ringGoal port r.dst then ringPut port ccw r.body.isControl (ringKey r) false (setReq { r with ccw := ccw } s)
  else
    match arrival s port r.dst (r.body.isControl || Config.ringRoom s.fresh) with
    | .home => setReq { r with ccw := ccw, arrived := true } s
    | .on next d =>
      ringPut next d r.body.isControl (ringKey r) true (setReq { r with ccw := d, refused := 0 } { s with fresh := s.fresh + 1 })
    | .full =>
      let s := { s with fresh := s.fresh + 1 }
      if r.refused = 0 then
        ringPut port ccw r.body.isControl (ringKey r) false (setReq { r with ccw := ccw, refused := 1 } s)
      else frameAnswer port ⟨r.src, r.dst, r.seq, true, [], true, false⟩ (setReq { r with refused := 2 } s)

/-- An answer's flit comes to a station: it always finds room (DESIGN CHOICE, log entry 48). -/
def answerComes (port : Nat) (ccw : Bool) (x : RingResp) (s : State) : State :=
  if port ≠ ringGoal port x.src then ringPut port ccw x.control (answerKey x) false s
  else
    match arrival s port x.src true with
    | .home =>
      match s.net.ringResps.findIdx? (fun y => y == x) with
      | some i => { s with net.ringResps := s.net.ringResps.set i { x with arrived := true } }
      | none => s
    | .on next d => ringPut next d x.control (answerKey x) true s
    | .full => ringPut port ccw x.control (answerKey x) false s

/-- A flit of a verified frame comes to a station; one whose request has been answered, or which nobody waits for, is discarded there. -/
def flitComes (port : Nat) (ccw : Bool) (key : Nat) (s : State) : State :=
  match s.net.ringReqs.find? (fun r => ringKey r == key), s.net.ringResps.find? (fun x => answerKey x == key && !x.arrived) with
  | some r, _ => requestComes port ccw r s
  | none, some x => answerComes port ccw x s
  | none, none => s

/-- `RING_FRAME` (R362): the frame's trailer verifies and the next station releases its flits, or the frame is to be replayed; four failures
in a row leave the link to its retrain. A frame under a new key ends the old one (R371). -/
def execRingFrame (link : Nat) (verified : Bool) (s : State) : Out :=
  let l := linkRec s link
  let n := frameLength l
  if l.openFrame.isEmpty || decide (l.openFrame.length < n) || !frameMaySend s l then .next s
  else if verified then
    let flits := l.openFrame.take n
    let s := setLink { l with frame := l.frame + 1, frames := (flits :: l.frames).take 8, openFrame := l.openFrame.drop n, closed := 0,
                              fails := 0, oldKey := false, lastTraffic := s.now } s
    let x := ringNext s (linkPort link) (linkCcw link)
    .next (flits.foldl (fun s f => flitComes x.1 x.2 f.key s) s)
  else .next (setLink { l with fails := l.fails + 1 } s)

/-- `KEY_UPDATE` (R371): the keys are updated before the frame counter reaches 2^32 frames of a key; the old one is kept until a
frame under the new one verifies. -/
def execKeyUpdate (link : Nat) (s : State) : Out :=
  let l := linkRec s link
  if !isRingLink link || l.failed || l.oldKey then .next s
  else .next (setLink { l with keyGen := l.keyGen + 1, keyStart := l.frame.toNat, oldKey := true } s)

/-! ## The target (R365-R367) -/

/-- The filter entry of a request. -/
def filterEntry (p : RingPair) (q : BitVec 16) : Option FilterEntry := p.entries.find? (fun e => e.seq == q)

def setFilter (e : FilterEntry) (p : RingPair) : RingPair := { p with entries := e :: p.entries.filter (fun x => x.seq != e.seq) }

/-- Whether a duplicate is performed again after done (R367): reads. -/
def repeats (b : RingBody) : Bool :=
  match b with
  | .lineRead _ _ => true
  | .copyData e => !e.write && e.label.isNone
  | .store _ _ _ | .prepare _ | .flip _ | .semAdd _ _ _ | .barArrive _ => false

/-- A control request that does not fit its source's four entries (R364). -/
def noControlEntry (s : State) (r : RingReq) (p : RingPair) : Bool :=
  r.body.isControl && decide (4 ≤ (s.net.ringReqs.filter (fun x => x.src == r.src && x.dst == r.dst && x.body.isControl
    && (match filterEntry p x.seq with | some e => e.result.isNone | none => false))).length)

/-- A flit that finds no room at its target (R364, R365): a control request beyond its source's entries, or a data flit where no buffer is
free, which is left open. (DESIGN CHOICE, log entry 48.) -/
def noRoom (s : State) (r : RingReq) (p : RingPair) : Bool :=
  if r.body.isControl then noControlEntry s r p else !Config.ringRoom s.fresh

/-- What the target makes of a request: it is done with a result, in progress, or to be offered again after 1 µs. -/
inductive RingOut where
  | done (result : List Byte)
  | held
  | refused
  deriving DecidableEq, Repr

/-- The first byte tells how remote-pool data was met. -/
def remoteResult (a : RemoteAns) : RingOut :=
  match a with
  | .ok bs => .done (0#8 :: bs)
  | .refused => .refused
  | .error => .done [2#8]
  | .stays => .held

/-- A request executed at its target. -/
def ringExecute (r : RingReq) (s : State) : State × RingOut :=
  match r.body with
  | .lineRead _ n =>
    -- up to 16 bytes, or the line, and which of its doublewords are poisoned
    match homeRead r.launch r.sec r.cls (lineNo r.pa) (maskOf (lineOff r.pa) n) s with
    | (s', .data d bad) => (s', .done (if n ≤ 16 then lineBytes d (lineOff r.pa) n else lineBytes d 0 128 ++ leBytes 2 bad.toNat))
    | (s', .stall) => (s', .held)
    | (s', .poison) => (s', .done [])
  | .store op _ _ =>
    match homeApply ⟨r.core, r.launch, r.sec, r.ord, r.cls⟩ r.pa op s with
    | (s', .done bs) => (s', .done bs)
    | (s', .dropped) => (s', .done [])
    | (s', .refused) => (s', .refused)
    | (_, .held) => (s, .held)
  | .copyData e =>
    match remoteAccess e s with
    | (s', a) => (s', remoteResult a)
  | .prepare launch => (preparePackage launch r.dst s, .done [])
  | .flip launch => (if (launchOf s launch).flipped.contains r.dst then s else noteFlip launch r.dst s, .done [])
  | .semAdd n v _ =>
    match semApply r.launch r.sec n v s with
    | (s', old) => (s', .done (leBytes 4 old.toNat))
  | .barArrive g => (barArrival r.launch r.sec g r.ord s, .done [])

/-- Whether an answer fits a control flit: 16 bytes (R361). The status of remote-pool data is no part of them. -/
def answerFits (b : RingBody) (result : List Byte) : Bool :=
  match b with
  | .copyData _ => decide (result.length ≤ 17)
  | _ => decide (result.length ≤ 16)

/-- An answer leaves its target for the source: on the control plane where it fits (R361). -/
def ringAnswer (r : RingReq) (nack : Bool) (result : List Byte) (s : State) : State :=
  frameAnswer r.dst.toNat ⟨r.src, r.dst, r.seq, nack, result, answerFits r.body result, false⟩ s

/-- What the filter keeps of a result: nothing of a request that a duplicate performs again (R367). -/
def savedResult (b : RingBody) (bs : List Byte) : List Byte := if repeats b then [] else bs

/-- A request executed, or tried again, with its filter entry in progress until it is done. -/
def ringPerform (r : RingReq) (p : RingPair) (s : State) : State :=
  match ringExecute r s with
  | (s', .done bs) => ringAnswer r false bs (setReq { r with arrived := false } (setRingPair (setFilter ⟨r.seq, some (savedResult r.body bs)⟩ p) s'))
  | (s', .held) => setReq { r with arrived := false } (setRingPair (setFilter ⟨r.seq, none⟩ p) s')
  | (s', .refused) =>
    setReq { r with arrived := false, resendAt := some (s'.now + 1000) }
      (setRingPair { p with entries := p.entries.filter (fun e => e.seq != r.seq) } s')

/-- `RING_REQUEST` (R364-R367): the `idx`th request, come to its target station, goes through the duplicate filter; one that is in progress is
tried again. One that finds no room goes round the ring once more, and then the target removes it with a NACK. (DESIGN CHOICE, log
entry 48.) -/
def execRingRequest (idx : Nat) (s : State) : Out :=
  match s.net.ringReqs[idx]? with
  | none => .next s
  | some r =>
    let p := ringPair s r.src r.dst
    let entry := filterEntry p r.seq
    if !r.arrived then
      match entry with
      | some ⟨_, none⟩ => .next (ringPerform r p s)
      | _ => .next s
    else if s.health.lostPkgs.contains r.dst then .next s
    else
      let old := oldestOpen s r
      let base := if seqBefore p.base old then old else p.base
      let p := { p with base := base, entries := p.entries.filter (fun e => !seqBefore e.seq base) }
      let looked := { r with arrived := false }
      if seqBefore r.seq base then .next (setReq looked s)
      else
        match entry with
        | some ⟨_, some bs⟩ =>
          if repeats r.body then .next (ringPerform r p s)
          else .next (ringAnswer r false bs (setReq looked (setRingPair p s)))
        | some ⟨_, none⟩ => .next (setReq looked (setRingPair p s))
        | none =>
          let full := noRoom s r p
          let s := { s with fresh := s.fresh + 1 }
          if full then
            if r.refused = 0 then
              .next (ringPut r.dst.toNat r.ccw r.body.isControl (ringKey r) false (setReq { looked with refused := 1 } (setRingPair p s)))
            else .next (ringAnswer r true [] (setReq { looked with refused := 2 } (setRingPair p s)))
          else .next (ringPerform r p s)

/-! ## The source (R365) -/

/-- The bytes of a line, or up to 16 of them, have come for the modelled core's layer, which keeps them unless something later has made them
stale (R199, R222). (DEDUCED, log entry 29.) -/
def lineArrived (r : RingReq) (bs : List Byte) (s : State) : State :=
  let tag : LayerTag := if r.cls = 1 then .remoteEscape else .remoteHall s.core.hall
  if r.stale ∨ ringWritesLine s (lineNo r.pa) then s
  else if bs.length = 130 then
    layerFill (lineNo r.pa) tag (lineOfList (bs.take 128)) (soundBytes (BitVec.ofNat 16 (leNat (bs.drop 128)))) s
  else
    let o := lineOff r.pa
    layerFill (lineNo r.pa) tag (lineOfList (List.replicate o 0 ++ bs ++ List.replicate (128 - o - bs.length) 0)) (maskOf o bs.length) s

/-- What an answer does at the modelled core. A copy fetched while an atomic, reduction or line region travelled goes when that has
been applied (R199). -/
def ownAnswer (r : RingReq) (bs : List Byte) (s : State) : State :=
  match r.body with
  | .lineRead _ _ => lineArrived r bs s
  | .store op scope seq =>
    takeReturn ⟨seq, op, 0, r.pa, 0, scope⟩ bs
      (if r.body.appliesAtHome then dropRemote (fun x => x == lineNo r.pa) s else s)
  | .semAdd _ _ seq => setResult seq (dw (leNat bs)) s
  | .copyData e => pieceAnswer e.cmd (match bs with
      | [] => .error
      | b :: rest => if b = 0 then .ok rest else .error) s
  | .prepare _ | .flip _ | .barArrive _ => s

/-- Results that have come back are written to their registers. -/
def settleResults (s : State) : State :=
  s.core.mq.results.foldl (fun s r => match r.result with | some x => writeS r.d x s | none => s)
    { s with core.mq.results := s.core.mq.results.filter (fun r => r.result.isNone) }

/-- A load of a saved core whose line has come: its destination fills in the save area (R329). -/
def savedLoad (seq : Nat) (bs : List Byte) (s : State) : State :=
  match s.core.mq.loads.find? (fun l => l.seq == seq) with
  | some l =>
    let t := { s with core.mq.loads := s.core.mq.loads.filter (fun x => x.seq != seq) }
    if bs.length = 130 then returnLoad l.dest ((bs.drop (lineOff l.pa)).take l.size) t
    else if bs.length = l.size then returnLoad l.dest bs t
    else s
  | none => s

/-- An answer for a core whose state stands in a save area (R329): the result is written to the register image there. -/
def savedAnswer (a : SaveArea) (r : RingReq) (bs : List Byte) (s : State) : SaveArea :=
  let img := { s with core := a.image }
  let img := match r.body with
    | .lineRead seq _ => savedLoad seq bs img
    | .store _ _ _ | .semAdd _ _ _ | .copyData _ | .prepare _ | .flip _ | .barArrive _ => settleResults (ownAnswer r bs img)
  { a with image := img.core }

/-- An answer acts at the core it is for, or where that core has been saved; of another core the model holds nothing. -/
def deliverAnswer (r : RingReq) (bs : List Byte) (s : State) : State :=
  match r.body with
  | .prepare launch => updLaunch launch (fun l => { l with prepared := r.dst :: l.prepared }) s
  | .flip _ => s
  | .lineRead _ _ | .store _ _ _ | .copyData _ | .semAdd _ _ _ | .barArrive _ =>
    if s.core.launch = r.launch ∧ s.core.sec = r.sec ∧ s.core.ord = r.ord then ownAnswer r bs s
    else
      { s with sched.saves := s.sched.saves.map (fun a =>
          if a.launch = r.launch ∧ a.sec = r.sec ∧ a.ord = r.ord then savedAnswer a r bs s else a) }

/-- `RING_RESPONSE` (R362, R365): the `idx`th answer, come to its source station: a NACK is followed by a resend after 0.5 µs, unless the
request has gone out again since; any other answer ends the request. -/
def execRingResponse (idx : Nat) (s : State) : Out :=
  match s.net.ringResps[idx]? with
  | none => .next s
  | some x =>
    if !x.arrived then .next s
    else
      let s := { s with net.ringResps := s.net.ringResps.eraseIdx idx }
      match s.net.ringReqs.find? (fun r => r.src == x.src && r.dst == x.dst && r.seq == x.seq) with
      | none => .next s
      | some r =>
        if x.nack then
          if r.refused = 2 then .next (setReq { r with refused := 0, resendAt := some (s.now + 500) } s) else .next s
        else
          let s := { s with net.ringReqs := s.net.ringReqs.filter (fun y => ringKey y != ringKey r) }
          .next (deliverAnswer r x.result s)

/-- Whether a request goes out (R365): again once the time after a refusal or NACK has come, or after 100 µs with no answer; or for the
first time, behind fewer than 1,024 others (R366). -/
def resendDue (s : State) (r : RingReq) (ahead : Nat) : Bool :=
  match r.resendAt with
  | some t => decide (t.toNat ≤ s.now.toNat)
  | none => if r.sent then decide (100000 ≤ (s.now - r.sentAt).toNat) else decide (ahead < 1024)

/-- `RING_RESEND` (R363, R365): the `idx`th request is sent under its number, in a direction chosen afresh. -/
def execRingResend (idx : Nat) (s : State) : Out :=
  match s.net.ringReqs[idx]? with
  | none => .next s
  | some r =>
    let ahead := ((s.net.ringReqs.take idx).filter (fun x => x.src == r.src && x.dst == r.dst)).length
    if resendDue s r ahead then .next (frameFlit r s) else .next s

/-! ## Losses (R328, R369, R373) -/

/-- `STATION_LOSS` (R369): the neighbours of a lost station join both rings into one loop. -/
def execStationLoss (pkg : BitVec 7) (s : State) : Out :=
  .next (if s.net.lostStations.contains pkg then s else { s with net.lostStations := pkg :: s.net.lostStations })

/-- `PACKAGE_LOSS` (R328, R369): the launches whose hall mask names the package are doomed, but a commit whose home is lost is left
to the witness; what was on its way to or from the package is lost. -/
def execPackageLoss (pkg : BitVec 7) (s : State) : Out :=
  let hit := s.sched.launches.filter (fun l => l.hallMask.getLsbD pkg.toNat && !(l.phase == .committing && l.home == pkg))
  let s := hit.foldl (fun s l => doomLost l.id pkg s) s
  .next { s with
    sched.launches := s.sched.launches.map (fun l => if l.witness = some pkg then { l with witness := none } else l)
    health.lostPkgs := pkg :: s.health.lostPkgs.filter (fun p => p != pkg)
    sched.slots := s.sched.slots.map (fun x => if corePkg x.id = pkg then { x with removed := true } else x)
    net.ringReqs := s.net.ringReqs.filter (fun r => r.src != pkg && r.dst != pkg)
    net.ringResps := s.net.ringResps.filter (fun r => r.src != pkg && r.dst != pkg) }

/-- `DIE_LOSS` (R328). -/
def execDieLoss (pkg die : BitVec 7) (s : State) : Out := .next (loseDie pkg die s)

/-- `HEARTBEAT_MISS` (R373): the third missed heartbeat of a die in a row detects its loss; heartbeats come each 1 ms, so that misses 2 ms apart
have one between them that came. -/
def execHeartbeatMiss (pkg die : BitVec 7) (s : State) : Out :=
  let n := match s.health.heartbeats.find? (fun x => x.1 == pkg && x.2.1 == die) with
    | some x => if 2000000 ≤ (s.now - x.2.2.2).toNat then 1 else x.2.2.1 + 1
    | none => 1
  if s.health.lostDies.contains (pkg, die) then .next s
  else if 3 ≤ n then .next (loseDie pkg die s)
  else .next { s with health.heartbeats := (pkg, die, n, s.now) ::
    s.health.heartbeats.filter (fun x => !(x.1 == pkg && x.2.1 == die)) }

end Sys2Proof.Machine
end

