-- ==== Sys2Proof/Machine/PowerEvents.lean ====
section
/-! DEFINITION. Power regions and bring-up (R376, R377, R381-R383, R388): admission of grid commands, droop, heat, clock steps,
the capo registers, and boot. -/

namespace Sys2Proof.Machine

def setRegionRec (r : BitVec 4) (p : PowerRegion) (s : State) : State :=
  { s with power := s.power.setIfInBounds r.toNat p }

/-- The region counter of the reticle field that holds a power region (R228, R376). -/
def regionCounter (s : State) (r : BitVec 4) : DWord :=
  fieldCounter s (corePkg s.core.id) (r.toNat / 2)

/-- The current window of a region: its counter in steps of 200 ns (R376). -/
def powerWindow (s : State) (r : BitVec 4) : DWord := dw ((regionCounter s r).toNat / 200)

/-- Intervals of every meter entry that have ended by now. -/
def settleMeters (s : State) : State :=
  s.core.port.meters.foldl (fun s m => settleIntervals 8 (fun x => x.dest == m.dest && x.label == m.label) s) s

/-- A region's record changes, and perhaps its clock: what is left of a meter interval of the modelled core is counted in cycles, and
takes as much longer or shorter as they do (R4, R335, R377, R383). -/
def setClock (r : BitVec 4) (p : PowerRegion) (s : State) : State :=
  let old := cyToNs 4096 s
  let new := cyToNs 4096 (setRegionRec r p s)
  if old = new then setRegionRec r p s
  else
    let s := setRegionRec r p (settleMeters s)
    { s with core.port.meters := s.core.port.meters.map (fun m =>
        if s.now.toNat < m.intervalEnd.toNat then
          { m with intervalEnd := s.now + dw ((m.intervalEnd.toNat - s.now.toNat) * new / old) }
        else m) }

/-! ## Admission (R376, R377) -/

/-- The grid command of the modelled core that waits to be admitted, with its charge. -/
def ownGridReady (s : State) (r : BitVec 4) : List (DWord × CoreId × Nat) :=
  match s.core.grid.readyAt, queueHead s 4 with
  | some t, some c =>
    if s.core.grid.admitted ∨ coreRegion s.core.id ≠ r.toNat ∨ !needsAdmission c then [] else [(t, s.core.id, gridCharge c)]
  | _, _ => []

/-- Order of admission: when a command became ready, then chiplet, row and column. -/
def readyBefore (a b : DWord × CoreId × Nat) : Bool :=
  decide (a.1.toNat < b.1.toNat) || (a.1 == b.1 && decide (a.2.1.toNat ≤ b.2.1.toNat))

def insertReady (x : DWord × CoreId × Nat) : List (DWord × CoreId × Nat) → List (DWord × CoreId × Nat)
  | [] => [x]
  | y :: r => if readyBefore x y then x :: y :: r else y :: insertReady x r

/-- Commands admitted in their order while their charges fit; one that alone exceeds the limit is admitted in a window in which
nothing else has been. The result is what is charged in the window, and the commands admitted. -/
def admitInOrder (limit : Nat) : Nat → Bool → List (DWord × CoreId × Nat) → Nat × List (DWord × CoreId × Nat)
  | charged, _, [] => (charged, [])
  | charged, empty, x :: rest =>
    if charged + x.2.2 ≤ limit ∨ (limit < x.2.2 ∧ empty) then
      match admitInOrder limit (charged + x.2.2) false rest with
      | (c, l) => (c, x :: l)
    else (charged, [])

/-- `GRID_ADMISSION` (R376): at the end of a cycle the ready grid commands of a region are admitted in their order, as far as the
current window allows; none while a droop stretch is in force (R377). -/
def execGridAdmission (region : BitVec 4) (s : State) : Out :=
  let p := regionRec s region.toNat
  if p.str || p.off then .next s
  else
    let w := powerWindow s region
    let charged := if p.window = w then p.charged else 0
    let ready := (ownGridReady s region ++ p.ready).foldr insertReady []
    let out := admitInOrder p.limit.toNat charged (charged == 0) ready
    let s := setRegionRec region { p with window := w, charged := out.1, ready := p.ready.filter (fun x => !out.2.contains x) } s
    if out.2.any (fun x => x.2.1 == s.core.id) then .next { s with core.grid.admitted := true } else .next s

/-- `CAPO_WRITE` (R376, R381): the management core sets a region's limit. -/
def execCapoWrite (region : BitVec 4) (limit : BitVec 16) (s : State) : Out :=
  .next (setRegionRec region { regionRec s region.toNat with limit := limit } s)

/-! ## Clock steps (R382, R383) -/

/-- The step a region has, or will have at the next window boundary. -/
def stepWanted (p : PowerRegion) : Nat :=
  match p.nextStep with
  | some x => x.1.toNat
  | none => p.step.toNat

/-- A change of step is decided; it takes effect at the next window boundary. -/
def wantStep (s : State) (region : BitVec 4) (n : Nat) (p : PowerRegion) : PowerRegion :=
  if n = stepWanted p then p else { p with nextStep := some (BitVec.ofNat 2 n, powerWindow s region) }

/-- The lowest step number that heat allows (R383). -/
def heatFloor (p : PowerRegion) : Nat := if p.cap then 3 else p.heatStep.toNat

/-- `CLOCK_STEP_CHANGE` (R383): a decided change takes effect once its window has passed. -/
def execClockStepChange (region : BitVec 4) (s : State) : Out :=
  let p := regionRec s region.toNat
  match p.nextStep with
  | some x =>
    if x.2 = powerWindow s region then .next s
    else .next (setClock region { p with step := x.1, nextStep := none } s)
  | none => .next s

/-- Whether a reading of a region's supply is below `pct` % of nominal (R382). -/
def supplyBelow (pct : Nat) (region : BitVec 4) (mv : BitVec 16) : Bool := decide (100 * mv.toNat < pct * nominal region.toNat)

/-- `DROOP_ALARM` (R377, R382): a supply below 92 % of nominal starts or prolongs a stretch and counts; four alarms within 1 ms lower
the step by one, where it can be lowered, for 10 ms, and are spent. A reading from 92 % up raises no alarm: in a stretch, one of 95 % or
above starts the 1 µs of recovered supply, and one below breaks it. (DEDUCED, log entry 49.) -/
def execDroopAlarm (region : BitVec 4) (mv : BitVec 16) (s : State) : Out :=
  let p := regionRec s region.toNat
  if !supplyBelow 95 region mv then
    if p.str && p.recovered.isNone then .next (setRegionRec region { p with recovered := some (regionCounter s region) } s) else .next s
  else if !supplyBelow 92 region mv then .next (setRegionRec region { p with recovered := none } s)
  else
    let recent := p.alarms.filter (fun t => decide ((s.now - t).toNat < 1000000))
    let p := { p with str := true, ndrp := if p.ndrp = 0xFFFF then p.ndrp else p.ndrp + 1, lastAlarm := some s.now, recovered := none }
    if recent.length < 3 then .next (setClock region { p with alarms := recent ++ [s.now] } s)
    else if stepWanted p < 3 then
      let p := wantStep s region (stepWanted p + 1) p
      .next (setClock region { p with alarms := [], holds := p.holds ++ [s.now + 10000000] } s)
    else .next (setClock region { p with alarms := [] } s)

/-- `DROOP_STRETCH_END` (R377, R382): once readings have been at 95 % of nominal or above for 1 µs without a break, the stretch ends at
the next window boundary. -/
def execDroopStretchEnd (region : BitVec 4) (s : State) : Out :=
  let p := regionRec s region.toNat
  match p.recovered with
  | none => .next s
  | some t =>
    -- the first boundary at or after one microsecond of recovered supply
    if p.str ∧ (t.toNat + 1000 + 199) / 200 ≤ (powerWindow s region).toNat then
      .next (setClock region { p with str := false, recovered := none } s)
    else .next s

/-- `CLOCK_STEP_HOLD_END` (R382): a lowering held for 10 ms ends, and the step is raised by one, not above what heat allows.
(DEDUCED, log entry 49.) -/
def execClockStepHoldEnd (region : BitVec 4) (s : State) : Out :=
  let p := regionRec s region.toNat
  match p.holds.find? (fun t => decide (t.toNat ≤ s.now.toNat)) with
  | none => .next s
  | some t =>
    let p := { p with holds := p.holds.erase t }
    .next (setRegionRec region (wantStep s region (max (heatFloor p) (stepWanted p - 1)) p) s)

/-! ## Heat (R383) -/

/-- Readings are in units of 0.0625 °C (R381), of 12 bits and unsigned. -/
def degrees (n : Nat) : Nat := 16 * n

/-- The hottest of four readings. -/
def hottest (temps : Vector (BitVec 12) 4) : Nat := temps.toList.foldl (fun m t => max m t.toNat) 0

/-- The steps of the row for 95 °C: one step lower each 1 ms down to 2 until the reading is below 90 °C, then one step higher each
1 ms. (DEDUCED, log entry 49.) -/
def heatSteps (s : State) (region : BitVec 4) (t : Nat) (p : PowerRegion) : PowerRegion :=
  let hot := if degrees 95 ≤ t then true else if t < degrees 90 then false else p.hot
  let p := { p with hot := hot }
  let due := match p.lastHeat with
    | none => true
    | some at_ => decide (1000000 ≤ (s.now - at_).toNat)
  if !due then p
  else if hot then
    if p.heatStep.toNat < 2 then
      wantStep s region (max (stepWanted p) (min 2 (stepWanted p + 1))) { p with heatStep := p.heatStep + 1, lastHeat := some s.now }
    else p
  else
    -- lowerings of R382 still held stay
    let q := { p with heatStep := p.heatStep - (if p.heatStep = 0 then 0 else 1) }
    let target := max (heatFloor q) (max (min 3 p.holds.length) (stepWanted p - 1))
    if p.heatStep = 0 ∧ stepWanted p ≤ target then p
    else wantStep s region target { q with lastHeat := some s.now }

/-- The thermal cap: from 105 °C until the reading is below 95 °C. When it ends the step rises by one to that of the row for 95 °C, and
goes on from there as that row says. (DEDUCED, log entry 49.) -/
def heatCap (s : State) (region : BitVec 4) (t : Nat) (p : PowerRegion) : PowerRegion :=
  if degrees 105 ≤ t then wantStep s region 3 { p with cap := true, nsub := true }
  else if p.cap && decide (t < degrees 95) then
    let p := { p with cap := false, nsub := false, heatStep := 2, lastHeat := some s.now }
    wantStep s region (max 2 (min 3 p.holds.length)) p
  else p

/-- `THERMAL_SAMPLE` (R383): the management core acts on the hottest reading of a region; from 115 °C its dies, chiplets and home
dies, are powered off and treated as lost (R228, R328). -/
def execThermalSample (region : BitVec 4) (temps : Vector (BitVec 12) 4) (s : State) : Out :=
  let p := regionRec s region.toNat
  let t := hottest temps
  if p.off then .next s
  else if degrees 115 ≤ t then
    let s := setRegionRec region { p with off := true } s
    let dies := (List.range 4).flatMap (fun k => [4 * region.toNat + k, 64 + 4 * region.toNat + k])
    .next (dies.foldl (fun s d => loseDie (corePkg s.core.id) (BitVec.ofNat 7 d) s) s)
  else .next (setRegionRec region (heatSteps s region t (heatCap s region t p)) s)

/-! ## Bring-up (R388) -/

/-- Step 2 of bring-up (R370): the dies that fail authentication are fenced, and count as absent from then on. -/
def fenceDies (pkg : BitVec 7) (s : State) : State := (Config.failedDies pkg.toNat).foldl (fun s d => loseDie pkg d s) s

/-- Step 3 of bring-up (R385): cores that fail the built-in test are removed, and those with a failed column of cells run as 8×7
grids. -/
def builtInTest (pkg : BitVec 7) (s : State) : State :=
  let s := (Config.failedColumns pkg.toNat).foldl
    (fun s x => setSlotRec { slotRec s (pkg ++ x.1) with degraded := some x.2 } s) s
  (Config.failedCores pkg.toNat).foldl (fun s x => removeCore (pkg ++ x) s) s

/-- `BOOT` (R388): the next of the seven steps of bring-up of the modelled package. Step 1 ends the lock of the queue keys (R313);
step 2 fences dies (R370); step 3 finds failed cores and cells (R385); step 6 clears the slot tables, failed cores staying removed;
step 7 leaves every hallmark free and the commit stamp 0. (DESIGN CHOICE, log entries 16 and 79.) -/
def execBoot (s : State) : Out :=
  let pkg := corePkg s.core.id
  let n := s.health.bootStep + 1
  if 7 < n then .next s
  else
    let s := { s with health.bootStep := n }
    if n = 1 then .next { s with sched.host.lock := false }
    else if n = 2 then .next (fenceDies pkg s)
    else if n = 3 then .next (builtInTest pkg s)
    else if n = 6 then .next { s with sched.slots := s.sched.slots.map (fun x => if corePkg x.id = pkg then freeSlotRec x else x) }
    else if n = 7 then
      .next (setPkgRec { pkgRec s pkg with stamp := 0 } { s with sched.halls := s.sched.halls.filter (fun h => h.pkg != pkg) })
    else .next s

end Sys2Proof.Machine
end

