-- ==== Sys2Proof/Machine/Scalar.lean ====
section
/-! DEFINITION. Scalar computation (chapter 02): integer arithmetic, shifts, multiply, divide, immediates, compares,
predicate logic and moves. -/

namespace Sys2Proof.Machine

/-! ## Integer arithmetic (R52, R53, R54, R55, R56) -/

/-- `ADD`: wrapping sum (R52). -/
def execAdd (d a b : BitVec 5) (fa fb : Bool) (s : State) : Out :=
  alu (wordAdd d a b fa fb) d a b fa fb (fun x y => x + y) s

/-- `SUB`: wrapping difference (R52). -/
def execSub (d a b : BitVec 5) (fa fb : Bool) (s : State) : Out :=
  alu (wordSub d a b fa fb) d a b fa fb (fun x y => x - y) s

/-- `AND` (R52). -/
def execAndR (d a b : BitVec 5) (fa fb : Bool) (s : State) : Out :=
  alu (wordAndR d a b fa fb) d a b fa fb (fun x y => x &&& y) s

/-- `OR` (R52). -/
def execOrR (d a b : BitVec 5) (fa fb : Bool) (s : State) : Out :=
  alu (wordOrR d a b fa fb) d a b fa fb (fun x y => x ||| y) s

/-- `XOR` (R52). -/
def execXorR (d a b : BitVec 5) (fa fb : Bool) (s : State) : Out :=
  alu (wordXorR d a b fa fb) d a b fa fb (fun x y => x ^^^ y) s

/-- `ANDN` (R52). -/
def execAndn (d a b : BitVec 5) (fa fb : Bool) (s : State) : Out :=
  alu (wordAndn d a b fa fb) d a b fa fb (fun x y => x &&& ~~~y) s

/-- `ADDW` (R52). -/
def execAddw (d a b : BitVec 5) (fa fb : Bool) (s : State) : Out :=
  alu (wordAddw d a b fa fb) d a b fa fb (fun x y => ext32 (x + y)) s

/-- `SUBW` (R52). -/
def execSubw (d a b : BitVec 5) (fa fb : Bool) (s : State) : Out :=
  alu (wordSubw d a b fa fb) d a b fa fb (fun x y => ext32 (x - y)) s

/-- `ADDSAT` (R52). -/
def execAddsat (d a b : BitVec 5) (fa fb : Bool) (s : State) : Out :=
  alu (wordAddsat d a b fa fb) d a b fa fb (fun x y => clamp64 (x.toInt + y.toInt)) s

/-- `SUBSAT` (R52). -/
def execSubsat (d a b : BitVec 5) (fa fb : Bool) (s : State) : Out :=
  alu (wordSubsat d a b fa fb) d a b fa fb (fun x y => clamp64 (x.toInt - y.toInt)) s

/-- `SLL` (R53): the amount is `s[b]`[5:0]. -/
def execSll (d a b : BitVec 5) (fa fb : Bool) (s : State) : Out :=
  alu (wordSll d a b fa fb) d a b fa fb (fun x y => x <<< fieldN y 0 6) s

/-- `SRL` (R53). -/
def execSrl (d a b : BitVec 5) (fa fb : Bool) (s : State) : Out :=
  alu (wordSrl d a b fa fb) d a b fa fb (fun x y => x >>> fieldN y 0 6) s

/-- `SRA` (R53). -/
def execSra (d a b : BitVec 5) (fa fb : Bool) (s : State) : Out :=
  alu (wordSra d a b fa fb) d a b fa fb (fun x y => x.sshiftRight (fieldN y 0 6)) s

/-- `ROL` (R53). -/
def execRol (d a b : BitVec 5) (fa fb : Bool) (s : State) : Out :=
  alu (wordRol d a b fa fb) d a b fa fb (fun x y => x.rotateLeft (fieldN y 0 6)) s

/-- `ROR` (R53). -/
def execRor (d a b : BitVec 5) (fa fb : Bool) (s : State) : Out :=
  alu (wordRor d a b fa fb) d a b fa fb (fun x y => x.rotateRight (fieldN y 0 6)) s

/-- `SLLW` (R53): the amount is `s[b]`[4:0]. -/
def execSllw (d a b : BitVec 5) (fa fb : Bool) (s : State) : Out :=
  alu (wordSllw d a b fa fb) d a b fa fb (fun x y => sx (lo32 x <<< fieldN y 0 5)) s

/-- `SRLW` (R53). -/
def execSrlw (d a b : BitVec 5) (fa fb : Bool) (s : State) : Out :=
  alu (wordSrlw d a b fa fb) d a b fa fb (fun x y => sx (lo32 x >>> fieldN y 0 5)) s

/-- `SRAW` (R53). -/
def execSraw (d a b : BitVec 5) (fa fb : Bool) (s : State) : Out :=
  alu (wordSraw d a b fa fb) d a b fa fb (fun x y => sx ((lo32 x).sshiftRight (fieldN y 0 5))) s

/-- `MIN` (R56). -/
def execMin (d a b : BitVec 5) (fa fb : Bool) (s : State) : Out :=
  alu (wordMin d a b fa fb) d a b fa fb (fun x y => if ltS y x then y else x) s

/-- `MAX` (R56). -/
def execMax (d a b : BitVec 5) (fa fb : Bool) (s : State) : Out :=
  alu (wordMax d a b fa fb) d a b fa fb (fun x y => if ltS x y then y else x) s

/-- `MINU` (R56). -/
def execMinu (d a b : BitVec 5) (fa fb : Bool) (s : State) : Out :=
  alu (wordMinu d a b fa fb) d a b fa fb (fun x y => if ltU y x then y else x) s

/-- `MAXU` (R56). -/
def execMaxu (d a b : BitVec 5) (fa fb : Bool) (s : State) : Out :=
  alu (wordMaxu d a b fa fb) d a b fa fb (fun x y => if ltU x y then y else x) s

/-! ### Results after their latency (R49, R54, R55) -/

/-- `MUL`: low 64 bits (R54). -/
def execMul (d a b : BitVec 5) (fa fb : Bool) (s : State) : Out :=
  aluLate (wordMul d a b fa fb) d a b fa fb (fun x y => x * y) s

/-- `MULH`: high 64 bits, both signed (R54). -/
def execMulh (d a b : BitVec 5) (fa fb : Bool) (s : State) : Out :=
  aluLate (wordMulh d a b fa fb) d a b fa fb (fun x y => mulHigh x.toInt y.toInt) s

/-- `MULHU`: high 64 bits, both unsigned (R54). -/
def execMulhu (d a b : BitVec 5) (fa fb : Bool) (s : State) : Out :=
  aluLate (wordMulhu d a b fa fb) d a b fa fb (fun x y => mulHigh x.toNat y.toNat) s

/-- `MULHSU`: high 64 bits, signed by unsigned (R54). -/
def execMulhsu (d a b : BitVec 5) (fa fb : Bool) (s : State) : Out :=
  aluLate (wordMulhsu d a b fa fb) d a b fa fb (fun x y => mulHigh x.toInt y.toNat) s

/-- `MULW` (R54). -/
def execMulw (d a b : BitVec 5) (fa fb : Bool) (s : State) : Out :=
  aluLate (wordMulw d a b fa fb) d a b fa fb (fun x y => sx (lo32 x * lo32 y)) s

/-- `DIV` (R55). -/
def execDiv (d a b : BitVec 5) (fa fb : Bool) (s : State) : Out :=
  aluLate (wordDiv d a b fa fb) d a b fa fb (fun x y => quotS x y) s

/-- `DIVU` (R55). -/
def execDivu (d a b : BitVec 5) (fa fb : Bool) (s : State) : Out :=
  aluLate (wordDivu d a b fa fb) d a b fa fb (fun x y => quotU x y) s

/-- `REM` (R55). -/
def execRem (d a b : BitVec 5) (fa fb : Bool) (s : State) : Out :=
  aluLate (wordRem d a b fa fb) d a b fa fb (fun x y => remS x y) s

/-- `REMU` (R55). -/
def execRemu (d a b : BitVec 5) (fa fb : Bool) (s : State) : Out :=
  aluLate (wordRemu d a b fa fb) d a b fa fb (fun x y => remU x y) s

/-- `DIVW` (R55). -/
def execDivw (d a b : BitVec 5) (fa fb : Bool) (s : State) : Out :=
  aluLate (wordDivw d a b fa fb) d a b fa fb (fun x y => sx (quotS (lo32 x) (lo32 y))) s

/-- `DIVUW` (R55). -/
def execDivuw (d a b : BitVec 5) (fa fb : Bool) (s : State) : Out :=
  aluLate (wordDivuw d a b fa fb) d a b fa fb (fun x y => sx (quotU (lo32 x) (lo32 y))) s

/-- `REMW` (R55). -/
def execRemw (d a b : BitVec 5) (fa fb : Bool) (s : State) : Out :=
  aluLate (wordRemw d a b fa fb) d a b fa fb (fun x y => sx (remS (lo32 x) (lo32 y))) s

/-- `REMUW` (R55). -/
def execRemuw (d a b : BitVec 5) (fa fb : Bool) (s : State) : Out :=
  aluLate (wordRemuw d a b fa fb) d a b fa fb (fun x y => sx (remU (lo32 x) (lo32 y))) s

/-! ## Counts, selection, scaled addresses (R56, R57, R58) -/

/-- `CLZ` (R56). -/
def execClz (d a : BitVec 5) (fa : Bool) (s : State) : Out := alu1 (wordClz d a fa) d a fa clz64 s

/-- `POPC` (R56). -/
def execPopc (d a : BitVec 5) (fa : Bool) (s : State) : Out := alu1 (wordPopc d a fa) d a fa popc64 s

/-- `SEL` (R57): `p` possibly inverted chooses `s[a]` or `s[b]`. -/
def execSel (d a b : BitVec 5) (fa fb neg : Bool) (p : BitVec 3) (s : State) : Out :=
  alu (wordSel d a b fa fb neg p) d a b fa fb (fun x y => if readP s p != neg then x else y) s

/-- `SCADD` (R58). -/
def execScadd (d a b : BitVec 5) (fa fb : Bool) (sh : BitVec 2) (s : State) : Out :=
  alu (wordScadd d a b fa fb sh) d a b fa fb (fun x y => x + y <<< sh.toNat) s

/-- `SCADDX` (R58). -/
def execScaddx (d a b : BitVec 5) (fa fb : Bool) (sh : BitVec 2) (s : State) : Out :=
  alu (wordScaddx d a b fa fb sh) d a b fa fb (fun x y => x + ext32 y <<< sh.toNat) s

/-- `SCADDZ` (R58). -/
def execScaddz (d a b : BitVec 5) (fa fb : Bool) (sh : BitVec 2) (s : State) : Out :=
  alu (wordScaddz d a b fa fb sh) d a b fa fb (fun x y => x + (lo32 y).setWidth 64 <<< sh.toNat) s

/-! ## Immediate forms (R59, R60, R62) -/

/-- `ADDI` (R59): the immediate is sign-extended. -/
def execAddi (d a : BitVec 5) (imm : BitVec 15) (s : State) : Out :=
  alu1 (wordAddi d a imm) d a false (fun x => x + imm.signExtend 64) s

/-- `ANDI` (R59): the immediate is sign-extended. -/
def execAndi (d a : BitVec 5) (imm : BitVec 15) (s : State) : Out :=
  alu1 (wordAndi d a imm) d a false (fun x => x &&& imm.signExtend 64) s

/-- `ORI` (R59): the immediate is sign-extended. -/
def execOri (d a : BitVec 5) (imm : BitVec 15) (s : State) : Out :=
  alu1 (wordOri d a imm) d a false (fun x => x ||| imm.signExtend 64) s

/-- `XORI` (R59): the immediate is sign-extended. -/
def execXori (d a : BitVec 5) (imm : BitVec 15) (s : State) : Out :=
  alu1 (wordXori d a imm) d a false (fun x => x ^^^ imm.signExtend 64) s

/-- `ADDIW` (R59): the immediate is sign-extended. -/
def execAddiw (d a : BitVec 5) (imm : BitVec 15) (s : State) : Out :=
  alu1 (wordAddiw d a imm) d a false (fun x => ext32 (x + imm.signExtend 64)) s

/-- `SLLI` (R60). -/
def execSlli (d a : BitVec 5) (n : BitVec 6) (s : State) : Out :=
  alu1 (wordSlli d a n) d a false (fun x => x <<< n.toNat) s

/-- `SRLI` (R60). -/
def execSrli (d a : BitVec 5) (n : BitVec 6) (s : State) : Out :=
  alu1 (wordSrli d a n) d a false (fun x => x >>> n.toNat) s

/-- `SRAI` (R60). -/
def execSrai (d a : BitVec 5) (n : BitVec 6) (s : State) : Out :=
  alu1 (wordSrai d a n) d a false (fun x => x.sshiftRight n.toNat) s

/-- `RORI` (R60). -/
def execRori (d a : BitVec 5) (n : BitVec 6) (s : State) : Out :=
  alu1 (wordRori d a n) d a false (fun x => x.rotateRight n.toNat) s

/-- `SLLIW` (R60). -/
def execSlliw (d a : BitVec 5) (n : BitVec 5) (s : State) : Out :=
  alu1 (wordSlliw d a n) d a false (fun x => sx (lo32 x <<< n.toNat)) s

/-- `SRLIW` (R60). -/
def execSrliw (d a : BitVec 5) (n : BitVec 5) (s : State) : Out :=
  alu1 (wordSrliw d a n) d a false (fun x => sx (lo32 x >>> n.toNat)) s

/-- `SRAIW` (R60). -/
def execSraiw (d a : BitVec 5) (n : BitVec 5) (s : State) : Out :=
  alu1 (wordSraiw d a n) d a false (fun x => sx ((lo32 x).sshiftRight n.toNat)) s

/-- `LUI` (R62): the sign-extended immediate, shifted left by 15. -/
def execLui (d : BitVec 5) (imm : BitVec 20) (s : State) : Out :=
  gate inLine (wordLui d imm) s fun s => issue (wordLui d imm) ⟨[], [.s d]⟩ s fun s =>
    .next (retire (writeS d (imm.signExtend 64 <<< 15) s))

/-! ## Compares and predicate logic (R61, R63) -/

/-- `CMPEQI` (R61). -/
def execCmpeqi (p : BitVec 3) (a : BitVec 5) (imm : BitVec 12) (s : State) : Out :=
  cmpImm (wordCmpeqi p a imm) p a imm (fun x y => x == y) s

/-- `CMPNEI` (R61). -/
def execCmpnei (p : BitVec 3) (a : BitVec 5) (imm : BitVec 12) (s : State) : Out :=
  cmpImm (wordCmpnei p a imm) p a imm (fun x y => x != y) s

/-- `CMPLTI` (R61). -/
def execCmplti (p : BitVec 3) (a : BitVec 5) (imm : BitVec 12) (s : State) : Out :=
  cmpImm (wordCmplti p a imm) p a imm (fun x y => ltS x y) s

/-- `CMPGEI` (R61). -/
def execCmpgei (p : BitVec 3) (a : BitVec 5) (imm : BitVec 12) (s : State) : Out :=
  cmpImm (wordCmpgei p a imm) p a imm (fun x y => !ltS x y) s

/-- `CMPLTUI` (R61). -/
def execCmpltui (p : BitVec 3) (a : BitVec 5) (imm : BitVec 12) (s : State) : Out :=
  cmpImm (wordCmpltui p a imm) p a imm (fun x y => ltU x y) s

/-- `CMPGEUI` (R61). -/
def execCmpgeui (p : BitVec 3) (a : BitVec 5) (imm : BitVec 12) (s : State) : Out :=
  cmpImm (wordCmpgeui p a imm) p a imm (fun x y => !ltU x y) s

/-- `CMPEQ` (R63). -/
def execCmpeq (p : BitVec 3) (a b : BitVec 5) (fa fb : Bool) (s : State) : Out :=
  cmpTo (wordCmpeq p a b fa fb) p a b fa fb (fun x y => x == y) s

/-- `CMPNE` (R63). -/
def execCmpne (p : BitVec 3) (a b : BitVec 5) (fa fb : Bool) (s : State) : Out :=
  cmpTo (wordCmpne p a b fa fb) p a b fa fb (fun x y => x != y) s

/-- `CMPLT` (R63). -/
def execCmplt (p : BitVec 3) (a b : BitVec 5) (fa fb : Bool) (s : State) : Out :=
  cmpTo (wordCmplt p a b fa fb) p a b fa fb (fun x y => ltS x y) s

/-- `CMPGE` (R63). -/
def execCmpge (p : BitVec 3) (a b : BitVec 5) (fa fb : Bool) (s : State) : Out :=
  cmpTo (wordCmpge p a b fa fb) p a b fa fb (fun x y => !ltS x y) s

/-- `CMPLTU` (R63). -/
def execCmpltu (p : BitVec 3) (a b : BitVec 5) (fa fb : Bool) (s : State) : Out :=
  cmpTo (wordCmpltu p a b fa fb) p a b fa fb (fun x y => ltU x y) s

/-- `CMPGEU` (R63). -/
def execCmpgeu (p : BitVec 3) (a b : BitVec 5) (fa fb : Bool) (s : State) : Out :=
  cmpTo (wordCmpgeu p a b fa fb) p a b fa fb (fun x y => !ltU x y) s

/-- `PAND` (R63). -/
def execPand (d a b : BitVec 3) (s : State) : Out := predOp (wordPand d a b) d (fun s => readP s a && readP s b) s

/-- `POR` (R63). -/
def execPor (d a b : BitVec 3) (s : State) : Out := predOp (wordPor d a b) d (fun s => readP s a || readP s b) s

/-- `PXOR` (R63). -/
def execPxor (d a b : BitVec 3) (s : State) : Out := predOp (wordPxor d a b) d (fun s => readP s a != readP s b) s

/-- `PANDN` (R63). -/
def execPandn (d a b : BitVec 3) (s : State) : Out := predOp (wordPandn d a b) d (fun s => readP s a && !readP s b) s

/-- `PNOT` (R63). -/
def execPnot (d a : BitVec 3) (s : State) : Out := predOp (wordPnot d a) d (fun s => !readP s a) s

/-- `PGET` (R63). -/
def execPget (d : BitVec 5) (a : BitVec 3) (s : State) : Out :=
  gate inLine (wordPget d a) s fun s => issue (wordPget d a) ⟨[], [.s d]⟩ s fun s =>
    .next (retire (writeS d (b64 (readP s a)) s))

/-- `PSET` (R63). -/
def execPset (d : BitVec 3) (a : BitVec 5) (fa : Bool) (s : State) : Out :=
  gate inLine (wordPset d a fa) s fun s => issue (wordPset d a fa) ⟨[srcS a fa], []⟩ s fun s =>
    .next (retire (writeP d (readS s a != 0) s))

/-- `MOV` (R75). -/
def execMov (d a : BitVec 5) (s : State) : Out := alu1 (wordMov d a) d a false (fun x => x) s

/-- `NOP` (R77): no effect. -/
def execNop (s : State) : Out := gate inLine wordNop s fun s => issue wordNop {} s fun s => .next (retire s)

end Sys2Proof.Machine
end

