-- ==== Sys2Proof/Machine/Dispatch.lean ====
section
/-! DEFINITION. Which meaning each instruction has: one arm per constructor of `Instr`, in the order of the opcode table. -/

namespace Sys2Proof.Machine

def exec (i : Instr) (s : State) : Host.Outcome State Fault Refusal :=
  match i with
  | .add d a b fa fb => Sys2Proof.Machine.execAdd d a b fa fb s
  | .sub d a b fa fb => Sys2Proof.Machine.execSub d a b fa fb s
  | .andR d a b fa fb => Sys2Proof.Machine.execAndR d a b fa fb s
  | .orR d a b fa fb => Sys2Proof.Machine.execOrR d a b fa fb s
  | .xorR d a b fa fb => Sys2Proof.Machine.execXorR d a b fa fb s
  | .andn d a b fa fb => Sys2Proof.Machine.execAndn d a b fa fb s
  | .addw d a b fa fb => Sys2Proof.Machine.execAddw d a b fa fb s
  | .subw d a b fa fb => Sys2Proof.Machine.execSubw d a b fa fb s
  | .addsat d a b fa fb => Sys2Proof.Machine.execAddsat d a b fa fb s
  | .subsat d a b fa fb => Sys2Proof.Machine.execSubsat d a b fa fb s
  | .sll d a b fa fb => Sys2Proof.Machine.execSll d a b fa fb s
  | .srl d a b fa fb => Sys2Proof.Machine.execSrl d a b fa fb s
  | .sra d a b fa fb => Sys2Proof.Machine.execSra d a b fa fb s
  | .rol d a b fa fb => Sys2Proof.Machine.execRol d a b fa fb s
  | .ror d a b fa fb => Sys2Proof.Machine.execRor d a b fa fb s
  | .sllw d a b fa fb => Sys2Proof.Machine.execSllw d a b fa fb s
  | .srlw d a b fa fb => Sys2Proof.Machine.execSrlw d a b fa fb s
  | .sraw d a b fa fb => Sys2Proof.Machine.execSraw d a b fa fb s
  | .mul d a b fa fb => Sys2Proof.Machine.execMul d a b fa fb s
  | .mulh d a b fa fb => Sys2Proof.Machine.execMulh d a b fa fb s
  | .mulhu d a b fa fb => Sys2Proof.Machine.execMulhu d a b fa fb s
  | .mulhsu d a b fa fb => Sys2Proof.Machine.execMulhsu d a b fa fb s
  | .mulw d a b fa fb => Sys2Proof.Machine.execMulw d a b fa fb s
  | .div d a b fa fb => Sys2Proof.Machine.execDiv d a b fa fb s
  | .divu d a b fa fb => Sys2Proof.Machine.execDivu d a b fa fb s
  | .rem d a b fa fb => Sys2Proof.Machine.execRem d a b fa fb s
  | .remu d a b fa fb => Sys2Proof.Machine.execRemu d a b fa fb s
  | .divw d a b fa fb => Sys2Proof.Machine.execDivw d a b fa fb s
  | .divuw d a b fa fb => Sys2Proof.Machine.execDivuw d a b fa fb s
  | .remw d a b fa fb => Sys2Proof.Machine.execRemw d a b fa fb s
  | .remuw d a b fa fb => Sys2Proof.Machine.execRemuw d a b fa fb s
  | .min d a b fa fb => Sys2Proof.Machine.execMin d a b fa fb s
  | .max d a b fa fb => Sys2Proof.Machine.execMax d a b fa fb s
  | .minu d a b fa fb => Sys2Proof.Machine.execMinu d a b fa fb s
  | .maxu d a b fa fb => Sys2Proof.Machine.execMaxu d a b fa fb s
  | .clz d a fa => Sys2Proof.Machine.execClz d a fa s
  | .popc d a fa => Sys2Proof.Machine.execPopc d a fa s
  | .sel d a b fa fb neg p => Sys2Proof.Machine.execSel d a b fa fb neg p s
  | .scadd d a b fa fb sh => Sys2Proof.Machine.execScadd d a b fa fb sh s
  | .scaddx d a b fa fb sh => Sys2Proof.Machine.execScaddx d a b fa fb sh s
  | .scaddz d a b fa fb sh => Sys2Proof.Machine.execScaddz d a b fa fb sh s
  | .addi d a imm => Sys2Proof.Machine.execAddi d a imm s
  | .andi d a imm => Sys2Proof.Machine.execAndi d a imm s
  | .ori d a imm => Sys2Proof.Machine.execOri d a imm s
  | .xori d a imm => Sys2Proof.Machine.execXori d a imm s
  | .addiw d a imm => Sys2Proof.Machine.execAddiw d a imm s
  | .slli d a n => Sys2Proof.Machine.execSlli d a n s
  | .srli d a n => Sys2Proof.Machine.execSrli d a n s
  | .srai d a n => Sys2Proof.Machine.execSrai d a n s
  | .rori d a n => Sys2Proof.Machine.execRori d a n s
  | .slliw d a n => Sys2Proof.Machine.execSlliw d a n s
  | .srliw d a n => Sys2Proof.Machine.execSrliw d a n s
  | .sraiw d a n => Sys2Proof.Machine.execSraiw d a n s
  | .cmpeqi p a imm => Sys2Proof.Machine.execCmpeqi p a imm s
  | .cmpnei p a imm => Sys2Proof.Machine.execCmpnei p a imm s
  | .cmplti p a imm => Sys2Proof.Machine.execCmplti p a imm s
  | .cmpgei p a imm => Sys2Proof.Machine.execCmpgei p a imm s
  | .cmpltui p a imm => Sys2Proof.Machine.execCmpltui p a imm s
  | .cmpgeui p a imm => Sys2Proof.Machine.execCmpgeui p a imm s
  | .lui d imm => Sys2Proof.Machine.execLui d imm s
  | .pld d a kind off => Sys2Proof.Machine.execPld d a kind off s
  | .pldIndexed d a kind idx => Sys2Proof.Machine.execPldIndexed d a kind idx s
  | .pst d a kind off => Sys2Proof.Machine.execPst d a kind off s
  | .pstIndexed d a kind idx => Sys2Proof.Machine.execPstIndexed d a kind idx s
  | .gld d a kind off => Sys2Proof.Machine.execGld d a kind off s
  | .gldIndexed d a kind idx => Sys2Proof.Machine.execGldIndexed d a kind idx s
  | .gst d a width sc off => Sys2Proof.Machine.execGst d a width sc off s
  | .gstIndexed d a width sc idx => Sys2Proof.Machine.execGstIndexed d a width sc idx s
  | .pbr b disp => Sys2Proof.Machine.execPbr b disp s
  | .br b p neg => Sys2Proof.Machine.execBr b p neg s
  | .brl b p neg => Sys2Proof.Machine.execBrl b p neg s
  | .cmpeq p a b fa fb => Sys2Proof.Machine.execCmpeq p a b fa fb s
  | .cmpne p a b fa fb => Sys2Proof.Machine.execCmpne p a b fa fb s
  | .cmplt p a b fa fb => Sys2Proof.Machine.execCmplt p a b fa fb s
  | .cmpge p a b fa fb => Sys2Proof.Machine.execCmpge p a b fa fb s
  | .cmpltu p a b fa fb => Sys2Proof.Machine.execCmpltu p a b fa fb s
  | .cmpgeu p a b fa fb => Sys2Proof.Machine.execCmpgeu p a b fa fb s
  | .pand d a b => Sys2Proof.Machine.execPand d a b s
  | .por d a b => Sys2Proof.Machine.execPor d a b s
  | .pxor d a b => Sys2Proof.Machine.execPxor d a b s
  | .pandn d a b => Sys2Proof.Machine.execPandn d a b s
  | .pnot d a => Sys2Proof.Machine.execPnot d a s
  | .pget d a => Sys2Proof.Machine.execPget d a s
  | .pset d a fa => Sys2Proof.Machine.execPset d a fa s
  | .pbrr d a fa => Sys2Proof.Machine.execPbrr d a fa s
  | .loop lvl a len => Sys2Proof.Machine.execLoop lvl a len s
  | .loopi lvl raw len => Sys2Proof.Machine.execLoopi lvl raw len s
  | .lbrk lvl => Sys2Proof.Machine.execLbrk lvl s
  | .mcall a m => Sys2Proof.Machine.execMcall a m s
  | .mstore a stepNo m => Sys2Proof.Machine.execMstore a stepNo m s
  | .mov d a => Sys2Proof.Machine.execMov d a s
  | .mfs d r => Sys2Proof.Machine.execMfs d r s
  | .mfsTcause d => Sys2Proof.Machine.execMfsTcause d s
  | .mfsEngineStatus d r => Sys2Proof.Machine.execMfsEngineStatus d r s
  | .mts a r => Sys2Proof.Machine.execMts a r s
  | .mtsPartw a => Sys2Proof.Machine.execMtsPartw a s
  | .mtsFpctl a => Sys2Proof.Machine.execMtsFpctl a s
  | .mtsFpflag a => Sys2Proof.Machine.execMtsFpflag a s
  | .mtsLc a r => Sys2Proof.Machine.execMtsLc a r s
  | .mtsMsdepth a => Sys2Proof.Machine.execMtsMsdepth a s
  | .mtsQht a r => Sys2Proof.Machine.execMtsQht a r s
  | .cyc d => Sys2Proof.Machine.execCyc d s
  | .nop => Sys2Proof.Machine.execNop s
  | .ovl a fa => Sys2Proof.Machine.execOvl a fa s
  | .exit => Sys2Proof.Machine.execExit s
  | .vaddF32 d a b rm => Sys2Proof.Machine.execVaddF32 d a b rm s
  | .vsubF32 d a b rm => Sys2Proof.Machine.execVsubF32 d a b rm s
  | .vmulF32 d a b rm => Sys2Proof.Machine.execVmulF32 d a b rm s
  | .vfmaF32 d a b rm => Sys2Proof.Machine.execVfmaF32 d a b rm s
  | .vfmsF32 d a b rm => Sys2Proof.Machine.execVfmsF32 d a b rm s
  | .vfnmaF32 d a b rm => Sys2Proof.Machine.execVfnmaF32 d a b rm s
  | .vminF32 d a b => Sys2Proof.Machine.execVminF32 d a b s
  | .vmaxF32 d a b => Sys2Proof.Machine.execVmaxF32 d a b s
  | .vabsF32 d a => Sys2Proof.Machine.execVabsF32 d a s
  | .vnegF32 d a => Sys2Proof.Machine.execVnegF32 d a s
  | .vexp2 d a rm => Sys2Proof.Machine.execVexp2 d a rm s
  | .vrcp d a rm => Sys2Proof.Machine.execVrcp d a rm s
  | .vrsq d a rm => Sys2Proof.Machine.execVrsq d a rm s
  | .vlog2 d a rm => Sys2Proof.Machine.execVlog2 d a rm s
  | .vaddBf16 d a b rm => Sys2Proof.Machine.execVaddBf16 d a b rm s
  | .vsubBf16 d a b rm => Sys2Proof.Machine.execVsubBf16 d a b rm s
  | .vmulBf16 d a b rm => Sys2Proof.Machine.execVmulBf16 d a b rm s
  | .vfmaBf16 d a b rm => Sys2Proof.Machine.execVfmaBf16 d a b rm s
  | .vfmsBf16 d a b rm => Sys2Proof.Machine.execVfmsBf16 d a b rm s
  | .vfnmaBf16 d a b rm => Sys2Proof.Machine.execVfnmaBf16 d a b rm s
  | .vminBf16 d a b => Sys2Proof.Machine.execVminBf16 d a b s
  | .vmaxBf16 d a b => Sys2Proof.Machine.execVmaxBf16 d a b s
  | .vabsBf16 d a => Sys2Proof.Machine.execVabsBf16 d a s
  | .vnegBf16 d a => Sys2Proof.Machine.execVnegBf16 d a s
  | .vaddI32 d a b => Sys2Proof.Machine.execVaddI32 d a b s
  | .vsubI32 d a b => Sys2Proof.Machine.execVsubI32 d a b s
  | .vmulI32 d a b => Sys2Proof.Machine.execVmulI32 d a b s
  | .vmulhI32 d a b => Sys2Proof.Machine.execVmulhI32 d a b s
  | .vmulhZ32 d a b => Sys2Proof.Machine.execVmulhZ32 d a b s
  | .vaddsI32 d a b => Sys2Proof.Machine.execVaddsI32 d a b s
  | .vsubsI32 d a b => Sys2Proof.Machine.execVsubsI32 d a b s
  | .vaddsZ32 d a b => Sys2Proof.Machine.execVaddsZ32 d a b s
  | .vsubsZ32 d a b => Sys2Proof.Machine.execVsubsZ32 d a b s
  | .vminI32 d a b => Sys2Proof.Machine.execVminI32 d a b s
  | .vmaxI32 d a b => Sys2Proof.Machine.execVmaxI32 d a b s
  | .vminZ32 d a b => Sys2Proof.Machine.execVminZ32 d a b s
  | .vmaxZ32 d a b => Sys2Proof.Machine.execVmaxZ32 d a b s
  | .vand d a b => Sys2Proof.Machine.execVand d a b s
  | .vor d a b => Sys2Proof.Machine.execVor d a b s
  | .vxor d a b => Sys2Proof.Machine.execVxor d a b s
  | .vandn d a b => Sys2Proof.Machine.execVandn d a b s
  | .vsll d a b => Sys2Proof.Machine.execVsll d a b s
  | .vsrl d a b => Sys2Proof.Machine.execVsrl d a b s
  | .vsra d a b => Sys2Proof.Machine.execVsra d a b s
  | .vslli d a n => Sys2Proof.Machine.execVslli d a n s
  | .vsrli d a n => Sys2Proof.Machine.execVsrli d a n s
  | .vsrai d a n => Sys2Proof.Machine.execVsrai d a n s
  | .vcmpF32 q a b cond => Sys2Proof.Machine.execVcmpF32 q a b cond s
  | .vcmpI32 q a b cond => Sys2Proof.Machine.execVcmpI32 q a b cond s
  | .vcmpZ32 q a b cond => Sys2Proof.Machine.execVcmpZ32 q a b cond s
  | .qand d a b => Sys2Proof.Machine.execQand d a b s
  | .qor d a b => Sys2Proof.Machine.execQor d a b s
  | .qxor d a b => Sys2Proof.Machine.execQxor d a b s
  | .qandn d a b => Sys2Proof.Machine.execQandn d a b s
  | .qnot d a => Sys2Proof.Machine.execQnot d a s
  | .qtop d => Sys2Proof.Machine.execQtop d s
  | .vcvtBf16F32 d a b rm sat => Sys2Proof.Machine.execVcvtBf16F32 d a b rm sat s
  | .vcvtF16F32 d a b rm sat => Sys2Proof.Machine.execVcvtF16F32 d a b rm sat s
  | .vcvtF32Bf16Lo d a => Sys2Proof.Machine.execVcvtF32Bf16Lo d a s
  | .vcvtF32Bf16Hi d a => Sys2Proof.Machine.execVcvtF32Bf16Hi d a s
  | .vcvtF32F16Lo d a => Sys2Proof.Machine.execVcvtF32F16Lo d a s
  | .vcvtF32F16Hi d a => Sys2Proof.Machine.execVcvtF32F16Hi d a s
  | .vcvtE4m3F32 d a j rm sat rd => Sys2Proof.Machine.execVcvtE4m3F32 d a j rm sat rd s
  | .vcvtE5m2F32 d a j rm sat rd => Sys2Proof.Machine.execVcvtE5m2F32 d a j rm sat rd s
  | .vcvtF32E4m3 d a j rd => Sys2Proof.Machine.execVcvtF32E4m3 d a j rd s
  | .vcvtF32E5m2 d a j rd => Sys2Proof.Machine.execVcvtF32E5m2 d a j rd s
  | .vcvtE2m1F32 d a n rm sat rd => Sys2Proof.Machine.execVcvtE2m1F32 d a n rm sat rd s
  | .vcvtF32E2m1 d a n rd => Sys2Proof.Machine.execVcvtF32E2m1 d a n rd s
  | .vcvtI32F32 d a rm => Sys2Proof.Machine.execVcvtI32F32 d a rm s
  | .vcvtZ32F32 d a rm => Sys2Proof.Machine.execVcvtZ32F32 d a rm s
  | .vcvtF32I32 d a rm => Sys2Proof.Machine.execVcvtF32I32 d a rm s
  | .vcvtF32Z32 d a rm => Sys2Proof.Machine.execVcvtF32Z32 d a rm s
  | .vbscale d a b fmt rd => Sys2Proof.Machine.execVbscale d a b fmt rd s
  | .vbamax d a b => Sys2Proof.Machine.execVbamax d a b s
  | .vbpack d a b rm pHi fmt rd pLo => Sys2Proof.Machine.execVbpack d a b rm pHi fmt rd pLo s
  | .vbunpk d a b rm fmt rd p h => Sys2Proof.Machine.execVbunpk d a b rm fmt rd p h s
  | .vraddF32 d a rm => Sys2Proof.Machine.execVraddF32 d a rm s
  | .vrmaxF32 d a => Sys2Proof.Machine.execVrmaxF32 d a s
  | .vrminF32 d a => Sys2Proof.Machine.execVrminF32 d a s
  | .vramaxF32 d a => Sys2Proof.Machine.execVramaxF32 d a s
  | .vraddI32 d a => Sys2Proof.Machine.execVraddI32 d a s
  | .vrmaxI32 d a => Sys2Proof.Machine.execVrmaxI32 d a s
  | .vrminI32 d a => Sys2Proof.Machine.execVrminI32 d a s
  | .vperm d a b => Sys2Proof.Machine.execVperm d a b s
  | .vrot d a n => Sys2Proof.Machine.execVrot d a n s
  | .vzipl d a b => Sys2Proof.Machine.execVzipl d a b s
  | .vziph d a b => Sys2Proof.Machine.execVziph d a b s
  | .vmov d a => Sys2Proof.Machine.execVmov d a s
  | .vbcast d a => Sys2Proof.Machine.execVbcast d a s
  | .vins d a n => Sys2Proof.Machine.execVins d a n s
  | .vext d a n => Sys2Proof.Machine.execVext d a n s
  | .vextz d a n => Sys2Proof.Machine.execVextz d a n s
  | .s2q d a => Sys2Proof.Machine.execS2q d a s
  | .q2s d a => Sys2Proof.Machine.execQ2s d a s
  | .mpush a => Sys2Proof.Machine.execMpush a s
  | .minv => Sys2Proof.Machine.execMinv s
  | .mpop => Sys2Proof.Machine.execMpop s
  | .brmz len => Sys2Proof.Machine.execBrmz len s
  | .vpld d a off => Sys2Proof.Machine.execVpld d a off s
  | .vpldIndexed d a idx => Sys2Proof.Machine.execVpldIndexed d a idx s
  | .vpst d a off => Sys2Proof.Machine.execVpst d a off s
  | .vpstIndexed d a idx => Sys2Proof.Machine.execVpstIndexed d a idx s
  | .vlda d a off => Sys2Proof.Machine.execVlda d a off s
  | .vldaIndexed d a idx => Sys2Proof.Machine.execVldaIndexed d a idx s
  | .vsta d a off => Sys2Proof.Machine.execVsta d a off s
  | .vstaIndexed d a idx => Sys2Proof.Machine.execVstaIndexed d a idx s
  | .vgld d a off => Sys2Proof.Machine.execVgld d a off s
  | .vgldIndexed d a idx => Sys2Proof.Machine.execVgldIndexed d a idx s
  | .vgst d a sc off => Sys2Proof.Machine.execVgst d a sc off s
  | .vgstIndexed d a sc idx => Sys2Proof.Machine.execVgstIndexed d a sc idx s
  | .srun sig wa wb wc sp => Sys2Proof.Machine.execSrun sig wa wb wc sp s
  | .gldc sig wa wb wc sp => Sys2Proof.Machine.execGldc sig wa wb wc sp s
  | .ggo sig wa wb wc sp => Sys2Proof.Machine.execGgo sig wa wb wc sp s
  | .gmma sig wa wb wc sp => Sys2Proof.Machine.execGmma sig wa wb wc sp s
  | .copy sig wa wb wc sp => Sys2Proof.Machine.execCopy sig wa wb wc sp s
  | .copy2d sig wa wb wc sp => Sys2Proof.Machine.execCopy2d sig wa wb wc sp s
  | .send sig wa wb wc sp => Sys2Proof.Machine.execSend sig wa wb wc sp s
  | .lbind sig wa wb wc sp => Sys2Proof.Machine.execLbind sig wa wb wc sp s
  | .lunbind sig wa wb wc sp => Sys2Proof.Machine.execLunbind sig wa wb wc sp s
  | .copen sig wa wb wc sp => Sys2Proof.Machine.execCopen sig wa wb wc sp s
  | .cstream sig wa wb wc sp => Sys2Proof.Machine.execCstream sig wa wb wc sp s
  | .gsel n => Sys2Proof.Machine.execGsel n s
  | .snest n a lvl fa => Sys2Proof.Machine.execSnest n a lvl fa s
  | .gstop => Sys2Proof.Machine.execGstop s
  | .gfeed a fa => Sys2Proof.Machine.execGfeed a fa s
  | .gpop d => Sys2Proof.Machine.execGpop d s
  | .pqpop d => Sys2Proof.Machine.execPqpop d s
  | .gbank d => Sys2Proof.Machine.execGbank d s
  | .kwait a => Sys2Proof.Machine.execKwait a s
  | .kstat d a => Sys2Proof.Machine.execKstat d a s
  | .bufdef n a b fa fb => Sys2Proof.Machine.execBufdef n a b fa fb s
  | .bufrel n => Sys2Proof.Machine.execBufrel n s
  | .bufrelFree n => Sys2Proof.Machine.execBufrelFree n s
  | .bufstat d a => Sys2Proof.Machine.execBufstat d a s
  | .bufwait n st => Sys2Proof.Machine.execBufwait n st s
  | .mark s_ => Sys2Proof.Machine.execMark s_ s
  | .fenceRel s_ => Sys2Proof.Machine.execFenceRel s_ s
  | .fenceAcq s_ => Sys2Proof.Machine.execFenceAcq s_ s
  | .fenceFull s_ => Sys2Proof.Machine.execFenceFull s_ s
  | .amoadd d a b fa fb esc dbl => Sys2Proof.Machine.execAmoadd d a b fa fb esc dbl s
  | .amoand d a b fa fb esc dbl => Sys2Proof.Machine.execAmoand d a b fa fb esc dbl s
  | .amoor d a b fa fb esc dbl => Sys2Proof.Machine.execAmoor d a b fa fb esc dbl s
  | .amoxor d a b fa fb esc dbl => Sys2Proof.Machine.execAmoxor d a b fa fb esc dbl s
  | .amomin d a b fa fb esc dbl => Sys2Proof.Machine.execAmomin d a b fa fb esc dbl s
  | .amomax d a b fa fb esc dbl => Sys2Proof.Machine.execAmomax d a b fa fb esc dbl s
  | .amominz d a b fa fb esc dbl => Sys2Proof.Machine.execAmominz d a b fa fb esc dbl s
  | .amomaxz d a b fa fb esc dbl => Sys2Proof.Machine.execAmomaxz d a b fa fb esc dbl s
  | .amoswap d a b fa fb esc dbl => Sys2Proof.Machine.execAmoswap d a b fa fb esc dbl s
  | .amocas d a b fa fb esc dbl => Sys2Proof.Machine.execAmocas d a b fa fb esc dbl s
  | .redF32 a b fa s_ => Sys2Proof.Machine.execRedF32 a b fa s_ s
  | .redBf16 a b fa s_ => Sys2Proof.Machine.execRedBf16 a b fa s_ s
  | .redI32 a b fa s_ => Sys2Proof.Machine.execRedI32 a b fa s_ s
  | .redF32max a b fa s_ => Sys2Proof.Machine.execRedF32max a b fa s_ s
  | .redoF32 a b fa grp => Sys2Proof.Machine.execRedoF32 a b fa grp s
  | .redoBf16 a b fa grp => Sys2Proof.Machine.execRedoBf16 a b fa grp s
  | .redoI32 a b fa grp => Sys2Proof.Machine.execRedoI32 a b fa grp s
  | .redoF32max a b fa grp => Sys2Proof.Machine.execRedoF32max a b fa grp s
  | .alr a fa => Sys2Proof.Machine.execAlr a fa s
  | .alre => Sys2Proof.Machine.execAlre s
  | .sembind slot a fa => Sys2Proof.Machine.execSembind slot a fa s
  | .sembindOff slot => Sys2Proof.Machine.execSembindOff slot s
  | .semadd d a b fa fb s_ => Sys2Proof.Machine.execSemadd d a b fa fb s_ s
  | .semwait a b fa fb s_ => Sys2Proof.Machine.execSemwait a b fa fb s_ s
  | .pamoadd d a b fa fb dbl => Sys2Proof.Machine.execPamoadd d a b fa fb dbl s
  | .pamoand d a b fa fb dbl => Sys2Proof.Machine.execPamoand d a b fa fb dbl s
  | .pamoor d a b fa fb dbl => Sys2Proof.Machine.execPamoor d a b fa fb dbl s
  | .pamoxor d a b fa fb dbl => Sys2Proof.Machine.execPamoxor d a b fa fb dbl s
  | .pamomin d a b fa fb dbl => Sys2Proof.Machine.execPamomin d a b fa fb dbl s
  | .pamomax d a b fa fb dbl => Sys2Proof.Machine.execPamomax d a b fa fb dbl s
  | .pamominz d a b fa fb dbl => Sys2Proof.Machine.execPamominz d a b fa fb dbl s
  | .pamomaxz d a b fa fb dbl => Sys2Proof.Machine.execPamomaxz d a b fa fb dbl s
  | .pamoswap d a b fa fb dbl => Sys2Proof.Machine.execPamoswap d a b fa fb dbl s
  | .pamocas d a b fa fb dbl => Sys2Proof.Machine.execPamocas d a b fa fb dbl s
  | .bar s_ grp => Sys2Proof.Machine.execBar s_ grp s
  | .grpinfo d grp => Sys2Proof.Machine.execGrpinfo d grp s
  | .trap n => Sys2Proof.Machine.execTrap n s
  | .tfence => Sys2Proof.Machine.execTfence s
  | .tret => Sys2Proof.Machine.execTret s
  | .tretSkip => Sys2Proof.Machine.execTretSkip s
  | .bkpt n => Sys2Proof.Machine.execBkpt n s
  | .dstep m => Sys2Proof.Machine.execDstep m s
  | .txstat d => Sys2Proof.Machine.execTxstat d s
  | .txabort a fa => Sys2Proof.Machine.execTxabort a fa s
  | .yield d => Sys2Proof.Machine.execYield d s
  | .sleep d a fa => Sys2Proof.Machine.execSleep d a fa s
  | .sleept a fa => Sys2Proof.Machine.execSleept a fa s
  | .dstat d => Sys2Proof.Machine.execDstat d s
  | .disc d a fa => Sys2Proof.Machine.execDisc d a fa s
  | .prd d a fa => Sys2Proof.Machine.execPrd d a fa s
  | .lwake a fa => Sys2Proof.Machine.execLwake a fa s
  | .lwakeWait a fa => Sys2Proof.Machine.execLwakeWait a fa s
  | .chold d a h fa => Sys2Proof.Machine.execChold d a h fa s
  | .cclose h => Sys2Proof.Machine.execCclose h s
  | .cstat d h => Sys2Proof.Machine.execCstat d h s
  | .overlayLoadDone err => Sys2Proof.Machine.execOverlayLoadDone err s
  | .coreDone launch ord => Sys2Proof.Machine.execCoreDone launch ord s
  | .targetFetchReady b err => Sys2Proof.Machine.execTargetFetchReady b err s
  | .gldDataReturn idx err => Sys2Proof.Machine.execGldDataReturn idx err s
  | .engineStatusFill idx => Sys2Proof.Machine.execEngineStatusFill idx s
  | .engineCommandStart q => Sys2Proof.Machine.execEngineCommandStart q s
  | .engineCommandComplete q => Sys2Proof.Machine.execEngineCommandComplete q s
  | .engineFault => Sys2Proof.Machine.execEngineFault s
  | .lateCopyTrap => Sys2Proof.Machine.execLateCopyTrap s
  | .streamTokenDeliver se => Sys2Proof.Machine.execStreamTokenDeliver se s
  | .streamTokenCommit se => Sys2Proof.Machine.execStreamTokenCommit se s
  | .gridStep => Sys2Proof.Machine.execGridStep s
  | .gmmaKblock => Sys2Proof.Machine.execGmmaKblock s
  | .gmmaPreemptCut => Sys2Proof.Machine.execGmmaPreemptCut s
  | .reliefGrant => Sys2Proof.Machine.execReliefGrant s
  | .deadlockTrap => Sys2Proof.Machine.execDeadlockTrap s
  | .atomicApply src => Sys2Proof.Machine.execAtomicApply src s
  | .atomicResultReturn idx => Sys2Proof.Machine.execAtomicResultReturn idx s
  | .redApply src => Sys2Proof.Machine.execRedApply src s
  | .redoArrival src => Sys2Proof.Machine.execRedoArrival src s
  | .redoResend idx => Sys2Proof.Machine.execRedoResend idx s
  | .lineRegionApply src => Sys2Proof.Machine.execLineRegionApply src s
  | .semaphoreAdd idx => Sys2Proof.Machine.execSemaphoreAdd idx s
  | .stepTrap grid => Sys2Proof.Machine.execStepTrap grid s
  | .sleeptWake => Sys2Proof.Machine.execSleeptWake s
  | .leaseExpiry h => Sys2Proof.Machine.execLeaseExpiry h s
  | .storeApply src => Sys2Proof.Machine.execStoreApply src s
  | .hubLineDrain hub => Sys2Proof.Machine.execHubLineDrain hub s
  | .homeSweep line => Sys2Proof.Machine.execHomeSweep line s
  | .pageWalk va write => Sys2Proof.Machine.execPageWalk va write s
  | .tlbInvalidate launch page => Sys2Proof.Machine.execTlbInvalidate launch page s
  | .pagerFault q => Sys2Proof.Machine.execPagerFault q s
  | .lmbox queue tail => Sys2Proof.Machine.execLmbox queue tail s
  | .qcfg queue value => Sys2Proof.Machine.execQcfg queue value s
  | .qerr value => Sys2Proof.Machine.execQerr value s
  | .evqhead value => Sys2Proof.Machine.execEvqhead value s
  | .pgresp slot ok => Sys2Proof.Machine.execPgresp slot ok s
  | .ikey write => Sys2Proof.Machine.execIkey write s
  | .deviceRegisterWrite offset value => Sys2Proof.Machine.execDeviceRegisterWrite offset value s
  | .launchSubmit queue => Sys2Proof.Machine.execLaunchSubmit queue s
  | .launchBind launch place => Sys2Proof.Machine.execLaunchBind launch place s
  | .launchAging launch => Sys2Proof.Machine.execLaunchAging launch s
  | .bind slot => Sys2Proof.Machine.execBind slot s
  | .resume slot => Sys2Proof.Machine.execResume slot s
  | .save slot => Sys2Proof.Machine.execSave slot s
  | .coreSaved slot => Sys2Proof.Machine.execCoreSaved slot s
  | .kill slot => Sys2Proof.Machine.execKill slot s
  | .halt slot => Sys2Proof.Machine.execHalt slot s
  | .releaseHalt slot => Sys2Proof.Machine.execReleaseHalt slot s
  | .debugHaltRequest launch => Sys2Proof.Machine.execDebugHaltRequest launch s
  | .sequencerStart launch pkg region => Sys2Proof.Machine.execSequencerStart launch pkg region s
  | .gridAdmission region => Sys2Proof.Machine.execGridAdmission region s
  | .droopAlarm region mv => Sys2Proof.Machine.execDroopAlarm region mv s
  | .droopStretchEnd region => Sys2Proof.Machine.execDroopStretchEnd region s
  | .clockStepHoldEnd region => Sys2Proof.Machine.execClockStepHoldEnd region s
  | .thermalSample region temps => Sys2Proof.Machine.execThermalSample region temps s
  | .launchReady launch => Sys2Proof.Machine.execLaunchReady launch s
  | .pairCompare launch => Sys2Proof.Machine.execPairCompare launch s
  | .pairWaitExpiry launch => Sys2Proof.Machine.execPairWaitExpiry launch s
  | .commitPrepare launch => Sys2Proof.Machine.execCommitPrepare launch s
  | .commitFlip launch => Sys2Proof.Machine.execCommitFlip launch s
  | .witnessQuery launch => Sys2Proof.Machine.execWitnessQuery launch s
  | .abortDecide launch => Sys2Proof.Machine.execAbortDecide launch s
  | .launchAborted launch => Sys2Proof.Machine.execLaunchAborted launch s
  | .kernelNode graph node => Sys2Proof.Machine.execKernelNode graph node s
  | .conditionNode graph node => Sys2Proof.Machine.execConditionNode graph node s
  | .switchNode graph node => Sys2Proof.Machine.execSwitchNode graph node s
  | .loopNode graph node => Sys2Proof.Machine.execLoopNode graph node s
  | .joinNode graph node => Sys2Proof.Machine.execJoinNode graph node s
  | .dieLoss pkg die => Sys2Proof.Machine.execDieLoss pkg die s
  | .packageLoss pkg => Sys2Proof.Machine.execPackageLoss pkg s
  | .stationLoss pkg => Sys2Proof.Machine.execStationLoss pkg s
  | .heartbeatMiss pkg die => Sys2Proof.Machine.execHeartbeatMiss pkg die s
  | .uncorrectableError place => Sys2Proof.Machine.execUncorrectableError place s
  | .hostRead pa len => Sys2Proof.Machine.execHostRead pa len s
  | .hostWrite pa bytes => Sys2Proof.Machine.execHostWrite pa bytes s
  | .hostSnoop line invalidate => Sys2Proof.Machine.execHostSnoop line invalidate s
  | .flitForward router => Sys2Proof.Machine.execFlitForward router s
  | .linkReplay link => Sys2Proof.Machine.execLinkReplay link s
  | .linkRetrain link lanes => Sys2Proof.Machine.execLinkRetrain link lanes s
  | .linkFailure link => Sys2Proof.Machine.execLinkFailure link s
  | .detourLoad link => Sys2Proof.Machine.execDetourLoad link s
  | .linkNarrow link => Sys2Proof.Machine.execLinkNarrow link s
  | .linkSleep link => Sys2Proof.Machine.execLinkSleep link s
  | .linkWake link => Sys2Proof.Machine.execLinkWake link s
  | .packetPlacement idx => Sys2Proof.Machine.execPacketPlacement idx s
  | .placementAcknowledgement idx => Sys2Proof.Machine.execPlacementAcknowledgement idx s
  | .reoffer idx => Sys2Proof.Machine.execReoffer idx s
  | .claspPlacement idx => Sys2Proof.Machine.execClaspPlacement idx s
  | .meterIntervalEnd entry => Sys2Proof.Machine.execMeterIntervalEnd entry s
  | .probeAction idx => Sys2Proof.Machine.execProbeAction idx s
  | .circuitBeat idx => Sys2Proof.Machine.execCircuitBeat idx s
  | .windowCheck idx => Sys2Proof.Machine.execWindowCheck idx s
  | .windowAcknowledgement idx => Sys2Proof.Machine.execWindowAcknowledgement idx s
  | .windowNak idx => Sys2Proof.Machine.execWindowNak idx s
  | .circuitRelease idx => Sys2Proof.Machine.execCircuitRelease idx s
  | .ringRequest idx => Sys2Proof.Machine.execRingRequest idx s
  | .ringResponse idx => Sys2Proof.Machine.execRingResponse idx s
  | .ringResend idx => Sys2Proof.Machine.execRingResend idx s
  | .ringFrame link verified => Sys2Proof.Machine.execRingFrame link verified s
  | .frameClose link => Sys2Proof.Machine.execFrameClose link s
  | .keyUpdate link => Sys2Proof.Machine.execKeyUpdate link s
  | .boot => Sys2Proof.Machine.execBoot s
  | .illegalInstruction w => Sys2Proof.Machine.execIllegalInstruction w s
  | .remotePoolAccess idx => Sys2Proof.Machine.execRemotePoolAccess idx s
  | .homeRead src => Sys2Proof.Machine.execHomeRead src s
  | .latencyResultDelivery idx => Sys2Proof.Machine.execLatencyResultDelivery idx s
  | .cxlWriteCompletion idx => Sys2Proof.Machine.execCxlWriteCompletion idx s
  | .backInvalidateResponse line => Sys2Proof.Machine.execBackInvalidateResponse line s
  | .capoWrite region limit => Sys2Proof.Machine.execCapoWrite region limit s
  | .clockStepChange region => Sys2Proof.Machine.execClockStepChange region s

end Sys2Proof.Machine
end

