-- ==== Sys2Proof/Machine/MacroOps.lean ====
section
/-! DEFINITION. Macro operations (R72-R74): the word that the sequencer issues next. -/

namespace Sys2Proof.Machine

/-- The word of an operation after substitution; a word that encodes no instruction is left as it is. -/
noncomputable def substWord (n : BitVec 5) (w : Word) : Word :=
  match decode w with
  | some _ => substFields n w
  | none => w

/-- The word the sequencer issues next: the word at the program counter, or in a macro its next operation, with the parameters
of the `MCALL` at the program counter (R73, R74). -/
noncomputable def issueWord (s : State) : Word :=
  if s.core.seq.macroRun then substWord (word5 (wordAtPc s) 15) (macroWord s (mstepMac s) (mstepStep s)) else wordAtPc s

end Sys2Proof.Machine
end

