-- ==== Sys2Proof/Machine/Progress.lean ====
section
/-! DEFINITION. What a step does beside the sequencer's instruction: the traps and orders that are due at a boundary, and, while
the sequencer waits or does not run, the next move of the other units (DESIGN CHOICE, log entry 14). -/

namespace Sys2Proof.Machine

/-- The clock `n` ns after `t`: it never runs back, and the model's clock stops at 2^63 ns, 292 years, before any counter would wrap
(R3, R76; DESIGN CHOICE, log entry 4). -/
def laterBy (n : Nat) (t : DWord) : DWord := dw (max t.toNat (min (t.toNat + n) (2 ^ 63)))

/-- The region counter passes on by a free number of ns (DESIGN CHOICE, log entry 4). -/
def tick (s : State) : State := { s with now := laterBy (Config.elapsed s.ticks) s.now, ticks := s.ticks + 1 }

/-! ## The sequencer (R14, R41, R64, R73) -/

/-- The decoded word is issued; a word that encodes no instruction traps. (DEDUCED, log entry 51.) -/
noncomputable def issueDecoded (w : Word) (s : State) : Out :=
  match decode w with
  | some i => exec i s
  | none => exec (.illegalInstruction w) s

/-- The sequencer issues: the word at the program counter, or the next operation of a macro. A program that runs past word 4,095
or into the locked handler area has a fetch fault, and so has a word with an uncorrectable error (R14, R64). -/
noncomputable def issueNext (s : State) : Out :=
  if s.core.seq.pcOver then trap .fetchRange 4096 s
  else if s.core.seq.mode = .program ∧ Config.handlerArea ≤ s.core.seq.pc.toNat then
    trap .fetchHandlerArea (s.core.seq.pc.setWidth 64) s
  else if !s.core.seq.macroRun ∧ s.core.seq.badWords.contains s.core.seq.pc then trap .fetchError (s.core.seq.pc.setWidth 64) s
  else issueDecoded (issueWord s) s

/-- Whether a `YIELD` stands at the program counter that can issue and has not met the save that is pending: it tells of the save and
retires, and the save is taken right after it (R267). -/
noncomputable def yieldsFirst (s : State) : Bool :=
  !s.core.seq.yielded && (match decode (issueWord s), issueNext s with
    | some (.yield _), .next t => t.core.seq.wait.isNone && t.core.seq.yielded
    | _, _ => false)

/-! ## At an instruction boundary (R117, R142, R262, R329, R331) -/

/-- What is due before the sequencer issues again: a save or a debug halt in either mode, in program mode a step that has fired, an
engine fault, a late copy; a `YIELD` meets the pending save first (R267). A `SLEEP` that sleeps wakes of itself for a trap (R268). (DESIGN CHOICE, log entry 14.)
(DEDUCED, log entry 37.) -/
noncomputable def boundaryEvent (s : State) : Option Instr :=
  let x := slotRec s s.core.id
  if s.core.seq.run ≠ .running then none
  else if s.core.seq.savePending ∧ x.state = .saving ∧ x.launch = s.core.launch ∧ !yieldsFirst s then some (.save s.core.id)
  else if s.core.seq.haltRequested ∧ x.op = 5 ∧ x.state = .running then some (.halt s.core.id)
  else if s.core.seq.mode ≠ .program ∨ s.core.seq.sleepCap.isSome then none
  else if s.core.seq.stepFired then some (.stepTrap false)
  else if s.core.seq.gridStepFired then some (.stepTrap true)
  else if !s.core.eng.faults.isEmpty then some .engineFault
  else if !s.core.eng.lateCopies.isEmpty then some .lateCopyTrap
  else none

/-! ## The other units -/

/-- Indices of a list. -/
def indices {α : Type} (l : List α) : List Nat := List.range l.length

/-- Moves of the modelled core's own units that may be due. -/
noncomputable def coreMoves (s : State) : List Instr :=
  let c := s.core
  List.flatten [
    (indices c.regs.latent).map .latencyResultDelivery,
    ((List.range 8).filter (fun i => (vgetD c.seq.tb i TargetReg.idle).state == .fetching)).map (fun i => .targetFetchReady (BitVec.ofNat 3 i) false),
    (indices c.mq.status).map .engineStatusFill,
    (if c.mq.gpops.isEmpty then [] else [.engineStatusFill c.mq.status.length]),
    (indices c.mq.loads).map (fun i => .homeRead (.own i)),
    (indices c.mq.loads).map (fun i => .gldDataReturn i false),
    (if c.mq.stores.isEmpty then [] else
      [.storeApply (.own 0), .atomicApply (.own 0), .redApply (.own 0), .redoArrival (.own 0), .lineRegionApply (.own 0)]),
    (indices c.mq.results).map .atomicResultReturn,
    ((List.range 6).filter (fun q => (queueHead s q).isSome)).flatMap (fun q => [.engineCommandStart q, .engineCommandComplete q]),
    ((List.range 4).filter (fun i => (vgetD c.eng.streams i none).isSome)).flatMap (fun i =>
      [.streamTokenDeliver (BitVec.ofNat 2 i), .streamTokenCommit (BitVec.ofNat 2 i)]),
    (if c.grid.run.isSome then [.gridStep] else []),
    (if c.grid.gmma.isSome then [.gmmaKblock, .gmmaPreemptCut] else []),
    (if c.grid.readyAt.isSome then [.gridAdmission (BitVec.ofNat 4 (coreRegion c.id))] else []),
    (List.range 7).map .pagerFault,
    (if c.seq.wait.isSome then [.sleeptWake] else []),
    ((List.range 8).filter (fun h => (vgetD c.port.handles h Handle.closed).st != 0)).map (fun h => .leaseExpiry (BitVec.ofNat 3 h)),
    (indices c.port.meters).map .meterIntervalEnd,
    (match c.seq.run with
      | .overlay _ => [.overlayLoadDone false]
      | .exited => [.coreDone c.launch c.ord.toNat]
      | .unbound | .bound | .running | .done | .saving _ | .saved | .halted _ | .stopped => [])]

/-- The routers that flits are under way to on a link (R339), numbered package by package. -/
def wireEnds (l : LinkRec) : List Nat :=
  let base : Router := BitVec.ofNat 15 (l.link / 2)
  let pkg := (linkPkg l.link).toNat * 2 ^ 15
  (if l.fwd.wire.isEmpty then [] else [pkg + (routerStep base (if l.link % 2 = 1 then 3 else 2)).toNat])
    ++ (if l.back.wire.isEmpty then [] else [pkg + base.toNat])

/-- Moves of homes, caches, rings and mesh. -/
noncomputable def fabricMoves (s : State) : List Instr :=
  let n := s.net
  let routers := n.flits.map (fun f => match n.packets.find? (fun p => p.id == f.pkt) with
      | some p => p.pkg.toNat * 2 ^ 15 + f.router.toNat
      | none => f.router.toNat)
    ++ (n.packets.filter (fun p => decide (p.sent < flitCount p.data.length))).map (fun p => p.pkg.toNat * 2 ^ 15 + p.src.toNat)
    ++ n.links.flatMap wireEnds
  List.flatten [
    (indices s.homes.queue).flatMap (fun i =>
      [.homeRead (.other i), .storeApply (.other i), .atomicApply (.other i), .redApply (.other i), .redoArrival (.other i),
       .lineRegionApply (.other i), .redoResend i]),
    (indices s.sched.saves).flatMap (fun k =>
      let i := s.homes.queue.length + k
      [.storeApply (.other i), .atomicApply (.other i), .redApply (.other i), .redoArrival (.other i), .lineRegionApply (.other i)]),
    s.homes.hubs.map (fun h => .hubLineDrain h.hub.toNat),
    (s.sched.halls.filter (fun h => h.state == .folding || h.state == .discarding)).flatMap (fun h =>
      match s.homes.lines.find? (fun r => linePkg r.line == h.pkg) with
      | some r => [.homeSweep r.line]
      | none => [.homeSweep (h.pkg.toNat * 2 ^ 38)]),
    (s.homes.lines.filter (fun r => r.backInv)).map (fun r => .backInvalidateResponse r.line),
    (indices s.sched.host.cxl).map .cxlWriteCompletion,
    routers.eraseDups.map .flitForward,
    (indices n.packets).flatMap (fun i =>
      [.packetPlacement i, .claspPlacement i, .placementAcknowledgement i, .reoffer i, .windowAcknowledgement i, .windowNak i,
       .circuitRelease i]),
    (indices n.probes).map .probeAction,
    (indices n.beats).flatMap (fun i => [.circuitBeat i, .windowCheck i]),
    n.waking.map .linkWake,
    (indices n.remote).flatMap (fun i => [.remotePoolAccess i, .reoffer (n.packets.length + i)]),
    (n.links.filter (fun l => mustRetrain l && !l.failed)).map (fun l => .linkRetrain l.link .full),
    (n.links.filter (fun l => l.failed && !l.detoured && !isRingLink l.link)).map (fun l => .detourLoad l.link),
    (n.links.filter (fun l => decide (2 ^ 32 + l.keyStart ≤ l.frame.toNat + 1))).map (fun l => .keyUpdate l.link),
    (n.links.filter (fun l => !l.openFrame.isEmpty)).flatMap (fun l => [.frameClose l.link, .ringFrame l.link true]),
    (indices n.ringReqs).flatMap (fun i => [.ringRequest i, .ringResend i]),
    (indices n.ringResps).map .ringResponse,
    (indices s.sched.semAdds).map .semaphoreAdd]

/-- Moves of a slot: orders that stand in its record, the bind of a core that has been loaded, a resume where there is one to make. -/
noncomputable def slotMoves (x : SlotRec) : List Instr :=
  [.bind x.id, .coreSaved x.id, .kill x.id, .halt x.id, .resume x.id]
    ++ (if x.op = 3 ∨ x.state = .saving then [.save x.id] else []) ++ (if x.op = 6 then [.releaseHalt x.id] else [])

/-- Moves of the schedulers and of the power regions, and bring-up. -/
noncomputable def schedMoves (s : State) : List Instr :=
  List.flatten [
    (if s.health.bootStep < 7 then [.boot] else []),
    ((List.range 64).filter (fun q => (hostQueue s (BitVec.ofNat 6 q)).announced != 0)).map (fun q => .launchSubmit (BitVec.ofNat 6 q)),
    s.sched.graphs.flatMap (fun g => (indices g.nodes).flatMap (fun n =>
      [.kernelNode g.id n, .conditionNode g.id n, .switchNode g.id n, .loopNode g.id n, .joinNode g.id n])),
    s.sched.slots.flatMap slotMoves,
    s.sched.launches.flatMap (fun l =>
      List.flatten [
        l.loadedAt.flatMap (fun p => (List.range 16).map (fun r => .sequencerStart l.id p.1 (BitVec.ofNat 4 r))),
        [.launchAging l.id, .launchReady l.id, .pairCompare l.id, .pairWaitExpiry l.id, .commitPrepare l.id, .commitFlip l.id,
          .witnessQuery l.id, .launchAborted l.id],
        (if l.phase = .doomed then [.abortDecide l.id] else [])]),
    (List.range 16).flatMap (fun r =>
      let p := vgetD s.power r PowerRegion.start
      List.flatten [
        (if p.nextStep.isSome then [.clockStepChange (BitVec.ofNat 4 r)] else []),
        (if p.str then [.droopAlarm (BitVec.ofNat 4 r) (BitVec.ofNat 16 (nominal r)), .droopStretchEnd (BitVec.ofNat 4 r)] else []),
        (if p.holds.isEmpty then [] else [.clockStepHoldEnd (BitVec.ofNat 4 r)]),
        (if p.ready.isEmpty then [] else [.gridAdmission (BitVec.ofNat 4 r)])])]

/-- Every move that may be due, from one that the steps taken choose; a stuck core comes last (R170, R171).
(DESIGN CHOICE, log entry 14.) (DESIGN CHOICE, log entry 56.) -/
noncomputable def moves (s : State) : List Instr :=
  let l := coreMoves s ++ fabricMoves s ++ schedMoves s
  let k := if l.isEmpty then 0 else s.ticks % l.length
  l.drop k ++ l.take k ++ (match s.core.seq.run with
    | .running | .exited => [.reliefGrant, .deadlockTrap]
    | .unbound | .bound | .overlay _ | .done | .saving _ | .saved | .halted _ | .stopped => [])

/-- Whether a move changed anything that later moves or the sequencer can meet. -/
def changed (a b : State) : Bool :=
  a.core.regs != b.core.regs || a.core.mq != b.core.mq || a.core.eng != b.core.eng || a.core.grid != b.core.grid
  || a.core.port != b.core.port || a.core.seq.run != b.core.seq.run || a.core.seq.mode != b.core.seq.mode
  || a.core.seq.pc != b.core.seq.pc || a.core.seq.tb != b.core.seq.tb || a.core.launch != b.core.launch
  || a.core.seq.handlerFault != b.core.seq.handlerFault || a.core.seq.savePending != b.core.seq.savePending
  || a.homes.lines != b.homes.lines || a.homes.layers != b.homes.layers || a.homes.hubs != b.homes.hubs
  || a.homes.queue != b.homes.queue || a.homes.rounds != b.homes.rounds || a.homes.heldReds != b.homes.heldReds
  || a.net != b.net || a.sched != b.sched || a.power != b.power || a.health != b.health

/-- The first move that does something, with what it leads to. -/
def firstMove (s : State) : List Instr → Option Out
  | [] => none
  | e :: rest =>
    match exec e s with
    | .next s' => if changed s s' then some (.next s') else firstMove s rest
    | .fault f => some (.fault f)
    | .refused r => some (.refused r)

/-- The sequencer issues anew after another unit has moved. -/
def reissue (o : Out) : Out :=
  match o with
  | .next s => .next { s with core.seq.wait := none }
  | .fault f => .fault f
  | .refused r => .refused r

/-- Another unit moves, if one can. (DESIGN CHOICE, log entry 14.) -/
noncomputable def others (s : State) : Out :=
  match firstMove s (moves s) with
  | some o => reissue o
  | none => .next s

/-- An instruction that waits at issue gives the step to another unit; any other instruction is the step. -/
noncomputable def afterIssue (o : Out) : Out :=
  match o with
  | .next s => if s.core.seq.wait.isNone then .next s else others s
  | .fault f => .fault f
  | .refused r => .refused r

/-- A move that stands on the agenda; an instruction word there is no move and is passed over.
(DESIGN CHOICE, log entry 14.) -/
def agendaMove (e : Instr) (s : State) : Out := if e.isWord then .next s else reissue (exec e s)

end Sys2Proof.Machine
end

