-- ==== Sys2Proof/Machine/Step.lean ====
section
/-! DEFINITION. One step of the machine: the next move on the agenda, else what is due at the boundary, else the sequencer's
instruction, else a move of another unit. -/

namespace Sys2Proof.Machine

/-- One step (DESIGN CHOICE, log entry 14). -/
noncomputable def step (s : State) : Host.Outcome State Fault Refusal :=
  let s := tick s
  match s.agenda with
  | e :: rest => agendaMove e { s with agenda := rest }
  | [] =>
    match boundaryEvent s with
    | some e => exec e s
    | none => if s.core.seq.run = .running then afterIssue (issueNext s) else others s

/-- The state whose next step runs the instruction of a word: a package that has booted, with the modelled core running it as a
bound core does, and the word where the sequencer fetches next. -/
def State.withFetchWord (s : State) (nbits w : Nat) : State :=
  { s with
    agenda := []
    health.bootStep := 7
    core.seq.run := .running
    core.seq.macroRun := false
    core.seq.pcOver := false
    core.seq.badWords := []
    core.seq.imem := s.core.seq.imem.setIfInBounds s.core.seq.pc.toNat (BitVec.ofNat 32 (w % 2 ^ nbits)) }

end Sys2Proof.Machine
end

