-- ==== Sys2Proof/Safety.lean ====
section
/-! DEFINITION. The terms in which claims speak: when nothing stands in the way of an instruction's issue, what an instruction
leaves alone, what every step keeps, and what a safe step is. -/

namespace Sys2Proof.Machine

/-! ## Issue -/

/-- A gate lets an instruction pass: line region, macro, end word and mode (R42, R69, R74, R211, R257). -/
def gateOpen (g : Gate) (s : State) : Bool :=
  (s.core.mq.region.isNone || g.inRegion) && (!s.core.seq.macroRun || g.inMacro)
    && (s.core.seq.macroRun || g.endWord || !isEndWord s s.core.seq.pc)
    && (match g.only with
        | none => true
        | some m => s.core.seq.mode == m)

/-- A register is full and no result is on its way to it (R16, R49, R91, R199). -/
def regFree (s : State) (r : RegRef) : Bool := !regEmpty s r && !regPending s r

/-- Every register an instruction uses is free, and none of its sources is one that an open line region will load (R17, R18, R211). -/
def usesFree (u : Uses) (s : State) : Bool :=
  u.srcs.all (fun x => !regionLoads s x.reg && regFree s x.reg) && u.dsts.all (regFree s)

/-- Nothing stands in the way of issue: the instruction has its own effect next. -/
def mayIssue (g : Gate) (u : Uses) (s : State) : Bool := gateOpen g s && usesFree u s

/-- The state in which the effect of an instruction that issues takes place. -/
def issued (s : State) : State := { s with core.seq.wait := none }

/-! ## Where an instruction may stand (R69, R74, R95, R211, R257) -/

/-- The instructions that an atomic line region accepts (R211): `GLD` and `GST`, and of the scalar instructions the integer,
immediate, compare and predicate ones, `SEL`, `MOV` and `NOP`; `ALRE` ends the region. (DEDUCED, log entry 52.) -/
def acceptedInRegion : Instr → Bool
  | .gld .. | .gldIndexed .. | .gst .. | .gstIndexed .. | .alre => true
  | .add .. | .sub .. | .andR .. | .orR .. | .xorR .. | .andn .. | .addw .. | .subw .. | .addsat .. | .subsat .. | .sll ..
    | .srl .. | .sra .. | .rol .. | .ror .. | .sllw .. | .srlw .. | .sraw .. | .mul .. | .mulh .. | .mulhu .. | .mulhsu ..
    | .mulw .. | .div .. | .divu .. | .rem .. | .remu .. | .divw .. | .divuw .. | .remw .. | .remuw .. | .min .. | .max ..
    | .minu .. | .maxu .. | .clz .. | .popc .. | .scadd .. | .scaddx .. | .scaddz .. => true
  | .addi .. | .andi .. | .ori .. | .xori .. | .addiw .. | .slli .. | .srli .. | .srai .. | .rori .. | .slliw .. | .srliw ..
    | .sraiw .. | .lui .. => true
  | .cmpeqi .. | .cmpnei .. | .cmplti .. | .cmpgei .. | .cmpltui .. | .cmpgeui .. | .cmpeq .. | .cmpne .. | .cmplt ..
    | .cmpge .. | .cmpltu .. | .cmpgeu .. => true
  | .pand .. | .por .. | .pxor .. | .pandn .. | .pnot .. | .pget .. | .pset .. | .sel .. | .mov .. | .nop => true
  | _ => false

/-- The instructions that R69, R95, R211 and R257 bar as the end word of an active loop. -/
def barredAtEnd : Instr → Bool
  | .pbr .. | .pbrr .. | .br .. | .brl .. | .loop .. | .loopi .. | .lbrk .. | .mcall .. | .ovl .. | .exit => true
  | .brmz .. | .alr .. | .alre => true
  | .trap .. | .tfence | .tret | .tretSkip | .bkpt .. | .dstep .. | .txabort .. | .yield .. | .sleep .. | .sleept .. => true
  | _ => false

/-- The instructions that R74, R95, R211 and R257 bar from macros. -/
def barredFromMacros : Instr → Bool
  | .mstore .. => true
  | i => barredAtEnd i

/-- The mode that R257 asks of an instruction. -/
def modeAsked : Instr → Option Mode
  | .tret | .tretSkip | .dstep .. => some .handler
  | .trap .. | .bkpt .. => some .program
  | _ => none

/-! ## Results of vector instructions (R89, R90, R91, R93) -/

/-- A value comes to each active lane of `v[d]`, the old one stays in the others, and the sequencer goes on. -/
def lanesArrive (o : Out) (s : State) (d : BitVec 5) (f : Fin 16 → Word) : Prop :=
  ∃ v : VReg, o = .next (retire (deliverLater (.vector d v) (issued s)))
    ∧ ∀ i : Fin 16, v[i] = if (topMask s).getLsbD i then f i else (readV s d)[i]

/-- The same with rounding: the modes of the first and the second element that lane i rounds come from the mode's number and the
lane's rounding state; flags of the active lanes are ORed into `FPFLAG`, and their states advance once for each of the n elements
when the mode is RSR. -/
def roundedLanesArrive (o : Out) (s : State) (d : BitVec 5) (mode : BitVec 3) (n : Nat) (f : Fin 16 → Rnd → Rnd → Word × Flags) :
    Prop :=
  let state := fun (i : Fin 16) => s.core.sys.laneRsr[i]
  let r := fun (i : Fin 16) => f i (Rnd.ofBits mode (rsrNext (state i))) (Rnd.ofBits mode (rsrNext (rsrNext (state i))))
  let active := fun (i : Fin 16) => (topMask s).getLsbD i
  ∃ (v : VReg) (t : State), o = .next (retire (deliverLater (.vector d v) t))
    ∧ t = { issued s with core.sys.fpflag := t.core.sys.fpflag, core.sys.laneRsr := t.core.sys.laneRsr }
    ∧ (∀ i : Fin 16, v[i] = if active i then (r i).1 else (readV s d)[i])
    ∧ (∀ k : Fin 6, t.core.sys.fpflag.getLsbD k
        = (s.core.sys.fpflag.getLsbD k || (List.finRange 16).any (fun i => active i && (r i).2.getLsbD k)))
    ∧ ∀ i : Fin 16, t.core.sys.laneRsr[i]
        = if mode = 4 ∧ active i then (if n = 1 then rsrNext (state i) else rsrNext (rsrNext (state i))) else state i

/-! ## Safe steps -/

/-- A step that ends in a next state: no access to a window that the spec reserves, no instruction without a meaning. -/
def safeStep (s : State) : Prop := ∃ t, step s = .next t

end Sys2Proof.Machine
end

