-- ==== Sys2Proof/Certificates/Slice0/Obligations.lean ====
section
/-! DEFINITION. The statements for the provers. In a statement about an instruction, `mayIssue` says that nothing stands in the way
of its issue, `issued s` is the state in which its effect takes place, and `retire` takes the sequencer to the next word. -/

open Sys2Proof Sys2Proof.Machine

/-- R11, R288, R312, R313, R381, R388: reset. The registers of a core before its first launch are log entry 15. -/
def Obligations.ResetState : Prop :=
  let s := State.reset
  let h := s.sched.host
  s.health.bootStep = 0
  ∧ (∀ q : BitVec 6, let x := vget h.queues q
      fieldN x.cfg 0 4 = 0 ∧ fieldN x.cfg 4 3 = 0 ∧ fieldN x.cfg 7 25 = 1000 ∧ x.base = 0 ∧ x.head = 0)
  ∧ h.qerr = 0 ∧ h.evqbase = 0 ∧ h.evqcfg = 0 ∧ h.evqtail = 0 ∧ h.evqhead = 0 ∧ h.pgpa = 0 ∧ h.keyValid = 0 ∧ h.lock = false
  ∧ (∀ k : BitVec 3, vget h.keys k = 0)
  ∧ s.sched.halls = [] ∧ (∀ p ∈ s.sched.pkgs, p.stamp = 0) ∧ s.sched.launches = []
  ∧ (∀ r : BitVec 4, let p := vget s.power r
      p.limit = 0x0400 ∧ p.step = 0 ∧ p.str = false ∧ p.cap = false ∧ p.nsub = false ∧ p.ndrp = 0)
  ∧ s.core.seq.run = .unbound ∧ s.core.seq.mode = .program ∧ s.core.seq.pc = 0
  ∧ (∀ r, readS s r = 0) ∧ (∀ r, readV s r = VReg.zero) ∧ (∀ r, readP s r = (r == 0))
  ∧ (∀ r, readQ s r = if r = 0 then 0xFFFF else 0) ∧ s.core.regs.depth = 0 ∧ topMask s = 0xFFFF
  ∧ (∀ b : BitVec 3, vget s.core.seq.tb b = ⟨0, .idle⟩)
  ∧ (∀ k : BitVec 5, (vget s.core.eng.slots k).iss = 0 ∧ (vget s.core.eng.slots k).cmp = 0)
  ∧ (∀ l : BitVec 2, (vget s.core.seq.loops l).count = 0 ∧ (vget s.core.seq.loops l).active = false)
  ∧ s.homes.mem = [] ∧ Memory.wf s.homes.mem = true

/-- R40, R41: worked words of chapters 1 to 4, 8, 11 and 12. -/
def Obligations.DecodeWords : Prop :=
  decode 0x38BFFFFA = some (.pbr 2 0x3FFFFA) ∧ decode 0x3A980000 = some (.br 2 3 false) ∧ decode 0x3A9C0000 = some (.br 2 3 true)
  ∧ decode 0x3A980001 = none ∧ decode 0x48000000 = some .nop ∧ decode 0x42440003 = some (.loopi 0 0x40 3)
  ∧ decode 0x02529800 = some (.add 5 5 6 false false) ∧ decode 0x3461A000 = some (.gld 6 3 2 0)
  ∧ decode 0x3651C000 = some (.gst 5 3 2 0 0) ∧ decode 0x84210812 = some (.vxor 2 2 2) ∧ decode 0x96038000 = some (.vgld 0 7 0)
  ∧ decode 0xA0408BF4 = some (.srun 4 1 2 31 20) ∧ decode 0xB8028000 = some (.kwait 5) ∧ decode 0xC0000016 = some (.fenceAcq 6)
  ∧ decode 0xC0000005 = some (.mark 5) ∧ decode 0xC2531C30 = some (.amoadd 5 6 7 false false true true)
  ∧ decode 0xC6020803 = some (.redoF32 4 2 false 3) ∧ decode 0xCE500000 = some (.bar 5 0) ∧ decode 0xD0009400 = some (.trap 37)
  ∧ decode 0xD2048004 = some (.sleept 9 false) ∧ decode 0xD83FFFE8 = some (.copen 3 31 31 31 8)

/-- R39-R41, R88, R192, R256: encoding and decoding agree. That LUNBIND shares the word of LBIND is log entry 22. -/
def Obligations.DecodeEncodeRoundTrip : Prop :=
  (∀ i : Instr, i.isWord → i.wf → decode (encode i) = some i)
  ∧ ∀ sig wa wb wc sp : BitVec 5, 1 ≤ sp.toNat → sp.toNat ≤ 28 →
    decode (encode (.lunbind sig wa wb wc sp)) = some (.lbind sig wa wb wc sp)

/-- R14, R41, R64: a step and the decoded instruction; what comes first at a boundary is R117, R142, R262, R329, R331. The model's choices:
the order within a step and the move of another unit at a wait (log entry 14), the clock (log entry 4), the count of steps (log
entry 17). -/
def Obligations.StepRunsDecoded : Prop :=
  ∀ (s : State) (n : State), n = tick s → s.agenda = [] → s.core.seq.run = .running → s.core.seq.macroRun = false →
    s.core.seq.pcOver = false → (s.core.seq.mode = .program → s.core.seq.pc.toNat < Config.handlerArea) →
    s.core.seq.pc ∉ s.core.seq.badWords →
    s.core.seq.savePending = false → s.core.seq.haltRequested = false →
    (s.core.seq.mode = .handler ∨ (s.core.seq.stepFired = false ∧ s.core.seq.gridStepFired = false ∧ s.core.eng.faults = []
      ∧ s.core.eng.lateCopies = [])) →
    (∀ i, decode (wordAtPc s) = some i →
      (∀ t, exec i n = .next t → t.core.seq.wait = none → step s = .next t)
      ∧ (∀ t, exec i n = .next t → t.core.seq.wait ≠ none → step s = others t)
      ∧ (∀ f, exec i n = .fault f → step s = .fault f))
    ∧ (decode (wordAtPc s) = none → step s = illegal (wordAtPc s) n)
    ∧ n = { s with now := n.now, ticks := s.ticks + 1 }

/-- The canonical form of the committed bytes (R226, R291) is kept by every step. -/
def Obligations.StepKeepsMemoryCanonical : Prop :=
  ∀ s t : State, Memory.wf s.homes.mem = true → step s = .next t → Memory.wf t.homes.mem = true

/-- R52, R53, R56, R57, R58: the scalar operations of two sources whose result is there for the next instruction. -/
def Obligations.ScalarOperationsAtOnce : Prop :=
  (∀ (s : State) (d : BitVec 5) (z : DWord),
    readS (writeS d z s) d = (if d = 0 then 0 else z) ∧ (∀ r, r ≠ d → readS (writeS d z s) r = readS s r)
    ∧ writeS d z s = { s with core.regs.s := (writeS d z s).core.regs.s } ∧ readS s 0 = 0)
  ∧ ∀ (s : State) (d a b : BitVec 5) (fa fb neg : Bool) (p : BitVec 3) (sh : BitVec 2),
    mayIssue inLine (usesDAB d a b fa fb) s →
    let x := readS s a
    let y := readS s b
    let lo : DWord → Word := fun z => z.setWidth 32
    let wrote : DWord → Out := fun z => .next (retire (writeS d z (issued s)))
    let clamp : Int → Int := fun z => max (-2 ^ 63) (min z (2 ^ 63 - 1))
    exec (.add d a b fa fb) s = wrote (x + y)
    ∧ exec (.sub d a b fa fb) s = wrote (x - y)
    ∧ exec (.andR d a b fa fb) s = wrote (x &&& y)
    ∧ exec (.orR d a b fa fb) s = wrote (x ||| y)
    ∧ exec (.xorR d a b fa fb) s = wrote (x ^^^ y)
    ∧ exec (.andn d a b fa fb) s = wrote (x &&& ~~~y)
    ∧ exec (.addw d a b fa fb) s = wrote ((lo (x + y)).signExtend 64)
    ∧ exec (.subw d a b fa fb) s = wrote ((lo (x - y)).signExtend 64)
    ∧ exec (.addsat d a b fa fb) s = wrote (BitVec.ofInt 64 (clamp (x.toInt + y.toInt)))
    ∧ exec (.subsat d a b fa fb) s = wrote (BitVec.ofInt 64 (clamp (x.toInt - y.toInt)))
    ∧ exec (.sll d a b fa fb) s = wrote (x <<< (y.toNat % 64))
    ∧ exec (.srl d a b fa fb) s = wrote (x >>> (y.toNat % 64))
    ∧ exec (.sra d a b fa fb) s = wrote (x.sshiftRight (y.toNat % 64))
    ∧ exec (.rol d a b fa fb) s = wrote (x.rotateLeft (y.toNat % 64))
    ∧ exec (.ror d a b fa fb) s = wrote (x.rotateRight (y.toNat % 64))
    ∧ exec (.sllw d a b fa fb) s = wrote ((lo x <<< (y.toNat % 32)).signExtend 64)
    ∧ exec (.srlw d a b fa fb) s = wrote ((lo x >>> (y.toNat % 32)).signExtend 64)
    ∧ exec (.sraw d a b fa fb) s = wrote (((lo x).sshiftRight (y.toNat % 32)).signExtend 64)
    ∧ exec (.min d a b fa fb) s = wrote (if x.toInt ≤ y.toInt then x else y)
    ∧ exec (.max d a b fa fb) s = wrote (if x.toInt ≤ y.toInt then y else x)
    ∧ exec (.minu d a b fa fb) s = wrote (if x.toNat ≤ y.toNat then x else y)
    ∧ exec (.maxu d a b fa fb) s = wrote (if x.toNat ≤ y.toNat then y else x)
    ∧ exec (.sel d a b fa fb neg p) s = wrote (if xor (readP s p) neg then x else y)
    ∧ exec (.scadd d a b fa fb sh) s = wrote (x + y <<< sh.toNat)
    ∧ exec (.scaddx d a b fa fb sh) s = wrote (x + (lo y).signExtend 64 <<< sh.toNat)
    ∧ exec (.scaddz d a b fa fb sh) s = wrote (x + (lo y).setWidth 64 <<< sh.toNat)

/-- R49, R55: divide. `ofInt` wraps, so the quotient of the most negative dividend by −1 is that dividend. -/
def Obligations.Divide : Prop :=
  (∀ (s : State) (l : Latent),
    let dest : RegRef := match l with | .scalar d _ => .s d | .vector d _ => .v d | .mask d _ => .q d
    (dest = .s 0 ∨ dest = .q 0 → deliverLater l s = s)
    ∧ (dest ≠ .s 0 → dest ≠ .q 0 → regPending (deliverLater l s) dest = true
      ∧ deliverLater l s = { s with core.regs.latent := s.core.regs.latent ++ [l] }))
  ∧ ∀ (s : State) (d a b : BitVec 5) (fa fb : Bool), mayIssue inLine (usesDAB d a b fa fb) s →
    let x := readS s a
    let y := readS s b
    let xl : Word := x.setWidth 32
    let yl : Word := y.setWidth 32
    let late : DWord → Out := fun z => .next (retire (deliverLater (.scalar d z) (issued s)))
    exec (.div d a b fa fb) s = late (if y = 0 then BitVec.allOnes 64 else BitVec.ofInt 64 (x.toInt.tdiv y.toInt))
    ∧ exec (.divu d a b fa fb) s = late (if y = 0 then BitVec.allOnes 64 else BitVec.ofNat 64 (x.toNat / y.toNat))
    ∧ exec (.rem d a b fa fb) s = late (if y = 0 then x else BitVec.ofInt 64 (x.toInt.tmod y.toInt))
    ∧ exec (.remu d a b fa fb) s = late (if y = 0 then x else BitVec.ofNat 64 (x.toNat % y.toNat))
    ∧ exec (.divw d a b fa fb) s
        = late ((if yl = 0 then BitVec.allOnes 32 else BitVec.ofInt 32 (xl.toInt.tdiv yl.toInt)).signExtend 64)
    ∧ exec (.divuw d a b fa fb) s
        = late ((if yl = 0 then BitVec.allOnes 32 else BitVec.ofNat 32 (xl.toNat / yl.toNat)).signExtend 64)
    ∧ exec (.remw d a b fa fb) s = late ((if yl = 0 then xl else BitVec.ofInt 32 (xl.toInt.tmod yl.toInt)).signExtend 64)
    ∧ exec (.remuw d a b fa fb) s = late ((if yl = 0 then xl else BitVec.ofNat 32 (xl.toNat % yl.toNat)).signExtend 64)

/-- R54: multiply. The result is delivered after its latency (`deliverLater`). -/
def Obligations.Multiply : Prop :=
  ∀ (s : State) (d a b : BitVec 5) (fa fb : Bool), mayIssue inLine (usesDAB d a b fa fb) s →
    let x := readS s a
    let y := readS s b
    let xl : Word := x.setWidth 32
    let yl : Word := y.setWidth 32
    let late : DWord → Out := fun z => .next (retire (deliverLater (.scalar d z) (issued s)))
    let high : Int → DWord := fun z => BitVec.ofInt 64 (z / 2 ^ 64)
    let row : Byte → Word := fun fn => 0x03#7 ++ d ++ a ++ b ++ BitVec.ofBool fa ++ BitVec.ofBool fb ++ fn
    exec (.mul d a b fa fb) s = late (x * y)
    ∧ exec (.mulh d a b fa fb) s = late (high (x.toInt * y.toInt))
    ∧ exec (.mulhu d a b fa fb) s = late (high (x.toNat * y.toNat))
    ∧ exec (.mulhsu d a b fa fb) s = late (high (x.toInt * y.toNat))
    ∧ exec (.mulw d a b fa fb) s = late ((xl * yl).signExtend 64)
    ∧ encode (.mul d a b fa fb) = row 0x00 ∧ encode (.mulh d a b fa fb) = row 0x01 ∧ encode (.mulhu d a b fa fb) = row 0x02
    ∧ encode (.mulhsu d a b fa fb) = row 0x03 ∧ encode (.mulw d a b fa fb) = row 0x10

/-- R59, R60: immediate forms and immediate shifts. -/
def Obligations.ImmediateForms : Prop :=
  (∀ (s : State) (d a : BitVec 5) (imm : BitVec 15) (n : BitVec 6) (m : BitVec 5),
    mayIssue inLine ⟨[srcS a], [.s d]⟩ s →
    let x := readS s a
    let lo : Word := x.setWidth 32
    let wrote : DWord → Out := fun z => .next (retire (writeS d z (issued s)))
    let shift : BitVec 3 → BitVec 6 → Word := fun op k => 0x14#7 ++ d ++ a ++ op ++ 0#6 ++ k
    exec (.addi d a imm) s = wrote (x + imm.signExtend 64)
    ∧ exec (.andi d a imm) s = wrote (x &&& imm.signExtend 64)
    ∧ exec (.ori d a imm) s = wrote (x ||| imm.signExtend 64)
    ∧ exec (.xori d a imm) s = wrote (x ^^^ imm.signExtend 64)
    ∧ exec (.addiw d a imm) s = wrote (((x + imm.signExtend 64).setWidth 32).signExtend 64)
    ∧ exec (.slli d a n) s = wrote (x <<< n.toNat)
    ∧ exec (.srli d a n) s = wrote (x >>> n.toNat)
    ∧ exec (.srai d a n) s = wrote (x.sshiftRight n.toNat)
    ∧ exec (.rori d a n) s = wrote (x.rotateRight n.toNat)
    ∧ exec (.slliw d a m) s = wrote ((lo <<< m.toNat).signExtend 64)
    ∧ exec (.srliw d a m) s = wrote ((lo >>> m.toNat).signExtend 64)
    ∧ exec (.sraiw d a m) s = wrote ((lo.sshiftRight m.toNat).signExtend 64)
    ∧ encode (.addi d a imm) = 0x10#7 ++ d ++ a ++ imm ∧ encode (.andi d a imm) = 0x11#7 ++ d ++ a ++ imm
    ∧ encode (.ori d a imm) = 0x12#7 ++ d ++ a ++ imm ∧ encode (.xori d a imm) = 0x13#7 ++ d ++ a ++ imm
    ∧ encode (.addiw d a imm) = 0x15#7 ++ d ++ a ++ imm
    ∧ encode (.slli d a n) = shift 0 n ∧ encode (.srli d a n) = shift 1 n ∧ encode (.srai d a n) = shift 2 n
    ∧ encode (.rori d a n) = shift 3 n ∧ encode (.slliw d a m) = shift 4 (0#1 ++ m) ∧ encode (.srliw d a m) = shift 5 (0#1 ++ m)
    ∧ encode (.sraiw d a m) = shift 6 (0#1 ++ m))
  ∧ ∀ w : Word, w.bits 25 7 = 0x14 →
    (w.bits 6 6 ≠ 0 ∨ w.bits 12 3 = 7 ∨ 4 ≤ (w.bits 12 3).toNat ∧ w.bits 5 1 = 1#1) → decode w = none

/-- R56, R62, R75, R77: the operations of one scalar source or none. -/
def Obligations.MovesAndCounts : Prop :=
  ∀ (s : State) (d a : BitVec 5) (fa : Bool) (imm20 : BitVec 20),
    let x := readS s a
    let wrote : DWord → Out := fun z => .next (retire (writeS d z (issued s)))
    (mayIssue inLine ⟨[srcS a], [.s d]⟩ s → exec (.mov d a) s = wrote x)
    ∧ (mayIssue inLine ⟨[srcS a fa], [.s d]⟩ s →
      (∃ z : Nat, z ≤ 64 ∧ (∀ i < 64, 64 - z ≤ i → x.getLsbD i = false) ∧ (z < 64 → x.getLsbD (63 - z) = true)
        ∧ exec (.clz d a fa) s = wrote (BitVec.ofNat 64 z))
      ∧ exec (.popc d a fa) s = wrote (BitVec.ofNat 64 ((List.range 64).countP (fun i => x.getLsbD i))))
    ∧ (mayIssue inLine ⟨[], [.s d]⟩ s → exec (.lui d imm20) s = wrote (imm20.signExtend 64 <<< 15))
    ∧ (mayIssue inLine {} s → exec .nop s = .next (retire (issued s)))

/-- R61, R63: compares and predicate logic. -/
def Obligations.ComparesAndPredicates : Prop :=
  (∀ (s : State) (d : BitVec 3) (c : Bool),
    readP (writeP d c s) d = (d == 0 || c) ∧ (∀ r, r ≠ d → readP (writeP d c s) r = readP s r)
    ∧ writeP d c s = { s with core.regs.p := (writeP d c s).core.regs.p })
  ∧ ∀ (s : State) (d a b : BitVec 5) (fa fb : Bool) (p pa pb : BitVec 3) (imm : BitVec 12),
    let x := readS s a
    let y := readS s b
    let i := imm.signExtend 64
    let set : Bool → Out := fun c => .next (retire (writeP p c (issued s)))
    (mayIssue inLine ⟨[srcS a fa, srcS b fb], []⟩ s →
      exec (.cmpeq p a b fa fb) s = set (decide (x = y))
      ∧ exec (.cmpne p a b fa fb) s = set (decide (x ≠ y))
      ∧ exec (.cmplt p a b fa fb) s = set (decide (x.toInt < y.toInt))
      ∧ exec (.cmpge p a b fa fb) s = set (decide (y.toInt ≤ x.toInt))
      ∧ exec (.cmpltu p a b fa fb) s = set (decide (x.toNat < y.toNat))
      ∧ exec (.cmpgeu p a b fa fb) s = set (decide (y.toNat ≤ x.toNat)))
    ∧ (mayIssue inLine ⟨[srcS a], []⟩ s →
      exec (.cmpeqi p a imm) s = set (decide (x = i))
      ∧ exec (.cmpnei p a imm) s = set (decide (x ≠ i))
      ∧ exec (.cmplti p a imm) s = set (decide (x.toInt < imm.toInt))
      ∧ exec (.cmpgei p a imm) s = set (decide (imm.toInt ≤ x.toInt))
      ∧ exec (.cmpltui p a imm) s = set (decide (x.toNat < i.toNat))
      ∧ exec (.cmpgeui p a imm) s = set (decide (i.toNat ≤ x.toNat)))
    ∧ (mayIssue inLine {} s →
      exec (.pand p pa pb) s = set (readP s pa && readP s pb)
      ∧ exec (.por p pa pb) s = set (readP s pa || readP s pb)
      ∧ exec (.pxor p pa pb) s = set (xor (readP s pa) (readP s pb))
      ∧ exec (.pandn p pa pb) s = set (readP s pa && !readP s pb)
      ∧ exec (.pnot p pa) s = set (!readP s pa))
    ∧ (mayIssue inLine ⟨[srcS a fa], []⟩ s → exec (.pset p a fa) s = set (decide (x ≠ 0)))
    ∧ (mayIssue inLine ⟨[], [.s d]⟩ s →
      exec (.pget d pa) s = .next (retire (writeS d (if readP s pa then 1 else 0) (issued s))))

/-- R77, R88. -/
def Obligations.MajorTwentyFour : Prop :=
  decode 0x48000000 = some .nop
  ∧ (∀ s : State, mayIssue inLine {} s → ∃ t, exec .nop s = .next t
    ∧ t = { s with core.seq := t.core.seq, core.sys.mstep := t.core.sys.mstep }
    ∧ (s.core.seq.macroRun = false → t.core.sys.mstep = s.core.sys.mstep)
    ∧ t.core.seq = { s.core.seq with
        pc := t.core.seq.pc, pcOver := t.core.seq.pcOver, loops := t.core.seq.loops, macroRun := t.core.seq.macroRun,
        stepFired := t.core.seq.stepFired, wait := none })
  ∧ ∀ w : Word, w.bits 25 7 = 0x24 → 4 ≤ (w.bits 0 8).toNat → decode w = none

/-- R16-R18, R42, R49, R211: sources and destinations at issue. -/
def Obligations.EmptyAndInterlocked : Prop :=
  ∀ (s : State) (d a b : BitVec 5) (fa fb : Bool), gateOpen inLine s →
    let awaited : BitVec 5 → Prop := fun r => r ≠ 0 ∧ ∃ g pa n k, s.core.mq.region = some g ∧ RegionAcc.load pa n r k ∈ g.accs
    (∀ i ∈ [Instr.add d a b fa fb, .sub d a b fa fb, .andR d a b fa fb, .orR d a b fa fb, .xorR d a b fa fb,
        .andn d a b fa fb, .addw d a b fa fb, .subw d a b fa fb, .addsat d a b fa fb, .subsat d a b fa fb, .sll d a b fa fb,
        .srl d a b fa fb, .sra d a b fa fb, .rol d a b fa fb, .ror d a b fa fb, .sllw d a b fa fb, .srlw d a b fa fb,
        .sraw d a b fa fb, .mul d a b fa fb, .mulh d a b fa fb, .mulhu d a b fa fb, .mulhsu d a b fa fb, .mulw d a b fa fb,
        .div d a b fa fb, .divu d a b fa fb, .rem d a b fa fb, .remu d a b fa fb, .divw d a b fa fb, .divuw d a b fa fb,
        .remw d a b fa fb, .remuw d a b fa fb, .min d a b fa fb, .max d a b fa fb, .minu d a b fa fb, .maxu d a b fa fb],
      let trapA := fa && sIsEmpty s a
      let trapB := fb && sIsEmpty s b
      (awaited a ∨ awaited b → exec i s = illegal (encode i) s)
      ∧ (¬ awaited a → ¬ awaited b → trapA → exec i s = trap .emptySource (BitVec.ofNat 64 a.toNat) s)
      ∧ (¬ awaited a → ¬ awaited b → !trapA → trapB → exec i s = trap .emptySource (BitVec.ofNat 64 b.toNat) s)
      ∧ (¬ awaited a → ¬ awaited b → !trapA → !trapB → (∃ r ∈ [a, b, d], sIsEmpty s r ∨ regPending s (.s r)) →
        ∃ k : WaitKind, exec i s = .next { s with core.seq.wait := some k }))
    ∧ sIsEmpty s 0 = false ∧ regPending s (.s 0) = false
    ∧ (∀ x, s.core.seq.mode = .program → s.core.mq.region = none → ∃ t, trap .emptySource x s = .next t ∧ t.core.regs = s.core.regs ∧ t.core.mq = s.core.mq
      ∧ t.core.pool = s.core.pool ∧ t.core.eng = s.core.eng ∧ t.homes = s.homes ∧ t.core.sys.tpc = s.core.seq.pc
      ∧ t.core.sys.taddr = x ∧ t.core.sys.tcause = 0x0A)

/-- R78-R80: scalar loads and stores of the pool. -/
def Obligations.ScalarPoolAccess : Prop :=
  ∀ (s : State) (d a i : BitVec 5) (kind : BitVec 3) (width : BitVec 2) (off : BitVec 11),
    let byKind : (Nat → Byte) → DWord := fun x =>
      if kind = 0 then (x 0).signExtend 64
      else if kind = 1 then (x 1 ++ x 0).signExtend 64
      else if kind = 2 then (x 3 ++ x 2 ++ x 1 ++ x 0).signExtend 64
      else if kind = 3 then x 7 ++ x 6 ++ x 5 ++ x 4 ++ x 3 ++ x 2 ++ x 1 ++ x 0
      else if kind = 4 then (x 0).setWidth 64
      else if kind = 5 then (x 1 ++ x 0).setWidth 64
      else (x 3 ++ x 2 ++ x 1 ++ x 0).setWidth 64
    let n := 2 ^ (kind.toNat % 4)
    let m := 2 ^ width.toNat
    let loaded : DWord → Out := fun x =>
      .next (retire (deliverLater (.scalar d (loadValue kind (poolRead s x.toNat n))) (issued s)))
    let stored : DWord → Out → Prop := fun x o => ∃ t, o = .next t
      ∧ (∀ k, poolByte t k = if x.toNat ≤ k ∧ k < x.toNat + m then (readS s d).extractLsb' (8 * (k - x.toNat)) 8 else poolByte s k)
      ∧ (∀ k, memByte t k = memByte s k) ∧ t.core.regs = s.core.regs
    let xo := readS s a + off.signExtend 64 * BitVec.ofNat 64 n
    let yo := readS s a + off.signExtend 64 * BitVec.ofNat 64 m
    let xi := readS s a + readS s i
    (∀ x, kind ≠ 7 → loadValue kind (poolRead s x n) = byKind (fun k => poolByte s (x + k)))
    ∧ (mayIssue anywhere ⟨[srcS a], [.s d]⟩ s →
      (poolCheck s xo n true false = none → exec (.pld d a kind off) s = loaded xo)
      ∧ ∀ c x, poolCheck s xo n true false = some (c, x) → exec (.pld d a kind off) s = trap c x (issued s))
    ∧ (mayIssue anywhere ⟨[srcS a, srcS i], [.s d]⟩ s →
      (poolCheck s xi n true false = none → exec (.pldIndexed d a kind i) s = loaded xi)
      ∧ ∀ c x, poolCheck s xi n true false = some (c, x) → exec (.pldIndexed d a kind i) s = trap c x (issued s))
    ∧ (mayIssue anywhere ⟨[srcS a, srcS d], []⟩ s →
      (poolCheck s yo m false true = none → stored yo (exec (.pst d a width off) s))
      ∧ ∀ c x, poolCheck s yo m false true = some (c, x) → exec (.pst d a width off) s = trap c x (issued s))
    ∧ (mayIssue anywhere ⟨[srcS a, srcS i, srcS d], []⟩ s →
      (poolCheck s xi m false true = none → stored xi (exec (.pstIndexed d a width i) s))
      ∧ ∀ c x, poolCheck s xi m false true = some (c, x) → exec (.pstIndexed d a width i) s = trap c x (issued s))

/-- R79, R109: vector loads and stores of the pool; `TADDR` of a failed check of `VLDA` and `VSTA` is log entry 33. -/
def Obligations.VectorPoolAccess : Prop :=
  ∀ (s : State) (d a i : BitVec 5) (off : BitVec 12),
    let xo := readS s a + off.setWidth 64 * 64
    let xi := readS s a + readS s i
    let ac := (partRF s.core.sys.partw + partSP s.core.sys.partw) * 2048
    let loaded : Nat → Out := fun x => .next (retire (deliverLater
      (.vector d (laneMerge (topMask s) (readV s d) (vregOf (bytesLane (poolRead s x 64))))) (issued s)))
    let stored : Nat → Out → Prop := fun x o => ∃ t, o = .next t
      ∧ (∀ k, poolByte t k =
          if x ≤ k ∧ k < x + 64 ∧ (topMask s).getLsbD ((k - x) / 4) then
            (lane (readV s d) ((k - x) / 4)).extractLsb' (8 * ((k - x) % 4)) 8
          else poolByte s k)
      ∧ (∀ k, memByte t k = memByte s k) ∧ t.core.regs = s.core.regs
    let fails : Option (Cause × DWord) → Instr → Prop := fun check i => ∀ c x, check = some (c, x) → exec i s = trap c x (issued s)
    (mayIssue anywhere ⟨[srcS a], [.v d]⟩ s →
      (poolCheck s xo 64 true false = none → exec (.vpld d a off) s = loaded xo.toNat)
      ∧ (acCheck s xo true = none → exec (.vlda d a off) s = loaded (ac + xo.toNat))
      ∧ fails (poolCheck s xo 64 true false) (.vpld d a off) ∧ fails (acCheck s xo true) (.vlda d a off))
    ∧ (mayIssue anywhere ⟨[srcS a, srcS i], [.v d]⟩ s →
      (poolCheck s xi 64 true false = none → exec (.vpldIndexed d a i) s = loaded xi.toNat)
      ∧ (acCheck s xi true = none → exec (.vldaIndexed d a i) s = loaded (ac + xi.toNat))
      ∧ fails (poolCheck s xi 64 true false) (.vpldIndexed d a i) ∧ fails (acCheck s xi true) (.vldaIndexed d a i))
    ∧ (mayIssue anywhere ⟨[srcS a, srcV d], []⟩ s →
      (poolCheck s xo 64 false true = none → stored xo.toNat (exec (.vpst d a off) s))
      ∧ (acCheck s xo false = none → stored (ac + xo.toNat) (exec (.vsta d a off) s))
      ∧ fails (poolCheck s xo 64 false true) (.vpst d a off) ∧ fails (acCheck s xo false) (.vsta d a off))
    ∧ (mayIssue anywhere ⟨[srcS a, srcS i, srcV d], []⟩ s →
      (poolCheck s xi 64 false true = none → stored xi.toNat (exec (.vpstIndexed d a i) s))
      ∧ (acCheck s xi false = none → stored (ac + xi.toNat) (exec (.vstaIndexed d a i) s))
      ∧ fails (poolCheck s xi 64 false true) (.vpstIndexed d a i) ∧ fails (acCheck s xi false) (.vstaIndexed d a i))
    ∧ (∀ o : DWord, ∀ load, (ac + o.toNat < 2 ^ 17 → (ac + o.toNat) % 64 = 0 →
        partAC s.core.sys.partw * 2048 < o.toNat + 64 → acCheck s o load = some (.pool, o)))

/-- R204: atomics of the pool. -/
def Obligations.PoolAtomics : Prop :=
  ∀ (s : State) (d a b : BitVec 5) (fa fb dbl : Bool),
    let x := (readS s a).toNat
    let n := if dbl then 8 else 4
    mayIssue anywhere ⟨[srcS a fa, srcS b fb], [.s d]⟩ s → poolCheck s (readS s a) n true true = none →
    let w := 8 * n
    let old : BitVec w := BitVec.ofNat w (leNat (poolRead s x n))
    let y : BitVec w := (readS s b).setWidth w
    let cmp : BitVec w := (readS s d).setWidth w
    let did : BitVec w → Out := fun new =>
      .next (retire (deliverLater (.scalar d (old.signExtend 64)) (poolWrite x (leBytes n new.toNat) (issued s))))
    let didZ : BitVec w → Out := fun new =>
      .next (retire (deliverLater (.scalar d (old.setWidth 64)) (poolWrite x (leBytes n new.toNat) (issued s))))
    exec (.pamoadd d a b fa fb dbl) s = did (old + y)
    ∧ exec (.pamoand d a b fa fb dbl) s = did (old &&& y)
    ∧ exec (.pamoor d a b fa fb dbl) s = did (old ||| y)
    ∧ exec (.pamoxor d a b fa fb dbl) s = did (old ^^^ y)
    ∧ exec (.pamomin d a b fa fb dbl) s = did (if old.toInt ≤ y.toInt then old else y)
    ∧ exec (.pamomax d a b fa fb dbl) s = did (if old.toInt ≤ y.toInt then y else old)
    ∧ exec (.pamominz d a b fa fb dbl) s = didZ (if old.toNat ≤ y.toNat then old else y)
    ∧ exec (.pamomaxz d a b fa fb dbl) s = didZ (if old.toNat ≤ y.toNat then y else old)
    ∧ exec (.pamoswap d a b fa fb dbl) s = did y
    ∧ exec (.pamocas d a b fa fb dbl) s = did (if old = cmp then y else old)

/-- R81, R82, R110: global loads. -/
def Obligations.GlobalLoads : Prop :=
  ∀ (s : State) (d a i : BitVec 5) (kind : BitVec 3) (off : BitVec 11) (voff : BitVec 10), s.core.mq.region = none →
    let n := 2 ^ (kind.toNat % 4)
    let queued : LoadDest → DWord → Nat → Nat → State → State → Prop := fun dest va pa size s' t =>
      t = { s' with
        core.mq := { s.core.mq with
          seq := s.core.mq.seq + 1, loads := s.core.mq.loads ++ [⟨s.core.mq.seq, dest, va.toNat, pa, size, none, false⟩] }
        core.regs.sEmpty := t.core.regs.sEmpty, core.regs.vEmpty := t.core.regs.vEmpty }
      ∧ s' = { issued s with homes.tlb := s'.homes.tlb, homes.layerTlb := s'.homes.layerTlb }
      ∧ (∀ r, readS t r = readS s r) ∧ (∀ r, readV t r = readV s r) ∧ (∀ x, memByte t x = memByte s x)
    let scalar : Instr → DWord → Prop := fun ins va =>
      (∀ s' pa, accessCheck va n false (issued s) = (s', .ok pa) → s.core.mq.loads.length < Config.memQueueDepth →
        ∃ t, exec ins s = .next (retire t) ∧ queued (.scalar d kind) va pa n s' t
          ∧ (∀ r, sIsEmpty t r = (sIsEmpty s r || (r == d && r != 0))) ∧ t.core.regs.vEmpty = s.core.regs.vEmpty)
      ∧ ∀ s' c, accessCheck va n false (issued s) = (s', .fault c) → exec ins s = trap c va s'
    let vector : Instr → DWord → Prop := fun ins va =>
      (∀ s' pa, accessCheck va 64 false (issued s) = (s', .ok pa) → s.core.mq.loads.length < Config.memQueueDepth →
        topMask s ≠ 0 →
        ∃ t, exec ins s = .next (retire t) ∧ queued (.vector d (topMask s)) va pa 64 s' t
          ∧ (∀ r, vIsEmpty t r = (vIsEmpty s r || r == d)) ∧ t.core.regs.sEmpty = s.core.regs.sEmpty)
      ∧ (∀ s' pa, accessCheck va 64 false (issued s) = (s', .ok pa) → topMask s = 0 → exec ins s = .next (retire s'))
      ∧ ∀ s' c, accessCheck va 64 false (issued s) = (s', .fault c) → exec ins s = trap c va s'
    (mayIssue inLine ⟨[srcS a], [.s d]⟩ s →
      scalar (.gld d a kind off) (readS s a + off.signExtend 64 * BitVec.ofNat 64 n))
    ∧ (mayIssue inLine ⟨[srcS a, srcS i], [.s d]⟩ s → scalar (.gldIndexed d a kind i) (readS s a + readS s i))
    ∧ (mayIssue anywhere ⟨[srcS a], [.v d]⟩ s → vector (.vgld d a voff) (readS s a + voff.signExtend 64 * 64))
    ∧ (mayIssue anywhere ⟨[srcS a, srcS i], [.v d]⟩ s → vector (.vgldIndexed d a i) (readS s a + readS s i))

/-- R81-R83, R110: global stores. -/
def Obligations.GlobalStores : Prop :=
  ∀ (s : State) (d a i : BitVec 5) (width : BitVec 2) (sc : BitVec 3) (off : BitVec 9) (voff : BitVec 10),
    s.core.mq.region = none →
    let n := 2 ^ width.toNat
    let queued : List Host.Cell → DWord → Nat → Nat → State → State → Prop := fun cells va pa size s' t =>
      t = { s' with core.mq := { s.core.mq with
        seq := s.core.mq.seq + 1
        stores := s.core.mq.stores ++ [⟨s.core.mq.seq, .write cells, va.toNat, pa, size, storeScope s sc⟩] } }
      ∧ s' = { issued s with homes.tlb := s'.homes.tlb, homes.layerTlb := s'.homes.layerTlb }
      ∧ t.core.regs = s.core.regs ∧ (∀ x, memByte t x = memByte s x)
    let scalar : Instr → DWord → Prop := fun ins va =>
      (∀ s' pa, accessCheck va n true (issued s) = (s', .ok pa) → s.core.mq.stores.length < Config.memQueueDepth →
        ∃ t, exec ins s = .next (retire t)
          ∧ queued ((List.range n).map (fun k => (pa + k, (readS s d).extractLsb' (8 * k) 8))) va pa n s' t)
      ∧ ∀ s' c, accessCheck va n true (issued s) = (s', .fault c) → exec ins s = trap c va s'
    let vector : Instr → DWord → Prop := fun ins va =>
      (∀ s' pa, accessCheck va 64 true (issued s) = (s', .ok pa) → s.core.mq.stores.length < Config.memQueueDepth →
        topMask s ≠ 0 → ∃ t, exec ins s = .next (retire t) ∧ queued (laneCells (topMask s) pa (readV s d)) va pa 64 s' t)
      ∧ (∀ s' pa, accessCheck va 64 true (issued s) = (s', .ok pa) → topMask s = 0 → exec ins s = .next (retire s'))
      ∧ ∀ s' c, accessCheck va 64 true (issued s) = (s', .fault c) → exec ins s = trap c va s'
    (mayIssue inLine ⟨[srcS a, srcS d], []⟩ s →
      scalar (.gst d a width sc off) (readS s a + off.signExtend 64 * BitVec.ofNat 64 n))
    ∧ (mayIssue inLine ⟨[srcS a, srcS i, srcS d], []⟩ s → scalar (.gstIndexed d a width sc i) (readS s a + readS s i))
    ∧ (mayIssue anywhere ⟨[srcS a, srcV d], []⟩ s → vector (.vgst d a sc voff) (readS s a + voff.signExtend 64 * 64))
    ∧ (mayIssue anywhere ⟨[srcS a, srcS i, srcV d], []⟩ s → vector (.vgstIndexed d a sc i) (readS s a + readS s i))

/-- R198, R199: issue of the global atomics. -/
def Obligations.GlobalAtomics : Prop :=
  ∀ (s : State) (d a b : BitVec 5) (fa fb esc dbl : Bool),
    let va := readS s a
    let n := if dbl then 8 else 4
    let posts : BitVec 4 → Instr → Prop := fun op ins =>
      (∀ s' pa, accessCheck va n true (issued s) = (s', .ok pa) → esc = decide (ownClass s' va.toNat pa = 1) →
        s.core.mq.stores.length < Config.memQueueDepth →
        ∃ t, exec ins s = .next (retire t)
          ∧ t = { s' with core.mq := { s.core.mq with
            seq := s.core.mq.seq + 1
            stores := s.core.mq.stores ++ [⟨s.core.mq.seq, .atomic op dbl (readS s b) (readS s d) d, va.toNat, pa, n, 5⟩]
            results := if d = 0 then s.core.mq.results else s.core.mq.results ++ [⟨s.core.mq.seq, d, none⟩] } }
          ∧ s' = { issued s with homes.tlb := s'.homes.tlb, homes.layerTlb := s'.homes.layerTlb }
          ∧ t.core.regs = s.core.regs ∧ ∀ x, memByte t x = memByte s x)
      ∧ (∀ s' pa, accessCheck va n true (issued s) = (s', .ok pa) → esc ≠ decide (ownClass s' va.toNat pa = 1) →
        exec ins s = trap .access va s')
      ∧ ∀ s' c, accessCheck va n true (issued s) = (s', .fault c) → exec ins s = trap c va s'
    (mayIssue anywhere ⟨[srcS a fa, srcS b fb], [.s d]⟩ s →
      posts 0 (.amoadd d a b fa fb esc dbl) ∧ posts 1 (.amoand d a b fa fb esc dbl) ∧ posts 2 (.amoor d a b fa fb esc dbl)
      ∧ posts 3 (.amoxor d a b fa fb esc dbl) ∧ posts 4 (.amomin d a b fa fb esc dbl) ∧ posts 5 (.amomax d a b fa fb esc dbl)
      ∧ posts 6 (.amominz d a b fa fb esc dbl) ∧ posts 7 (.amomaxz d a b fa fb esc dbl)
      ∧ posts 8 (.amoswap d a b fa fb esc dbl))
    ∧ (mayIssue anywhere ⟨[srcS a fa, srcS b fb, srcS d], []⟩ s → posts 9 (.amocas d a b fa fb esc dbl))

/-- R205-R208: issue of the reductions. -/
def Obligations.Reductions : Prop :=
  ∀ (s : State) (a b : BitVec 5) (fa : Bool) (sc : BitVec 3) (grp : Byte),
    mayIssue anywhere ⟨[srcS a fa, srcV b, srcV (b + 1)], []⟩ s →
    (∀ s' c, accessCheck (readS s a) 128 true (issued s) = (s', .fault c) →
      ∀ i ∈ [Instr.redF32 a b fa sc, .redBf16 a b fa sc, .redI32 a b fa sc, .redF32max a b fa sc,
          .redoF32 a b fa grp, .redoBf16 a b fa grp, .redoI32 a b fa grp, .redoF32max a b fa grp],
        exec i s = trap c (readS s a) s')
    ∧ ∀ (s' : State) (pa : Nat), accessCheck (readS s a) 128 true (issued s) = (s', .ok pa) → s.core.mq.stores.length < Config.memQueueDepth →
    let va := readS s a
    let kept : State → Prop := fun t => t.core.regs = s.core.regs ∧ (∀ x, memByte t x = memByte s x)
      ∧ s' = { issued s with homes.tlb := s'.homes.tlb, homes.layerTlb := s'.homes.layerTlb }
    let red : RedOp → Instr → Prop := fun op ins => ∃ t, exec ins s = .next (retire t) ∧ kept t
      ∧ t = { s' with core.mq := { s.core.mq with
        seq := s.core.mq.seq + 1, redIndex := s.core.mq.redIndex + 1
        stores := s.core.mq.stores ++
          [⟨s.core.mq.seq, .red op (redData s b) (redMask s) s.core.mq.redIndex, va.toNat, pa, 128, storeScope s sc⟩] } }
    let redo : RedOp → Instr → Prop := fun op ins =>
      match groupOf (ownLaunch s) grp with
      | some r =>
        if groupHas r s.core.ord.toNat then ∃ t, exec ins s = .next (retire t) ∧ kept t
          ∧ t = { s' with core.mq := { s.core.mq with
            seq := s.core.mq.seq + 1
            stores := s.core.mq.stores ++
              [⟨s.core.mq.seq, .redo op (redData s b) (redMask s) grp, va.toNat, pa, 128, storeScope s 0⟩] } }
        else exec ins s = trap .group (grp.setWidth 64) s'
      | none => exec ins s = trap .group (grp.setWidth 64) s'
    (∀ i : Fin 32, lineWord (redData s b) i = if i.val < 16 then lane (readV s b) i else lane (readV s (b + 1)) (i - 16))
    ∧ (∀ k : Fin 128, (redMask s).getLsbD k = (topMask s).getLsbD (k / 4 % 16))
    ∧ red .f32 (.redF32 a b fa sc) ∧ red .bf16 (.redBf16 a b fa sc) ∧ red .i32 (.redI32 a b fa sc)
    ∧ red .f32max (.redF32max a b fa sc)
    ∧ redo .f32 (.redoF32 a b fa grp) ∧ redo .bf16 (.redoBf16 a b fa grp) ∧ redo .i32 (.redoI32 a b fa grp)
    ∧ redo .f32max (.redoF32max a b fa grp)

/-- R210-R212, R367: atomic line regions as the sequencer runs them. -/
def Obligations.LineRegions : Prop :=
  ∀ (s : State) (d a x : BitVec 5) (fa : Bool) (kind : BitVec 3) (width : BitVec 2) (sc : BitVec 3) (off : BitVec 11) (off9 : BitVec 9),
    let n := 2 ^ (kind.toNat % 4)
    let m := 2 ^ width.toNat
    let ld := readS s a + off.signExtend 64 * BitVec.ofNat 64 n
    let st := readS s a + off9.signExtend 64 * BitVec.ofNat 64 m
    let ix := readS s a + readS s x
    let size : OpenRegion → Nat := fun g => (g.accs.map (fun y => match y with
      | .load _ k _ _ => k
      | .store _ _ => 0)).sum
    let fits : OpenRegion → DWord → Nat → Prop := fun g va k => g.accs.length < 8 ∧ g.va ≤ va.toNat ∧ va.toNat + k ≤ g.va + 128
    let loads : Instr → DWord → Prop := fun i va => ∀ g s' pa, s.core.mq.region = some g → fits g va n →
      accessCheck va n false (issued s) = (s', .ok pa) →
      exec i s = .next (retire { s' with core.mq.region := some { g with accs := g.accs ++ [.load pa n d kind] } })
    let stores : Instr → DWord → Prop := fun i va => ∀ g s' pa, s.core.mq.region = some g → fits g va m →
      accessCheck va m true (issued s) = (s', .ok pa) →
      ∃ bs : List Byte, (bs.length = m ∧ ∀ k < m, bs[k]? = some ((readS s d).extractLsb' (8 * k) 8))
      ∧ exec i s = .next (retire { s' with core.mq.region := some { g with accs := g.accs ++ [.store pa bs] } })
    let beyond : Instr → DWord → Nat → Prop := fun i va k =>
      ∀ g, s.core.mq.region = some g → ¬ fits g va k → exec i s = illegal (encode i) s
    (mayIssue { inMacro := false, endWord := false } ⟨[srcS a fa], []⟩ s →
      ((readS s a).toNat % 128 ≠ 0 → (readS s a).toNat < 2 ^ 56 → exec (.alr a fa) s = trap .alignment (readS s a) (issued s))
      ∧ ∀ s' c, accessCheck (readS s a) 128 true (issued s) = (s', .fault c) → exec (.alr a fa) s = trap c (readS s a) s')
    ∧ (∀ s' pa, mayIssue { inMacro := false, endWord := false } ⟨[srcS a fa], []⟩ s →
      accessCheck (readS s a) 128 true (issued s) = (s', .ok pa) →
      exec (.alr a fa) s = .next (retire { s' with core.mq.region := some ⟨s.core.seq.pc, (readS s a).toNat, pa, []⟩ }))
    ∧ (mayIssue inLine ⟨[srcS a], [.s d]⟩ s → loads (.gld d a kind off) ld)
    ∧ (mayIssue inLine ⟨[srcS a, srcS x], [.s d]⟩ s → loads (.gldIndexed d a kind x) ix)
    ∧ (mayIssue inLine ⟨[srcS a, srcS d], []⟩ s → stores (.gst d a width sc off9) st)
    ∧ (mayIssue inLine ⟨[srcS a, srcS x, srcS d], []⟩ s → stores (.gstIndexed d a width sc x) ix)
    ∧ (mayIssue inLine ⟨[srcS a], []⟩ s → beyond (.gld d a kind off) ld n ∧ beyond (.gst d a width sc off9) st m)
    ∧ (mayIssue inLine ⟨[srcS a, srcS x], []⟩ s → beyond (.gldIndexed d a kind x) ix n ∧ beyond (.gstIndexed d a width sc x) ix m)
    ∧ (∀ g, gateOpen inLine s → s.core.mq.region = some g → 8 ≤ g.accs.length →
      ∀ i ∈ [Instr.gld d a kind off, .gst d a width sc off9, .gldIndexed d a kind x, .gstIndexed d a width sc x],
        exec i s = illegal (encode i) s)
    ∧ (∀ g, mayIssue { inRegion := true, inMacro := false, endWord := false } {} s → s.core.mq.region = some g →
      s.core.mq.stores = [] →
      (isRemote s (lineNo g.pa) = true → 16 < size g → exec .alre s = trap .access (BitVec.ofNat 64 g.va) (issued s))
      ∧ (isRemote s (lineNo g.pa) = false ∨ size g ≤ 16 → ∃ t, exec .alre s = .next (retire t)
        ∧ t = { issued s with
          core.mq := { s.core.mq with
            region := none, seq := s.core.mq.seq + 1, stores := [⟨s.core.mq.seq, .region g.accs, g.va, g.pa, 128, 5⟩] }
          core.regs.sEmpty := t.core.regs.sEmpty }
        ∧ (∀ r, sIsEmpty t r = (sIsEmpty s r || (r != 0 && g.accs.any (fun x => match x with
            | .load _ _ e _ => e == r
            | .store _ _ => false))))
        ∧ (∀ r, readS t r = readS s r) ∧ (∀ x, memByte t x = memByte s x)))

/-- R158, R193, R194: fences of the sequencer. -/
def Obligations.FencesAndMark : Prop :=
  ∀ (s : State) (sc : BitVec 3), mayIssue anywhere {} s →
    let scope := fenceScope s sc
    let q := s.core.mq.seq
    let storesRoom := s.core.mq.stores.length < Config.memQueueDepth
    let loadsRoom := s.core.mq.loads.length < Config.memQueueDepth
    (storesRoom → loadsRoom → exec (.mark sc) s = .next (retire { issued s with core.mq := { s.core.mq with
        seq := q + 1, lastFence := q, stores := s.core.mq.stores ++ [⟨q, .mark, 0, 0, 0, scope⟩]
        loads := s.core.mq.loads ++ [⟨q, .mark, 0, 0, scope.toNat, none, false⟩] } }))
    ∧ (storesRoom → exec (.fenceRel sc) s = .next (retire { issued s with core.mq := { s.core.mq with
        seq := q + 1, lastFence := q, stores := s.core.mq.stores ++ [⟨q, .fenceRel, 0, 0, 0, scope⟩] } }))
    ∧ (∀ u, let t := acquire scope u
      let remote : LayerLine → Prop := fun l => l.layer = layerOf u.core.id ∧ (l.tag = .remoteEscape ∨ ∃ h, l.tag = .remoteHall h)
      let l1 := if 2 ≤ scope.toNat then u.core.mq.l1.map (fun l => { l with valid := l.dirty }) else u.core.mq.l1
      t.core = { u.core with mq := { u.core.mq with l1 := l1 } }
      ∧ (scope.toNat < 6 → t.homes = u.homes)
      ∧ (6 ≤ scope.toNat → t.homes = { u.homes with layers := t.homes.layers } ∧ ∀ l, l ∈ t.homes.layers ↔
        l.valid ≠ 0 ∧ ∃ k ∈ u.homes.layers, (remote k ∧ l = { k with valid := k.dirty }) ∨ (¬ remote k ∧ l = k))
      ∧ ∀ x, memByte t x = memByte u x)
    ∧ (¬ loadsRoom → exec (.mark sc) s = waitOn .external (issued s))
    ∧ (¬ storesRoom → exec (.mark sc) s = waitOn .external (issued s) ∧ exec (.fenceRel sc) s = waitOn .external (issued s))
    ∧ (resultsOut s = false → exec (.fenceAcq sc) s = .next (retire (acquire scope (issued s))))
    ∧ (resultsOut s = true → exec (.fenceAcq sc) s = waitOn .external (issued s))
    ∧ (∀ s', s.core.mq.stores = [] → releasePush scope q (issued s) = (s', .done) → resultsOut s' = false →
      s'.core.mq.redoOut = [] → scopeOpen s' scope s'.core.mq.seq = false →
      exec (.fenceFull sc) s = .next (retire (acquire scope s')))
    ∧ (s.core.mq.stores ≠ [] → exec (.fenceFull sc) s = waitOn .external (issued s))

/-- R214-R218: semaphores, groups and barriers. -/
def Obligations.SemaphoresGroupsBarriers : Prop :=
  ∀ (s : State) (d a b k : BitVec 5) (fa fb : Bool) (sc : BitVec 3) (grp : Byte),
    let x := readS s a
    let legal : Prop := x.toNat < 256 ∧ x.toNat < (ownLaunch s).sems
    let room := s.core.mq.stores.length < Config.memQueueDepth
    let slot := slotOf s k
    (mayIssue anywhere ⟨[srcS a fa], []⟩ s →
      (legal → slot.cmp = slot.iss →
        exec (.sembind k a fa) s = .next (retire (setSlot k { slot with sem := some (x.setWidth 8) } (issued s))))
      ∧ (¬ legal → exec (.sembind k a fa) s = trap .semaphore x (issued s)))
    ∧ (mayIssue anywhere {} s → slot.cmp = slot.iss →
      exec (.sembindOff k) s = .next (retire (setSlot k { slot with sem := none } (issued s))))
    ∧ (mayIssue anywhere ⟨[srcS a fa, srcS b fb], [.s d]⟩ s → legal → room →
      exec (.semadd d a b fa fb sc) s = .next (retire { issued s with core.mq := { s.core.mq with
        seq := s.core.mq.seq + 1
        stores := s.core.mq.stores ++
            [⟨s.core.mq.seq, .semAdd (x.setWidth 8) ((readS s b).setWidth 32) d, 0, 0, 0, fenceScope s sc⟩]
        results := if d = 0 then s.core.mq.results else s.core.mq.results ++ [⟨s.core.mq.seq, d, none⟩] } }))
    ∧ (mayIssue anywhere ⟨[srcS a fa, srcS b fb], []⟩ s →
      let c := semValue s s.core.launch s.core.sec (x.setWidth 8)
      let passed : Bool := decide ((c - (readS s b).setWidth 32).toNat < 2 ^ 31)
      let before : Bool := match s.core.seq.semCap with | some (_, _, y) => y | none => false
      (legal → passed ∨ before → resultsOut s = false →
        exec (.semwait a b fa fb sc) s = .next (retire (acquire (fenceScope s sc) { issued s with core.seq.semCap := none })))
      ∧ (legal → (¬ passed ∧ ¬ before) ∨ resultsOut s = true → exec (.semwait a b fa fb sc) s = waitOn .external
        { issued s with core.seq.semCap := some (x.setWidth 8, (readS s b).setWidth 32, before || passed) }))
    ∧ (mayIssue anywhere ⟨[srcS a fa], []⟩ s → ¬ legal → (fb → sIsEmpty s b = false) →
      exec (.semwait a b fa fb sc) s = trap .semaphore x (issued s) ∧ exec (.semadd d a b fa fb sc) s = trap .semaphore x (issued s))
    ∧ (∀ r : List (Nat × Nat),
      let ord := s.core.ord.toNat
      let mem := r.any (fun y => decide (y.1 ≤ ord ∧ ord ≤ y.2))
      let info := groupInfo s r
      info.extractLsb' 0 24 = BitVec.ofNat 24 (r.map (fun y => y.2 + 1 - y.1)).sum
      ∧ info.extractLsb' 24 24 = (if mem then BitVec.ofNat 24 (r.map (fun y => min ord (y.2 + 1) - y.1)).sum else 0)
      ∧ info.getLsbD 48 = mem ∧ info.extractLsb' 49 3 = groupScope s r ∧ info.extractLsb' 52 12 = 0
      ∧ (let places := (groupMembers s r).map (memberPlace s)
        let encloses : Nat → Prop := fun c => ∀ p ∈ places, ∀ q ∈ places,
          (c = 1 → p = q) ∧ (c = 2 → layerOf p = layerOf q) ∧ (c = 3 → hubOf p = hubOf q)
          ∧ (c = 4 → corePkg p = corePkg q ∧ coreField p = coreField q) ∧ (c = 5 → corePkg p = corePkg q)
          ∧ (c = 6 → (corePkg p).toNat / 8 = (corePkg q).toNat / 8)
        1 ≤ (groupScope s r).toNat ∧ encloses (groupScope s r).toNat
          ∧ ∀ c, 1 ≤ c → encloses c → (groupScope s r).toNat ≤ c))
    ∧ (mayIssue anywhere ⟨[], [.s d]⟩ s → groupOf (ownLaunch s) grp = none →
      exec (.grpinfo d grp) s = trap .group (grp.setWidth 64) (issued s))
    ∧ (mayIssue anywhere ⟨[], [.s d]⟩ s → ∀ r, groupOf (ownLaunch s) grp = some r →
      exec (.grpinfo d grp) s = .next (retire (deliverLater (.scalar d (groupInfo s r)) (issued s))))
    ∧ (mayIssue anywhere {} s → ∀ r, groupOf (ownLaunch s) grp = some r → groupHas r s.core.ord.toNat →
      (barPending s grp = none → room →
        let scope := presentScope s (if sc = 0 then groupScope s r else sc)
        exec (.bar sc grp) s = waitOn .external (setBarWait grp scope { issued s with core.mq := { s.core.mq with
          seq := s.core.mq.seq + 1
          stores := s.core.mq.stores ++ [⟨s.core.mq.seq, .barArrive grp, 0, 0, 0, scope⟩] } }))
      ∧ (∀ scope, barPending s grp = some scope → scope ≠ 0 → barSent s grp = false → barOpen s grp r → resultsOut s = false →
        exec (.bar sc grp) s = .next (retire (acquire scope (clearBarWait grp (issued s)))))
      ∧ (∀ g' t, barPending (setBarWait grp sc t) g' = if g' = grp then some sc else barPending t g')
      ∧ ∀ g' t, barPending (clearBarWait grp t) g' = if g' = grp then none else barPending t g')
    ∧ (mayIssue anywhere {} s → (∀ r, groupOf (ownLaunch s) grp = some r → ¬ groupHas r s.core.ord.toNat) →
      exec (.bar sc grp) s = trap .group (grp.setWidth 64) (issued s))

/-- R64-R66: branches through target registers. -/
def Obligations.Branches : Prop :=
  ∀ (s : State) (b p : BitVec 3) (disp : BitVec 22) (a : BitVec 5) (fa neg : Bool),
    let pc := s.core.seq.pc
    let handler : Prop := s.core.seq.mode = .handler
    let state : Nat → FetchState → Prop := fun t f =>
      (4096 ≤ t → f = .faulted .fetchRange (BitVec.ofNat 64 t))
      ∧ (3584 ≤ t → t < 4096 → ¬ handler → f = .faulted .fetchHandlerArea (BitVec.ofNat 64 t))
      ∧ (t < 3584 ∨ t < 4096 ∧ handler → f = .fetching)
    let sets : Instr → BitVec 12 → (FetchState → Prop) → Prop := fun ins addr f =>
      ∃ t st, f st ∧ exec ins s = .next (retire t) ∧ t = { issued s with core.seq.tb := vset s.core.seq.tb b ⟨addr, st⟩ }
    let taken : Prop := xor (readP s p) neg
    let at_ := vget s.core.seq.tb b
    (mayIssue { inMacro := false, endWord := false } {} s →
      (let t := (pc.toNat + disp.toNat) % 2 ^ 22
       sets (.pbr b disp) (BitVec.ofNat 12 t) (state t))
      ∧ (¬ taken → exec (.br b p neg) s = .next (retire (issued s)) ∧ exec (.brl b p neg) s = .next (retire (issued s)))
      ∧ (taken → at_.state = .ready → exec (.br b p neg) s = .next (retireTo at_.addr.toNat (issued s)))
      ∧ (taken → at_.state = .fetching → exec (.br b p neg) s = waitOn .external s ∧ exec (.brl b p neg) s = waitOn .external s)
      ∧ (taken → at_.state = .idle →
        exec (.br b p neg) s = illegal (wordBr b p neg) s ∧ exec (.brl b p neg) s = illegal (wordBrl b p neg) s)
      ∧ ∀ c x, taken → at_.state = .faulted c x → exec (.br b p neg) s = trap c x s ∧ exec (.brl b p neg) s = trap c x s)
    ∧ (mayIssue { inMacro := false, endWord := false } ⟨[srcS a fa], []⟩ s →
      let x := readS s a
      (x.toNat < 4096 → sets (.pbrr b a fa) (x.setWidth 12) (state x.toNat))
      ∧ (4096 ≤ x.toNat → sets (.pbrr b a fa) (x.setWidth 12) (fun f => f = .faulted .fetchRange (BitVec.ofNat 64 (x.toNat % 2 ^ 22)))))
    ∧ (mayIssue { inMacro := false, endWord := false } ⟨[], [.s 31]⟩ s → taken → at_.state = .ready →
      exec (.brl b p neg) s
        = .next (retireTo at_.addr.toNat (writeS 31 (BitVec.ofNat 64 (pc.toNat + 1)) (issued s))))

/-- R14, R68, R69, R71: hardware loops, and the word after one that retires. -/
def Obligations.Loops : Prop :=
  (∀ s : State, s.core.seq.macroRun = false →
    let pc := s.core.seq.pc
    let level : BitVec 2 → LoopLevel := fun i => vget s.core.seq.loops i
    let ends : BitVec 2 → Prop := fun i => (level i).active = true ∧ (level i).stop = pc
    let goes : Vector LoopLevel 4 → Nat → State := fun ls n => { countStep s with
      core.seq.loops := ls, core.seq.pc := BitVec.ofNat 12 n, core.seq.pcOver := decide (n = 4096), core.seq.wait := none }
    let round : BitVec 2 → LoopLevel := fun i => { level i with count := (level i).count - 1 }
    let ended : BitVec 2 → LoopLevel := fun i => { level i with count := 0, active := false }
    let ls := s.core.seq.loops
    ((∀ i, ¬ ends i) → retire s = goes ls (pc.toNat + 1))
    ∧ (∀ i, ends i → (∀ k, ends k → k = i) →
      (1 < (level i).count.toNat → retire s = goes (vset ls i (round i)) (level i).start.toNat)
      ∧ ((level i).count.toNat ≤ 1 → retire s = goes (vset ls i (ended i)) (pc.toNat + 1)))
    ∧ (∀ i k, ends i → ends k → (level k).order < (level i).order → (∀ j, ends j → j = i ∨ j = k) →
      (1 < (level i).count.toNat → retire s = goes (vset ls i (round i)) (level i).start.toNat)
      ∧ ((level i).count.toNat ≤ 1 → 1 < (level k).count.toNat →
        retire s = goes (vset (vset ls i (ended i)) k (round k)) (level k).start.toNat)
      ∧ ((level i).count.toNat ≤ 1 → (level k).count.toNat ≤ 1 →
        retire s = goes (vset (vset ls i (ended i)) k (ended k)) (pc.toNat + 1))))
  ∧ ∀ (s : State) (lvl : BitVec 2) (a : BitVec 5) (raw : BitVec 8) (len : BitVec 12),
    let g : Gate := { inMacro := false, endWord := false }
    let pc := s.core.seq.pc.toNat
    let stop := pc + len.toNat
    let level : BitVec 2 → LoopLevel := fun i => vget s.core.seq.loops i
    let opens : Prop := len ≠ 0 ∧ (level lvl).active = false ∧ stop ≤ 4095 ∧ (s.core.seq.mode = .program → stop < 3584)
      ∧ ∀ i, (level i).active → stop ≤ (level i).stop.toNat
    let starts : Instr → Word → Prop := fun ins count =>
      (opens → count ≠ 0 → ∃ t, exec ins s = .next (retire t)
        ∧ (∀ i, i ≠ lvl → vget t.core.seq.loops i = level i)
        ∧ (vget t.core.seq.loops lvl).count = count ∧ (vget t.core.seq.loops lvl).active = true
        ∧ (vget t.core.seq.loops lvl).start.toNat = (pc + 1) % 4096 ∧ (vget t.core.seq.loops lvl).stop.toNat = stop
        ∧ (∀ i, (level i).active → (level i).order < (vget t.core.seq.loops lvl).order)
        ∧ t.core.regs = s.core.regs ∧ t.homes = s.homes)
      ∧ (opens → count = 0 →
        exec ins s = .next (retireTo (stop + 1) { issued s with
          core.seq.loops := vset s.core.seq.loops lvl { level lvl with count := 0 } }))
    (mayIssue g ⟨[srcS a], []⟩ s → starts (.loop lvl a len) ((readS s a).setWidth 32)
      ∧ (¬ opens → exec (.loop lvl a len) s = illegal (wordLoop lvl a len) s))
    ∧ (mayIssue g {} s →
      starts (.loopi lvl raw len) (BitVec.ofNat 32 (raw.toNat % 8 * 32 + raw.toNat / 8))
      ∧ (¬ opens → exec (.loopi lvl raw len) s = illegal (wordLoopi lvl raw len) s))

/-- R70: the loop break. -/
def Obligations.LoopBreak : Prop :=
  ∀ (s : State) (lvl : BitVec 2), mayIssue { inMacro := false, endWord := false } {} s →
    let level : BitVec 2 → LoopLevel := fun i => vget s.core.seq.loops i
    ((level lvl).active → ∃ t, exec (.lbrk lvl) s = .next t
      ∧ t.core.seq.pc = (level lvl).stop + 1 ∧ t.core.seq.pcOver = decide ((level lvl).stop = 4095)
      ∧ (∀ i, vget t.core.seq.loops i = if (level i).active ∧ (level lvl).order ≤ (level i).order
          then { level i with count := 0, active := false } else level i)
      ∧ t.core.regs = s.core.regs ∧ t.core.sys = s.core.sys ∧ t.homes = s.homes)
    ∧ ((level lvl).active = false → exec (.lbrk lvl) s = illegal (wordLbrk lvl) s)
    ∧ encode (.lbrk lvl) = 0x21#7 ++ 2#3 ++ lvl ++ 0#20

/-- R28, R72-R74: macros. -/
def Obligations.Macros : Prop :=
  ∀ (s : State) (a k : BitVec 5) (m : BitVec 6),
    (mayIssue { inMacro := false } ⟨[srcS a], []⟩ s →
      ∃ t, exec (.mstore a k m) s = .next (retire t) ∧ t = { issued s with core.seq.ctrl := t.core.seq.ctrl }
        ∧ ∀ (m' : BitVec 6) (k' : BitVec 5),
          macroWord t m'.toNat k'.toNat = if m' = m ∧ k' = k then (readS s a).setWidth 32 else macroWord s m'.toNat k'.toNat)
    ∧ (mayIssue { inMacro := false, endWord := false } {} s →
      (macroWord s m.toNat 0 ≠ 0 → exec (.mcall a m) s
        = .next { issued s with core.seq.macroRun := true, core.sys.mstep := BitVec.ofNat 64 (2 ^ 15 + 32 * m.toNat) })
      ∧ (macroWord s m.toNat 0 = 0 → exec (.mcall a m) s
        = .next (retireTo (s.core.seq.pc.toNat + 1) { issued s with core.sys.mstep := BitVec.ofNat 64 (32 * m.toNat) })))
    ∧ (s.core.seq.macroRun = true →
      let mac := s.core.sys.mstep.toNat / 32 % 64
      let step := s.core.sys.mstep.toNat % 32 + 1
      (step < 32 → macroWord s mac step ≠ 0 → retire s
        = { countStep s with core.seq.wait := none, core.sys.mstep := BitVec.ofNat 64 (2 ^ 15 + 32 * mac + step) })
      ∧ (step = 32 ∨ macroWord s mac step = 0 → retire s
        = nextWord { countStep s with core.seq.macroRun := false, core.sys.mstep := BitVec.ofNat 64 (32 * mac + step % 32) }))

/-- R16, R20, R21, R25, R26, R75, R76, R116, R139, R273: reads of system registers and of engine status, and the records they answer. -/
def Obligations.SystemRegisterReads : Prop :=
  ∀ (s : State) (d k : BitVec 5) (r : BitVec 12) (h : BitVec 3),
    let wrote : DWord → Out := fun x => .next (retire (writeS d x (issued s)))
    let asked : Instr → StatusReq → Prop := fun ins q => ∃ t, exec ins s = .next (retire t)
      ∧ t = { issued s with core.regs.sEmpty := t.core.regs.sEmpty, core.mq.status := s.core.mq.status ++ [q] }
      ∧ ∀ x, sIsEmpty t x = (sIsEmpty s x || (x == d && d != 0))
    let y := s.core.sys
    let reads : Nat → DWord → Prop := fun n x => sysRead s (BitVec.ofNat 12 n) = some x
    let fields : List (Σ n : Nat, BitVec n) → DWord := fun l => l.foldr (fun f x => x <<< f.1 ||| f.2.setWidth 64) 0
    (reads 0x000 y.partw ∧ reads 0x001 y.fpctl ∧ reads 0x002 (y.fpflag.setWidth 64) ∧ reads 0x005 y.tdmaskl ∧ reads 0x006 y.tdmaskh
      ∧ reads 0x007 y.mstep ∧ reads 0x008 y.srp[0] ∧ reads 0x009 y.srp[1] ∧ reads 0x00A y.srp[2] ∧ reads 0x00B y.srp[3]
      ∧ reads 0x016 (s.core.regs.depth.setWidth 64) ∧ reads 0x020 y.tcause ∧ reads 0x021 y.taddr ∧ reads 0x022 (y.tpc.setWidth 64)
      ∧ reads 0x023 y.tstat ∧ reads 0x024 (y.tvec.setWidth 64) ∧ reads 0x025 y.tscr
      ∧ reads 0x003 (fields [⟨12, s.core.hall⟩, ⟨1, BitVec.ofBool s.core.sec⟩])
      ∧ reads 0x004 (fields [⟨4, s.core.id.extractLsb' 0 4⟩, ⟨4, s.core.id.extractLsb' 4 4⟩,
          ⟨1, BitVec.ofBool (8 ≤ (s.core.id.extractLsb' 0 4).toNat)⟩, ⟨1, BitVec.ofBool (8 ≤ (s.core.id.extractLsb' 4 4).toNat)⟩,
          ⟨6, s.core.id.extractLsb' 8 6⟩, ⟨7, s.core.id.extractLsb' 14 7⟩, ⟨9, 0⟩, ⟨24, s.core.ord⟩])
      ∧ (∀ q : Fin 6, reads (0x00C + q) (fields [⟨5, s.core.eng.queues[q].head⟩, ⟨3, 0⟩, ⟨5, s.core.eng.queues[q].tail⟩]))
      ∧ (∀ l : BitVec 2, reads (0x012 + l.toNat) ((vget s.core.seq.loops l).count.setWidth 64)))
    ∧ (let t := vget s.core.eng.slots k
      kstatValue s k = fields [⟨16, t.iss⟩, ⟨16, t.cmp⟩, ⟨1, BitVec.ofBool t.pv⟩, ⟨1, BitVec.ofBool t.late⟩, ⟨1, BitVec.ofBool t.err⟩,
        ⟨5, 0⟩, ⟨24, if t.pv then t.prom.setWidth 24 else 0⟩])
    ∧ (let b := bufOf s k.toNat
      let state : BitVec 2 := match b.state with | .empty => 0 | .filling => 1 | .full => 2 | .draining => 3
      let fill := if b.state = .full then b.size else bufFill s k.toNat
      bufstatValue s k.toNat = if b.declared then
        fields [⟨2, state⟩, ⟨1, 1⟩, ⟨1, BitVec.ofBool (b.chk ≠ 0)⟩, ⟨17, BitVec.ofNat 17 fill⟩] else 0)
    ∧ (let x := vget s.core.port.handles h
      cstatValue s h = fields [⟨3, x.st⟩, ⟨2, if x.st = 4 then x.cause else 0⟩, ⟨3, 0⟩, ⟨24, x.leaseEnd.setWidth 24⟩, ⟨32, x.resume⟩])
    ∧ (∀ n, statusValue s (.srp d n) = (d, vget y.srp n)) ∧ (∀ q, statusValue s (.qht d q) = (d, qhtValue s q))
    ∧ statusValue s (.kstat d k) = (d, kstatValue s k) ∧ statusValue s (.bufstat d k) = (d, bufstatValue s k.toNat)
    ∧ statusValue s (.cstat d h) = (d, cstatValue s h)
    ∧ (counterOf s s.core.id = s.now + BitVec.ofNat 64 (Config.fieldOffset (corePkg s.core.id).toNat ((coreChip s.core.id).toNat / 8) % 2 ^ 38))
    ∧ (mayIssue anywhere ⟨[], [.s d]⟩ s →
      (∀ x, sysRead s r = some x → (isTrapReg r = true → s.core.seq.mode = .handler) → exec (.mfs d r) s = wrote x)
      ∧ (sysRead s r = none → exec (.mfs d r) s = illegal (wordMfs d r) s)
      ∧ (isTrapReg r = true → s.core.seq.mode = .program → exec (.mfs d r) s = privilege (wordMfs d r) s)
      ∧ (s.core.seq.mode = .handler → ∃ t, exec (.mfsTcause d) s = .next (retire t)
        ∧ t = { writeS d s.core.sys.tcause (issued s) with core.sys.tstat := s.core.sys.tstat ||| 0x80 })
      ∧ (s.core.seq.mode = .program → exec (.mfsTcause d) s = privilege (wordMfsTcause d) s)
      ∧ (0x008 ≤ r.toNat → r.toNat < 0x00C → asked (.mfsEngineStatus d r) (.srp d (BitVec.ofNat 2 (r.toNat - 0x008))))
      ∧ (0x00C ≤ r.toNat → r.toNat < 0x012 → asked (.mfsEngineStatus d r) (.qht d (r.toNat - 0x00C)))
      ∧ asked (.kstat d k) (.kstat d k) ∧ asked (.bufstat d k) (.bufstat d k)
      ∧ asked (.cstat d h) (.cstat d h) ∧ exec (.cyc d) s = wrote (counterOf s s.core.id))

/-- R20-R24, R28-R32, R42, R75, R325: writes of system registers. The privilege trap of a trap register in program mode whatever the value
is the model's choice (log entry 76). -/
def Obligations.SystemRegisterWrites : Prop :=
  (∀ (s : State) (a : BitVec 5) (r : BitVec 12), gateOpen anywhere s →
    ((∃ q : Fin 6, s.core.eng.queues[q].head ≠ s.core.eng.queues[q].tail) → exec (.mtsPartw a) s = illegal (wordMtsPartw a) s)
    ∧ ∀ q : Fin 6, r.toNat = 0x00C + q.val → s.core.seq.mode = .program ∨ s.core.eng.restoring.getLsbD q = false →
      exec (.mtsQht a r) s = illegal (wordMtsQht a r) s)
  ∧ ∀ (s : State) (a : BitVec 5) (r : BitVec 12), mayIssue anywhere ⟨[srcS a], []⟩ s →
    let x := readS s a
    let handler : Prop := s.core.seq.mode = .handler
    let fpctl : Prop := x.toNat % 8 ≤ 4 ∧ x.toNat / 2 ^ 8 % 2 ^ 24 = 0
    let idle : Prop := ∀ q : Fin 6, s.core.eng.queues[q].head = s.core.eng.queues[q].tail
    let partw : Prop := idle ∧ partwLegal x = true ∧ movesBuffer s x = false
    let plain : Prop := r = 0x007 ∨ (0x008 ≤ r.toNat ∧ r.toNat ≤ 0x00B) ∨ (0x020 ≤ r.toNat ∧ r.toNat ≤ 0x025)
    (x.toNat < 64 → exec (.mtsFpflag a) s = .next (retire { issued s with core.sys.fpflag := x.setWidth 6 }))
    ∧ (64 ≤ x.toNat → exec (.mtsFpflag a) s = illegal (wordMtsFpflag a) (issued s))
    ∧ (fpctl → vectorsOut s = false → ∃ t, exec (.mtsFpctl a) s = .next (retire t)
      ∧ t = { issued s with core.sys.fpctl := x, core.sys.laneRsr := t.core.sys.laneRsr, core.sys.clusterRsr := t.core.sys.clusterRsr,
                            core.sys.fpEpoch := s.core.sys.fpEpoch + 1 }
      ∧ (∀ i : Fin 16, t.core.sys.laneRsr[i] = rsrSeed x i) ∧ ∀ i : Fin 256, t.core.sys.clusterRsr[i] = rsrSeed x (16 + i))
    ∧ (fpctl → vectorsOut s = true → exec (.mtsFpctl a) s = waitOn .external (issued s))
    ∧ (¬ fpctl → exec (.mtsFpctl a) s = illegal (wordMtsFpctl a) (issued s))
    ∧ (partw → partCA x = partCA s.core.sys.partw → exec (.mtsPartw a) s = .next (retire (repartition x (issued s))))
    ∧ (∀ s', partw → partCA x ≠ partCA s.core.sys.partw →
      (l1Flush (issued s) = (s', .done) → exec (.mtsPartw a) s = .next (retire (repartition x s')))
      ∧ (l1Flush (issued s) = (s', .held) → exec (.mtsPartw a) s = waitOn .external s'))
    ∧ (idle → ¬ partw → exec (.mtsPartw a) s = illegal (wordMtsPartw a) (issued s))
    ∧ (∀ lvl : BitVec 2, r.toNat = 0x012 + lvl.toNat →
      (x.toNat < 2 ^ 32 → exec (.mtsLc a r) s = .next { retire (issued s) with
        core.seq.loops := vset (retire (issued s)).core.seq.loops lvl
          { vget (retire (issued s)).core.seq.loops lvl with count := x.setWidth 32 } })
      ∧ (2 ^ 32 ≤ x.toNat → exec (.mtsLc a r) s = illegal (wordMtsLc a r) (issued s)))
    ∧ (handler → x.toNat ≤ 16 → exec (.mtsMsdepth a) s = .next (retire { issued s with core.regs.depth := x.setWidth 5 }))
    ∧ (handler → 16 < x.toNat → exec (.mtsMsdepth a) s = illegal (wordMtsMsdepth a) (issued s))
    ∧ (¬ handler → exec (.mtsMsdepth a) s = illegal (wordMtsMsdepth a) s)
    ∧ (∀ q : Fin 6, r.toNat = 0x00C + q.val →
      let restoring : Prop := s.core.eng.restoring.getLsbD q = true
      let legal : Prop := restoring ∧ x &&& ~~~0x1F1F = 0
      (handler → legal → exec (.mtsQht a r) s = .next (retire { issued s with
        core.eng.queues := s.core.eng.queues.set q
          { s.core.eng.queues[q] with head := x.setWidth 5, tail := (x >>> 8).setWidth 5 } }))
      ∧ (handler → restoring → ¬ legal → exec (.mtsQht a r) s = illegal (wordMtsQht a r) (issued s))
      ∧ (¬ handler ∨ ¬ restoring → exec (.mtsQht a r) s = illegal (wordMtsQht a r) s))
    ∧ (handler → plain → sysLegal r.toNat x → ∃ t, exec (.mts a r) s = .next (retire t) ∧ t = { issued s with core.sys := t.core.sys }
      ∧ sysRead t r = some (if r = 0x023 then (x &&& ~~~0x80) ||| (s.core.sys.tstat &&& 0x80) else x)
      ∧ ∀ r', r' ≠ r → sysRead t r' = sysRead s r')
    ∧ (handler → plain → sysLegal r.toNat x = false → exec (.mts a r) s = illegal (wordMts a r) (issued s))
    ∧ (¬ handler → plain → exec (.mts a r) s = if isTrapReg r then privilege (wordMts a r) s else illegal (wordMts a r) s)
    ∧ (3 ≤ r.toNat → r.toNat ≤ 6 → exec (.mts a r) s = illegal (wordMts a r) s)
    ∧ (0x016 < r.toNat → r.toNat < 0x020 ∨ 0x025 < r.toNat → exec (.mts a r) s = illegal (wordMts a r) s)

/-- R86, R87: overlays and the end of the program. That a short overlay leaves the words after its end as they were is the model's choice
(log entry 78). -/
def Obligations.OverlaysAndExit : Prop :=
  ∀ (s : State) (a : BitVec 5) (fa err : Bool) (b : BitVec 3),
    let n := (readS s a).toNat
    let place : Prop := s.core.seq.pc.toNat < s.core.seq.ovb ∧ (∀ l ∈ s.core.seq.loops.toList, l.active = false)
      ∧ s.core.sys.mstep.getLsbD 15 = false
    let named : Prop := n < 2 ^ 16 ∧ n < s.core.seq.overlays.length
    let trailer : Prop := ∀ q : Fin 6, (trailerOf s).getLsbD q → (queueOf s q).head = (queueOf s q).tail
    let at_ := targetOf s b
    let setsTarget : FetchState → Prop := fun f =>
      exec (.targetFetchReady b err) s = .next { s with core.seq.tb := vset s.core.seq.tb b ⟨at_.addr, f⟩ }
    let bad : Prop := err = true ∨ s.core.seq.badWords.contains at_.addr = true
    (mayIssue { inMacro := false, endWord := false } ⟨[srcS a fa], []⟩ s →
      (place → named → trailer → exec (.ovl a fa) s = .next { issued s with core.seq.run := .overlay n })
      ∧ (place → named → ¬ trailer → exec (.ovl a fa) s = waitOn .external (issued s))
      ∧ (place → ¬ named → exec (.ovl a fa) s = trap .overlay (readS s a) (issued s))
      ∧ (¬ place → exec (.ovl a fa) s = illegal (wordOvl a fa) s))
    ∧ (∀ k o, s.core.seq.run = .overlay k → s.core.seq.overlays[k]? = some o →
      let loaded : Nat → Prop := fun i => s.core.seq.ovb ≤ i ∧ i < s.core.seq.ovb + o.words.length ∧ i < 3584
      ∃ t, exec (.overlayLoadDone false) s = .next (retire t)
        ∧ t = { s with core.seq.run := .running, core.seq.curOverlay := k, core.seq.tb := t.core.seq.tb,
                       core.seq.imem := t.core.seq.imem, core.seq.badWords := t.core.seq.badWords }
        ∧ (∀ i : Fin 4096, t.core.seq.imem[i]
          = if loaded i then o.words.getD (i.val - s.core.seq.ovb) 0 else s.core.seq.imem[i])
        ∧ (∀ w, w ∈ t.core.seq.badWords ↔ w ∈ s.core.seq.badWords ∧ ¬ loaded w.toNat)
        ∧ ∀ r : BitVec 3, (targetOf t r).state = .idle)
    ∧ (at_.state = .fetching → ¬ bad → setsTarget .ready)
    ∧ (at_.state = .fetching → bad → setsTarget (.faulted .fetchError (at_.addr.setWidth 64)))
    ∧ (mayIssue { inMacro := false, endWord := false } {} s →
      ∃ t, exec .exit s = .next t
        ∧ t = { countStep (issued s) with
                core.seq.run := .exited, core.seq.loops := t.core.seq.loops, core.seq.tb := t.core.seq.tb,
                core.mq.loads := s.core.mq.loads.map (fun l => if l.dest = .mark then l else { l with dest := .discard }) }
        ∧ (∀ l ∈ t.core.seq.loops.toList, l.active = false) ∧ ∀ r : BitVec 3, (targetOf t r).state = .idle)

/-- R42, R69, R74, R95, R211, R257: where instructions may stand. -/
def Obligations.WhereInstructionsMayStand : Prop :=
  ∀ (s : State) (i : Instr), i.isWord → i.wf →
    let inRegion := s.core.mq.region.isSome
    let inMacro := s.core.seq.macroRun
    let atEnd := !inMacro && isEndWord s s.core.seq.pc
    ((inRegion && !acceptedInRegion i) || (inMacro && barredFromMacros i) || (atEnd && barredAtEnd i) →
      exec i s = illegal (encode i) s)
    ∧ (∀ m, !inRegion → !inMacro → !atEnd → modeAsked i = some m → s.core.seq.mode ≠ m → exec i s = privilege (encode i) s)

/-- R73, R324-R326: taking a trap. What the target registers and the armed step keep over it is log entry 20. -/
def Obligations.TrapEntry : Prop :=
  ∀ (s : State) (c : Cause) (addr fields : DWord), fields.getLsbD 7 = false →
    let t := takeTrap c addr fields s
    let word := if s.core.seq.macroRun then substFields ((wordAtPc s).extractLsb' 15 5)
        (macroWord s (s.core.sys.mstep.toNat / 32 % 64) (s.core.sys.mstep.toNat % 32))
      else wordAtPc s
    (s.core.seq.mode = .program →
      t.core.sys.tcause = BitVec.ofNat 64 (c.code.toNat + if c.async then 256 else 0)
      ∧ t.core.sys.taddr = addr ∧ t.core.sys.tstat = fields ∧ crBit t = false
      ∧ t.core.sys.tpc = (match s.core.mq.region with | some g => g.pc | none => s.core.seq.pc)
      ∧ t.core.seq.mode = .handler ∧ t.core.seq.pc = s.core.sys.tvec ∧ t.core.mq.region = none
      ∧ t.core.regs = s.core.regs ∧ t.core.pool = s.core.pool ∧ t.homes = s.homes ∧ t.sched = s.sched
      ∧ t.core.eng = s.core.eng ∧ t.core.grid = s.core.grid ∧ t.core.sys.fpflag = s.core.sys.fpflag
      ∧ t.core.sys.tvec = s.core.sys.tvec ∧ t.core.sys.tscr = s.core.sys.tscr)
    ∧ (s.core.seq.mode = .handler →
      t.core.seq.run = .stopped ∧ t.core.regs = s.core.regs ∧ t.core.sys = s.core.sys ∧ t.core.pool = s.core.pool
      ∧ t.homes = s.homes
      ∧ (crBit s = true → t.core.seq.handlerFault = some ⟨c, addr, word, storesWord word⟩ ∧ t.sched = s.sched)
      ∧ (crBit s = false → ∀ l ∈ s.sched.launches, l.id = s.core.launch → launchOf s s.core.launch = l → abortable l →
          (launchOf t s.core.launch).phase = .doomed
          ∧ ∃ r, (launchOf t s.core.launch).abort = some r ∧ r.cause = 12 ∧ r.tcause = c.code ∧ r.addr = addr))

/-- R259: software traps and breakpoints. -/
def Obligations.SoftwareTraps : Prop :=
  ∀ (s : State) (n : BitVec 10), gateOpen { inMacro := false, endWord := false, only := some .program } s →
    s.core.mq.region = none → (∀ l ∈ s.core.seq.loops.toList, l.active → l.stop ≠ s.core.sys.tvec) →
    let pc := s.core.seq.pc
    let trapped : Cause → Out → Prop := fun c o => ∃ t, o = .next t ∧ t = takeTrap c (n.setWidth 64) 0 s
      ∧ t.core.sys.tcause = c.code.setWidth 64 ∧ t.core.sys.taddr = n.setWidth 64 ∧ t.core.sys.tpc = pc
      ∧ t.core.seq.mode = .handler ∧ t.core.seq.pc = s.core.sys.tvec ∧ t.core.regs = s.core.regs ∧ t.homes = s.homes
      ∧ (s.core.sys.mstep.getLsbD 15 = false →
        (∃ u, exec .tret t = .next u ∧ u.core.seq.pc = pc ∧ u.core.seq.mode = .program)
        ∧ ∃ u, exec .tretSkip t = .next u ∧ u.core.seq.pc = pc + 1 ∧ u.core.seq.mode = .program)
    trapped .software (exec (.trap n) s)
    ∧ ((ownLaunch s).dbg = false → trapped .breakpoint (exec (.bkpt n) s))
    ∧ ((ownLaunch s).dbg = true → s.core.seq.run = .running → ∃ t, exec (.bkpt n) s = .next t
      ∧ t = { retire s with core.seq.haltRequested := true, sched.slots := t.sched.slots, sched.launches := t.sched.launches }
      ∧ t.sched.slots = s.sched.slots.map (fun x => if x.launch = s.core.launch ∧ x.state = .running then { x with op := 5 } else x)
      ∧ (∀ l ∈ s.sched.launches, l.id ≠ s.core.launch → l ∈ t.sched.launches)
      ∧ ∀ l ∈ s.sched.launches, l.id = s.core.launch → ∃ l' ∈ t.sched.launches, l' = { l with halted := true, haltCount := l'.haltCount }
        ∧ l'.haltCount.toNat = if l.halted then l.haltCount.toNat else Nat.min (l.haltCount.toNat + 1) 0xFFFF)

/-- R257, R260-R262: leaving handler mode, stepping, and the arithmetic fence. The model's choices: a `TPC` moved off the `MCALL` is
continued as a plain word, ACT clear (log entry 42); which engines go on and from where (log entries 37 and 64); what the target
registers hold after `TRET` (log entry 66). -/
def Obligations.TrapReturn : Prop :=
  ∀ (s : State) (m : BitVec 2) (n : BitVec 10),
    let h : Gate := { inMacro := false, endWord := false, only := some .handler }
    let place : Gate := { inMacro := false, endWord := false }
    let act := s.core.sys.mstep.getLsbD 15
    let step := s.core.sys.mstep.toNat % 32
    let tpc := s.core.sys.tpc
    let word := vget s.core.seq.imem tpc
    let mcall : Prop := word.bits 25 7 = 0x22 ∧ word.bits 20 5 = 0
    let mac := (word.bits 0 6).toNat
    let returns : Bool → Instr → Nat → Prop := fun skip ins k => ∃ t, exec ins s = .next t
      ∧ t = { s with core.seq := t.core.seq, core.sys.mstep := t.core.sys.mstep, core.eng := t.core.eng, core.grid := t.core.grid }
      ∧ t.core.seq = { s.core.seq with mode := .program, wait := none, tb := restoreTargets skip s, pc := t.core.seq.pc,
                                       pcOver := t.core.seq.pcOver, macroRun := t.core.seq.macroRun, loops := t.core.seq.loops,
                                       barWait := t.core.seq.barWait }
      ∧ (skip = false → t.core.seq.barWait = s.core.seq.barWait)
      ∧ (act = false ∨ ¬ mcall → t.core.seq.pc = BitVec.ofNat 12 (tpc.toNat + k)
          ∧ t.core.seq.pcOver = decide (4096 ≤ tpc.toNat + k) ∧ t.core.seq.loops = s.core.seq.loops
          ∧ t.core.seq.macroRun = false ∧ t.core.sys.mstep.getLsbD 15 = false)
      ∧ (act = true → mcall → step + k < 32 → macroWord s mac (step + k) ≠ 0 →
        t.core.seq.macroRun = true ∧ t.core.seq.pc = tpc ∧ t.core.seq.loops = s.core.seq.loops
        ∧ t.core.sys.mstep = BitVec.ofNat 64 (2 ^ 15 + 32 * mac + (step + k)))
      ∧ (act = true → mcall → (step + k = 32 ∨ macroWord s mac (step + k) = 0) →
        t.core.seq.macroRun = false ∧ t.core.sys.mstep.getLsbD 15 = false
        ∧ ((∀ l ∈ s.core.seq.loops.toList, l.active → l.stop ≠ tpc) → t.core.seq.loops = s.core.seq.loops
          ∧ t.core.seq.pc = tpc + 1 ∧ t.core.seq.pcOver = decide (tpc = 4095)))
      ∧ (∀ q r, q < 6 → execOf s q = some r → r.stopped → r.pager = none → ∃ r', execOf t q = some r' ∧ r'.stopped = false)
      ∧ ((∀ q r, execOf s q = some r → r.stopped = false) → t.core.eng = s.core.eng ∧ t.core.grid = s.core.grid)
    (gateOpen h s → returns false .tret 0 ∧ returns true .tretSkip 1
      ∧ exec (.dstep m) s = .next (retire { s with
          core.seq.stepInst := m.getLsbD 0, core.seq.stepGrid := m.getLsbD 1
          core.seq.stepFired := false, core.seq.gridStepFired := false }))
    ∧ (gateOpen place s → s.core.seq.mode = .program →
      exec .tret s = privilege wordTret s ∧ exec .tretSkip s = privilege wordTretSkip s
      ∧ exec (.dstep m) s = privilege (wordDstep m) s)
    ∧ (gateOpen place s → s.core.seq.mode = .handler →
      exec (.trap n) s = privilege (wordTrap n) s ∧ exec (.bkpt n) s = privilege (wordBkpt n) s)
    ∧ (gateOpen place s →
      let idle : Prop := s.core.regs.latent = [] ∧ enginesIdle s = true
      let set := s.core.sys.fpflag.setWidth 5 &&& (s.core.sys.fpctl >>> 3).setWidth 5
      (¬ idle → exec .tfence s = waitOn .internal s)
      ∧ (idle → set = 0 → exec .tfence s = .next (retire (issued s)))
      ∧ (idle → set ≠ 0 → exec .tfence s = trap .arithmetic (set.setWidth 64) s))

/-- R264, R265, R267, R270, R271: results that tell the state of launch, debugger and device. -/
def Obligations.StatusResults : Prop :=
  ∀ (s : State) (d a : BitVec 5) (fa : Bool),
    let late : DWord → State → Out := fun x t => .next (retire (deliverLater (.scalar d x) t))
    (mayIssue anywhere ⟨[], [.s d]⟩ s →
      (∃ x, exec (.txstat d) s = late x (issued s) ∧ x.setWidth 12 = s.core.hall ∧ x.getLsbD 15 = s.core.sec
        ∧ x.getLsbD 14 = decide ((ownLaunch s).pair ≠ 0) ∧ x.getLsbD 16 = (ownLaunch s).pol
        ∧ x.getLsbD 17 = (ownLaunch s).regions.any (fun r => r.cls == 2)
        ∧ (x.extractLsb' 12 2 = 1#2 ↔ ∃ h, hallOf s s.core.launch (corePkg s.core.id) = some h ∧ h.state = .irrevocable)
        ∧ (x.extractLsb' 12 2 = 2#2 ↔ ∃ h, hallOf s s.core.launch (corePkg s.core.id) = some h ∧ h.state = .doomed)
        ∧ (x.extractLsb' 32 16).toNat = min 0xFFFF (spilledLines s / 1024))
      ∧ ∃ x, exec (.dstat d) s = late x (issued s) ∧ x.getLsbD 0 = (ownLaunch s).dbg
        ∧ x.getLsbD 1 = s.core.seq.stepInst ∧ x.getLsbD 2 = s.core.seq.stepGrid
        ∧ x.getLsbD 3 = s.core.seq.haltRequested ∧ (x >>> 16).setWidth 16 = (ownLaunch s).haltCount)
    ∧ (mayIssue { inMacro := false, endWord := false } ⟨[], [.s d]⟩ s →
      exec (.yield d) s = late (if s.core.seq.savePending then 1 else 0)
        { issued s with core.seq.yielded := s.core.seq.savePending })
    ∧ (mayIssue anywhere ⟨[srcS a fa], [.s d]⟩ s →
      let x := readS s a
      exec (.disc d a fa) s = late (if x.toNat < 65536 then discEntry s x.toNat else 0) (issued s)
      ∧ exec (.prd d a fa) s = late (prdValue s x) { issued s with fresh := s.fresh + 1 }
      ∧ (x.toNat ≠ x.toNat / 256 % 256 * 256 + x.toNat / 128 % 2 * 128 + x.toNat % 16 → prdValue s x = 0))

/-- R266, R268, R269. -/
def Obligations.SleepAndAbort : Prop :=
  ∀ (s : State) (d a : BitVec 5) (fa : Bool),
    let g : Gate := { inMacro := false, endWord := false }
    let m := (readS s a).setWidth 31
    let cmp : Fin 31 → BitVec 16 := fun j => (slotOf s (BitVec.ofNat 5 j)).cmp
    let moved : List (BitVec 16) → Fin 31 → Prop := fun c j => m.getLsbD j ∧ cmp j ≠ c.getD j 0
    let awake : DWord → Out → Prop := fun x o =>
      o = .next (retire (deliverLater (.scalar d x) { issued s with core.seq.sleepCap := none }))
    (mayIssue g ⟨[srcS a fa], [.s d]⟩ s →
      let work : Prop := ∃ j : Fin 31, m.getLsbD j ∧ (slotOf s (BitVec.ofNat 5 j)).iss ≠ cmp j
      (s.core.seq.sleepCap = none → ¬ work → awake 0 (exec (.sleep d a fa) s))
      ∧ (s.core.seq.sleepCap = none → work → exec (.sleep d a fa) s
        = .next { s with core.seq.wait := some .internal, core.seq.sleepCap := some ((List.finRange 31).map cmp) })
      ∧ (∀ c, s.core.seq.sleepCap = some c → ((∃ j, moved c j) ∨ trapPends s) →
        ∃ x : BitVec 31, (∀ j : Fin 31, x.getLsbD j = true ↔ moved c j) ∧ awake (x.setWidth 64) (exec (.sleep d a fa) s))
      ∧ (∀ c, s.core.seq.sleepCap = some c → (∀ j, ¬ moved c j) → trapPends s = false →
        exec (.sleep d a fa) s = waitOn .internal (issued s)))
    ∧ (mayIssue g ⟨[srcS a fa], []⟩ s →
      ((readS s a).toNat ≤ (counterOf s s.core.id).toNat → exec (.sleept a fa) s = .next (retire (issued s)))
      ∧ ((counterOf s s.core.id).toNat < (readS s a).toNat → exec (.sleept a fa) s = waitOn .external (issued s))
      ∧ ∃ u t, exec (.txabort a fa) s = .next t ∧ t = discardCore u ∧ t.core.seq.run = .stopped
        ∧ t.core.eng.queues = Vector.replicate 6 CmdQueue.start ∧ t.core.mq.loads = [] ∧ t.core.mq.stores = []
        ∧ t.core.regs = s.core.regs ∧ (∀ k, poolByte t k = poolByte s k) ∧ t.homes = s.homes
        ∧ u = { issued s with sched.launches := u.sched.launches, sched.halls := u.sched.halls }
        ∧ ((ownLaunch s).phase = .committing ∨ abortable (ownLaunch s) = false → u = issued s)
        ∧ ((ownLaunch s).phase ≠ .committing → ∀ l ∈ s.sched.launches, launchOf s s.core.launch = l → l.id = s.core.launch → abortable l →
          (launchOf t s.core.launch).phase = .doomed ∧ ∃ r, (launchOf t s.core.launch).abort = some r ∧ r.cause = 8
          ∧ r.code = (readS s a).setWidth 16 ∧ r.ord = s.core.ord))

/-- R272, R275. That `LWAKE` of an ordinal in another package names no link is the model's choice (log entry 85). -/
def Obligations.LinksAndHandles : Prop :=
  ∀ (s : State) (d a : BitVec 5) (fa : Bool) (h : BitVec 3),
    let woken : State → State := fun t => (namedLinks s (readS s a)).foldl (fun t l => wakeLink l t) t
    let up : Nat → Prop := fun l => (linkRec s l).power = .full ∨ ((linkRec s l).narrowed = true ∧ (linkRec s l).power = .narrow)
      ∨ (linkRec s l).failed = true
    (let x := readS s a
      let ord : BitVec 24 := x.extractLsb' 0 24
      (x.getLsbD 24 = true → namedLinks s x = [ringLink (corePkg s.core.id).toNat false, ringLink (corePkg s.core.id).toNat true])
      ∧ (x.getLsbD 24 = false → (ownLaunch s).cores ≤ ord.toNat ∨ corePkg (ordPlace s ord) ≠ corePkg s.core.id → namedLinks s x = [])
      ∧ (x.getLsbD 24 = false → ord.toNat < (ownLaunch s).cores → corePkg (ordPlace s ord) = corePkg s.core.id →
        namedLinks s x = wakePath s (ordPlace s ord)))
    ∧ (mayIssue anywhere ⟨[srcS a fa], []⟩ s →
      exec (.lwake a fa) s = .next (retire (woken (issued s)))
      ∧ ((∀ l ∈ namedLinks s (readS s a), up l) → exec (.lwakeWait a fa) s = .next (retire (issued s)))
      ∧ ((∃ l ∈ namedLinks s (readS s a), ¬ up l) → exec (.lwakeWait a fa) s = waitOn .external (woken (issued s))))
    ∧ (mayIssue anywhere ⟨[srcS a fa], [.s d]⟩ s →
      let t := expireLease h (issued s)
      let now := (counterOf t t.core.id).toNat
      let x := handleOf t h
      let later := min (now + 2 ^ 24) (max x.leaseEnd.toNat (now + min (readS s a).toNat (2 ^ 24)))
      (x.st ≠ 2 → exec (.chold d a h fa) s = .next (retire (deliverLater (.scalar d 0) t)))
      ∧ (x.st = 2 → exec (.chold d a h fa) s = .next (retire (deliverLater (.scalar d 1) (setHandle h
          { x with leaseEnd := BitVec.ofNat 64 later } t)))))
    ∧ (gateOpen anywhere s →
      ((handleOf s h).st = 2 → exec (.cclose h) s
        = .next (retire (settleCloses (setHandle h { handleOf s h with st := 3, closeAt := s.core.eng.cmdId } s))))
      ∧ ((handleOf s h).st ≠ 2 → exec (.cclose h) s = .next (retire s)))

/-- R96, R98: vector floating-point arithmetic. -/
def Obligations.VectorFloatArithmetic : Prop :=
  ∀ (s : State) (d a b : BitVec 5) (rm : BitVec 3), mayIssue anywhere ⟨[srcV a, srcV b], [.v d]⟩ s →
    let mode : BitVec 3 := if rm = 0 then s.core.sys.fpctl.setWidth 3 else rm - 1
    let x := fun (i : Fin 16) => (readV s a)[i]
    let y := fun (i : Fin 16) => (readV s b)[i]
    let z := fun (i : Fin 16) => (readV s d)[i]
    let single : Instr → (Rnd → FVal → FVal → FVal → FVal × Flags) → Prop := fun ins f =>
      roundedLanesArrive (exec ins s) s d mode 1 (fun i r _ => f32Result r (f r (valF32 (x i)) (valF32 (y i)) (valF32 (z i))))
    let double : Instr → (Rnd → FVal → FVal → FVal → FVal × Flags) → Prop := fun ins f =>
      roundedLanesArrive (exec ins s) s d mode 2 (fun i r1 r2 =>
        let one := fun (r : Rnd) (lo : Nat) => bf16.finish r (f r (bf16.value ((x i).extractLsb' lo 16).toNat)
          (bf16.value ((y i).extractLsb' lo 16).toNat) (bf16.value ((z i).extractLsb' lo 16).toNat))
        (BitVec.ofNat 32 ((one r1 0).1 + 65536 * (one r2 16).1), (one r1 0).2 ||| (one r2 16).2))
    single (.vaddF32 d a b rm) (fun r x y _ => x.add r y) ∧ double (.vaddBf16 d a b rm) (fun r x y _ => x.add r y)
    ∧ single (.vsubF32 d a b rm) (fun r x y _ => x.add r y.neg) ∧ double (.vsubBf16 d a b rm) (fun r x y _ => x.add r y.neg)
    ∧ single (.vmulF32 d a b rm) (fun _ x y _ => x.mul y) ∧ double (.vmulBf16 d a b rm) (fun _ x y _ => x.mul y)
    ∧ single (.vfmaF32 d a b rm) (fun r x y z => x.fma r y z) ∧ double (.vfmaBf16 d a b rm) (fun r x y z => x.fma r y z)
    ∧ single (.vfmsF32 d a b rm) (fun r x y z => x.fma r y z.neg) ∧ double (.vfmsBf16 d a b rm) (fun r x y z => x.fma r y z.neg)
    ∧ single (.vfnmaF32 d a b rm) (fun r x y z => x.neg.fma r y z) ∧ double (.vfnmaBf16 d a b rm) (fun r x y z => x.neg.fma r y z)

/-- R96-R99: the other vector floating-point operations. -/
def Obligations.VectorFloatOther : Prop :=
  ∀ (s : State) (d a b : BitVec 5) (rm : Bool),
    let x := fun (i : Fin 16) => (readV s a)[i]
    let y := fun (i : Fin 16) => (readV s b)[i]
    let part : Word → Nat → Nat := fun w lo => (w.extractLsb' lo 16).toNat
    let mm32 : Bool → Fin 16 → Word := fun mx i => BitVec.ofNat 32 (fp32.minMax mx (x i).toNat (y i).toNat)
    let mm16 : Bool → Fin 16 → Word := fun mx i => BitVec.ofNat 32
      (bf16.minMax mx (part (x i) 0) (part (y i) 0) + 65536 * bf16.minMax mx (part (x i) 16) (part (y i) 16))
    let function : Instr → (Word → Word × Flags) → Prop := fun ins f =>
      roundedLanesArrive (exec ins s) s d 0 1 (fun i _ _ => f (x i))
    (mayIssue anywhere ⟨[srcV a, srcV b], [.v d]⟩ s →
      lanesArrive (exec (.vminF32 d a b) s) s d (mm32 false) ∧ lanesArrive (exec (.vmaxF32 d a b) s) s d (mm32 true)
      ∧ lanesArrive (exec (.vminBf16 d a b) s) s d (mm16 false) ∧ lanesArrive (exec (.vmaxBf16 d a b) s) s d (mm16 true))
    ∧ (mayIssue anywhere ⟨[srcV a], [.v d]⟩ s →
      lanesArrive (exec (.vabsF32 d a) s) s d (fun i => 0#1 ++ (x i).extractLsb' 0 31)
      ∧ lanesArrive (exec (.vnegF32 d a) s) s d (fun i => BitVec.ofBool (!(x i).getLsbD 31) ++ (x i).extractLsb' 0 31)
      ∧ lanesArrive (exec (.vabsBf16 d a) s) s d (fun i => (0#1 ++ (x i).extractLsb' 16 15) ++ (0#1 ++ (x i).extractLsb' 0 15))
      ∧ lanesArrive (exec (.vnegBf16 d a) s) s d (fun i => x i ^^^ 0x80008000)
      ∧ function (.vexp2 d a rm) exp2F32 ∧ function (.vrcp d a rm) rcpF32 ∧ function (.vrsq d a rm) rsqF32
      ∧ function (.vlog2 d a rm) log2F32)

/-- R100: vector integer operations. -/
def Obligations.VectorInteger : Prop :=
  ∀ (s : State) (d a b n : BitVec 5),
    let x := fun (i : Fin 16) => (readV s a)[i]
    let y := fun (i : Fin 16) => (readV s b)[i]
    let two : Instr → (Word → Word → Word) → Prop := fun ins f => lanesArrive (exec ins s) s d (fun i => f (x i) (y i))
    let one : Instr → (Word → Word) → Prop := fun ins f => lanesArrive (exec ins s) s d (fun i => f (x i))
    let clamp : Int → Int → Int → Word := fun lo hi z => BitVec.ofInt 32 (max lo (min z hi))
    (mayIssue anywhere ⟨[srcV a, srcV b], [.v d]⟩ s →
      two (.vaddI32 d a b) (· + ·) ∧ two (.vsubI32 d a b) (· - ·) ∧ two (.vmulI32 d a b) (· * ·)
      ∧ two (.vmulhI32 d a b) (fun p q => BitVec.ofInt 32 (p.toInt * q.toInt / 2 ^ 32))
      ∧ two (.vmulhZ32 d a b) (fun p q => BitVec.ofInt 32 ((p.toNat : Int) * q.toNat / 2 ^ 32))
      ∧ two (.vaddsI32 d a b) (fun p q => clamp (-2 ^ 31) (2 ^ 31 - 1) (p.toInt + q.toInt))
      ∧ two (.vsubsI32 d a b) (fun p q => clamp (-2 ^ 31) (2 ^ 31 - 1) (p.toInt - q.toInt))
      ∧ two (.vaddsZ32 d a b) (fun p q => clamp 0 (2 ^ 32 - 1) ((p.toNat : Int) + q.toNat))
      ∧ two (.vsubsZ32 d a b) (fun p q => clamp 0 (2 ^ 32 - 1) ((p.toNat : Int) - q.toNat))
      ∧ two (.vminI32 d a b) (fun p q => if p.toInt ≤ q.toInt then p else q)
      ∧ two (.vmaxI32 d a b) (fun p q => if p.toInt ≤ q.toInt then q else p)
      ∧ two (.vminZ32 d a b) (fun p q => if p.toNat ≤ q.toNat then p else q)
      ∧ two (.vmaxZ32 d a b) (fun p q => if p.toNat ≤ q.toNat then q else p)
      ∧ two (.vand d a b) (· &&& ·) ∧ two (.vor d a b) (· ||| ·) ∧ two (.vxor d a b) (· ^^^ ·)
      ∧ two (.vandn d a b) (fun p q => p &&& ~~~q)
      ∧ two (.vsll d a b) (fun p q => p <<< (q.toNat % 32)) ∧ two (.vsrl d a b) (fun p q => p >>> (q.toNat % 32))
      ∧ two (.vsra d a b) (fun p q => p.sshiftRight (q.toNat % 32)))
    ∧ (mayIssue anywhere ⟨[srcV a], [.v d]⟩ s →
      one (.vslli d a n) (· <<< n.toNat) ∧ one (.vsrli d a n) (· >>> n.toNat) ∧ one (.vsrai d a n) (·.sshiftRight n.toNat))

/-- R101, R108: compares into masks and mask logic. -/
def Obligations.VectorComparesAndMasks : Prop :=
  ∀ (s : State) (q qa qb : BitVec 3) (d a b : BitVec 5) (cond : BitVec 3), cond.toNat < 6 →
    let x := fun (i : Fin 16) => (readV s a)[i]
    let y := fun (i : Fin 16) => (readV s b)[i]
    let active := fun (i : Fin 16) => (topMask s).getLsbD i
    let holds : Prop → Prop → Prop := fun eq lt =>
      match cond.toNat with
      | 0 => eq
      | 1 => ¬ eq
      | 2 => lt
      | 3 => lt ∨ eq
      | 4 => ¬ lt ∧ ¬ eq
      | _ => ¬ lt
    let late : BitVec 16 → State → Out := fun m t => .next (retire (deliverLater (.mask q m) t))
    let compares : Instr → (Fin 16 → Prop) → Prop := fun ins c =>
      ∃ m, exec ins s = late m (issued s) ∧ ∀ i : Fin 16, m.getLsbD i = true ↔ active i ∧ c i
    let nan := fun (i : Fin 16) => (valF32 (x i)).isNan || (valF32 (y i)).isNan
    (mayIssue anywhere ⟨[srcV a, srcV b], [.q q]⟩ s →
      compares (.vcmpI32 q a b cond) (fun i => holds (x i = y i) ((x i).toInt < (y i).toInt))
      ∧ compares (.vcmpZ32 q a b cond) (fun i => holds (x i = y i) ((x i).toNat < (y i).toNat))
      ∧ ∃ m t, exec (.vcmpF32 q a b cond) s = late m t
        ∧ t = { issued s with core.sys.fpflag := t.core.sys.fpflag }
        ∧ (∀ i : Fin 16, active i → nan i = true → m.getLsbD i = decide (cond = 1))
        ∧ (∀ i : Fin 16, active i = false → m.getLsbD i = false)
        ∧ (∀ i : Fin 16, active i → nan i = false →
          let lt := (valF32 (x i)).lt false (valF32 (y i))
          let gt := (valF32 (y i)).lt false (valF32 (x i))
          m.getLsbD i = match cond.toNat with
            | 0 => !lt && !gt
            | 1 => lt || gt
            | 2 => lt
            | 3 => lt || (!lt && !gt)
            | 4 => gt
            | _ => gt || (!lt && !gt))
        ∧ t.core.sys.fpflag = s.core.sys.fpflag |||
            (if 2 ≤ cond.toNat ∧ ∃ i : Fin 16, active i ∧ nan i = true then flagNV else 0))
    ∧ (mayIssue anywhere ⟨[⟨.q qa, false⟩, ⟨.q qb, false⟩], [.q q]⟩ s →
      exec (.qand q qa qb) s = late (readQ s qa &&& readQ s qb) (issued s)
      ∧ exec (.qor q qa qb) s = late (readQ s qa ||| readQ s qb) (issued s)
      ∧ exec (.qxor q qa qb) s = late (readQ s qa ^^^ readQ s qb) (issued s)
      ∧ exec (.qandn q qa qb) s = late (readQ s qa &&& ~~~readQ s qb) (issued s))
    ∧ (mayIssue anywhere ⟨[⟨.q qa, false⟩], [.q q]⟩ s → exec (.qnot q qa) s = late (~~~readQ s qa) (issued s))
    ∧ (mayIssue anywhere ⟨[], [.q q]⟩ s → exec (.qtop q) s = late (topMask s) (issued s))
    ∧ (mayIssue anywhere ⟨[srcS a], [.q q]⟩ s → exec (.s2q q a) s = late ((readS s a).setWidth 16) (issued s))
    ∧ (mayIssue anywhere ⟨[⟨.q qa, false⟩], [.s d]⟩ s →
      exec (.q2s d qa) s = .next (retire (deliverLater (.scalar d ((readQ s qa).setWidth 64)) (issued s))))

/-- R102, R103: vector conversions. -/
def Obligations.VectorConversions : Prop :=
  ∀ (s : State) (d a b : BitVec 5) (rm k : BitVec 3) (j rd : BitVec 2) (sat : Bool),
    let mode : BitVec 3 := if rm = 0 then s.core.sys.fpctl.setWidth 3 else rm - 1
    let x := fun (i : Fin 16) => (readV s a)[i]
    let y := fun (i : Fin 16) => (readV s b)[i]
    let z := fun (i : Fin 16) => (readV s d)[i]
    let pair : Instr → Fmt → Prop := fun ins f => roundedLanesArrive (exec ins s) s d mode 2 (fun i r1 r2 =>
      let lo := f.narrow sat r1 (valF32 (x i))
      let hi := f.narrow sat r2 (valF32 (y i))
      (BitVec.ofNat 32 (lo.1 + 65536 * hi.1), lo.2 ||| hi.2))
    let part : Instr → Fmt → Nat → Nat → Prop := fun ins f lo n => roundedLanesArrive (exec ins s) s d mode 1 (fun i r _ =>
      let c := f.narrow sat r (valF32 (x i))
      (putBits (z i) lo n c.1, c.2))
    let wide : Instr → Fmt → Nat → Nat → Prop := fun ins f lo n => lanesArrive (exec ins s) s d (fun i =>
      (roundFp32 .rne (f.value ((x i).toNat / 2 ^ lo % 2 ^ n))).1)
    let toInt : Instr → Int → Int → Prop := fun ins lo hi => roundedLanesArrive (exec ins s) s d mode 1 (fun i r _ =>
      (BitVec.ofInt 32 ((valF32 (x i)).toInt r lo hi).1, ((valF32 (x i)).toInt r lo hi).2))
    let ofInt : Instr → (Word → Int) → Prop := fun ins f =>
      roundedLanesArrive (exec ins s) s d mode 1 (fun i r _ => roundFp32 r (FVal.ofInt (f (x i))))
    (mayIssue anywhere ⟨[srcV a, srcV b], [.v d]⟩ s → pair (.vcvtBf16F32 d a b rm sat) bf16 ∧ pair (.vcvtF16F32 d a b rm sat) fp16)
    ∧ (mayIssue anywhere ⟨[srcV a], [.v d]⟩ s →
      wide (.vcvtF32Bf16Lo d a) bf16 0 16 ∧ wide (.vcvtF32Bf16Hi d a) bf16 16 16
      ∧ wide (.vcvtF32F16Lo d a) fp16 0 16 ∧ wide (.vcvtF32F16Hi d a) fp16 16 16
      ∧ part (.vcvtE4m3F32 d a j rm sat rd) (e4m3 (readingOf rd)) (8 * j.toNat) 8
      ∧ part (.vcvtE5m2F32 d a j rm sat rd) (e5m2 (readingOf rd)) (8 * j.toNat) 8
      ∧ part (.vcvtE2m1F32 d a k rm sat rd) (e2m1 (readingOf rd)) (4 * k.toNat) 4
      ∧ wide (.vcvtF32E4m3 d a j rd) (e4m3 (readingOf rd)) (8 * j.toNat) 8
      ∧ wide (.vcvtF32E5m2 d a j rd) (e5m2 (readingOf rd)) (8 * j.toNat) 8
      ∧ wide (.vcvtF32E2m1 d a k rd) (e2m1 (readingOf rd)) (4 * k.toNat) 4
      ∧ toInt (.vcvtI32F32 d a rm) (-2 ^ 31) (2 ^ 31 - 1) ∧ toInt (.vcvtZ32F32 d a rm) 0 (2 ^ 32 - 1)
      ∧ ofInt (.vcvtF32I32 d a rm) BitVec.toInt ∧ ofInt (.vcvtF32Z32 d a rm) (fun w => w.toNat))

/-- R104-R106: block operations. That a block scale of 0xFF leaves the rounding states alone is log entry 31. -/
def Obligations.VectorBlocks : Prop :=
  ∀ (s : State) (d a b : BitVec 5) (rm : BitVec 3) (fmt rd p : BitVec 2) (pHi pLo h : Bool),
    mayIssue anywhere ⟨[srcV a, srcV b], [.v d]⟩ s →
    let mode : BitVec 3 := if rm = 0 then s.core.sys.fpctl.setWidth 3 else rm - 1
    let words := (readV s a).toList ++ (readV s b).toList
    let f := narrowFmt fmt (readingOf rd)
    let small := decide (fmt = 2)
    let n := if small then 4 else 8
    let at_ := n * (2 * pHi.toNat + pLo.toNat)
    let scale := (readV s b)[p.toNat].setWidth 8
    let special := ((readV s b)[p.toNat] >>> 8).setWidth 8
    let codes := packCodes s mode f small words
    lanesArrive (exec (.vbscale d a b fmt rd) s) s d (fun _ => (blockScale f (words.map valF32)).setWidth 32)
    ∧ lanesArrive (exec (.vbamax d a b) s) s d (fun _ => blockAmax words)
    ∧ (∃ (v : VReg) (t : State), exec (.vbpack d a b rm pHi fmt rd pLo) s = .next (retire (deliverLater (.vector d v) t))
      ∧ (∀ i : Fin 16, v[i] = if at_ ≤ i.val ∧ i.val < at_ + n then packedLane small codes.1 (i - at_) else (readV s d)[i])
      ∧ t = { issued s with core.sys.fpflag := s.core.sys.fpflag ||| codes.2, core.sys.laneRsr := t.core.sys.laneRsr }
      ∧ ∀ i : Fin 16, t.core.sys.laneRsr[i]
        = if mode = 4 then rsrNext (rsrNext s.core.sys.laneRsr[i]) else s.core.sys.laneRsr[i])
    ∧ roundedLanesArrive (exec (.vbunpk d a b rm fmt rd p h) s) s d (if scale = 0xFF then 0 else mode) 1 (fun i r _ =>
        roundFp32 r (blockValue f small scale (some special) (unpackCode small (readV s a) p.toNat ((if h then 16 else 0) + i))))

/-- R107: lane reductions. -/
def Obligations.LaneReductions : Prop :=
  ∀ (s : State) (d a : BitVec 5) (rm : BitVec 3), mayIssue anywhere ⟨[srcV a], [.v d]⟩ s →
    let mode : BitVec 3 := if rm = 0 then s.core.sys.fpctl.setWidth 3 else rm - 1
    let rnd := (Rnd.ofBits mode 0).noRsr
    let inputs : Word → (Word → Word) → Nat → Word := fun ident pre i =>
      if (topMask s).getLsbD i then pre (lane (readV s a) i) else ident
    let tree : ∀ {α : Type}, (α → α → α) → (Nat → α) → α := fun f x =>
      f (f (f (f (x 0) (x 1)) (f (x 2) (x 3))) (f (f (x 4) (x 5)) (f (x 6) (x 7))))
        (f (f (f (x 8) (x 9)) (f (x 10) (x 11))) (f (f (x 12) (x 13)) (f (x 14) (x 15))))
    let into0 : Instr → Word → State → Prop := fun ins w t => ∃ v : VReg, v[0] = w
      ∧ (∀ i : Fin 16, i ≠ 0 → v[i] = (readV s d)[i]) ∧ exec ins s = .next (retire (deliverLater (.vector d v) t))
    let plain : Instr → Word → (Word → Word) → (Word → Word → Word) → Prop := fun ins ident pre f =>
      into0 ins (tree f (inputs ident pre)) (raiseFlags 0 (issued s))
    let node : Word × Flags → Word × Flags → Word × Flags := fun p q =>
      let r := f32Result rnd ((valF32 p.1).add rnd (valF32 q.1))
      (r.1, p.2 ||| q.2 ||| r.2)
    let sum := tree node (fun i => (inputs 0x80000000 id i, 0))
    into0 (.vraddF32 d a rm) sum.1 { issued s with core.sys.fpflag := s.core.sys.fpflag ||| sum.2 }
    ∧ plain (.vrmaxF32 d a) 0xFF800000 id (fun x y => BitVec.ofNat 32 (fp32.minMax true x.toNat y.toNat))
    ∧ plain (.vrminF32 d a) 0x7F800000 id (fun x y => BitVec.ofNat 32 (fp32.minMax false x.toNat y.toNat))
    ∧ plain (.vramaxF32 d a) 0 (fun x => 0#1 ++ x.extractLsb' 0 31)
        (fun x y => BitVec.ofNat 32 (fp32.minMax true x.toNat y.toNat))
    ∧ plain (.vraddI32 d a) 0 id (· + ·)
    ∧ plain (.vrmaxI32 d a) 0x80000000 id (fun x y => if x.toInt < y.toInt then y else x)
    ∧ plain (.vrminI32 d a) 0x7FFFFFFF id (fun x y => if y.toInt < x.toInt then y else x)

/-- R108: permutes and moves. -/
def Obligations.PermutesAndMoves : Prop :=
  ∀ (s : State) (d a b n : BitVec 5), n.toNat < 16 →
    let x := fun (i : Nat) => lane (readV s a) i
    let y := fun (i : Nat) => lane (readV s b) i
    (mayIssue anywhere ⟨[srcV a, srcV b], [.v d]⟩ s →
      lanesArrive (exec (.vperm d a b) s) s d (fun i => x ((y i).toNat % 16))
      ∧ lanesArrive (exec (.vzipl d a b) s) s d (fun i => if i.val % 2 = 0 then x (i / 2) else y (i / 2))
      ∧ lanesArrive (exec (.vziph d a b) s) s d (fun i => if i.val % 2 = 0 then x (8 + i / 2) else y (8 + i / 2)))
    ∧ (mayIssue anywhere ⟨[srcV a], [.v d]⟩ s →
      lanesArrive (exec (.vrot d a n) s) s d (fun i => x ((i + n.toNat) % 16))
      ∧ lanesArrive (exec (.vmov d a) s) s d (fun i => x i))
    ∧ (mayIssue anywhere ⟨[srcS a], [.v d]⟩ s →
      lanesArrive (exec (.vbcast d a) s) s d (fun _ => (readS s a).setWidth 32)
      ∧ ∃ v : VReg, exec (.vins d a n) s = .next (retire (deliverLater (.vector d v) (issued s)))
        ∧ ∀ i : Fin 16, v[i] = if i.val = n.toNat then (readS s a).setWidth 32 else (readV s d)[i])
    ∧ (mayIssue anywhere ⟨[srcV a], [.s d]⟩ s →
      exec (.vext d a n) s = .next (retire (deliverLater (.scalar d ((x n.toNat).signExtend 64)) (issued s)))
      ∧ exec (.vextz d a n) s = .next (retire (deliverLater (.scalar d ((x n.toNat).setWidth 64)) (issued s))))

/-- R12, R94, R95: the mask stack. -/
def Obligations.MaskStack : Prop :=
  ∀ (s : State) (q : BitVec 3) (len : BitVec 12),
    let depth := s.core.regs.depth.toNat
    let top := topMask s
    let stack : State → Nat → BitVec 16 := fun t k => vgetD t.core.regs.stack k 0
    let pc := s.core.seq.pc.toNat
    let inside : Prop := pc + len.toNat ≤ 4095 ∧ (s.core.seq.mode = .program → pc + len.toNat < 3584)
    let clear : Prop := ∀ l ∈ s.core.seq.loops.toList, l.active → ¬ (pc < l.stop.toNat ∧ l.stop.toNat ≤ pc + len.toNat)
    let only : State → Prop := fun t =>
      t = { issued s with core.regs.stack := t.core.regs.stack, core.regs.depth := t.core.regs.depth }
    (mayIssue anywhere ⟨[⟨.q q, false⟩], []⟩ s →
      (depth < 16 → ∃ t, exec (.mpush q) s = .next (retire t) ∧ only t ∧ t.core.regs.depth.toNat = depth + 1
        ∧ topMask t = top &&& readQ s q ∧ ∀ k, k ≠ depth → stack t k = stack s k)
      ∧ (16 ≤ depth → exec (.mpush q) s = illegal (wordMpush q) s))
    ∧ (mayIssue anywhere {} s →
      (0 < depth → depth ≤ 16 →
        (∃ t, exec .minv s = .next (retire t) ∧ only t ∧ t.core.regs.depth = s.core.regs.depth
          ∧ topMask t = (if depth = 1 then 0xFFFF else stack s (depth - 2)) &&& ~~~top
          ∧ ∀ k, k ≠ depth - 1 → stack t k = stack s k)
        ∧ ∃ t, exec .mpop s = .next (retire t) ∧ only t ∧ t.core.regs.stack = s.core.regs.stack
          ∧ t.core.regs.depth.toNat = depth - 1)
      ∧ (depth = 0 → exec .minv s = illegal wordMinv s ∧ exec .mpop s = illegal wordMpop s))
    ∧ (mayIssue { inMacro := false, endWord := false } {} s →
      (inside → clear → exec (.brmz len) s
        = .next (if top = 0 then retireTo (pc + len.toNat + 1) (issued s) else retire (issued s)))
      ∧ (¬ inside ∨ ¬ clear → exec (.brmz len) s = illegal (wordBrmz len) s))

/-- R111-R114 and the descriptions of the commands: issue of the engine commands. What the rules of each command accept beyond the words of
its description is the model's reading (log entries 55 and 70), and so is what makes a word of a bank offending, and its number (log
entries 36 and 77). -/
def Obligations.EngineCommands : Prop :=
  ∀ (s : State) (sig wa wb wc sp : BitVec 5), mayIssue anywhere ⟨[srcS sp, srcS (sp + 1), srcS (sp + 2), srcS (sp + 3)], []⟩ s →
    let p : Vector DWord 4 := #v[readS s sp, readS s (sp + 1), readS s (sp + 2), readS s (sp + 3)]
    let enters : Instr → CmdSpec → Nat → BitVec 2 → Prop := fun ins c q active =>
      ((c.rules s p).bad = none → (queueOf s q).tail - (queueOf s q).head ≠ 16 → slotStall s sig = false →
        ∃ (t : State) (x : Command), exec ins s = .next (retire t)
          ∧ t = { issued s with core.eng := { s.core.eng with queues := t.core.eng.queues, slots := t.core.eng.slots,
                                                              cmdId := s.core.eng.cmdId + 1 },
                                core.grid.activeBank := active }
          ∧ vgetD (queueOf t q).slots ((queueOf s q).tail.toNat % 16) none = some x
          ∧ (queueOf t q).tail = (queueOf s q).tail + 1 ∧ (queueOf t q).head = (queueOf s q).head
          ∧ (∀ r, r ≠ q → queueOf t r = queueOf s r)
          ∧ x.op = c.op ∧ x.sig = sig ∧ x.params = p
          ∧ x.waits = ([wa, wb, wc].filter (· ≠ 31)).map (fun k => (k, (slotOf s k).iss))
          ∧ (∀ k : BitVec 5, k ≠ sig ∨ k = 31 → slotOf t k = slotOf s k)
          ∧ (sig ≠ 31 → slotOf t sig = { slotOf s sig with
              iss := (slotOf s sig).iss + 1, pending := (slotOf s sig).pending ++ [⟨x.id, false⟩], last := x.id, pv := false,
              prom := 0, late := false, err := false, wide := (slotOf t sig).wide }))
      ∧ ((c.rules s p).bad = none → (queueOf s q).tail - (queueOf s q).head = 16 ∨ slotStall s sig = true →
        exec ins s = waitOn .internal (issued s))
      ∧ (∀ i, (c.rules s p).bad = some i → exec ins s = trap .command (BitVec.ofNat 64 i) (issued s))
    let now := s.core.grid.activeBank
    let bank := p[0].setWidth 2
    enters (.srun sig wa wb wc sp) srunSpec (p[3].toNat % 4) now
    ∧ (s.core.grid.shadowBank ≠ now → enters (.gldc sig wa wb wc sp) gldcSpec 4 now)
    ∧ (s.core.grid.shadowBank = now → exec (.gldc sig wa wb wc sp) s = illegal (wordGldc sig wa wb wc sp) s)
    ∧ ((∀ x ∈ queued s 4, x.op ≠ .gldc) → offending s bank = none → enters (.ggo sig wa wb wc sp) ggoSpec 4 bank)
    ∧ ((ggoSpec.rules s p).bad = none → (∃ x ∈ queued s 4, x.op = .gldc) → exec (.ggo sig wa wb wc sp) s = waitOn .external (issued s))
    ∧ (∀ n, (ggoSpec.rules s p).bad = none → (∀ x ∈ queued s 4, x.op ≠ .gldc) → offending s bank = some n →
      exec (.ggo sig wa wb wc sp) s = trap .illegal (BitVec.ofNat 64 (n / 4 + 64 * (n % 4))) (issued s))
    ∧ enters (.gmma sig wa wb wc sp) gmmaSpec 4 now
    ∧ enters (.copy sig wa wb wc sp) copySpec 5 now ∧ enters (.copy2d sig wa wb wc sp) copy2dSpec 5 now
    ∧ enters (.send sig wa wb wc sp) sendSpec 5 now
    ∧ enters (.lbind sig wa wb wc sp) lbindSpec 5 now ∧ enters (.lunbind sig wa wb wc sp) lbindSpec 5 now
    ∧ enters (.copen sig wa wb wc sp) copenSpec 5 now ∧ enters (.cstream sig wa wb wc sp) cstreamSpec 5 now

/-- R116, R123, R124: the sequencer's grid and token instructions. -/
def Obligations.GridAndTokens : Prop :=
  ∀ (s : State) (n : BitVec 2) (lvl d3 : BitVec 3) (a d : BitVec 5) (fa : Bool),
    let g := s.core.grid
    (mayIssue anywhere {} s →
      (n ≠ g.activeBank → exec (.gsel n) s = .next (retire { issued s with core.grid.shadowBank := n }))
      ∧ (n = g.activeBank → exec (.gsel n) s = illegal (wordGsel n) s)
      ∧ (gridExecuting s = false → exec .gstop s = .next (retire (issued s)))
      ∧ (∀ r, gridExecuting s = true → g.run = some r → ∃ t u, exec .gstop s = .next (retire t) ∧ t.core.grid.run = some u
        ∧ t = { issued s with core.eng.exec := t.core.eng.exec, core.eng.streams := t.core.eng.streams,
                              core.grid.run := some u, core.grid.feed := t.core.grid.feed }
        ∧ u = { r with trip := min r.trip r.st.step, last := r.last - (r.trip - min r.trip r.st.step), stopping := true })
      ∧ (∀ m, gridExecuting s = true → g.run = none → g.gmma = some m →
        exec .gstop s = .next (retire { issued s with core.grid.gmma := some { m with stopping := true } }))
      ∧ (∀ r, gridExecuting s = true → g.run = none → g.gmma = none → execOf s 4 = some r → ∃ t, exec .gstop s = .next (retire t)
        ∧ t = { issued s with core.eng.exec := t.core.eng.exec } ∧ execOf t 4 = some { r with stopping := true }
        ∧ ∀ q, q ≠ 4 → execOf t q = execOf s q)
      ∧ (∀ b rest, g.pq = b :: rest → ∃ t, exec (.pqpop d3) s = .next (retire t)
        ∧ t = { issued s with core.regs.p := t.core.regs.p, core.grid := {
            g with pq := rest, feedGrants := t.core.grid.feedGrants, outGrants := t.core.grid.outGrants,
                   pqGrants := t.core.grid.pqGrants } }
        ∧ ∀ p, readP t p = if p = d3 ∧ p ≠ 0 then b else readP s p)
      ∧ (g.pq = [] → exec (.pqpop d3) s = waitOn .internal (issued s))
      ∧ (a ≠ 31 → ((slotOf s a).cmp - (slotOf s a).iss).toNat < 2 ^ 15 → exec (.kwait a) s = .next (retire (issued s)))
      ∧ exec (.kwait 31) s = .next (retire (issued s))
      ∧ (a ≠ 31 → 2 ^ 15 ≤ ((slotOf s a).cmp - (slotOf s a).iss).toNat → exec (.kwait a) s = waitOn .internal (issued s)))
    ∧ (mayIssue anywhere ⟨[srcS a fa], []⟩ s →
      let named : Prop := n ≠ g.activeBank ∧ lvl.toNat < 6
      (¬ named → exec (.snest n a lvl fa) s = illegal (wordSnest n a lvl fa) s)
      ∧ (named → nestBusy s n = false → ∃ t, exec (.snest n a lvl fa) s = .next (retire t)
        ∧ t = { issued s with core.grid.banks := t.core.grid.banks }
        ∧ (∀ b, b ≠ n → vget t.core.grid.banks b = vget s.core.grid.banks b)
        ∧ ((cellsWfFrom 0 none (vget s.core.grid.banks n) = true) → ∀ k,
          cellsGet 0 (vget t.core.grid.banks n) k =
            if 0x800 + 4 * lvl.toNat ≤ k ∧ k < 0x804 + 4 * lvl.toNat
              then (readS s a).extractLsb' (8 * (k - (0x800 + 4 * lvl.toNat))) 8
              else cellsGet 0 (vget s.core.grid.banks n) k))
      ∧ (named → nestBusy s n = true → exec (.snest n a lvl fa) s = waitOn .external (issued s)))
    ∧ (mayIssue anywhere ⟨[⟨.v a, fa⟩], []⟩ s →
      (g.feed.length < feedCap s → ∃ x : TokenData, exec (.gfeed a fa) s
          = .next (retire { issued s with core.grid.feed := g.feed ++ [x] })
        ∧ ∀ i : Fin 8, x.extractLsb' (32 * i) 32 = lane (readV s a) i)
      ∧ (feedCap s ≤ g.feed.length → exec (.gfeed a fa) s = waitOn .internal (issued s)))
    ∧ (mayIssue anywhere ⟨[], [.v d]⟩ s → ∃ t, exec (.gpop d) s = .next (retire t)
      ∧ t = { issued s with core.regs.vEmpty := t.core.regs.vEmpty, core.mq.gpops := s.core.mq.gpops ++ [d] }
      ∧ ∀ r, vIsEmpty t r = (vIsEmpty s r || r == d))
    ∧ (mayIssue anywhere ⟨[], [.s d]⟩ s →
      exec (.gbank d) s = .next (retire (writeS d (BitVec.ofNat 64 (g.activeBank.toNat + 4 * g.shadowBank.toNat)) (issued s))))

/-- R137-R139, R165: buffers. -/
def Obligations.Buffers : Prop :=
  ∀ (s : State) (n a b : BitVec 5) (fa fb : Bool) (st : BitVec 2),
    let x := bufOf s n.toNat
    let kept : State → Prop := fun t => t.core.pool.cells = s.core.pool.cells
      ∧ t = { issued s with core.pool := t.core.pool }
      ∧ t.core.pool = { s.core.pool with bufs := t.core.pool.bufs, placed := t.core.pool.placed, unchecked := t.core.pool.unchecked }
      ∧ (∀ w, ¬ (w ∈ s.core.pool.placed ↔ w ∈ t.core.pool.placed) → (bufOf t n.toNat).base ≤ w ∧ w < (bufOf t n.toNat).base + (bufOf t n.toNat).size)
      ∧ (∀ m, m ≠ n.toNat → bufOf t m = bufOf s m)
    let words : Buffer → Nat → Prop := fun y w => y.base ≤ w ∧ w < y.base + y.size
    (mayIssue anywhere ⟨[srcS a fa, srcS b fb], []⟩ s →
      let base := (readS s a).toNat
      let size := (readS s b).toNat % 2 ^ 17
      let full : Prop := (readS s b).toNat / 2 ^ 17 % 4 = 2
      (bufdefCheck s n.toNat (readS s a) (readS s b) = none →
        ∃ t, exec (.bufdef n a b fa fb) s = .next (retire t) ∧ kept t
          ∧ (bufOf t n.toNat).declared = true ∧ (bufOf t n.toNat).base = base ∧ (bufOf t n.toNat).size = size
          ∧ (full → (bufOf t n.toNat).state = .full ∧ ∀ k < size / 4, base + 4 * k ∈ t.core.pool.placed)
          ∧ (¬ full → (bufOf t n.toNat).state = .empty
            ∧ ∀ w ∈ t.core.pool.placed, ¬ words (bufOf t n.toNat) w))
      ∧ ∀ c y, bufdefCheck s n.toNat (readS s a) (readS s b) = some (c, y) →
        exec (.bufdef n a b fa fb) s = trap c y (issued s))
    ∧ (mayIssue anywhere {} s →
      (x.declared = true → x.state = .full → ∃ t, exec (.bufrel n) s = .next (retire t) ∧ kept t
        ∧ bufOf t n.toNat = { x with state := .empty, readers := 0, remoteWriter := false }
        ∧ ∀ w ∈ t.core.pool.placed, ¬ words x w)
      ∧ (¬ (x.declared = true ∧ x.state = .full) → exec (.bufrel n) s = trap .buffer (n.setWidth 64) (issued s))
      ∧ (x.declared = true → x.state = .full ∨ x.state = .empty → ∃ t, exec (.bufrelFree n) s = .next (retire t) ∧ kept t
        ∧ bufOf t n.toNat = Buffer.none ∧ t.core.pool.placed = s.core.pool.placed)
      ∧ (¬ (x.declared = true ∧ (x.state = .full ∨ x.state = .empty)) →
        exec (.bufrelFree n) s = trap .buffer (n.setWidth 64) (issued s))
      ∧ (x.declared = true → x.state.code = st → exec (.bufwait n st) s = .next (retire (issued s)))
      ∧ (x.declared = true → x.state.code ≠ st → ∃ k, exec (.bufwait n st) s = waitOn k (issued s))
      ∧ (x.declared = false → exec (.bufwait n st) s = trap .buffer (n.setWidth 64) (issued s)))

/-- R16, R49, R84, R110, R123, R199: results reach their registers. -/
def Obligations.ResultsArrive : Prop :=
  ∀ (s : State) (i : Nat),
    let scalar : Out → BitVec 5 → DWord → State → Bool → Prop := fun o d x u clear =>
      ∃ t, o = .next t ∧ t = { u with core.regs.s := t.core.regs.s, core.regs.sEmpty := t.core.regs.sEmpty }
        ∧ (∀ r, readS t r = if r = d ∧ d ≠ 0 then x else readS s r)
        ∧ ∀ r, sIsEmpty t r = (!(clear && r == d) && sIsEmpty s r)
    let vector : Out → BitVec 5 → VReg → State → Bool → Prop := fun o d x u clear =>
      ∃ t, o = .next t ∧ t = { u with core.regs.v := t.core.regs.v, core.regs.vEmpty := t.core.regs.vEmpty }
        ∧ (∀ r, readV t r = if r = d then x else readV s r)
        ∧ ∀ r, vIsEmpty t r = (!(clear && r == d) && vIsEmpty s r)
    let byKind : BitVec 3 → (Nat → Byte) → DWord := fun kind x =>
      if kind = 0 then (x 0).signExtend 64
      else if kind = 1 then (x 1 ++ x 0).signExtend 64
      else if kind = 2 then (x 3 ++ x 2 ++ x 1 ++ x 0).signExtend 64
      else if kind = 3 then x 7 ++ x 6 ++ x 5 ++ x 4 ++ x 3 ++ x 2 ++ x 1 ++ x 0
      else if kind = 4 then (x 0).setWidth 64
      else if kind = 5 then (x 1 ++ x 0).setWidth 64
      else (x 3 ++ x 2 ++ x 1 ++ x 0).setWidth 64
    let late : State := { s with core.regs.latent := s.core.regs.latent.eraseIdx i }
    (∀ kind bs, kind ≠ 7 → bs.length = 2 ^ (kind.toNat % 4) → loadValue kind bs = byKind kind (fun k => bs.getD k 0))
    ∧ (∀ d x, s.core.regs.latent[i]? = some (.scalar d x) → scalar (exec (.latencyResultDelivery i) s) d x late false)
    ∧ (∀ d x, s.core.regs.latent[i]? = some (.vector d x) → vector (exec (.latencyResultDelivery i) s) d x late false)
    ∧ (∀ d x, s.core.regs.latent[i]? = some (.mask d x) → ∃ t, exec (.latencyResultDelivery i) s = .next t
      ∧ t = { late with core.regs.q := t.core.regs.q } ∧ ∀ r, readQ t r = if r = d ∧ d ≠ 0 then x else readQ s r)
    ∧ (∀ l bs, s.core.mq.loads[i]? = some l → l.data = some bs →
      let gone : State := { s with core.mq.loads := s.core.mq.loads.eraseIdx i }
      (∀ d kind, l.dest = .scalar d kind → scalar (exec (.gldDataReturn i false) s) d (loadValue kind bs) gone true)
      ∧ (∀ d m, l.dest = .vector d m → vector (exec (.gldDataReturn i false) s) d (loadLanes m (readV s d) bs) gone true)
      ∧ (l.dest = .discard → exec (.gldDataReturn i false) s = .next gone))
    ∧ (∀ l, s.core.mq.loads[i]? = some l → ∃ t, exec (.gldDataReturn i true) s = .next t
      ∧ t = { s with sched.launches := t.sched.launches, sched.halls := t.sched.halls }
      ∧ (∀ x ∈ s.sched.launches, x.id = s.core.launch → launchOf s s.core.launch = x → abortable x →
        (launchOf t s.core.launch).phase = .doomed
        ∧ ∃ r, (launchOf t s.core.launch).abort = some r ∧ r.cause = 6 ∧ r.addr = BitVec.ofNat 64 l.va))
    ∧ (∀ r x, s.core.mq.results[i]? = some r → r.result = some x →
      scalar (exec (.atomicResultReturn i) s) r.d x { s with core.mq.results := s.core.mq.results.eraseIdx i } false)
    ∧ (∀ r, s.core.mq.status[i]? = some r → scalar (exec (.engineStatusFill i) s) (statusValue s r).1 (statusValue s r).2
      { s with core.mq.status := s.core.mq.status.eraseIdx i } true)
    ∧ (∀ d ds k ks, s.core.mq.status[i]? = none → s.core.mq.gpops = d :: ds → s.core.grid.outq = k :: ks →
      vector (exec (.engineStatusFill i) s) d (vregOf (fun j => if j < 8 then k.extractLsb' (32 * j) 32 else 0))
        (settleQueues { s with core.mq.gpops := ds, core.grid.outq := ks }) true)

/-- R41, R87, R117, R142, R215, R248, R262, R269, R275, R277: what happens at and between boundaries. That the engine
fields of `TSTAT` are 0 after a trap that is no engine fault is the model's reading (log entry 20). -/
def Obligations.BoundaryEvents : Prop :=
  ∀ (s : State),
    let traps : Out → DWord → DWord → DWord → State → Prop := fun o cause addr stat u =>
      ∃ t, o = .next t ∧ t.core.sys.tcause = cause ∧ t.core.sys.taddr = addr ∧ t.core.sys.tstat = stat
        ∧ t.core.sys.tpc = trapPc s ∧ t.core.seq.mode = .handler ∧ t.core.seq.pc = s.core.sys.tvec ∧ t.core.regs = s.core.regs
        ∧ t.core.pool = s.core.pool ∧ t.homes = s.homes ∧ t = u
    (s.core.seq.mode = .program →
      (s.core.seq.run = .running →
        (∀ f rest, s.core.eng.faults = f :: rest →
          traps (exec .engineFault s) 0x121 f.addr (faultStat f)
            { takeTrap .engine f.addr (faultStat f) s with core.eng.faults := rest })
        ∧ (∀ k rest, s.core.eng.lateCopies = k :: rest →
          traps (exec .lateCopyTrap s) 0x122 (k.setWidth 64) 0
            { takeTrap .lateCopy (k.setWidth 64) 0 s with core.eng.lateCopies := rest })
        ∧ (s.core.seq.stepFired = true →
          traps (exec (.stepTrap false) s) 0x11A 0 0
            { takeTrap .step 0 0 s with core.seq.stepInst := false, core.seq.stepFired := false })
        ∧ (s.core.seq.gridStepFired = true →
          traps (exec (.stepTrap true) s) 0x11A 1 0
            { takeTrap .step 1 0 s with core.seq.stepGrid := false, core.seq.gridStepFired := false }))
      ∧ ∀ w : Word, traps (exec (.illegalInstruction w) s) 0x08 (w.setWidth 64) 0 (takeTrap .illegal (w.setWidth 64) 0 s))
    ∧ (∀ a fa, s.core.seq.run = .running → s.core.seq.wait = some .external → s.core.seq.macroRun = false →
      wordAtPc s = wordSleept a fa →
      mayIssue { inMacro := false, endWord := false } ⟨[srcS a fa], []⟩ s → (readS s a).toNat ≤ (counterOf s s.core.id).toNat → exec .sleeptWake s = .next (retire (issued s)))
    ∧ (∀ h c, ((handleOf s h).st = 2 ∨ (handleOf s h).st = 3) → (handleOf s h).leaseEnd.toNat ≤ (counterOf s s.core.id).toNat →
      ownCircuit s h = some c → c.promoted = false → circuitOf s c.id = some c →
      ∃ t, exec (.leaseExpiry h) s = .next t ∧ (handleOf t h).st = 4 ∧ (handleOf t h).cause = 0
        ∧ (∀ x ∈ t.net.circuits, x.id ≠ c.id) ∧ t.core.regs = s.core.regs ∧ t.homes = s.homes
        ∧ (c.receiver ≠ s.core.id → t = { s with core.port := t.core.port, core.eng.exec := t.core.eng.exec,
                                                 net.circuits := s.net.circuits.filter (fun x => x.id != c.id),
                                                 net.beats := s.net.beats.filter (fun b => b.circuit != c.id) }))
    ∧ (∀ h, ((handleOf s h).st = 2 ∨ (handleOf s h).st = 3) → (handleOf s h).leaseEnd.toNat ≤ (counterOf s s.core.id).toNat →
      ownCircuit s h = none → exec (.leaseExpiry h) s
        = .next (setHandle h { handleOf s h with st := 4, cause := 0, cutAt := s.core.eng.cmdId } s))
    ∧ (∀ t, drained s → (exitPush s = (t, true) →
        ∃ u, exec (.coreDone s.core.launch s.core.ord.toNat) s = .next u ∧ u.core.seq.run = .done
          ∧ u = memberDone s.core.launch t.core.sec t.core.ord (releaseAll { t with core.seq.run := .done })
          ∧ (∀ m ∈ (launchOf u s.core.launch).members, m.sec = t.core.sec → m.ord = t.core.ord → m.state = .done)
          ∧ ∀ x ∈ u.sched.slots, x.launch = s.core.launch → x.sec = t.core.sec → x.ord = t.core.ord → x.state = .done)
      ∧ (exitPush s = (t, false) → exec (.coreDone s.core.launch s.core.ord.toNat) s = .next t))
    ∧ (∀ launch ord m, (launch ≠ s.core.launch ∨ ord ≠ s.core.ord.toNat) →
      (launchOf s launch).members.find? (fun m => m.ord.toNat == ord && (m.state == .running || m.state == .exited)
        && m.place != s.core.id) = some m →
      ∃ u, exec (.coreDone launch ord) s = .next u
        ∧ (∀ c ∈ u.net.circuits, c ∈ s.net.circuits ∧ c.sender ≠ m.place)
        ∧ u.core.regs = s.core.regs ∧ (∀ k, poolByte u k = poolByte s k) ∧ u.homes = s.homes
        ∧ u.sched = { s.sched with launches := u.sched.launches, slots := u.sched.slots }
        ∧ ((∀ c ∈ s.net.circuits, ∀ y ∈ (launchOf s launch).members, y.sec = m.sec → y.ord = m.ord → y.place = c.sender →
            y.place = s.core.id) →
          u = { s with sched.launches := u.sched.launches, sched.slots := u.sched.slots })
        ∧ ∀ x ∈ (launchOf u launch).members, x.sec = m.sec → x.ord = m.ord → x.state = .done)
    ∧ (∀ i l sec n v, s.sched.semAdds[i]? = some (l, sec, n, v) →
      ∃ t, exec (.semaphoreAdd i) s = .next t
        ∧ t = { s with sched.semAdds := s.sched.semAdds.eraseIdx i, sched.sems := t.sched.sems, core.seq.semCap := t.core.seq.semCap }
        ∧ (∀ k v y, s.core.seq.semCap = some (k, v, y) → t.core.seq.semCap
          = some (k, v, y || decide ((semValue t s.core.launch s.core.sec k - v).toNat < 2 ^ 31)))
        ∧ (s.core.seq.semCap = none → t.core.seq.semCap = none)
        ∧ ∀ l' sec' n', semValue t l' sec' n' = if l' = l ∧ sec' = sec ∧ n' = n then semValue s l sec n + v else semValue s l' sec' n')
    ∧ ∀ i, exec (.cxlWriteCompletion i) s = .next { s with sched.host.cxl := s.sched.host.cxl.eraseIdx i }

/-- R114-R135, R141, R170, R171, R313, R327: the engines at work. The model's own choices: what another unit does is an event of the step
(log entry 14), sinks and steps keep order as log entry 41 says, the scope of a completion is that of log entry 69, a fresh page a free choice
(8), a label bound at a core the model does not hold free (13), a pre-emption bit cleared as R30's restart. -/
def Obligations.EnginesAtWork : Prop :=
  ∀ (s : State), engineLive s →
    (∀ q c, queueHead s q = some c → q < 6 → (needsAdmission c = true → s.core.grid.admitted = true) →
      let live := restarted q s
      (execOf s q = none → waitsReached s c → commandHeld s q c = false →
        ∃ t x, exec (.engineCommandStart q) s = .next t ∧ t = startCommand q c live ∧ execOf t q = some x ∧ x.id = c.id
          ∧ queueOf t q = queueOf s q ∧ t.core.regs = s.core.regs ∧ t.homes.mem = s.homes.mem)
      ∧ (∀ r, execOf s q = some r → r.finished = false → r.stopped = false →
        let goes : State → Prop := fun t => exec (.engineCommandStart q) s = .next t
        let next : State → State → Nat → Bool → Prop := fun u t k last =>
          ∀ x, execOf u q = some x → execOf t q = some { x with cursor := k, finished := x.finished || last }
        (q = 4 → c.op = .gldc → ∀ u bs, engineRead 4 (if c.params[3].getLsbD 0 then .global else .pool) (c.params[0] + dw (128 * r.cursor)) 128
            live = (u, .ok bs []) →
          ∃ t, goes t ∧ t = { setBank c.bank (128 * r.cursor) bs u with core.eng.exec := t.core.eng.exec }
            ∧ next u t (r.cursor + 1) (r.cursor == 63))
        ∧ (q = 5 → (c.op = .copy ∨ c.op = .copy2d) → copyBytes c ≠ 0 → pieceOnRing live c.id = false →
          let x := copyPiece c r.cursor
          let from_ := copySsp c.params
          let into := copyDsp c.params
          let dst := ordPlace live (copyOrd c.params)
          let here := corePkg dst = corePkg live.core.id
          (pieceOut live c.id = none → from_ = 2 → here → ∃ t p, goes t ∧ t.net.packets = live.net.packets ++ [p] ∧ p.kind = 0
            ∧ p.dest = routerOf dst ∧ p.ofs = BitVec.ofNat 32 x.1.toNat
            ∧ t.net.remote = live.net.remote ++ [{ ownRemote live c (copyOrd c.params) x.1.toNat with len := x.2.2, pkt := p.id }])
          ∧ ∀ u bs, (pieceOut live c.id = none ∧ from_ ≠ 2 ∧ (∃ w, copyRead from_ x.1 x.2.2 live = (u, .ok bs w))
              ∨ into ≠ 2 ∧ u = live ∧ ∃ e, pieceOut live c.id = some e ∧ e.write = false ∧ e.data.length = e.len ∧ e.data = bs) →
            (into = 2 → corePkg (ordPlace u (copyOrd c.params)) = corePkg u.core.id → ∃ t p, goes t ∧ t.net.packets = u.net.packets ++ [p]
              ∧ p.kind = 4 ∧ p.dest = routerOf (ordPlace u (copyOrd c.params)) ∧ p.ofs = BitVec.ofNat 32 x.2.1.toNat ∧ p.data = bs)
            ∧ ∀ v, (into = 0 ∧ engineOwnWrite x.2.1.toNat bs u = (v, .done)
                ∨ into = 1 ∧ engineGlobalWrite x.2.1.toNat bs (storeScope u (cmdPsc c)) u = (v, .done)) →
              ∃ t, goes t ∧ t = { dropPiece c.id v with core.eng.exec := t.core.eng.exec }
                ∧ next v t (r.cursor + 1) (decide (copyPieces c ≤ r.cursor + 1)))
        ∧ (q = 5 → c.op = .sendCmd → r.cursor = 0 → c.params[0].toNat < 2 ^ 17 →
          ∀ u bs w, checkedRead 5 c.params[0].toNat (sendLen c) live = (u, .ok bs w) → flowEntry u c = none →
            ∃ t p, goes t ∧ p ∈ t.net.packets ∧ p.kind = 2 ∧ p.label = sendLabel c ∧ p.ofs = BitVec.ofNat 32 (sendOfs c) ∧ p.data = bs
              ∧ p.dest = routerOf (ordPlace u (sendOrd c)) ∧ p.cmd = c.id)
        ∧ (q = 5 → c.op = .lbind →
          let label : BitVec 16 := field c.params[0] 0 16
          let n : BitVec 5 := field c.params[1] 0 5
          let thr : Word := field c.params[2] 0 32
          let recv := live.core.port.recvLabels
          let send := live.core.port.sendLabels
          let done : State → Prop := fun u => exec (.engineCommandStart q) s = .next (finishCmd 5 u)
          (field c.params[3] 0 2 = (0 : BitVec 2) → recv.any (fun x => x.1 == label) = false → recv.length < 64 → (bufOf live n.toNat).declared →
            done { live with core.port.recvLabels := recv ++ [(label, n)] })
          ∧ (field c.params[3] 0 2 = (1 : BitVec 2) → send.any (fun x => x.1 == label) = false → send.length < 64 →
            done { live with core.port.sendLabels := send ++ [(label, if thr = 0 then 65536 else thr)] })
          ∧ (field c.params[3] 0 2 = (2 : BitVec 2) → recv.any (fun x => x.1 == label) → labelPackets live label = false →
            done { cutCircuits (fun x => x.receiver == live.core.id && x.label == label) 3 live with
              core.port.recvLabels := recv.filter (fun x => x.1 != label) })
          ∧ (field c.params[3] 0 2 = (3 : BitVec 2) → send.any (fun x => x.1 == label) →
            done { freeLabelMeters label live with core.port.sendLabels := send.filter (fun x => x.1 != label) }))
        ∧ (q = 5 → c.op = .copen → r.cursor = 0 →
          let h : BitVec 3 := field c.params[0] 0 3
          let ord : BitVec 24 := field c.params[1] 0 24
          let label : BitVec 16 := field c.params[1] 24 16
          ∀ u, labelBound ord label live = (u, true) → 1 ≤ c.params[2].toNat → c.params[2].toNat ≤ 2 ^ 24 →
            corePkg (ordPlace u ord) = corePkg u.core.id → (handleOf live h).st ∈ [0, 4, 5] →
            ∃ t p, goes t ∧ handleOf t h = { handleOf live h with st := 1, resume := 0, resumeCmd := 0, dest := ord, label := label }
              ∧ t.net.probes = u.net.probes ++ [p] ∧ p.slot = h ∧ p.ord = ord ∧ p.label = label ∧ p.lease = c.params[2].toNat
              ∧ p.dest = routerOf (ordPlace u ord) ∧ p.promoted = false)
        ∧ (q = 5 → c.op = .cstream → r.cursor < streamLen c →
          let n := Nat.min 4096 (streamLen c - r.cursor)
          let from_ := streamOfs c + r.cursor
          ∀ x u bs w, ownCircuit live (field c.params[1] 0 3) = some x → dueWindow live x = none → x.tx.length < 2 →
            (∀ t ∈ x.tx, t.cmd = c.id → from_ < t.start + 8192) → checkedRead 5 (c.params[0].toNat + r.cursor) n live = (u, .ok bs w) →
            ∃ t, goes t ∧ t.net.beats = u.net.beats ++ windowBeats x.id from_ bs)))
    ∧ (∀ q c r s', queueHead s q = some c → execOf s q = some r → q < 6 → r.finished → completionHeld s q = false →
      let live := restarted q s
      (writeScope live q c = none ∧ s' = live ∨ ∃ scope, writeScope live q c = some scope ∧ pushLayer scope live = (s', .done)
        ∧ scopeOpen s' scope s'.core.mq.seq = false) →
      ∃ t, exec (.engineCommandComplete q) s = .next t ∧ t = retireCommand q c r s' ∧ execOf t q = none
        ∧ (queueOf t q).head = (queueOf s' q).head + 1 ∧ (queueOf t q).tail = (queueOf s' q).tail
        ∧ t.core.regs = s'.core.regs ∧ t.homes = s'.homes)
    ∧ (∀ (se : BitVec 2) r x, streamOf s se.toNat = some r → execOf s se.toNat = some x → x.finished = false → x.stopped = false →
      let token : List (Nat × Nat) → TokenData → State → State := fun w d t =>
        setStream se.toNat (some { r with ahead := r.ahead ++ [⟨r.nextRead, d, w⟩], nextRead := r.nextRead + 1 }) t
      (r.write = false → r.ahead.length < 16 → r.nextRead < r.trip →
        (∀ k ks, r.space = .queue → s.core.grid.feed = k :: ks →
          exec (.streamTokenDeliver se) s = .next (restarted se.toNat (settleQueues (token [] k { s with core.grid.feed := ks }))))
        ∧ (∀ s' bs w, r.space ≠ .queue → (streamAddr r r.nextRead).toNat % 32 = 0 →
          engineRead se.toNat r.space (streamAddr r r.nextRead) 32 s = (s', .ok bs w) →
          exec (.streamTokenDeliver se) s = .next (restarted se.toNat (token w (BitVec.ofNat 256 (leNat bs)) s'))))
      ∧ (∀ k ks s', r.write = true → s.core.eng.sinks = k :: ks → k.seq = r.nextRead → k.unchecked = false →
        commitToken r k s = (s', .done) →
        ∃ t, exec (.streamTokenCommit se) s = .next t
          ∧ t = { s' with core.eng.sinks := ks, core.eng.streams := t.core.eng.streams, core.eng.exec := t.core.eng.exec
                          core.eng.restoring := t.core.eng.restoring
                          core.sys.srp := t.core.sys.srp }
          ∧ streamOf t se.toNat = some { r with nextRead := r.nextRead + 1 }
          ∧ srpV t se.toNat = true ∧ srpSeq t se.toNat = k.seq % 2 ^ 48))
    ∧ (∀ g row col, s.core.grid.run = some g → gridWorks s → s.core.eng.sinks = [] → portToken s g false = some row →
      portToken s g true = some col → portWindows row col = [] → g.window = none → g.check = none →
      let o := gridCompute s g.st ⟨g.bank, g.st.step, g.first, g.trip, g.rm, row, col⟩
      let seq := (o.sinks.map (fun x => x.2.tag.getD g.st.step)).headD g.st.step
      (∀ x ∈ o.sinks, x.2.tag.getD g.st.step = seq) → (o.pq ≠ none → pqLoad s < pqCap s) →
      ∃ t, exec .gridStep s = .next t
        ∧ t = { s with core.grid := t.core.grid, core.eng := t.core.eng, core.sys.srp := t.core.sys.srp
                       core.seq.gridStepFired := t.core.seq.gridStepFired }
        ∧ t.core.grid.run = some { g with st := o.st, flags := g.flags ||| o.flags, taken := [] }
        ∧ t.core.grid.pq = s.core.grid.pq ++ o.pq.toList
        ∧ t.core.eng.sinks = if o.sinks ≠ [] ∧ seq < g.trip then [gather o.sinks seq] else [])
    ∧ (∀ g c, s.core.grid.gmma = some g → queueHead s 4 = some c → gridWorks s →
      (retireDue c.params g s = true → g.windows = [] →
        ∃ t, exec .gmmaKblock s = .next t ∧ t.core.pool = (writeTile c.params g.acc s).core.pool
          ∧ srpV t 0 = true ∧ srpSeq t 0 = (g.nextBlock - 1) % 2 ^ 48 ∧ srpV t 1 = true ∧ srpSeq t 1 = (g.nextBlock - 1) % 2 ^ 48
          ∧ t.core.grid.gmma = some { g with flags := g.flags ||| g.flagsNew, flagsNew := 0 }
          ∧ t.core.regs = s.core.regs ∧ t.homes = s.homes)
      ∧ (retireDue c.params g s = false →
        let p := c.params
        let j := g.nextBlock
        let rows : Nat → List Byte → Nat → State → State × (EngRes ⊕ OperandBlock) := fun fmt d n u =>
          operandRows fmt (gmmaKb p) d (gmmaScl p) g.narrow j (List.range n) u ⟨[], [], 0⟩
        (gmmaBlocks p ≤ j → exec .gmmaKblock s = .next (finishCmd 4 (restarted 4 s)))
        ∧ (j < gmmaBlocks p → ∀ u v a b, rows (gmmaFa p) g.descA (gmmaM p) (restarted 4 s) = (u, .inr a) →
          rows (gmmaFb p) g.descB (gmmaN p) u = (v, .inr b) →
          let cell : Nat → Word × Flags := fun i => accumulate (gmmaScl p) (g.acc.getD i 0)
            (a.rows.getD (i / gmmaN p) ([], 127)) (b.rows.getD (i % gmmaN p) ([], 127))
          let cells := (List.range (gmmaM p * gmmaN p)).map cell
          let g' := { g with
            acc := cells.map (fun x => x.1), nextBlock := j + 1, windows := a.windows ++ b.windows ++ g.windows
            flagsNew := cells.foldl (fun f x => f ||| x.2) (g.flagsNew ||| a.flags ||| b.flags) }
          let w := { v with core.grid.gmma := some g' }
          exec .gmmaKblock s = .next (if retireDue p g' w && g'.windows.isEmpty then retireTile p g' w else w))))
    ∧ (∀ fmt kb d narrow j m u v bs ws,
      let at_ := dw (descField d 0 8) + dw m * (BitVec.ofNat 32 (descField d 8 4)).signExtend 64 + dw (j * blockBytes fmt)
      descField d 0x2C 4 / 64 % 2 = 0 → (fmt = 0 → at_.getLsbD 0 = false) →
      engineRead 4 (spaceOf (descField d 0x30 4)) at_ (blockBytes fmt) u = (v, .ok bs ws) →
      let f := operandFmt fmt (descField d 0x2C 4 / 16 % 4)
      let val : Nat → FVal × Flags := fun k => let x := blockValue f (fmt == 3) 127 none (blockCode fmt bs k); if narrow then narrowed x else (x, 0)
      operandRow fmt kb d false narrow j m u = (v, .ok ((List.range kb).map (fun k => (val k).1)) 127 ws
        (((List.range kb).map val).foldl (fun f x => f ||| x.2) 0)))
    ∧ (isStuck s →
      let room : Prop := grantsUsed s < Config.reliefGrants
      (room → grantTo s = some 0 → exec .reliefGrant s = .next { s with core.grid.feedGrants := s.core.grid.feedGrants + 1 })
      ∧ (room → grantTo s = some 1 → exec .reliefGrant s = .next { s with core.grid.outGrants := s.core.grid.outGrants + 1 })
      ∧ (room → grantTo s = some 2 → exec .reliefGrant s = .next { s with core.grid.pqGrants := s.core.grid.pqGrants + 1 })
      ∧ (grantTo s = none ∨ ¬ room →
        (s.core.seq.run = .running → s.core.seq.mode = .program →
          ∃ t, exec .deadlockTrap s = .next t ∧ t = takeTrap .deadlock (deadlockMap s) 0 s ∧ t.core.sys.tcause = 0x23
            ∧ t.core.sys.taddr = deadlockMap s ∧ t.core.seq.mode = .handler ∧ t.core.regs = s.core.regs ∧ t.homes = s.homes)
        ∧ (s.core.seq.run = .exited → exec .deadlockTrap s
          = .next (doom s.core.launch { AbortInfo.of 7 with ord := s.core.ord } s))))
    ∧ (∀ i e s' a, s.net.remote[i]? = some e → e.retryAt = 0 → accessArrived s e → e.write = true → e.label = none →
      holderOf s e.launch e.sec e.ord = .own → placeRemote (some e) e.addr e.data s = (s', a) →
      ∃ t, exec (.remotePoolAccess i) s = .next t ∧ t = answerAccess e a s' ∧ t.core = s'.core
        ∧ (a = .ok [] → ∀ b, poolByte t b = if e.addr ≤ b ∧ b < e.addr + e.data.length then e.data.getD (b - e.addr) 0 else poolByte s b)
        ∧ (a ≠ .ok [] → s' = s)
        ∧ ∀ p, s.net.packets.find? (fun p => p.id == e.pkt) = some p → ∃ p' ∈ t.net.packets, p'.kind = 5 ∧ p'.dest = routerOf p.sender
          ∧ p'.cmd = e.cmd ∧ p'.result = (match a with | .ok _ => 0 | .refused => 1 | _ => 2))
    ∧ (∀ q va write x, pagerNeed s q = some (va, write) → q < 6 → execOf s q = some x →
      let region := regionOf (ownLaunch s) va
      let w := walk s s.core.ptroot va
      let pending := s.sched.host.pageReqs.any (fun x => x.launch == s.core.launch && x.queue == q)
      let goesOn : State → Prop := fun u => ∃ t y, exec (.pagerFault q) s = .next t ∧ t = resumeEngine q u
        ∧ execOf t q = some y ∧ y.id = x.id ∧ y.stopped = false ∧ y.pager = none ∧ t.homes = u.homes ∧ t.core.regs = s.core.regs
      (∀ r p, region = some r → w.page = some p → (write = true → p.2.2 = true) → goesOn s)
      ∧ (region = none → exec (.pagerFault q) s = .next (pagerAbort s.core.launch s.core.ord q va s))
      ∧ (∀ r, region = some r → w.page = none → pending = false →
        (w.entry.getLsbD 5 = true → let y := freshPage s.core.launch r (ownLaunch s).home s
          goesOn (mapPage (ownLaunch s) va y.2 (zeroPage y.2 65536 y.1)))
        ∧ (w.entry.getLsbD 5 = false → ringEntries s ≠ 0 →
          (s.sched.host.evqtail.toNat + 1) % ringEntries s ≠ s.sched.host.evqhead.toNat →
          exec (.pagerFault q) s = .next (askHost q va write s))))
    ∧ (∀ slot x, s.sched.host.pageReqs.find? (fun x => x.slot == slot) = some x →
      let u := { s with sched.host.pageReqs := s.sched.host.pageReqs.filter (fun y => y.slot != slot) }
      let l := launchOf s x.launch
      (∀ r, regionOf l x.va = some r → let y := freshPage x.launch r l.home u
        exec (.pgresp slot true) s
          = .next (pageArrived x (mapPage l x.va y.2 (copyPage (s.sched.host.pgpa.toNat / 2 ^ 16 % 2 ^ 36 * 65536) y.2 y.1))))
      ∧ exec (.pgresp slot false) s = .next (pagerAbort x.launch x.ord x.queue x.va u))
    ∧ ∀ u g c, u.core.grid.gmma = some g → queueHead u 4 = some c → isSaving u →
      exec .gmmaPreemptCut u = .next { u with core.grid.gmma := some { g with
        acc := loadTile c.params u, nextBlock := retired u, flagsNew := 0, windows := [] } }

/-- R200-R212, R226, R235, R291, R292: what arrives at a home. `becomes b …` says what an applied write leaves of a state `b`. The model's
own choices: forwarding from the store queue (log entry 23), the rounds of a `REDO` (24), the version a read takes (26), and home SRAM's
eviction of a line (28). -/
def Obligations.HomesApply : Prop :=
  ∀ (s : State) (i : Nat), Memory.wf s.homes.mem →
    let plain : State → Nat → Prop := fun u line =>
      (∀ w ∈ (lineRec u line).versions, w.kind ≠ .committed) ∧ (dropCopies line u).2 = [] ∧ (lineRec u line).poison = 0
    let visited : State → Nat → Nat → State → State := fun b launch line t =>
      { b with
        core.sys := (touchPa launch (line * 128) b).core.sys
        sched.launches := (touchPa launch (line * 128) b).sched.launches
        net.homeSeen := (noteHomeTraffic line b).net.homeSeen
        homes := t.homes }
    let becomes : State → Nat → Nat → LineData → LineMask → List HomeReq → State → Prop := fun b launch line d m queue t =>
      memLine t line = d ∧ t = visited b launch line t ∧ (∀ x, x ≠ line → lineRec t x = lineRec b x)
      ∧ lineRec t line = { snoopHost { lineRec (pruneReaders line b) line with poison := clearPoison 0 m } with sharers := 0 }
      ∧ t.homes = { (dropCopies line b).1.homes with
          mem := (setMemLine line d b).homes.mem
          lines := t.homes.lines
          queue := queue }
    (∀ r op, s.homes.queue[i]? = some r → r.op = .write op → r.refusedAt = none → r.cls = 1 →
      let line := lineNo r.pa
      let old := memLine s line
      let rest := s.homes.queue.eraseIdx i
      plain s line → writerLive s r.launch (linePkg line) →
      let lands : Instr → State → LineData → LineMask → Prop := fun ev b d m =>
        ∃ t, exec ev s = .next t ∧ becomes b r.launch line d m rest t
      (∀ cells, op = .write cells → ∃ d m, lands (.storeApply (.other i)) s d m ∧ ∀ k, k < 128 →
        m.getLsbD k = cells.any (fun c => c.1 % 128 == k)
        ∧ lineByte d k = match cells.reverse.find? (fun c => c.1 % 128 == k) with
          | some c => c.2
          | none => lineByte old k)
      ∧ (∀ aop dbl x y q, op = .atomic aop dbl x y q →
        let n := if dbl then 8 else 4
        let new := atomicMem aop dbl (dw (leNat (lineBytes old (lineOff r.pa) n))) x y
        let m := maskOf (lineOff r.pa) n
        lands (.atomicApply (.other i)) s (lineMerge old (lineAt (lineOff r.pa) (leBytes n new.toNat)) m) m)
      ∧ (∀ rop d m k, op = .red rop d m k → ((launchOf s r.launch).pair = 0 ∨ rop = .i32) →
        lands (.redApply (.other i)) s (redLine rop d m old) m)
      ∧ (∀ accs, op = .region accs → regionMask accs ≠ 0 →
        lands (.lineRegionApply (.other i)) s (regionStores accs old) (regionMask accs))
      ∧ (∀ accs, op = .region accs → regionMask accs = 0 → readStalls s r.launch line = false →
        ∃ t, exec (.lineRegionApply (.other i)) s = .next t ∧ t = visited s r.launch line t
          ∧ t.homes = { s.homes with lines := t.homes.lines, queue := rest } ∧ ∀ x, x ≠ line → lineRec t x = lineRec s x)
      ∧ (∀ rop d m g ranges, op = .redo rop d m g → groupOf (launchOf s r.launch) g = some ranges →
        let q := roundOf s ⟨r.core, r.launch, r.sec, r.ord, r.cls⟩ line g
        let after := if q.next + 1 = groupSize ranges then { q with next := 0, round := q.round + 1 } else { q with next := q.next + 1 }
        q.held = [] → q.next = groupRank ranges r.ord.toNat → groupRank ranges r.ord.toNat < groupSize ranges →
        lands (.redoArrival (.other i)) (setRound after (redoAcked r.launch r.sec r.ord line g s)) (redLine rop d m old) m))
    ∧ (∀ r rop d m k, s.homes.queue[i]? = some r → r.op = .write (.red rop d m k) → r.refusedAt = none →
      (launchOf s r.launch).pair ≠ 0 → rop ≠ .i32 → writerLive s r.launch (linePkg (lineNo r.pa)) →
      let u := touchPa r.launch (lineNo r.pa * 128) (if r.cls = 1 then s else noteWindow (lineNo r.pa) r.pa s)
      spillUsed u (lineNo r.pa) < spillSlots →
      exec (.redApply (.other i)) s = .next { u with
        homes.heldReds := s.homes.heldReds ++ [⟨r.launch, r.sec, r.ord, k, lineNo r.pa, r.cls, rop, d, m⟩]
        homes.queue := s.homes.queue.eraseIdx i })
    ∧ (∀ r n, s.homes.queue[i]? = some r → r.op = .read n →
      let line := lineNo r.pa
      readStalls s r.launch line = false → (lineRec s line).poison = 0 → (∀ w ∈ (lineRec s line).versions, w.poison = 0) →
      ∃ t, exec (.homeRead (.other i)) s = .next t ∧ t = visited s r.launch line t
        ∧ t.homes = { s.homes with
            mem := (foldLine line s).homes.mem
            lines := t.homes.lines
            queue := s.homes.queue.eraseIdx i }
        ∧ (∀ x, x ≠ line → lineRec t x = lineRec s x)
        ∧ ∀ h, r.cls = 2 → hallOf s r.launch (linePkg line) = some h →
          h.hall ∈ (lineRec t line).readers ∨ (lineRec t line).overflow = true)
    ∧ (∀ l, s.core.mq.loads[i]? = some l → l.dest ≠ .mark → l.data = none → behindMark s l = false → behindLoads s l = false →
      behindApplied s l = false →
      (∀ bs, forward s l = some (some bs) → exec (.homeRead (.own i)) s = .next (setLoadData l.seq bs s))
      ∧ (forward s l = some none → exec (.homeRead (.own i)) s = .next s)
      ∧ ∀ s' bs, forward s l = none → readOwn (ownClass s l.va l.pa) (lineNo l.pa) (lineOff l.pa) l.size (loadUnit l) l.seq
          (touchPa s.core.launch l.pa s) = (s', .bytes bs) → exec (.homeRead (.own i)) s = .next (setLoadData l.seq bs s'))
    ∧ (∀ r k, s.homes.queue[i]? = some r → r.refusedAt = some k → 1000 ≤ (s.now - k).toNat →
      exec (.redoResend i) s = .next { s with homes.queue := s.homes.queue.set i { r with refusedAt := none } })
    ∧ (∀ h, s.homes.hubs.find? (fun h => h.hub.toNat == i) = some h → h.cls = 1 →
      isHostPa (h.line * 128) = true ∨ linePkg h.line = h.hub.extractLsb' 6 7 →
      let b := touchPa h.launch (h.line * 128) { s with homes.hubs := s.homes.hubs.filter (fun x => x != h) }
      plain b h.line → writerLive s 0 (linePkg h.line) → (∀ u ∈ h.unpushed, heldBytes s u.core u.launch h.line = false) →
      ∃ t, exec (.hubLineDrain i) s = .next (noteCxl (h.hub.extractLsb' 6 7) h.line 0 t)
        ∧ becomes b 0 h.line (lineMerge (memLine s h.line) h.data h.mask) h.mask s.homes.queue t)
    ∧ ∀ line, let folded := foldLine line s
      let r := reclaim folded (lineRec folded line)
      let out := sramFull folded line && folded.homes.lines.any (fun x => x.line == line)
      (out = true → r.ways ≠ [] → spillUsed (setLineRec r folded) line + r.ways.length ≤ spillSlots) →
      ∃ t, exec (.homeSweep line) s = .next t
      ∧ memLine t line = (match (lineRec s line).versions.find? (fun w => w.kind == .committed) with
        | some w => w.data
        | none => memLine s line)
      ∧ t = { s with
          homes.mem := (foldLine line s).homes.mem
          homes.lines := t.homes.lines
          sched.halls := t.sched.halls }
      ∧ (∀ x, x ≠ line → lineRec t x = lineRec s x) ∧ lineRec t line = (if out = true ∧ r.ways ≠ [] then { r with evicted := true, ways := [], spilled := r.versions } else r)
      ∧ ∀ h ∈ s.sched.halls, h ∈ t.sched.halls ∨ (h.pkg = linePkg line ∧ (h.state = .folding ∨ h.state = .discarding))

/-- R202, R228, R233, R248, R249, R385, R386, R389: the host at memory, translations, and errors. The model's own choices: what a walk leaves
in the translation caches (log entry 27), the port of a host access (79), the reserved windows (57), a host write as a commit of its line
(39, 50), and where an error is met (59). -/
def Obligations.HostAndErrors : Prop :=
  ∀ (s : State), Memory.wf s.homes.mem →
    let doomed : Nat → AbortInfo → State := fun l info => { s with
      sched.launches := s.sched.launches.map (fun x => if x.id = l then { x with
        phase := .doomed
        abort := some { info with torn := x.irrev, time := fieldCounter s x.home 0 } } else x)
      sched.halls := s.sched.halls.map (fun h => if h.launch = l then { h with state := .doomed } else h) }
    let received : Nat → List Byte → Bool → State → State := fun pa bs bad u => { u with sched.host.received := some (hostPort pa, pa, bs, bad) }
    (∀ pa len, 7 ≤ s.health.bootStep → pa < 2 ^ 52 → paCls pa ≤ 3 → len ≠ 0 →
      let spans := lineSpans len pa len
      (∀ x ∈ spans, readStalls s 0 (lineNo x.1) = false) →
      ∃ t, exec (.hostRead pa len) s = .next t
        ∧ (∀ x ∈ spans, (lineRec t (lineNo x.1)).hostBit = true)
        ∧ (∀ y, (∀ x ∈ spans, lineNo x.1 ≠ y) → lineRec t y = lineRec s y)
        ∧ t = { s with
            homes.mem := t.homes.mem
            homes.lines := t.homes.lines
            net.homeSeen := t.net.homeSeen
            sched.host.received := t.sched.host.received }
        ∧ (let bad := spans.any (fun x => poisonMet (lineRec t (lineNo x.1)).poison (maskOf (lineOff x.1) x.2))
          t.sched.host.received = some (hostPort pa, pa, if bad then [] else memBytes t pa len, bad))
        ∧ (lineOff pa + len ≤ 128 → t.homes.mem = (foldLine (lineNo pa) s).homes.mem))
    ∧ (∀ pa len, pa < 2 ^ 52 → paCls pa = 7 →
      exec (.hostRead pa len) s = .next (received pa (registerBytes s (paOff pa) len) false s))
    ∧ (∀ pa len, pa < 2 ^ 52 → paCls pa = 6 →
      (∀ x ∈ lineSpans len pa len, (∀ h ∈ s.homes.hubs, h.line ≠ lineNo x.1)
        ∧ ∀ l ∈ s.homes.layers, l.line = lineNo x.1 → l.unpushed = []) →
      exec (.hostRead pa len) s = .next (received pa (memBytes s pa len) false s))
    ∧ (∀ pa bytes, pa < 2 ^ 52 → paCls pa = 6 → lineOff pa + bytes.length ≤ 128 → bytes ≠ [] → (dropCopies (lineNo pa) s).2 = [] →
      ∃ t, exec (.hostWrite pa bytes) s = .next t
        ∧ (∀ k, k < bytes.length → memByte t (pa + k) = bytes.getD k 0)
        ∧ (∀ x, (∀ k, k < bytes.length → paCanon x ≠ paCanon (pa + k)) → memByte t x = memByte s x)
        ∧ t = { s with homes := { (dropCopies (lineNo pa) s).1.homes with mem := t.homes.mem, lines := t.homes.lines } }
        ∧ ∀ x, lineRec t x = if x = lineNo pa then { lineRec s x with sharers := 0 } else lineRec s x)
    ∧ (∀ pa bytes, 7 ≤ s.health.bootStep → pa < 2 ^ 52 → paCls pa ≤ 3 → lineOff pa + bytes.length ≤ 128 → bytes ≠ [] →
      let line := lineNo pa
      let pkg := linePkg line
      lineClass s line ≠ 1 → (∀ h ∈ s.sched.halls, h.pkg ≠ pkg) → writerLive s 0 pkg → (dropCopies line s).2 = [] →
      (∀ w ∈ (lineRec s line).versions, w.kind ≠ .committed) →
      ∃ t, exec (.hostWrite pa bytes) s = .next t
        ∧ memLine t line = lineMerge (memLine s line) (lineAt (lineOff pa) bytes) (maskOf (lineOff pa) bytes.length)
        ∧ (lineRec t line).stamp = (pkgRec s pkg).stamp + 1 ∧ (lineRec t line).committer = (0, 0)
        ∧ (pkgRec t pkg).stamp = (pkgRec s pkg).stamp + 1
        ∧ (∀ x, x ≠ line → lineRec t x = lineRec s x)
        ∧ t = { s with
            net.homeSeen := (noteHomeTraffic line s).net.homeSeen
            sched.pkgs := t.sched.pkgs
            homes := { (dropCopies line s).1.homes with mem := (setMemLine line (memLine t line) s).homes.mem, lines := t.homes.lines } })
    ∧ (∀ pa len bytes, (2 ^ 52 ≤ pa ∨ paCls pa = 4 ∨ paCls pa = 5) → exec (.hostRead pa len) s = .fault (.reservedWindow pa)
      ∧ exec (.hostWrite pa bytes) s = .fault (.reservedWindow pa))
    ∧ (∀ line inv, isHostPa (line * 128) = true →
      ∃ t, exec (.hostSnoop line inv) s = .next t
        ∧ t = { s with homes := { s.homes with
            mem := t.homes.mem
            lines := t.homes.lines
            hubs := s.homes.hubs.filter (fun h => h.line != line)
            layers := if inv then s.homes.layers.filter (fun l => l.line != line)
              else s.homes.layers.map (fun l => if l.line = line then { l with unpushed := [] } else l) } }
        ∧ (∀ x, x ≠ line → memLine t x = memLine s x)
        ∧ ∀ h, s.homes.hubs.filter (fun h => h.line == line) = [h] → (∀ l ∈ s.homes.layers, l.line = line → l.unpushed = []) →
          (∀ w ∈ (lineRec s line).versions, w.kind ≠ .committed) →
          memLine t line = lineMerge (memLine s line) h.data h.mask)
    ∧ (∀ line, (lineRec s line).backInv = true → exec (.backInvalidateResponse line) s =
        .next (setLineRec { lineRec s line with backInv := false, hostBit := false } s))
    ∧ (∀ (va : DWord) write s' r, translate va.toNat write s = (s', r) →
      exec (.pageWalk va write) s = .next s' ∧ s' = { s with homes.tlb := s'.homes.tlb, homes.layerTlb := s'.homes.layerTlb }
        ∧ (∀ x ∈ s'.homes.tlb, x ∈ s.homes.tlb ∨ x.launch = s.core.launch)
        ∧ ∀ pa, r = .ok pa → translate va.toNat write s' = (s', .ok pa))
    ∧ (∀ l page,
      let covers : TlbEntry → Prop := fun x => x.launch = l ∧ x.base ≤ page ∧ page < x.base + 2 ^ x.bits
      ∃ t, exec (.tlbInvalidate l page) s = .next t
        ∧ t = { s with homes.tlb := t.homes.tlb, homes.layerTlb := t.homes.layerTlb }
        ∧ ∀ x, (x ∈ t.homes.tlb ↔ x ∈ s.homes.tlb ∧ ¬ covers x) ∧ (x ∈ t.homes.layerTlb ↔ x ∈ s.homes.layerTlb ∧ ¬ covers x))
    ∧ (∀ l a ap, (launchOf s l).phase = .bound → (launchOf s l).decided = false →
      exec (.uncorrectableError (.access l a ap)) s = .next (doomed l { AbortInfo.of 6 with addr := dw a, applied := ap })
      ∧ exec (.uncorrectableError (.returnPath l a ap)) s = .next (doomed l { AbortInfo.of 6 with addr := dw a, applied := ap }))
    ∧ (∀ l a ap, (launchOf s l).phase ≠ .bound → exec (.uncorrectableError (.access l a ap)) s = .next s
      ∧ exec (.uncorrectableError (.returnPath l a ap)) s = .next s)
    ∧ (∀ l, (launchOf s l).pair ≠ 0 → (launchOf s l).phase = .ready → (launchOf s l).pairEqual = false → (launchOf s l).decided = false →
      exec (.uncorrectableError (.hash l)) s = .next (doomed l (AbortInfo.of 6)))
    ∧ (∀ line h e, hallEntry s (linePkg line) h = some e → exec (.uncorrectableError (.version line h)) s =
      .next (if abortable (launchOf s e.launch) then doomed e.launch { AbortInfo.of 6 with addr := dw (line * 128) } else s))
    ∧ (∀ (place : ErrPlace) (core : CoreId), place = .window ∧ core = s.core.id ∨ place = .pool core →
      let l := if core = s.core.id then s.core.launch else (slotRec s core).launch
      let ord := if core = s.core.id then s.core.ord else (slotRec s core).ord
      let recent := s.health.poolErrors.filter (fun x => decide ((s.now - x.2).toNat < 1000000000))
      let noted : State → State → Prop := fun b t => t = { b with
          health.poolErrors := (core, s.now) :: recent
          sched.slots := t.sched.slots }
        ∧ ((recent.filter (fun x => x.1 == core)).length < 3 → t.sched.slots = s.sched.slots)
        ∧ (3 ≤ (recent.filter (fun x => x.1 == core)).length → (slotRec t core).removed = true)
      ((launchOf s l).phase = .bound → (launchOf s l).decided = false →
        ∃ t, exec (.uncorrectableError place) s = .next t ∧ noted (doomed l { AbortInfo.of 6 with ord := ord }) t)
      ∧ ((launchOf s l).phase ≠ .bound → ∃ t, exec (.uncorrectableError place) s = .next t ∧ noted s t))
    ∧ (∀ pkt k flip dest p, packetOf s pkt = some p →
      (arrived p = true → exec (.uncorrectableError (.crossbar pkt k flip dest)) s = .next s)
      ∧ (arrived p = false → ∃ t q, exec (.uncorrectableError (.crossbar pkt k flip dest)) s = .next t ∧ t = { s with net := t.net }
        ∧ packetOf t pkt = some q ∧ q.data = p.data.modify k (fun b => b ^^^ flip) ∧ q.receiver = dest.getD p.receiver
        ∧ (∀ x, x ≠ pkt → packetOf t x = packetOf s x)
        ∧ ∀ f ∈ t.net.flits, f.pkt = pkt → f.crc = crc32c (flitBytes q f.idx)))
    ∧ (∀ (r : BitVec 5) (lane : BitVec 4) flip, ∃ t, exec (.uncorrectableError (.vector r lane flip)) s = .next t
      ∧ t = { s with core.regs.v := t.core.regs.v } ∧ (∀ x, x ≠ r → readV t x = readV s x)
      ∧ ∀ l : Fin 16, (readV t r)[l] = if l.val = lane.toNat then (readV s r)[l] ^^^ flip else (readV s r)[l])
    ∧ (∀ i j flip g, s.core.grid.run = some g → ∃ t x, exec (.uncorrectableError (.grid i j flip)) s = .next t
      ∧ t = { s with core.grid.run := some { g with st := { g.st with acc := x } } }
      ∧ ∀ a b : BitVec 6, x[a.toNat][b.toNat] = if a = i ∧ b = j then { g.st.acc[i.toNat][j.toNat] with
          bits := g.st.acc[i.toNat][j.toNat].bits ^^^ flip } else g.st.acc[a.toNat][b.toNat])
    ∧ (∀ a, ∃ t, exec (.uncorrectableError (.committed a)) s = .next t
      ∧ t = { s with homes.mem := (foldLine (lineNo a) s).homes.mem, homes.lines := t.homes.lines }
      ∧ (∀ x, x ≠ lineNo a → lineRec t x = lineRec s x)
      ∧ let r := lineRec (foldLine (lineNo a) s) (lineNo a)
        lineRec t (lineNo a) = { r with poison := setBit r.poison (lineOff a / 8) true })
    ∧ ∀ a idx p, ((lineRec s (lineNo a)).versions.filter (fun w => w.kind == .prior))[idx]? = some p →
      let upd := fun (w : Way) => if w = p then { w with poison := setBit w.poison (lineOff a / 8) true } else w
      let r := lineRec s (lineNo a)
      exec (.uncorrectableError (.prior a idx)) s =
        .next (setLineRec { r with ways := r.ways.map upd, spilled := r.spilled.map upd } s)

/-- R312, R313, R370, R376, R377, R381-R383, R385, R388: device registers, power regions, bring-up. The model's own choices: steps that R382
and R383 both ask for (log entry 49), LMBOX's lock (50), a meter interval that has ended (58), and the seven steps of BOOT as events (16, 79). -/
def Obligations.DeviceAndPower : Prop :=
  ∀ (s : State) (q : BitVec 6) (v : DWord) (r : BitVec 4),
    let h := s.sched.host
    let p := regionRec s r.toNat
    let pkg := corePkg s.core.id
    let host : Out → HostRegs → Prop := fun o x => o = .next { s with sched.host := x }
    let queue : Out → HostQueue → HostRegs → Prop := fun o x k => ∃ t, o = .next t ∧ hostQueue t q = x
      ∧ (∀ n, n ≠ q → hostQueue t n = hostQueue s n) ∧ t = { s with sched.host := { k with queues := t.sched.host.queues } }
    let region : Out → PowerRegion → Prop := fun o x => ∃ t, o = .next t ∧ regionRec t r.toNat = x
      ∧ (∀ n : BitVec 4, n ≠ r → regionRec t n.toNat = regionRec s n.toNat) ∧ t = { s with power := t.power }
    let clocked : Out → PowerRegion → Prop := fun o x =>
      let old := cyToNs 4096 s
      let new := cyToNs 4096 (setRegionRec r x s)
      ∃ t, o = .next t ∧ regionRec t r.toNat = x ∧ (∀ n : BitVec 4, n ≠ r → regionRec t n.toNat = regionRec s n.toNat)
        ∧ t = { s with power := t.power, core.port := t.core.port, net := t.net }
        ∧ (old = new → t = { s with power := t.power })
        ∧ (old ≠ new → (∀ m ∈ s.core.port.meters, s.now.toNat < m.intervalEnd.toNat) →
          t = { s with
            power := t.power
            core.port.meters := s.core.port.meters.map (fun m =>
              { m with intervalEnd := s.now + dw ((m.intervalEnd.toNat - s.now.toNat) * new / old) }) })
    (∀ tail, queue (exec (.lmbox q tail) s) { hostQueue s q with tail := tail, announced := announcedBy (hostQueue s q) tail }
      { h with lock := true })
    ∧ (qcfgLegal v = true → queue (exec (.qcfg q v) s) { hostQueue s q with cfg := dw (fieldN v 0 32) } h)
    ∧ (qcfgLegal v = false → host (exec (.qcfg q v) s) { h with qerr := h.qerr ||| BitVec.twoPow 64 q.toNat })
    ∧ host (exec (.qerr v) s) { h with qerr := h.qerr &&& ~~~ v }
    ∧ host (exec (.evqhead v) s) { h with evqhead := v.extractLsb' 0 10 }
    ∧ host (exec (.deviceRegisterWrite 0x40 v) s) { h with evqbase := dw (fieldN v 12 40 * 4096) }
    ∧ host (exec (.deviceRegisterWrite 0x48 v) s) { h with evqcfg := v &&& 0x07FF000F }
    ∧ host (exec (.deviceRegisterWrite 0x68 v) s) { h with pgpa := dw (fieldN v 16 36 * 65536) }
    ∧ queue (exec (.deviceRegisterWrite (0x1000 + q.setWidth 16 * 32) v) s)
        { hostQueue s q with base := dw (fieldN v 12 40 * 4096) } h
    ∧ (∀ o : BitVec 16, o ≠ 0x40 → o ≠ 0x48 → o ≠ 0x68 → (∀ n : BitVec 6, o ≠ 0x1000 + n.setWidth 16 * 32) →
        exec (.deviceRegisterWrite o v) s = .next s)
    ∧ (∀ w, h.lock = true → exec (.ikey w) s = .next s)
    ∧ (∀ bits, h.lock = false → host (exec (.ikey (.valid bits)) s) { h with keyValid := bits })
    ∧ (∀ k (d : BitVec 3), h.lock = false → ∃ t, exec (.ikey (.key k d v)) s = .next t
        ∧ t = { s with sched.host.keys := t.sched.host.keys }
        ∧ (∀ e : BitVec 3, (vgetD t.sched.host.keys k.toNat 0).extractLsb' (64 * e.toNat) 64
            = if e = d then v else (vgetD h.keys k.toNat 0).extractLsb' (64 * e.toNat) 64)
        ∧ ∀ j, j ≠ k → vgetD t.sched.host.keys j.toNat 0 = vgetD h.keys j.toNat 0)
    ∧ (let n := s.health.bootStep + 1
      let at' := { s with health.bootStep := n }
      (7 < n → exec .boot s = .next s)
      ∧ (n = 1 → exec .boot s = .next { at' with sched.host.lock := false })
      ∧ (n = 4 ∨ n = 5 → exec .boot s = .next at')
      ∧ (n = 2 ∨ n = 3 → ∃ t, exec .boot s = .next t ∧ t.health.bootStep = n ∧ t.core.regs = s.core.regs
        ∧ t.homes.mem = s.homes.mem
        ∧ (n = 2 → ∀ d ∈ Config.failedDies pkg.toNat, (pkg, d) ∈ t.health.lostDies)
        ∧ (n = 3 → (∀ x ∈ Config.failedCores pkg.toNat, (slotRec t (pkg ++ x)).removed = true)
          ∧ t = { at' with sched.slots := t.sched.slots }))
      ∧ (n = 6 → exec .boot s = .next { at' with
          sched.slots := s.sched.slots.map (fun x => if corePkg x.id = pkg then freeSlotRec x else x) })
      ∧ (n = 7 → ∃ t, exec .boot s = .next t ∧ (pkgRec t pkg).stamp = 0 ∧ (∀ x, x ≠ pkg → pkgRec t x = pkgRec s x)
        ∧ t = { at' with sched.pkgs := t.sched.pkgs, sched.halls := s.sched.halls.filter (fun e => e.pkg != pkg) }))
    ∧ (∀ limit, region (exec (.capoWrite r limit) s) { p with limit := limit })
    ∧ (∀ x, p.nextStep = some x → x.2 ≠ powerWindow s r →
        clocked (exec (.clockStepChange r) s) { p with step := x.1, nextStep := none })
    ∧ (∀ x, p.nextStep = some x → x.2 = powerWindow s r → exec (.clockStepChange r) s = .next s)
    ∧ (∀ mv : BitVec 16,
      let recent := p.alarms.filter (fun t => decide ((s.now - t).toNat < 1000000))
      let hit := { p with
        str := true
        ndrp := if p.ndrp = 0xFFFF then p.ndrp else p.ndrp + 1
        lastAlarm := some s.now
        recovered := none }
      (95 * nominal r.toNat ≤ 100 * mv.toNat →
        (p.str = true → p.recovered = none →
          region (exec (.droopAlarm r mv) s) { p with recovered := some (regionCounter s r) })
        ∧ (p.str = false ∨ p.recovered ≠ none → exec (.droopAlarm r mv) s = .next s))
      ∧ (100 * mv.toNat < 95 * nominal r.toNat → 92 * nominal r.toNat ≤ 100 * mv.toNat →
        region (exec (.droopAlarm r mv) s) { p with recovered := none })
      ∧ (100 * mv.toNat < 92 * nominal r.toNat → recent.length < 3 →
        clocked (exec (.droopAlarm r mv) s) { hit with alarms := recent ++ [s.now] })
      ∧ (100 * mv.toNat < 92 * nominal r.toNat → 3 ≤ recent.length → stepWanted p < 3 → clocked (exec (.droopAlarm r mv) s)
        { wantStep s r (stepWanted p + 1) hit with alarms := [], holds := p.holds ++ [s.now + 10000000] })
      ∧ (100 * mv.toNat < 92 * nominal r.toNat → 3 ≤ recent.length → 3 ≤ stepWanted p →
        clocked (exec (.droopAlarm r mv) s) { hit with alarms := [] }))
    ∧ (p.str = false ∨ p.recovered = none → exec (.droopStretchEnd r) s = .next s)
    ∧ (∀ k, p.str = true → p.recovered = some k →
      ((k.toNat + 1000 + 199) / 200 ≤ (powerWindow s r).toNat →
        clocked (exec (.droopStretchEnd r) s) { p with str := false, recovered := none })
      ∧ ((powerWindow s r).toNat < (k.toNat + 1000 + 199) / 200 → exec (.droopStretchEnd r) s = .next s))
    ∧ (∀ k, p.holds.find? (fun t => decide (t.toNat ≤ s.now.toNat)) = some k → region (exec (.clockStepHoldEnd r) s)
        (wantStep s r (max (heatFloor p) (stepWanted p - 1)) { p with holds := p.holds.erase k }))
    ∧ (∀ temps, p.off = false →
      (16 * 115 ≤ hottest temps → ∃ t, exec (.thermalSample r temps) s = .next t ∧ (regionRec t r.toNat).off = true
        ∧ t.core.regs = s.core.regs ∧ t.homes.mem = s.homes.mem
        ∧ ∀ k, k < 4 → (pkg, BitVec.ofNat 7 (4 * r.toNat + k)) ∈ t.health.lostDies
          ∧ (pkg, BitVec.ofNat 7 (64 + 4 * r.toNat + k)) ∈ t.health.lostDies)
      ∧ (hottest temps < 16 * 115 →
        let x := heatSteps s r (hottest temps) (heatCap s r (hottest temps) p)
        region (exec (.thermalSample r temps) s) x ∧ (16 * 105 ≤ hottest temps → x.cap = true ∧ x.nsub = true)
          ∧ (p.cap = false → 16 * 95 ≤ hottest temps → hottest temps < 16 * 105 → p.heatStep.toNat < 2 →
            (p.lastHeat = none ∨ ∃ k, p.lastHeat = some k ∧ 1000000 ≤ (s.now - k).toNat) →
            x.hot = true ∧ x.heatStep = p.heatStep + 1 ∧ x.lastHeat = some s.now)
          ∧ (p.cap = false → hottest temps < 16 * 90 → p.heatStep.toNat ≠ 0 →
            (p.lastHeat = none ∨ ∃ k, p.lastHeat = some k ∧ 1000000 ≤ (s.now - k).toNat) →
            x.hot = false ∧ x.heatStep = p.heatStep - 1 ∧ x.lastHeat = some s.now)
          ∧ (p.cap = true → hottest temps < 16 * 95 → x.cap = false ∧ x.nsub = false ∧ x.heatStep = 2)))
    ∧ (p.str = true ∨ p.off = true → exec (.gridAdmission r) s = .next s)
    ∧ ∀ k c, p.str = false → p.off = false → s.core.grid.readyAt = some k → s.core.grid.admitted = false →
      queueHead s 4 = some c → needsAdmission c = true → coreRegion s.core.id = r.toNat → p.ready = [] →
      let w := powerWindow s r
      let charged := if p.window = w then p.charged else 0
      let fits := charged + gridCharge c ≤ p.limit.toNat ∨ (p.limit.toNat < gridCharge c ∧ charged = 0)
      (fits → exec (.gridAdmission r) s = .next { s with
          power := s.power.setIfInBounds r.toNat { p with window := w, charged := charged + gridCharge c }
          core.grid.admitted := true })
      ∧ (¬ fits → exec (.gridAdmission r) s = .next { s with
          power := s.power.setIfInBounds r.toNat { p with window := w, charged := charged } })

/-- R288, R312-R315, R323, R329-R331, R375: launches and cores under the scheduler. The model's own choices: that the scheduler's moves are
events whose choices are free (log entry 16), what a saved core brings back (34), the order of the checks of a graph (46), and what becomes of
a circuit whose window is refused (58). -/
def Obligations.Scheduling : Prop :=
  ∀ (s : State) (slot : CoreId) (n : Nat),
    let x := slotRec s slot
    let l := launchOf s n
    let known : Prop := ∃ y ∈ s.sched.launches, y.id = n
    let own : Prop := slot = s.core.id ∧ x.launch = s.core.launch
    (∀ q, 7 ≤ s.health.bootStep → queueSize (hostQueue s q) ≠ 0 → (hostQueue s q).announced ≠ 0 →
      let e := (hostQueue s q).head.toNat
      let record := committedNat s (entryPa s q e) 8
      let pa := record / 2 * 2
      let u := setHostQueue q { hostQueue s q with
        head := BitVec.ofNat 12 ((e + 1) % queueSize (hostQueue s q))
        announced := (hostQueue s q).announced - 1 } s
      let g : GraphRec :=
        ⟨u.sched.nextLaunch, q, e, pa, List.replicate (graphDw u pa 1) ⟨0, 0, 0, none, none⟩, true, false,
          readObjects u u.sched.nextLaunch pa, [], []⟩
      let y := objectPages (paPkg pa) g.objects u
      (inDevice pa = false → exec (.launchSubmit q) s =
        .next (setEntryStatus q e 7 1 0 { u with sched.host.qerr := u.sched.host.qerr ||| BitVec.twoPow 64 q.toNat }))
      ∧ (∀ c y, inDevice pa = true → record % 2 = 0 →
        checkRecord u record (.queue q e) (field (hostQueue s q).cfg 4 3) [] = (c, y) →
        exec (.launchSubmit q) s = .next (if c = 0 then setEntryStatus q e 2 0 0
            { u with sched.launches := u.sched.launches ++ [y], sched.nextLaunch := u.sched.nextLaunch + 1 }
          else setEntryStatus q e 7 c 0 u))
      ∧ (inDevice pa = true → record % 2 ≠ 0 → exec (.launchSubmit q) s = .next (if checkGraph u g = 0 then setEntryStatus q e 2 0 0
            { y.1 with sched.graphs := u.sched.graphs ++ [{ g with pages := y.2 }], sched.nextLaunch := u.sched.nextLaunch + 1 }
          else setEntryStatus q e 7 (checkGraph u g) 0 u)))
    ∧ (∀ q, (hostQueue s q).announced = 0 → exec (.launchSubmit q) s = .next s)
    ∧ (let due := l.phase = .waiting ∧ l.level.toNat < 7
        ∧ fieldN (hostQueue s (BitVec.ofNat 6 (launchQueue s l))).cfg 7 25 * 1000 ≤ (s.now - l.since).toNat
      (due → exec (.launchAging n) s = .next { s with
        sched.launches := s.sched.launches.map (fun y => if y.id = n then { y with level := y.level + 1, since := s.now } else y) })
      ∧ (¬ due → exec (.launchAging n) s = .next s))
    ∧ (∀ place, known → l.phase = .waiting → placeLegal s l place = true → outranked s l = false → itsTurn s l = true →
      (place.all (coreFree s) = true → (∀ p ∈ namedPackages l ++ place.map corePkg, (nextHall s p).isSome) →
        ∃ t, exec (.launchBind n place) s = .next t ∧ t.core = { s.core with sys := t.core.sys }
          ∧ (launchOf t n).phase ≠ .waiting ∧ (launchOf t n).members.length = l.members.length + place.length
          ∧ (∀ p ∈ namedPackages l ++ place.map corePkg, ∃ h, (p, h) ∈ (launchOf t n).halls)
          ∧ ∀ id ∈ place, (slotRec t id).launch = n ∧ (slotRec t id).state = .loading ∧ (slotRec t id).op = 1)
      ∧ (place.all (coreFree s) = false →
        place.all (fun id => coreFree s id || coreLeaving s id || preemptable s l.prio id) = true → placeNeeded s l place = true →
        exec (.launchBind n place) s = .next ((place.filter (preemptable s l.prio)).foldl (fun u id => orderSave id u) s)))
    ∧ (x.op = 1 → x.state = .loading → stillWaking (corePkg slot) s = true → exec (.bind slot) s = .next s)
    ∧ (x.op = 1 → x.state = .loading → stillWaking (corePkg slot) s = false →
      ∃ t, exec (.bind slot) s = .next t ∧ (slotRec t slot).op = 0
        ∧ t = { s with core := t.core, sched.slots := t.sched.slots, sched.launches := t.sched.launches }
        ∧ (slot ≠ s.core.id → t.core = s.core)
        ∧ (slot = s.core.id → t.core = loadCore x s ∧ t.core.seq.run = .bound ∧ t.core.launch = x.launch
          ∧ t.core.ord = x.ord ∧ t.core.hall = x.hall ∧ t.core.seq.mode = .program ∧ t.core.seq.pc = 0
          ∧ ∀ r, readS t r = if r = 1 then dw x.args else 0))
    ∧ (∀ pkg (region : BitVec 4) k i, l.loadedAt.find? (fun y => y.1 == pkg) = some k →
      (launchRegions l pkg).findIdx? (fun y => y == region.toNat) = some i →
      let here : Member → Prop := fun m => m ∈ l.members ∧ corePkg m.place = pkg ∧ coreRegion m.place = region.toNat ∧ m.state = .loaded
      let early : Prop := ∃ m ∈ l.members, corePkg m.place = pkg ∧ m.state = .loaded ∧ coreRegion m.place ∈ (launchRegions l pkg).take i
      (s.now.toNat < k.2.toNat + 200 * i ∨ early → exec (.sequencerStart n pkg region) s = .next s)
      ∧ (k.2.toNat + 200 * i ≤ s.now.toNat → ¬ early → ∃ t, exec (.sequencerStart n pkg region) s = .next t
        ∧ t = { s with core.seq.run := t.core.seq.run, sched.slots := t.sched.slots, sched.launches := t.sched.launches }
        ∧ (∀ m, here m → (slotRec t m.place).state = slotUp l)
        ∧ ((∃ m, here m ∧ m.place = s.core.id) → t.core.seq.run = comesUp l false)
        ∧ ((∀ m, here m → m.place ≠ s.core.id) → t.core.seq.run = s.core.seq.run)))
    ∧ (x.state = .running → x.op = 3 →
      let u := setSlotRec { x with op := 0, state := .saving } s
      (own → exec (.save slot) s = .next { u with core.seq.savePending := true })
      ∧ (¬ own → exec (.save slot) s = .next (cutTo slot u)))
    ∧ (∀ e, x.state = .saving → own → s.core.seq.savePending = true →
      (e = false ∧ s.core.seq.run = .running ∨ e = true ∧ s.core.seq.run = .exited) →
      ∃ t, exec (.save slot) s = .next t ∧ t = cutCore e s ∧ t.core.seq.run = .saving e ∧ t.core.seq.savePending = false
        ∧ t.core.mq.region = none ∧ t.core.regs = s.core.regs ∧ t.homes = s.homes ∧ t.sched = s.sched)
    ∧ (x.state = .halted → x.op = 0 → exec (.save slot) s = .next (orderSave slot s))
    ∧ (x.state = .halted → x.op = 3 → own → ∃ t, exec (.save slot) s = .next t ∧ t.core = { s.core with sys := t.core.sys }
        ∧ t.homes = s.homes ∧ (slotRec t slot).op = 0
        ∧ ∃ a ∈ t.sched.saves, a = saveArea x.save (s.core.seq.run == .halted true) t)
    ∧ (∀ e u, x.state = .saving → x.op ≠ 4 → own → s.core.seq.run = .saving e → quiesced s = true → pushOut s = (u, .done) →
      ∃ t, exec (.coreSaved slot) s = .next t ∧ (slotRec t slot).state = .saved ∧ (slotRec t slot).op = 0
        ∧ t.core = (unbindOwn u).core ∧ t.core.seq.run = .unbound ∧ t.core.launch = 0 ∧ t.homes = u.homes
        ∧ saveArea x.save e u ∈ t.sched.saves)
    ∧ (∀ a, x.op = 2 → x.state = .loading → slot = s.core.id → areaOf s x.launch x.sec x.ord = some a →
      stillWaking (corePkg slot) s = false →
      ∃ t, exec (.resume slot) s = .next t
        ∧ t.core = { restoreCore a x s with eng := t.core.eng, grid.feed := t.core.grid.feed }
        ∧ (∀ se r e, vgetD a.image.eng.streams se none = some r → vgetD a.image.eng.exec se none = some e → e.finished = false →
          r.write = false → streamOf t se = some { r with
            ahead := [], nextRead := if srpV t se then srpSeq t se + 1 else r.first })
        ∧ t.core.seq.run = comesUp (launchOf s x.launch) a.exited ∧ t.core.regs = a.image.regs ∧ t.core.seq.pc = a.image.seq.pc
        ∧ t.core.pool = a.image.pool ∧ (slotRec t slot).op = 0 ∧ (slotRec t slot).state = slotUp (launchOf s x.launch)
        ∧ t = { s with
            core := t.core
            sched.slots := t.sched.slots
            sched.launches := t.sched.launches
            homes.layers := t.homes.layers
            net.ringReqs := t.net.ringReqs
            sched.saves := s.sched.saves.filter (fun b => b != a) }
        ∧ (layerOf a.image.id = layerOf slot → t.homes = s.homes ∧ t.net = s.net)
        ∧ (layerOf a.image.id ≠ layerOf slot → ∀ y ∈ t.homes.layers, y.layer = layerOf slot → y.tag = .remoteEscape → y.valid = y.dirty))
    ∧ (∀ y m, ¬ (x.op = 2 ∧ x.state = .loading) → resumeChoice s slot = some (y, m) → coreFree s slot = true →
      (∀ z ∈ s.sched.launches, z.phase = .waiting → z.level.toNat ≤ y.prio.toNat) →
      ∃ t, exec (.resume slot) s = .next t ∧ t = writeResume y m slot s ∧ (slotRec t slot).op = 2 ∧ (slotRec t slot).launch = y.id
        ∧ (slotRec t slot).state = .loading ∧ (slotRec t slot).save = m.area ∧ t.core.regs = s.core.regs)
    ∧ (x.state = .running ∨ x.state = .loading ∨ x.state = .saving ∨ x.state = .halted → (launchOf s x.launch).phase = .doomed →
      (x.op ≠ 4 → exec (.kill slot) s = .next (setSlotRec { x with op := 4 } s))
      ∧ (x.op = 4 → ∃ t, exec (.kill slot) s = .next t ∧ (slotRec t slot).state = .free ∧ t.homes = s.homes
        ∧ t.core.regs = s.core.regs
        ∧ (own → t.core.seq.run = .stopped ∧ t.core.mq.loads = [] ∧ t.core.mq.stores = [] ∧ ∀ q, queueHead t q = none)))
    ∧ (x.state = .running → x.op = 5 →
      let u := setSlotRec { x with op := 0, state := .halted } s
      (own → s.core.seq.run = .running → exec (.halt slot) s = .next { u with core.seq.run := .halted false, core.seq.wait := none })
      ∧ (own → s.core.seq.run = .exited → exec (.halt slot) s = .next { u with core.seq.run := .halted true })
      ∧ (¬ own → exec (.halt slot) s = .next u))
    ∧ (x.state = .halted → x.op ≠ 6 → ∃ t, exec (.releaseHalt slot) s = .next t ∧ t = orderRelease x.launch s
        ∧ (s.core.launch ≠ x.launch ∨ s.core.port.holding = [] → t = { s with
          sched.slots := s.sched.slots.map (fun y => if y.launch = x.launch ∧ y.state = .halted then { y with op := 6 } else y) }))
    ∧ (∀ e, x.state = .halted → x.op = 6 → own → s.core.seq.run = .halted e →
      ∃ t, exec (.releaseHalt slot) s = .next t
        ∧ t = { drainHolding (setSlotRec { x with op := 0, state := .running } s) with
            core.seq.run := if e then .exited else .running
            core.seq.haltRequested := false
            sched.launches := t.sched.launches }
        ∧ (s.core.port.holding = [] → drainHolding (setSlotRec { x with op := 0, state := .running } s)
          = setSlotRec { x with op := 0, state := .running } s)
        ∧ (slotRec t slot).state = .running ∧ (slotRec t slot).op = 0
        ∧ ((∀ y ∈ s.sched.slots, y.id ≠ slot → y.launch = x.launch → y.state ≠ .halted ∧ y.op ≠ 5) →
          ∀ y ∈ t.sched.launches, y.id = x.launch → y.halted = false))
    ∧ exec (.debugHaltRequest n) s = .next { s with
        sched.launches := s.sched.launches.map (fun y => if y.id = n then { y with
          halted := true
          haltCount := if y.halted ∨ y.haltCount = 0xFFFF then y.haltCount else y.haltCount + 1 } else y)
        sched.slots := s.sched.slots.map (fun y => if y.launch = n ∧ y.state = .running then { y with op := 5 } else y)
        core.seq.haltRequested := s.core.seq.haltRequested || (decide (s.core.launch = n) && match s.core.seq.run with
          | .running | .overlay _ | .exited => true
          | _ => false) }

/-- R289, R300-R310, R328, R332, R369, R373: commit, abort and loss. The model's own choices: the die of a lost package's abort record is free
(log entry 12), the order of the two phases (38), what the witness undoes (49), and what becomes of circuits at a loss (58). -/
def Obligations.CommitAndLoss : Prop :=
  ∀ (s : State) (n : Nat) (pkg die : BitVec 7),
    let l := launchOf s n
    let known : Prop := ∃ y ∈ s.sched.launches, y.id = n
    let launches : (LaunchRec → LaunchRec) → List LaunchRec := fun f => s.sched.launches.map (fun y => if y.id = n then f y else y)
    let halls : (HallEntry → HallEntry) → List HallEntry := fun f => s.sched.halls.map (fun h => if h.launch = n then f h else h)
    let doomed : AbortInfo → State := fun info => { s with
      sched.launches := launches (fun y => { y with
        phase := .doomed
        abort := some { info with torn := y.irrev, time := fieldCounter s y.home 0 } })
      sched.halls := halls (fun h => { h with state := .doomed }) }
    (l.phase = .bound → l.halted = false → writesApplied s l false = true → l.pair = 0 → copyDone l false = true →
      exec (.launchReady n) s = .next { s with
        sched.launches := launches (fun y => { y with phase := .ready, readyAt := s.now, readyNo := s.sched.readyCount })
        sched.halls := halls (fun h => if h.state = .running ∨ h.state = .irrevocable then { h with state := .ready } else h)
        sched.readyCount := s.sched.readyCount + 1 })
    ∧ (l.phase ≠ .bound ∨ l.halted = true ∨ (∀ c, writesApplied s l c = false) ∨ (l.pair = 0 ∧ writesApplied s l false = false) →
      exec (.launchReady n) s = .next s)
    ∧ (∀ c, l.phase = .bound → l.halted = false → l.pair ≠ 0 → l.readyCopies = [] → copyDone l c = true → writesApplied s l c = true →
      copyDone l (!c) = false ∨ writesApplied s l (!c) = false → (∀ r ∈ s.homes.heldReds, r.launch ≠ n) →
      exec (.launchReady n) s = .next { s with
        sched.launches := launches (fun y => { y with readyCopies := c :: y.readyCopies, pairSince := s.now }) })
    ∧ (l.pair ≠ 0 → l.phase = .ready → l.pairEqual = false →
      (copyHash s l false = copyHash s l true → ∃ t, exec (.pairCompare n) s = .next t
        ∧ t = { dropGhosts l s with sched.launches := launches (fun y => { y with pairEqual := true }) }
        ∧ t.core = s.core ∧ t.homes.mem = s.homes.mem)
      ∧ (copyHash s l false ≠ copyHash s l true → l.decided = false → exec (.pairCompare n) s = .next (doomed (AbortInfo.of 9))))
    ∧ (l.pair ≠ 0 → l.phase = .bound → l.readyCopies.length = 1 → l.decided = false →
      (pairWaitNs l ≤ (s.now - l.pairSince).toNat → exec (.pairWaitExpiry n) s = .next (doomed (AbortInfo.of 9)))
      ∧ ((s.now - l.pairSince).toNat < pairWaitNs l → exec (.pairWaitExpiry n) s = .next s))
    ∧ (l.phase = .ready → (l.pair = 0 ∨ l.pairEqual = true) →
      (∀ m ∈ s.sched.launches, m.id ≠ n → flipsBefore m l = false
        ∧ ¬ (shareReach l m = true ∧ m.phase = .ready ∧ m.readyNo < l.readyNo)) →
      (∃ g k, l.src = .node g k) ∨ s.homes.layers = [] ∧ s.homes.hubs = [] →
      ∃ t, exec (.commitPrepare n) s = .next t ∧ (launchOf t n).phase = .committing ∧ (launchOf t n).prepared = [l.home]
        ∧ (launchOf t n).readyAt = s.now ∧ t.core = s.core
        ∧ (∀ h, hallOf s n l.home = some h → h.state = .ready → (launchOf t n).preparedAt = (l.home, s.now) :: l.preparedAt)
        ∧ (∀ h, hallOf s n l.home = some h → h.state = .ready → hallOf t n l.home = some { h with state := .committing })
        ∧ ∀ h ∈ l.halls, h.1 ≠ l.home → ∃ q ∈ t.net.ringReqs, q.src = l.home ∧ q.dst = h.1 ∧ q.body = .prepare n)
    ∧ (l.phase = .committing → l.decided = false → (∀ h ∈ l.halls, h.1 ∈ l.prepared) → snoopsDone s l = true →
      l.home ∉ s.health.lostPkgs →
      ∃ t, exec (.commitFlip n) s = .next t ∧ (launchOf t n).decided = true ∧ l.home ∈ (launchOf t n).flipped
        ∧ t.core.regs = s.core.regs
        ∧ (1 < l.halls.length → (launchOf t n).phase = .committing ∧ (launchOf t n).witness = witnessOf s l.home ∧ t.core = s.core)
        ∧ (l.halls.length ≤ 1 → (launchOf t n).phase = .committed
          ∧ (s.core.launch = n → n ≠ 0 → t.core.seq.run = .unbound ∧ t.core.launch = 0)
          ∧ ∀ g k h r w, l.src = .node g k → l.abort = none → hallOf s n l.home = some h → r ∈ s.homes.lines → linePkg r.line = l.home →
            w ∈ r.versions → w.kind = .shadow → w.hall = h.hall → w.ghost = false →
            ∃ r' ∈ t.homes.lines, r'.line = r.line
              ∧ { w with kind := .committed, stamp := (pkgRec s l.home).stamp + 1 } ∈ r'.versions))
    ∧ (l.phase = .committing → l.decided = true → (∀ h ∈ l.halls, h.1 ∈ l.flipped ∨ h.1 ∈ s.health.lostPkgs) →
      ∃ t, exec (.commitFlip n) s = .next t ∧ (launchOf t n).phase = .committed ∧ t.core.regs = s.core.regs)
    ∧ (let late := lateFlips s l
      let gone : Prop := l.decided = false ∨ l.home ∈ s.health.lostPkgs ∧ ∀ p ∈ l.flipped, p = l.home
      (l.phase ≠ .committing ∨ late = [] → exec (.witnessQuery n) s = .next s)
      ∧ (∀ p, p ∈ late ↔ p ≠ l.home ∧ p ∉ l.flipped ∧ p ∉ s.health.lostPkgs
        ∧ ∃ k, (p, k) ∈ l.preparedAt ∧ 1000000 ≤ (s.now - k).toNat)
      ∧ (l.phase = .committing → late ≠ [] → l.witness = none → ¬ gone → exec (.witnessQuery n) s = .next s)
      ∧ (l.phase = .committing → late ≠ [] → l.witness = none → gone → exec (.witnessQuery n) s = .next { s with
          sched.launches := launches (fun y => { y with
            decided := false
            phase := .doomed
            abort := some { AbortInfo.of 11 with
              addr := lostDieAddr l.home ((Config.freeWord s.fresh).setWidth 7)
              torn := y.irrev
              time := fieldCounter s y.home 0 } })
          sched.halls := halls (fun h => { h with state := .doomed })
          fresh := s.fresh + 1 })
      ∧ (∀ w, l.phase = .committing → late ≠ [] → l.witness = some w → l.decided = true →
        ∃ t, exec (.witnessQuery n) s = .next t ∧ (∀ p ∈ late, p ∈ (launchOf t n).flipped) ∧ t.core.regs = s.core.regs
          ∧ ((∀ h ∈ l.halls, h.1 ∈ l.flipped ∨ h.1 ∈ late ∨ h.1 ∈ s.health.lostPkgs) → (launchOf t n).phase = .committed)))
    ∧ (l.phase ≠ .doomed → abortable l = true → exec (.abortDecide n) s = .next (doomed (AbortInfo.of 10)))
    ∧ (known → l.phase = .doomed → ∃ t, exec (.abortDecide n) s = .next t ∧ (∀ m ∈ (launchOf t n).members, m.state = .stopped)
        ∧ t.core.regs = s.core.regs ∧ t.homes = s.homes
        ∧ (s.core.launch ≠ n → t = { s with sched.launches := t.sched.launches }))
    ∧ (l.phase = .doomed → (∀ m ∈ l.members, m.state = .stopped) →
      ∃ t, exec (.launchAborted n) s = .next t ∧ (launchOf t n).phase = .aborted ∧ t.core.regs = s.core.regs
        ∧ (∀ a ∈ t.sched.saves, a.launch ≠ n) ∧ (n ≠ 0 → ∀ x ∈ t.sched.pages, x.1 ≠ n) ∧ (s.core.launch = n → n ≠ 0 → t.core.launch = 0)
        ∧ ∀ h ∈ t.sched.halls, h.launch = n → h.state = .discarding)
    ∧ (∃ t, exec (.dieLoss pkg die) s = .next t ∧ (pkg, die) ∈ t.health.lostDies ∧ t.core.regs = s.core.regs
        ∧ t.homes = s.homes ∧ t.power = s.power ∧ t.fresh = s.fresh
        ∧ (l ∈ s.sched.launches → abortable l = true →
          (l.touched.any (fun k => k.1 == pkg && k.2.getLsbD die.toNat) = true → (launchOf t n).phase = .doomed
            ∧ ∃ r, (launchOf t n).abort = some r ∧ r.cause = 11 ∧ r.addr = lostDieAddr pkg die)
          ∧ ((∀ y ∈ s.sched.launches, y.id = n → y = l) →
            l.touched.any (fun k => k.1 == pkg && k.2.getLsbD die.toNat) = false → launchOf t n = l)))
    ∧ (∃ t, exec (.packageLoss pkg) s = .next t ∧ pkg ∈ t.health.lostPkgs
        ∧ t = { s with
            fresh := t.fresh
            health.lostPkgs := t.health.lostPkgs
            sched.launches := t.sched.launches
            sched.halls := t.sched.halls
            sched.slots := s.sched.slots.map (fun x => if corePkg x.id = pkg then { x with removed := true } else x)
            net.ringReqs := s.net.ringReqs.filter (fun r => r.src != pkg && r.dst != pkg)
            net.ringResps := s.net.ringResps.filter (fun r => r.src != pkg && r.dst != pkg) }
        ∧ (l ∈ s.sched.launches → abortable l = true → l.hallMask.getLsbD pkg.toNat = true → ¬ (l.phase = .committing ∧ l.home = pkg) →
          (launchOf t n).phase = .doomed ∧ ∃ r, (launchOf t n).abort = some r ∧ r.cause = 11)
        ∧ ((∀ y ∈ s.sched.launches, y.id = n → y.hallMask.getLsbD pkg.toNat = false) →
          launchOf t n = if l.witness = some pkg then { l with witness := none } else l))
    ∧ (exec (.stationLoss pkg) s = .next (if pkg ∈ s.net.lostStations then s
        else { s with net.lostStations := pkg :: s.net.lostStations }))
    ∧ ((pkg, die) ∉ s.health.lostDies →
      let missed := s.health.heartbeats.find? (fun x => x.1 == pkg && x.2.1 == die)
      let c := match missed with
        | some k => if 2000000 ≤ (s.now - k.2.2.2).toNat then 1 else k.2.2.1 + 1
        | none => 1
      (3 ≤ c → ∃ t, exec (.heartbeatMiss pkg die) s = .next t ∧ (pkg, die) ∈ t.health.lostDies ∧ exec (.dieLoss pkg die) s = .next t)
      ∧ (c < 3 → exec (.heartbeatMiss pkg die) s = .next { s with
          health.heartbeats := (pkg, die, c, s.now) :: s.health.heartbeats.filter (fun x => !(x.1 == pkg && x.2.1 == die)) }))

/-- R280-R283, R320, R321: nodes of a task graph. That a loop's body counts with the status of its last iteration is the model's own choice
(log entry 61). -/
def Obligations.TaskGraphs : Prop :=
  ∀ (s : State) (gid n : Nat) (g : GraphRec), graphOf s gid = some g →
    let x := nodeState g n
    let gets : Out → (NodeState → Prop) → (State → GraphRec → Prop) → Prop := fun o p q =>
      ∃ t g', o = .next t ∧ graphOf t gid = some g' ∧ p (nodeState g' n) ∧ q t g'
        ∧ t = { s with homes := t.homes, net.homeSeen := t.net.homeSeen, sched := t.sched }
    let any : State → GraphRec → Prop := fun _ _ => True
    let taken := setNode gid n (takeUp s g n) s
    let notRun : List Nat → Nat → State → GraphRec → Prop := fun ts chosen t g' => t = chooseTarget gid n ts chosen taken
      ∧ ∀ m, (ts.filter (fun k => k != chosen && k != 0xFFFF)).head? = some m → m < nodeCount g → m ≠ n →
        (nodeState g m).status = 0 → nodeKind taken g m ≠ 4 → (nodeState g' m).status = 4
    (nodeKind s g n = 0 →
      let r := checkRecord s (nodeLrec s g n) (.node gid n) (nodePrio s g n) (nodeBindings s g n)
      (nodeEligible s g n = true → r.1 = 0 → gets (exec (.kernelNode gid n) s)
        (fun y => y.status = 1 ∧ y.launch = some r.2.id)
        (fun t _ => t.sched.nextLaunch = s.sched.nextLaunch + 1 ∧ ∃ y ∈ t.sched.launches, y.id = r.2.id ∧ y.image = r.2.image))
      ∧ (nodeEligible s g n = true → r.1 ≠ 0 → gets (exec (.kernelNode gid n) s) (fun y => y.status = 5) (fun _ g' => n ∈ g'.failed))
      ∧ (∀ k, x.status = 1 → x.launch = some k → (launchOf s k).phase = .committed →
        gets (exec (.kernelNode gid n) s) (fun y => y.status = 2) any)
      ∧ (∀ k, x.status = 1 → x.launch = some k → (launchOf s k).phase = .aborted →
        gets (exec (.kernelNode gid n) s) (fun y => y.status = 5) (fun _ g' => n ∈ g'.failed
          ∧ ∀ m a, loopOf s g n = some m → (launchOf s k).abort = some a → a.cause = 1 →
            a.winnerLaunch ≠ 0 → (nodeState g' m).hold = some a.winnerLaunch)))
    ∧ holdOpen s (some 0) = false
    ∧ (∀ w, nodeKind s g n = 1 → nodeEligible s g n = true → nodeWord s g n = some w →
      gets (exec (.conditionNode gid n) s) (fun y => y.status = 2)
        (notRun [nodeTarget s g n 0, nodeTarget s g n 1] (nodeTarget s g n (if w ≠ 0 then 0 else 1))))
    ∧ (∀ w, nodeKind s g n = 3 → nodeEligible s g n = true → nodeWord s g n = some w →
      let count := fieldN (nodeHead s g n) 32 4
      gets (exec (.switchNode gid n) s) (fun y => y.status = 2)
        (notRun ((List.range count).map (nodeTarget s g n)) (nodeTarget s g n (min w (count - 1)))))
    ∧ (nodeKind s g n = 4 → nodeEligible s g n = true → gets (exec (.joinNode gid n) s) (fun y => y.status = 2) any)
    ∧ (∀ w, nodeKind s g n = 2 → nodeWord s g n = some w →
      let h := nodeHead s g n
      let limit := fieldN h 16 16
      let body := nodeTarget s g n 0
      let b := nodeState g body
      let runs : Bool := if h.getLsbD 11 then w != 0 else w == 0
      let again : Prop := g.running = true ∧ x.status = 1 ∧ b.taken = x.iterations ∧ nodeFinished b = true ∧ holdOpen s x.hold = false
      let opens : Nat → Prop := fun k => gets (exec (.loopNode gid n) s)
        (fun y => y.status = 1 ∧ y.iterations = k + 1 ∧ y.hold = none)
        (fun _ g' => body < nodeCount g → (nodeState g' body).status = 0 ∧ (nodeState g' body).taken = k
          ∧ (nodeState g' body).launch = none)
      (nodeEligible s g n = true → runs = true → limit ≠ 0 → body ≠ n → opens 0)
      ∧ (again → runs = true → x.iterations < limit → body ≠ n → opens x.iterations)
      ∧ (nodeEligible s g n = true ∨ again → runs = false → gets (exec (.loopNode gid n) s) (fun y => y.status = 2) any)
      ∧ (nodeEligible s g n = true → runs = true → limit = 0 → gets (exec (.loopNode gid n) s) (fun y => y.status = 3) any)
      ∧ (again → runs = true → limit ≤ x.iterations → gets (exec (.loopNode gid n) s) (fun y => y.status = 3) any))

/-- R141-R145, R335, R336, R339-R342, R345, R348-R351: the packet plane and the circuit plane. The model's choices: what another core
answers (log entry 13), which `SEND` keeps a circuit from its idle release (58), which probe comes first (60), a header that no device sends
(71), the resume point of a window that ends at 2^32 (83), a clasp that ends with ERR (86), a flit that meets a link which cannot carry it
(47), and a window that had passed before (39). -/
def Obligations.Mesh : Prop :=
  ∀ (s : State) (i : Nat),
    let still : State → Prop := fun t => t.core.regs = s.core.regs ∧ t.homes = s.homes
    let answers : State → BitVec 4 → (Packet → Prop) → Prop := fun t k f => ∃ a, t.net.packets.getLast? = some a ∧ a.kind = k ∧ f a
    (let pkg := BitVec.ofNat 7 (i / 2 ^ 15)
      let r : Router := BitVec.ofNat 15 i
      let idle : Dir → Prop := fun d => inbound s pkg r d = [] ∨ linkCarries s (meshLink 0 pkg r d) = false
      (∀ (d : Dir) f rest p, d ∈ ([1, 2, 3, 4] : List Dir) → (∀ e ∈ ([1, 2, 3, 4] : List Dir), e.toNat < d.toNat → idle e) →
        inbound s pkg r d = f :: rest → linkCarries s (meshLink 0 pkg r d) = true → packetOf s f.pkt = some p →
        let link := meshLink 0 pkg r d
        let old := linkRec s link
        let east := d.toNat = 1 ∨ d.toNat = 4
        let way := if east then old.fwd else old.back
        let good := f.seq = way.expect ∧ f.crc = crc32c (flitBytes p f.idx)
        let way' : LinkDir := if good then { way with wire := rest, expect := way.expect + 1 }
          else { way with wire := way.replay.reverse.dropWhile (fun x => x.seq != way.expect) }
        ∃ t, exec (.flitForward i) s = .next t
          ∧ t = { s with net.flits := t.net.flits, net.links := t.net.links }
          ∧ t.net.flits = (if good then s.net.flits ++ [f] else s.net.flits)
          ∧ linkRec t link = { old with
              fwd := if east then way' else old.fwd
              back := if east then old.back else way'
              lastTraffic := if good then s.now else old.lastTraffic
              fails := if good then 0 else old.fails + 1 }
          ∧ ∀ m, m ≠ link → linkRec t m = linkRec s m)
      ∧ ((∀ d ∈ ([1, 2, 3, 4] : List Dir), idle d) →
      (∀ f k rest p, headFlits s pkg r = (f, k) :: rest → packetOf s f.pkt = some p → flitMoves s p f = true →
        let d := routeDir false f.router p.dest
        (headerLegal p = false → exec (.flitForward i) s = .next { dropPacket p.id s with
          health.linkErrors := s.health.linkErrors ++ [p.pkg.toNat * 2 ^ 15 + f.router.toNat] })
        ∧ (headerLegal p = true → d = 0 → exec (.flitForward i) s =
          .next (updPacket p.id (fun x => { x with ejected := x.ejected + 1 }) { s with net.flits := s.net.flits.eraseIdx k }))
        ∧ (headerLegal p = true → d ≠ 0 →
          let link := meshLink 0 p.pkg f.router d
          let old := linkRec s link
          let east := d.toNat = 2 ∨ d.toNat = 3
          let way := if east then old.fwd else old.back
          let f' : Flit := { f with seq := way.next, router := routerStep f.router d, input := inputOf d }
          let way' : LinkDir := { way with next := way.next + 1, replay := f' :: way.replay.take 63, wire := way.wire ++ [f'] }
          ∃ t, exec (.flitForward i) s = .next t
            ∧ t = { s with net.flits := t.net.flits, net.links := t.net.links, net.waking := t.net.waking }
            ∧ t.net.flits = s.net.flits.eraseIdx k
            ∧ linkRec t link = { old with
                fwd := if east then way' else old.fwd
                back := if east then old.back else way'
                lastTraffic := s.now }
            ∧ ∀ m, m ≠ link → linkRec t m = linkRec s m))
      ∧ (∀ p, headFlits s pkg r = [] → nextInject s pkg r = some p → exec (.flitForward i) s =
        .next (updPacket p.id (fun x => { x with sent := x.sent + 1 }) { s with
          net.flits := s.net.flits ++ [⟨p.id, p.sent, p.src, 0, p.cls, 0, crc32c (flitBytes p p.sent)⟩] }))))
    ∧ (∀ p, s.net.packets[i]? = some p → nextArrived s p = true → (p.kind = 2 ∨ p.kind = 3) →
      let ev : Instr := if p.kind = 2 then .packetPlacement i else .claspPlacement i
      let ack : BitVec 2 → State → State := fun result u =>
        sendPacket { controlPacket 5 p.pkg p.receiver p.sender p.label p.ofs 0 p.cmd result with launch := p.launch, sec := p.sec }
          { u with core.port.holding := u.core.port.holding.filter (fun x => x != .packet p.id) }
      let waits : State → State := updPacket p.id (fun x => { x with answered := true })
      (holderOf s p.launch p.sec p.ord = .own → ∀ s',
        (∀ bs, placeLabel p.label p.ofs.toNat (p.ofs.toNat + p.data.length) p.data s = (s', .ok bs) →
          (p.kind = 2 → exec ev s = .next (ack 0 (dropPacket p.id s')))
          ∧ (p.kind = 3 → exec ev s = .next (ack 0 (dropPacket p.id { s' with
            net.circuits := s'.net.circuits.map (fun c =>
              if c.promoted ∧ c.sender = p.sender ∧ c.receiver = p.receiver ∧ c.label = p.label then
                { c with armed := true, claspEnd := p.aux.toNat } else c) }))))
        ∧ (placeLabel p.label p.ofs.toNat (p.ofs.toNat + p.data.length) p.data s = (s', .refused) →
          exec ev s = .next (ack 1 (waits s')))
        ∧ (placeLabel p.label p.ofs.toNat (p.ofs.toNat + p.data.length) p.data s = (s', .error) →
          exec ev s = .next (ack 2 (dropPacket p.id s'))))
      ∧ (holderOf s p.launch p.sec p.ord = .frozen →
        (holdingRoom s (.packet p.id) = true →
          exec ev s = .next { s with core.port.holding := s.core.port.holding ++ [.packet p.id] })
        ∧ (holdingRoom s (.packet p.id) = false → exec ev s = .next (ack 1 (waits s))))
      ∧ (holderOf s p.launch p.sec p.ord = .gone → exec ev s = .next (ack 2 (dropPacket p.id s)))
      ∧ (holderOf s p.launch p.sec p.ord = .away →
        savedLabel s p.launch p.sec p.ord p.label p.ofs.toNat p.data.length = .refused → exec ev s = .next (ack 1 (waits s))))
    ∧ (∀ p, s.net.packets[i]? = some p → p.kind = 5 → nextArrived s p = true → answeredAccess (dropPacket p.id s) p = none →
      let u := dropPacket p.id s
      (p.result = 1 → exec (.placementAcknowledgement i) s = .next { u with
        net.packets := u.net.packets.map (fun x =>
          if x.answered ∧ x.sender = p.receiver ∧ x.cmd = p.cmd ∧ x.launch = p.launch ∧ (x.kind = 2 ∨ x.kind = 3) then
            { x with retryAt := s.now + 1000 } else x) })
      ∧ ∀ c x, p.receiver = s.core.id → copyCommand s p.launch p.cmd = some c → execOf s 5 = some x →
        (p.result = 0 → ∃ t, exec (.placementAcknowledgement i) s = .next t ∧ t = finishCmd 5 (noteClasp c u) ∧ still t
          ∧ execOf t 5 = some { x with finished := true })
        ∧ (p.result = 2 → ∃ t, exec (.placementAcknowledgement i) s = .next t ∧ t = commandError 5 u ∧ still t
          ∧ execOf t 5 = some { x with finished := true, err := true }
          ∧ t.core.eng.faults = s.core.eng.faults ++ [⟨5, subCommand, 0, 0⟩]))
    ∧ (∀ p, s.net.packets[i]? = some p → p.retryAt ≠ 0 → p.retryAt.toNat ≤ s.now.toNat →
      let moved := p.sender = s.core.id ∧ p.launch = s.core.launch ∧ corePkg (ordPlace s p.ord) ≠ p.pkg
      let dst := match holderOf s p.launch p.sec p.ord with
        | .own | .frozen => s.core.id
        | .other id => id
        | .away | .gone => p.receiver
      (moved → exec (.reoffer i) s = .next (setCursor 0 (dropPacket p.id s)))
      ∧ (¬ moved → exec (.reoffer i) s = .next { s with
        net.packets := s.net.packets.filter (fun x => x.id != p.id) ++
          [{ p with sent := 0, ejected := 0, answered := false, retryAt := 0, receiver := dst, dest := routerOf dst }] }))
    ∧ (∀ e p, s.net.packets.length ≤ i → s.net.remote[i - s.net.packets.length]? = some e → e.retryAt ≠ 0 →
      e.retryAt.toNat ≤ s.now.toNat → packetOf s e.pkt = some p →
      let moved := e.sender = s.core.id ∧ e.launch = s.core.launch ∧ corePkg (ordPlace s e.ord) ≠ p.pkg
      let dst := match holderOf s p.launch p.sec p.ord with
        | .own | .frozen => s.core.id
        | .other id => id
        | .away | .gone => p.receiver
      let j := i - s.net.packets.length
      let again := s.net.remote.modify j (fun x => { x with retryAt := 0 })
      (moved → exec (.reoffer i) s = .next (dropPacket p.id { s with net.remote := again.eraseIdx j }))
      ∧ (¬ moved → exec (.reoffer i) s = .next { s with
        net.remote := again
        net.packets := s.net.packets.filter (fun x => x.id != p.id) ++
          [{ p with sent := 0, ejected := 0, answered := false, retryAt := 0, receiver := dst, dest := routerOf dst }] }))
    ∧ (∀ m, s.core.port.meters[i]? = some m →
      let key := fun (x : Meter) => x.dest == m.dest && x.label == m.label
      let idle := m.count = 0 ∧ m.tripped = false
      let onward := s.core.port.meters.map (fun x => if key x then { x with
        count := 0, holdOff := x.holdOff - 1, started := false, intervalEnd := x.intervalEnd + meterInterval s } else x)
      (s.now.toNat < m.intervalEnd.toNat → exec (.meterIntervalEnd i) s = .next s)
      ∧ (m.intervalEnd.toNat ≤ s.now.toNat → m.slot = none → idle → exec (.meterIntervalEnd i) s =
        .next { s with core.port.meters := s.core.port.meters.filter (fun x => !key x) })
      ∧ (m.intervalEnd.toNat ≤ s.now.toNat →
        (m.slot = none ∧ ¬ idle ∨ m.slot ≠ none ∧ (m.started = true ∨ sendOnCircuit m s = true)) →
        exec (.meterIntervalEnd i) s = .next { s with core.port.meters := onward })
      ∧ (∀ h c, m.intervalEnd.toNat ≤ s.now.toNat → m.slot = some h → m.started = false → sendOnCircuit m s = false →
        ownCircuit s h = some c → ∃ t, exec (.meterIntervalEnd i) s = .next t
          ∧ t = releasePromoted c { s with core.port.meters := onward } ∧ still t ∧ (handleOf t c.slot).st = 0
          ∧ answers t 8 (fun a => a.cmd = c.id ∧ a.sender = c.sender ∧ a.receiver = c.receiver)
          ∧ ownCircuit t c.slot ≠ some c))
    ∧ (∀ p, s.net.probes[i]? = some p →
      let d := probeOutput p
      let blocked : Bool := outputHeld s p.pkg p.pos d || (d == 0 && !portAccepts s p)
      let c : Circuit := ⟨p.id, p.pkg, p.reserved, p.sender, p.receiver, p.slot, p.label, p.promoted, false, 0, 0, [], false⟩
      let made := { dropProbe p s with net.circuits := s.net.circuits ++ [c] }
      let owns := fun (m : Meter) => m.dest == p.ord && m.label == p.label && m.tripped
      (p.state = .launch → exec (.probeAction i) s = .next (setProbe { p with state := .advance } s))
      ∧ (p.state = .advance → probeYields s p = true → exec (.probeAction i) s = .next s)
      ∧ (p.state = .advance → probeYields s p = false → blocked = true →
        (2 ≤ p.b → exec (.probeAction i) s = .next (setProbe { p with b := 3, state := .giveUp } s))
        ∧ (p.b < 2 → p.reserved = [] → exec (.probeAction i) s = .next (setProbe { p with b := p.b + 1, yFirst := !p.yFirst } s))
        ∧ ∀ rest r (o : Dir), p.b < 2 → p.reserved = rest ++ [(r, o)] → exec (.probeAction i) s = .next (setProbe { p with
            b := p.b + 1, reserved := rest, pos := r, yFirst := o == 2 || o == 4
            input := match rest.getLast? with | some x => inputOf x.2 | none => 0 } s))
      ∧ (p.state = .advance → probeYields s p = false → blocked = false →
        (d = 0 → exec (.probeAction i) s = .next (noteWon p.pkg p.pos d p.input
          (setProbe { p with reserved := p.reserved ++ [(p.pos, 0)], state := .confirm p.reserved.length } s)))
        ∧ (d ≠ 0 → exec (.probeAction i) s = .next (wakeLink (meshLink 1 p.pkg p.pos d) (noteWon p.pkg p.pos d p.input
          (setProbe { p with reserved := p.reserved ++ [(p.pos, d)], pos := routerStep p.pos d, input := inputOf d } s)))))
      ∧ (∀ k, p.state = .confirm (k + 1) → exec (.probeAction i) s = .next (setProbe { p with state := .confirm k } s))
      ∧ (p.state = .confirm 0 → pathOut s p = true → exec (.probeAction i) s = .next (setProbe { p with b := 3, state := .giveUp } s))
      ∧ (p.state = .confirm 0 → pathOut s p = false → narrowLinks s p ≠ [] →
        exec (.probeAction i) s = .next ((narrowLinks s p).foldl (fun u l => wakeLink l u) s))
      ∧ (p.state = .confirm 0 → pathOut s p = false → narrowLinks s p = [] →
        (p.sender = s.core.id → p.promoted = true →
          ((∃ m ∈ s.core.port.meters, owns m = true) → exec (.probeAction i) s = .next { made with
            core.port.meters := s.core.port.meters.map (fun m =>
              if owns m then { m with slot := some p.slot, tripped := false, clasped := false, started := true } else m) })
          ∧ ((∀ m ∈ s.core.port.meters, owns m = false) → exec (.probeAction i) s = .next (releasePromoted c made))) ∧
        (p.sender ≠ s.core.id → exec (.probeAction i) s = .next made)
        ∧ (p.sender = s.core.id → p.promoted = false → exec (.probeAction i) s = .next (finishCmd 5 (setHandle p.slot
          { handleOf s p.slot with st := 2, leaseEnd := counterOf s s.core.id + dw p.lease } made))))
      ∧ (p.state = .giveUp → p.reserved ≠ [] →
        exec (.probeAction i) s = .next (setProbe { p with reserved := p.reserved.dropLast } s))
      ∧ (p.state = .giveUp → p.reserved = [] → exec (.probeAction i) s = .next (probeEnd p s)))
    ∧ (∀ b c, s.net.beats[i]? = some b → circuitOf s b.circuit = some c → firstBeat s i b = true →
      let u := circuitTraffic c { s with net.beats := s.net.beats.eraseIdx i }
      let start := if c.promoted then c.claspEnd + c.taken else b.window
      let mine := c.receiver = s.core.id ∧ s.core.seq.run = .running
      let frozen := c.receiver = s.core.id ∧ ∃ r, s.core.seq.run = .halted r
      let ofs := start + (b.ofs - b.window)
      (b.check = none → (c.promoted = true → c.armed = true) → c.receiver ≠ s.core.id → exec (.circuitBeat i) s = .next u)
      ∧ (∀ a, b.check = none → c.receiver = s.core.id → s.core.seq.run = .running → (c.promoted = true → c.armed = true) →
        rxWindow s c.id start = none → labelAddr s.core c.label ofs b.data.length = some a →
        wordAnswer s c.label a b.data.length = .allowed → windowFits u c b.window = true →
        ∃ t, exec (.circuitBeat i) s = .next t
          ∧ t = { u with
              core.pool := t.core.pool
              net.rx := s.net.rx ++ [⟨c.id, c.label, start, (List.range ((b.data.length + 3) / 4)).map (fun k => a / 4 * 4 + 4 * k),
                b.data.zipIdx.map (fun x => (ofs + x.2, x.1)), true, false, false, false⟩] }
          ∧ (∀ x, poolByte t x = if a ≤ x ∧ x < a + b.data.length then b.data.getD (x - a) 0 else poolByte s x))
      ∧ (b.check = none → mine → (c.promoted = true → c.armed = true) →
        let seen := b.data.zipIdx.map (fun x => (ofs + x.2, x.1))
        let new : Bool → Bool → RxWindow := fun refused range => ⟨c.id, c.label, start, [], seen, false, refused, range, false⟩
        let addr := labelAddr s.core c.label ofs b.data.length
        let answer := fun a => wordAnswer s c.label a b.data.length
        (rxWindow s c.id start = none →
          (∀ a, addr = some a → windowFits u c b.window = true → answer a = .wait →
            exec (.circuitBeat i) s = .next { u with net.rx := s.net.rx ++ [new true false] })
          ∧ ((∀ a, addr = some a → windowFits u c b.window = false ∨ answer a = .fault) →
            exec (.circuitBeat i) s = .next { u with net.rx := s.net.rx ++ [new false true] }))
        ∧ ∀ w, rxWindow s c.id start = some w →
          (∀ a, w.refused = false → w.range = false → addr = some a → windowFits u c b.window = true → answer a = .allowed →
            ∃ t, exec (.circuitBeat i) s = .next t
              ∧ t = { u with core.pool := t.core.pool, net.rx := t.net.rx }
              ∧ rxWindow t c.id start = some { w with
                  data := w.data ++ seen, counted := true
                  placed := w.placed ++ (List.range ((b.data.length + 3) / 4)).map (fun k => a / 4 * 4 + 4 * k) }
              ∧ ∀ x, poolByte t x = if a ≤ x ∧ x < a + b.data.length then b.data.getD (x - a) 0 else poolByte s x)
          ∧ (w.refused = true ∨ w.range = true → ∃ t, exec (.circuitBeat i) s = .next t ∧ t = { u with net.rx := t.net.rx }
            ∧ rxWindow t c.id start = some { w with data := w.data ++ seen }))
      ∧ (b.check = none → frozen → (c.promoted = true → c.armed = true) →
        (holdingRoom s (.beat b) = true →
          exec (.circuitBeat i) s = .next { u with core.port.holding := s.core.port.holding ++ [.beat b] })
        ∧ (holdingRoom s (.beat b) = false → ∃ t w, exec (.circuitBeat i) s = .next t ∧ t = { u with net.rx := t.net.rx }
          ∧ rxWindow t c.id start = some w ∧ w.refused = true))
      ∧ (b.check.isSome = true → frozen →
        let refused := holdingRoom s (.beat b) = false ∨ ∃ w, rxWindow s c.id start = some w ∧ w.refused = true
        (¬ refused → exec (.windowCheck i) s = .next { u with core.port.holding := s.core.port.holding ++ [.beat b] })
        ∧ (refused → ∃ t, exec (.windowCheck i) s = .next t ∧ still t
          ∧ answers t 7 (fun a => a.cmd = c.id ∧ a.ofs = BitVec.ofNat 32 start ∧ a.aux = 1)
          ∧ ∀ h, h ∈ t.core.port.holding ↔ h ∈ s.core.port.holding ∧ ∀ x, h = .beat x → ¬ (x.circuit = c.id ∧ x.window = b.window)))
      ∧ (b.check.isSome = true → c.receiver ≠ s.core.id → ∃ t, exec (.windowCheck i) s = .next t ∧ still t ∧ t.fresh = s.fresh + 1 ∧
        let about := fun (a : Packet) => a.cmd = c.id ∧ a.ofs = BitVec.ofNat 32 b.window
        match Config.otherAnswer s.fresh % 5 with
        | 0 => answers t 6 about
        | 1 => answers t 7 (fun a => about a ∧ a.aux = 0)
        | 2 => answers t 7 (fun a => about a ∧ a.aux = 1)
        | 3 => answers t 7 (fun a => about a ∧ a.aux = 2)
        | _ => ∀ x ∈ t.net.circuits, x.id ≠ c.id)
      ∧ (∀ crc w o, b.check = some crc → mine → rxWindow s c.id start = some w → passedBefore s c start = some o → w.placed = [] →
        windowCrc o.start (o.data.map (fun x => x.2)) = crc → o.data.length = w.data.length →
        ∃ t, exec (.windowCheck i) s = .next t ∧ t.core = s.core
          ∧ t.net.rx = s.net.rx.filter (fun x => x != w && x != o) ++ [{ o with circuit := c.id }]
          ∧ circuitOf t c.id = some { c with taken := c.taken + w.data.length }
          ∧ answers t 6 (fun a => a.cmd = c.id ∧ a.ofs = BitVec.ofNat 32 w.start))
      ∧ (∀ crc w, b.check = some crc → mine → rxWindow s c.id start = some w → (passedBefore s c start = none ∨ w.placed ≠ []) →
        (w.range = true → ∃ t, exec (.windowCheck i) s = .next t ∧ still t ∧ rxWindow t c.id start = none
          ∧ circuitOf t c.id = some { c with taken := c.taken + w.data.length }
          ∧ answers t 7 (fun a => a.cmd = c.id ∧ a.ofs = BitVec.ofNat 32 w.start ∧ a.aux = 2))
        ∧ (w.range = false → w.refused = true → ∃ t, exec (.windowCheck i) s = .next t ∧ still t
          ∧ rxWindow t c.id start = some { w with placed := [], data := [], refused := false }
          ∧ circuitOf t c.id = some c
          ∧ answers t 7 (fun a => a.cmd = c.id ∧ a.ofs = BitVec.ofNat 32 w.start ∧ a.aux = 1)))
      ∧ (∀ crc w, b.check = some crc → mine → rxWindow s c.id start = some w →
        (passedBefore s c start = none ∨ w.placed ≠ []) → w.range = false → w.refused = false →
        let agrees := windowCrc w.start (w.data.map (fun x => x.2)) = crc
        (agrees → ∃ t, exec (.windowCheck i) s = .next t ∧ still t ∧ t.net.beats = u.net.beats
          ∧ rxWindow t c.id start = some { w with passed := true, counted := false }
          ∧ circuitOf t c.id = some { c with taken := c.taken + w.data.length }
          ∧ answers t 6 (fun a => a.cmd = c.id ∧ a.ofs = BitVec.ofNat 32 w.start))
        ∧ (¬ agrees → ∃ t, exec (.windowCheck i) s = .next t ∧ still t ∧ t.net.beats = u.net.beats
          ∧ rxWindow t c.id start = some { w with placed := [], data := [], refused := false }
          ∧ circuitOf t c.id = some c
          ∧ answers t 7 (fun a => a.cmd = c.id ∧ a.ofs = BitVec.ofNat 32 w.start ∧ a.aux = 0))))
    ∧ (∀ p c w, s.net.packets[i]? = some p → nextArrived s p = true → circuitOf s p.cmd = some c → txWindow c p.ofs.toNat = some w →
      let u := dropPacket p.id s
      let old := handleOf s c.slot
      let upd : (TxWindow → TxWindow) → State := fun f =>
        updCircuit c.id (fun c => { c with tx := c.tx.map (fun y => if y.start = w.start then f y else y) }) u
      (p.kind = 6 → c.sender = s.core.id → c.promoted = false → ∃ t, exec (.windowAcknowledgement i) s = .next t ∧ still t
        ∧ handleOf t c.slot = (if old.resumeCmd = w.cmd ∧ w.start + w.len ≤ (if old.resume = 0 then 2 ^ 32 else old.resume.toNat)
            then old else { old with resume := BitVec.ofNat 32 (w.start + w.len), resumeCmd := w.cmd })
        ∧ circuitOf t p.cmd = some { c with tx := c.tx.filter (fun y => y.start != w.start) })
      ∧ (∀ y r, p.kind = 6 → c.sender = s.core.id → c.promoted = true → queueHead s 5 = some y → y.op = .sendCmd →
        execOf s 5 = some r → r.cursor = 2 → ∃ t, exec (.windowAcknowledgement i) s = .next t ∧ still t
        ∧ execOf t 5 = some { r with finished := true }
        ∧ circuitOf t p.cmd = some { c with tx := c.tx.filter (fun y => y.start != w.start) })
      ∧ (∀ y r, p.kind = 7 → p.aux = 2 → c.sender = s.core.id → queueHead s 5 = some y → execOf s 5 = some r →
        ∃ t, exec (.windowNak i) s = .next t ∧ still t
        ∧ circuitOf t p.cmd = some { c with tx := c.tx.filter (fun y => y.cmd != w.cmd) }
        ∧ (y.id ≠ w.cmd → t.core = s.core)
        ∧ (y.id = w.cmd → c.promoted = true → y.op = .sendCmd → execOf t 5 = some { r with finished := true, err := true }
          ∧ t.core.eng.faults = s.core.eng.faults ++ [⟨5, subCommand, 0, 0⟩])
        ∧ (y.id = w.cmd → streamsOn c.slot y = true → execOf t 5 = some { r with finished := true, err := true }
          ∧ t.core.eng.faults = s.core.eng.faults))
      ∧ (p.kind = 7 → p.aux = 2 → c.sender ≠ s.core.id → exec (.windowNak i) s =
        .next (updCircuit c.id (fun c => { c with tx := c.tx.filter (fun y => y.start != w.start) }) u))
      ∧ (p.kind = 7 → p.aux = 1 → exec (.windowNak i) s = .next (upd (fun y => { y with retryAt := some (s.now + 1000) })))
      ∧ (p.kind = 7 → p.aux = 0 → w.fails < 2 →
        exec (.windowNak i) s = .next (upd (fun y => { y with fails := y.fails + 1, retryAt := some s.now })))
      ∧ (p.kind = 7 → p.aux = 0 → 2 ≤ w.fails → ∃ t, exec (.windowNak i) s = .next t ∧ t = cutCircuit c.id 2 u ∧ still t
        ∧ ∀ x ∈ t.net.circuits, x.id ≠ c.id))
    ∧ (∀ p c, s.net.packets[i]? = some p → p.kind = 8 → nextArrived s p = true → circuitOf s p.cmd = some c →
      ∃ t, exec (.circuitRelease i) s = .next t ∧ t = removeCircuit c (dropPacket p.id s) ∧ still t
        ∧ (∀ x ∈ t.net.circuits, x.id ≠ c.id) ∧ ∀ x ∈ s.net.circuits, x.id ≠ c.id → x ∈ t.net.circuits)

/-- R342, R352-R355, R360-R368, R371: links and rings. The model's choices: a detour and the width after a retrain (log entry 47), room at a
target, queues and bridges of the rings (48), links in their default state (53), releases (58), the idle tests (63), sessions and trailers
(79), and in which direction a flit fails (84). -/
def Obligations.LinksAndRings : Prop :=
  ∀ (s : State) (i : Nat),
    let k := linkRec s i
    let link : Out → LinkRec → Prop := fun o x => ∃ t, o = .next t ∧ linkRec t i = x ∧ (∀ j, j ≠ i → linkRec t j = linkRec s j)
      ∧ t = { s with net.links := t.net.links }
    let cut : Out → LinkRec → List Nat → Prop := fun o x failed => ∃ t, o = .next t ∧ linkRec t i = x
      ∧ (∀ j, j ≠ i → linkRec t j = linkRec s j)
      ∧ t.core.regs = s.core.regs ∧ t.homes = s.homes ∧ t.sched = s.sched ∧ t.health.failedLinks = s.health.failedLinks ++ failed
      ∧ (∀ c ∈ t.net.circuits, ∀ x ∈ c.path, x.2 ≠ 0 → meshLink 1 c.pkg x.1 x.2 ≠ i)
      ∧ (∀ p ∈ t.net.probes, p.state ≠ .giveUp → ∀ x ∈ p.reserved, x.2 ≠ 0 → meshLink 1 p.pkg x.1 x.2 ≠ i)
      ∧ ∀ c ∈ t.net.circuits, c ∈ s.net.circuits
    let again : LinkDir → LinkDir := fun w => { w with wire := w.replay.reverse.dropWhile (fun f => f.seq != w.expect) }
    ((k.failed = true ∨ mustRetrain k = true → exec (.linkReplay i) s = .next s)
      ∧ (k.failed = false → mustRetrain k = false → 2 ^ 40 ≤ i →
        (k.openFrame = [] → exec (.linkReplay i) s = .next s)
        ∧ (k.openFrame ≠ [] → link (exec (.linkReplay i) s) { k with fails := k.fails + 1 }))
      ∧ (k.failed = false → mustRetrain k = false → i < 2 ^ 40 →
        (k.fwd.wire ≠ [] → link (exec (.linkReplay i) s) { k with fwd := again k.fwd, fails := k.fails + 1 })
        ∧ (k.fwd.wire = [] → k.back.wire ≠ [] → link (exec (.linkReplay i) s) { k with back := again k.back, fails := k.fails + 1 })
        ∧ (k.fwd.wire = [] → k.back.wire = [] → exec (.linkReplay i) s = .next s)))
    ∧ (∀ lanes,
      let sent := { k with fwd := again k.fwd, back := again k.back }
      let trained := { sent with fails := 0, narrowed := decide (lanes = .narrow), power := if lanes = .narrow then .narrow else k.power }
      (k.failed = true → cut (exec (.linkRetrain i lanes) s) k [])
      ∧ (k.failed = false → lanes = .none → cut (exec (.linkRetrain i lanes) s) { sent with fails := if 2 ^ 40 ≤ i then 4 else 5 } [])
      ∧ (k.failed = false → lanes ≠ .none → i < 2 ^ 40 → cut (exec (.linkRetrain i lanes) s) trained [])
      ∧ (k.failed = false → lanes ≠ .none → 2 ^ 40 ≤ i →
        (Config.sessionHolds s.fresh = true → cut (exec (.linkRetrain i lanes) s) trained [])
        ∧ (Config.sessionHolds s.fresh = false → cut (exec (.linkRetrain i lanes) s) { trained with
            session := false, failed := true, detoured := false, fails := 0, openFrame := [], closed := 0 } [i])))
    ∧ cut (exec (.linkFailure i) s) { k with failed := true, detoured := false, fails := 0, openFrame := [], closed := 0 } [i]
    ∧ (linkFailed s i = true → i < 2 ^ 40 → link (exec (.detourLoad i) s) { k with detoured := true })
    ∧ (linkFailed s i = false ∨ 2 ^ 40 ≤ i → exec (.detourLoad i) s = .next s)
    ∧ (k.power = .full → i < 2 ^ 41 → k.failed = false → 1000 ≤ (s.now - k.lastTraffic).toNat → linkReserved s i = false →
      s.net.waking.contains i = false → link (exec (.linkNarrow i) s) { k with power := .narrow })
    ∧ (k.power = .narrow → k.failed = false → s.net.waking.contains i = false →
      k.fwd.wire = [] → k.back.wire = [] → k.openFrame = [] →
      (if 2 ^ 40 ≤ i then reachBeyond s (linkPort i) = false else linkPlane i = 0 ∧ packageIdle s (linkPkg i) = true ∧ endsQuiet s i = true) →
      link (exec (.linkSleep i) s) { k with power := .sleep })
    ∧ (i ∈ s.net.waking → ∃ t, exec (.linkWake i) s = .next t
      ∧ linkRec t i = { k with power := if k.narrowed then .narrow else .full, lastTraffic := s.now }
      ∧ (∀ j, j ≠ i → linkRec t j = linkRec s j)
      ∧ t = { s with net.links := t.net.links, net.waking := s.net.waking.filter (fun x => x != i) })
    ∧ (k.openFrame ≠ [] → k.openFrame.length < 16 → k.closed = 0 → 64 ≤ (s.now - k.openAt).toNat →
      link (exec (.frameClose i) s) { k with closed := k.openFrame.length })
    ∧ (let n := if k.closed = 0 then 16 else k.closed
      let may := k.openFrame ≠ [] ∧ n ≤ k.openFrame.length ∧ 4 ≤ s.health.bootStep ∧ k.session = true ∧ k.failed = false ∧
        mustRetrain k = false ∧ k.power ≠ .sleep ∧ k.frame.toNat + 1 < 2 ^ 32 + k.keyStart
      let gone := { k with
        frame := k.frame + 1, frames := (k.openFrame.take n :: k.frames).take 8, openFrame := k.openFrame.drop n, closed := 0
        fails := 0, oldKey := false, lastTraffic := s.now }
      let next := ringNext s (linkPort i) (linkCcw i)
      (may → exec (.ringFrame i true) s =
        .next ((k.openFrame.take n).foldl (fun u f => flitComes next.1 next.2 f.key u) (setLink gone s)))
      ∧ (may → link (exec (.ringFrame i false) s) { k with fails := k.fails + 1 })
      ∧ (¬ may → ∀ verified, exec (.ringFrame i verified) s = .next s))
    ∧ (∀ port ccw key,
      let comes := flitComes port ccw key s
      let beside := if 256 ≤ port then port - 128 else port + 128
      let next := { s with fresh := s.fresh + 1 }
      (∀ r, s.net.ringReqs.find? (fun r => ringKey r == key) = some r →
        let put := fun at_ d own u => ringPut at_ d r.body.isControl key own u
        (port ≠ ringGoal port r.dst → comes = put port ccw false (setReq { r with ccw := ccw } s))
        ∧ (port = ringGoal port r.dst → port = r.dst.toNat → comes = setReq { r with ccw := ccw, arrived := true } s)
        ∧ (port = ringGoal port r.dst → port ≠ r.dst.toNat →
          let way := ringDir s beside (ringGoal beside r.dst)
          let room := r.body.isControl || Config.ringRoom s.fresh
          (∀ d, way = some d → room = true → comes = put beside d true (setReq { r with ccw := d, refused := 0 } next))
          ∧ (way = none ∨ room = false →
            (r.refused = 0 → comes = put port ccw false (setReq { r with ccw := ccw, refused := 1 } next))
            ∧ (r.refused ≠ 0 → comes = frameAnswer port ⟨r.src, r.dst, r.seq, true, [], true, false⟩
              (setReq { r with refused := 2 } next)))))
      ∧ (s.net.ringReqs.find? (fun r => ringKey r == key) = none →
        (∀ x, s.net.ringResps.find? (fun x => answerKey x == key && !x.arrived) = some x →
          (port ≠ ringGoal port x.src → comes = ringPut port ccw x.control key false s)
          ∧ (port = ringGoal port x.src → port ≠ x.src.toNat →
            comes = match ringDir s beside (ringGoal beside x.src) with
              | some d => ringPut beside d x.control key true s
              | none => ringPut port ccw x.control key false s)
          ∧ (port = ringGoal port x.src → port = x.src.toNat → ∃ j, s.net.ringResps[j]? = some x ∧
            comes = { s with net.ringResps := s.net.ringResps.set j { x with arrived := true } }))
        ∧ (s.net.ringResps.find? (fun x => answerKey x == key && !x.arrived) = none → comes = s)))
    ∧ (∀ port ccw control key own,
      let d := (ringNext s port ccw).2
      let l := if control then ringControl port d else ringLink port d
      let x := linkRec s l
      let t := ringPut port ccw control key own s
      t = { s with net.links := t.net.links, net.waking := t.net.waking }
      ∧ (∀ j, j ≠ l → linkRec t j = linkRec s j)
      ∧ linkRec t l = { x with
          openFrame := x.openFrame ++ [⟨key, own⟩], lastTraffic := s.now
          openAt := if (x.openFrame.length - x.closed) % 16 = 0 then s.now else x.openAt
          slot := if l < 2 ^ 41 then x.slot else slotFrom (ownerTag (linkPort l)) x.slot + 1 }
      ∧ (x.power ≠ .full → x.failed = false → x.narrowed = false → l ∈ t.net.waking))
    ∧ (∀ a b,
      let cost := fun ccw => (ringPath s a b ccw).bind (fun w =>
        if ringUsable s w then some (w.length + (ringWaiting s a ccw + 3) / 4) else none)
      (cost false = none → cost true = none → ringDir s a b = none)
      ∧ (∀ x, cost false = some x → cost true = none → ringDir s a b = some false)
      ∧ (∀ y, cost false = none → cost true = some y → ringDir s a b = some true)
      ∧ ∀ x y, cost false = some x → cost true = some y → ringDir s a b = some (decide (y < x)))
    ∧ (2 ^ 40 ≤ i → k.failed = false → k.oldKey = false →
      link (exec (.keyUpdate i) s) { k with keyGen := k.keyGen + 1, keyStart := k.frame.toNat, oldKey := true })
    ∧ (∀ r, s.net.ringReqs[i]? = some r →
      let p := ringPair s r.src r.dst
      let base := if seqBefore p.base (oldestOpen s r) then oldestOpen s r else p.base
      let p' := { p with base := base, entries := p.entries.filter (fun e => !seqBefore e.seq base) }
      let next := { s with fresh := s.fresh + 1 }
      let looked := { r with arrived := false }
      let answered : List Byte → State → State → Prop := fun bs u t =>
        t.net.ringResps = u.net.ringResps ++ [⟨r.src, r.dst, r.seq, false, bs, answerFits r.body bs, false⟩]
      let performs : RingPair → State → Prop := fun q u =>
        (∀ s' bs, ringExecute r u = (s', .done bs) → ∃ t, exec (.ringRequest i) s = .next t
          ∧ t.core = s'.core ∧ t.homes = s'.homes ∧ t.sched = s'.sched ∧ answered bs s' t
          ∧ filterEntry (ringPair t r.src r.dst) r.seq = some ⟨r.seq, some (if repeats r.body then [] else bs)⟩)
        ∧ (∀ s', ringExecute r u = (s', .held) →
          exec (.ringRequest i) s = .next (setReq looked (setRingPair (setFilter ⟨r.seq, none⟩ q) s')))
        ∧ (∀ s', ringExecute r u = (s', .refused) → exec (.ringRequest i) s = .next
          (setReq { looked with resendAt := some (s'.now + 1000) }
            (setRingPair { q with entries := q.entries.filter (fun e => e.seq != r.seq) } s')))
      (r.arrived = false →
        (filterEntry p r.seq = some ⟨r.seq, none⟩ → performs p s)
        ∧ ((∀ e, filterEntry p r.seq = some e → e.result ≠ none) → exec (.ringRequest i) s = .next s))
      ∧ (r.arrived = true → s.health.lostPkgs.contains r.dst = true → exec (.ringRequest i) s = .next s)
      ∧ (r.arrived = true → s.health.lostPkgs.contains r.dst = false →
        (seqBefore r.seq base = true → exec (.ringRequest i) s = .next (setReq looked s))
        ∧ (seqBefore r.seq base = false →
          (filterEntry p r.seq = none → noRoom s r p' = false → performs p' next)
          ∧ (filterEntry p r.seq = none → noRoom s r p' = true →
            (r.refused = 0 → exec (.ringRequest i) s = .next (ringPut r.dst.toNat r.ccw r.body.isControl (ringKey r) false
              (setReq { looked with refused := 1 } (setRingPair p' next))))
            ∧ (r.refused ≠ 0 → exec (.ringRequest i) s = .next
              (ringAnswer r true [] (setReq { looked with refused := 2 } (setRingPair p' next)))))
          ∧ (∀ bs, filterEntry p r.seq = some ⟨r.seq, some bs⟩ → repeats r.body = true → performs p' s)
          ∧ (∀ bs, filterEntry p r.seq = some ⟨r.seq, some bs⟩ → repeats r.body = false →
            ∃ t, exec (.ringRequest i) s = .next t ∧ t.homes = s.homes ∧ t.core = s.core ∧ t.sched = s.sched ∧ answered bs s t)
          ∧ (filterEntry p r.seq = some ⟨r.seq, none⟩ → exec (.ringRequest i) s = .next (setReq looked (setRingPair p' s))))))
    ∧ (∀ x, s.net.ringResps[i]? = some x →
      let u := { s with net.ringResps := s.net.ringResps.eraseIdx i }
      let mine := s.net.ringReqs.find? (fun r => r.src == x.src && r.dst == x.dst && r.seq == x.seq)
      (x.arrived = false → exec (.ringResponse i) s = .next s)
      ∧ (x.arrived = true →
        (mine = none → exec (.ringResponse i) s = .next u)
        ∧ ∀ r, mine = some r →
          let ended := { u with net.ringReqs := s.net.ringReqs.filter (fun y => ringKey y != ringKey r) }
          (x.nack = true → r.refused = 2 →
            exec (.ringResponse i) s = .next (setReq { r with refused := 0, resendAt := some (s.now + 500) } u))
          ∧ (x.nack = true → r.refused ≠ 2 → exec (.ringResponse i) s = .next u)
          ∧ (x.nack = false → exec (.ringResponse i) s = .next (deliverAnswer r x.result ended))
          ∧ ∀ l, x.nack = false → r.body = .prepare l → exec (.ringResponse i) s = .next { ended with
              sched.launches := s.sched.launches.map (fun y => if y.id = l then { y with prepared := r.dst :: y.prepared } else y) }))
    ∧ ∀ r, s.net.ringReqs[i]? = some r →
      let ahead := ((s.net.ringReqs.take i).filter (fun x => x.src == r.src && x.dst == r.dst)).length
      let port := r.src.toNat
      let due : Prop := match r.resendAt with
        | some x => x.toNat ≤ s.now.toNat
        | none => if r.sent = true then 100000 ≤ (s.now - r.sentAt).toNat else ahead < 1024
      (¬ due → exec (.ringResend i) s = .next s)
      ∧ (due → ringDir s port (ringGoal port r.dst) = none → exec (.ringResend i) s = .next s)
      ∧ (∀ ccw, due → ringDir s port (ringGoal port r.dst) = some ccw →
        let sent := { r with ccw := ccw, refused := 0, sentAt := s.now, resendAt := none, sent := true, arrived := false }
        let d := (ringNext s port ccw).2
        ∃ t, exec (.ringResend i) s = .next t ∧ sent ∈ t.net.ringReqs
          ∧ ⟨ringKey r, true⟩ ∈ (linkRec t (if r.body.isControl then ringControl port d else ringLink port d)).openFrame
          ∧ t = { s with net.ringReqs := t.net.ringReqs, net.links := t.net.links, net.waking := t.net.waking })
end

