-- ==== Sys2Proof/Laws/Issue.lean ====
section
/-! SUPPORT. What issue does, said once: when nothing stands in the way, the effect; else the named trap or the wait. -/

namespace Sys2Proof.Machine

theorem gate_of_open {g : Gate} {w : Word} {s : State} {k : State → Out} (h : gateOpen g s = true) : gate g w s k = k s := by
  obtain ⟨inR, inM, ew, only⟩ := g
  simp only [gateOpen, Bool.and_eq_true, Bool.or_eq_true, Bool.not_eq_true'] at h
  obtain ⟨⟨⟨h1, h2⟩, h3⟩, h4⟩ := h
  unfold gate
  have e1 : (s.core.mq.region.isSome && !inR) = false := by
    cases hr : s.core.mq.region <;> simp_all
  have e2 : (s.core.seq.macroRun && !inM) = false := by
    rcases h2 with h2 | h2 <;> simp [h2]
  have e3 : (!s.core.seq.macroRun && !ew && isEndWord s s.core.seq.pc) = false := by
    rcases h3 with (h3 | h3) | h3 <;> simp [h3]
  simp only [e1, e2, e3]
  cases only with
  | none => rfl
  | some m => simp_all

/-- What `usesFree` says of one source and of one destination. -/
theorem usesFree_iff {u : Uses} {s : State} :
    usesFree u s = true ↔ (∀ x ∈ u.srcs, regionLoads s x.reg = false ∧ regEmpty s x.reg = false ∧ regPending s x.reg = false)
      ∧ ∀ r ∈ u.dsts, regEmpty s r = false ∧ regPending s r = false := by
  simp [usesFree, regFree, List.all_eq_true, Bool.and_eq_true]

theorem issue_of_free {w : Word} {u : Uses} {s : State} {k : State → Out} (h : usesFree u s = true) : issue w u s k = k (issued s) := by
  rw [usesFree_iff] at h
  obtain ⟨hs, hd⟩ := h
  unfold issue
  have e1 : u.srcs.any (fun x => regionLoads s x.reg) = false := by
    rw [List.any_eq_false]
    intro x hx
    simp [(hs x hx).1]
  have e2 : u.srcs.find? (fun x => x.trap && regEmpty s x.reg) = none := by
    rw [List.find?_eq_none]
    intro x hx
    simp [(hs x hx).2.1]
  have e3 : (u.srcs.map (fun x => x.reg) ++ u.dsts).find? (fun r => regEmpty s r || regPending s r) = none := by
    rw [List.find?_eq_none]
    intro r hr
    rw [List.mem_append, List.mem_map] at hr
    rcases hr with ⟨x, hx, rfl⟩ | hr
    · simp [(hs x hx).2.1, (hs x hx).2.2]
    · simp [(hd r hr).1, (hd r hr).2]
  simp [e1, e2, e3, issued]

/-- An instruction that nothing stands in the way of has its effect in `issued s`. -/
theorem gate_issue {g : Gate} {w w' : Word} {u : Uses} {s : State} {k : State → Out} (h : mayIssue g u s = true) :
    gate g w s (fun s => issue w' u s k) = k (issued s) := by
  simp only [mayIssue, Bool.and_eq_true] at h
  rw [gate_of_open h.1, issue_of_free h.2]

/-- A gate lets an instruction pass, or the instruction takes one of the two traps of R42 that come first. -/
theorem gate_cases (g : Gate) (w : Word) (s : State) (k : State → Out) :
    gate g w s k = k s ∨ gate g w s k = illegal w s ∨ gate g w s k = privilege w s := by
  unfold gate
  split
  · simp
  split
  · simp
  split
  · simp
  split
  · simp
  split <;> simp

/-- Issue lets an instruction through, or it takes a trap, or it waits. -/
theorem issue_cases (w : Word) (u : Uses) (s : State) (k : State → Out) :
    issue w u s k = k (issued s) ∨ issue w u s k = illegal w s
      ∨ (∃ x ∈ u.srcs, issue w u s k = trap .emptySource (dw x.reg.num) s) ∨ (∃ kind, issue w u s k = waitOn kind s) := by
  unfold issue
  split
  · simp
  split
  · rename_i x hx
    exact Or.inr (Or.inr (Or.inl ⟨x, List.mem_of_find?_eq_some hx, rfl⟩))
  split
  · rename_i r _
    exact Or.inr (Or.inr (Or.inr ⟨_, rfl⟩))
  · exact Or.inl rfl

end Sys2Proof.Machine
end

