-- ==== Sys2Proof/Laws/State.lean ====
section
/-! SUPPORT. What each named operation leaves alone, one lemma per field, and what a register reads after a write. -/

namespace Sys2Proof.Machine

/-! ## Reads after writes -/

theorem vget_vset {α : Type} {w : Nat} (v : Vector α (2 ^ w)) (i j : BitVec w) (x : α) :
    vget (vset v i x) j = if j = i then x else vget v j := by
  unfold vget vset
  rw [Vector.getElem_set]
  by_cases h : j = i
  · simp [h]
  · have : i.toNat ≠ j.toNat := fun e => h (BitVec.eq_of_toNat_eq e.symm)
    simp [h, this]

theorem getLsbD_setBit {n : Nat} (x : BitVec n) (i j : Nat) (b : Bool) (hj : j < n) :
    (setBit x i b).getLsbD j = if j = i then b else x.getLsbD j := by
  unfold setBit
  cases b <;> simp [hj] <;> by_cases h : i = j <;> simp_all [eq_comm]

/-- `s0` reads 0. -/
@[simp] theorem readS_zero (s : State) : readS s 0 = 0 := by simp [readS]

@[simp] theorem readP_zero (s : State) : readP s 0 = true := by simp [readP]

@[simp] theorem readQ_zero (s : State) : readQ s 0 = 0xFFFF := by simp [readQ]

theorem readS_writeS (r q : BitVec 5) (x : DWord) (s : State) :
    readS (writeS r x s) q = if q = r ∧ r ≠ 0 then x else readS s q := by
  unfold readS writeS
  by_cases hr : r = 0#5
  · simp [hr]
  · by_cases hq : q = r
    · simp [hr, hq, vget_vset]
    · simp [hr, hq, vget_vset]

theorem readV_writeV (r q : BitVec 5) (x : VReg) (s : State) : readV (writeV r x s) q = if q = r then x else readV s q := by
  simp [readV, writeV, vget_vset]

theorem readP_writeP (r q : BitVec 3) (x : Bool) (s : State) :
    readP (writeP r x s) q = if q = r ∧ r ≠ 0 then x else readP s q := by
  unfold readP writeP
  by_cases hr : r = 0#3
  · simp [hr]
  · have hq : q.toNat < 8 := q.isLt
    by_cases h : q = r
    · subst h; simp [hr, getLsbD_setBit _ _ _ _ hq]
    · have : q.toNat ≠ r.toNat := fun e => h (BitVec.eq_of_toNat_eq e)
      simp [hr, h, getLsbD_setBit _ _ _ _ hq, this]

theorem readQ_writeQ (r q : BitVec 3) (x : BitVec 16) (s : State) :
    readQ (writeQ r x s) q = if q = r ∧ r ≠ 0 then x else readQ s q := by
  unfold readQ writeQ
  by_cases hr : r = 0#3
  · simp [hr]
  · by_cases hq : q = r
    · simp [hr, hq, vget_vset]
    · simp [hr, hq, vget_vset]

/-! ## Fields that an operation leaves alone -/


@[simp] theorem writeS_seq (r : BitVec 5) (x : DWord) (s : State) : (writeS r x s).core.seq = s.core.seq := by unfold writeS; split <;> rfl
@[simp] theorem writeS_sys (r : BitVec 5) (x : DWord) (s : State) : (writeS r x s).core.sys = s.core.sys := by unfold writeS; split <;> rfl
@[simp] theorem writeS_id (r : BitVec 5) (x : DWord) (s : State) : (writeS r x s).core.id = s.core.id := by unfold writeS; split <;> rfl
@[simp] theorem writeS_ord (r : BitVec 5) (x : DWord) (s : State) : (writeS r x s).core.ord = s.core.ord := by unfold writeS; split <;> rfl
@[simp] theorem writeS_launch (r : BitVec 5) (x : DWord) (s : State) : (writeS r x s).core.launch = s.core.launch := by unfold writeS; split <;> rfl
@[simp] theorem writeS_hall (r : BitVec 5) (x : DWord) (s : State) : (writeS r x s).core.hall = s.core.hall := by unfold writeS; split <;> rfl
@[simp] theorem writeS_sec (r : BitVec 5) (x : DWord) (s : State) : (writeS r x s).core.sec = s.core.sec := by unfold writeS; split <;> rfl
@[simp] theorem writeS_ptroot (r : BitVec 5) (x : DWord) (s : State) : (writeS r x s).core.ptroot = s.core.ptroot := by unfold writeS; split <;> rfl
@[simp] theorem writeS_pool (r : BitVec 5) (x : DWord) (s : State) : (writeS r x s).core.pool = s.core.pool := by unfold writeS; split <;> rfl
@[simp] theorem writeS_mq (r : BitVec 5) (x : DWord) (s : State) : (writeS r x s).core.mq = s.core.mq := by unfold writeS; split <;> rfl
@[simp] theorem writeS_eng (r : BitVec 5) (x : DWord) (s : State) : (writeS r x s).core.eng = s.core.eng := by unfold writeS; split <;> rfl
@[simp] theorem writeS_grid (r : BitVec 5) (x : DWord) (s : State) : (writeS r x s).core.grid = s.core.grid := by unfold writeS; split <;> rfl
@[simp] theorem writeS_port (r : BitVec 5) (x : DWord) (s : State) : (writeS r x s).core.port = s.core.port := by unfold writeS; split <;> rfl
@[simp] theorem writeS_homes (r : BitVec 5) (x : DWord) (s : State) : (writeS r x s).homes = s.homes := by unfold writeS; split <;> rfl
@[simp] theorem writeS_sched (r : BitVec 5) (x : DWord) (s : State) : (writeS r x s).sched = s.sched := by unfold writeS; split <;> rfl
@[simp] theorem writeS_net (r : BitVec 5) (x : DWord) (s : State) : (writeS r x s).net = s.net := by unfold writeS; split <;> rfl
@[simp] theorem writeS_power (r : BitVec 5) (x : DWord) (s : State) : (writeS r x s).power = s.power := by unfold writeS; split <;> rfl
@[simp] theorem writeS_otherPower (r : BitVec 5) (x : DWord) (s : State) : (writeS r x s).otherPower = s.otherPower := by unfold writeS; split <;> rfl
@[simp] theorem writeS_health (r : BitVec 5) (x : DWord) (s : State) : (writeS r x s).health = s.health := by unfold writeS; split <;> rfl
@[simp] theorem writeS_now (r : BitVec 5) (x : DWord) (s : State) : (writeS r x s).now = s.now := by unfold writeS; split <;> rfl
@[simp] theorem writeS_ticks (r : BitVec 5) (x : DWord) (s : State) : (writeS r x s).ticks = s.ticks := by unfold writeS; split <;> rfl
@[simp] theorem writeS_fresh (r : BitVec 5) (x : DWord) (s : State) : (writeS r x s).fresh = s.fresh := by unfold writeS; split <;> rfl
@[simp] theorem writeS_agenda (r : BitVec 5) (x : DWord) (s : State) : (writeS r x s).agenda = s.agenda := by unfold writeS; split <;> rfl

@[simp] theorem writeV_seq (r : BitVec 5) (x : VReg) (s : State) : (writeV r x s).core.seq = s.core.seq := rfl
@[simp] theorem writeV_sys (r : BitVec 5) (x : VReg) (s : State) : (writeV r x s).core.sys = s.core.sys := rfl
@[simp] theorem writeV_id (r : BitVec 5) (x : VReg) (s : State) : (writeV r x s).core.id = s.core.id := rfl
@[simp] theorem writeV_ord (r : BitVec 5) (x : VReg) (s : State) : (writeV r x s).core.ord = s.core.ord := rfl
@[simp] theorem writeV_launch (r : BitVec 5) (x : VReg) (s : State) : (writeV r x s).core.launch = s.core.launch := rfl
@[simp] theorem writeV_hall (r : BitVec 5) (x : VReg) (s : State) : (writeV r x s).core.hall = s.core.hall := rfl
@[simp] theorem writeV_sec (r : BitVec 5) (x : VReg) (s : State) : (writeV r x s).core.sec = s.core.sec := rfl
@[simp] theorem writeV_ptroot (r : BitVec 5) (x : VReg) (s : State) : (writeV r x s).core.ptroot = s.core.ptroot := rfl
@[simp] theorem writeV_pool (r : BitVec 5) (x : VReg) (s : State) : (writeV r x s).core.pool = s.core.pool := rfl
@[simp] theorem writeV_mq (r : BitVec 5) (x : VReg) (s : State) : (writeV r x s).core.mq = s.core.mq := rfl
@[simp] theorem writeV_eng (r : BitVec 5) (x : VReg) (s : State) : (writeV r x s).core.eng = s.core.eng := rfl
@[simp] theorem writeV_grid (r : BitVec 5) (x : VReg) (s : State) : (writeV r x s).core.grid = s.core.grid := rfl
@[simp] theorem writeV_port (r : BitVec 5) (x : VReg) (s : State) : (writeV r x s).core.port = s.core.port := rfl
@[simp] theorem writeV_homes (r : BitVec 5) (x : VReg) (s : State) : (writeV r x s).homes = s.homes := rfl
@[simp] theorem writeV_sched (r : BitVec 5) (x : VReg) (s : State) : (writeV r x s).sched = s.sched := rfl
@[simp] theorem writeV_net (r : BitVec 5) (x : VReg) (s : State) : (writeV r x s).net = s.net := rfl
@[simp] theorem writeV_power (r : BitVec 5) (x : VReg) (s : State) : (writeV r x s).power = s.power := rfl
@[simp] theorem writeV_otherPower (r : BitVec 5) (x : VReg) (s : State) : (writeV r x s).otherPower = s.otherPower := rfl
@[simp] theorem writeV_health (r : BitVec 5) (x : VReg) (s : State) : (writeV r x s).health = s.health := rfl
@[simp] theorem writeV_now (r : BitVec 5) (x : VReg) (s : State) : (writeV r x s).now = s.now := rfl
@[simp] theorem writeV_ticks (r : BitVec 5) (x : VReg) (s : State) : (writeV r x s).ticks = s.ticks := rfl
@[simp] theorem writeV_fresh (r : BitVec 5) (x : VReg) (s : State) : (writeV r x s).fresh = s.fresh := rfl
@[simp] theorem writeV_agenda (r : BitVec 5) (x : VReg) (s : State) : (writeV r x s).agenda = s.agenda := rfl

@[simp] theorem writeP_seq (r : BitVec 3) (x : Bool) (s : State) : (writeP r x s).core.seq = s.core.seq := by unfold writeP; split <;> rfl
@[simp] theorem writeP_sys (r : BitVec 3) (x : Bool) (s : State) : (writeP r x s).core.sys = s.core.sys := by unfold writeP; split <;> rfl
@[simp] theorem writeP_id (r : BitVec 3) (x : Bool) (s : State) : (writeP r x s).core.id = s.core.id := by unfold writeP; split <;> rfl
@[simp] theorem writeP_ord (r : BitVec 3) (x : Bool) (s : State) : (writeP r x s).core.ord = s.core.ord := by unfold writeP; split <;> rfl
@[simp] theorem writeP_launch (r : BitVec 3) (x : Bool) (s : State) : (writeP r x s).core.launch = s.core.launch := by unfold writeP; split <;> rfl
@[simp] theorem writeP_hall (r : BitVec 3) (x : Bool) (s : State) : (writeP r x s).core.hall = s.core.hall := by unfold writeP; split <;> rfl
@[simp] theorem writeP_sec (r : BitVec 3) (x : Bool) (s : State) : (writeP r x s).core.sec = s.core.sec := by unfold writeP; split <;> rfl
@[simp] theorem writeP_ptroot (r : BitVec 3) (x : Bool) (s : State) : (writeP r x s).core.ptroot = s.core.ptroot := by unfold writeP; split <;> rfl
@[simp] theorem writeP_pool (r : BitVec 3) (x : Bool) (s : State) : (writeP r x s).core.pool = s.core.pool := by unfold writeP; split <;> rfl
@[simp] theorem writeP_mq (r : BitVec 3) (x : Bool) (s : State) : (writeP r x s).core.mq = s.core.mq := by unfold writeP; split <;> rfl
@[simp] theorem writeP_eng (r : BitVec 3) (x : Bool) (s : State) : (writeP r x s).core.eng = s.core.eng := by unfold writeP; split <;> rfl
@[simp] theorem writeP_grid (r : BitVec 3) (x : Bool) (s : State) : (writeP r x s).core.grid = s.core.grid := by unfold writeP; split <;> rfl
@[simp] theorem writeP_port (r : BitVec 3) (x : Bool) (s : State) : (writeP r x s).core.port = s.core.port := by unfold writeP; split <;> rfl
@[simp] theorem writeP_homes (r : BitVec 3) (x : Bool) (s : State) : (writeP r x s).homes = s.homes := by unfold writeP; split <;> rfl
@[simp] theorem writeP_sched (r : BitVec 3) (x : Bool) (s : State) : (writeP r x s).sched = s.sched := by unfold writeP; split <;> rfl
@[simp] theorem writeP_net (r : BitVec 3) (x : Bool) (s : State) : (writeP r x s).net = s.net := by unfold writeP; split <;> rfl
@[simp] theorem writeP_power (r : BitVec 3) (x : Bool) (s : State) : (writeP r x s).power = s.power := by unfold writeP; split <;> rfl
@[simp] theorem writeP_otherPower (r : BitVec 3) (x : Bool) (s : State) : (writeP r x s).otherPower = s.otherPower := by unfold writeP; split <;> rfl
@[simp] theorem writeP_health (r : BitVec 3) (x : Bool) (s : State) : (writeP r x s).health = s.health := by unfold writeP; split <;> rfl
@[simp] theorem writeP_now (r : BitVec 3) (x : Bool) (s : State) : (writeP r x s).now = s.now := by unfold writeP; split <;> rfl
@[simp] theorem writeP_ticks (r : BitVec 3) (x : Bool) (s : State) : (writeP r x s).ticks = s.ticks := by unfold writeP; split <;> rfl
@[simp] theorem writeP_fresh (r : BitVec 3) (x : Bool) (s : State) : (writeP r x s).fresh = s.fresh := by unfold writeP; split <;> rfl
@[simp] theorem writeP_agenda (r : BitVec 3) (x : Bool) (s : State) : (writeP r x s).agenda = s.agenda := by unfold writeP; split <;> rfl

@[simp] theorem writeQ_seq (r : BitVec 3) (x : BitVec 16) (s : State) : (writeQ r x s).core.seq = s.core.seq := by unfold writeQ; split <;> rfl
@[simp] theorem writeQ_sys (r : BitVec 3) (x : BitVec 16) (s : State) : (writeQ r x s).core.sys = s.core.sys := by unfold writeQ; split <;> rfl
@[simp] theorem writeQ_id (r : BitVec 3) (x : BitVec 16) (s : State) : (writeQ r x s).core.id = s.core.id := by unfold writeQ; split <;> rfl
@[simp] theorem writeQ_ord (r : BitVec 3) (x : BitVec 16) (s : State) : (writeQ r x s).core.ord = s.core.ord := by unfold writeQ; split <;> rfl
@[simp] theorem writeQ_launch (r : BitVec 3) (x : BitVec 16) (s : State) : (writeQ r x s).core.launch = s.core.launch := by unfold writeQ; split <;> rfl
@[simp] theorem writeQ_hall (r : BitVec 3) (x : BitVec 16) (s : State) : (writeQ r x s).core.hall = s.core.hall := by unfold writeQ; split <;> rfl
@[simp] theorem writeQ_sec (r : BitVec 3) (x : BitVec 16) (s : State) : (writeQ r x s).core.sec = s.core.sec := by unfold writeQ; split <;> rfl
@[simp] theorem writeQ_ptroot (r : BitVec 3) (x : BitVec 16) (s : State) : (writeQ r x s).core.ptroot = s.core.ptroot := by unfold writeQ; split <;> rfl
@[simp] theorem writeQ_pool (r : BitVec 3) (x : BitVec 16) (s : State) : (writeQ r x s).core.pool = s.core.pool := by unfold writeQ; split <;> rfl
@[simp] theorem writeQ_mq (r : BitVec 3) (x : BitVec 16) (s : State) : (writeQ r x s).core.mq = s.core.mq := by unfold writeQ; split <;> rfl
@[simp] theorem writeQ_eng (r : BitVec 3) (x : BitVec 16) (s : State) : (writeQ r x s).core.eng = s.core.eng := by unfold writeQ; split <;> rfl
@[simp] theorem writeQ_grid (r : BitVec 3) (x : BitVec 16) (s : State) : (writeQ r x s).core.grid = s.core.grid := by unfold writeQ; split <;> rfl
@[simp] theorem writeQ_port (r : BitVec 3) (x : BitVec 16) (s : State) : (writeQ r x s).core.port = s.core.port := by unfold writeQ; split <;> rfl
@[simp] theorem writeQ_homes (r : BitVec 3) (x : BitVec 16) (s : State) : (writeQ r x s).homes = s.homes := by unfold writeQ; split <;> rfl
@[simp] theorem writeQ_sched (r : BitVec 3) (x : BitVec 16) (s : State) : (writeQ r x s).sched = s.sched := by unfold writeQ; split <;> rfl
@[simp] theorem writeQ_net (r : BitVec 3) (x : BitVec 16) (s : State) : (writeQ r x s).net = s.net := by unfold writeQ; split <;> rfl
@[simp] theorem writeQ_power (r : BitVec 3) (x : BitVec 16) (s : State) : (writeQ r x s).power = s.power := by unfold writeQ; split <;> rfl
@[simp] theorem writeQ_otherPower (r : BitVec 3) (x : BitVec 16) (s : State) : (writeQ r x s).otherPower = s.otherPower := by unfold writeQ; split <;> rfl
@[simp] theorem writeQ_health (r : BitVec 3) (x : BitVec 16) (s : State) : (writeQ r x s).health = s.health := by unfold writeQ; split <;> rfl
@[simp] theorem writeQ_now (r : BitVec 3) (x : BitVec 16) (s : State) : (writeQ r x s).now = s.now := by unfold writeQ; split <;> rfl
@[simp] theorem writeQ_ticks (r : BitVec 3) (x : BitVec 16) (s : State) : (writeQ r x s).ticks = s.ticks := by unfold writeQ; split <;> rfl
@[simp] theorem writeQ_fresh (r : BitVec 3) (x : BitVec 16) (s : State) : (writeQ r x s).fresh = s.fresh := by unfold writeQ; split <;> rfl
@[simp] theorem writeQ_agenda (r : BitVec 3) (x : BitVec 16) (s : State) : (writeQ r x s).agenda = s.agenda := by unfold writeQ; split <;> rfl

@[simp] theorem setSEmpty_seq (r : BitVec 5) (x : Bool) (s : State) : (setSEmpty r x s).core.seq = s.core.seq := by unfold setSEmpty; split <;> rfl
@[simp] theorem setSEmpty_sys (r : BitVec 5) (x : Bool) (s : State) : (setSEmpty r x s).core.sys = s.core.sys := by unfold setSEmpty; split <;> rfl
@[simp] theorem setSEmpty_id (r : BitVec 5) (x : Bool) (s : State) : (setSEmpty r x s).core.id = s.core.id := by unfold setSEmpty; split <;> rfl
@[simp] theorem setSEmpty_ord (r : BitVec 5) (x : Bool) (s : State) : (setSEmpty r x s).core.ord = s.core.ord := by unfold setSEmpty; split <;> rfl
@[simp] theorem setSEmpty_launch (r : BitVec 5) (x : Bool) (s : State) : (setSEmpty r x s).core.launch = s.core.launch := by unfold setSEmpty; split <;> rfl
@[simp] theorem setSEmpty_hall (r : BitVec 5) (x : Bool) (s : State) : (setSEmpty r x s).core.hall = s.core.hall := by unfold setSEmpty; split <;> rfl
@[simp] theorem setSEmpty_sec (r : BitVec 5) (x : Bool) (s : State) : (setSEmpty r x s).core.sec = s.core.sec := by unfold setSEmpty; split <;> rfl
@[simp] theorem setSEmpty_ptroot (r : BitVec 5) (x : Bool) (s : State) : (setSEmpty r x s).core.ptroot = s.core.ptroot := by unfold setSEmpty; split <;> rfl
@[simp] theorem setSEmpty_pool (r : BitVec 5) (x : Bool) (s : State) : (setSEmpty r x s).core.pool = s.core.pool := by unfold setSEmpty; split <;> rfl
@[simp] theorem setSEmpty_mq (r : BitVec 5) (x : Bool) (s : State) : (setSEmpty r x s).core.mq = s.core.mq := by unfold setSEmpty; split <;> rfl
@[simp] theorem setSEmpty_eng (r : BitVec 5) (x : Bool) (s : State) : (setSEmpty r x s).core.eng = s.core.eng := by unfold setSEmpty; split <;> rfl
@[simp] theorem setSEmpty_grid (r : BitVec 5) (x : Bool) (s : State) : (setSEmpty r x s).core.grid = s.core.grid := by unfold setSEmpty; split <;> rfl
@[simp] theorem setSEmpty_port (r : BitVec 5) (x : Bool) (s : State) : (setSEmpty r x s).core.port = s.core.port := by unfold setSEmpty; split <;> rfl
@[simp] theorem setSEmpty_homes (r : BitVec 5) (x : Bool) (s : State) : (setSEmpty r x s).homes = s.homes := by unfold setSEmpty; split <;> rfl
@[simp] theorem setSEmpty_sched (r : BitVec 5) (x : Bool) (s : State) : (setSEmpty r x s).sched = s.sched := by unfold setSEmpty; split <;> rfl
@[simp] theorem setSEmpty_net (r : BitVec 5) (x : Bool) (s : State) : (setSEmpty r x s).net = s.net := by unfold setSEmpty; split <;> rfl
@[simp] theorem setSEmpty_power (r : BitVec 5) (x : Bool) (s : State) : (setSEmpty r x s).power = s.power := by unfold setSEmpty; split <;> rfl
@[simp] theorem setSEmpty_otherPower (r : BitVec 5) (x : Bool) (s : State) : (setSEmpty r x s).otherPower = s.otherPower := by unfold setSEmpty; split <;> rfl
@[simp] theorem setSEmpty_health (r : BitVec 5) (x : Bool) (s : State) : (setSEmpty r x s).health = s.health := by unfold setSEmpty; split <;> rfl
@[simp] theorem setSEmpty_now (r : BitVec 5) (x : Bool) (s : State) : (setSEmpty r x s).now = s.now := by unfold setSEmpty; split <;> rfl
@[simp] theorem setSEmpty_ticks (r : BitVec 5) (x : Bool) (s : State) : (setSEmpty r x s).ticks = s.ticks := by unfold setSEmpty; split <;> rfl
@[simp] theorem setSEmpty_fresh (r : BitVec 5) (x : Bool) (s : State) : (setSEmpty r x s).fresh = s.fresh := by unfold setSEmpty; split <;> rfl
@[simp] theorem setSEmpty_agenda (r : BitVec 5) (x : Bool) (s : State) : (setSEmpty r x s).agenda = s.agenda := by unfold setSEmpty; split <;> rfl

@[simp] theorem setVEmpty_seq (r : BitVec 5) (x : Bool) (s : State) : (setVEmpty r x s).core.seq = s.core.seq := rfl
@[simp] theorem setVEmpty_sys (r : BitVec 5) (x : Bool) (s : State) : (setVEmpty r x s).core.sys = s.core.sys := rfl
@[simp] theorem setVEmpty_id (r : BitVec 5) (x : Bool) (s : State) : (setVEmpty r x s).core.id = s.core.id := rfl
@[simp] theorem setVEmpty_ord (r : BitVec 5) (x : Bool) (s : State) : (setVEmpty r x s).core.ord = s.core.ord := rfl
@[simp] theorem setVEmpty_launch (r : BitVec 5) (x : Bool) (s : State) : (setVEmpty r x s).core.launch = s.core.launch := rfl
@[simp] theorem setVEmpty_hall (r : BitVec 5) (x : Bool) (s : State) : (setVEmpty r x s).core.hall = s.core.hall := rfl
@[simp] theorem setVEmpty_sec (r : BitVec 5) (x : Bool) (s : State) : (setVEmpty r x s).core.sec = s.core.sec := rfl
@[simp] theorem setVEmpty_ptroot (r : BitVec 5) (x : Bool) (s : State) : (setVEmpty r x s).core.ptroot = s.core.ptroot := rfl
@[simp] theorem setVEmpty_pool (r : BitVec 5) (x : Bool) (s : State) : (setVEmpty r x s).core.pool = s.core.pool := rfl
@[simp] theorem setVEmpty_mq (r : BitVec 5) (x : Bool) (s : State) : (setVEmpty r x s).core.mq = s.core.mq := rfl
@[simp] theorem setVEmpty_eng (r : BitVec 5) (x : Bool) (s : State) : (setVEmpty r x s).core.eng = s.core.eng := rfl
@[simp] theorem setVEmpty_grid (r : BitVec 5) (x : Bool) (s : State) : (setVEmpty r x s).core.grid = s.core.grid := rfl
@[simp] theorem setVEmpty_port (r : BitVec 5) (x : Bool) (s : State) : (setVEmpty r x s).core.port = s.core.port := rfl
@[simp] theorem setVEmpty_homes (r : BitVec 5) (x : Bool) (s : State) : (setVEmpty r x s).homes = s.homes := rfl
@[simp] theorem setVEmpty_sched (r : BitVec 5) (x : Bool) (s : State) : (setVEmpty r x s).sched = s.sched := rfl
@[simp] theorem setVEmpty_net (r : BitVec 5) (x : Bool) (s : State) : (setVEmpty r x s).net = s.net := rfl
@[simp] theorem setVEmpty_power (r : BitVec 5) (x : Bool) (s : State) : (setVEmpty r x s).power = s.power := rfl
@[simp] theorem setVEmpty_otherPower (r : BitVec 5) (x : Bool) (s : State) : (setVEmpty r x s).otherPower = s.otherPower := rfl
@[simp] theorem setVEmpty_health (r : BitVec 5) (x : Bool) (s : State) : (setVEmpty r x s).health = s.health := rfl
@[simp] theorem setVEmpty_now (r : BitVec 5) (x : Bool) (s : State) : (setVEmpty r x s).now = s.now := rfl
@[simp] theorem setVEmpty_ticks (r : BitVec 5) (x : Bool) (s : State) : (setVEmpty r x s).ticks = s.ticks := rfl
@[simp] theorem setVEmpty_fresh (r : BitVec 5) (x : Bool) (s : State) : (setVEmpty r x s).fresh = s.fresh := rfl
@[simp] theorem setVEmpty_agenda (r : BitVec 5) (x : Bool) (s : State) : (setVEmpty r x s).agenda = s.agenda := rfl

@[simp] theorem raiseFlags_seq (f : Flags) (s : State) : (raiseFlags f s).core.seq = s.core.seq := rfl
@[simp] theorem raiseFlags_regs (f : Flags) (s : State) : (raiseFlags f s).core.regs = s.core.regs := rfl
@[simp] theorem raiseFlags_id (f : Flags) (s : State) : (raiseFlags f s).core.id = s.core.id := rfl
@[simp] theorem raiseFlags_ord (f : Flags) (s : State) : (raiseFlags f s).core.ord = s.core.ord := rfl
@[simp] theorem raiseFlags_launch (f : Flags) (s : State) : (raiseFlags f s).core.launch = s.core.launch := rfl
@[simp] theorem raiseFlags_hall (f : Flags) (s : State) : (raiseFlags f s).core.hall = s.core.hall := rfl
@[simp] theorem raiseFlags_sec (f : Flags) (s : State) : (raiseFlags f s).core.sec = s.core.sec := rfl
@[simp] theorem raiseFlags_ptroot (f : Flags) (s : State) : (raiseFlags f s).core.ptroot = s.core.ptroot := rfl
@[simp] theorem raiseFlags_pool (f : Flags) (s : State) : (raiseFlags f s).core.pool = s.core.pool := rfl
@[simp] theorem raiseFlags_mq (f : Flags) (s : State) : (raiseFlags f s).core.mq = s.core.mq := rfl
@[simp] theorem raiseFlags_eng (f : Flags) (s : State) : (raiseFlags f s).core.eng = s.core.eng := rfl
@[simp] theorem raiseFlags_grid (f : Flags) (s : State) : (raiseFlags f s).core.grid = s.core.grid := rfl
@[simp] theorem raiseFlags_port (f : Flags) (s : State) : (raiseFlags f s).core.port = s.core.port := rfl
@[simp] theorem raiseFlags_homes (f : Flags) (s : State) : (raiseFlags f s).homes = s.homes := rfl
@[simp] theorem raiseFlags_sched (f : Flags) (s : State) : (raiseFlags f s).sched = s.sched := rfl
@[simp] theorem raiseFlags_net (f : Flags) (s : State) : (raiseFlags f s).net = s.net := rfl
@[simp] theorem raiseFlags_power (f : Flags) (s : State) : (raiseFlags f s).power = s.power := rfl
@[simp] theorem raiseFlags_otherPower (f : Flags) (s : State) : (raiseFlags f s).otherPower = s.otherPower := rfl
@[simp] theorem raiseFlags_health (f : Flags) (s : State) : (raiseFlags f s).health = s.health := rfl
@[simp] theorem raiseFlags_now (f : Flags) (s : State) : (raiseFlags f s).now = s.now := rfl
@[simp] theorem raiseFlags_ticks (f : Flags) (s : State) : (raiseFlags f s).ticks = s.ticks := rfl
@[simp] theorem raiseFlags_fresh (f : Flags) (s : State) : (raiseFlags f s).fresh = s.fresh := rfl
@[simp] theorem raiseFlags_agenda (f : Flags) (s : State) : (raiseFlags f s).agenda = s.agenda := rfl

@[simp] theorem deliverLater_seq (l : Latent) (s : State) : (deliverLater l s).core.seq = s.core.seq := by cases l <;> simp only [deliverLater] <;> (try split) <;> rfl
@[simp] theorem deliverLater_sys (l : Latent) (s : State) : (deliverLater l s).core.sys = s.core.sys := by cases l <;> simp only [deliverLater] <;> (try split) <;> rfl
@[simp] theorem deliverLater_id (l : Latent) (s : State) : (deliverLater l s).core.id = s.core.id := by cases l <;> simp only [deliverLater] <;> (try split) <;> rfl
@[simp] theorem deliverLater_ord (l : Latent) (s : State) : (deliverLater l s).core.ord = s.core.ord := by cases l <;> simp only [deliverLater] <;> (try split) <;> rfl
@[simp] theorem deliverLater_launch (l : Latent) (s : State) : (deliverLater l s).core.launch = s.core.launch := by cases l <;> simp only [deliverLater] <;> (try split) <;> rfl
@[simp] theorem deliverLater_hall (l : Latent) (s : State) : (deliverLater l s).core.hall = s.core.hall := by cases l <;> simp only [deliverLater] <;> (try split) <;> rfl
@[simp] theorem deliverLater_sec (l : Latent) (s : State) : (deliverLater l s).core.sec = s.core.sec := by cases l <;> simp only [deliverLater] <;> (try split) <;> rfl
@[simp] theorem deliverLater_ptroot (l : Latent) (s : State) : (deliverLater l s).core.ptroot = s.core.ptroot := by cases l <;> simp only [deliverLater] <;> (try split) <;> rfl
@[simp] theorem deliverLater_pool (l : Latent) (s : State) : (deliverLater l s).core.pool = s.core.pool := by cases l <;> simp only [deliverLater] <;> (try split) <;> rfl
@[simp] theorem deliverLater_mq (l : Latent) (s : State) : (deliverLater l s).core.mq = s.core.mq := by cases l <;> simp only [deliverLater] <;> (try split) <;> rfl
@[simp] theorem deliverLater_eng (l : Latent) (s : State) : (deliverLater l s).core.eng = s.core.eng := by cases l <;> simp only [deliverLater] <;> (try split) <;> rfl
@[simp] theorem deliverLater_grid (l : Latent) (s : State) : (deliverLater l s).core.grid = s.core.grid := by cases l <;> simp only [deliverLater] <;> (try split) <;> rfl
@[simp] theorem deliverLater_port (l : Latent) (s : State) : (deliverLater l s).core.port = s.core.port := by cases l <;> simp only [deliverLater] <;> (try split) <;> rfl
@[simp] theorem deliverLater_homes (l : Latent) (s : State) : (deliverLater l s).homes = s.homes := by cases l <;> simp only [deliverLater] <;> (try split) <;> rfl
@[simp] theorem deliverLater_sched (l : Latent) (s : State) : (deliverLater l s).sched = s.sched := by cases l <;> simp only [deliverLater] <;> (try split) <;> rfl
@[simp] theorem deliverLater_net (l : Latent) (s : State) : (deliverLater l s).net = s.net := by cases l <;> simp only [deliverLater] <;> (try split) <;> rfl
@[simp] theorem deliverLater_power (l : Latent) (s : State) : (deliverLater l s).power = s.power := by cases l <;> simp only [deliverLater] <;> (try split) <;> rfl
@[simp] theorem deliverLater_otherPower (l : Latent) (s : State) : (deliverLater l s).otherPower = s.otherPower := by cases l <;> simp only [deliverLater] <;> (try split) <;> rfl
@[simp] theorem deliverLater_health (l : Latent) (s : State) : (deliverLater l s).health = s.health := by cases l <;> simp only [deliverLater] <;> (try split) <;> rfl
@[simp] theorem deliverLater_now (l : Latent) (s : State) : (deliverLater l s).now = s.now := by cases l <;> simp only [deliverLater] <;> (try split) <;> rfl
@[simp] theorem deliverLater_ticks (l : Latent) (s : State) : (deliverLater l s).ticks = s.ticks := by cases l <;> simp only [deliverLater] <;> (try split) <;> rfl
@[simp] theorem deliverLater_fresh (l : Latent) (s : State) : (deliverLater l s).fresh = s.fresh := by cases l <;> simp only [deliverLater] <;> (try split) <;> rfl
@[simp] theorem deliverLater_agenda (l : Latent) (s : State) : (deliverLater l s).agenda = s.agenda := by cases l <;> simp only [deliverLater] <;> (try split) <;> rfl

@[simp] theorem goto_regs (pc : Nat) (s : State) : (goto pc s).core.regs = s.core.regs := rfl
@[simp] theorem goto_sys (pc : Nat) (s : State) : (goto pc s).core.sys = s.core.sys := rfl
@[simp] theorem goto_id (pc : Nat) (s : State) : (goto pc s).core.id = s.core.id := rfl
@[simp] theorem goto_ord (pc : Nat) (s : State) : (goto pc s).core.ord = s.core.ord := rfl
@[simp] theorem goto_launch (pc : Nat) (s : State) : (goto pc s).core.launch = s.core.launch := rfl
@[simp] theorem goto_hall (pc : Nat) (s : State) : (goto pc s).core.hall = s.core.hall := rfl
@[simp] theorem goto_sec (pc : Nat) (s : State) : (goto pc s).core.sec = s.core.sec := rfl
@[simp] theorem goto_ptroot (pc : Nat) (s : State) : (goto pc s).core.ptroot = s.core.ptroot := rfl
@[simp] theorem goto_pool (pc : Nat) (s : State) : (goto pc s).core.pool = s.core.pool := rfl
@[simp] theorem goto_mq (pc : Nat) (s : State) : (goto pc s).core.mq = s.core.mq := rfl
@[simp] theorem goto_eng (pc : Nat) (s : State) : (goto pc s).core.eng = s.core.eng := rfl
@[simp] theorem goto_grid (pc : Nat) (s : State) : (goto pc s).core.grid = s.core.grid := rfl
@[simp] theorem goto_port (pc : Nat) (s : State) : (goto pc s).core.port = s.core.port := rfl
@[simp] theorem goto_homes (pc : Nat) (s : State) : (goto pc s).homes = s.homes := rfl
@[simp] theorem goto_sched (pc : Nat) (s : State) : (goto pc s).sched = s.sched := rfl
@[simp] theorem goto_net (pc : Nat) (s : State) : (goto pc s).net = s.net := rfl
@[simp] theorem goto_power (pc : Nat) (s : State) : (goto pc s).power = s.power := rfl
@[simp] theorem goto_otherPower (pc : Nat) (s : State) : (goto pc s).otherPower = s.otherPower := rfl
@[simp] theorem goto_health (pc : Nat) (s : State) : (goto pc s).health = s.health := rfl
@[simp] theorem goto_now (pc : Nat) (s : State) : (goto pc s).now = s.now := rfl
@[simp] theorem goto_ticks (pc : Nat) (s : State) : (goto pc s).ticks = s.ticks := rfl
@[simp] theorem goto_fresh (pc : Nat) (s : State) : (goto pc s).fresh = s.fresh := rfl
@[simp] theorem goto_agenda (pc : Nat) (s : State) : (goto pc s).agenda = s.agenda := rfl

@[simp] theorem nextWord_regs (s : State) : (nextWord s).core.regs = s.core.regs := by unfold nextWord; simp only; split <;> rfl
@[simp] theorem nextWord_sys (s : State) : (nextWord s).core.sys = s.core.sys := by unfold nextWord; simp only; split <;> rfl
@[simp] theorem nextWord_id (s : State) : (nextWord s).core.id = s.core.id := by unfold nextWord; simp only; split <;> rfl
@[simp] theorem nextWord_ord (s : State) : (nextWord s).core.ord = s.core.ord := by unfold nextWord; simp only; split <;> rfl
@[simp] theorem nextWord_launch (s : State) : (nextWord s).core.launch = s.core.launch := by unfold nextWord; simp only; split <;> rfl
@[simp] theorem nextWord_hall (s : State) : (nextWord s).core.hall = s.core.hall := by unfold nextWord; simp only; split <;> rfl
@[simp] theorem nextWord_sec (s : State) : (nextWord s).core.sec = s.core.sec := by unfold nextWord; simp only; split <;> rfl
@[simp] theorem nextWord_ptroot (s : State) : (nextWord s).core.ptroot = s.core.ptroot := by unfold nextWord; simp only; split <;> rfl
@[simp] theorem nextWord_pool (s : State) : (nextWord s).core.pool = s.core.pool := by unfold nextWord; simp only; split <;> rfl
@[simp] theorem nextWord_mq (s : State) : (nextWord s).core.mq = s.core.mq := by unfold nextWord; simp only; split <;> rfl
@[simp] theorem nextWord_eng (s : State) : (nextWord s).core.eng = s.core.eng := by unfold nextWord; simp only; split <;> rfl
@[simp] theorem nextWord_grid (s : State) : (nextWord s).core.grid = s.core.grid := by unfold nextWord; simp only; split <;> rfl
@[simp] theorem nextWord_port (s : State) : (nextWord s).core.port = s.core.port := by unfold nextWord; simp only; split <;> rfl
@[simp] theorem nextWord_homes (s : State) : (nextWord s).homes = s.homes := by unfold nextWord; simp only; split <;> rfl
@[simp] theorem nextWord_sched (s : State) : (nextWord s).sched = s.sched := by unfold nextWord; simp only; split <;> rfl
@[simp] theorem nextWord_net (s : State) : (nextWord s).net = s.net := by unfold nextWord; simp only; split <;> rfl
@[simp] theorem nextWord_power (s : State) : (nextWord s).power = s.power := by unfold nextWord; simp only; split <;> rfl
@[simp] theorem nextWord_otherPower (s : State) : (nextWord s).otherPower = s.otherPower := by unfold nextWord; simp only; split <;> rfl
@[simp] theorem nextWord_health (s : State) : (nextWord s).health = s.health := by unfold nextWord; simp only; split <;> rfl
@[simp] theorem nextWord_now (s : State) : (nextWord s).now = s.now := by unfold nextWord; simp only; split <;> rfl
@[simp] theorem nextWord_ticks (s : State) : (nextWord s).ticks = s.ticks := by unfold nextWord; simp only; split <;> rfl
@[simp] theorem nextWord_fresh (s : State) : (nextWord s).fresh = s.fresh := by unfold nextWord; simp only; split <;> rfl
@[simp] theorem nextWord_agenda (s : State) : (nextWord s).agenda = s.agenda := by unfold nextWord; simp only; split <;> rfl

@[simp] theorem countStep_regs (s : State) : (countStep s).core.regs = s.core.regs := by unfold countStep; split <;> rfl
@[simp] theorem countStep_sys (s : State) : (countStep s).core.sys = s.core.sys := by unfold countStep; split <;> rfl
@[simp] theorem countStep_id (s : State) : (countStep s).core.id = s.core.id := by unfold countStep; split <;> rfl
@[simp] theorem countStep_ord (s : State) : (countStep s).core.ord = s.core.ord := by unfold countStep; split <;> rfl
@[simp] theorem countStep_launch (s : State) : (countStep s).core.launch = s.core.launch := by unfold countStep; split <;> rfl
@[simp] theorem countStep_hall (s : State) : (countStep s).core.hall = s.core.hall := by unfold countStep; split <;> rfl
@[simp] theorem countStep_sec (s : State) : (countStep s).core.sec = s.core.sec := by unfold countStep; split <;> rfl
@[simp] theorem countStep_ptroot (s : State) : (countStep s).core.ptroot = s.core.ptroot := by unfold countStep; split <;> rfl
@[simp] theorem countStep_pool (s : State) : (countStep s).core.pool = s.core.pool := by unfold countStep; split <;> rfl
@[simp] theorem countStep_mq (s : State) : (countStep s).core.mq = s.core.mq := by unfold countStep; split <;> rfl
@[simp] theorem countStep_eng (s : State) : (countStep s).core.eng = s.core.eng := by unfold countStep; split <;> rfl
@[simp] theorem countStep_grid (s : State) : (countStep s).core.grid = s.core.grid := by unfold countStep; split <;> rfl
@[simp] theorem countStep_port (s : State) : (countStep s).core.port = s.core.port := by unfold countStep; split <;> rfl
@[simp] theorem countStep_homes (s : State) : (countStep s).homes = s.homes := by unfold countStep; split <;> rfl
@[simp] theorem countStep_sched (s : State) : (countStep s).sched = s.sched := by unfold countStep; split <;> rfl
@[simp] theorem countStep_net (s : State) : (countStep s).net = s.net := by unfold countStep; split <;> rfl
@[simp] theorem countStep_power (s : State) : (countStep s).power = s.power := by unfold countStep; split <;> rfl
@[simp] theorem countStep_otherPower (s : State) : (countStep s).otherPower = s.otherPower := by unfold countStep; split <;> rfl
@[simp] theorem countStep_health (s : State) : (countStep s).health = s.health := by unfold countStep; split <;> rfl
@[simp] theorem countStep_now (s : State) : (countStep s).now = s.now := by unfold countStep; split <;> rfl
@[simp] theorem countStep_ticks (s : State) : (countStep s).ticks = s.ticks := by unfold countStep; split <;> rfl
@[simp] theorem countStep_fresh (s : State) : (countStep s).fresh = s.fresh := by unfold countStep; split <;> rfl
@[simp] theorem countStep_agenda (s : State) : (countStep s).agenda = s.agenda := by unfold countStep; split <;> rfl

@[simp] theorem macroAt_regs (m n : Nat) (s : State) : (macroAt m n s).core.regs = s.core.regs := by unfold macroAt; split <;> simp
@[simp] theorem macroAt_id (m n : Nat) (s : State) : (macroAt m n s).core.id = s.core.id := by unfold macroAt; split <;> simp
@[simp] theorem macroAt_ord (m n : Nat) (s : State) : (macroAt m n s).core.ord = s.core.ord := by unfold macroAt; split <;> simp
@[simp] theorem macroAt_launch (m n : Nat) (s : State) : (macroAt m n s).core.launch = s.core.launch := by unfold macroAt; split <;> simp
@[simp] theorem macroAt_hall (m n : Nat) (s : State) : (macroAt m n s).core.hall = s.core.hall := by unfold macroAt; split <;> simp
@[simp] theorem macroAt_sec (m n : Nat) (s : State) : (macroAt m n s).core.sec = s.core.sec := by unfold macroAt; split <;> simp
@[simp] theorem macroAt_ptroot (m n : Nat) (s : State) : (macroAt m n s).core.ptroot = s.core.ptroot := by unfold macroAt; split <;> simp
@[simp] theorem macroAt_pool (m n : Nat) (s : State) : (macroAt m n s).core.pool = s.core.pool := by unfold macroAt; split <;> simp
@[simp] theorem macroAt_mq (m n : Nat) (s : State) : (macroAt m n s).core.mq = s.core.mq := by unfold macroAt; split <;> simp
@[simp] theorem macroAt_eng (m n : Nat) (s : State) : (macroAt m n s).core.eng = s.core.eng := by unfold macroAt; split <;> simp
@[simp] theorem macroAt_grid (m n : Nat) (s : State) : (macroAt m n s).core.grid = s.core.grid := by unfold macroAt; split <;> simp
@[simp] theorem macroAt_port (m n : Nat) (s : State) : (macroAt m n s).core.port = s.core.port := by unfold macroAt; split <;> simp
@[simp] theorem macroAt_homes (m n : Nat) (s : State) : (macroAt m n s).homes = s.homes := by unfold macroAt; split <;> simp
@[simp] theorem macroAt_sched (m n : Nat) (s : State) : (macroAt m n s).sched = s.sched := by unfold macroAt; split <;> simp
@[simp] theorem macroAt_net (m n : Nat) (s : State) : (macroAt m n s).net = s.net := by unfold macroAt; split <;> simp
@[simp] theorem macroAt_power (m n : Nat) (s : State) : (macroAt m n s).power = s.power := by unfold macroAt; split <;> simp
@[simp] theorem macroAt_otherPower (m n : Nat) (s : State) : (macroAt m n s).otherPower = s.otherPower := by unfold macroAt; split <;> simp
@[simp] theorem macroAt_health (m n : Nat) (s : State) : (macroAt m n s).health = s.health := by unfold macroAt; split <;> simp
@[simp] theorem macroAt_now (m n : Nat) (s : State) : (macroAt m n s).now = s.now := by unfold macroAt; split <;> simp
@[simp] theorem macroAt_ticks (m n : Nat) (s : State) : (macroAt m n s).ticks = s.ticks := by unfold macroAt; split <;> simp
@[simp] theorem macroAt_fresh (m n : Nat) (s : State) : (macroAt m n s).fresh = s.fresh := by unfold macroAt; split <;> simp
@[simp] theorem macroAt_agenda (m n : Nat) (s : State) : (macroAt m n s).agenda = s.agenda := by unfold macroAt; split <;> simp

@[simp] theorem retire_regs (s : State) : (retire s).core.regs = s.core.regs := by unfold retire; simp only; split <;> simp
@[simp] theorem retire_id (s : State) : (retire s).core.id = s.core.id := by unfold retire; simp only; split <;> simp
@[simp] theorem retire_ord (s : State) : (retire s).core.ord = s.core.ord := by unfold retire; simp only; split <;> simp
@[simp] theorem retire_launch (s : State) : (retire s).core.launch = s.core.launch := by unfold retire; simp only; split <;> simp
@[simp] theorem retire_hall (s : State) : (retire s).core.hall = s.core.hall := by unfold retire; simp only; split <;> simp
@[simp] theorem retire_sec (s : State) : (retire s).core.sec = s.core.sec := by unfold retire; simp only; split <;> simp
@[simp] theorem retire_ptroot (s : State) : (retire s).core.ptroot = s.core.ptroot := by unfold retire; simp only; split <;> simp
@[simp] theorem retire_pool (s : State) : (retire s).core.pool = s.core.pool := by unfold retire; simp only; split <;> simp
@[simp] theorem retire_mq (s : State) : (retire s).core.mq = s.core.mq := by unfold retire; simp only; split <;> simp
@[simp] theorem retire_eng (s : State) : (retire s).core.eng = s.core.eng := by unfold retire; simp only; split <;> simp
@[simp] theorem retire_grid (s : State) : (retire s).core.grid = s.core.grid := by unfold retire; simp only; split <;> simp
@[simp] theorem retire_port (s : State) : (retire s).core.port = s.core.port := by unfold retire; simp only; split <;> simp
@[simp] theorem retire_homes (s : State) : (retire s).homes = s.homes := by unfold retire; simp only; split <;> simp
@[simp] theorem retire_sched (s : State) : (retire s).sched = s.sched := by unfold retire; simp only; split <;> simp
@[simp] theorem retire_net (s : State) : (retire s).net = s.net := by unfold retire; simp only; split <;> simp
@[simp] theorem retire_power (s : State) : (retire s).power = s.power := by unfold retire; simp only; split <;> simp
@[simp] theorem retire_otherPower (s : State) : (retire s).otherPower = s.otherPower := by unfold retire; simp only; split <;> simp
@[simp] theorem retire_health (s : State) : (retire s).health = s.health := by unfold retire; simp only; split <;> simp
@[simp] theorem retire_now (s : State) : (retire s).now = s.now := by unfold retire; simp only; split <;> simp
@[simp] theorem retire_ticks (s : State) : (retire s).ticks = s.ticks := by unfold retire; simp only; split <;> simp
@[simp] theorem retire_fresh (s : State) : (retire s).fresh = s.fresh := by unfold retire; simp only; split <;> simp
@[simp] theorem retire_agenda (s : State) : (retire s).agenda = s.agenda := by unfold retire; simp only; split <;> simp

@[simp] theorem retireTo_regs (pc : Nat) (s : State) : (retireTo pc s).core.regs = s.core.regs := by simp [retireTo]
@[simp] theorem retireTo_sys (pc : Nat) (s : State) : (retireTo pc s).core.sys = s.core.sys := by simp [retireTo]
@[simp] theorem retireTo_id (pc : Nat) (s : State) : (retireTo pc s).core.id = s.core.id := by simp [retireTo]
@[simp] theorem retireTo_ord (pc : Nat) (s : State) : (retireTo pc s).core.ord = s.core.ord := by simp [retireTo]
@[simp] theorem retireTo_launch (pc : Nat) (s : State) : (retireTo pc s).core.launch = s.core.launch := by simp [retireTo]
@[simp] theorem retireTo_hall (pc : Nat) (s : State) : (retireTo pc s).core.hall = s.core.hall := by simp [retireTo]
@[simp] theorem retireTo_sec (pc : Nat) (s : State) : (retireTo pc s).core.sec = s.core.sec := by simp [retireTo]
@[simp] theorem retireTo_ptroot (pc : Nat) (s : State) : (retireTo pc s).core.ptroot = s.core.ptroot := by simp [retireTo]
@[simp] theorem retireTo_pool (pc : Nat) (s : State) : (retireTo pc s).core.pool = s.core.pool := by simp [retireTo]
@[simp] theorem retireTo_mq (pc : Nat) (s : State) : (retireTo pc s).core.mq = s.core.mq := by simp [retireTo]
@[simp] theorem retireTo_eng (pc : Nat) (s : State) : (retireTo pc s).core.eng = s.core.eng := by simp [retireTo]
@[simp] theorem retireTo_grid (pc : Nat) (s : State) : (retireTo pc s).core.grid = s.core.grid := by simp [retireTo]
@[simp] theorem retireTo_port (pc : Nat) (s : State) : (retireTo pc s).core.port = s.core.port := by simp [retireTo]
@[simp] theorem retireTo_homes (pc : Nat) (s : State) : (retireTo pc s).homes = s.homes := by simp [retireTo]
@[simp] theorem retireTo_sched (pc : Nat) (s : State) : (retireTo pc s).sched = s.sched := by simp [retireTo]
@[simp] theorem retireTo_net (pc : Nat) (s : State) : (retireTo pc s).net = s.net := by simp [retireTo]
@[simp] theorem retireTo_power (pc : Nat) (s : State) : (retireTo pc s).power = s.power := by simp [retireTo]
@[simp] theorem retireTo_otherPower (pc : Nat) (s : State) : (retireTo pc s).otherPower = s.otherPower := by simp [retireTo]
@[simp] theorem retireTo_health (pc : Nat) (s : State) : (retireTo pc s).health = s.health := by simp [retireTo]
@[simp] theorem retireTo_now (pc : Nat) (s : State) : (retireTo pc s).now = s.now := by simp [retireTo]
@[simp] theorem retireTo_ticks (pc : Nat) (s : State) : (retireTo pc s).ticks = s.ticks := by simp [retireTo]
@[simp] theorem retireTo_fresh (pc : Nat) (s : State) : (retireTo pc s).fresh = s.fresh := by simp [retireTo]
@[simp] theorem retireTo_agenda (pc : Nat) (s : State) : (retireTo pc s).agenda = s.agenda := by simp [retireTo]

@[simp] theorem issued_regs (s : State) : (issued s).core.regs = s.core.regs := rfl
@[simp] theorem issued_sys (s : State) : (issued s).core.sys = s.core.sys := rfl
@[simp] theorem issued_id (s : State) : (issued s).core.id = s.core.id := rfl
@[simp] theorem issued_ord (s : State) : (issued s).core.ord = s.core.ord := rfl
@[simp] theorem issued_launch (s : State) : (issued s).core.launch = s.core.launch := rfl
@[simp] theorem issued_hall (s : State) : (issued s).core.hall = s.core.hall := rfl
@[simp] theorem issued_sec (s : State) : (issued s).core.sec = s.core.sec := rfl
@[simp] theorem issued_ptroot (s : State) : (issued s).core.ptroot = s.core.ptroot := rfl
@[simp] theorem issued_pool (s : State) : (issued s).core.pool = s.core.pool := rfl
@[simp] theorem issued_mq (s : State) : (issued s).core.mq = s.core.mq := rfl
@[simp] theorem issued_eng (s : State) : (issued s).core.eng = s.core.eng := rfl
@[simp] theorem issued_grid (s : State) : (issued s).core.grid = s.core.grid := rfl
@[simp] theorem issued_port (s : State) : (issued s).core.port = s.core.port := rfl
@[simp] theorem issued_homes (s : State) : (issued s).homes = s.homes := rfl
@[simp] theorem issued_sched (s : State) : (issued s).sched = s.sched := rfl
@[simp] theorem issued_net (s : State) : (issued s).net = s.net := rfl
@[simp] theorem issued_power (s : State) : (issued s).power = s.power := rfl
@[simp] theorem issued_otherPower (s : State) : (issued s).otherPower = s.otherPower := rfl
@[simp] theorem issued_health (s : State) : (issued s).health = s.health := rfl
@[simp] theorem issued_now (s : State) : (issued s).now = s.now := rfl
@[simp] theorem issued_ticks (s : State) : (issued s).ticks = s.ticks := rfl
@[simp] theorem issued_fresh (s : State) : (issued s).fresh = s.fresh := rfl
@[simp] theorem issued_agenda (s : State) : (issued s).agenda = s.agenda := rfl

/-! ## Registers that an operation leaves alone -/

theorem readS_congr {s t : State} (h : t.core.regs.s = s.core.regs.s) (r : BitVec 5) : readS t r = readS s r := by
  simp [readS, h]

theorem readV_congr {s t : State} (h : t.core.regs.v = s.core.regs.v) (r : BitVec 5) : readV t r = readV s r := by
  simp [readV, h]

theorem readP_congr {s t : State} (h : t.core.regs.p = s.core.regs.p) (r : BitVec 3) : readP t r = readP s r := by
  simp [readP, h]

theorem readQ_congr {s t : State} (h : t.core.regs.q = s.core.regs.q) (r : BitVec 3) : readQ t r = readQ s r := by
  simp [readQ, h]

@[simp] theorem readS_retire (s : State) (r : BitVec 5) : readS (retire s) r = readS s r := readS_congr (by simp) r
@[simp] theorem readV_retire (s : State) (r : BitVec 5) : readV (retire s) r = readV s r := readV_congr (by simp) r
@[simp] theorem readP_retire (s : State) (r : BitVec 3) : readP (retire s) r = readP s r := readP_congr (by simp) r
@[simp] theorem readQ_retire (s : State) (r : BitVec 3) : readQ (retire s) r = readQ s r := readQ_congr (by simp) r
@[simp] theorem readS_issued (s : State) (r : BitVec 5) : readS (issued s) r = readS s r := rfl
@[simp] theorem readV_issued (s : State) (r : BitVec 5) : readV (issued s) r = readV s r := rfl
@[simp] theorem readP_issued (s : State) (r : BitVec 3) : readP (issued s) r = readP s r := rfl
@[simp] theorem readQ_issued (s : State) (r : BitVec 3) : readQ (issued s) r = readQ s r := rfl

end Sys2Proof.Machine
end

