-- ==== Sys2Proof/Laws/Arms.lean ====
section
/-! SUPPORT. The arms of `exec`, one equation each. -/

namespace Sys2Proof.Machine

theorem exec_add (d : BitVec 5) (a : BitVec 5) (b : BitVec 5) (fa : Bool) (fb : Bool) (s : State) : exec (.add d a b fa fb) s = execAdd d a b fa fb s := rfl
theorem exec_sub (d : BitVec 5) (a : BitVec 5) (b : BitVec 5) (fa : Bool) (fb : Bool) (s : State) : exec (.sub d a b fa fb) s = execSub d a b fa fb s := rfl
theorem exec_andR (d : BitVec 5) (a : BitVec 5) (b : BitVec 5) (fa : Bool) (fb : Bool) (s : State) : exec (.andR d a b fa fb) s = execAndR d a b fa fb s := rfl
theorem exec_orR (d : BitVec 5) (a : BitVec 5) (b : BitVec 5) (fa : Bool) (fb : Bool) (s : State) : exec (.orR d a b fa fb) s = execOrR d a b fa fb s := rfl
theorem exec_xorR (d : BitVec 5) (a : BitVec 5) (b : BitVec 5) (fa : Bool) (fb : Bool) (s : State) : exec (.xorR d a b fa fb) s = execXorR d a b fa fb s := rfl
theorem exec_andn (d : BitVec 5) (a : BitVec 5) (b : BitVec 5) (fa : Bool) (fb : Bool) (s : State) : exec (.andn d a b fa fb) s = execAndn d a b fa fb s := rfl
theorem exec_addw (d : BitVec 5) (a : BitVec 5) (b : BitVec 5) (fa : Bool) (fb : Bool) (s : State) : exec (.addw d a b fa fb) s = execAddw d a b fa fb s := rfl
theorem exec_subw (d : BitVec 5) (a : BitVec 5) (b : BitVec 5) (fa : Bool) (fb : Bool) (s : State) : exec (.subw d a b fa fb) s = execSubw d a b fa fb s := rfl
theorem exec_addsat (d : BitVec 5) (a : BitVec 5) (b : BitVec 5) (fa : Bool) (fb : Bool) (s : State) : exec (.addsat d a b fa fb) s = execAddsat d a b fa fb s := rfl
theorem exec_subsat (d : BitVec 5) (a : BitVec 5) (b : BitVec 5) (fa : Bool) (fb : Bool) (s : State) : exec (.subsat d a b fa fb) s = execSubsat d a b fa fb s := rfl
theorem exec_sll (d : BitVec 5) (a : BitVec 5) (b : BitVec 5) (fa : Bool) (fb : Bool) (s : State) : exec (.sll d a b fa fb) s = execSll d a b fa fb s := rfl
theorem exec_srl (d : BitVec 5) (a : BitVec 5) (b : BitVec 5) (fa : Bool) (fb : Bool) (s : State) : exec (.srl d a b fa fb) s = execSrl d a b fa fb s := rfl
theorem exec_sra (d : BitVec 5) (a : BitVec 5) (b : BitVec 5) (fa : Bool) (fb : Bool) (s : State) : exec (.sra d a b fa fb) s = execSra d a b fa fb s := rfl
theorem exec_rol (d : BitVec 5) (a : BitVec 5) (b : BitVec 5) (fa : Bool) (fb : Bool) (s : State) : exec (.rol d a b fa fb) s = execRol d a b fa fb s := rfl
theorem exec_ror (d : BitVec 5) (a : BitVec 5) (b : BitVec 5) (fa : Bool) (fb : Bool) (s : State) : exec (.ror d a b fa fb) s = execRor d a b fa fb s := rfl
theorem exec_sllw (d : BitVec 5) (a : BitVec 5) (b : BitVec 5) (fa : Bool) (fb : Bool) (s : State) : exec (.sllw d a b fa fb) s = execSllw d a b fa fb s := rfl
theorem exec_srlw (d : BitVec 5) (a : BitVec 5) (b : BitVec 5) (fa : Bool) (fb : Bool) (s : State) : exec (.srlw d a b fa fb) s = execSrlw d a b fa fb s := rfl
theorem exec_sraw (d : BitVec 5) (a : BitVec 5) (b : BitVec 5) (fa : Bool) (fb : Bool) (s : State) : exec (.sraw d a b fa fb) s = execSraw d a b fa fb s := rfl
theorem exec_mul (d : BitVec 5) (a : BitVec 5) (b : BitVec 5) (fa : Bool) (fb : Bool) (s : State) : exec (.mul d a b fa fb) s = execMul d a b fa fb s := rfl
theorem exec_mulh (d : BitVec 5) (a : BitVec 5) (b : BitVec 5) (fa : Bool) (fb : Bool) (s : State) : exec (.mulh d a b fa fb) s = execMulh d a b fa fb s := rfl
theorem exec_mulhu (d : BitVec 5) (a : BitVec 5) (b : BitVec 5) (fa : Bool) (fb : Bool) (s : State) : exec (.mulhu d a b fa fb) s = execMulhu d a b fa fb s := rfl
theorem exec_mulhsu (d : BitVec 5) (a : BitVec 5) (b : BitVec 5) (fa : Bool) (fb : Bool) (s : State) : exec (.mulhsu d a b fa fb) s = execMulhsu d a b fa fb s := rfl
theorem exec_mulw (d : BitVec 5) (a : BitVec 5) (b : BitVec 5) (fa : Bool) (fb : Bool) (s : State) : exec (.mulw d a b fa fb) s = execMulw d a b fa fb s := rfl
theorem exec_div (d : BitVec 5) (a : BitVec 5) (b : BitVec 5) (fa : Bool) (fb : Bool) (s : State) : exec (.div d a b fa fb) s = execDiv d a b fa fb s := rfl
theorem exec_divu (d : BitVec 5) (a : BitVec 5) (b : BitVec 5) (fa : Bool) (fb : Bool) (s : State) : exec (.divu d a b fa fb) s = execDivu d a b fa fb s := rfl
theorem exec_rem (d : BitVec 5) (a : BitVec 5) (b : BitVec 5) (fa : Bool) (fb : Bool) (s : State) : exec (.rem d a b fa fb) s = execRem d a b fa fb s := rfl
theorem exec_remu (d : BitVec 5) (a : BitVec 5) (b : BitVec 5) (fa : Bool) (fb : Bool) (s : State) : exec (.remu d a b fa fb) s = execRemu d a b fa fb s := rfl
theorem exec_divw (d : BitVec 5) (a : BitVec 5) (b : BitVec 5) (fa : Bool) (fb : Bool) (s : State) : exec (.divw d a b fa fb) s = execDivw d a b fa fb s := rfl
theorem exec_divuw (d : BitVec 5) (a : BitVec 5) (b : BitVec 5) (fa : Bool) (fb : Bool) (s : State) : exec (.divuw d a b fa fb) s = execDivuw d a b fa fb s := rfl
theorem exec_remw (d : BitVec 5) (a : BitVec 5) (b : BitVec 5) (fa : Bool) (fb : Bool) (s : State) : exec (.remw d a b fa fb) s = execRemw d a b fa fb s := rfl
theorem exec_remuw (d : BitVec 5) (a : BitVec 5) (b : BitVec 5) (fa : Bool) (fb : Bool) (s : State) : exec (.remuw d a b fa fb) s = execRemuw d a b fa fb s := rfl
theorem exec_min (d : BitVec 5) (a : BitVec 5) (b : BitVec 5) (fa : Bool) (fb : Bool) (s : State) : exec (.min d a b fa fb) s = execMin d a b fa fb s := rfl
theorem exec_max (d : BitVec 5) (a : BitVec 5) (b : BitVec 5) (fa : Bool) (fb : Bool) (s : State) : exec (.max d a b fa fb) s = execMax d a b fa fb s := rfl
theorem exec_minu (d : BitVec 5) (a : BitVec 5) (b : BitVec 5) (fa : Bool) (fb : Bool) (s : State) : exec (.minu d a b fa fb) s = execMinu d a b fa fb s := rfl
theorem exec_maxu (d : BitVec 5) (a : BitVec 5) (b : BitVec 5) (fa : Bool) (fb : Bool) (s : State) : exec (.maxu d a b fa fb) s = execMaxu d a b fa fb s := rfl
theorem exec_clz (d : BitVec 5) (a : BitVec 5) (fa : Bool) (s : State) : exec (.clz d a fa) s = execClz d a fa s := rfl
theorem exec_popc (d : BitVec 5) (a : BitVec 5) (fa : Bool) (s : State) : exec (.popc d a fa) s = execPopc d a fa s := rfl
theorem exec_sel (d : BitVec 5) (a : BitVec 5) (b : BitVec 5) (fa : Bool) (fb : Bool) (neg : Bool) (p : BitVec 3) (s : State) : exec (.sel d a b fa fb neg p) s = execSel d a b fa fb neg p s := rfl
theorem exec_scadd (d : BitVec 5) (a : BitVec 5) (b : BitVec 5) (fa : Bool) (fb : Bool) (sh : BitVec 2) (s : State) : exec (.scadd d a b fa fb sh) s = execScadd d a b fa fb sh s := rfl
theorem exec_scaddx (d : BitVec 5) (a : BitVec 5) (b : BitVec 5) (fa : Bool) (fb : Bool) (sh : BitVec 2) (s : State) : exec (.scaddx d a b fa fb sh) s = execScaddx d a b fa fb sh s := rfl
theorem exec_scaddz (d : BitVec 5) (a : BitVec 5) (b : BitVec 5) (fa : Bool) (fb : Bool) (sh : BitVec 2) (s : State) : exec (.scaddz d a b fa fb sh) s = execScaddz d a b fa fb sh s := rfl
theorem exec_addi (d : BitVec 5) (a : BitVec 5) (imm : BitVec 15) (s : State) : exec (.addi d a imm) s = execAddi d a imm s := rfl
theorem exec_andi (d : BitVec 5) (a : BitVec 5) (imm : BitVec 15) (s : State) : exec (.andi d a imm) s = execAndi d a imm s := rfl
theorem exec_ori (d : BitVec 5) (a : BitVec 5) (imm : BitVec 15) (s : State) : exec (.ori d a imm) s = execOri d a imm s := rfl
theorem exec_xori (d : BitVec 5) (a : BitVec 5) (imm : BitVec 15) (s : State) : exec (.xori d a imm) s = execXori d a imm s := rfl
theorem exec_addiw (d : BitVec 5) (a : BitVec 5) (imm : BitVec 15) (s : State) : exec (.addiw d a imm) s = execAddiw d a imm s := rfl
theorem exec_slli (d : BitVec 5) (a : BitVec 5) (n : BitVec 6) (s : State) : exec (.slli d a n) s = execSlli d a n s := rfl
theorem exec_srli (d : BitVec 5) (a : BitVec 5) (n : BitVec 6) (s : State) : exec (.srli d a n) s = execSrli d a n s := rfl
theorem exec_srai (d : BitVec 5) (a : BitVec 5) (n : BitVec 6) (s : State) : exec (.srai d a n) s = execSrai d a n s := rfl
theorem exec_rori (d : BitVec 5) (a : BitVec 5) (n : BitVec 6) (s : State) : exec (.rori d a n) s = execRori d a n s := rfl
theorem exec_slliw (d : BitVec 5) (a : BitVec 5) (n : BitVec 5) (s : State) : exec (.slliw d a n) s = execSlliw d a n s := rfl
theorem exec_srliw (d : BitVec 5) (a : BitVec 5) (n : BitVec 5) (s : State) : exec (.srliw d a n) s = execSrliw d a n s := rfl
theorem exec_sraiw (d : BitVec 5) (a : BitVec 5) (n : BitVec 5) (s : State) : exec (.sraiw d a n) s = execSraiw d a n s := rfl
theorem exec_cmpeqi (p : BitVec 3) (a : BitVec 5) (imm : BitVec 12) (s : State) : exec (.cmpeqi p a imm) s = execCmpeqi p a imm s := rfl
theorem exec_cmpnei (p : BitVec 3) (a : BitVec 5) (imm : BitVec 12) (s : State) : exec (.cmpnei p a imm) s = execCmpnei p a imm s := rfl
theorem exec_cmplti (p : BitVec 3) (a : BitVec 5) (imm : BitVec 12) (s : State) : exec (.cmplti p a imm) s = execCmplti p a imm s := rfl
theorem exec_cmpgei (p : BitVec 3) (a : BitVec 5) (imm : BitVec 12) (s : State) : exec (.cmpgei p a imm) s = execCmpgei p a imm s := rfl
theorem exec_cmpltui (p : BitVec 3) (a : BitVec 5) (imm : BitVec 12) (s : State) : exec (.cmpltui p a imm) s = execCmpltui p a imm s := rfl
theorem exec_cmpgeui (p : BitVec 3) (a : BitVec 5) (imm : BitVec 12) (s : State) : exec (.cmpgeui p a imm) s = execCmpgeui p a imm s := rfl
theorem exec_lui (d : BitVec 5) (imm : BitVec 20) (s : State) : exec (.lui d imm) s = execLui d imm s := rfl
theorem exec_pld (d : BitVec 5) (a : BitVec 5) (kind : BitVec 3) (off : BitVec 11) (s : State) : exec (.pld d a kind off) s = execPld d a kind off s := rfl
theorem exec_pldIndexed (d : BitVec 5) (a : BitVec 5) (kind : BitVec 3) (idx : BitVec 5) (s : State) : exec (.pldIndexed d a kind idx) s = execPldIndexed d a kind idx s := rfl
theorem exec_pst (d : BitVec 5) (a : BitVec 5) (kind : BitVec 2) (off : BitVec 11) (s : State) : exec (.pst d a kind off) s = execPst d a kind off s := rfl
theorem exec_pstIndexed (d : BitVec 5) (a : BitVec 5) (kind : BitVec 2) (idx : BitVec 5) (s : State) : exec (.pstIndexed d a kind idx) s = execPstIndexed d a kind idx s := rfl
theorem exec_gld (d : BitVec 5) (a : BitVec 5) (kind : BitVec 3) (off : BitVec 11) (s : State) : exec (.gld d a kind off) s = execGld d a kind off s := rfl
theorem exec_gldIndexed (d : BitVec 5) (a : BitVec 5) (kind : BitVec 3) (idx : BitVec 5) (s : State) : exec (.gldIndexed d a kind idx) s = execGldIndexed d a kind idx s := rfl
theorem exec_gst (d : BitVec 5) (a : BitVec 5) (width : BitVec 2) (sc : BitVec 3) (off : BitVec 9) (s : State) : exec (.gst d a width sc off) s = execGst d a width sc off s := rfl
theorem exec_gstIndexed (d : BitVec 5) (a : BitVec 5) (width : BitVec 2) (sc : BitVec 3) (idx : BitVec 5) (s : State) : exec (.gstIndexed d a width sc idx) s = execGstIndexed d a width sc idx s := rfl
theorem exec_pbr (b : BitVec 3) (disp : BitVec 22) (s : State) : exec (.pbr b disp) s = execPbr b disp s := rfl
theorem exec_br (b : BitVec 3) (p : BitVec 3) (neg : Bool) (s : State) : exec (.br b p neg) s = execBr b p neg s := rfl
theorem exec_brl (b : BitVec 3) (p : BitVec 3) (neg : Bool) (s : State) : exec (.brl b p neg) s = execBrl b p neg s := rfl
theorem exec_cmpeq (p : BitVec 3) (a : BitVec 5) (b : BitVec 5) (fa : Bool) (fb : Bool) (s : State) : exec (.cmpeq p a b fa fb) s = execCmpeq p a b fa fb s := rfl
theorem exec_cmpne (p : BitVec 3) (a : BitVec 5) (b : BitVec 5) (fa : Bool) (fb : Bool) (s : State) : exec (.cmpne p a b fa fb) s = execCmpne p a b fa fb s := rfl
theorem exec_cmplt (p : BitVec 3) (a : BitVec 5) (b : BitVec 5) (fa : Bool) (fb : Bool) (s : State) : exec (.cmplt p a b fa fb) s = execCmplt p a b fa fb s := rfl
theorem exec_cmpge (p : BitVec 3) (a : BitVec 5) (b : BitVec 5) (fa : Bool) (fb : Bool) (s : State) : exec (.cmpge p a b fa fb) s = execCmpge p a b fa fb s := rfl
theorem exec_cmpltu (p : BitVec 3) (a : BitVec 5) (b : BitVec 5) (fa : Bool) (fb : Bool) (s : State) : exec (.cmpltu p a b fa fb) s = execCmpltu p a b fa fb s := rfl
theorem exec_cmpgeu (p : BitVec 3) (a : BitVec 5) (b : BitVec 5) (fa : Bool) (fb : Bool) (s : State) : exec (.cmpgeu p a b fa fb) s = execCmpgeu p a b fa fb s := rfl
theorem exec_pand (d : BitVec 3) (a : BitVec 3) (b : BitVec 3) (s : State) : exec (.pand d a b) s = execPand d a b s := rfl
theorem exec_por (d : BitVec 3) (a : BitVec 3) (b : BitVec 3) (s : State) : exec (.por d a b) s = execPor d a b s := rfl
theorem exec_pxor (d : BitVec 3) (a : BitVec 3) (b : BitVec 3) (s : State) : exec (.pxor d a b) s = execPxor d a b s := rfl
theorem exec_pandn (d : BitVec 3) (a : BitVec 3) (b : BitVec 3) (s : State) : exec (.pandn d a b) s = execPandn d a b s := rfl
theorem exec_pnot (d : BitVec 3) (a : BitVec 3) (s : State) : exec (.pnot d a) s = execPnot d a s := rfl
theorem exec_pget (d : BitVec 5) (a : BitVec 3) (s : State) : exec (.pget d a) s = execPget d a s := rfl
theorem exec_pset (d : BitVec 3) (a : BitVec 5) (fa : Bool) (s : State) : exec (.pset d a fa) s = execPset d a fa s := rfl
theorem exec_pbrr (d : BitVec 3) (a : BitVec 5) (fa : Bool) (s : State) : exec (.pbrr d a fa) s = execPbrr d a fa s := rfl
theorem exec_loop (lvl : BitVec 2) (a : BitVec 5) (len : BitVec 12) (s : State) : exec (.loop lvl a len) s = execLoop lvl a len s := rfl
theorem exec_loopi (lvl : BitVec 2) (raw : BitVec 8) (len : BitVec 12) (s : State) : exec (.loopi lvl raw len) s = execLoopi lvl raw len s := rfl
theorem exec_lbrk (lvl : BitVec 2) (s : State) : exec (.lbrk lvl) s = execLbrk lvl s := rfl
theorem exec_mcall (a : BitVec 5) (m : BitVec 6) (s : State) : exec (.mcall a m) s = execMcall a m s := rfl
theorem exec_mstore (a : BitVec 5) (stepNo : BitVec 5) (m : BitVec 6) (s : State) : exec (.mstore a stepNo m) s = execMstore a stepNo m s := rfl
theorem exec_mov (d : BitVec 5) (a : BitVec 5) (s : State) : exec (.mov d a) s = execMov d a s := rfl
theorem exec_mfs (d : BitVec 5) (r : BitVec 12) (s : State) : exec (.mfs d r) s = execMfs d r s := rfl
theorem exec_mfsTcause (d : BitVec 5) (s : State) : exec (.mfsTcause d) s = execMfsTcause d s := rfl
theorem exec_mfsEngineStatus (d : BitVec 5) (r : BitVec 12) (s : State) : exec (.mfsEngineStatus d r) s = execMfsEngineStatus d r s := rfl
theorem exec_mts (a : BitVec 5) (r : BitVec 12) (s : State) : exec (.mts a r) s = execMts a r s := rfl
theorem exec_mtsPartw (a : BitVec 5) (s : State) : exec (.mtsPartw a) s = execMtsPartw a s := rfl
theorem exec_mtsFpctl (a : BitVec 5) (s : State) : exec (.mtsFpctl a) s = execMtsFpctl a s := rfl
theorem exec_mtsFpflag (a : BitVec 5) (s : State) : exec (.mtsFpflag a) s = execMtsFpflag a s := rfl
theorem exec_mtsLc (a : BitVec 5) (r : BitVec 12) (s : State) : exec (.mtsLc a r) s = execMtsLc a r s := rfl
theorem exec_mtsMsdepth (a : BitVec 5) (s : State) : exec (.mtsMsdepth a) s = execMtsMsdepth a s := rfl
theorem exec_mtsQht (a : BitVec 5) (r : BitVec 12) (s : State) : exec (.mtsQht a r) s = execMtsQht a r s := rfl
theorem exec_cyc (d : BitVec 5) (s : State) : exec (.cyc d) s = execCyc d s := rfl
theorem exec_nop (s : State) : exec (.nop) s = execNop s := rfl
theorem exec_ovl (a : BitVec 5) (fa : Bool) (s : State) : exec (.ovl a fa) s = execOvl a fa s := rfl
theorem exec_exit (s : State) : exec (.exit) s = execExit s := rfl
theorem exec_vaddF32 (d : BitVec 5) (a : BitVec 5) (b : BitVec 5) (rm : BitVec 3) (s : State) : exec (.vaddF32 d a b rm) s = execVaddF32 d a b rm s := rfl
theorem exec_vsubF32 (d : BitVec 5) (a : BitVec 5) (b : BitVec 5) (rm : BitVec 3) (s : State) : exec (.vsubF32 d a b rm) s = execVsubF32 d a b rm s := rfl
theorem exec_vmulF32 (d : BitVec 5) (a : BitVec 5) (b : BitVec 5) (rm : BitVec 3) (s : State) : exec (.vmulF32 d a b rm) s = execVmulF32 d a b rm s := rfl
theorem exec_vfmaF32 (d : BitVec 5) (a : BitVec 5) (b : BitVec 5) (rm : BitVec 3) (s : State) : exec (.vfmaF32 d a b rm) s = execVfmaF32 d a b rm s := rfl
theorem exec_vfmsF32 (d : BitVec 5) (a : BitVec 5) (b : BitVec 5) (rm : BitVec 3) (s : State) : exec (.vfmsF32 d a b rm) s = execVfmsF32 d a b rm s := rfl
theorem exec_vfnmaF32 (d : BitVec 5) (a : BitVec 5) (b : BitVec 5) (rm : BitVec 3) (s : State) : exec (.vfnmaF32 d a b rm) s = execVfnmaF32 d a b rm s := rfl
theorem exec_vminF32 (d : BitVec 5) (a : BitVec 5) (b : BitVec 5) (s : State) : exec (.vminF32 d a b) s = execVminF32 d a b s := rfl
theorem exec_vmaxF32 (d : BitVec 5) (a : BitVec 5) (b : BitVec 5) (s : State) : exec (.vmaxF32 d a b) s = execVmaxF32 d a b s := rfl
theorem exec_vabsF32 (d : BitVec 5) (a : BitVec 5) (s : State) : exec (.vabsF32 d a) s = execVabsF32 d a s := rfl
theorem exec_vnegF32 (d : BitVec 5) (a : BitVec 5) (s : State) : exec (.vnegF32 d a) s = execVnegF32 d a s := rfl
theorem exec_vexp2 (d : BitVec 5) (a : BitVec 5) (rm : Bool) (s : State) : exec (.vexp2 d a rm) s = execVexp2 d a rm s := rfl
theorem exec_vrcp (d : BitVec 5) (a : BitVec 5) (rm : Bool) (s : State) : exec (.vrcp d a rm) s = execVrcp d a rm s := rfl
theorem exec_vrsq (d : BitVec 5) (a : BitVec 5) (rm : Bool) (s : State) : exec (.vrsq d a rm) s = execVrsq d a rm s := rfl
theorem exec_vlog2 (d : BitVec 5) (a : BitVec 5) (rm : Bool) (s : State) : exec (.vlog2 d a rm) s = execVlog2 d a rm s := rfl
theorem exec_vaddBf16 (d : BitVec 5) (a : BitVec 5) (b : BitVec 5) (rm : BitVec 3) (s : State) : exec (.vaddBf16 d a b rm) s = execVaddBf16 d a b rm s := rfl
theorem exec_vsubBf16 (d : BitVec 5) (a : BitVec 5) (b : BitVec 5) (rm : BitVec 3) (s : State) : exec (.vsubBf16 d a b rm) s = execVsubBf16 d a b rm s := rfl
theorem exec_vmulBf16 (d : BitVec 5) (a : BitVec 5) (b : BitVec 5) (rm : BitVec 3) (s : State) : exec (.vmulBf16 d a b rm) s = execVmulBf16 d a b rm s := rfl
theorem exec_vfmaBf16 (d : BitVec 5) (a : BitVec 5) (b : BitVec 5) (rm : BitVec 3) (s : State) : exec (.vfmaBf16 d a b rm) s = execVfmaBf16 d a b rm s := rfl
theorem exec_vfmsBf16 (d : BitVec 5) (a : BitVec 5) (b : BitVec 5) (rm : BitVec 3) (s : State) : exec (.vfmsBf16 d a b rm) s = execVfmsBf16 d a b rm s := rfl
theorem exec_vfnmaBf16 (d : BitVec 5) (a : BitVec 5) (b : BitVec 5) (rm : BitVec 3) (s : State) : exec (.vfnmaBf16 d a b rm) s = execVfnmaBf16 d a b rm s := rfl
theorem exec_vminBf16 (d : BitVec 5) (a : BitVec 5) (b : BitVec 5) (s : State) : exec (.vminBf16 d a b) s = execVminBf16 d a b s := rfl
theorem exec_vmaxBf16 (d : BitVec 5) (a : BitVec 5) (b : BitVec 5) (s : State) : exec (.vmaxBf16 d a b) s = execVmaxBf16 d a b s := rfl
theorem exec_vabsBf16 (d : BitVec 5) (a : BitVec 5) (s : State) : exec (.vabsBf16 d a) s = execVabsBf16 d a s := rfl
theorem exec_vnegBf16 (d : BitVec 5) (a : BitVec 5) (s : State) : exec (.vnegBf16 d a) s = execVnegBf16 d a s := rfl
theorem exec_vaddI32 (d : BitVec 5) (a : BitVec 5) (b : BitVec 5) (s : State) : exec (.vaddI32 d a b) s = execVaddI32 d a b s := rfl
theorem exec_vsubI32 (d : BitVec 5) (a : BitVec 5) (b : BitVec 5) (s : State) : exec (.vsubI32 d a b) s = execVsubI32 d a b s := rfl
theorem exec_vmulI32 (d : BitVec 5) (a : BitVec 5) (b : BitVec 5) (s : State) : exec (.vmulI32 d a b) s = execVmulI32 d a b s := rfl
theorem exec_vmulhI32 (d : BitVec 5) (a : BitVec 5) (b : BitVec 5) (s : State) : exec (.vmulhI32 d a b) s = execVmulhI32 d a b s := rfl
theorem exec_vmulhZ32 (d : BitVec 5) (a : BitVec 5) (b : BitVec 5) (s : State) : exec (.vmulhZ32 d a b) s = execVmulhZ32 d a b s := rfl
theorem exec_vaddsI32 (d : BitVec 5) (a : BitVec 5) (b : BitVec 5) (s : State) : exec (.vaddsI32 d a b) s = execVaddsI32 d a b s := rfl
theorem exec_vsubsI32 (d : BitVec 5) (a : BitVec 5) (b : BitVec 5) (s : State) : exec (.vsubsI32 d a b) s = execVsubsI32 d a b s := rfl
theorem exec_vaddsZ32 (d : BitVec 5) (a : BitVec 5) (b : BitVec 5) (s : State) : exec (.vaddsZ32 d a b) s = execVaddsZ32 d a b s := rfl
theorem exec_vsubsZ32 (d : BitVec 5) (a : BitVec 5) (b : BitVec 5) (s : State) : exec (.vsubsZ32 d a b) s = execVsubsZ32 d a b s := rfl
theorem exec_vminI32 (d : BitVec 5) (a : BitVec 5) (b : BitVec 5) (s : State) : exec (.vminI32 d a b) s = execVminI32 d a b s := rfl
theorem exec_vmaxI32 (d : BitVec 5) (a : BitVec 5) (b : BitVec 5) (s : State) : exec (.vmaxI32 d a b) s = execVmaxI32 d a b s := rfl
theorem exec_vminZ32 (d : BitVec 5) (a : BitVec 5) (b : BitVec 5) (s : State) : exec (.vminZ32 d a b) s = execVminZ32 d a b s := rfl
theorem exec_vmaxZ32 (d : BitVec 5) (a : BitVec 5) (b : BitVec 5) (s : State) : exec (.vmaxZ32 d a b) s = execVmaxZ32 d a b s := rfl
theorem exec_vand (d : BitVec 5) (a : BitVec 5) (b : BitVec 5) (s : State) : exec (.vand d a b) s = execVand d a b s := rfl
theorem exec_vor (d : BitVec 5) (a : BitVec 5) (b : BitVec 5) (s : State) : exec (.vor d a b) s = execVor d a b s := rfl
theorem exec_vxor (d : BitVec 5) (a : BitVec 5) (b : BitVec 5) (s : State) : exec (.vxor d a b) s = execVxor d a b s := rfl
theorem exec_vandn (d : BitVec 5) (a : BitVec 5) (b : BitVec 5) (s : State) : exec (.vandn d a b) s = execVandn d a b s := rfl
theorem exec_vsll (d : BitVec 5) (a : BitVec 5) (b : BitVec 5) (s : State) : exec (.vsll d a b) s = execVsll d a b s := rfl
theorem exec_vsrl (d : BitVec 5) (a : BitVec 5) (b : BitVec 5) (s : State) : exec (.vsrl d a b) s = execVsrl d a b s := rfl
theorem exec_vsra (d : BitVec 5) (a : BitVec 5) (b : BitVec 5) (s : State) : exec (.vsra d a b) s = execVsra d a b s := rfl
theorem exec_vslli (d : BitVec 5) (a : BitVec 5) (n : BitVec 5) (s : State) : exec (.vslli d a n) s = execVslli d a n s := rfl
theorem exec_vsrli (d : BitVec 5) (a : BitVec 5) (n : BitVec 5) (s : State) : exec (.vsrli d a n) s = execVsrli d a n s := rfl
theorem exec_vsrai (d : BitVec 5) (a : BitVec 5) (n : BitVec 5) (s : State) : exec (.vsrai d a n) s = execVsrai d a n s := rfl
theorem exec_vcmpF32 (q : BitVec 3) (a : BitVec 5) (b : BitVec 5) (cond : BitVec 3) (s : State) : exec (.vcmpF32 q a b cond) s = execVcmpF32 q a b cond s := rfl
theorem exec_vcmpI32 (q : BitVec 3) (a : BitVec 5) (b : BitVec 5) (cond : BitVec 3) (s : State) : exec (.vcmpI32 q a b cond) s = execVcmpI32 q a b cond s := rfl
theorem exec_vcmpZ32 (q : BitVec 3) (a : BitVec 5) (b : BitVec 5) (cond : BitVec 3) (s : State) : exec (.vcmpZ32 q a b cond) s = execVcmpZ32 q a b cond s := rfl
theorem exec_qand (d : BitVec 3) (a : BitVec 3) (b : BitVec 3) (s : State) : exec (.qand d a b) s = execQand d a b s := rfl
theorem exec_qor (d : BitVec 3) (a : BitVec 3) (b : BitVec 3) (s : State) : exec (.qor d a b) s = execQor d a b s := rfl
theorem exec_qxor (d : BitVec 3) (a : BitVec 3) (b : BitVec 3) (s : State) : exec (.qxor d a b) s = execQxor d a b s := rfl
theorem exec_qandn (d : BitVec 3) (a : BitVec 3) (b : BitVec 3) (s : State) : exec (.qandn d a b) s = execQandn d a b s := rfl
theorem exec_qnot (d : BitVec 3) (a : BitVec 3) (s : State) : exec (.qnot d a) s = execQnot d a s := rfl
theorem exec_qtop (d : BitVec 3) (s : State) : exec (.qtop d) s = execQtop d s := rfl
theorem exec_vcvtBf16F32 (d : BitVec 5) (a : BitVec 5) (b : BitVec 5) (rm : BitVec 3) (sat : Bool) (s : State) : exec (.vcvtBf16F32 d a b rm sat) s = execVcvtBf16F32 d a b rm sat s := rfl
theorem exec_vcvtF16F32 (d : BitVec 5) (a : BitVec 5) (b : BitVec 5) (rm : BitVec 3) (sat : Bool) (s : State) : exec (.vcvtF16F32 d a b rm sat) s = execVcvtF16F32 d a b rm sat s := rfl
theorem exec_vcvtF32Bf16Lo (d : BitVec 5) (a : BitVec 5) (s : State) : exec (.vcvtF32Bf16Lo d a) s = execVcvtF32Bf16Lo d a s := rfl
theorem exec_vcvtF32Bf16Hi (d : BitVec 5) (a : BitVec 5) (s : State) : exec (.vcvtF32Bf16Hi d a) s = execVcvtF32Bf16Hi d a s := rfl
theorem exec_vcvtF32F16Lo (d : BitVec 5) (a : BitVec 5) (s : State) : exec (.vcvtF32F16Lo d a) s = execVcvtF32F16Lo d a s := rfl
theorem exec_vcvtF32F16Hi (d : BitVec 5) (a : BitVec 5) (s : State) : exec (.vcvtF32F16Hi d a) s = execVcvtF32F16Hi d a s := rfl
theorem exec_vcvtE4m3F32 (d : BitVec 5) (a : BitVec 5) (j : BitVec 2) (rm : BitVec 3) (sat : Bool) (rd : BitVec 2) (s : State) : exec (.vcvtE4m3F32 d a j rm sat rd) s = execVcvtE4m3F32 d a j rm sat rd s := rfl
theorem exec_vcvtE5m2F32 (d : BitVec 5) (a : BitVec 5) (j : BitVec 2) (rm : BitVec 3) (sat : Bool) (rd : BitVec 2) (s : State) : exec (.vcvtE5m2F32 d a j rm sat rd) s = execVcvtE5m2F32 d a j rm sat rd s := rfl
theorem exec_vcvtF32E4m3 (d : BitVec 5) (a : BitVec 5) (j : BitVec 2) (rd : BitVec 2) (s : State) : exec (.vcvtF32E4m3 d a j rd) s = execVcvtF32E4m3 d a j rd s := rfl
theorem exec_vcvtF32E5m2 (d : BitVec 5) (a : BitVec 5) (j : BitVec 2) (rd : BitVec 2) (s : State) : exec (.vcvtF32E5m2 d a j rd) s = execVcvtF32E5m2 d a j rd s := rfl
theorem exec_vcvtE2m1F32 (d : BitVec 5) (a : BitVec 5) (n : BitVec 3) (rm : BitVec 3) (sat : Bool) (rd : BitVec 2) (s : State) : exec (.vcvtE2m1F32 d a n rm sat rd) s = execVcvtE2m1F32 d a n rm sat rd s := rfl
theorem exec_vcvtF32E2m1 (d : BitVec 5) (a : BitVec 5) (n : BitVec 3) (rd : BitVec 2) (s : State) : exec (.vcvtF32E2m1 d a n rd) s = execVcvtF32E2m1 d a n rd s := rfl
theorem exec_vcvtI32F32 (d : BitVec 5) (a : BitVec 5) (rm : BitVec 3) (s : State) : exec (.vcvtI32F32 d a rm) s = execVcvtI32F32 d a rm s := rfl
theorem exec_vcvtZ32F32 (d : BitVec 5) (a : BitVec 5) (rm : BitVec 3) (s : State) : exec (.vcvtZ32F32 d a rm) s = execVcvtZ32F32 d a rm s := rfl
theorem exec_vcvtF32I32 (d : BitVec 5) (a : BitVec 5) (rm : BitVec 3) (s : State) : exec (.vcvtF32I32 d a rm) s = execVcvtF32I32 d a rm s := rfl
theorem exec_vcvtF32Z32 (d : BitVec 5) (a : BitVec 5) (rm : BitVec 3) (s : State) : exec (.vcvtF32Z32 d a rm) s = execVcvtF32Z32 d a rm s := rfl
theorem exec_vbscale (d : BitVec 5) (a : BitVec 5) (b : BitVec 5) (fmt : BitVec 2) (rd : BitVec 2) (s : State) : exec (.vbscale d a b fmt rd) s = execVbscale d a b fmt rd s := rfl
theorem exec_vbamax (d : BitVec 5) (a : BitVec 5) (b : BitVec 5) (s : State) : exec (.vbamax d a b) s = execVbamax d a b s := rfl
theorem exec_vbpack (d : BitVec 5) (a : BitVec 5) (b : BitVec 5) (rm : BitVec 3) (pHi : Bool) (fmt : BitVec 2) (rd : BitVec 2) (pLo : Bool) (s : State) : exec (.vbpack d a b rm pHi fmt rd pLo) s = execVbpack d a b rm pHi fmt rd pLo s := rfl
theorem exec_vbunpk (d : BitVec 5) (a : BitVec 5) (b : BitVec 5) (rm : BitVec 3) (fmt : BitVec 2) (rd : BitVec 2) (p : BitVec 2) (h : Bool) (s : State) : exec (.vbunpk d a b rm fmt rd p h) s = execVbunpk d a b rm fmt rd p h s := rfl
theorem exec_vraddF32 (d : BitVec 5) (a : BitVec 5) (rm : BitVec 3) (s : State) : exec (.vraddF32 d a rm) s = execVraddF32 d a rm s := rfl
theorem exec_vrmaxF32 (d : BitVec 5) (a : BitVec 5) (s : State) : exec (.vrmaxF32 d a) s = execVrmaxF32 d a s := rfl
theorem exec_vrminF32 (d : BitVec 5) (a : BitVec 5) (s : State) : exec (.vrminF32 d a) s = execVrminF32 d a s := rfl
theorem exec_vramaxF32 (d : BitVec 5) (a : BitVec 5) (s : State) : exec (.vramaxF32 d a) s = execVramaxF32 d a s := rfl
theorem exec_vraddI32 (d : BitVec 5) (a : BitVec 5) (s : State) : exec (.vraddI32 d a) s = execVraddI32 d a s := rfl
theorem exec_vrmaxI32 (d : BitVec 5) (a : BitVec 5) (s : State) : exec (.vrmaxI32 d a) s = execVrmaxI32 d a s := rfl
theorem exec_vrminI32 (d : BitVec 5) (a : BitVec 5) (s : State) : exec (.vrminI32 d a) s = execVrminI32 d a s := rfl
theorem exec_vperm (d : BitVec 5) (a : BitVec 5) (b : BitVec 5) (s : State) : exec (.vperm d a b) s = execVperm d a b s := rfl
theorem exec_vrot (d : BitVec 5) (a : BitVec 5) (n : BitVec 5) (s : State) : exec (.vrot d a n) s = execVrot d a n s := rfl
theorem exec_vzipl (d : BitVec 5) (a : BitVec 5) (b : BitVec 5) (s : State) : exec (.vzipl d a b) s = execVzipl d a b s := rfl
theorem exec_vziph (d : BitVec 5) (a : BitVec 5) (b : BitVec 5) (s : State) : exec (.vziph d a b) s = execVziph d a b s := rfl
theorem exec_vmov (d : BitVec 5) (a : BitVec 5) (s : State) : exec (.vmov d a) s = execVmov d a s := rfl
theorem exec_vbcast (d : BitVec 5) (a : BitVec 5) (s : State) : exec (.vbcast d a) s = execVbcast d a s := rfl
theorem exec_vins (d : BitVec 5) (a : BitVec 5) (n : BitVec 5) (s : State) : exec (.vins d a n) s = execVins d a n s := rfl
theorem exec_vext (d : BitVec 5) (a : BitVec 5) (n : BitVec 5) (s : State) : exec (.vext d a n) s = execVext d a n s := rfl
theorem exec_vextz (d : BitVec 5) (a : BitVec 5) (n : BitVec 5) (s : State) : exec (.vextz d a n) s = execVextz d a n s := rfl
theorem exec_s2q (d : BitVec 3) (a : BitVec 5) (s : State) : exec (.s2q d a) s = execS2q d a s := rfl
theorem exec_q2s (d : BitVec 5) (a : BitVec 3) (s : State) : exec (.q2s d a) s = execQ2s d a s := rfl
theorem exec_mpush (a : BitVec 3) (s : State) : exec (.mpush a) s = execMpush a s := rfl
theorem exec_minv (s : State) : exec (.minv) s = execMinv s := rfl
theorem exec_mpop (s : State) : exec (.mpop) s = execMpop s := rfl
theorem exec_brmz (len : BitVec 12) (s : State) : exec (.brmz len) s = execBrmz len s := rfl
theorem exec_vpld (d : BitVec 5) (a : BitVec 5) (off : BitVec 12) (s : State) : exec (.vpld d a off) s = execVpld d a off s := rfl
theorem exec_vpldIndexed (d : BitVec 5) (a : BitVec 5) (idx : BitVec 5) (s : State) : exec (.vpldIndexed d a idx) s = execVpldIndexed d a idx s := rfl
theorem exec_vpst (d : BitVec 5) (a : BitVec 5) (off : BitVec 12) (s : State) : exec (.vpst d a off) s = execVpst d a off s := rfl
theorem exec_vpstIndexed (d : BitVec 5) (a : BitVec 5) (idx : BitVec 5) (s : State) : exec (.vpstIndexed d a idx) s = execVpstIndexed d a idx s := rfl
theorem exec_vlda (d : BitVec 5) (a : BitVec 5) (off : BitVec 12) (s : State) : exec (.vlda d a off) s = execVlda d a off s := rfl
theorem exec_vldaIndexed (d : BitVec 5) (a : BitVec 5) (idx : BitVec 5) (s : State) : exec (.vldaIndexed d a idx) s = execVldaIndexed d a idx s := rfl
theorem exec_vsta (d : BitVec 5) (a : BitVec 5) (off : BitVec 12) (s : State) : exec (.vsta d a off) s = execVsta d a off s := rfl
theorem exec_vstaIndexed (d : BitVec 5) (a : BitVec 5) (idx : BitVec 5) (s : State) : exec (.vstaIndexed d a idx) s = execVstaIndexed d a idx s := rfl
theorem exec_vgld (d : BitVec 5) (a : BitVec 5) (off : BitVec 10) (s : State) : exec (.vgld d a off) s = execVgld d a off s := rfl
theorem exec_vgldIndexed (d : BitVec 5) (a : BitVec 5) (idx : BitVec 5) (s : State) : exec (.vgldIndexed d a idx) s = execVgldIndexed d a idx s := rfl
theorem exec_vgst (d : BitVec 5) (a : BitVec 5) (sc : BitVec 3) (off : BitVec 10) (s : State) : exec (.vgst d a sc off) s = execVgst d a sc off s := rfl
theorem exec_vgstIndexed (d : BitVec 5) (a : BitVec 5) (sc : BitVec 3) (idx : BitVec 5) (s : State) : exec (.vgstIndexed d a sc idx) s = execVgstIndexed d a sc idx s := rfl
theorem exec_srun (sig : BitVec 5) (wa : BitVec 5) (wb : BitVec 5) (wc : BitVec 5) (sp : BitVec 5) (s : State) : exec (.srun sig wa wb wc sp) s = execSrun sig wa wb wc sp s := rfl
theorem exec_gldc (sig : BitVec 5) (wa : BitVec 5) (wb : BitVec 5) (wc : BitVec 5) (sp : BitVec 5) (s : State) : exec (.gldc sig wa wb wc sp) s = execGldc sig wa wb wc sp s := rfl
theorem exec_ggo (sig : BitVec 5) (wa : BitVec 5) (wb : BitVec 5) (wc : BitVec 5) (sp : BitVec 5) (s : State) : exec (.ggo sig wa wb wc sp) s = execGgo sig wa wb wc sp s := rfl
theorem exec_gmma (sig : BitVec 5) (wa : BitVec 5) (wb : BitVec 5) (wc : BitVec 5) (sp : BitVec 5) (s : State) : exec (.gmma sig wa wb wc sp) s = execGmma sig wa wb wc sp s := rfl
theorem exec_copy (sig : BitVec 5) (wa : BitVec 5) (wb : BitVec 5) (wc : BitVec 5) (sp : BitVec 5) (s : State) : exec (.copy sig wa wb wc sp) s = execCopy sig wa wb wc sp s := rfl
theorem exec_copy2d (sig : BitVec 5) (wa : BitVec 5) (wb : BitVec 5) (wc : BitVec 5) (sp : BitVec 5) (s : State) : exec (.copy2d sig wa wb wc sp) s = execCopy2d sig wa wb wc sp s := rfl
theorem exec_send (sig : BitVec 5) (wa : BitVec 5) (wb : BitVec 5) (wc : BitVec 5) (sp : BitVec 5) (s : State) : exec (.send sig wa wb wc sp) s = execSend sig wa wb wc sp s := rfl
theorem exec_lbind (sig : BitVec 5) (wa : BitVec 5) (wb : BitVec 5) (wc : BitVec 5) (sp : BitVec 5) (s : State) : exec (.lbind sig wa wb wc sp) s = execLbind sig wa wb wc sp s := rfl
theorem exec_lunbind (sig : BitVec 5) (wa : BitVec 5) (wb : BitVec 5) (wc : BitVec 5) (sp : BitVec 5) (s : State) : exec (.lunbind sig wa wb wc sp) s = execLunbind sig wa wb wc sp s := rfl
theorem exec_copen (sig : BitVec 5) (wa : BitVec 5) (wb : BitVec 5) (wc : BitVec 5) (sp : BitVec 5) (s : State) : exec (.copen sig wa wb wc sp) s = execCopen sig wa wb wc sp s := rfl
theorem exec_cstream (sig : BitVec 5) (wa : BitVec 5) (wb : BitVec 5) (wc : BitVec 5) (sp : BitVec 5) (s : State) : exec (.cstream sig wa wb wc sp) s = execCstream sig wa wb wc sp s := rfl
theorem exec_gsel (n : BitVec 2) (s : State) : exec (.gsel n) s = execGsel n s := rfl
theorem exec_snest (n : BitVec 2) (a : BitVec 5) (lvl : BitVec 3) (fa : Bool) (s : State) : exec (.snest n a lvl fa) s = execSnest n a lvl fa s := rfl
theorem exec_gstop (s : State) : exec (.gstop) s = execGstop s := rfl
theorem exec_gfeed (a : BitVec 5) (fa : Bool) (s : State) : exec (.gfeed a fa) s = execGfeed a fa s := rfl
theorem exec_gpop (d : BitVec 5) (s : State) : exec (.gpop d) s = execGpop d s := rfl
theorem exec_pqpop (d : BitVec 3) (s : State) : exec (.pqpop d) s = execPqpop d s := rfl
theorem exec_gbank (d : BitVec 5) (s : State) : exec (.gbank d) s = execGbank d s := rfl
theorem exec_kwait (a : BitVec 5) (s : State) : exec (.kwait a) s = execKwait a s := rfl
theorem exec_kstat (d : BitVec 5) (a : BitVec 5) (s : State) : exec (.kstat d a) s = execKstat d a s := rfl
theorem exec_bufdef (n : BitVec 5) (a : BitVec 5) (b : BitVec 5) (fa : Bool) (fb : Bool) (s : State) : exec (.bufdef n a b fa fb) s = execBufdef n a b fa fb s := rfl
theorem exec_bufrel (n : BitVec 5) (s : State) : exec (.bufrel n) s = execBufrel n s := rfl
theorem exec_bufrelFree (n : BitVec 5) (s : State) : exec (.bufrelFree n) s = execBufrelFree n s := rfl
theorem exec_bufstat (d : BitVec 5) (a : BitVec 5) (s : State) : exec (.bufstat d a) s = execBufstat d a s := rfl
theorem exec_bufwait (n : BitVec 5) (st : BitVec 2) (s : State) : exec (.bufwait n st) s = execBufwait n st s := rfl
theorem exec_mark (s_ : BitVec 3) (s : State) : exec (.mark s_) s = execMark s_ s := rfl
theorem exec_fenceRel (s_ : BitVec 3) (s : State) : exec (.fenceRel s_) s = execFenceRel s_ s := rfl
theorem exec_fenceAcq (s_ : BitVec 3) (s : State) : exec (.fenceAcq s_) s = execFenceAcq s_ s := rfl
theorem exec_fenceFull (s_ : BitVec 3) (s : State) : exec (.fenceFull s_) s = execFenceFull s_ s := rfl
theorem exec_amoadd (d : BitVec 5) (a : BitVec 5) (b : BitVec 5) (fa : Bool) (fb : Bool) (esc : Bool) (dbl : Bool) (s : State) : exec (.amoadd d a b fa fb esc dbl) s = execAmoadd d a b fa fb esc dbl s := rfl
theorem exec_amoand (d : BitVec 5) (a : BitVec 5) (b : BitVec 5) (fa : Bool) (fb : Bool) (esc : Bool) (dbl : Bool) (s : State) : exec (.amoand d a b fa fb esc dbl) s = execAmoand d a b fa fb esc dbl s := rfl
theorem exec_amoor (d : BitVec 5) (a : BitVec 5) (b : BitVec 5) (fa : Bool) (fb : Bool) (esc : Bool) (dbl : Bool) (s : State) : exec (.amoor d a b fa fb esc dbl) s = execAmoor d a b fa fb esc dbl s := rfl
theorem exec_amoxor (d : BitVec 5) (a : BitVec 5) (b : BitVec 5) (fa : Bool) (fb : Bool) (esc : Bool) (dbl : Bool) (s : State) : exec (.amoxor d a b fa fb esc dbl) s = execAmoxor d a b fa fb esc dbl s := rfl
theorem exec_amomin (d : BitVec 5) (a : BitVec 5) (b : BitVec 5) (fa : Bool) (fb : Bool) (esc : Bool) (dbl : Bool) (s : State) : exec (.amomin d a b fa fb esc dbl) s = execAmomin d a b fa fb esc dbl s := rfl
theorem exec_amomax (d : BitVec 5) (a : BitVec 5) (b : BitVec 5) (fa : Bool) (fb : Bool) (esc : Bool) (dbl : Bool) (s : State) : exec (.amomax d a b fa fb esc dbl) s = execAmomax d a b fa fb esc dbl s := rfl
theorem exec_amominz (d : BitVec 5) (a : BitVec 5) (b : BitVec 5) (fa : Bool) (fb : Bool) (esc : Bool) (dbl : Bool) (s : State) : exec (.amominz d a b fa fb esc dbl) s = execAmominz d a b fa fb esc dbl s := rfl
theorem exec_amomaxz (d : BitVec 5) (a : BitVec 5) (b : BitVec 5) (fa : Bool) (fb : Bool) (esc : Bool) (dbl : Bool) (s : State) : exec (.amomaxz d a b fa fb esc dbl) s = execAmomaxz d a b fa fb esc dbl s := rfl
theorem exec_amoswap (d : BitVec 5) (a : BitVec 5) (b : BitVec 5) (fa : Bool) (fb : Bool) (esc : Bool) (dbl : Bool) (s : State) : exec (.amoswap d a b fa fb esc dbl) s = execAmoswap d a b fa fb esc dbl s := rfl
theorem exec_amocas (d : BitVec 5) (a : BitVec 5) (b : BitVec 5) (fa : Bool) (fb : Bool) (esc : Bool) (dbl : Bool) (s : State) : exec (.amocas d a b fa fb esc dbl) s = execAmocas d a b fa fb esc dbl s := rfl
theorem exec_redF32 (a : BitVec 5) (b : BitVec 5) (fa : Bool) (s_ : BitVec 3) (s : State) : exec (.redF32 a b fa s_) s = execRedF32 a b fa s_ s := rfl
theorem exec_redBf16 (a : BitVec 5) (b : BitVec 5) (fa : Bool) (s_ : BitVec 3) (s : State) : exec (.redBf16 a b fa s_) s = execRedBf16 a b fa s_ s := rfl
theorem exec_redI32 (a : BitVec 5) (b : BitVec 5) (fa : Bool) (s_ : BitVec 3) (s : State) : exec (.redI32 a b fa s_) s = execRedI32 a b fa s_ s := rfl
theorem exec_redF32max (a : BitVec 5) (b : BitVec 5) (fa : Bool) (s_ : BitVec 3) (s : State) : exec (.redF32max a b fa s_) s = execRedF32max a b fa s_ s := rfl
theorem exec_redoF32 (a : BitVec 5) (b : BitVec 5) (fa : Bool) (grp : BitVec 8) (s : State) : exec (.redoF32 a b fa grp) s = execRedoF32 a b fa grp s := rfl
theorem exec_redoBf16 (a : BitVec 5) (b : BitVec 5) (fa : Bool) (grp : BitVec 8) (s : State) : exec (.redoBf16 a b fa grp) s = execRedoBf16 a b fa grp s := rfl
theorem exec_redoI32 (a : BitVec 5) (b : BitVec 5) (fa : Bool) (grp : BitVec 8) (s : State) : exec (.redoI32 a b fa grp) s = execRedoI32 a b fa grp s := rfl
theorem exec_redoF32max (a : BitVec 5) (b : BitVec 5) (fa : Bool) (grp : BitVec 8) (s : State) : exec (.redoF32max a b fa grp) s = execRedoF32max a b fa grp s := rfl
theorem exec_alr (a : BitVec 5) (fa : Bool) (s : State) : exec (.alr a fa) s = execAlr a fa s := rfl
theorem exec_alre (s : State) : exec (.alre) s = execAlre s := rfl
theorem exec_sembind (slot : BitVec 5) (a : BitVec 5) (fa : Bool) (s : State) : exec (.sembind slot a fa) s = execSembind slot a fa s := rfl
theorem exec_sembindOff (slot : BitVec 5) (s : State) : exec (.sembindOff slot) s = execSembindOff slot s := rfl
theorem exec_semadd (d : BitVec 5) (a : BitVec 5) (b : BitVec 5) (fa : Bool) (fb : Bool) (s_ : BitVec 3) (s : State) : exec (.semadd d a b fa fb s_) s = execSemadd d a b fa fb s_ s := rfl
theorem exec_semwait (a : BitVec 5) (b : BitVec 5) (fa : Bool) (fb : Bool) (s_ : BitVec 3) (s : State) : exec (.semwait a b fa fb s_) s = execSemwait a b fa fb s_ s := rfl
theorem exec_pamoadd (d : BitVec 5) (a : BitVec 5) (b : BitVec 5) (fa : Bool) (fb : Bool) (dbl : Bool) (s : State) : exec (.pamoadd d a b fa fb dbl) s = execPamoadd d a b fa fb dbl s := rfl
theorem exec_pamoand (d : BitVec 5) (a : BitVec 5) (b : BitVec 5) (fa : Bool) (fb : Bool) (dbl : Bool) (s : State) : exec (.pamoand d a b fa fb dbl) s = execPamoand d a b fa fb dbl s := rfl
theorem exec_pamoor (d : BitVec 5) (a : BitVec 5) (b : BitVec 5) (fa : Bool) (fb : Bool) (dbl : Bool) (s : State) : exec (.pamoor d a b fa fb dbl) s = execPamoor d a b fa fb dbl s := rfl
theorem exec_pamoxor (d : BitVec 5) (a : BitVec 5) (b : BitVec 5) (fa : Bool) (fb : Bool) (dbl : Bool) (s : State) : exec (.pamoxor d a b fa fb dbl) s = execPamoxor d a b fa fb dbl s := rfl
theorem exec_pamomin (d : BitVec 5) (a : BitVec 5) (b : BitVec 5) (fa : Bool) (fb : Bool) (dbl : Bool) (s : State) : exec (.pamomin d a b fa fb dbl) s = execPamomin d a b fa fb dbl s := rfl
theorem exec_pamomax (d : BitVec 5) (a : BitVec 5) (b : BitVec 5) (fa : Bool) (fb : Bool) (dbl : Bool) (s : State) : exec (.pamomax d a b fa fb dbl) s = execPamomax d a b fa fb dbl s := rfl
theorem exec_pamominz (d : BitVec 5) (a : BitVec 5) (b : BitVec 5) (fa : Bool) (fb : Bool) (dbl : Bool) (s : State) : exec (.pamominz d a b fa fb dbl) s = execPamominz d a b fa fb dbl s := rfl
theorem exec_pamomaxz (d : BitVec 5) (a : BitVec 5) (b : BitVec 5) (fa : Bool) (fb : Bool) (dbl : Bool) (s : State) : exec (.pamomaxz d a b fa fb dbl) s = execPamomaxz d a b fa fb dbl s := rfl
theorem exec_pamoswap (d : BitVec 5) (a : BitVec 5) (b : BitVec 5) (fa : Bool) (fb : Bool) (dbl : Bool) (s : State) : exec (.pamoswap d a b fa fb dbl) s = execPamoswap d a b fa fb dbl s := rfl
theorem exec_pamocas (d : BitVec 5) (a : BitVec 5) (b : BitVec 5) (fa : Bool) (fb : Bool) (dbl : Bool) (s : State) : exec (.pamocas d a b fa fb dbl) s = execPamocas d a b fa fb dbl s := rfl
theorem exec_bar (s_ : BitVec 3) (grp : BitVec 8) (s : State) : exec (.bar s_ grp) s = execBar s_ grp s := rfl
theorem exec_grpinfo (d : BitVec 5) (grp : BitVec 8) (s : State) : exec (.grpinfo d grp) s = execGrpinfo d grp s := rfl
theorem exec_trap (n : BitVec 10) (s : State) : exec (.trap n) s = execTrap n s := rfl
theorem exec_tfence (s : State) : exec (.tfence) s = execTfence s := rfl
theorem exec_tret (s : State) : exec (.tret) s = execTret s := rfl
theorem exec_tretSkip (s : State) : exec (.tretSkip) s = execTretSkip s := rfl
theorem exec_bkpt (n : BitVec 10) (s : State) : exec (.bkpt n) s = execBkpt n s := rfl
theorem exec_dstep (m : BitVec 2) (s : State) : exec (.dstep m) s = execDstep m s := rfl
theorem exec_txstat (d : BitVec 5) (s : State) : exec (.txstat d) s = execTxstat d s := rfl
theorem exec_txabort (a : BitVec 5) (fa : Bool) (s : State) : exec (.txabort a fa) s = execTxabort a fa s := rfl
theorem exec_yield (d : BitVec 5) (s : State) : exec (.yield d) s = execYield d s := rfl
theorem exec_sleep (d : BitVec 5) (a : BitVec 5) (fa : Bool) (s : State) : exec (.sleep d a fa) s = execSleep d a fa s := rfl
theorem exec_sleept (a : BitVec 5) (fa : Bool) (s : State) : exec (.sleept a fa) s = execSleept a fa s := rfl
theorem exec_dstat (d : BitVec 5) (s : State) : exec (.dstat d) s = execDstat d s := rfl
theorem exec_disc (d : BitVec 5) (a : BitVec 5) (fa : Bool) (s : State) : exec (.disc d a fa) s = execDisc d a fa s := rfl
theorem exec_prd (d : BitVec 5) (a : BitVec 5) (fa : Bool) (s : State) : exec (.prd d a fa) s = execPrd d a fa s := rfl
theorem exec_lwake (a : BitVec 5) (fa : Bool) (s : State) : exec (.lwake a fa) s = execLwake a fa s := rfl
theorem exec_lwakeWait (a : BitVec 5) (fa : Bool) (s : State) : exec (.lwakeWait a fa) s = execLwakeWait a fa s := rfl
theorem exec_chold (d : BitVec 5) (a : BitVec 5) (h : BitVec 3) (fa : Bool) (s : State) : exec (.chold d a h fa) s = execChold d a h fa s := rfl
theorem exec_cclose (h : BitVec 3) (s : State) : exec (.cclose h) s = execCclose h s := rfl
theorem exec_cstat (d : BitVec 5) (h : BitVec 3) (s : State) : exec (.cstat d h) s = execCstat d h s := rfl
theorem exec_overlayLoadDone (err : Bool) (s : State) : exec (.overlayLoadDone err) s = execOverlayLoadDone err s := rfl
theorem exec_coreDone (launch : Nat) (ord : Nat) (s : State) : exec (.coreDone launch ord) s = execCoreDone launch ord s := rfl
theorem exec_targetFetchReady (b : BitVec 3) (err : Bool) (s : State) : exec (.targetFetchReady b err) s = execTargetFetchReady b err s := rfl
theorem exec_gldDataReturn (idx : Nat) (err : Bool) (s : State) : exec (.gldDataReturn idx err) s = execGldDataReturn idx err s := rfl
theorem exec_engineStatusFill (idx : Nat) (s : State) : exec (.engineStatusFill idx) s = execEngineStatusFill idx s := rfl
theorem exec_engineCommandStart (q : Nat) (s : State) : exec (.engineCommandStart q) s = execEngineCommandStart q s := rfl
theorem exec_engineCommandComplete (q : Nat) (s : State) : exec (.engineCommandComplete q) s = execEngineCommandComplete q s := rfl
theorem exec_engineFault (s : State) : exec (.engineFault) s = execEngineFault s := rfl
theorem exec_lateCopyTrap (s : State) : exec (.lateCopyTrap) s = execLateCopyTrap s := rfl
theorem exec_streamTokenDeliver (se : BitVec 2) (s : State) : exec (.streamTokenDeliver se) s = execStreamTokenDeliver se s := rfl
theorem exec_streamTokenCommit (se : BitVec 2) (s : State) : exec (.streamTokenCommit se) s = execStreamTokenCommit se s := rfl
theorem exec_gridStep (s : State) : exec (.gridStep) s = execGridStep s := rfl
theorem exec_gmmaKblock (s : State) : exec (.gmmaKblock) s = execGmmaKblock s := rfl
theorem exec_gmmaPreemptCut (s : State) : exec (.gmmaPreemptCut) s = execGmmaPreemptCut s := rfl
theorem exec_reliefGrant (s : State) : exec (.reliefGrant) s = execReliefGrant s := rfl
theorem exec_deadlockTrap (s : State) : exec (.deadlockTrap) s = execDeadlockTrap s := rfl
theorem exec_atomicApply (src : ReqSrc) (s : State) : exec (.atomicApply src) s = execAtomicApply src s := rfl
theorem exec_atomicResultReturn (idx : Nat) (s : State) : exec (.atomicResultReturn idx) s = execAtomicResultReturn idx s := rfl
theorem exec_redApply (src : ReqSrc) (s : State) : exec (.redApply src) s = execRedApply src s := rfl
theorem exec_redoArrival (src : ReqSrc) (s : State) : exec (.redoArrival src) s = execRedoArrival src s := rfl
theorem exec_redoResend (idx : Nat) (s : State) : exec (.redoResend idx) s = execRedoResend idx s := rfl
theorem exec_lineRegionApply (src : ReqSrc) (s : State) : exec (.lineRegionApply src) s = execLineRegionApply src s := rfl
theorem exec_semaphoreAdd (idx : Nat) (s : State) : exec (.semaphoreAdd idx) s = execSemaphoreAdd idx s := rfl
theorem exec_stepTrap (grid : Bool) (s : State) : exec (.stepTrap grid) s = execStepTrap grid s := rfl
theorem exec_sleeptWake (s : State) : exec (.sleeptWake) s = execSleeptWake s := rfl
theorem exec_leaseExpiry (h : BitVec 3) (s : State) : exec (.leaseExpiry h) s = execLeaseExpiry h s := rfl
theorem exec_storeApply (src : ReqSrc) (s : State) : exec (.storeApply src) s = execStoreApply src s := rfl
theorem exec_hubLineDrain (hub : Nat) (s : State) : exec (.hubLineDrain hub) s = execHubLineDrain hub s := rfl
theorem exec_homeSweep (line : Nat) (s : State) : exec (.homeSweep line) s = execHomeSweep line s := rfl
theorem exec_pageWalk (va : DWord) (write : Bool) (s : State) : exec (.pageWalk va write) s = execPageWalk va write s := rfl
theorem exec_tlbInvalidate (launch : Nat) (page : Nat) (s : State) : exec (.tlbInvalidate launch page) s = execTlbInvalidate launch page s := rfl
theorem exec_pagerFault (q : Nat) (s : State) : exec (.pagerFault q) s = execPagerFault q s := rfl
theorem exec_lmbox (queue : BitVec 6) (tail : BitVec 16) (s : State) : exec (.lmbox queue tail) s = execLmbox queue tail s := rfl
theorem exec_qcfg (queue : BitVec 6) (value : DWord) (s : State) : exec (.qcfg queue value) s = execQcfg queue value s := rfl
theorem exec_qerr (value : DWord) (s : State) : exec (.qerr value) s = execQerr value s := rfl
theorem exec_evqhead (value : DWord) (s : State) : exec (.evqhead value) s = execEvqhead value s := rfl
theorem exec_pgresp (slot : BitVec 10) (ok : Bool) (s : State) : exec (.pgresp slot ok) s = execPgresp slot ok s := rfl
theorem exec_ikey (write : KeyWrite) (s : State) : exec (.ikey write) s = execIkey write s := rfl
theorem exec_deviceRegisterWrite (offset : BitVec 16) (value : DWord) (s : State) : exec (.deviceRegisterWrite offset value) s = execDeviceRegisterWrite offset value s := rfl
theorem exec_launchSubmit (queue : BitVec 6) (s : State) : exec (.launchSubmit queue) s = execLaunchSubmit queue s := rfl
theorem exec_launchBind (launch : Nat) (place : List CoreId) (s : State) : exec (.launchBind launch place) s = execLaunchBind launch place s := rfl
theorem exec_launchAging (launch : Nat) (s : State) : exec (.launchAging launch) s = execLaunchAging launch s := rfl
theorem exec_bind (slot : CoreId) (s : State) : exec (.bind slot) s = execBind slot s := rfl
theorem exec_resume (slot : CoreId) (s : State) : exec (.resume slot) s = execResume slot s := rfl
theorem exec_save (slot : CoreId) (s : State) : exec (.save slot) s = execSave slot s := rfl
theorem exec_coreSaved (slot : CoreId) (s : State) : exec (.coreSaved slot) s = execCoreSaved slot s := rfl
theorem exec_kill (slot : CoreId) (s : State) : exec (.kill slot) s = execKill slot s := rfl
theorem exec_halt (slot : CoreId) (s : State) : exec (.halt slot) s = execHalt slot s := rfl
theorem exec_releaseHalt (slot : CoreId) (s : State) : exec (.releaseHalt slot) s = execReleaseHalt slot s := rfl
theorem exec_debugHaltRequest (launch : Nat) (s : State) : exec (.debugHaltRequest launch) s = execDebugHaltRequest launch s := rfl
theorem exec_sequencerStart (launch : Nat) (pkg : BitVec 7) (region : BitVec 4) (s : State) : exec (.sequencerStart launch pkg region) s = execSequencerStart launch pkg region s := rfl
theorem exec_gridAdmission (region : BitVec 4) (s : State) : exec (.gridAdmission region) s = execGridAdmission region s := rfl
theorem exec_droopAlarm (region : BitVec 4) (mv : BitVec 16) (s : State) : exec (.droopAlarm region mv) s = execDroopAlarm region mv s := rfl
theorem exec_droopStretchEnd (region : BitVec 4) (s : State) : exec (.droopStretchEnd region) s = execDroopStretchEnd region s := rfl
theorem exec_clockStepHoldEnd (region : BitVec 4) (s : State) : exec (.clockStepHoldEnd region) s = execClockStepHoldEnd region s := rfl
theorem exec_thermalSample (region : BitVec 4) (temps : Vector (BitVec 12) 4) (s : State) : exec (.thermalSample region temps) s = execThermalSample region temps s := rfl
theorem exec_launchReady (launch : Nat) (s : State) : exec (.launchReady launch) s = execLaunchReady launch s := rfl
theorem exec_pairCompare (launch : Nat) (s : State) : exec (.pairCompare launch) s = execPairCompare launch s := rfl
theorem exec_pairWaitExpiry (launch : Nat) (s : State) : exec (.pairWaitExpiry launch) s = execPairWaitExpiry launch s := rfl
theorem exec_commitPrepare (launch : Nat) (s : State) : exec (.commitPrepare launch) s = execCommitPrepare launch s := rfl
theorem exec_commitFlip (launch : Nat) (s : State) : exec (.commitFlip launch) s = execCommitFlip launch s := rfl
theorem exec_witnessQuery (launch : Nat) (s : State) : exec (.witnessQuery launch) s = execWitnessQuery launch s := rfl
theorem exec_abortDecide (launch : Nat) (s : State) : exec (.abortDecide launch) s = execAbortDecide launch s := rfl
theorem exec_launchAborted (launch : Nat) (s : State) : exec (.launchAborted launch) s = execLaunchAborted launch s := rfl
theorem exec_kernelNode (graph : Nat) (node : Nat) (s : State) : exec (.kernelNode graph node) s = execKernelNode graph node s := rfl
theorem exec_conditionNode (graph : Nat) (node : Nat) (s : State) : exec (.conditionNode graph node) s = execConditionNode graph node s := rfl
theorem exec_switchNode (graph : Nat) (node : Nat) (s : State) : exec (.switchNode graph node) s = execSwitchNode graph node s := rfl
theorem exec_loopNode (graph : Nat) (node : Nat) (s : State) : exec (.loopNode graph node) s = execLoopNode graph node s := rfl
theorem exec_joinNode (graph : Nat) (node : Nat) (s : State) : exec (.joinNode graph node) s = execJoinNode graph node s := rfl
theorem exec_dieLoss (pkg : BitVec 7) (die : BitVec 7) (s : State) : exec (.dieLoss pkg die) s = execDieLoss pkg die s := rfl
theorem exec_packageLoss (pkg : BitVec 7) (s : State) : exec (.packageLoss pkg) s = execPackageLoss pkg s := rfl
theorem exec_stationLoss (pkg : BitVec 7) (s : State) : exec (.stationLoss pkg) s = execStationLoss pkg s := rfl
theorem exec_heartbeatMiss (pkg : BitVec 7) (die : BitVec 7) (s : State) : exec (.heartbeatMiss pkg die) s = execHeartbeatMiss pkg die s := rfl
theorem exec_uncorrectableError (place : ErrPlace) (s : State) : exec (.uncorrectableError place) s = execUncorrectableError place s := rfl
theorem exec_hostRead (pa : Nat) (len : Nat) (s : State) : exec (.hostRead pa len) s = execHostRead pa len s := rfl
theorem exec_hostWrite (pa : Nat) (bytes : List Byte) (s : State) : exec (.hostWrite pa bytes) s = execHostWrite pa bytes s := rfl
theorem exec_hostSnoop (line : Nat) (invalidate : Bool) (s : State) : exec (.hostSnoop line invalidate) s = execHostSnoop line invalidate s := rfl
theorem exec_flitForward (router : Nat) (s : State) : exec (.flitForward router) s = execFlitForward router s := rfl
theorem exec_linkReplay (link : Nat) (s : State) : exec (.linkReplay link) s = execLinkReplay link s := rfl
theorem exec_linkRetrain (link : Nat) (lanes : LaneOutcome) (s : State) : exec (.linkRetrain link lanes) s = execLinkRetrain link lanes s := rfl
theorem exec_linkFailure (link : Nat) (s : State) : exec (.linkFailure link) s = execLinkFailure link s := rfl
theorem exec_detourLoad (link : Nat) (s : State) : exec (.detourLoad link) s = execDetourLoad link s := rfl
theorem exec_linkNarrow (link : Nat) (s : State) : exec (.linkNarrow link) s = execLinkNarrow link s := rfl
theorem exec_linkSleep (link : Nat) (s : State) : exec (.linkSleep link) s = execLinkSleep link s := rfl
theorem exec_linkWake (link : Nat) (s : State) : exec (.linkWake link) s = execLinkWake link s := rfl
theorem exec_packetPlacement (idx : Nat) (s : State) : exec (.packetPlacement idx) s = execPacketPlacement idx s := rfl
theorem exec_placementAcknowledgement (idx : Nat) (s : State) : exec (.placementAcknowledgement idx) s = execPlacementAcknowledgement idx s := rfl
theorem exec_reoffer (idx : Nat) (s : State) : exec (.reoffer idx) s = execReoffer idx s := rfl
theorem exec_claspPlacement (idx : Nat) (s : State) : exec (.claspPlacement idx) s = execClaspPlacement idx s := rfl
theorem exec_meterIntervalEnd (entry : Nat) (s : State) : exec (.meterIntervalEnd entry) s = execMeterIntervalEnd entry s := rfl
theorem exec_probeAction (idx : Nat) (s : State) : exec (.probeAction idx) s = execProbeAction idx s := rfl
theorem exec_circuitBeat (idx : Nat) (s : State) : exec (.circuitBeat idx) s = execCircuitBeat idx s := rfl
theorem exec_windowCheck (idx : Nat) (s : State) : exec (.windowCheck idx) s = execWindowCheck idx s := rfl
theorem exec_windowAcknowledgement (idx : Nat) (s : State) : exec (.windowAcknowledgement idx) s = execWindowAcknowledgement idx s := rfl
theorem exec_windowNak (idx : Nat) (s : State) : exec (.windowNak idx) s = execWindowNak idx s := rfl
theorem exec_circuitRelease (idx : Nat) (s : State) : exec (.circuitRelease idx) s = execCircuitRelease idx s := rfl
theorem exec_ringRequest (idx : Nat) (s : State) : exec (.ringRequest idx) s = execRingRequest idx s := rfl
theorem exec_ringResponse (idx : Nat) (s : State) : exec (.ringResponse idx) s = execRingResponse idx s := rfl
theorem exec_ringResend (idx : Nat) (s : State) : exec (.ringResend idx) s = execRingResend idx s := rfl
theorem exec_ringFrame (link : Nat) (verified : Bool) (s : State) : exec (.ringFrame link verified) s = execRingFrame link verified s := rfl
theorem exec_frameClose (link : Nat) (s : State) : exec (.frameClose link) s = execFrameClose link s := rfl
theorem exec_keyUpdate (link : Nat) (s : State) : exec (.keyUpdate link) s = execKeyUpdate link s := rfl
theorem exec_boot (s : State) : exec (.boot) s = execBoot s := rfl
theorem exec_illegalInstruction (w : Word) (s : State) : exec (.illegalInstruction w) s = execIllegalInstruction w s := rfl
theorem exec_remotePoolAccess (idx : Nat) (s : State) : exec (.remotePoolAccess idx) s = execRemotePoolAccess idx s := rfl
theorem exec_homeRead (src : ReqSrc) (s : State) : exec (.homeRead src) s = execHomeRead src s := rfl
theorem exec_latencyResultDelivery (idx : Nat) (s : State) : exec (.latencyResultDelivery idx) s = execLatencyResultDelivery idx s := rfl
theorem exec_cxlWriteCompletion (idx : Nat) (s : State) : exec (.cxlWriteCompletion idx) s = execCxlWriteCompletion idx s := rfl
theorem exec_backInvalidateResponse (line : Nat) (s : State) : exec (.backInvalidateResponse line) s = execBackInvalidateResponse line s := rfl
theorem exec_capoWrite (region : BitVec 4) (limit : BitVec 16) (s : State) : exec (.capoWrite region limit) s = execCapoWrite region limit s := rfl
theorem exec_clockStepChange (region : BitVec 4) (s : State) : exec (.clockStepChange region) s = execClockStepChange region s := rfl

end Sys2Proof.Machine
end

