-- ==== Sys2Proof/Laws/Mem.lean ====
section
/-! SUPPORT. Memory: a read after a write, and that every operation that writes committed memory keeps its canonical form. -/

namespace Sys2Proof.Machine

theorem cellsWfFrom_weaken {d : Byte} {l : List Host.Cell} {lo : Option Nat} (h : cellsWfFrom d lo l = true) :
    cellsWfFrom d none l = true := by
  cases l with
  | nil => rfl
  | cons c r => simp only [cellsWfFrom, Bool.and_eq_true] at h ⊢; exact ⟨⟨trivial, h.1.2⟩, h.2⟩

/-- A listed address above the bound. -/
theorem cellsWfFrom_lower {d : Byte} {r : List Host.Cell} {a x : Nat} (hax : a < x) (h : cellsWfFrom d (some x) r = true) :
    cellsWfFrom d (some a) r = true := by
  cases r with
  | nil => rfl
  | cons c r =>
    simp only [cellsWfFrom, Bool.and_eq_true, decide_eq_true_eq] at h ⊢
    exact ⟨⟨by omega, h.1.2⟩, h.2⟩

theorem cellsSet_wfFrom {d : Byte} (a : Nat) (v : Byte) :
    ∀ (l : List Host.Cell) (lo : Option Nat), (∀ y, lo = some y → y < a) → cellsWfFrom d lo l = true →
      cellsWfFrom d lo (cellsSet d a v l) = true := by
  intro l
  induction l with
  | nil =>
    intro lo hlo _
    unfold cellsSet
    split
    · rfl
    · rename_i hv
      cases lo with
      | none => simp [cellsWfFrom, hv]
      | some y => simp [cellsWfFrom, hv, hlo y rfl]
  | cons c r ih =>
    obtain ⟨x, b⟩ := c
    intro lo hlo h
    have h0 := h
    simp only [cellsWfFrom, Bool.and_eq_true, decide_eq_true_eq] at h
    obtain ⟨⟨hx, hb⟩, hr⟩ := h
    unfold cellsSet
    split
    · rename_i hax
      split
      · exact h0
      · rename_i hv
        simp only [cellsWfFrom, Bool.and_eq_true, decide_eq_true_eq]
        refine ⟨⟨?_, hv⟩, ⟨hax, hb⟩, hr⟩
        cases lo with
        | none => rfl
        | some y => simpa using hlo y rfl
    · split
      · rename_i hax
        subst hax
        split
        · cases lo with
          | none => exact cellsWfFrom_weaken hr
          | some y => exact cellsWfFrom_lower (hlo y rfl) hr
        · rename_i hv
          simp only [cellsWfFrom, Bool.and_eq_true, decide_eq_true_eq]
          exact ⟨⟨hx, hv⟩, hr⟩
      · simp only [cellsWfFrom, Bool.and_eq_true, decide_eq_true_eq]
        exact ⟨⟨hx, hb⟩, ih (some x) (fun y hy => by cases hy; omega) hr⟩

/-- Writing a byte keeps the canonical form. -/
theorem cellsSet_wf {d : Byte} {l : List Host.Cell} (a : Nat) (v : Byte) (h : cellsWfFrom d none l = true) :
    cellsWfFrom d none (cellsSet d a v l) = true :=
  cellsSet_wfFrom a v l none (fun _ hy => by cases hy) h

theorem cellsWrite_wf {d : Byte} (bs : List Byte) : ∀ {l : List Host.Cell} (a : Nat), cellsWfFrom d none l = true →
    cellsWfFrom d none (cellsWrite d l a bs) = true := by
  induction bs with
  | nil => intro l a h; exact h
  | cons b r ih => intro l a h; exact ih (a + 1) (cellsSet_wf a b h)

/-- Dropping entries keeps the canonical form. -/
theorem cellsFilter_wfFrom {d : Byte} (p : Host.Cell → Bool) :
    ∀ (l : List Host.Cell) (lo : Option Nat), cellsWfFrom d lo l = true → cellsWfFrom d lo (l.filter p) = true := by
  intro l
  induction l with
  | nil => intro lo h; cases lo <;> rfl
  | cons c r ih =>
    obtain ⟨x, b⟩ := c
    intro lo h
    have h0 := h
    simp only [cellsWfFrom, Bool.and_eq_true, decide_eq_true_eq] at h
    obtain ⟨⟨hx, hb⟩, hr⟩ := h
    rw [List.filter_cons]
    split
    · simp only [cellsWfFrom, Bool.and_eq_true, decide_eq_true_eq]
      exact ⟨⟨hx, hb⟩, ih _ hr⟩
    · apply ih
      cases lo with
      | none => exact cellsWfFrom_weaken hr
      | some y => exact cellsWfFrom_lower (by simpa using hx) hr

/-- What a byte reads as after a byte has been written, in memory in canonical form. -/
theorem cellsGet_cellsSet {d : Byte} (a : Nat) (v : Byte) (x : Nat) :
    ∀ (l : List Host.Cell) (lo : Option Nat), cellsWfFrom d lo l = true →
      cellsGet d (cellsSet d a v l) x = if x = a then v else cellsGet d l x := by
  have none_above : ∀ (l : List Host.Cell) (y : Nat), cellsWfFrom d (some y) l = true → ∀ z ≤ y, cellsGet d l z = d := by
    intro l
    induction l with
    | nil => intro y _ z _; rfl
    | cons c r ih =>
      obtain ⟨w, b⟩ := c
      intro y h z hz
      simp only [cellsWfFrom, Bool.and_eq_true, decide_eq_true_eq] at h
      obtain ⟨⟨hw, _⟩, hr⟩ := h
      have : z ≠ w := by omega
      simp only [cellsGet, this, if_false]
      exact ih w hr z (by omega)
  intro l
  induction l with
  | nil =>
    intro lo _
    unfold cellsSet
    by_cases hv : v = d <;> by_cases hx : x = a <;> simp [cellsGet, hv, hx]
  | cons c r ih =>
    obtain ⟨w, b⟩ := c
    intro lo h
    simp only [cellsWfFrom, Bool.and_eq_true, decide_eq_true_eq] at h
    obtain ⟨⟨_, hb⟩, hr⟩ := h
    unfold cellsSet
    split
    · rename_i haw
      split
      · rename_i hv
        by_cases hx : x = a
        · subst hx
          have hxw : x ≠ w := by omega
          simp [cellsGet, hxw, none_above r w hr x (by omega), hv]
        · simp [hx]
      · by_cases hx : x = a <;> simp [cellsGet, hx]
    · split
      · rename_i haw
        subst haw
        split
        · rename_i hv
          by_cases hx : x = a
          · subst hx
            simp [none_above r x hr x (Nat.le_refl _), hv]
          · simp [cellsGet, hx]
        · by_cases hx : x = a <;> simp [cellsGet, hx]
      · rename_i haw
        by_cases hx : x = w
        · subst hx
          have : x ≠ a := fun e => haw e.symm
          simp [cellsGet, this]
        · simp only [cellsGet, hx, if_false]
          exact ih (some w) hr

/-- A committed byte after one byte of canonical memory has been written. -/
theorem memory_read_after_write {l : List Host.Cell} (h : Memory.wf l = true) (a x : Nat) (v : Byte) :
    cellsGet Config.memDefault (cellsSet Config.memDefault a v l) x = if x = a then v else cellsGet Config.memDefault l x :=
  cellsGet_cellsSet a v x l none h

/-- A fold of writes keeps the canonical form. -/
theorem foldl_wf {α : Type} (f : List Host.Cell → α → List Host.Cell) (hf : ∀ m a, Memory.wf m = true → Memory.wf (f m a) = true) :
    ∀ (l : List α) (m : List Host.Cell), Memory.wf m = true → Memory.wf (l.foldl f m) = true
  | [], _, h => h
  | a :: l, m, h => foldl_wf f hf l (f m a) (hf m a h)

/-- Writing committed bytes keeps the canonical form. -/
theorem memWrite_wf (pa : Nat) (bs : List Byte) (s : State) (h : Memory.wf s.homes.mem = true) :
    Memory.wf (memWrite pa bs s).homes.mem = true := by
  exact foldl_wf _ (fun m _ hm => foldl_wf _ (fun m _ hm => cellsSet_wf _ _ hm) _ m hm) _ _ h

/-- Writing a committed line keeps the canonical form. -/
theorem setMemLine_wf (line : Nat) (d : LineData) (s : State) (h : Memory.wf s.homes.mem = true) :
    Memory.wf (setMemLine line d s).homes.mem = true := by
  exact foldl_wf _ (fun m _ hm => cellsWrite_wf _ _ hm) _ _ h

end Sys2Proof.Machine
end

