-- ==== Sys2Proof/Laws/Access.lean ====
section
/-! SUPPORT. What a translation and an access check can do: they fill the TLBs and leave everything else alone; what the pool
operations leave alone; a pool byte after a pool byte has been written. -/

namespace Sys2Proof.Machine

/-- A translation changes the TLBs only. -/
theorem translate_frame (va : Nat) (w : Bool) (s : State) :
    ∃ t l, (translate va w s).1 = { s with homes.tlb := t, homes.layerTlb := l } := by
  unfold translate
  split
  · exact ⟨_, _, rfl⟩
  split
  · exact ⟨_, _, rfl⟩
  split
  · exact ⟨_, _, rfl⟩
  simp only
  split
  · exact ⟨_, _, rfl⟩
  · exact ⟨_, _, rfl⟩

/-- An access check changes the TLBs only. -/
theorem accessCheck_frame (va : DWord) (n : Nat) (w : Bool) (s : State) :
    ∃ t l, (accessCheck va n w s).1 = { s with homes.tlb := t, homes.layerTlb := l } := by
  unfold accessCheck
  split
  · exact ⟨_, _, rfl⟩
  split
  · exact ⟨_, _, rfl⟩
  have h := translate_frame va.toNat w s
  split
  · rename_i e; rw [e] at h; exact h
  · rename_i e; rw [e] at h; simp only; split <;> exact h

/-- What the state of an answered access check keeps. -/
theorem accessCheck_kept {va : DWord} {n : Nat} {w : Bool} {s s' : State} {r : Trans} (h : accessCheck va n w s = (s', r)) :
    s'.core = s.core ∧ s'.homes.mem = s.homes.mem ∧ s'.homes.lines = s.homes.lines ∧ s'.homes.layers = s.homes.layers
      ∧ s'.homes.hubs = s.homes.hubs ∧ s'.homes.queue = s.homes.queue ∧ s'.sched = s.sched ∧ s'.net = s.net
      ∧ s'.power = s.power ∧ s'.health = s.health ∧ s'.now = s.now := by
  obtain ⟨t, l, e⟩ := accessCheck_frame va n w s
  rw [h] at e
  simp only at e
  subst e
  exact ⟨rfl, rfl, rfl, rfl, rfl, rfl, rfl, rfl, rfl, rfl, rfl⟩

/-- A committed byte depends on memory alone, and on which home dies are lost. -/
theorem memByte_congr {s t : State} (h : t.homes.mem = s.homes.mem) (hd : t.health.lostDies = s.health.lostDies) (a : Nat) :
    memByte t a = memByte s a := by
  simp [memByte, readCell, homeLost, h, hd]

@[simp] theorem memByte_retire (s : State) (a : Nat) : memByte (retire s) a = memByte s a := memByte_congr (by simp) (by simp) a
@[simp] theorem memByte_issued (s : State) (a : Nat) : memByte (issued s) a = memByte s a := rfl

/-! ## Pool bytes -/

theorem cellsPut_find (a : Nat) (v : Byte) (x : Nat) : ∀ l : List Host.Cell,
    (cellsPut a v l).find? (fun c => c.1 == x) = if x = a then some (a, v) else l.find? (fun c => c.1 == x) := by
  intro l
  induction l with
  | nil =>
    by_cases h : x = a
    · subst h; simp [cellsPut]
    · have hax : (a == x) = false := by simp; omega
      simp [cellsPut, hax, h]
  | cons c r ih =>
    obtain ⟨y, b⟩ := c
    unfold cellsPut
    by_cases h : x = a
    · subst h
      split
      · simp
      split
      · simp
      · rename_i h1 h2
        have : (y == x) = false := by simp; omega
        simp [this, ih]
    · have hax : (a == x) = false := by simp; omega
      split
      · simp [List.find?_cons, hax]
      split
      · rename_i h2
        subst h2
        simp [hax]
      · simp [List.find?_cons, ih, h]

theorem cellsDrop_find (a x : Nat) (l : List Host.Cell) :
    (cellsDrop a l).find? (fun c => c.1 == x) = if x = a then none else l.find? (fun c => c.1 == x) := by
  unfold cellsDrop
  induction l with
  | nil => simp
  | cons c r ih =>
    by_cases h : x = a
    · subst h
      simp only [if_true] at ih ⊢
      rw [List.filter_cons]
      split
      · rename_i hc
        have : (c.1 == x) = false := by simpa using hc
        simp [this, ih]
      · exact ih
    · simp only [h, if_false] at ih ⊢
      rw [List.filter_cons]
      split
      · rw [List.find?_cons, List.find?_cons, ih]
      · rename_i hc
        have hc' : c.1 = a := by simpa using hc
        have : (c.1 == x) = false := by simp; omega
        rw [ih, List.find?_cons, this]

/-- A pool byte after a pool byte has been written. -/
theorem poolByte_poolSet (a : Nat) (v : Byte) (s : State) (x : Nat) :
    poolByte (poolSet a v s) x = if x = a then v else poolByte s x := by
  unfold poolSet
  by_cases hz : vgetD s.core.pool.bankGen (a / 2048) 0 = 0 ∧ v = 0
  · simp only [hz, and_self, if_true, poolByte, cellsDrop_find, poolDefault]
    by_cases h : x = a
    · subst h; simp [hz.1]
    · simp [h]
  · simp only [if_neg hz, poolByte, cellsPut_find, poolDefault]
    by_cases h : x = a <;> simp [h]

/-- Pool bytes after a list of bytes has been written. -/
theorem poolByte_poolWrite (bs : List Byte) : ∀ (a : Nat) (s : State) (x : Nat),
    poolByte (poolWrite a bs s) x = if a ≤ x ∧ x < a + bs.length then bs.getD (x - a) 0 else poolByte s x := by
  induction bs with
  | nil =>
    intro a s x
    have : ¬ (a ≤ x ∧ x < a + ([] : List Byte).length) := by simp only [List.length_nil]; omega
    rw [if_neg this]
    rfl
  | cons b r ih =>
    intro a s x
    rw [poolWrite, ih, poolByte_poolSet]
    by_cases h1 : x = a
    · subst h1
      simp
    · by_cases h2 : a + 1 ≤ x ∧ x < a + 1 + r.length
      · have h3 : a ≤ x ∧ x < a + (b :: r).length := by simp only [List.length_cons]; omega
        rw [if_pos h2, if_pos h3]
        have : x - a = (x - (a + 1)) + 1 := by omega
        rw [this, List.getD_cons_succ]
      · have h3 : ¬ (a ≤ x ∧ x < a + (b :: r).length) := by simp only [List.length_cons]; omega
        rw [if_neg h2, if_neg h3, if_neg h1]

/-- Writing the pool changes the listed pool bytes only. -/
theorem poolWrite_frame (bs : List Byte) : ∀ (a : Nat) (s : State),
    ∃ l, poolWrite a bs s = { s with core.pool.cells := l } := by
  induction bs with
  | nil => intro a s; exact ⟨_, rfl⟩
  | cons b r ih =>
    intro a s
    obtain ⟨l, h⟩ := ih (a + 1) (poolSet a b s)
    exact ⟨l, by rw [poolWrite, h]; rfl⟩

theorem leBytes_length (n : Nat) : ∀ x, (leBytes n x).length = n := by
  induction n with
  | zero => intro x; rfl
  | succ n ih => intro x; simp [leBytes, ih]

theorem leBytes_getD (n : Nat) : ∀ (x k : Nat), k < n → (leBytes n x).getD k 0 = BitVec.ofNat 8 (x / 256 ^ k) := by
  induction n with
  | zero => intro x k h; omega
  | succ n ih =>
    intro x k h
    cases k with
    | zero => simp [leBytes]
    | succ k =>
      rw [leBytes, List.getD_cons_succ, ih _ _ (by omega), Nat.div_div_eq_div_mul, Nat.pow_succ, Nat.mul_comm]

end Sys2Proof.Machine
end

