-- ==== Sys2Proof/Laws/Events.lean ====
section
/-! SUPPORT. What the operations of events do: empty bits, launch records and hallmarks, and the decision of an abort. -/

namespace Sys2Proof.Machine

/-! ## Empty bits -/

theorem sIsEmpty_setSEmpty (d r : BitVec 5) (b : Bool) (s : State) :
    sIsEmpty (setSEmpty d b s) r = if r = d then (r != 0 && b) else sIsEmpty s r := by
  unfold sIsEmpty setSEmpty
  by_cases hd : d = 0#5
  · by_cases h : r = d <;> simp_all
  · have hr : r.toNat < 32 := r.isLt
    by_cases h : r = d
    · subst h; simp [hd, getLsbD_setBit _ _ _ _ hr]
    · have : r.toNat ≠ d.toNat := fun e => h (BitVec.eq_of_toNat_eq e)
      simp [hd, h, getLsbD_setBit _ _ _ _ hr, this]

theorem vIsEmpty_setVEmpty (d r : BitVec 5) (b : Bool) (s : State) :
    vIsEmpty (setVEmpty d b s) r = if r = d then b else vIsEmpty s r := by
  unfold vIsEmpty setVEmpty
  have hr : r.toNat < 32 := r.isLt
  by_cases h : r = d
  · subst h; simp [getLsbD_setBit _ _ _ _ hr]
  · have : r.toNat ≠ d.toNat := fun e => h (BitVec.eq_of_toNat_eq e)
    simp [h, getLsbD_setBit _ _ _ _ hr, this]

@[simp] theorem readS_setSEmpty (d r : BitVec 5) (b : Bool) (s : State) : readS (setSEmpty d b s) r = readS s r := by
  apply readS_congr; unfold setSEmpty; split <;> rfl

@[simp] theorem readV_setVEmpty (d r : BitVec 5) (b : Bool) (s : State) : readV (setVEmpty d b s) r = readV s r := rfl

@[simp] theorem sIsEmpty_writeS (d r : BitVec 5) (x : DWord) (s : State) : sIsEmpty (writeS d x s) r = sIsEmpty s r := by
  unfold sIsEmpty writeS; split <;> rfl

@[simp] theorem vIsEmpty_writeV (d r : BitVec 5) (x : VReg) (s : State) : vIsEmpty (writeV d x s) r = vIsEmpty s r := rfl

/-! ## Launch records -/

/-- The first record of a number after a change of the records of a number. -/
theorem find_map_launch (id k : Nat) (f : LaunchRec → LaunchRec) (hf : ∀ l, (f l).id = l.id) (ls : List LaunchRec) :
    (ls.map fun l => if l.id = id then f l else l).find? (fun l => l.id == k)
      = if k = id then (ls.find? (fun l => l.id == k)).map f else ls.find? (fun l => l.id == k) := by
  induction ls with
  | nil => simp
  | cons x xs ih =>
    simp only [List.map_cons, List.find?_cons]
    by_cases hk : k = id
    · subst hk
      by_cases hx : x.id = k
      · simp [hx, hf]
      · have h' : (x.id == k) = false := by simpa using hx
        simp only [if_neg hx, h', ih, if_true]
    · by_cases hx : x.id = id
      · have h' : (x.id == k) = false := by rw [hx]; simpa using fun e => hk e.symm
        simp only [if_pos hx, hf, h', ih]
      · by_cases hxk : x.id = k
        · have h' : (x.id == k) = true := by simpa using hxk
          simp only [if_neg hx, h', if_neg hk]
        · have h' : (x.id == k) = false := by simpa using hxk
          simp only [if_neg hx, h', ih]

/-- A launch record after a change that keeps its number, of a launch that is there. -/
theorem launchOf_updLaunch {id : Nat} (f : LaunchRec → LaunchRec) (hf : ∀ l, (f l).id = l.id) {s : State}
    (h : (s.sched.launches.any fun l => l.id == id) = true) : launchOf (updLaunch id f s) id = f (launchOf s id) := by
  unfold launchOf updLaunch
  simp only [find_map_launch id id f hf, if_true]
  cases hx : s.sched.launches.find? (fun l => l.id == id) with
  | none =>
    obtain ⟨x, hm, hi⟩ := List.any_eq_true.mp h
    exact absurd hi (by simpa using List.find?_eq_none.mp hx x hm)
  | some x => rfl

/-- The records of other launches stay. -/
theorem launchOf_updLaunch_other {id k : Nat} (f : LaunchRec → LaunchRec) (hf : ∀ l, (f l).id = l.id) (s : State)
    (h : k ≠ id) : launchOf (updLaunch id f s) k = launchOf s k := by
  unfold launchOf updLaunch
  simp only [find_map_launch id k f hf, if_neg h]

/-- Hallmarks are no part of launch records. -/
@[simp] theorem launchOf_updHalls (id k : Nat) (f : HallEntry → HallEntry) (s : State) :
    launchOf (updHalls id f s) k = launchOf s k := rfl

/-! ## The decision of an abort -/

/-- The decision of an abort changes launch records and hallmarks only. -/
theorem doom_frame (id : Nat) (i : AbortInfo) (s : State) :
    (doom id i s).core = s.core ∧ (doom id i s).homes = s.homes ∧ (doom id i s).net = s.net ∧ (doom id i s).power = s.power
      ∧ (doom id i s).health = s.health ∧ (doom id i s).now = s.now ∧ (doom id i s).ticks = s.ticks
      ∧ (doom id i s).fresh = s.fresh ∧ (doom id i s).agenda = s.agenda ∧ (doom id i s).sched.slots = s.sched.slots
      ∧ (doom id i s).sched.saves = s.sched.saves := by
  unfold doom
  simp only
  split <;> simp [updHalls, updLaunch]

@[simp] theorem doom_core (id : Nat) (i : AbortInfo) (s : State) : (doom id i s).core = s.core := (doom_frame id i s).1
@[simp] theorem doom_homes (id : Nat) (i : AbortInfo) (s : State) : (doom id i s).homes = s.homes := (doom_frame id i s).2.1
@[simp] theorem doom_net (id : Nat) (i : AbortInfo) (s : State) : (doom id i s).net = s.net := (doom_frame id i s).2.2.1
@[simp] theorem doom_power (id : Nat) (i : AbortInfo) (s : State) : (doom id i s).power = s.power := (doom_frame id i s).2.2.2.1
@[simp] theorem doom_health (id : Nat) (i : AbortInfo) (s : State) : (doom id i s).health = s.health :=
  (doom_frame id i s).2.2.2.2.1
@[simp] theorem doom_now (id : Nat) (i : AbortInfo) (s : State) : (doom id i s).now = s.now := (doom_frame id i s).2.2.2.2.2.1

/-- A launch that is there, of which an abort may be decided, is doomed with the given record. -/
theorem doom_launchOf {id : Nat} (i : AbortInfo) {s : State} (hp : (s.sched.launches.any fun l => l.id == id) = true)
    (h : abortable (launchOf s id) = true) :
    launchOf (doom id i s) id
      = { launchOf s id with
          phase := .doomed
          abort := some { i with torn := (launchOf s id).irrev, time := fieldCounter s (launchOf s id).home 0 } } := by
  unfold doom
  simp only [h, if_true, launchOf_updHalls]
  refine launchOf_updLaunch _ ?_ hp
  intro l
  rfl

/-- The records of other launches stay. -/
theorem doom_launchOf_other {id k : Nat} (i : AbortInfo) (s : State) (h : k ≠ id) :
    launchOf (doom id i s) k = launchOf s k := by
  unfold doom
  simp only
  split
  · rw [launchOf_updHalls]
    refine launchOf_updLaunch_other _ ?_ s h
    intro l
    rfl
  · rfl

end Sys2Proof.Machine
end

