-- ==== Sys2Proof/Laws/PerInstr.lean ====
section
/-! SUPPORT. Statements about every instruction as syntax, one lemma per constructor. -/

namespace Sys2Proof.Laws.EventWord

/-- An event of another unit has no word of its own: the encoder gives the all-zero word, which encodes no instruction (R39). -/
def Statement (i : Instr) : Prop := i.isWord = false → encode i = 0#32

theorem add (d : BitVec 5) (a : BitVec 5) (b : BitVec 5) (fa : Bool) (fb : Bool) : Statement (.add d a b fa fb) := fun h => Bool.noConfusion h
theorem sub (d : BitVec 5) (a : BitVec 5) (b : BitVec 5) (fa : Bool) (fb : Bool) : Statement (.sub d a b fa fb) := fun h => Bool.noConfusion h
theorem andR (d : BitVec 5) (a : BitVec 5) (b : BitVec 5) (fa : Bool) (fb : Bool) : Statement (.andR d a b fa fb) := fun h => Bool.noConfusion h
theorem orR (d : BitVec 5) (a : BitVec 5) (b : BitVec 5) (fa : Bool) (fb : Bool) : Statement (.orR d a b fa fb) := fun h => Bool.noConfusion h
theorem xorR (d : BitVec 5) (a : BitVec 5) (b : BitVec 5) (fa : Bool) (fb : Bool) : Statement (.xorR d a b fa fb) := fun h => Bool.noConfusion h
theorem andn (d : BitVec 5) (a : BitVec 5) (b : BitVec 5) (fa : Bool) (fb : Bool) : Statement (.andn d a b fa fb) := fun h => Bool.noConfusion h
theorem addw (d : BitVec 5) (a : BitVec 5) (b : BitVec 5) (fa : Bool) (fb : Bool) : Statement (.addw d a b fa fb) := fun h => Bool.noConfusion h
theorem subw (d : BitVec 5) (a : BitVec 5) (b : BitVec 5) (fa : Bool) (fb : Bool) : Statement (.subw d a b fa fb) := fun h => Bool.noConfusion h
theorem addsat (d : BitVec 5) (a : BitVec 5) (b : BitVec 5) (fa : Bool) (fb : Bool) : Statement (.addsat d a b fa fb) := fun h => Bool.noConfusion h
theorem subsat (d : BitVec 5) (a : BitVec 5) (b : BitVec 5) (fa : Bool) (fb : Bool) : Statement (.subsat d a b fa fb) := fun h => Bool.noConfusion h
theorem sll (d : BitVec 5) (a : BitVec 5) (b : BitVec 5) (fa : Bool) (fb : Bool) : Statement (.sll d a b fa fb) := fun h => Bool.noConfusion h
theorem srl (d : BitVec 5) (a : BitVec 5) (b : BitVec 5) (fa : Bool) (fb : Bool) : Statement (.srl d a b fa fb) := fun h => Bool.noConfusion h
theorem sra (d : BitVec 5) (a : BitVec 5) (b : BitVec 5) (fa : Bool) (fb : Bool) : Statement (.sra d a b fa fb) := fun h => Bool.noConfusion h
theorem rol (d : BitVec 5) (a : BitVec 5) (b : BitVec 5) (fa : Bool) (fb : Bool) : Statement (.rol d a b fa fb) := fun h => Bool.noConfusion h
theorem ror (d : BitVec 5) (a : BitVec 5) (b : BitVec 5) (fa : Bool) (fb : Bool) : Statement (.ror d a b fa fb) := fun h => Bool.noConfusion h
theorem sllw (d : BitVec 5) (a : BitVec 5) (b : BitVec 5) (fa : Bool) (fb : Bool) : Statement (.sllw d a b fa fb) := fun h => Bool.noConfusion h
theorem srlw (d : BitVec 5) (a : BitVec 5) (b : BitVec 5) (fa : Bool) (fb : Bool) : Statement (.srlw d a b fa fb) := fun h => Bool.noConfusion h
theorem sraw (d : BitVec 5) (a : BitVec 5) (b : BitVec 5) (fa : Bool) (fb : Bool) : Statement (.sraw d a b fa fb) := fun h => Bool.noConfusion h
theorem mul (d : BitVec 5) (a : BitVec 5) (b : BitVec 5) (fa : Bool) (fb : Bool) : Statement (.mul d a b fa fb) := fun h => Bool.noConfusion h
theorem mulh (d : BitVec 5) (a : BitVec 5) (b : BitVec 5) (fa : Bool) (fb : Bool) : Statement (.mulh d a b fa fb) := fun h => Bool.noConfusion h
theorem mulhu (d : BitVec 5) (a : BitVec 5) (b : BitVec 5) (fa : Bool) (fb : Bool) : Statement (.mulhu d a b fa fb) := fun h => Bool.noConfusion h
theorem mulhsu (d : BitVec 5) (a : BitVec 5) (b : BitVec 5) (fa : Bool) (fb : Bool) : Statement (.mulhsu d a b fa fb) := fun h => Bool.noConfusion h
theorem mulw (d : BitVec 5) (a : BitVec 5) (b : BitVec 5) (fa : Bool) (fb : Bool) : Statement (.mulw d a b fa fb) := fun h => Bool.noConfusion h
theorem div (d : BitVec 5) (a : BitVec 5) (b : BitVec 5) (fa : Bool) (fb : Bool) : Statement (.div d a b fa fb) := fun h => Bool.noConfusion h
theorem divu (d : BitVec 5) (a : BitVec 5) (b : BitVec 5) (fa : Bool) (fb : Bool) : Statement (.divu d a b fa fb) := fun h => Bool.noConfusion h
theorem rem (d : BitVec 5) (a : BitVec 5) (b : BitVec 5) (fa : Bool) (fb : Bool) : Statement (.rem d a b fa fb) := fun h => Bool.noConfusion h
theorem remu (d : BitVec 5) (a : BitVec 5) (b : BitVec 5) (fa : Bool) (fb : Bool) : Statement (.remu d a b fa fb) := fun h => Bool.noConfusion h
theorem divw (d : BitVec 5) (a : BitVec 5) (b : BitVec 5) (fa : Bool) (fb : Bool) : Statement (.divw d a b fa fb) := fun h => Bool.noConfusion h
theorem divuw (d : BitVec 5) (a : BitVec 5) (b : BitVec 5) (fa : Bool) (fb : Bool) : Statement (.divuw d a b fa fb) := fun h => Bool.noConfusion h
theorem remw (d : BitVec 5) (a : BitVec 5) (b : BitVec 5) (fa : Bool) (fb : Bool) : Statement (.remw d a b fa fb) := fun h => Bool.noConfusion h
theorem remuw (d : BitVec 5) (a : BitVec 5) (b : BitVec 5) (fa : Bool) (fb : Bool) : Statement (.remuw d a b fa fb) := fun h => Bool.noConfusion h
theorem min (d : BitVec 5) (a : BitVec 5) (b : BitVec 5) (fa : Bool) (fb : Bool) : Statement (.min d a b fa fb) := fun h => Bool.noConfusion h
theorem max (d : BitVec 5) (a : BitVec 5) (b : BitVec 5) (fa : Bool) (fb : Bool) : Statement (.max d a b fa fb) := fun h => Bool.noConfusion h
theorem minu (d : BitVec 5) (a : BitVec 5) (b : BitVec 5) (fa : Bool) (fb : Bool) : Statement (.minu d a b fa fb) := fun h => Bool.noConfusion h
theorem maxu (d : BitVec 5) (a : BitVec 5) (b : BitVec 5) (fa : Bool) (fb : Bool) : Statement (.maxu d a b fa fb) := fun h => Bool.noConfusion h
theorem clz (d : BitVec 5) (a : BitVec 5) (fa : Bool) : Statement (.clz d a fa) := fun h => Bool.noConfusion h
theorem popc (d : BitVec 5) (a : BitVec 5) (fa : Bool) : Statement (.popc d a fa) := fun h => Bool.noConfusion h
theorem sel (d : BitVec 5) (a : BitVec 5) (b : BitVec 5) (fa : Bool) (fb : Bool) (neg : Bool) (p : BitVec 3) : Statement (.sel d a b fa fb neg p) := fun h => Bool.noConfusion h
theorem scadd (d : BitVec 5) (a : BitVec 5) (b : BitVec 5) (fa : Bool) (fb : Bool) (sh : BitVec 2) : Statement (.scadd d a b fa fb sh) := fun h => Bool.noConfusion h
theorem scaddx (d : BitVec 5) (a : BitVec 5) (b : BitVec 5) (fa : Bool) (fb : Bool) (sh : BitVec 2) : Statement (.scaddx d a b fa fb sh) := fun h => Bool.noConfusion h
theorem scaddz (d : BitVec 5) (a : BitVec 5) (b : BitVec 5) (fa : Bool) (fb : Bool) (sh : BitVec 2) : Statement (.scaddz d a b fa fb sh) := fun h => Bool.noConfusion h
theorem addi (d : BitVec 5) (a : BitVec 5) (imm : BitVec 15) : Statement (.addi d a imm) := fun h => Bool.noConfusion h
theorem andi (d : BitVec 5) (a : BitVec 5) (imm : BitVec 15) : Statement (.andi d a imm) := fun h => Bool.noConfusion h
theorem ori (d : BitVec 5) (a : BitVec 5) (imm : BitVec 15) : Statement (.ori d a imm) := fun h => Bool.noConfusion h
theorem xori (d : BitVec 5) (a : BitVec 5) (imm : BitVec 15) : Statement (.xori d a imm) := fun h => Bool.noConfusion h
theorem addiw (d : BitVec 5) (a : BitVec 5) (imm : BitVec 15) : Statement (.addiw d a imm) := fun h => Bool.noConfusion h
theorem slli (d : BitVec 5) (a : BitVec 5) (n : BitVec 6) : Statement (.slli d a n) := fun h => Bool.noConfusion h
theorem srli (d : BitVec 5) (a : BitVec 5) (n : BitVec 6) : Statement (.srli d a n) := fun h => Bool.noConfusion h
theorem srai (d : BitVec 5) (a : BitVec 5) (n : BitVec 6) : Statement (.srai d a n) := fun h => Bool.noConfusion h
theorem rori (d : BitVec 5) (a : BitVec 5) (n : BitVec 6) : Statement (.rori d a n) := fun h => Bool.noConfusion h
theorem slliw (d : BitVec 5) (a : BitVec 5) (n : BitVec 5) : Statement (.slliw d a n) := fun h => Bool.noConfusion h
theorem srliw (d : BitVec 5) (a : BitVec 5) (n : BitVec 5) : Statement (.srliw d a n) := fun h => Bool.noConfusion h
theorem sraiw (d : BitVec 5) (a : BitVec 5) (n : BitVec 5) : Statement (.sraiw d a n) := fun h => Bool.noConfusion h
theorem cmpeqi (p : BitVec 3) (a : BitVec 5) (imm : BitVec 12) : Statement (.cmpeqi p a imm) := fun h => Bool.noConfusion h
theorem cmpnei (p : BitVec 3) (a : BitVec 5) (imm : BitVec 12) : Statement (.cmpnei p a imm) := fun h => Bool.noConfusion h
theorem cmplti (p : BitVec 3) (a : BitVec 5) (imm : BitVec 12) : Statement (.cmplti p a imm) := fun h => Bool.noConfusion h
theorem cmpgei (p : BitVec 3) (a : BitVec 5) (imm : BitVec 12) : Statement (.cmpgei p a imm) := fun h => Bool.noConfusion h
theorem cmpltui (p : BitVec 3) (a : BitVec 5) (imm : BitVec 12) : Statement (.cmpltui p a imm) := fun h => Bool.noConfusion h
theorem cmpgeui (p : BitVec 3) (a : BitVec 5) (imm : BitVec 12) : Statement (.cmpgeui p a imm) := fun h => Bool.noConfusion h
theorem lui (d : BitVec 5) (imm : BitVec 20) : Statement (.lui d imm) := fun h => Bool.noConfusion h
theorem pld (d : BitVec 5) (a : BitVec 5) (kind : BitVec 3) (off : BitVec 11) : Statement (.pld d a kind off) := fun h => Bool.noConfusion h
theorem pldIndexed (d : BitVec 5) (a : BitVec 5) (kind : BitVec 3) (idx : BitVec 5) : Statement (.pldIndexed d a kind idx) := fun h => Bool.noConfusion h
theorem pst (d : BitVec 5) (a : BitVec 5) (kind : BitVec 2) (off : BitVec 11) : Statement (.pst d a kind off) := fun h => Bool.noConfusion h
theorem pstIndexed (d : BitVec 5) (a : BitVec 5) (kind : BitVec 2) (idx : BitVec 5) : Statement (.pstIndexed d a kind idx) := fun h => Bool.noConfusion h
theorem gld (d : BitVec 5) (a : BitVec 5) (kind : BitVec 3) (off : BitVec 11) : Statement (.gld d a kind off) := fun h => Bool.noConfusion h
theorem gldIndexed (d : BitVec 5) (a : BitVec 5) (kind : BitVec 3) (idx : BitVec 5) : Statement (.gldIndexed d a kind idx) := fun h => Bool.noConfusion h
theorem gst (d : BitVec 5) (a : BitVec 5) (width : BitVec 2) (sc : BitVec 3) (off : BitVec 9) : Statement (.gst d a width sc off) := fun h => Bool.noConfusion h
theorem gstIndexed (d : BitVec 5) (a : BitVec 5) (width : BitVec 2) (sc : BitVec 3) (idx : BitVec 5) : Statement (.gstIndexed d a width sc idx) := fun h => Bool.noConfusion h
theorem pbr (b : BitVec 3) (disp : BitVec 22) : Statement (.pbr b disp) := fun h => Bool.noConfusion h
theorem br (b : BitVec 3) (p : BitVec 3) (neg : Bool) : Statement (.br b p neg) := fun h => Bool.noConfusion h
theorem brl (b : BitVec 3) (p : BitVec 3) (neg : Bool) : Statement (.brl b p neg) := fun h => Bool.noConfusion h
theorem cmpeq (p : BitVec 3) (a : BitVec 5) (b : BitVec 5) (fa : Bool) (fb : Bool) : Statement (.cmpeq p a b fa fb) := fun h => Bool.noConfusion h
theorem cmpne (p : BitVec 3) (a : BitVec 5) (b : BitVec 5) (fa : Bool) (fb : Bool) : Statement (.cmpne p a b fa fb) := fun h => Bool.noConfusion h
theorem cmplt (p : BitVec 3) (a : BitVec 5) (b : BitVec 5) (fa : Bool) (fb : Bool) : Statement (.cmplt p a b fa fb) := fun h => Bool.noConfusion h
theorem cmpge (p : BitVec 3) (a : BitVec 5) (b : BitVec 5) (fa : Bool) (fb : Bool) : Statement (.cmpge p a b fa fb) := fun h => Bool.noConfusion h
theorem cmpltu (p : BitVec 3) (a : BitVec 5) (b : BitVec 5) (fa : Bool) (fb : Bool) : Statement (.cmpltu p a b fa fb) := fun h => Bool.noConfusion h
theorem cmpgeu (p : BitVec 3) (a : BitVec 5) (b : BitVec 5) (fa : Bool) (fb : Bool) : Statement (.cmpgeu p a b fa fb) := fun h => Bool.noConfusion h
theorem pand (d : BitVec 3) (a : BitVec 3) (b : BitVec 3) : Statement (.pand d a b) := fun h => Bool.noConfusion h
theorem por (d : BitVec 3) (a : BitVec 3) (b : BitVec 3) : Statement (.por d a b) := fun h => Bool.noConfusion h
theorem pxor (d : BitVec 3) (a : BitVec 3) (b : BitVec 3) : Statement (.pxor d a b) := fun h => Bool.noConfusion h
theorem pandn (d : BitVec 3) (a : BitVec 3) (b : BitVec 3) : Statement (.pandn d a b) := fun h => Bool.noConfusion h
theorem pnot (d : BitVec 3) (a : BitVec 3) : Statement (.pnot d a) := fun h => Bool.noConfusion h
theorem pget (d : BitVec 5) (a : BitVec 3) : Statement (.pget d a) := fun h => Bool.noConfusion h
theorem pset (d : BitVec 3) (a : BitVec 5) (fa : Bool) : Statement (.pset d a fa) := fun h => Bool.noConfusion h
theorem pbrr (d : BitVec 3) (a : BitVec 5) (fa : Bool) : Statement (.pbrr d a fa) := fun h => Bool.noConfusion h
theorem loop (lvl : BitVec 2) (a : BitVec 5) (len : BitVec 12) : Statement (.loop lvl a len) := fun h => Bool.noConfusion h
theorem loopi (lvl : BitVec 2) (raw : BitVec 8) (len : BitVec 12) : Statement (.loopi lvl raw len) := fun h => Bool.noConfusion h
theorem lbrk (lvl : BitVec 2) : Statement (.lbrk lvl) := fun h => Bool.noConfusion h
theorem mcall (a : BitVec 5) (m : BitVec 6) : Statement (.mcall a m) := fun h => Bool.noConfusion h
theorem mstore (a : BitVec 5) (stepNo : BitVec 5) (m : BitVec 6) : Statement (.mstore a stepNo m) := fun h => Bool.noConfusion h
theorem mov (d : BitVec 5) (a : BitVec 5) : Statement (.mov d a) := fun h => Bool.noConfusion h
theorem mfs (d : BitVec 5) (r : BitVec 12) : Statement (.mfs d r) := fun h => Bool.noConfusion h
theorem mfsTcause (d : BitVec 5) : Statement (.mfsTcause d) := fun h => Bool.noConfusion h
theorem mfsEngineStatus (d : BitVec 5) (r : BitVec 12) : Statement (.mfsEngineStatus d r) := fun h => Bool.noConfusion h
theorem mts (a : BitVec 5) (r : BitVec 12) : Statement (.mts a r) := fun h => Bool.noConfusion h
theorem mtsPartw (a : BitVec 5) : Statement (.mtsPartw a) := fun h => Bool.noConfusion h
theorem mtsFpctl (a : BitVec 5) : Statement (.mtsFpctl a) := fun h => Bool.noConfusion h
theorem mtsFpflag (a : BitVec 5) : Statement (.mtsFpflag a) := fun h => Bool.noConfusion h
theorem mtsLc (a : BitVec 5) (r : BitVec 12) : Statement (.mtsLc a r) := fun h => Bool.noConfusion h
theorem mtsMsdepth (a : BitVec 5) : Statement (.mtsMsdepth a) := fun h => Bool.noConfusion h
theorem mtsQht (a : BitVec 5) (r : BitVec 12) : Statement (.mtsQht a r) := fun h => Bool.noConfusion h
theorem cyc (d : BitVec 5) : Statement (.cyc d) := fun h => Bool.noConfusion h
theorem nop : Statement (.nop) := fun h => Bool.noConfusion h
theorem ovl (a : BitVec 5) (fa : Bool) : Statement (.ovl a fa) := fun h => Bool.noConfusion h
theorem exit : Statement (.exit) := fun h => Bool.noConfusion h
theorem vaddF32 (d : BitVec 5) (a : BitVec 5) (b : BitVec 5) (rm : BitVec 3) : Statement (.vaddF32 d a b rm) := fun h => Bool.noConfusion h
theorem vsubF32 (d : BitVec 5) (a : BitVec 5) (b : BitVec 5) (rm : BitVec 3) : Statement (.vsubF32 d a b rm) := fun h => Bool.noConfusion h
theorem vmulF32 (d : BitVec 5) (a : BitVec 5) (b : BitVec 5) (rm : BitVec 3) : Statement (.vmulF32 d a b rm) := fun h => Bool.noConfusion h
theorem vfmaF32 (d : BitVec 5) (a : BitVec 5) (b : BitVec 5) (rm : BitVec 3) : Statement (.vfmaF32 d a b rm) := fun h => Bool.noConfusion h
theorem vfmsF32 (d : BitVec 5) (a : BitVec 5) (b : BitVec 5) (rm : BitVec 3) : Statement (.vfmsF32 d a b rm) := fun h => Bool.noConfusion h
theorem vfnmaF32 (d : BitVec 5) (a : BitVec 5) (b : BitVec 5) (rm : BitVec 3) : Statement (.vfnmaF32 d a b rm) := fun h => Bool.noConfusion h
theorem vminF32 (d : BitVec 5) (a : BitVec 5) (b : BitVec 5) : Statement (.vminF32 d a b) := fun h => Bool.noConfusion h
theorem vmaxF32 (d : BitVec 5) (a : BitVec 5) (b : BitVec 5) : Statement (.vmaxF32 d a b) := fun h => Bool.noConfusion h
theorem vabsF32 (d : BitVec 5) (a : BitVec 5) : Statement (.vabsF32 d a) := fun h => Bool.noConfusion h
theorem vnegF32 (d : BitVec 5) (a : BitVec 5) : Statement (.vnegF32 d a) := fun h => Bool.noConfusion h
theorem vexp2 (d : BitVec 5) (a : BitVec 5) (rm : Bool) : Statement (.vexp2 d a rm) := fun h => Bool.noConfusion h
theorem vrcp (d : BitVec 5) (a : BitVec 5) (rm : Bool) : Statement (.vrcp d a rm) := fun h => Bool.noConfusion h
theorem vrsq (d : BitVec 5) (a : BitVec 5) (rm : Bool) : Statement (.vrsq d a rm) := fun h => Bool.noConfusion h
theorem vlog2 (d : BitVec 5) (a : BitVec 5) (rm : Bool) : Statement (.vlog2 d a rm) := fun h => Bool.noConfusion h
theorem vaddBf16 (d : BitVec 5) (a : BitVec 5) (b : BitVec 5) (rm : BitVec 3) : Statement (.vaddBf16 d a b rm) := fun h => Bool.noConfusion h
theorem vsubBf16 (d : BitVec 5) (a : BitVec 5) (b : BitVec 5) (rm : BitVec 3) : Statement (.vsubBf16 d a b rm) := fun h => Bool.noConfusion h
theorem vmulBf16 (d : BitVec 5) (a : BitVec 5) (b : BitVec 5) (rm : BitVec 3) : Statement (.vmulBf16 d a b rm) := fun h => Bool.noConfusion h
theorem vfmaBf16 (d : BitVec 5) (a : BitVec 5) (b : BitVec 5) (rm : BitVec 3) : Statement (.vfmaBf16 d a b rm) := fun h => Bool.noConfusion h
theorem vfmsBf16 (d : BitVec 5) (a : BitVec 5) (b : BitVec 5) (rm : BitVec 3) : Statement (.vfmsBf16 d a b rm) := fun h => Bool.noConfusion h
theorem vfnmaBf16 (d : BitVec 5) (a : BitVec 5) (b : BitVec 5) (rm : BitVec 3) : Statement (.vfnmaBf16 d a b rm) := fun h => Bool.noConfusion h
theorem vminBf16 (d : BitVec 5) (a : BitVec 5) (b : BitVec 5) : Statement (.vminBf16 d a b) := fun h => Bool.noConfusion h
theorem vmaxBf16 (d : BitVec 5) (a : BitVec 5) (b : BitVec 5) : Statement (.vmaxBf16 d a b) := fun h => Bool.noConfusion h
theorem vabsBf16 (d : BitVec 5) (a : BitVec 5) : Statement (.vabsBf16 d a) := fun h => Bool.noConfusion h
theorem vnegBf16 (d : BitVec 5) (a : BitVec 5) : Statement (.vnegBf16 d a) := fun h => Bool.noConfusion h
theorem vaddI32 (d : BitVec 5) (a : BitVec 5) (b : BitVec 5) : Statement (.vaddI32 d a b) := fun h => Bool.noConfusion h
theorem vsubI32 (d : BitVec 5) (a : BitVec 5) (b : BitVec 5) : Statement (.vsubI32 d a b) := fun h => Bool.noConfusion h
theorem vmulI32 (d : BitVec 5) (a : BitVec 5) (b : BitVec 5) : Statement (.vmulI32 d a b) := fun h => Bool.noConfusion h
theorem vmulhI32 (d : BitVec 5) (a : BitVec 5) (b : BitVec 5) : Statement (.vmulhI32 d a b) := fun h => Bool.noConfusion h
theorem vmulhZ32 (d : BitVec 5) (a : BitVec 5) (b : BitVec 5) : Statement (.vmulhZ32 d a b) := fun h => Bool.noConfusion h
theorem vaddsI32 (d : BitVec 5) (a : BitVec 5) (b : BitVec 5) : Statement (.vaddsI32 d a b) := fun h => Bool.noConfusion h
theorem vsubsI32 (d : BitVec 5) (a : BitVec 5) (b : BitVec 5) : Statement (.vsubsI32 d a b) := fun h => Bool.noConfusion h
theorem vaddsZ32 (d : BitVec 5) (a : BitVec 5) (b : BitVec 5) : Statement (.vaddsZ32 d a b) := fun h => Bool.noConfusion h
theorem vsubsZ32 (d : BitVec 5) (a : BitVec 5) (b : BitVec 5) : Statement (.vsubsZ32 d a b) := fun h => Bool.noConfusion h
theorem vminI32 (d : BitVec 5) (a : BitVec 5) (b : BitVec 5) : Statement (.vminI32 d a b) := fun h => Bool.noConfusion h
theorem vmaxI32 (d : BitVec 5) (a : BitVec 5) (b : BitVec 5) : Statement (.vmaxI32 d a b) := fun h => Bool.noConfusion h
theorem vminZ32 (d : BitVec 5) (a : BitVec 5) (b : BitVec 5) : Statement (.vminZ32 d a b) := fun h => Bool.noConfusion h
theorem vmaxZ32 (d : BitVec 5) (a : BitVec 5) (b : BitVec 5) : Statement (.vmaxZ32 d a b) := fun h => Bool.noConfusion h
theorem vand (d : BitVec 5) (a : BitVec 5) (b : BitVec 5) : Statement (.vand d a b) := fun h => Bool.noConfusion h
theorem vor (d : BitVec 5) (a : BitVec 5) (b : BitVec 5) : Statement (.vor d a b) := fun h => Bool.noConfusion h
theorem vxor (d : BitVec 5) (a : BitVec 5) (b : BitVec 5) : Statement (.vxor d a b) := fun h => Bool.noConfusion h
theorem vandn (d : BitVec 5) (a : BitVec 5) (b : BitVec 5) : Statement (.vandn d a b) := fun h => Bool.noConfusion h
theorem vsll (d : BitVec 5) (a : BitVec 5) (b : BitVec 5) : Statement (.vsll d a b) := fun h => Bool.noConfusion h
theorem vsrl (d : BitVec 5) (a : BitVec 5) (b : BitVec 5) : Statement (.vsrl d a b) := fun h => Bool.noConfusion h
theorem vsra (d : BitVec 5) (a : BitVec 5) (b : BitVec 5) : Statement (.vsra d a b) := fun h => Bool.noConfusion h
theorem vslli (d : BitVec 5) (a : BitVec 5) (n : BitVec 5) : Statement (.vslli d a n) := fun h => Bool.noConfusion h
theorem vsrli (d : BitVec 5) (a : BitVec 5) (n : BitVec 5) : Statement (.vsrli d a n) := fun h => Bool.noConfusion h
theorem vsrai (d : BitVec 5) (a : BitVec 5) (n : BitVec 5) : Statement (.vsrai d a n) := fun h => Bool.noConfusion h
theorem vcmpF32 (q : BitVec 3) (a : BitVec 5) (b : BitVec 5) (cond : BitVec 3) : Statement (.vcmpF32 q a b cond) := fun h => Bool.noConfusion h
theorem vcmpI32 (q : BitVec 3) (a : BitVec 5) (b : BitVec 5) (cond : BitVec 3) : Statement (.vcmpI32 q a b cond) := fun h => Bool.noConfusion h
theorem vcmpZ32 (q : BitVec 3) (a : BitVec 5) (b : BitVec 5) (cond : BitVec 3) : Statement (.vcmpZ32 q a b cond) := fun h => Bool.noConfusion h
theorem qand (d : BitVec 3) (a : BitVec 3) (b : BitVec 3) : Statement (.qand d a b) := fun h => Bool.noConfusion h
theorem qor (d : BitVec 3) (a : BitVec 3) (b : BitVec 3) : Statement (.qor d a b) := fun h => Bool.noConfusion h
theorem qxor (d : BitVec 3) (a : BitVec 3) (b : BitVec 3) : Statement (.qxor d a b) := fun h => Bool.noConfusion h
theorem qandn (d : BitVec 3) (a : BitVec 3) (b : BitVec 3) : Statement (.qandn d a b) := fun h => Bool.noConfusion h
theorem qnot (d : BitVec 3) (a : BitVec 3) : Statement (.qnot d a) := fun h => Bool.noConfusion h
theorem qtop (d : BitVec 3) : Statement (.qtop d) := fun h => Bool.noConfusion h
theorem vcvtBf16F32 (d : BitVec 5) (a : BitVec 5) (b : BitVec 5) (rm : BitVec 3) (sat : Bool) : Statement (.vcvtBf16F32 d a b rm sat) := fun h => Bool.noConfusion h
theorem vcvtF16F32 (d : BitVec 5) (a : BitVec 5) (b : BitVec 5) (rm : BitVec 3) (sat : Bool) : Statement (.vcvtF16F32 d a b rm sat) := fun h => Bool.noConfusion h
theorem vcvtF32Bf16Lo (d : BitVec 5) (a : BitVec 5) : Statement (.vcvtF32Bf16Lo d a) := fun h => Bool.noConfusion h
theorem vcvtF32Bf16Hi (d : BitVec 5) (a : BitVec 5) : Statement (.vcvtF32Bf16Hi d a) := fun h => Bool.noConfusion h
theorem vcvtF32F16Lo (d : BitVec 5) (a : BitVec 5) : Statement (.vcvtF32F16Lo d a) := fun h => Bool.noConfusion h
theorem vcvtF32F16Hi (d : BitVec 5) (a : BitVec 5) : Statement (.vcvtF32F16Hi d a) := fun h => Bool.noConfusion h
theorem vcvtE4m3F32 (d : BitVec 5) (a : BitVec 5) (j : BitVec 2) (rm : BitVec 3) (sat : Bool) (rd : BitVec 2) : Statement (.vcvtE4m3F32 d a j rm sat rd) := fun h => Bool.noConfusion h
theorem vcvtE5m2F32 (d : BitVec 5) (a : BitVec 5) (j : BitVec 2) (rm : BitVec 3) (sat : Bool) (rd : BitVec 2) : Statement (.vcvtE5m2F32 d a j rm sat rd) := fun h => Bool.noConfusion h
theorem vcvtF32E4m3 (d : BitVec 5) (a : BitVec 5) (j : BitVec 2) (rd : BitVec 2) : Statement (.vcvtF32E4m3 d a j rd) := fun h => Bool.noConfusion h
theorem vcvtF32E5m2 (d : BitVec 5) (a : BitVec 5) (j : BitVec 2) (rd : BitVec 2) : Statement (.vcvtF32E5m2 d a j rd) := fun h => Bool.noConfusion h
theorem vcvtE2m1F32 (d : BitVec 5) (a : BitVec 5) (n : BitVec 3) (rm : BitVec 3) (sat : Bool) (rd : BitVec 2) : Statement (.vcvtE2m1F32 d a n rm sat rd) := fun h => Bool.noConfusion h
theorem vcvtF32E2m1 (d : BitVec 5) (a : BitVec 5) (n : BitVec 3) (rd : BitVec 2) : Statement (.vcvtF32E2m1 d a n rd) := fun h => Bool.noConfusion h
theorem vcvtI32F32 (d : BitVec 5) (a : BitVec 5) (rm : BitVec 3) : Statement (.vcvtI32F32 d a rm) := fun h => Bool.noConfusion h
theorem vcvtZ32F32 (d : BitVec 5) (a : BitVec 5) (rm : BitVec 3) : Statement (.vcvtZ32F32 d a rm) := fun h => Bool.noConfusion h
theorem vcvtF32I32 (d : BitVec 5) (a : BitVec 5) (rm : BitVec 3) : Statement (.vcvtF32I32 d a rm) := fun h => Bool.noConfusion h
theorem vcvtF32Z32 (d : BitVec 5) (a : BitVec 5) (rm : BitVec 3) : Statement (.vcvtF32Z32 d a rm) := fun h => Bool.noConfusion h
theorem vbscale (d : BitVec 5) (a : BitVec 5) (b : BitVec 5) (fmt : BitVec 2) (rd : BitVec 2) : Statement (.vbscale d a b fmt rd) := fun h => Bool.noConfusion h
theorem vbamax (d : BitVec 5) (a : BitVec 5) (b : BitVec 5) : Statement (.vbamax d a b) := fun h => Bool.noConfusion h
theorem vbpack (d : BitVec 5) (a : BitVec 5) (b : BitVec 5) (rm : BitVec 3) (pHi : Bool) (fmt : BitVec 2) (rd : BitVec 2) (pLo : Bool) : Statement (.vbpack d a b rm pHi fmt rd pLo) := fun h => Bool.noConfusion h
theorem vbunpk (d : BitVec 5) (a : BitVec 5) (b : BitVec 5) (rm : BitVec 3) (fmt : BitVec 2) (rd : BitVec 2) (p : BitVec 2) (h : Bool) : Statement (.vbunpk d a b rm fmt rd p h) := fun h => Bool.noConfusion h
theorem vraddF32 (d : BitVec 5) (a : BitVec 5) (rm : BitVec 3) : Statement (.vraddF32 d a rm) := fun h => Bool.noConfusion h
theorem vrmaxF32 (d : BitVec 5) (a : BitVec 5) : Statement (.vrmaxF32 d a) := fun h => Bool.noConfusion h
theorem vrminF32 (d : BitVec 5) (a : BitVec 5) : Statement (.vrminF32 d a) := fun h => Bool.noConfusion h
theorem vramaxF32 (d : BitVec 5) (a : BitVec 5) : Statement (.vramaxF32 d a) := fun h => Bool.noConfusion h
theorem vraddI32 (d : BitVec 5) (a : BitVec 5) : Statement (.vraddI32 d a) := fun h => Bool.noConfusion h
theorem vrmaxI32 (d : BitVec 5) (a : BitVec 5) : Statement (.vrmaxI32 d a) := fun h => Bool.noConfusion h
theorem vrminI32 (d : BitVec 5) (a : BitVec 5) : Statement (.vrminI32 d a) := fun h => Bool.noConfusion h
theorem vperm (d : BitVec 5) (a : BitVec 5) (b : BitVec 5) : Statement (.vperm d a b) := fun h => Bool.noConfusion h
theorem vrot (d : BitVec 5) (a : BitVec 5) (n : BitVec 5) : Statement (.vrot d a n) := fun h => Bool.noConfusion h
theorem vzipl (d : BitVec 5) (a : BitVec 5) (b : BitVec 5) : Statement (.vzipl d a b) := fun h => Bool.noConfusion h
theorem vziph (d : BitVec 5) (a : BitVec 5) (b : BitVec 5) : Statement (.vziph d a b) := fun h => Bool.noConfusion h
theorem vmov (d : BitVec 5) (a : BitVec 5) : Statement (.vmov d a) := fun h => Bool.noConfusion h
theorem vbcast (d : BitVec 5) (a : BitVec 5) : Statement (.vbcast d a) := fun h => Bool.noConfusion h
theorem vins (d : BitVec 5) (a : BitVec 5) (n : BitVec 5) : Statement (.vins d a n) := fun h => Bool.noConfusion h
theorem vext (d : BitVec 5) (a : BitVec 5) (n : BitVec 5) : Statement (.vext d a n) := fun h => Bool.noConfusion h
theorem vextz (d : BitVec 5) (a : BitVec 5) (n : BitVec 5) : Statement (.vextz d a n) := fun h => Bool.noConfusion h
theorem s2q (d : BitVec 3) (a : BitVec 5) : Statement (.s2q d a) := fun h => Bool.noConfusion h
theorem q2s (d : BitVec 5) (a : BitVec 3) : Statement (.q2s d a) := fun h => Bool.noConfusion h
theorem mpush (a : BitVec 3) : Statement (.mpush a) := fun h => Bool.noConfusion h
theorem minv : Statement (.minv) := fun h => Bool.noConfusion h
theorem mpop : Statement (.mpop) := fun h => Bool.noConfusion h
theorem brmz (len : BitVec 12) : Statement (.brmz len) := fun h => Bool.noConfusion h
theorem vpld (d : BitVec 5) (a : BitVec 5) (off : BitVec 12) : Statement (.vpld d a off) := fun h => Bool.noConfusion h
theorem vpldIndexed (d : BitVec 5) (a : BitVec 5) (idx : BitVec 5) : Statement (.vpldIndexed d a idx) := fun h => Bool.noConfusion h
theorem vpst (d : BitVec 5) (a : BitVec 5) (off : BitVec 12) : Statement (.vpst d a off) := fun h => Bool.noConfusion h
theorem vpstIndexed (d : BitVec 5) (a : BitVec 5) (idx : BitVec 5) : Statement (.vpstIndexed d a idx) := fun h => Bool.noConfusion h
theorem vlda (d : BitVec 5) (a : BitVec 5) (off : BitVec 12) : Statement (.vlda d a off) := fun h => Bool.noConfusion h
theorem vldaIndexed (d : BitVec 5) (a : BitVec 5) (idx : BitVec 5) : Statement (.vldaIndexed d a idx) := fun h => Bool.noConfusion h
theorem vsta (d : BitVec 5) (a : BitVec 5) (off : BitVec 12) : Statement (.vsta d a off) := fun h => Bool.noConfusion h
theorem vstaIndexed (d : BitVec 5) (a : BitVec 5) (idx : BitVec 5) : Statement (.vstaIndexed d a idx) := fun h => Bool.noConfusion h
theorem vgld (d : BitVec 5) (a : BitVec 5) (off : BitVec 10) : Statement (.vgld d a off) := fun h => Bool.noConfusion h
theorem vgldIndexed (d : BitVec 5) (a : BitVec 5) (idx : BitVec 5) : Statement (.vgldIndexed d a idx) := fun h => Bool.noConfusion h
theorem vgst (d : BitVec 5) (a : BitVec 5) (sc : BitVec 3) (off : BitVec 10) : Statement (.vgst d a sc off) := fun h => Bool.noConfusion h
theorem vgstIndexed (d : BitVec 5) (a : BitVec 5) (sc : BitVec 3) (idx : BitVec 5) : Statement (.vgstIndexed d a sc idx) := fun h => Bool.noConfusion h
theorem srun (sig : BitVec 5) (wa : BitVec 5) (wb : BitVec 5) (wc : BitVec 5) (sp : BitVec 5) : Statement (.srun sig wa wb wc sp) := fun h => Bool.noConfusion h
theorem gldc (sig : BitVec 5) (wa : BitVec 5) (wb : BitVec 5) (wc : BitVec 5) (sp : BitVec 5) : Statement (.gldc sig wa wb wc sp) := fun h => Bool.noConfusion h
theorem ggo (sig : BitVec 5) (wa : BitVec 5) (wb : BitVec 5) (wc : BitVec 5) (sp : BitVec 5) : Statement (.ggo sig wa wb wc sp) := fun h => Bool.noConfusion h
theorem gmma (sig : BitVec 5) (wa : BitVec 5) (wb : BitVec 5) (wc : BitVec 5) (sp : BitVec 5) : Statement (.gmma sig wa wb wc sp) := fun h => Bool.noConfusion h
theorem copy (sig : BitVec 5) (wa : BitVec 5) (wb : BitVec 5) (wc : BitVec 5) (sp : BitVec 5) : Statement (.copy sig wa wb wc sp) := fun h => Bool.noConfusion h
theorem copy2d (sig : BitVec 5) (wa : BitVec 5) (wb : BitVec 5) (wc : BitVec 5) (sp : BitVec 5) : Statement (.copy2d sig wa wb wc sp) := fun h => Bool.noConfusion h
theorem send (sig : BitVec 5) (wa : BitVec 5) (wb : BitVec 5) (wc : BitVec 5) (sp : BitVec 5) : Statement (.send sig wa wb wc sp) := fun h => Bool.noConfusion h
theorem lbind (sig : BitVec 5) (wa : BitVec 5) (wb : BitVec 5) (wc : BitVec 5) (sp : BitVec 5) : Statement (.lbind sig wa wb wc sp) := fun h => Bool.noConfusion h
theorem lunbind (sig : BitVec 5) (wa : BitVec 5) (wb : BitVec 5) (wc : BitVec 5) (sp : BitVec 5) : Statement (.lunbind sig wa wb wc sp) := fun h => Bool.noConfusion h
theorem copen (sig : BitVec 5) (wa : BitVec 5) (wb : BitVec 5) (wc : BitVec 5) (sp : BitVec 5) : Statement (.copen sig wa wb wc sp) := fun h => Bool.noConfusion h
theorem cstream (sig : BitVec 5) (wa : BitVec 5) (wb : BitVec 5) (wc : BitVec 5) (sp : BitVec 5) : Statement (.cstream sig wa wb wc sp) := fun h => Bool.noConfusion h
theorem gsel (n : BitVec 2) : Statement (.gsel n) := fun h => Bool.noConfusion h
theorem snest (n : BitVec 2) (a : BitVec 5) (lvl : BitVec 3) (fa : Bool) : Statement (.snest n a lvl fa) := fun h => Bool.noConfusion h
theorem gstop : Statement (.gstop) := fun h => Bool.noConfusion h
theorem gfeed (a : BitVec 5) (fa : Bool) : Statement (.gfeed a fa) := fun h => Bool.noConfusion h
theorem gpop (d : BitVec 5) : Statement (.gpop d) := fun h => Bool.noConfusion h
theorem pqpop (d : BitVec 3) : Statement (.pqpop d) := fun h => Bool.noConfusion h
theorem gbank (d : BitVec 5) : Statement (.gbank d) := fun h => Bool.noConfusion h
theorem kwait (a : BitVec 5) : Statement (.kwait a) := fun h => Bool.noConfusion h
theorem kstat (d : BitVec 5) (a : BitVec 5) : Statement (.kstat d a) := fun h => Bool.noConfusion h
theorem bufdef (n : BitVec 5) (a : BitVec 5) (b : BitVec 5) (fa : Bool) (fb : Bool) : Statement (.bufdef n a b fa fb) := fun h => Bool.noConfusion h
theorem bufrel (n : BitVec 5) : Statement (.bufrel n) := fun h => Bool.noConfusion h
theorem bufrelFree (n : BitVec 5) : Statement (.bufrelFree n) := fun h => Bool.noConfusion h
theorem bufstat (d : BitVec 5) (a : BitVec 5) : Statement (.bufstat d a) := fun h => Bool.noConfusion h
theorem bufwait (n : BitVec 5) (st : BitVec 2) : Statement (.bufwait n st) := fun h => Bool.noConfusion h
theorem mark (s : BitVec 3) : Statement (.mark s) := fun h => Bool.noConfusion h
theorem fenceRel (s : BitVec 3) : Statement (.fenceRel s) := fun h => Bool.noConfusion h
theorem fenceAcq (s : BitVec 3) : Statement (.fenceAcq s) := fun h => Bool.noConfusion h
theorem fenceFull (s : BitVec 3) : Statement (.fenceFull s) := fun h => Bool.noConfusion h
theorem amoadd (d : BitVec 5) (a : BitVec 5) (b : BitVec 5) (fa : Bool) (fb : Bool) (esc : Bool) (dbl : Bool) : Statement (.amoadd d a b fa fb esc dbl) := fun h => Bool.noConfusion h
theorem amoand (d : BitVec 5) (a : BitVec 5) (b : BitVec 5) (fa : Bool) (fb : Bool) (esc : Bool) (dbl : Bool) : Statement (.amoand d a b fa fb esc dbl) := fun h => Bool.noConfusion h
theorem amoor (d : BitVec 5) (a : BitVec 5) (b : BitVec 5) (fa : Bool) (fb : Bool) (esc : Bool) (dbl : Bool) : Statement (.amoor d a b fa fb esc dbl) := fun h => Bool.noConfusion h
theorem amoxor (d : BitVec 5) (a : BitVec 5) (b : BitVec 5) (fa : Bool) (fb : Bool) (esc : Bool) (dbl : Bool) : Statement (.amoxor d a b fa fb esc dbl) := fun h => Bool.noConfusion h
theorem amomin (d : BitVec 5) (a : BitVec 5) (b : BitVec 5) (fa : Bool) (fb : Bool) (esc : Bool) (dbl : Bool) : Statement (.amomin d a b fa fb esc dbl) := fun h => Bool.noConfusion h
theorem amomax (d : BitVec 5) (a : BitVec 5) (b : BitVec 5) (fa : Bool) (fb : Bool) (esc : Bool) (dbl : Bool) : Statement (.amomax d a b fa fb esc dbl) := fun h => Bool.noConfusion h
theorem amominz (d : BitVec 5) (a : BitVec 5) (b : BitVec 5) (fa : Bool) (fb : Bool) (esc : Bool) (dbl : Bool) : Statement (.amominz d a b fa fb esc dbl) := fun h => Bool.noConfusion h
theorem amomaxz (d : BitVec 5) (a : BitVec 5) (b : BitVec 5) (fa : Bool) (fb : Bool) (esc : Bool) (dbl : Bool) : Statement (.amomaxz d a b fa fb esc dbl) := fun h => Bool.noConfusion h
theorem amoswap (d : BitVec 5) (a : BitVec 5) (b : BitVec 5) (fa : Bool) (fb : Bool) (esc : Bool) (dbl : Bool) : Statement (.amoswap d a b fa fb esc dbl) := fun h => Bool.noConfusion h
theorem amocas (d : BitVec 5) (a : BitVec 5) (b : BitVec 5) (fa : Bool) (fb : Bool) (esc : Bool) (dbl : Bool) : Statement (.amocas d a b fa fb esc dbl) := fun h => Bool.noConfusion h
theorem redF32 (a : BitVec 5) (b : BitVec 5) (fa : Bool) (s : BitVec 3) : Statement (.redF32 a b fa s) := fun h => Bool.noConfusion h
theorem redBf16 (a : BitVec 5) (b : BitVec 5) (fa : Bool) (s : BitVec 3) : Statement (.redBf16 a b fa s) := fun h => Bool.noConfusion h
theorem redI32 (a : BitVec 5) (b : BitVec 5) (fa : Bool) (s : BitVec 3) : Statement (.redI32 a b fa s) := fun h => Bool.noConfusion h
theorem redF32max (a : BitVec 5) (b : BitVec 5) (fa : Bool) (s : BitVec 3) : Statement (.redF32max a b fa s) := fun h => Bool.noConfusion h
theorem redoF32 (a : BitVec 5) (b : BitVec 5) (fa : Bool) (grp : BitVec 8) : Statement (.redoF32 a b fa grp) := fun h => Bool.noConfusion h
theorem redoBf16 (a : BitVec 5) (b : BitVec 5) (fa : Bool) (grp : BitVec 8) : Statement (.redoBf16 a b fa grp) := fun h => Bool.noConfusion h
theorem redoI32 (a : BitVec 5) (b : BitVec 5) (fa : Bool) (grp : BitVec 8) : Statement (.redoI32 a b fa grp) := fun h => Bool.noConfusion h
theorem redoF32max (a : BitVec 5) (b : BitVec 5) (fa : Bool) (grp : BitVec 8) : Statement (.redoF32max a b fa grp) := fun h => Bool.noConfusion h
theorem alr (a : BitVec 5) (fa : Bool) : Statement (.alr a fa) := fun h => Bool.noConfusion h
theorem alre : Statement (.alre) := fun h => Bool.noConfusion h
theorem sembind (slot : BitVec 5) (a : BitVec 5) (fa : Bool) : Statement (.sembind slot a fa) := fun h => Bool.noConfusion h
theorem sembindOff (slot : BitVec 5) : Statement (.sembindOff slot) := fun h => Bool.noConfusion h
theorem semadd (d : BitVec 5) (a : BitVec 5) (b : BitVec 5) (fa : Bool) (fb : Bool) (s : BitVec 3) : Statement (.semadd d a b fa fb s) := fun h => Bool.noConfusion h
theorem semwait (a : BitVec 5) (b : BitVec 5) (fa : Bool) (fb : Bool) (s : BitVec 3) : Statement (.semwait a b fa fb s) := fun h => Bool.noConfusion h
theorem pamoadd (d : BitVec 5) (a : BitVec 5) (b : BitVec 5) (fa : Bool) (fb : Bool) (dbl : Bool) : Statement (.pamoadd d a b fa fb dbl) := fun h => Bool.noConfusion h
theorem pamoand (d : BitVec 5) (a : BitVec 5) (b : BitVec 5) (fa : Bool) (fb : Bool) (dbl : Bool) : Statement (.pamoand d a b fa fb dbl) := fun h => Bool.noConfusion h
theorem pamoor (d : BitVec 5) (a : BitVec 5) (b : BitVec 5) (fa : Bool) (fb : Bool) (dbl : Bool) : Statement (.pamoor d a b fa fb dbl) := fun h => Bool.noConfusion h
theorem pamoxor (d : BitVec 5) (a : BitVec 5) (b : BitVec 5) (fa : Bool) (fb : Bool) (dbl : Bool) : Statement (.pamoxor d a b fa fb dbl) := fun h => Bool.noConfusion h
theorem pamomin (d : BitVec 5) (a : BitVec 5) (b : BitVec 5) (fa : Bool) (fb : Bool) (dbl : Bool) : Statement (.pamomin d a b fa fb dbl) := fun h => Bool.noConfusion h
theorem pamomax (d : BitVec 5) (a : BitVec 5) (b : BitVec 5) (fa : Bool) (fb : Bool) (dbl : Bool) : Statement (.pamomax d a b fa fb dbl) := fun h => Bool.noConfusion h
theorem pamominz (d : BitVec 5) (a : BitVec 5) (b : BitVec 5) (fa : Bool) (fb : Bool) (dbl : Bool) : Statement (.pamominz d a b fa fb dbl) := fun h => Bool.noConfusion h
theorem pamomaxz (d : BitVec 5) (a : BitVec 5) (b : BitVec 5) (fa : Bool) (fb : Bool) (dbl : Bool) : Statement (.pamomaxz d a b fa fb dbl) := fun h => Bool.noConfusion h
theorem pamoswap (d : BitVec 5) (a : BitVec 5) (b : BitVec 5) (fa : Bool) (fb : Bool) (dbl : Bool) : Statement (.pamoswap d a b fa fb dbl) := fun h => Bool.noConfusion h
theorem pamocas (d : BitVec 5) (a : BitVec 5) (b : BitVec 5) (fa : Bool) (fb : Bool) (dbl : Bool) : Statement (.pamocas d a b fa fb dbl) := fun h => Bool.noConfusion h
theorem bar (s : BitVec 3) (grp : BitVec 8) : Statement (.bar s grp) := fun h => Bool.noConfusion h
theorem grpinfo (d : BitVec 5) (grp : BitVec 8) : Statement (.grpinfo d grp) := fun h => Bool.noConfusion h
theorem trap (n : BitVec 10) : Statement (.trap n) := fun h => Bool.noConfusion h
theorem tfence : Statement (.tfence) := fun h => Bool.noConfusion h
theorem tret : Statement (.tret) := fun h => Bool.noConfusion h
theorem tretSkip : Statement (.tretSkip) := fun h => Bool.noConfusion h
theorem bkpt (n : BitVec 10) : Statement (.bkpt n) := fun h => Bool.noConfusion h
theorem dstep (m : BitVec 2) : Statement (.dstep m) := fun h => Bool.noConfusion h
theorem txstat (d : BitVec 5) : Statement (.txstat d) := fun h => Bool.noConfusion h
theorem txabort (a : BitVec 5) (fa : Bool) : Statement (.txabort a fa) := fun h => Bool.noConfusion h
theorem yield (d : BitVec 5) : Statement (.yield d) := fun h => Bool.noConfusion h
theorem sleep (d : BitVec 5) (a : BitVec 5) (fa : Bool) : Statement (.sleep d a fa) := fun h => Bool.noConfusion h
theorem sleept (a : BitVec 5) (fa : Bool) : Statement (.sleept a fa) := fun h => Bool.noConfusion h
theorem dstat (d : BitVec 5) : Statement (.dstat d) := fun h => Bool.noConfusion h
theorem disc (d : BitVec 5) (a : BitVec 5) (fa : Bool) : Statement (.disc d a fa) := fun h => Bool.noConfusion h
theorem prd (d : BitVec 5) (a : BitVec 5) (fa : Bool) : Statement (.prd d a fa) := fun h => Bool.noConfusion h
theorem lwake (a : BitVec 5) (fa : Bool) : Statement (.lwake a fa) := fun h => Bool.noConfusion h
theorem lwakeWait (a : BitVec 5) (fa : Bool) : Statement (.lwakeWait a fa) := fun h => Bool.noConfusion h
theorem chold (d : BitVec 5) (a : BitVec 5) (h : BitVec 3) (fa : Bool) : Statement (.chold d a h fa) := fun h => Bool.noConfusion h
theorem cclose (h : BitVec 3) : Statement (.cclose h) := fun h => Bool.noConfusion h
theorem cstat (d : BitVec 5) (h : BitVec 3) : Statement (.cstat d h) := fun h => Bool.noConfusion h
theorem overlayLoadDone (err : Bool) : Statement (.overlayLoadDone err) := fun _ => rfl
theorem coreDone (launch : Nat) (ord : Nat) : Statement (.coreDone launch ord) := fun _ => rfl
theorem targetFetchReady (b : BitVec 3) (err : Bool) : Statement (.targetFetchReady b err) := fun _ => rfl
theorem gldDataReturn (idx : Nat) (err : Bool) : Statement (.gldDataReturn idx err) := fun _ => rfl
theorem engineStatusFill (idx : Nat) : Statement (.engineStatusFill idx) := fun _ => rfl
theorem engineCommandStart (q : Nat) : Statement (.engineCommandStart q) := fun _ => rfl
theorem engineCommandComplete (q : Nat) : Statement (.engineCommandComplete q) := fun _ => rfl
theorem engineFault : Statement (.engineFault) := fun _ => rfl
theorem lateCopyTrap : Statement (.lateCopyTrap) := fun _ => rfl
theorem streamTokenDeliver (se : BitVec 2) : Statement (.streamTokenDeliver se) := fun _ => rfl
theorem streamTokenCommit (se : BitVec 2) : Statement (.streamTokenCommit se) := fun _ => rfl
theorem gridStep : Statement (.gridStep) := fun _ => rfl
theorem gmmaKblock : Statement (.gmmaKblock) := fun _ => rfl
theorem gmmaPreemptCut : Statement (.gmmaPreemptCut) := fun _ => rfl
theorem reliefGrant : Statement (.reliefGrant) := fun _ => rfl
theorem deadlockTrap : Statement (.deadlockTrap) := fun _ => rfl
theorem atomicApply (src : ReqSrc) : Statement (.atomicApply src) := fun _ => rfl
theorem atomicResultReturn (idx : Nat) : Statement (.atomicResultReturn idx) := fun _ => rfl
theorem redApply (src : ReqSrc) : Statement (.redApply src) := fun _ => rfl
theorem redoArrival (src : ReqSrc) : Statement (.redoArrival src) := fun _ => rfl
theorem redoResend (idx : Nat) : Statement (.redoResend idx) := fun _ => rfl
theorem lineRegionApply (src : ReqSrc) : Statement (.lineRegionApply src) := fun _ => rfl
theorem semaphoreAdd (idx : Nat) : Statement (.semaphoreAdd idx) := fun _ => rfl
theorem stepTrap (grid : Bool) : Statement (.stepTrap grid) := fun _ => rfl
theorem sleeptWake : Statement (.sleeptWake) := fun _ => rfl
theorem leaseExpiry (h : BitVec 3) : Statement (.leaseExpiry h) := fun _ => rfl
theorem storeApply (src : ReqSrc) : Statement (.storeApply src) := fun _ => rfl
theorem hubLineDrain (hub : Nat) : Statement (.hubLineDrain hub) := fun _ => rfl
theorem homeSweep (line : Nat) : Statement (.homeSweep line) := fun _ => rfl
theorem pageWalk (va : DWord) (write : Bool) : Statement (.pageWalk va write) := fun _ => rfl
theorem tlbInvalidate (launch : Nat) (page : Nat) : Statement (.tlbInvalidate launch page) := fun _ => rfl
theorem pagerFault (q : Nat) : Statement (.pagerFault q) := fun _ => rfl
theorem lmbox (queue : BitVec 6) (tail : BitVec 16) : Statement (.lmbox queue tail) := fun _ => rfl
theorem qcfg (queue : BitVec 6) (value : DWord) : Statement (.qcfg queue value) := fun _ => rfl
theorem qerr (value : DWord) : Statement (.qerr value) := fun _ => rfl
theorem evqhead (value : DWord) : Statement (.evqhead value) := fun _ => rfl
theorem pgresp (slot : BitVec 10) (ok : Bool) : Statement (.pgresp slot ok) := fun _ => rfl
theorem ikey (write : KeyWrite) : Statement (.ikey write) := fun _ => rfl
theorem deviceRegisterWrite (offset : BitVec 16) (value : DWord) : Statement (.deviceRegisterWrite offset value) := fun _ => rfl
theorem launchSubmit (queue : BitVec 6) : Statement (.launchSubmit queue) := fun _ => rfl
theorem launchBind (launch : Nat) (place : List CoreId) : Statement (.launchBind launch place) := fun _ => rfl
theorem launchAging (launch : Nat) : Statement (.launchAging launch) := fun _ => rfl
theorem bind (slot : CoreId) : Statement (.bind slot) := fun _ => rfl
theorem resume (slot : CoreId) : Statement (.resume slot) := fun _ => rfl
theorem save (slot : CoreId) : Statement (.save slot) := fun _ => rfl
theorem coreSaved (slot : CoreId) : Statement (.coreSaved slot) := fun _ => rfl
theorem kill (slot : CoreId) : Statement (.kill slot) := fun _ => rfl
theorem halt (slot : CoreId) : Statement (.halt slot) := fun _ => rfl
theorem releaseHalt (slot : CoreId) : Statement (.releaseHalt slot) := fun _ => rfl
theorem debugHaltRequest (launch : Nat) : Statement (.debugHaltRequest launch) := fun _ => rfl
theorem sequencerStart (launch : Nat) (pkg : BitVec 7) (region : BitVec 4) : Statement (.sequencerStart launch pkg region) := fun _ => rfl
theorem gridAdmission (region : BitVec 4) : Statement (.gridAdmission region) := fun _ => rfl
theorem droopAlarm (region : BitVec 4) (mv : BitVec 16) : Statement (.droopAlarm region mv) := fun _ => rfl
theorem droopStretchEnd (region : BitVec 4) : Statement (.droopStretchEnd region) := fun _ => rfl
theorem clockStepHoldEnd (region : BitVec 4) : Statement (.clockStepHoldEnd region) := fun _ => rfl
theorem thermalSample (region : BitVec 4) (temps : Vector (BitVec 12) 4) : Statement (.thermalSample region temps) := fun _ => rfl
theorem launchReady (launch : Nat) : Statement (.launchReady launch) := fun _ => rfl
theorem pairCompare (launch : Nat) : Statement (.pairCompare launch) := fun _ => rfl
theorem pairWaitExpiry (launch : Nat) : Statement (.pairWaitExpiry launch) := fun _ => rfl
theorem commitPrepare (launch : Nat) : Statement (.commitPrepare launch) := fun _ => rfl
theorem commitFlip (launch : Nat) : Statement (.commitFlip launch) := fun _ => rfl
theorem witnessQuery (launch : Nat) : Statement (.witnessQuery launch) := fun _ => rfl
theorem abortDecide (launch : Nat) : Statement (.abortDecide launch) := fun _ => rfl
theorem launchAborted (launch : Nat) : Statement (.launchAborted launch) := fun _ => rfl
theorem kernelNode (graph : Nat) (node : Nat) : Statement (.kernelNode graph node) := fun _ => rfl
theorem conditionNode (graph : Nat) (node : Nat) : Statement (.conditionNode graph node) := fun _ => rfl
theorem switchNode (graph : Nat) (node : Nat) : Statement (.switchNode graph node) := fun _ => rfl
theorem loopNode (graph : Nat) (node : Nat) : Statement (.loopNode graph node) := fun _ => rfl
theorem joinNode (graph : Nat) (node : Nat) : Statement (.joinNode graph node) := fun _ => rfl
theorem dieLoss (pkg : BitVec 7) (die : BitVec 7) : Statement (.dieLoss pkg die) := fun _ => rfl
theorem packageLoss (pkg : BitVec 7) : Statement (.packageLoss pkg) := fun _ => rfl
theorem stationLoss (pkg : BitVec 7) : Statement (.stationLoss pkg) := fun _ => rfl
theorem heartbeatMiss (pkg : BitVec 7) (die : BitVec 7) : Statement (.heartbeatMiss pkg die) := fun _ => rfl
theorem uncorrectableError (place : ErrPlace) : Statement (.uncorrectableError place) := fun _ => rfl
theorem hostRead (pa : Nat) (len : Nat) : Statement (.hostRead pa len) := fun _ => rfl
theorem hostWrite (pa : Nat) (bytes : List Byte) : Statement (.hostWrite pa bytes) := fun _ => rfl
theorem hostSnoop (line : Nat) (invalidate : Bool) : Statement (.hostSnoop line invalidate) := fun _ => rfl
theorem flitForward (router : Nat) : Statement (.flitForward router) := fun _ => rfl
theorem linkReplay (link : Nat) : Statement (.linkReplay link) := fun _ => rfl
theorem linkRetrain (link : Nat) (lanes : LaneOutcome) : Statement (.linkRetrain link lanes) := fun _ => rfl
theorem linkFailure (link : Nat) : Statement (.linkFailure link) := fun _ => rfl
theorem detourLoad (link : Nat) : Statement (.detourLoad link) := fun _ => rfl
theorem linkNarrow (link : Nat) : Statement (.linkNarrow link) := fun _ => rfl
theorem linkSleep (link : Nat) : Statement (.linkSleep link) := fun _ => rfl
theorem linkWake (link : Nat) : Statement (.linkWake link) := fun _ => rfl
theorem packetPlacement (idx : Nat) : Statement (.packetPlacement idx) := fun _ => rfl
theorem placementAcknowledgement (idx : Nat) : Statement (.placementAcknowledgement idx) := fun _ => rfl
theorem reoffer (idx : Nat) : Statement (.reoffer idx) := fun _ => rfl
theorem claspPlacement (idx : Nat) : Statement (.claspPlacement idx) := fun _ => rfl
theorem meterIntervalEnd (entry : Nat) : Statement (.meterIntervalEnd entry) := fun _ => rfl
theorem probeAction (idx : Nat) : Statement (.probeAction idx) := fun _ => rfl
theorem circuitBeat (idx : Nat) : Statement (.circuitBeat idx) := fun _ => rfl
theorem windowCheck (idx : Nat) : Statement (.windowCheck idx) := fun _ => rfl
theorem windowAcknowledgement (idx : Nat) : Statement (.windowAcknowledgement idx) := fun _ => rfl
theorem windowNak (idx : Nat) : Statement (.windowNak idx) := fun _ => rfl
theorem circuitRelease (idx : Nat) : Statement (.circuitRelease idx) := fun _ => rfl
theorem ringRequest (idx : Nat) : Statement (.ringRequest idx) := fun _ => rfl
theorem ringResponse (idx : Nat) : Statement (.ringResponse idx) := fun _ => rfl
theorem ringResend (idx : Nat) : Statement (.ringResend idx) := fun _ => rfl
theorem ringFrame (link : Nat) (verified : Bool) : Statement (.ringFrame link verified) := fun _ => rfl
theorem frameClose (link : Nat) : Statement (.frameClose link) := fun _ => rfl
theorem keyUpdate (link : Nat) : Statement (.keyUpdate link) := fun _ => rfl
theorem boot : Statement (.boot) := fun _ => rfl
theorem illegalInstruction (w : Word) : Statement (.illegalInstruction w) := fun _ => rfl
theorem remotePoolAccess (idx : Nat) : Statement (.remotePoolAccess idx) := fun _ => rfl
theorem homeRead (src : ReqSrc) : Statement (.homeRead src) := fun _ => rfl
theorem latencyResultDelivery (idx : Nat) : Statement (.latencyResultDelivery idx) := fun _ => rfl
theorem cxlWriteCompletion (idx : Nat) : Statement (.cxlWriteCompletion idx) := fun _ => rfl
theorem backInvalidateResponse (line : Nat) : Statement (.backInvalidateResponse line) := fun _ => rfl
theorem capoWrite (region : BitVec 4) (limit : BitVec 16) : Statement (.capoWrite region limit) := fun _ => rfl
theorem clockStepChange (region : BitVec 4) : Statement (.clockStepChange region) := fun _ => rfl

end Sys2Proof.Laws.EventWord
end

