-- ==== Sys2Proof/Machine/SaveImage.lean ====
section
/-! DEFINITION. The bytes of a save area, as a debugger reads them through the management core (R330). R330 gives each range its place and
says what it holds; the order within a range is the model's (DESIGN CHOICE, log entry 34). -/

namespace Sys2Proof.Machine

/-- Numbers of `n` bytes each, one after another. -/
def packBytes (n : Nat) (l : List Nat) : List Byte := l.flatMap (leBytes n)

/-- Bits, eight to a byte, the first the least significant. -/
def packBits (l : List Bool) : List Byte :=
  leBytes ((l.length + 7) / 8) (l.reverse.foldl (fun x b => 2 * x + b.toNat) 0)

/-- A list of bytes padded to a length. -/
def padTo (n : Nat) (l : List Byte) : List Byte := l ++ List.replicate (n - l.length) 0

/-- The grid's values: local registers and link latch of every cluster, then the accumulator files. -/
def gridValues (g : GridState) : List GVal :=
  g.clusters.toList.flatMap (fun c => c.l.toList ++ [c.link]) ++ g.acc.toList.flatMap (fun a => a.toList)

/-- 0x2_8000: values, valid bits, tags modulo 64, cluster RSR states, the next step; where no `GGO` is in execution zeros for all but the
RSR states, which outlast it (R131). -/
def areaGrid (c : Core) : List Byte :=
  let v := match c.grid.run with
    | none => []
    | some r => gridValues r.st
  let rsr := match c.grid.run with
    | none => c.sys.clusterRsr
    | some r => r.st.rsr
  padTo 25600 (packBytes 4 (v.map (fun x => x.bits.toNat))) ++ padTo 800 (packBits (v.map (fun x => x.valid)))
    ++ padTo 4800 (packBits (v.flatMap (fun x => (List.range 6).map (fun i => ((x.tag.getD 0) / 2 ^ i) % 2 == 1))))
    ++ packBytes 4 (rsr.toList.map (fun x => x.toNat)) ++ leBytes 8 ((c.grid.run.map (fun r => r.st.step)).getD 0)

/-- 0x3_0900: `p`, `q`, the mask stack and its depth. -/
def areaMasks (c : Core) : List Byte :=
  packBytes 2 (c.regs.q.toList.map (fun x => x.toNat) ++ c.regs.stack.toList.map (fun x => x.toNat))
    ++ [c.regs.p, c.regs.depth.setWidth 8]

/-- 0x3_0940: a target register is 8 bytes: address, state, held fault, which is its cause and the address of 22 bits (R64, R65). -/
def areaTarget (t : TargetReg) : List Byte :=
  leBytes 2 t.addr.toNat ++ (match t.state with
    | .idle => leBytes 6 0
    | .fetching => leBytes 6 1
    | .ready => leBytes 6 2
    | .faulted cause addr => leBytes 1 3 ++ leBytes 1 cause.code.toNat ++ leBytes 4 addr.toNat)

/-- 0x3_0980: a loop level is 16 bytes: LC, Start, End, Active. -/
def areaLoop (l : LoopLevel) : List Byte :=
  packBytes 4 [l.count.toNat, l.start.toNat, l.stop.toNat, l.active.toNat + 2 * l.order]

/-- 0x3_09C0: the registers of R20 by number, then mode, `DSTEP` bits, bank numbers, overlay number and `RED` index. -/
def areaSystem (s : State) : List Byte :=
  let c := s.core
  packBytes 8 ((List.range 38).map (fun r => ((sysRead s (BitVec.ofNat 12 r)).getD 0).toNat))
    ++ leBytes 2 ((match c.seq.mode with | .program => 0 | .handler => 1) + 2 * c.seq.stepInst.toNat + 4 * c.seq.stepGrid.toNat
        + 16 * c.grid.activeBank.toNat + 64 * c.grid.shadowBank.toNat)
    ++ leBytes 2 c.seq.curOverlay ++ leBytes 8 c.mq.redIndex

/-- 0x3_0D00: the three data queues with their grants. -/
def areaQueues (c : Core) : List Byte :=
  let entries := fun (l : List TokenData) => padTo 1024 (l.flatMap (fun t => leBytes 32 t.toNat))
  packBytes 2 [c.grid.feed.length, c.grid.feedGrants, c.grid.outq.length, c.grid.outGrants, c.grid.pq.length, c.grid.pqGrants]
    ++ leBytes 4 0 ++ entries c.grid.feed ++ entries c.grid.outq ++ packBits c.grid.pq

/-- 0x3_2000: a command is 64 bytes: parameters, then operation, signal slot, bank, number and waits. -/
def areaCommand (x : Option Command) : List Byte :=
  match x with
  | none => List.replicate 64 0
  | some c =>
    let op := match c.op with
      | .srun => 1 | .gldc => 2 | .ggo => 3 | .gmma => 4 | .copy => 5 | .copy2d => 6 | .sendCmd => 7 | .lbind => 8 | .copen => 9 | .cstream => 10
    (padTo 64 (packBytes 8 (c.params.toList.map (fun p => p.toNat)) ++ packBytes 1 [op, c.sig.toNat, c.bank.toNat, c.waits.length]
      ++ leBytes 8 c.id ++ packBytes 4 (c.waits.map (fun w => w.1.toNat + 2 ^ 16 * w.2.toNat)))).take 64

/-- 0x3_3800: stream cursors, the cursors of the commands in execution, circuit handles, the buffer table, label bindings, placed bits. -/
def areaUnits (s : State) : List Byte :=
  let c := s.core
  let stream := fun (x : Option StreamRun) => padTo 128 (match x with
    | none => []
    | some r => packBytes 8 [r.base.toNat, r.nextRead, r.trip, r.first]
      ++ packBytes 4 (r.strides.toList.map (fun x => x.toNat) ++ r.counts.toList.map (fun x => x.toNat)))
  let exec := fun (x : Option Running) => match x with | none => leBytes 8 0 | some r => leBytes 8 r.cursor
  let labels := fun (l : List (BitVec 16 × Nat)) => padTo 512 (l.flatMap (fun x => leBytes 2 x.1.toNat ++ leBytes 6 x.2))
  (c.eng.streams.toList.flatMap stream) ++ c.eng.exec.toList.flatMap exec
    ++ packBytes 8 ((List.range 8).map (fun h => (cstatValue s (BitVec.ofNat 3 h)).toNat))
    ++ packBytes 8 ((List.range 32).map (fun n => (bufstatValue s n).toNat))
    ++ labels (c.port.recvLabels.map (fun x => (x.1, x.2.toNat))) ++ labels (c.port.sendLabels.map (fun x => (x.1, x.2.toNat)))
    ++ packBits ((List.range 32768).map (fun w => c.pool.placed.contains (4 * w)))

/-- The byte at an offset of a save area (R330). A bank in use as L1 is stored invalid: it has no byte. -/
def saveAreaByte (a : SaveArea) (o : Nat) : Option Byte :=
  let s := { State.reset with core := a.image }
  let c := a.image
  let words := fun (n : Nat) (l : List Nat) (base : Nat) => some ((packBytes n l).getD (o - base) 0)
  let bytes := fun (l : List Byte) (base : Nat) => some (l.getD (o - base) 0)
  if o < 0x20000 then (if bankUse c.sys.partw (o / 2048) = 3 then none else some (poolByte s o))
  else if o < 0x28000 then some (bankByte s (BitVec.ofNat 2 ((o - 0x20000) / 8192)) (o % 8192))
  else if o < 0x30000 then bytes (areaGrid c) 0x28000
  else if o < 0x30100 then words 8 (c.regs.s.toList.map (fun x => x.toNat)) 0x30000
  else if o < 0x30900 then words 4 (c.regs.v.toList.flatMap (fun v => v.toList.map (fun x => x.toNat))) 0x30100
  else if o < 0x30940 then bytes (areaMasks c) 0x30900
  else if o < 0x30980 then bytes (c.seq.tb.toList.flatMap areaTarget) 0x30940
  else if o < 0x309C0 then bytes (c.seq.loops.toList.flatMap areaLoop) 0x30980
  else if o < 0x30B00 then bytes (areaSystem s) 0x309C0
  else if o < 0x30C00 then words 8 ((List.range 32).map (fun k => (kstatValue s (BitVec.ofNat 5 k)).toNat)) 0x30B00
  else if o < 0x30C40 then words 4 (c.sys.laneRsr.toList.map (fun x => x.toNat)) 0x30C00
  else if o < 0x30D00 then some 0
  else if o < 0x31D00 then bytes (areaQueues c) 0x30D00
  else if o < 0x32000 then some 0
  else if o < 0x33800 then bytes (c.eng.queues.toList.flatMap (fun q => q.slots.toList.flatMap areaCommand)) 0x32000
  else if o < 0x36000 then bytes (areaUnits s) 0x33800
  else if o < 0x38000 then words 4 (c.seq.ctrl.toList.map (fun x => x.toNat)) 0x36000
  else if o < 0x40000 then some 0
  else none

end Sys2Proof.Machine
end

