-- ==== Sys2Proof/Tests/Slice0.lean ====
section
/-! SUPPORT. Tests. Expected results are worked out by hand from the rules, or are the spec's own examples, cited at each test.
A theorem `test_meets_<Name>` shows a state and operands that meet the hypotheses of the statement of that name, clause by clause. -/

namespace Sys2Proof.Tests

open Sys2Proof Sys2Proof.Machine

set_option maxRecDepth 100000
set_option Elab.async false

/-! ## Small states -/

/-- A launch of two cores in package 0, with four semaphores, one group of both cores, a shadowed region and an escape region. -/
def launch1 : LaunchRec :=
  { LaunchRec.none with
    id := 1
    cores := 2
    sems := 4
    groups := [[(0, 1)]]
    regions := [⟨0, 2 ^ 20, 0, 0, false, none, 0⟩, ⟨2 ^ 20, 2 ^ 20, 1, 0, false, none, 1⟩]
    halls := [(0, 1)]
    members := [⟨false, 0, 0, .running, 0⟩, ⟨false, 1, 1, .running, 0⟩] }

/-- The modelled core running launch 1 after boot, with a translation of the first GiB of addresses. -/
def base : State :=
  { State.reset with
    health.bootStep := 7
    core.seq.run := .running
    core.launch := 1
    core.hall := 1
    sched.launches := [launch1]
    sched.nextLaunch := 2
    sched.slots := [⟨0, 0, 1, 0, false, 1, 0, 0, 0, 0, 0, 0, 0, .running, false, none⟩]
    homes.tlb := [⟨1, 0, 30, 0, true⟩] }

/-- The same in handler mode. -/
def inHandler : State := { base with core.seq.mode := .handler }

/-- An open atomic line region at address 0. -/
def inRegion : State := { base with core.mq.region := some ⟨5, 0, 0, []⟩ }

/-- A command with no waits, and the state in which it stands at the head of queue q; running; with its own work done. -/
def command (op : CmdOp) (p : Vector DWord 4) : Command := ⟨op, 3, p, [], 1, 0, 0, false⟩
def atHead (q : Nat) (c : Command) : State :=
  setSlot 3 { TokenSlot.start with iss := 1, pending := [⟨1, false⟩], last := 1 } (enqueueCmd q c base)
def runningCmd (finished : Bool) : Running := ⟨1, 0, none, 0, finished, false, false, none, [], none, false⟩
def executing (q : Nat) (c : Command) (finished : Bool) : State := setExec q (some (runningCmd finished)) (atHead q c)

/-- Buffer 4 declared at pool byte 4096 in a state. -/
def buffered (b : BufState) : State := setBuf 4 ⟨true, 4096, 128, b, false, 0, 0⟩ base

/-- What an access is answered. -/
def answerOf (va : DWord) (size : Nat) (write : Bool) (s : State) : Trans := (accessCheck va size write (issued s)).2

/-- A packet of a kind from core 1 to this core, at rest. -/
def packetKind (k : BitVec 4) : Packet :=
  { controlPacket k 0 1 0 5 0 0 1 0 with id := 7, data := [1, 2, 3, 4], cls := kindClass k.toNat, launch := 1, ejected := 1, sent := 1 }
def withPacket (p : Packet) (s : State) : State := { s with net.packets := [p], net.nextPkt := 8 }

/-! ## Well-formedness (R41): a term that each check refuses -/

theorem test_ill_formed : ([.pld 1 2 7 0, .pldIndexed 1 2 7 3, .gld 1 2 7 0, .gldIndexed 1 2 7 3, .loop 0 1 0, .loopi 0 1 0,
    .mcall 29 0, .mfs 1 0x20, .mfs 1 0x0C, .mfsEngineStatus 1 0x12, .mts 1 2, .mts 1 0x12, .mtsLc 1 0x16, .mtsQht 1 0x0B,
    .vaddF32 1 2 3 6, .vfmaBf16 1 2 3 7, .vcmpF32 1 2 3 6, .vcmpI32 1 2 3 7, .vcmpZ32 1 2 3 6, .vcvtBf16F32 1 2 3 6 true,
    .vcvtE4m3F32 1 2 0 6 true 0, .vcvtE4m3F32 1 2 0 1 true 3, .vcvtF32E2m1 1 2 0 3, .vcvtI32F32 1 2 6, .vbscale 1 2 3 3 0,
    .vbscale 1 2 3 0 3, .vbpack 1 2 3 0 true 0 0 false, .vbpack 1 2 3 6 false 0 0 false, .vbunpk 1 2 3 0 0 0 2 true,
    .vraddF32 1 2 6, .vrot 1 2 16, .vins 1 2 16, .vext 1 2 16, .vextz 1 2 16, .brmz 0, .srun 1 2 3 4 0, .copy 1 2 3 4 29,
    .lunbind 1 2 3 4 5, .snest 0 1 6 false, .redF32 2 3 false 0, .redoI32 2 3 false 0, .sembind 23 1 false, .sembindOff 31] :
    List Instr).all (fun i => !i.wf) = true := by decide +kernel

/-! ## Decoding: one word for each row of the opcode table, its fields laid out as the table says (R40) -/

/-- Each word reads as the instruction beside it. -/
noncomputable def reads (l : List (Word × Instr)) : Bool := l.all (fun p => decode p.1 == some p.2)

theorem test_decode_add_to_mulh : reads
    [(0x02b12d00, .add 11 2 11 false true), (0x024bae01, .sub 4 23 11 true false), (0x032e4402, .andR 18 28 17 false false), 
      (0x036f9203, .orR 22 31 4 true false), (0x025a1004, .xorR 5 20 4 false false), (0x02e8a405, .andn 14 17 9 false false), 
      (0x02cd0610, .addw 12 26 1 true false), (0x03493211, .subw 20 18 12 true false), 
      (0x0394e320, .addsat 25 9 24 true true), (0x02b77321, .subsat 11 14 28 true true), 
      (0x05fd1300, .sll 31 26 4 true true), (0x05ff3001, .srl 31 30 12 false false), (0x04f45002, .sra 15 8 20 false false), 
      (0x05a16e03, .rol 26 2 27 true false), (0x04211f04, .ror 2 2 7 true true), (0x048f6110, .sllw 8 30 24 false true), 
      (0x04421711, .srlw 4 4 5 true true), (0x05eb4112, .sraw 30 22 16 false true), (0x06bdd400, .mul 11 27 21 false false), 
      (0x07c22601, .mulh 28 4 9 true false)] = true := by decide +kernel

theorem test_decode_mulhu_to_scaddx : reads
    [(0x063e8502, .mulhu 3 29 1 false true), (0x07e7b103, .mulhsu 30 15 12 false true), 
      (0x0624d010, .mulw 2 9 20 false false), (0x08a8b500, .div 10 17 13 false true), 
      (0x09c93401, .divu 28 18 13 false false), (0x09429402, .rem 20 5 5 false false), 
      (0x097b2f03, .remu 23 22 11 true true), (0x08dec910, .divw 13 29 18 false true), 
      (0x09bc3911, .divuw 27 24 14 false true), (0x08a6c412, .remw 10 13 17 false false), 
      (0x08858813, .remuw 8 11 2 false false), (0x0abd0400, .min 11 26 1 false false), (0x0bd4c901, .max 29 9 18 false true), 
      (0x0ba28402, .minu 26 5 1 false false), (0x0b6fd303, .maxu 22 31 20 true true), (0x0b4b0208, .clz 20 22 true), 
      (0x0be78209, .popc 30 15 true), (0x0c29720c, .sel 2 18 28 true false true 4), (0x0e913203, .scadd 9 2 12 true false 3), 
      (0x0e246a12, .scaddx 2 8 26 true false 2)] = true := by decide +kernel

theorem test_decode_scaddz_to_lui : reads
    [(0x0e17bc22, .scaddz 1 15 15 false false 2), (0x219788d0, .addi 25 15 2256), (0x237e0482, .andi 23 28 1154), 
      (0x24409c7a, .ori 4 1 7290), (0x27767d5d, .xori 23 12 32093), (0x2a3d40a9, .addiw 3 26 16553), 
      (0x28a20004, .slli 10 4 4), (0x284a903b, .srli 4 21 59), (0x291b2019, .srai 17 22 25), (0x285b302e, .rori 5 22 46), 
      (0x2956401e, .slliw 21 12 30), (0x292b501b, .srliw 18 22 27), (0x29eae00d, .sraiw 30 21 13), 
      (0x2c3a0abb, .cmpeqi 3 20 2747), (0x2c3118f7, .cmpnei 3 2 2295), (0x2c52a409, .cmplti 5 5 1033), 
      (0x2c69b23f, .cmpgei 6 19 575), (0x2c5c46f4, .cmpltui 5 24 1780), (0x2c155243, .cmpgeui 1 10 579), 
      (0x2f97af43, .lui 25 503619)] = true := by decide +kernel

theorem test_decode_pld_to_pxor : reads
    [(0x31e81735, .pld 30 16 1 1845), (0x30c0ae00, .pldIndexed 12 1 2 24), (0x33fd1018, .pst 31 26 1 24), 
      (0x33bf1dc0, .pstIndexed 27 30 1 23), (0x34e0b150, .gld 14 1 3 336), (0x34cbda80, .gldIndexed 12 23 5 10), 
      (0x36a76d10, .gst 10 14 3 3 272), (0x369adfa0, .gstIndexed 9 21 2 7 26), (0x38ea4d46, .pbr 3 2772294), 
      (0x3a9c0000, .br 2 3 true), (0x3d980000, .brl 6 3 false), (0x3e7f4900, .cmpeq 7 30 18 false true), 
      (0x3e7bd001, .cmpne 7 23 20 false false), (0x3e745f02, .cmplt 7 8 23 true true), 
      (0x3e3e1103, .cmpge 3 28 4 false true), (0x3e3deb04, .cmpltu 3 27 26 true true), 
      (0x3e2b7a05, .cmpgeu 2 22 30 true false), (0x3e139810, .pand 1 7 6), (0x3e119411, .por 1 3 5), 
      (0x3e510812, .pxor 5 2 2)] = true := by decide +kernel

theorem test_decode_pandn_to_nop : reads
    [(0x3e729c13, .pandn 7 5 7), (0x3e418014, .pnot 4 3), (0x3f128018, .pget 17 5), (0x3e248219, .pset 2 9 true), 
      (0x40488200, .pbrr 4 17 true), (0x422c02b2, .loop 2 24 690), (0x4278bc91, .loopi 3 139 3217), (0x42900000, .lbrk 1), 
      (0x44090003, .mcall 18 3), (0x44168779, .mstore 13 29 57), (0x47c88000, .mov 28 17), (0x477010d2, .mfs 23 210), 
      (0x46b01020, .mfsTcause 11), (0x4602a5a3, .mts 5 1443), (0x460f2000, .mtsPartw 30), (0x4605a001, .mtsFpctl 11), 
      (0x4601a002, .mtsFpflag 3), (0x460b2016, .mtsMsdepth 22), (0x48a00001, .cyc 10), (0x48000000, .nop)] = true := by decide +kernel

theorem test_decode_ovl_to_vfma_bf16 : reads
    [(0x480c8202, .ovl 25 true), (0x48000003, .exit), (0x819d9a00, .vaddF32 25 27 6 4), (0x815e4201, .vsubF32 21 28 16 4), 
      (0x8147c602, .vmulF32 20 15 17 4), (0x808fb603, .vfmaF32 8 31 13 4), (0x80881a04, .vfmsF32 8 16 6 4), 
      (0x805eee85, .vfnmaF32 5 29 27 5), (0x81647806, .vminF32 22 8 30), (0x8030cc07, .vmaxF32 3 1 19), 
      (0x80b18008, .vabsF32 11 3), (0x80c98009, .vnegF32 12 19), (0x81cc8090, .vexp2 28 25 true), 
      (0x81f90091, .vrcp 31 18 true), (0x814e0092, .vrsq 20 28 true), (0x81050093, .vlog2 16 10 true), 
      (0x83ac4680, .vaddBf16 26 24 17 5), (0x82860681, .vsubBf16 8 12 1 5), (0x82946682, .vmulBf16 9 8 25 5), 
      (0x82641283, .vfmaBf16 6 8 4 5)] = true := by decide +kernel

theorem test_decode_vfms_bf16_to_vand : reads
    [(0x821a2e84, .vfmsBf16 1 20 11 5), (0x8238d885, .vfnmaBf16 3 17 22 1), (0x83cf8806, .vminBf16 28 31 2), 
      (0x8221a807, .vmaxBf16 2 3 10), (0x83930008, .vabsBf16 25 6), (0x82cf0009, .vnegBf16 12 30), 
      (0x843cd800, .vaddI32 3 25 22), (0x85859801, .vsubI32 24 11 6), (0x844cd802, .vmulI32 4 25 22), 
      (0x84918c03, .vmulhI32 9 3 3), (0x8511f804, .vmulhZ32 17 3 30), (0x8468c005, .vaddsI32 6 17 16), 
      (0x84f0ac06, .vsubsI32 15 1 11), (0x84955407, .vaddsZ32 9 10 21), (0x84858408, .vsubsZ32 8 11 1), 
      (0x85784409, .vminI32 23 16 17), (0x8441980a, .vmaxI32 4 3 6), (0x85c8280b, .vminZ32 28 16 10), 
      (0x85dfcc0c, .vmaxZ32 29 31 19), (0x85192810, .vand 17 18 10)] = true := by decide +kernel

theorem test_decode_vor_to_vcvt_f16_f32 : reads
    [(0x85d7ac11, .vor 29 15 11), (0x845a8c12, .vxor 5 21 3), (0x856a6013, .vandn 22 20 24), (0x84710418, .vsll 7 2 1), 
      (0x85d5c819, .vsrl 29 11 18), (0x84e4b81a, .vsra 14 9 14), (0x84f4401c, .vslli 15 8 16), (0x85ef701d, .vsrli 30 30 28), 
      (0x8416a81e, .vsrai 1 13 10), (0x866eb801, .vcmpF32 6 29 14 1), (0x86699023, .vcmpI32 6 19 4 3), 
      (0x86319445, .vcmpZ32 3 3 5 5), (0x86708460, .qand 7 1 1), (0x86408861, .qor 4 1 2), (0x86610c62, .qxor 6 2 3), 
      (0x86511c63, .qandn 5 2 7), (0x86418064, .qnot 4 3), (0x86500065, .qtop 5), (0x88c59200, .vcvtBf16F32 12 11 4 4 false), 
      (0x882b69c1, .vcvtF16F32 2 22 26 3 true)] = true := by decide +kernel

theorem test_decode_vcvt_f32_bf16_lo_to_vrmax_f32 : reads
    [(0x89250002, .vcvtF32Bf16Lo 18 10), (0x88ec8003, .vcvtF32Bf16Hi 14 25), (0x886b0004, .vcvtF32F16Lo 6 22), 
      (0x89470005, .vcvtF32F16Hi 20 14), (0x89898e56, .vcvtE4m3F32 24 19 3 4 true 1), 
      (0x89770617, .vcvtE5m2F32 23 14 1 4 false 1), (0x89810c18, .vcvtF32E4m3 24 2 3 1), 
      (0x89c78c19, .vcvtF32E5m2 28 15 3 1), (0x89be065a, .vcvtE2m1F32 27 28 1 4 true 1), 
      (0x89bd881b, .vcvtF32E2m1 27 27 2 1), (0x891d818c, .vcvtI32F32 17 27 3), (0x885e018d, .vcvtZ32F32 5 28 3), 
      (0x892b018e, .vcvtF32I32 18 22 3), (0x8876018f, .vcvtF32Z32 7 12 3), (0x8ad36012, .vbscale 13 6 24 2 1), 
      (0x8b513c20, .vbamax 21 2 15), (0x8abef972, .vbpack 11 29 30 2 true 2 1 false), 
      (0x8c2bc54f, .vbunpk 2 23 17 2 2 1 3 true), (0x8e398280, .vraddF32 3 19 5), (0x8f430001, .vrmaxF32 20 6)] = true := by decide +kernel

theorem test_decode_vrmin_f32_to_brmz : reads
    [(0x8e868002, .vrminF32 8 13), (0x8e7d8003, .vramaxF32 7 27), (0x8e870008, .vraddI32 8 14), 
      (0x8e778009, .vrmaxI32 7 15), (0x8e69800a, .vrminI32 6 19), (0x90ec8400, .vperm 14 25 1), (0x91452c01, .vrot 20 10 11), 
      (0x90bae402, .vzipl 11 21 25), (0x915a2803, .vziph 21 20 10), (0x916d0004, .vmov 22 26), (0x90dd0008, .vbcast 13 26), 
      (0x913e2c09, .vins 19 28 11), (0x90ab2c0a, .vext 10 22 11), (0x91aaac0b, .vextz 26 21 11), (0x9021000c, .s2q 2 2), 
      (0x9030800d, .q2s 3 1), (0x92028000, .mpush 5), (0x92100000, .minv), (0x92200000, .mpop), (0x9230069d, .brmz 1693)] = true := by decide +kernel

theorem test_decode_vpld_to_lbind : reads
    [(0x9595874b, .vpld 25 11 1867), (0x94fa1e80, .vpldIndexed 15 20 29), (0x9537a5cf, .vpst 19 15 1487), 
      (0x9515bb00, .vpstIndexed 17 11 22), (0x9544c7ee, .vlda 20 9 2030), (0x95a85300, .vldaIndexed 26 16 6), 
      (0x94cf654a, .vsta 12 30 1354), (0x9569fb00, .vstaIndexed 22 19 22), (0x97fa8128, .vgld 31 21 296), 
      (0x97a987e0, .vgldIndexed 26 19 31), (0x97c9e049, .vgst 28 19 4 73), (0x96725fe0, .vgstIndexed 7 4 3 31), 
      (0xa1a61a8c, .srun 26 12 6 20 12), (0xa3c51f4c, .gldc 28 10 7 26 12), (0xa4e0bc6b, .ggo 14 1 15 3 11), 
      (0xa7f0944c, .gmma 31 1 5 2 12), (0xb14c322c, .copy 20 24 12 17 12), (0xb36cc36e, .copy2d 22 25 16 27 14), 
      (0xb42ea7cc, .send 2 29 9 30 12), (0xb736486d, .lbind 19 12 18 3 13)] = true := by decide +kernel

theorem test_decode_lunbind_to_fence_acq : reads
    [(0xb73ca5af, .lbind 19 25 9 13 15), (0xd98d5d0d, .copen 24 26 23 8 13), (0xdb1438af, .cstream 17 8 14 5 15), 
      (0xa8200000, .gsel 2), (0xa82a8401, .snest 2 21 1 false), (0xa8000002, .gstop), (0xa80f0203, .gfeed 30 true), 
      (0xa8e00004, .gpop 14), (0xa8500005, .pqpop 5), (0xa9500006, .gbank 21), (0xb8040000, .kwait 8), 
      (0xb8880001, .kstat 8 16), (0xbb07ad00, .bufdef 16 15 11 false true), (0xbbf00001, .bufrel 31), 
      (0xbb100002, .bufrelFree 17), (0xbb328003, .bufstat 19 5), (0xbba00c04, .bufwait 26 3), (0xc0000007, .mark 7), 
      (0xc000000f, .fenceRel 7), (0xc0000017, .fenceAcq 7)] = true := by decide +kernel

theorem test_decode_fence_full_to_alr : reads
    [(0xc000001c, .fenceFull 4), (0xc38f3c00, .amoadd 24 30 15 false false false false), 
      (0xc3835b21, .amoand 24 6 22 true true true false), (0xc3a8d532, .amoor 26 17 21 false true true true), 
      (0xc3a3f613, .amoxor 26 7 29 true false false true), (0xc3ca3324, .amomin 28 20 12 true true true false), 
      (0xc3b43b15, .amomax 27 8 14 true true false true), (0xc3d8c716, .amominz 29 17 17 true true false true), 
      (0xc3a89527, .amomaxz 26 17 5 false true true false), (0xc3fc9408, .amoswap 31 25 5 false false false false), 
      (0xc3a49929, .amocas 26 9 6 false true true false), (0xc406d006, .redF32 13 20 false 6), 
      (0xc4179a04, .redBf16 15 6 true 4), (0xc420d201, .redI32 1 20 true 1), (0xc432aa04, .redF32max 5 10 true 4), 
      (0xc6041a0f, .redoF32 8 6 true 15), (0xc61aa2ae, .redoBf16 21 8 true 174), (0xc62e18e7, .redoI32 28 6 false 231), 
      (0xc631b0c9, .redoF32max 3 12 false 201), (0xc80e8200, .alr 29 true)] = true := by decide +kernel

theorem test_decode_alre_to_tret : reads
    [(0xc8000001, .alre), (0xcbb08200, .sembind 27 1 true), (0xcbb00010, .sembindOff 27), 
      (0xcb25e423, .semadd 18 11 25 false false 3), (0xca064734, .semwait 12 17 true true 4), 
      (0xcca91900, .pamoadd 10 18 6 false true false), (0xcced0401, .pamoand 14 26 1 false false false), 
      (0xcc3ed602, .pamoor 3 29 21 true false false), (0xcd712613, .pamoxor 23 2 9 true false true), 
      (0xccb1e614, .pamomin 11 3 25 true false true), (0xcc5fef05, .pamomax 5 31 27 true true false), 
      (0xcd54a306, .pamominz 21 9 8 true true false), (0xccd2a317, .pamomaxz 13 5 8 true true true), 
      (0xcc9a9118, .pamoswap 9 21 4 false true true), (0xcd433e09, .pamocas 20 6 15 true false false), 
      (0xce30009e, .bar 3 158), (0xcf8004d1, .grpinfo 24 209), (0xd004a400, .trap 297), (0xd0000001, .tfence), 
      (0xd0000002, .tret)] = true := by decide +kernel

theorem test_decode_tret_skip_to_cstat : reads
    [(0xd0000003, .tretSkip), (0xd0093c04, .bkpt 591), (0xd0100005, .dstep 1), (0xd2600000, .txstat 6), 
      (0xd20c0001, .txabort 24 false), (0xd2200002, .yield 2), (0xd21f8003, .sleep 1 31 false), 
      (0xd2010004, .sleept 2 false), (0xd2a00005, .dstat 10), (0xd5b20000, .disc 27 4 false), (0xd57f8201, .prd 23 31 true), 
      (0xd4048002, .lwake 9 false), (0xd4018003, .lwakeWait 3 false), (0xd6e79a00, .chold 14 15 6 true), 
      (0xd6001c01, .cclose 7), (0xd7901402, .cstat 25 5)] = true := by decide +kernel

/-- The words that the spec assembles in its examples (chapters 1 to 5, 8, 9, 11, 12, 15, 17, 19). -/
theorem test_decode_spec_words : reads
    [(0x38BFFFFA, .pbr 2 0x3FFFFA), (0x3A980000, .br 2 3 false), (0x3A9C0000, .br 2 3 true), (0x48000000, .nop), (0x48000003, .exit),
      (0x42440003, .loopi 0 0x40 3), (0x3461A000, .gld 6 3 2 0), (0x02529800, .add 5 5 6 false false), (0x3651C000, .gst 5 3 2 0 0),
      (0x92008000, .mpush 1), (0x92300001, .brmz 1), (0x8A921402, .vbscale 9 4 5 0 1), (0x8A821442, .vbpack 8 4 5 0 false 0 1 false),
      (0xB01FFFE8, .copy 1 31 31 31 8), (0xA0408BF4, .srun 4 1 2 31 20), (0xB8028000, .kwait 5), (0xA62FFFF0, .gmma 2 31 31 31 16),
      (0xA06113E8, .srun 6 2 4 31 8), (0xC0000016, .fenceAcq 6), (0xC0000005, .mark 5), (0xC2531C30, .amoadd 5 6 7 false false true true),
      (0xC6020803, .redoF32 4 2 false 3), (0x46601004, .mfs 6 4), (0x96038000, .vgld 0 7 0), (0x9601F000, .vgst 0 3 6 0),
      (0x9611F001, .vgst 1 3 6 1), (0xC000000E, .fenceRel 6), (0xC2022420, .amoadd 0 4 9 false false true false), (0xD6400802, .cstat 4 2),
      (0xD0009400, .trap 37), (0xD2048004, .sleept 9 false), (0xD4730000, .disc 7 6 false), (0xD83FFFE8, .copen 3 31 31 31 8),
      (0xDA41FFEC, .cstream 4 3 31 31 12), (0x84210812, .vxor 2 2 2), (0x42038008, .loop 0 7 8), (0x34834000, .gld 8 6 4 0),
      (0x94250000, .vpld 2 10 0), (0xC4220805, .redI32 4 2 false 5), (0x36C2E000, .gst 12 5 3 0 0), (0x3840001D, .pbr 1 29),
      (0xB61FFFF0, .lbind 1 31 31 31 16), (0xCE500000, .bar 5 0), (0xB42FFFF4, .send 2 31 31 31 20), (0xBA053000, .bufdef 0 10 12 false false),
      (0xBA000804, .bufwait 0 2), (0x44148000, .mstore 9 0 0), (0x44000000, .mcall 0 0), (0x3A4C0000, .br 1 1 true),
      (0xCF500400, .grpinfo 21 0), (0x3275200B, .pst 7 10 2 11), (0xB0317FF0, .copy 3 2 31 31 16)] = true := by decide +kernel

/-- Words that encode no instruction (R41, R88, and the rules of the majors named). -/
theorem test_undefined_words : ([0x00000000, 0x3A980001, 0x48000004, 0x02000006, 0x28007000, 0xFE000000, 0xCA000040, 0x42C00000] :
    List Word).all (fun w => (decode w).isNone) = true := by decide +kernel

/-! ## States and operands that meet the hypotheses of the statements -/

/-- A value for `s1` and `s2`. -/
def withAB (x y : DWord) : State := writeS 2 y (writeS 1 x base)

theorem test_meets_DecodeEncodeRoundTrip : (Instr.fenceFull 7).isWord = true ∧ (Instr.fenceFull 7).wf = true := by decide +kernel

theorem test_meets_StepRunsDecoded :
    (base.agenda = [] ∧ base.core.seq.run = .running ∧ base.core.seq.macroRun = false ∧ base.core.seq.pcOver = false
      ∧ base.core.seq.pc.toNat < Config.handlerArea ∧ base.core.seq.pc ∉ base.core.seq.badWords ∧ base.core.seq.savePending = false
      ∧ base.core.seq.haltRequested = false ∧ base.core.seq.stepFired = false ∧ base.core.seq.gridStepFired = false
      ∧ base.core.eng.faults = [] ∧ base.core.eng.lateCopies = [])
    ∧ decode (wordAtPc (base.withFetchWord 32 0x02529800)) = some (.add 5 5 6 false false) ∧ decode (wordAtPc base) = none := by
  decide +kernel

theorem test_meets_StepKeepsMemoryCanonical : Memory.wf base.homes.mem = true ∧ Memory.wf [(3, 1), (7, 255)] = true := by decide +kernel

/-- The conditions of issue of the scalar instructions, at the last register. -/
theorem test_meets_scalar : mayIssue inLine (usesDAB 31 30 29 true true) base = true
    ∧ mayIssue inLine (usesDAB 0 0 0 false false) inRegion = true ∧ mayIssue inLine ⟨[srcS 31], [.s 31]⟩ base = true
    ∧ mayIssue inLine ⟨[srcS 31 true], [.s 31]⟩ base = true ∧ mayIssue inLine ⟨[], [.s 31]⟩ base = true
    ∧ mayIssue inLine {} base = true ∧ mayIssue inLine ⟨[srcS 1 true, srcS 2 true], []⟩ base = true
    ∧ mayIssue inLine ⟨[srcS 1], []⟩ base = true ∧ mayIssue inLine ⟨[srcS 1 true], []⟩ base = true := by decide +kernel

theorem test_meets_ImmediateForms_words : (0x28000040 : Word).bits 25 7 = 0x14 ∧ (0x28000040 : Word).bits 6 6 ≠ 0
    ∧ (0x28007000 : Word).bits 12 3 = 7 ∧ 4 ≤ ((0x28004020 : Word).bits 12 3).toNat ∧ (0x28004020 : Word).bits 5 1 = 1#1
    ∧ (0x480000FF : Word).bits 25 7 = 0x24 ∧ 4 ≤ ((0x480000FF : Word).bits 0 8).toNat := by decide +kernel

/-- `s1` empty, `s2` awaiting a result. -/
def emptyOne : State := deliverLater (.scalar 2 0) (setSEmpty 1 true base)

theorem test_meets_EmptyAndInterlocked : gateOpen inLine emptyOne = true ∧ emptyOne.core.mq.region = none
    ∧ sIsEmpty emptyOne 1 = true ∧ regPending emptyOne (.s 2) = true ∧ sIsEmpty emptyOne 2 = false
    ∧ emptyOne.core.seq.mode = .program := by decide +kernel

/-- The default partition: banks 2 on are SP. -/
theorem test_meets_ScalarPoolAccess : mayIssue anywhere ⟨[srcS 1], [.s 3]⟩ (withAB 4096 8) = true
    ∧ poolCheck (withAB 4096 8) 4096 8 true false = none ∧ poolCheck (withAB 4097 8) 4097 2 true false = some (.alignment, 4097)
    ∧ mayIssue anywhere ⟨[srcS 1, srcS 2], [.s 3]⟩ (withAB 4096 8) = true ∧ poolCheck (withAB 4096 8) 4104 8 true false = none
    ∧ mayIssue anywhere ⟨[srcS 1, srcS 3], []⟩ (withAB 4096 8) = true ∧ poolCheck (withAB 4096 8) 4096 8 false true = none
    ∧ poolCheck (withAB 4096 8) 0x20000 1 false true = some (.pool, 0x20000)
    ∧ mayIssue anywhere ⟨[srcS 1, srcS 2, srcS 3], []⟩ (withAB 4096 8) = true := by decide +kernel

/-- With 16 AC banks (`PARTW` of the example of chapter 4). -/
def withAC (x y : DWord) : State := { withAB x y with core.sys.partw := 0x02040F02 }

theorem test_meets_VectorPoolAccess : mayIssue anywhere ⟨[srcS 1], [.v 3]⟩ (withAC 4096 64) = true
    ∧ poolCheck (withAC 4096 64) 4096 64 true false = none ∧ acCheck (withAC 0 64) 0 true = none
    ∧ mayIssue anywhere ⟨[srcS 1, srcS 2], [.v 3]⟩ (withAC 4096 64) = true ∧ acCheck (withAC 0 64) 64 false = none
    ∧ mayIssue anywhere ⟨[srcS 1, srcV 3], []⟩ (withAC 4096 64) = true ∧ poolCheck (withAC 4096 64) 4160 64 false true = none
    ∧ mayIssue anywhere ⟨[srcS 1, srcS 2, srcV 3], []⟩ (withAC 4096 64) = true := by decide +kernel

theorem test_meets_PoolAtomics : mayIssue anywhere ⟨[srcS 1 true, srcS 2 true], [.s 3]⟩ (withAB 4096 5) = true
    ∧ poolCheck (withAB 4096 5) 4096 8 true true = none ∧ poolCheck (withAB 4096 5) 4096 4 true true = none := by decide +kernel

theorem test_meets_GlobalLoads : base.core.mq.region = none ∧ mayIssue inLine ⟨[srcS 1], [.s 3]⟩ base = true
    ∧ mayIssue inLine ⟨[srcS 1, srcS 2], [.s 3]⟩ base = true ∧ mayIssue anywhere ⟨[srcS 1], [.v 3]⟩ base = true
    ∧ mayIssue anywhere ⟨[srcS 1, srcS 2], [.v 3]⟩ base = true ∧ answerOf 4096 8 false base = .ok 4096
    ∧ answerOf 4096 64 false base = .ok 4096 ∧ answerOf 4097 8 false base = .fault .alignment
    ∧ answerOf (2 ^ 56) 64 false base = .fault .address ∧ base.core.mq.loads.length < Config.memQueueDepth ∧ topMask base ≠ 0
    ∧ topMask { base with core.regs.depth := 1, core.regs.stack := Vector.replicate 16 0 } = 0 := by decide +kernel

theorem test_meets_GlobalStores : mayIssue inLine ⟨[srcS 1, srcS 3], []⟩ base = true
    ∧ mayIssue inLine ⟨[srcS 1, srcS 2, srcS 3], []⟩ base = true ∧ mayIssue anywhere ⟨[srcS 1, srcV 3], []⟩ base = true
    ∧ mayIssue anywhere ⟨[srcS 1, srcS 2, srcV 3], []⟩ base = true ∧ answerOf 4096 8 true base = .ok 4096
    ∧ answerOf 4096 64 true base = .ok 4096 ∧ answerOf 4097 8 true base = .fault .alignment
    ∧ base.core.mq.stores.length < Config.memQueueDepth := by decide +kernel

theorem test_meets_GlobalAtomics : mayIssue anywhere ⟨[srcS 1 true, srcS 2], [.s 3]⟩ base = true
    ∧ mayIssue anywhere ⟨[srcS 1, srcS 2 true, srcS 3], []⟩ base = true ∧ answerOf 4096 8 true base = .ok 4096
    ∧ answerOf (2 ^ 20) 4 true base = .ok (2 ^ 20) ∧ ownClass base 4096 4096 = 0 ∧ ownClass base (2 ^ 20) (2 ^ 20) = 1
    ∧ answerOf 4097 8 true base = .fault .alignment := by decide +kernel

theorem test_meets_Reductions : mayIssue anywhere ⟨[srcS 1 true, srcV 30, srcV (30 + 1)], []⟩ base = true
    ∧ answerOf 4096 128 true base = .ok 4096 ∧ groupOf (ownLaunch base) 0 = some [(0, 1)]
    ∧ groupHas [(0, 1)] base.core.ord.toNat = true ∧ groupOf (ownLaunch base) 255 = none := by decide +kernel

/-- A region with all of its accesses. -/
def eightAccesses : State := { base with core.mq.region := some ⟨5, 0, 0, List.replicate 8 (.store 0 [])⟩ }

theorem test_meets_LineRegions : mayIssue { inMacro := false, endWord := false } ⟨[srcS 1 true], []⟩ base = true
    ∧ answerOf 0 128 true base = .ok 0 ∧ mayIssue inLine ⟨[srcS 1], [.s 3]⟩ inRegion = true ∧ inRegion.core.mq.region = some ⟨5, 0, 0, []⟩
    ∧ answerOf 120 8 false inRegion = .ok 120 ∧ mayIssue inLine ⟨[srcS 1, srcS 3], []⟩ inRegion = true ∧ answerOf 120 8 true inRegion = .ok 120
    ∧ ¬ (128 + 8 ≤ 0 + 128) ∧ mayIssue { inRegion := true, inMacro := false, endWord := false } {} inRegion = true
    ∧ inRegion.core.mq.stores = [] ∧ isRemote inRegion 0 = false ∧ gateOpen inLine eightAccesses = true
    ∧ eightAccesses.core.mq.region.map (fun g => g.accs.length) = some 8 := by decide +kernel

/-- A full store queue, a store, and an atomic whose result has not come. -/
def fullStores : State := { base with core.mq.stores := List.replicate Config.memQueueDepth ⟨1, .fenceRel, 0, 0, 0, 5⟩ }
def oneResult : State := { base with core.mq.results := [⟨1, 3, none⟩] }

theorem test_meets_FencesAndMark : mayIssue anywhere {} base = true ∧ mayIssue anywhere {} fullStores = true
    ∧ ¬ fullStores.core.mq.stores.length < Config.memQueueDepth ∧ resultsOut base = false ∧ resultsOut oneResult = true
    ∧ mayIssue anywhere {} oneResult = true ∧ (releasePush 5 base.core.mq.seq (issued base)).2 = .done
    ∧ resultsOut (releasePush 5 base.core.mq.seq (issued base)).1 = false
    ∧ (releasePush 5 base.core.mq.seq (issued base)).1.core.mq.redoOut = []
    ∧ scopeOpen (releasePush 5 base.core.mq.seq (issued base)).1 5 base.core.mq.seq = false := by decide +kernel

/-- Waiting at a barrier that all have reached. -/
def atBarrier : State :=
  { base with core.seq.barWait := [(0, 5)], sched.bars := [(1, false, 0, 0, 1), (1, false, 0, 1, 1)] }

theorem test_meets_SemaphoresGroupsBarriers : (mayIssue anywhere ⟨[srcS 1 true], []⟩ (withAB 3 0) = true
    ∧ (3 : DWord).toNat < (ownLaunch base).sems ∧ ¬ (4 : DWord).toNat < (ownLaunch base).sems
    ∧ (slotOf base 24).cmp = (slotOf base 24).iss ∧ mayIssue anywhere ⟨[srcS 1 true, srcS 2 true], [.s 3]⟩ (withAB 3 1) = true
    ∧ mayIssue anywhere ⟨[srcS 1, srcS 2], []⟩ (withAB 3 1) = true ∧ (semValue base 1 false 3 - 0).toNat < 2 ^ 31
    ∧ ¬ (semValue base 1 false 3 - 1).toNat < 2 ^ 31 ∧ mayIssue anywhere ⟨[], [.s 3]⟩ base = true ∧ resultsOut base = false)
    ∧ (groupOf (ownLaunch base) 0 = some [(0, 1)] ∧ groupHas [(0, 1)] base.core.ord.toNat = true ∧ mayIssue anywhere {} base = true
      ∧ barPending base 0 = none ∧ barPending atBarrier 0 = some 5 ∧ (5 : BitVec 3) ≠ 0 ∧ barSent atBarrier 0 = false
      ∧ barOpen atBarrier 0 [(0, 1)] = true ∧ mayIssue anywhere {} atBarrier = true ∧ resultsOut atBarrier = false)
    ∧ (groupOf (ownLaunch base) 255).all (fun r => !groupHas r base.core.ord.toNat) = true := by decide +kernel

/-- Target register 1 in each fetch state. -/
def target (f : FetchState) : State := { base with core.seq.tb := base.core.seq.tb.set 1 ⟨7, f⟩ }

theorem test_meets_Branches : mayIssue { inMacro := false, endWord := false } {} (target .ready) = true
    ∧ mayIssue { inMacro := false, endWord := false } ⟨[srcS 1 true], []⟩ (withAB 4095 0) = true
    ∧ mayIssue { inMacro := false, endWord := false } ⟨[], [.s 31]⟩ (target .ready) = true
    ∧ xor (readP base 0) false = true ∧ xor (readP base 0) true = false
    ∧ [FetchState.ready, .fetching, .idle, .faulted .fetchRange 5000].map (fun f => (vget (w := 3) (target f).core.seq.tb 1).state)
      = [.ready, .fetching, .idle, .faulted .fetchRange 5000] := by decide +kernel

theorem test_meets_Loops : mayIssue { inMacro := false, endWord := false } ⟨[srcS 1], []⟩ (withAB 3 0) = true
    ∧ (vget (w := 2) base.core.seq.loops 0).active = false ∧ base.core.seq.pc.toNat + 3583 < 3584 ∧ 3584 ≤ base.core.seq.pc.toNat + 3584
    ∧ (∀ i : BitVec 2, (vget base.core.seq.loops i).active = false) := by decide +kernel

/-- Loop level 2 open. -/
def inLoop : State := { base with core.seq.loops := base.core.seq.loops.set 2 ⟨4, 1, 9, true, 0⟩ }

theorem test_meets_LoopBreak : mayIssue { inMacro := false, endWord := false } {} inLoop = true
    ∧ (vget (w := 2) inLoop.core.seq.loops 2).active = true ∧ (vget (w := 2) inLoop.core.seq.loops 1).active = false := by decide +kernel

/-- Macro 1 of the control store: two words. -/
def inMacro : State :=
  { base with core.seq.ctrl := (base.core.seq.ctrl.set 32 0x48000000).set 33 0x48000000, core.seq.macroRun := true, core.sys.mstep := 0x8020 }

theorem test_meets_Macros : mayIssue { inMacro := false } ⟨[srcS 1], []⟩ base = true
    ∧ mayIssue { inMacro := false, endWord := false } {} { inMacro with core.seq.macroRun := false } = true
    ∧ macroWord inMacro 1 0 ≠ 0 ∧ macroWord inMacro 0 0 = 0 ∧ inMacro.core.seq.macroRun = true
    ∧ macroWord inMacro (inMacro.core.sys.mstep.toNat / 32 % 64) (inMacro.core.sys.mstep.toNat % 32 + 1) ≠ 0
    ∧ macroWord inMacro 1 2 = 0 := by decide +kernel

theorem test_meets_SystemRegisterReads : mayIssue anywhere ⟨[], [.s 3]⟩ base = true ∧ mayIssue anywhere ⟨[], [.s 3]⟩ inHandler = true
    ∧ (sysRead base 4).isSome = true ∧ sysRead base 0xFFF = none ∧ isTrapReg 0x21 = true ∧ (sysRead inHandler 0x21).isSome = true
    ∧ inHandler.core.seq.mode = .handler ∧ base.core.seq.mode = .program := by decide +kernel

/-- An irrevocable launch whose L1 holds an unpushed byte of a line that a ready launch has written. -/
def heldPush : State :=
  { base with
    core.mq.l1 := [⟨7, 0, 0, 1, 1, 1⟩]
    sched.launches := [launch1, { launch1 with id := 2, phase := .ready, halls := [(0, 2)] }]
    sched.halls := [⟨0, 1, .irrevocable, 1, 0, 0, 0⟩, ⟨0, 2, .ready, 2, 1, 0, 0⟩]
    homes.lines := [{ LineRec.fresh 7 with ways := [⟨.shadow, 2, false, 0, 0, 0, 0⟩] }] }

theorem test_meets_SystemRegisterWrites : (mayIssue anywhere ⟨[srcS 1], []⟩ (withAB 63 0) = true
    ∧ mayIssue anywhere ⟨[srcS 1], []⟩ inHandler = true ∧ (4 : DWord).toNat % 8 ≤ 4 ∧ (4 : DWord).toNat / 2 ^ 8 % 2 ^ 24 = 0
    ∧ 4 < (7 : DWord).toNat % 8 ∧ vectorsOut base = false ∧ vectorsOut (deliverLater (.vector 1 VReg.zero) base) = true)
    ∧ (enginesIdle base = true ∧ partwLegal Config.defaultPartw = true ∧ movesBuffer base Config.defaultPartw = false
      ∧ partwLegal 0 = false ∧ partwLegal 0x02040F02 = true ∧ movesBuffer base 0x02040F02 = false
      ∧ partCA 0x02040F02 ≠ partCA base.core.sys.partw ∧ (l1Flush (issued base)).2 = .done)
    ∧ ((l1Flush (issued heldPush)).2 = .held ∧ enginesIdle heldPush = true ∧ mayIssue anywhere ⟨[srcS 1], []⟩ heldPush = true
      ∧ movesBuffer heldPush 0x02040F02 = false ∧ partCA 0x02040F02 ≠ partCA heldPush.core.sys.partw)
    ∧ ((0x015 : BitVec 12).toNat = 0x012 + (3 : BitVec 2).toNat ∧ (2 ^ 32 : DWord).toNat = 2 ^ 32 ∧ (16 : DWord).toNat = 16
      ∧ (0x011 : BitVec 12).toNat = 0x00C + (5 : Fin 6).val ∧ (0x1F1F : DWord) &&& ~~~0x1F1F = 0 ∧ (0x20 : DWord) &&& ~~~0x1F1F ≠ 0
      ∧ ({ inHandler with core.eng.restoring := 0x3F } : State).core.eng.restoring.getLsbD 5 = true)
    ∧ ((sysRead inHandler 0x25).isSome = true ∧ sysLegal 0x25 5 = true ∧ sysLegal 0x024 5 = false
      ∧ inHandler.core.seq.mode = .handler ∧ base.core.seq.mode ≠ .handler) := by decide +kernel

/-- One overlay of two words; core in its load; a target register in flight. -/
def withOverlay : State := { base with core.seq.overlays := [⟨[0x48000000, 0x48000003], 0⟩] }
def loadingOverlay : State := { withOverlay with core.seq.run := .overlay 0 }

theorem test_meets_OverlaysAndExit : mayIssue { inMacro := false, endWord := false } ⟨[srcS 1 true], []⟩ withOverlay = true
    ∧ withOverlay.core.seq.pc.toNat < withOverlay.core.seq.ovb ∧ (∀ l ∈ withOverlay.core.seq.loops.toList, l.active = false)
    ∧ withOverlay.core.sys.mstep.getLsbD 15 = false ∧ (readS withOverlay 1).toNat < withOverlay.core.seq.overlays.length
    ∧ (∀ q : Fin 6, (trailerOf withOverlay).getLsbD q = true → (queueOf withOverlay q).head = (queueOf withOverlay q).tail)
    ∧ loadingOverlay.core.seq.run = .overlay 0 ∧ (loadingOverlay.core.seq.overlays[0]?).isSome = true ∧ loadingOverlay.core.seq.ovb ≤ 3584
    ∧ (targetOf (target .fetching) 1).state = .fetching
    ∧ (target .fetching).core.seq.badWords.contains (targetOf (target .fetching) 1).addr = false
    ∧ mayIssue { inMacro := false, endWord := false } {} base = true := by decide +kernel

theorem test_meets_WhereInstructionsMayStand : inRegion.core.mq.region.isSome = true ∧ acceptedInRegion (.vaddI32 1 2 3) = false
    ∧ inMacro.core.seq.macroRun = true ∧ barredFromMacros (.mstore 1 2 3) = true ∧ isEndWord { inLoop with core.seq.pc := 9 } 9 = true
    ∧ barredAtEnd .exit = true ∧ modeAsked .tret = some .handler ∧ base.core.seq.mode ≠ .handler
    ∧ modeAsked (.trap 0) = some .program ∧ inHandler.core.seq.mode ≠ .program := by decide +kernel

theorem test_meets_TrapEntry : (0x7F : DWord).getLsbD 7 = false ∧ base.core.seq.mode = .program ∧ inHandler.core.seq.mode = .handler
    ∧ crBit inHandler = false ∧ crBit { inHandler with core.sys.tstat := 0x80 } = true ∧ launch1 ∈ inHandler.sched.launches
    ∧ launchOf inHandler inHandler.core.launch = launch1 ∧ abortable launch1 = true := by decide +kernel

theorem test_meets_SoftwareTraps : gateOpen { inMacro := false, endWord := false, only := some .program } base = true
    ∧ base.core.mq.region = none ∧ (∀ l ∈ base.core.seq.loops.toList, l.active = true → l.stop ≠ base.core.sys.tvec)
    ∧ base.core.seq.macroRun = false ∧ (ownLaunch base).dbg = false ∧ base.core.sys.mstep.getLsbD 15 = false
    ∧ (ownLaunch { base with sched.launches := [{ launch1 with dbg := true }] }).dbg = true := by decide +kernel

/-- Returning into a macro: `MCALL 1` at TPC, ACT set at step 0. -/
def toMacro : State := { inHandler with
  core.seq.imem := inHandler.core.seq.imem.set 0 0x44000001, core.sys.mstep := 0x8020
  core.seq.ctrl := inMacro.core.seq.ctrl }

/-- A copy that a fault has stopped, seen from the handler. -/
def faulted : State :=
  setExec 5 (some { runningCmd false with stopped := true }) { inHandler with core.eng := (atHead 5 (command .copy #v[0, 64, 64, 0])).core.eng }

theorem test_meets_TrapReturn : gateOpen { inMacro := false, endWord := false, only := some .handler } toMacro = true
    ∧ toMacro.core.sys.mstep.getLsbD 15 = true ∧ inHandler.core.sys.mstep.getLsbD 15 = false
    ∧ (vget (w := 12) toMacro.core.seq.imem toMacro.core.sys.tpc).bits 25 7 = 0x22
    ∧ (vget (w := 12) toMacro.core.seq.imem toMacro.core.sys.tpc).bits 20 5 = 0 ∧ macroWord toMacro 1 1 ≠ 0 ∧ macroWord toMacro 1 2 = 0
    ∧ gateOpen { inMacro := false, endWord := false } base = true ∧ gateOpen { inMacro := false, endWord := false } inHandler = true
    ∧ base.core.regs.latent = [] ∧ enginesIdle base = true ∧ base.core.sys.fpflag.setWidth 5 &&& (base.core.sys.fpctl >>> 3).setWidth 5 = 0#5
    ∧ (1#6).setWidth 5 &&& ((8 : DWord) >>> 3).setWidth 5 ≠ 0#5
    ∧ (execOf faulted 5).map (fun r => (r.stopped, r.pager)) = some (true, none)
    ∧ gateOpen { inMacro := false, endWord := false, only := some .handler } faulted = true
    ∧ (∀ q : Fin 6, execOf inHandler q = none) := by decide +kernel

theorem test_meets_StatusResults : mayIssue { inMacro := false, endWord := false } ⟨[], [.s 3]⟩ base = true
    ∧ mayIssue anywhere ⟨[srcS 1 true], [.s 3]⟩ base = true ∧ (0x10 : DWord).toNat ≠ 0x10 / 256 % 256 * 256 + 0x10 / 128 % 2 * 128 + 0x10 % 16 := by
  decide +kernel

/-- At the model's time 0 no counter has reached 2^38 (log entry 6). -/
theorem counter_small (s : State) (id : CoreId) (h : s.now = 0) : (counterOf s id).toNat < 2 ^ 38 := by
  unfold counterOf fieldCounter trueOffset
  rw [h]
  simp only [dw, BitVec.ofNat_eq_ofNat, BitVec.toNat_add, BitVec.toNat_ofNat]
  omega

/-- Slot 0 has work that is not done; and the same seen by a `SLEEP` that captured its counter earlier. -/
def working : State := setSlot 0 { TokenSlot.start with iss := 2, cmp := 1 } (withAB 1 0)

theorem test_meets_SleepAndAbort : mayIssue { inMacro := false, endWord := false } ⟨[srcS 1 true], [.s 3]⟩ working = true
    ∧ working.core.seq.sleepCap = none ∧ (slotOf working 0).iss ≠ (slotOf working 0).cmp
    ∧ ((readS working 1).setWidth 31).getLsbD 0 = true ∧ (slotOf working 0).cmp ≠ (List.replicate 31 (0 : BitVec 16)).getD 0 0
    ∧ trapPends working = false ∧ trapPends { working with core.seq.gridStepFired := true } = true
    ∧ mayIssue { inMacro := false, endWord := false } ⟨[srcS 1 true], []⟩ base = true
    ∧ mayIssue { inMacro := false, endWord := false } ⟨[srcS 1 true], []⟩ (withAB (2 ^ 40) 0) = true
    ∧ readS base 1 = 0 ∧ (readS (withAB (2 ^ 40) 0) 1).toNat = 2 ^ 40 ∧ (ownLaunch base).phase ≠ .committing
    ∧ launch1 ∈ base.sched.launches ∧ launchOf base base.core.launch = launch1 ∧ abortable launch1 = true := by
  decide +kernel

/-- The counter of a field has reached the deadline 0, and at the model's time 0 it has not reached 2^40. -/
theorem test_meets_SleepAndAbort_deadline : (readS base 1).toNat ≤ (counterOf base base.core.id).toNat
    ∧ (counterOf (withAB (2 ^ 40) 0) 0).toNat < (readS (withAB (2 ^ 40) 0) 1).toNat := by
  constructor
  · rw [show readS base 1 = 0 by decide +kernel]; exact Nat.zero_le _
  · rw [show (readS (withAB (2 ^ 40) 0) 1).toNat = 2 ^ 40 by decide +kernel]
    exact Nat.lt_trans (counter_small _ 0 (by decide +kernel)) (by decide)

/-- Handle 0 open, its lease over or not. -/
def withLease (e : DWord) : State := setHandle 0 { Handle.closed with st := 2, leaseEnd := e } base

theorem test_meets_LinksAndHandles : mayIssue anywhere ⟨[srcS 1 true], []⟩ base = true ∧ mayIssue anywhere ⟨[srcS 1 true], [.s 3]⟩ base = true
    ∧ (linkRec base 5).power = .full ∧ (linkRec { base with net.links := [{ linkRec base 5 with power := .sleep }] } 5).power ≠ .full
    ∧ (linkRec { base with net.links := [{ linkRec base 5 with power := .sleep }] } 5).failed = false
    ∧ namedLinks base 0 = [] ∧ (namedLinks base 1).length = 2
    ∧ gateOpen anywhere base = true ∧ (handleOf base 0).st ≠ 2 ∧ (handleOf (withLease 0) 0).st = 2
    ∧ mayIssue anywhere ⟨[srcS 1 true], [.s 3]⟩ (withLease (2 ^ 40)) = true := by decide +kernel

theorem test_meets_LinksAndHandles_lease : (handleOf (expireLease 0 (issued base)) 0).st ≠ 2
    ∧ (handleOf (expireLease 0 (issued (withLease (2 ^ 40)))) 0).st = 2 := by
  constructor
  · unfold expireLease
    rw [if_neg (fun h => absurd h.1 (by decide +kernel))]
    decide +kernel
  · unfold expireLease
    rw [if_neg (fun h => Nat.not_le.mpr (Nat.lt_trans (counter_small _ _ (by decide +kernel)) (by decide +kernel)) h.2)]
    decide +kernel

/-- The conditions of issue of the vector instructions, at the last registers. -/
theorem test_meets_vector : mayIssue anywhere ⟨[srcV 31, srcV 30], [.v 31]⟩ base = true ∧ mayIssue anywhere ⟨[srcV 31], [.v 0]⟩ base = true
    ∧ mayIssue anywhere ⟨[srcV 31, srcV 30], [.q 7]⟩ base = true ∧ mayIssue anywhere ⟨[⟨.q 7, false⟩, ⟨.q 6, false⟩], [.q 0]⟩ base = true
    ∧ mayIssue anywhere ⟨[⟨.q 7, false⟩], [.q 1]⟩ base = true ∧ mayIssue anywhere ⟨[], [.q 1]⟩ base = true
    ∧ mayIssue anywhere ⟨[srcS 1], [.q 1]⟩ base = true ∧ mayIssue anywhere ⟨[⟨.q 7, false⟩], [.s 31]⟩ base = true
    ∧ mayIssue anywhere ⟨[srcS 1], [.v 1]⟩ base = true ∧ mayIssue anywhere ⟨[srcV 1], [.s 1]⟩ base = true
    ∧ (5 : BitVec 3).toNat < 6 ∧ (15 : BitVec 5).toNat < 16 := by decide +kernel

/-- A mask stack of depth 1, and a full one. -/
def masked (n : BitVec 5) : State := { base with core.regs.depth := n }

theorem test_meets_MaskStack : mayIssue anywhere ⟨[⟨.q 7, false⟩], []⟩ (masked 15) = true ∧ (masked 15).core.regs.depth.toNat < 16
    ∧ mayIssue anywhere ⟨[⟨.q 7, false⟩], []⟩ (masked 16) = true ∧ 16 ≤ (masked 16).core.regs.depth.toNat
    ∧ mayIssue anywhere {} (masked 1) = true ∧ mayIssue anywhere {} (masked 0) = true
    ∧ mayIssue { inMacro := false, endWord := false } {} base = true ∧ base.core.seq.pc.toNat + 3583 < 3584
    ∧ ¬ base.core.seq.pc.toNat + 3584 < 3584 := by decide +kernel


/-! ### Clauses that ask for more -/

/-- An open region that will load `s1`; one in another package with three loads of 8 bytes; one that is full of bytes. -/
def awaitsOne : State := { base with core.mq.region := some ⟨5, 0, 0, [.load 0 8 1 3]⟩ }
def remoteRegion (n : Nat) : State := { base with core.mq.region := some ⟨5, 0, 2 ^ 45, List.replicate n (.load (2 ^ 45) 8 1 3)⟩ }

theorem test_meets_more_scalar : 1 ≤ (2 : BitVec 5).toNat ∧ (28 : BitVec 5).toNat ≤ 28 ∧ RegRef.s 3 ≠ .s 0 ∧ RegRef.s 3 ≠ .q 0
    ∧ gateOpen inLine awaitsOne = true ∧ awaitsOne.core.mq.region = some ⟨5, 0, 0, [.load 0 8 1 3]⟩ ∧ (1 : BitVec 5) ≠ 0
    ∧ (6 : BitVec 3) ≠ 7 := by decide +kernel

theorem test_meets_more_memory : poolCheck (withAC 4097 64) 4097 64 true false = some (.alignment, 4097)
    ∧ poolCheck (withAC 4097 64) 4097 64 false true = some (.alignment, 4097)
    ∧ (acCheck (withAC 1 64) 1 true).isSome = true ∧ (acCheck (withAC 1 64) 1 false).isSome = true
    ∧ partAC (withAC 0 0).core.sys.partw * 2048 < (32768 : DWord).toNat + 64
    ∧ answerOf 4097 128 true base = .fault .alignment
    ∧ mayIssue { inMacro := false, endWord := false } ⟨[srcS 1 true], []⟩ (withAB 8 0) = true ∧ (readS (withAB 8 0) 1).toNat % 128 ≠ 0
    ∧ (readS (withAB 8 0) 1).toNat < 2 ^ 56 ∧ answerOf (2 ^ 56) 128 true base = .fault .address
    ∧ mayIssue inLine ⟨[srcS 1, srcS 2], [.s 3]⟩ inRegion = true ∧ mayIssue inLine ⟨[srcS 1, srcS 2, srcS 3], []⟩ inRegion = true
    ∧ mayIssue inLine ⟨[srcS 1], []⟩ inRegion = true ∧ mayIssue inLine ⟨[srcS 1, srcS 2], []⟩ inRegion = true
    ∧ mayIssue { inRegion := true, inMacro := false, endWord := false } {} (remoteRegion 3) = true
    ∧ isRemote (remoteRegion 3) (lineNo (2 ^ 45)) = true ∧ 16 < 8 + 8 + 8 ∧ isRemote (remoteRegion 2) (lineNo (2 ^ 45)) = true ∧ 8 + 8 ≤ 16
    ∧ (remoteRegion 3).core.mq.stores = [] := by decide +kernel

/-- A `SEMWAIT` of which a value has passed before; a slot of no semaphore. -/
def passedOnce : State := { withAB 3 1 with core.seq.semCap := some (3, 1, true) }

theorem test_meets_more_semaphores : mayIssue anywhere ⟨[srcS 1, srcS 2], []⟩ passedOnce = true
    ∧ passedOnce.core.seq.semCap.map (fun x => x.2.2) = some true ∧ ¬ (semValue passedOnce 1 false 3 - 1).toNat < 2 ^ 31
    ∧ resultsOut passedOnce = false ∧ mayIssue anywhere ⟨[srcS 1, srcS 2], []⟩ oneResult = true
    ∧ mayIssue anywhere ⟨[srcS 1 true], []⟩ (withAB 4 1) = true ∧ ¬ (readS (withAB 4 1) 1).toNat < (ownLaunch (withAB 4 1)).sems
    ∧ sIsEmpty (withAB 4 1) 2 = false ∧ groupOf (ownLaunch base) 255 = none := by decide +kernel

/-- At word 9: no level ends there; level 2 does, with more passes or on its last; levels 2 and 1 do, the later opened first. -/
def atWord9 (l1 l2 : LoopLevel) : State :=
  { base with core.seq.pc := 9, core.seq.loops := (base.core.seq.loops.set 1 l1).set 2 l2 }
def levelOff : LoopLevel := ⟨0, 0, 0, false, 0⟩
def levelAt (count : Word) (order : Nat) : LoopLevel := ⟨count, 1, 9, true, order⟩

theorem test_meets_more_loops : (atWord9 levelOff levelOff).core.seq.macroRun = false
    ∧ (∀ i : BitVec 2, (vget (atWord9 levelOff levelOff).core.seq.loops i).active = false)
    ∧ (∀ i : BitVec 2, ((vget (atWord9 levelOff (levelAt 4 0)).core.seq.loops i).active = true) ↔ i = 2)
    ∧ (vget (w := 2) (atWord9 levelOff (levelAt 4 0)).core.seq.loops 2).stop = (atWord9 levelOff (levelAt 4 0)).core.seq.pc
    ∧ 1 < (levelAt 4 0).count.toNat ∧ (levelAt 1 0).count.toNat ≤ 1
    ∧ (∀ i : BitVec 2, ((vget (atWord9 (levelAt 4 0) (levelAt 1 1)).core.seq.loops i).active = true) ↔ i = 2 ∨ i = 1)
    ∧ (levelAt 4 0).order < (levelAt 1 1).order
    ∧ (vget (w := 2) inLoop.core.seq.loops 2).active = true ∧ (vget (w := 2) inLoop.core.seq.loops 2).stop = 9
    ∧ inLoop.core.seq.pc.toNat + 9 < 3584 := by decide +kernel

/-- A core whose second member stands in another package. -/
def apart : State := { base with sched.launches := [{ launch1 with members := [⟨false, 0, 0, .running, 0⟩, ⟨false, 1, 16384, .running, 0⟩] }] }

theorem test_meets_more_system : (∃ q : Fin 6, (atHead 5 (command .copy #v[0, 64, 64, 0])).core.eng.queues[q].head
      ≠ (atHead 5 (command .copy #v[0, 64, 64, 0])).core.eng.queues[q].tail)
    ∧ gateOpen anywhere (atHead 5 (command .copy #v[0, 64, 64, 0])) = true ∧ gateOpen anywhere base = true
    ∧ base.core.eng.restoring.getLsbD 5 = false ∧ (0x011 : BitVec 12).toNat = 0x00C + 5
    ∧ (∀ q : Fin 6, base.core.eng.queues[q].head = base.core.eng.queues[q].tail) ∧ partwLegal 1 = false
    ∧ (0xFF : DWord) &&& ~~~0x1F1F ≠ 0 ∧ 0x016 < (0x017 : BitVec 12).toNat ∧ (0x017 : BitVec 12).toNat < 0x020
    ∧ 0x025 < (0x026 : BitVec 12).toNat
    ∧ crBit { inMacro with core.seq.mode := .handler, core.sys.tstat := 0x80 } = true
    ∧ (2 ^ 24 : DWord).getLsbD 24 = true ∧ (5 : DWord).getLsbD 24 = false ∧ (ownLaunch base).cores ≤ 5
    ∧ corePkg (ordPlace apart 1) ≠ corePkg apart.core.id ∧ corePkg (ordPlace base 1) = corePkg base.core.id := by decide +kernel
/-! ### Engine commands, grid and buffers -/

theorem test_meets_EngineCommands : mayIssue anywhere ⟨[srcS 28, srcS 29, srcS 30, srcS 31], []⟩ base = true
    ∧ (copySpec.rules base #v[4096, 8192, 64, 0]).bad = none ∧ (copySpec.rules base #v[4097, 8192, 64, 0]).bad = some 0
    ∧ (srunSpec.rules base #v[4096, 0, 0, 3]).bad = none ∧ (srunSpec.rules base #v[0, 0, 0, 16]).bad = some 3
    ∧ (gldcSpec.rules base #v[64, 0, 0, 1]).bad = none ∧ (gldcSpec.rules base #v[1, 0, 0, 0]).bad = some 0
    ∧ (ggoSpec.rules base #v[1, 8, 0, 0]).bad = none ∧ (ggoSpec.rules base #v[4, 0, 0, 0]).bad = some 0
    ∧ (gmmaSpec.rules base #v[0, 0, 0, 0]).bad = none ∧ (gmmaSpec.rules base #v[1, 0, 0, 0]).bad = some 0
    ∧ (copy2dSpec.rules base #v[0, 0, 0, 0]).bad = none ∧ (copy2dSpec.rules base #v[0, 0, 1, 0]).bad = some 2
    ∧ (sendSpec.rules base #v[0, 0, 8192, 0]).bad = none ∧ (sendSpec.rules base #v[0, 2 ^ 32, 4096, 0]).bad = some 1
    ∧ (lbindSpec.rules base #v[7, 3, 0, 0]).bad = none ∧ (lbindSpec.rules base #v[0x10000, 0, 0, 0]).bad = some 0
    ∧ (copenSpec.rules base #v[7, 0, 0, 0]).bad = none ∧ (copenSpec.rules base #v[8, 0, 0, 0]).bad = some 0
    ∧ (cstreamSpec.rules base #v[0, 0, 4, 0]).bad = none ∧ (cstreamSpec.rules base #v[0, 0, 2, 0]).bad = some 2 := by decide +kernel

theorem test_meets_EngineCommands_bank : (queueOf base 5).tail - (queueOf base 5).head ≠ 16 ∧ slotStall base 30 = false
    ∧ base.core.grid.shadowBank ≠ base.core.grid.activeBank ∧ queued base 4 = [] ∧ offending base 0 = none := by decide +kernel

/-- A bank whose cluster 0 of cell 0 holds a word with a reserved operation. -/
def badBank : State := { base with core.grid.banks := base.core.grid.banks.set 1 [(0, 0xFF), (1, 0xFF), (2, 0xFF), (3, 0xFF)] }

theorem test_meets_EngineCommands_offending : (offending badBank 1).isSome = true := by decide +kernel

/-- A cluster of zeros. -/
def Cluster.zero : Cluster := ⟨Vector.replicate 8 GVal.off, GVal.off⟩

/-- A `GGO` of bank 0 at step `k` of a trip of 4. -/
def gridAt (k : Nat) : GridRun :=
  ⟨0, 0, 4, 4, 0, 0, 0, ⟨Vector.replicate 256 Cluster.zero, Vector.replicate 64 (Vector.replicate 64 GVal.off), Vector.replicate 256 0, k⟩,
    none, 0, none, [], [], false, false⟩

/-- A grid at work. -/
def gridOn (k : Nat) : State :=
  let s := executing 4 (command .ggo #v[0, 4, 0, 0]) false
  { s with core.grid.run := some (gridAt k), core.grid.admitted := true }

/-- A `GMMA` of a 1 x 1 tile of K = 32 in BF16, with its one block computed or not. -/
def gmmaCmd : Command := command .gmma #v[4096, 8192, 0x200101, 0]
def gmmaAt (k : Nat) : GmmaRun := ⟨[], [], [0], k, 0, 0, [], false, false⟩
def gmmaOn (k : Nat) : State :=
  { executing 4 gmmaCmd false with core.sys.partw := 0x02040F02, core.grid.gmma := some (gmmaAt k), core.grid.admitted := true }

theorem test_meets_GridAndTokens : (1 : BitVec 2) ≠ base.core.grid.activeBank ∧ gridExecuting base = false
    ∧ gridExecuting (gridOn 1) = true ∧ (gridOn 1).core.grid.run.isSome = true
    ∧ mayIssue anywhere {} (gridOn 1) = true ∧ ({ base with core.grid.pq := [true] } : State).core.grid.pq = [true]
    ∧ base.core.grid.pq = [] ∧ (slotOf base 30).iss = (slotOf base 30).cmp
    ∧ 2 ^ 15 ≤ ((slotOf working 0).cmp - (slotOf working 0).iss).toNat ∧ nestBusy base 1 = false
    ∧ nestBusy (atHead 4 { command .ggo #v[1, 4, 0, 0] with bank := 1 }) 1 = true ∧ base.core.grid.feed.length < feedCap base
    ∧ mayIssue anywhere ⟨[⟨.v 1, true⟩], []⟩ base = true ∧ feedCap { base with core.grid.feed := List.replicate 8 0 } ≤ 8
    ∧ feedCap base ≤ (List.replicate 8 (0 : TokenData)).length
    ∧ gridExecuting (gmmaOn 1) = true ∧ (gmmaOn 1).core.grid.run = none ∧ (gmmaOn 1).core.grid.gmma = some (gmmaAt 1)
    ∧ mayIssue anywhere {} (gmmaOn 1) = true
    ∧ mayIssue anywhere ⟨[], [.v 3]⟩ base = true ∧ cellsWfFrom 0 none (vget (w := 2) base.core.grid.banks 1) = true := by decide +kernel

theorem test_meets_Buffers : mayIssue anywhere ⟨[srcS 1 true, srcS 2 true], []⟩ base = true
    ∧ bufdefCheck base 4 4096 64 = none ∧ bufdefCheck base 4 4096 (64 + 2 ^ 18) = none ∧ bufdefCheck (buffered .full) 4 4096 64 = some (.buffer, 4)
    ∧ (bufOf (buffered .full) 4).declared = true ∧ (bufOf (buffered .full) 4).state = .full ∧ (bufOf (buffered .empty) 4).state = .empty
    ∧ (bufOf base 4).declared = false ∧ (bufOf (buffered .draining) 4).state.code ≠ 2 ∧ mayIssue anywhere {} (buffered .full) = true := by
  decide +kernel

/-! ### Results, boundaries and engines -/

/-- Results on their way of each kind, and answered requests. -/
def arriving : State :=
  { base with
    core.regs.latent := [.scalar 31 5, .vector 31 VReg.zero, .mask 7 1]
    core.mq.loads := [⟨1, .scalar 31 0, 0, 0, 8, some [1, 2, 3, 4, 5, 6, 7, 8], true⟩, ⟨2, .vector 31 1, 0, 0, 64, some [], true⟩,
      ⟨3, .discard, 0, 0, 8, some [], true⟩]
    core.mq.results := [⟨4, 31, some 9⟩]
    core.mq.status := [.kstat 31 30]
    core.mq.gpops := [5]
    core.grid.outq := [7] }

theorem test_meets_ResultsArrive : arriving.core.regs.latent[0]? = some (.scalar 31 5) ∧ arriving.core.regs.latent[1]? = some (.vector 31 VReg.zero)
    ∧ arriving.core.regs.latent[2]? = some (.mask 7 1) ∧ (arriving.core.mq.loads[0]?.bind (fun l => l.data)).isSome = true
    ∧ arriving.core.mq.loads.map (fun l => l.dest) = [.scalar 31 0, .vector 31 1, .discard]
    ∧ arriving.core.mq.results[0]? = some ⟨4, 31, some 9⟩ ∧ arriving.core.mq.status[0]? = some (.kstat 31 30)
    ∧ arriving.core.mq.loads[0]?.isSome = true ∧ arriving.core.mq.status[1]? = none ∧ arriving.core.mq.gpops = [5] ∧ arriving.core.grid.outq = [7]
    ∧ launch1 ∈ arriving.sched.launches ∧ launch1.id = arriving.core.launch ∧ abortable launch1 = true := by decide +kernel

/-- What a boundary may find. -/
def atBoundary : State :=
  { base with
    core.eng.faults := [⟨4, 1, 64, 5⟩], core.eng.lateCopies := [3], core.seq.stepFired := true, core.seq.gridStepFired := true
    sched.semAdds := [(1, false, 2, 5)] }

/-- A `SLEEPT s1` at the program counter that waits, its deadline 0 reached. -/
def sleeping : State := { base with core.seq.wait := some .external, core.seq.imem := base.core.seq.imem.set 0 0xD2008004 }

/-- Handle 2 open with its lease over, on a circuit. -/
def leased : State :=
  { setHandle 2 { Handle.closed with st := 2 } base with
    net.circuits := [⟨9, 0, [], 0, 1, 2, 0, false, false, 0, 0, [], false⟩] }

/-- The core drained after `EXIT`, and beside it another core of the launch that still runs. -/
def exitedState : State := { base with core.seq.run := .exited }

/-- The same with a byte in its L1 that the home holds back. -/
def exitHeld : State := { heldPush with core.seq.run := .exited, core.sys.partw := 0x02040F02 }

theorem test_meets_BoundaryEvents : atBoundary.core.seq.mode = .program ∧ atBoundary.core.seq.run = .running
    ∧ atBoundary.core.eng.faults = ⟨4, 1, 64, 5⟩ :: [] ∧ atBoundary.core.eng.lateCopies = 3 :: [] ∧ atBoundary.core.seq.stepFired = true
    ∧ atBoundary.core.seq.gridStepFired = true ∧ atBoundary.sched.semAdds[0]? = some (1, false, 2, 5)
    ∧ sleeping.core.seq.wait = some .external ∧ sleeping.core.seq.macroRun = false ∧ wordAtPc sleeping = wordSleept 1 false
    ∧ mayIssue { inMacro := false, endWord := false } ⟨[srcS 1], []⟩ sleeping = true ∧ readS sleeping 1 = 0 ∧ sleeping.core.seq.run = .running
    ∧ (handleOf leased 2).st = 2 ∧ (handleOf leased 2).leaseEnd = 0 ∧ (handleOf (withLease 0) 0).leaseEnd = 0 ∧ ownCircuit (withLease 0) 0 = none
    ∧ drained exitHeld = true ∧ (exitPush exitHeld).2 = false
    ∧ (ownCircuit leased 2).map (fun c => (c.id, c.promoted)) = some (9, false) ∧ (circuitOf leased 9).isSome = true
    ∧ drained exitedState = true ∧ (exitPush exitedState).2 = true ∧ (1 : Nat) ≠ exitedState.core.ord.toNat
    ∧ ((launchOf exitedState 1).members.find? (fun m => m.ord.toNat == 1 && (m.state == .running || m.state == .exited)
      && m.place != exitedState.core.id)).isSome = true := by decide +kernel

/-- Stream 0 reads the feed queue; stream 1 writes the output queue. -/
def stream (write : Bool) : StreamRun := ⟨write, .queue, false, 0, 0, 0, Vector.replicate 6 0, Vector.replicate 6 1, 0, 4, 0, []⟩
def reading : State := setStream 0 (some (stream false)) { executing 0 (command .srun #v[0, 0, 0, 0]) false with core.grid.feed := [5] }
def writing : State :=
  setStream 1 (some (stream true)) { executing 1 (command .srun #v[0, 0, 0, 1]) false with core.eng.sinks := [⟨0, 0, 0, false⟩] }

/-- A copy from the pool to memory. -/
def toMemory : Command := command .copy #v[4096, 8192, 64, 1 <<< 2]

theorem test_meets_EnginesAtWork_commands : engineLive base = true
    ∧ queueHead (atHead 5 (command .copy #v[4096, 8192, 64, 0])) 5 = some (command .copy #v[4096, 8192, 64, 0])
    ∧ execOf (atHead 5 (command .copy #v[4096, 8192, 64, 0])) 5 = none
    ∧ waitsReached (atHead 5 (command .copy #v[4096, 8192, 64, 0])) (command .copy #v[4096, 8192, 64, 0]) = true
    ∧ commandHeld (atHead 5 (command .copy #v[4096, 8192, 64, 0])) 5 (command .copy #v[4096, 8192, 64, 0]) = false
    ∧ needsAdmission (command .copy #v[4096, 8192, 64, 0]) = false
    ∧ execOf (executing 5 (command .copy #v[4096, 8192, 64, 0]) true) 5 = some (runningCmd true)
    ∧ completionHeld (executing 5 (command .copy #v[4096, 8192, 64, 0]) true) 5 = false
    ∧ writeScope (executing 5 (command .copy #v[4096, 8192, 64, 0]) true) 5 (command .copy #v[4096, 8192, 64, 0]) = none
    ∧ writeScope (executing 5 toMemory true) 5 toMemory = some 5 ∧ (pushLayer 5 (executing 5 toMemory true)).2 = .done
    ∧ completionHeld (executing 5 toMemory true) 5 = false
    ∧ scopeOpen (pushLayer 5 (executing 5 toMemory true)).1 5 (pushLayer 5 (executing 5 toMemory true)).1.core.mq.seq = false
    ∧ needsAdmission (command .gldc #v[64, 0, 0, 0]) = false ∧ needsAdmission (command .ggo #v[0, 4, 0, 0]) = true
    ∧ (gridOn 1).core.grid.admitted = true := by decide +kernel

/-- Stream 2 reads the pool. -/
def poolStream : StreamRun := { stream false with space := .pool, base := 8192, strides := Vector.replicate 6 32 }
def readingPool : State := setStream 2 (some poolStream) (executing 2 (command .srun #v[0, 0, 0, 2]) false)

theorem test_meets_EnginesAtWork_streams : streamOf readingPool 2 = some poolStream ∧ execOf readingPool 2 = some (runningCmd false)
    ∧ (streamAddr poolStream 0).toNat % 32 = 0 ∧ (poolStream.space ≠ .queue)
    ∧ (match (engineRead 2 .pool (streamAddr poolStream 0) 32 readingPool).2 with
        | .ok _ w => w.isEmpty
        | .wait | .fault _ _ _ | .error => false) = true
    ∧ engineLive reading = true ∧ streamOf reading 0 = some (stream false)
    ∧ execOf reading 0 = some (runningCmd false) ∧ reading.core.grid.feed = 5 :: [] ∧ (stream false).ahead.length < 16
    ∧ (stream false).nextRead < (stream false).trip ∧ engineLive writing = true ∧ streamOf writing 1 = some (stream true)
    ∧ execOf writing 1 = some (runningCmd false) ∧ writing.core.eng.sinks = ⟨0, 0, 0, false⟩ :: []
    ∧ (commitToken (stream true) ⟨0, 0, 0, false⟩ writing).2 = .done := by decide +kernel

theorem test_meets_EnginesAtWork_grid : (gridOn 1).core.grid.run = some (gridAt 1) ∧ gridWorks (gridOn 1) = true ∧ (gridOn 1).core.eng.sinks = []
    ∧ (portToken (gridOn 1) (gridAt 1) false).map (fun x => x.isNone) = some true
    ∧ (portToken (gridOn 1) (gridAt 1) true).map (fun x => x.isNone) = some true
    ∧ (gridCompute (gridOn 1) (gridAt 1).st ⟨0, 1, 0, 4, 0, none, none⟩).sinks = []
    ∧ (gridCompute (gridOn 1) (gridAt 1).st ⟨0, 1, 0, 4, 0, none, none⟩).pq = none := by decide +kernel

theorem test_meets_EnginesAtWork_gmma : queueHead (gmmaOn 1) 4 = some gmmaCmd ∧ gridWorks (gmmaOn 1) = true
    ∧ retireDue gmmaCmd.params (gmmaAt 32) (gmmaOn 32) = true ∧ (gmmaAt 32).windows = []
    ∧ retireDue gmmaCmd.params (gmmaAt 0) (gmmaOn 0) = false ∧ isSaving (gmmaOn 0) = false
    ∧ isSaving { gmmaOn 0 with core.seq.run := .saving false } = true := by decide +kernel

/-- A core that waits internally with no command in any engine, its feed queue full; and with no queue full. -/
def stuck (full : Bool) : State :=
  { base with core.seq.wait := some .internal, core.grid.feed := if full then List.replicate 16 0 else [] }

/-- The output queue full, and the branch-outcome queue; a core that has left its program with a read of an empty feed queue. -/
def stuckOut : State := { stuck false with core.grid.outq := List.replicate 8 0 }
def stuckBits : State := { stuck false with core.grid.pq := List.replicate 256 false }
def stuckExited : State := { reading with core.seq.run := .exited, core.grid.feed := [] }

theorem test_meets_EnginesAtWork_stuck : isStuck (stuck true) = true ∧ grantsUsed (stuck true) < Config.reliefGrants
    ∧ grantTo (stuck true) = some 0 ∧ isStuck (stuck false) = true ∧ grantTo (stuck false) = none
    ∧ (stuck false).core.seq.run = .running ∧ (stuck false).core.seq.mode = .program
    ∧ isStuck stuckOut = true ∧ grantTo stuckOut = some 1 ∧ isStuck stuckBits = true ∧ grantTo stuckBits = some 2
    ∧ isStuck { stuck true with core.grid.feedGrants := 16 } = true
    ∧ ¬ grantsUsed { stuck true with core.grid.feedGrants := 16 } < Config.reliefGrants
    ∧ isStuck stuckExited = true ∧ stuckExited.core.seq.run = .exited ∧ grantTo stuckExited = none := by decide +kernel

/-- Copy data of core 1 for this core's pool, in the packet that brings it. -/
def remoteCopy (a : Nat) : RemotePool := ⟨true, 1, false, 1, 1, 0, a, [1, 2, 3, 4], 4, 0, 7, a, a + 4, a, 4, none, none⟩
def remoteAt (a : Nat) (s : State) : State := withPacket (packetKind 4) { s with net.remote := [remoteCopy a] }

theorem test_meets_EnginesAtWork_remote : (remoteAt 8192 base).net.remote[0]? = some (remoteCopy 8192) ∧ (remoteCopy 8192).retryAt = 0
    ∧ accessArrived (remoteAt 8192 base) (remoteCopy 8192) = true ∧ (remoteCopy 8192).label = none
    ∧ holderOf (remoteAt 8192 base) 1 false 0 = .own ∧ (placeRemote (some (remoteCopy 8192)) 8192 [1, 2, 3, 4] (remoteAt 8192 base)).2 = .ok []
    ∧ (placeRemote (some (remoteCopy 4096)) 4096 [1, 2, 3, 4] (remoteAt 4096 (buffered .full))).2 = .refused
    ∧ (placeRemote (some (remoteCopy 2)) 2 [1, 2, 3, 4] (remoteAt 2 base)).2 = .error
    ∧ holderOf (remoteAt 4096 (buffered .full)) 1 false 0 = .own ∧ holderOf (remoteAt 2 base) 1 false 0 = .own
    ∧ ((remoteAt 8192 base).net.packets.find? (fun p => p.id == 7)).isSome = true := by decide +kernel

/-! ### Clauses that ask for more -/

/-- A `GMMA` at work whose descriptors have not come; one whose rows have all retired. -/
def gmmaUnread : State := executing 4 gmmaCmd false
def gmmaRetired : State := setSrp 0 1 true (setSrp 1 1 true (gmmaOn 2))

theorem test_meets_more_grid : gridExecuting gmmaUnread = true ∧ gmmaUnread.core.grid.run = none ∧ gmmaUnread.core.grid.gmma = none
    ∧ execOf gmmaUnread 4 = some (runningCmd false) ∧ mayIssue anywhere {} gmmaUnread = true
    ∧ retireDue gmmaCmd.params (gmmaAt 2) gmmaRetired = false ∧ gmmaBlocks gmmaCmd.params ≤ (gmmaAt 2).nextBlock
    ∧ gridWorks gmmaRetired = true ∧ gmmaRetired.core.grid.gmma = some (gmmaAt 2) ∧ queueHead gmmaRetired 4 = some gmmaCmd
    ∧ (gmmaAt 0).nextBlock < gmmaBlocks gmmaCmd.params ∧ retireDue gmmaCmd.params (gmmaAt 0) (gmmaOn 0) = false := by decide +kernel

/-- A descriptor with its base at pool byte 4096, and the rows of an operand there, all read. -/
def desc4096 : List Byte := leBytes 64 4096
def gmmaReads : State := { gmmaOn 0 with core.grid.gmma := some { gmmaAt 0 with descA := desc4096, descB := desc4096 } }
noncomputable def rowsRead (fmt : Nat) (d : List Byte) (n : Nat) (s : State) : Option Nat :=
  match (operandRows fmt (gmmaKb gmmaCmd.params) d (gmmaScl gmmaCmd.params) false 0 (List.range n) s ⟨[], [], 0⟩).2 with
  | .inr a => some a.rows.length
  | .inl _ => none

/-- What an engine read answers: whether it has its bytes, and none of them in a window not checked. -/
def readPlain (r : EngRes) : Bool :=
  match r with
  | .ok _ w => w.isEmpty
  | .wait | .fault _ _ _ | .error => false

theorem test_meets_more_gmma : rowsRead (gmmaFa gmmaCmd.params) desc4096 (gmmaM gmmaCmd.params) (restarted 4 gmmaReads) = some 1
    ∧ rowsRead (gmmaFb gmmaCmd.params) desc4096 (gmmaN gmmaCmd.params) (restarted 4 gmmaReads) = some 1
    ∧ gridWorks gmmaReads = true ∧ queueHead gmmaReads 4 = some gmmaCmd ∧ gmmaReads.core.grid.gmma.map (fun g => (g.descA, g.descB)) = some (desc4096, desc4096)
    ∧ descField desc4096 0x2C 4 / 64 % 2 = 0 ∧ descField desc4096 0 8 = 4096 ∧ (4096 : DWord).getLsbD 0 = false ∧ spaceOf (descField desc4096 0x30 4) = .pool
    ∧ readPlain (engineRead 4 .pool 4096 (blockBytes 0) gmmaReads).2 = true := by decide +kernel

theorem test_meets_more_events : ({ atBoundary with core.seq.semCap := some (2, 1, false) } : State).core.seq.semCap = some (2, 1, false)
    ∧ atBoundary.core.seq.semCap = none ∧ atBoundary.net.circuits = []
    ∧ (loadValue 2 [1, 2, 3, 4]) = 0x04030201 ∧ [(1 : Byte), 2, 3, 4].length = 2 ^ ((2 : BitVec 3).toNat % 4) := by decide +kernel

/-- Copies of this core: between spaces, to and from core 1. -/
def copyOf (ssp dsp : Nat) : Command := command .copy #v[4096, 8192, 64, dw (ssp + dsp * 4 + 2 ^ 34)]
def copying (ssp dsp : Nat) : State := executing 5 (copyOf ssp dsp) false
def copyBack : State := { copying 2 0 with net.remote := [{ ownRemote (copying 2 0) (copyOf 2 0) 1 4096 with write := false, data := [1], len := 1 }] }

theorem test_meets_more_commands : readPlain (engineRead 4 .pool 4096 128 (restarted 4 (executing 4 (command .gldc #v[4096, 0, 0, 0]) false))).2 = true
    ∧ copyBytes (copyOf 0 1) ≠ 0 ∧ pieceOnRing (copying 0 1) 1 = false ∧ pieceOut (copying 2 0) 1 = none
    ∧ copySsp (copyOf 2 0).params = 2 ∧ copyDsp (copyOf 0 2).params = 2 ∧ copyOrd (copyOf 0 2).params = 1
    ∧ corePkg (ordPlace (copying 2 0) 1) = corePkg (copying 2 0).core.id ∧ corePkg (ordPlace (copying 0 2) 1) = corePkg (copying 0 2).core.id
    ∧ readPlain (copyRead 0 4096 64 (copying 0 0)).2 = true ∧ readPlain (copyRead 1 4096 64 (copying 1 0)).2 = true
    ∧ (pieceOut copyBack 1).map (fun e => (e.write, e.data, e.len)) = some (false, [1], 1)
    ∧ (engineOwnWrite 8192 (List.replicate 64 0) (copying 0 0)).2 = .done
    ∧ (engineGlobalWrite 8192 (List.replicate 64 0) (storeScope (copying 0 1) (cmdPsc (copyOf 0 1))) (copying 0 1)).2 = .done := by
  decide +kernel

/-- A `SEND` to core 1, label operations, a `COPEN` to this core's own label, and a `CSTREAM` of this core. -/
def sendTo : Command := command .sendCmd #v[4096, 0, 64, 5 + 2 ^ 16]
def lbindOf (op : DWord) : Command := command .lbind #v[5, 4, 0, op]
def lbindOn (op : DWord) (recv : List (BitVec 16 × BitVec 5)) (send : List (BitVec 16 × Word)) : State :=
  let s := executing 5 (lbindOf op) false
  setBuf 4 ⟨true, 4096, 128, .empty, false, 0, 0⟩ { s with core.port.recvLabels := recv, core.port.sendLabels := send }
def copenOwn : Command := command .copen #v[2, 5 * 2 ^ 24, 100, 0]
def copenOn : State := { executing 5 copenOwn false with core.port.recvLabels := [(5, 4)] }
def cstreamOf : Command := command .cstream #v[4096, 2, 8192, 0]
def cstreamOn : State :=
  { executing 5 cstreamOf false with net.circuits := [⟨9, 0, [], 0, 1, 2, 5, false, false, 0, 0, [], false⟩] }

theorem test_meets_more_sends : sendTo.params[0].toNat < 2 ^ 17 ∧ readPlain (checkedRead 5 4096 (sendLen sendTo) (executing 5 sendTo false)).2 = true
    ∧ flowEntry (checkedRead 5 4096 (sendLen sendTo) (executing 5 sendTo false)).1 sendTo = none
    ∧ [0, 1, 2, 3].map (fun k => field (lbindOf k).params[3] 0 2) = [(0 : BitVec 2), 1, 2, 3]
    ∧ (bufOf (lbindOn 0 [] []) 4).declared = true ∧ (lbindOn 0 [] []).core.port.recvLabels.length < 64
    ∧ (lbindOn 2 [(5, 4)] []).core.port.recvLabels.any (fun x => x.1 == 5) = true ∧ labelPackets (lbindOn 2 [(5, 4)] []) 5 = false
    ∧ (lbindOn 3 [] [(5, 1)]).core.port.sendLabels.any (fun x => x.1 == 5) = true
    ∧ (labelBound 0 5 copenOn).2 = true ∧ 1 ≤ copenOwn.params[2].toNat ∧ copenOwn.params[2].toNat ≤ 2 ^ 24
    ∧ field copenOwn.params[0] 0 3 = (2 : BitVec 3) ∧ field copenOwn.params[1] 0 24 = (0 : BitVec 24) ∧ field copenOwn.params[1] 24 16 = (5 : BitVec 16)
    ∧ (handleOf copenOn 2).st = 0 ∧ corePkg (ordPlace (labelBound 0 5 copenOn).1 0) = corePkg (labelBound 0 5 copenOn).1.core.id
    ∧ (ownCircuit cstreamOn (field cstreamOf.params[1] 0 3)).map (fun x => (dueWindow cstreamOn x, x.tx)) = some (none, [])
    ∧ streamLen cstreamOf = 8192 ∧ readPlain (checkedRead 5 4096 4096 cstreamOn).2 = true := by decide +kernel

/-! ### Homes, the host and errors -/

/-- A near address of home memory (R228), and its line. -/
def escPa : Nat := 2 ^ 43 + 2 ^ 21
def escLine : Nat := lineNo escPa

/-- A request of core 1 of launch 1 for an escape line: by its near address. -/
def reqOf (op : HomeOp) : HomeReq := ⟨1, 1, false, 1, 1, escPa, op, none⟩
def asked (op : HomeOp) : State := { base with homes.queue := [reqOf op] }
def paired : State :=
  { asked (.write (.red .f32 0 0 0)) with sched.launches := [{ launch1 with pair := 1 }] }

/-- Whether a line has no committed way, no other cached copy unpushed, and no poison. -/
def plainLine (u : State) (line : Nat) : Bool :=
  (lineRec u line).versions.all (fun w => decide (w.kind ≠ .committed)) && (dropCopies line u).2.isEmpty && (lineRec u line).poison == 0

/-- A load of this core and, where asked, a store of some of its bytes before it; a `REDO` refused at time 0, 1 us ago; hub lines. -/
def loading (cells : List Host.Cell) : State :=
  { base with
    core.mq.loads := [⟨2, .scalar 1 0, 0, 64, 4, none, false⟩]
    core.mq.stores := if cells.isEmpty then [] else [⟨1, .write cells, 0, 64, cells.length, 0⟩] }
def refused : State :=
  { base with now := 1000, homes.queue := [{ reqOf (.write (.redo .i32 0 0 0)) with refusedAt := some 0 }] }
def hubbed (line : Nat) : State := { base with homes.hubs := [⟨0, line, 1, false, 1, 0, [⟨0, 1, 1⟩]⟩] }

/-- A physical address in the host's window (R228). -/
def hostPa : Nat := 6 * 2 ^ 42

theorem test_meets_HomesApply_writes : Memory.wf base.homes.mem = true
    ∧ (asked (.write (.write [(escPa, 7)]))).homes.queue[0]? = some (reqOf (.write (.write [(escPa, 7)])))
    ∧ plainLine (asked (.write (.write [(escPa, 7)]))) (escLine) = true
    ∧ writerLive (asked (.write (.write [(escPa, 7)]))) 1 (linePkg (escLine)) = true
    ∧ plainLine (asked (.write (.atomic 0 false 1 0 3))) (escLine) = true ∧ launch1.pair = 0
    ∧ regionMask [.store (escPa) [1, 2, 3, 4]] ≠ 0 ∧ groupOf launch1 0 = some [(0, 1)] ∧ groupRank [(0, 1)] 1 = 1
    ∧ groupSize [(0, 1)] = 2
    ∧ (roundOf { asked (.write (.redo .i32 0 0 0)) with homes.rounds := [⟨1, false, escLine, 0, 0, 1, []⟩] } ⟨1, 1, false, 1, 1⟩ (escLine) 0).next = 1
    ∧ (roundOf { asked (.write (.redo .i32 0 0 0)) with homes.rounds := [⟨1, false, escLine, 0, 0, 1, []⟩] } ⟨1, 1, false, 1, 1⟩ (escLine) 0).held = []
    ∧ (launchOf paired 1).pair ≠ 0 ∧ paired.homes.queue[0]? = some (reqOf (.write (.red .f32 0 0 0)))
    ∧ spillUsed paired (escLine) < spillSlots ∧ writerLive paired 1 (linePkg (escLine)) = true
    ∧ regionMask [.load (escPa) 8 3 0] = 0 ∧ readStalls (asked (.write (.region [.load (escPa) 8 3 0]))) 1 (escLine) = false
    ∧ plainLine (asked (.write (.region [.load (escPa) 8 3 0]))) (escLine) = true := by decide +kernel

/-- A load that nothing holds back, with what older stores hold of it. -/
def mayRead (u : State) : Option (Option (Option (List Byte))) :=
  u.core.mq.loads[0]?.bind (fun l =>
    if l.dest ≠ .mark ∧ l.data = none ∧ behindMark u l = false ∧ behindLoads u l = false ∧ behindApplied u l = false then some (forward u l)
    else none)

theorem test_meets_HomesApply_reads : readStalls (asked (.read 8)) 1 (escLine) = false ∧ plainLine (asked (.read 8)) (escLine) = true
    ∧ mayRead (loading [(64, 1), (65, 2), (66, 3), (67, 4)]) = some (some (some [1, 2, 3, 4]))
    ∧ mayRead (loading [(64, 1)]) = some (some none) ∧ mayRead (loading []) = some none
    ∧ (match (readOwn 0 (lineNo 64) (lineOff 64) 4 4 2 (loading [])).2 with
        | .bytes bs => bs.length
        | .wait | .poison => 0) = 4
    ∧ refused.homes.queue.map (fun r => r.refusedAt) = [some 0] ∧ 1000 ≤ (refused.now - 0).toNat
    ∧ ((hubbed (escLine)).homes.hubs.find? (fun h => h.hub.toNat == 0)).isSome = true ∧ linePkg (escLine) = (0 : BitVec 13).extractLsb' 6 7
    ∧ isHostPa (lineNo hostPa * 128) = true ∧ ((hubbed (lineNo hostPa)).homes.hubs.find? (fun h => h.hub.toNat == 0)).isSome = true
    ∧ plainLine (noteCxl 0 (lineNo hostPa) 0 base) (lineNo hostPa) = true
    ∧ writerLive (hubbed (lineNo hostPa)) 1 (linePkg (lineNo hostPa)) = true
    ∧ plainLine base (escLine) = true ∧ writerLive (hubbed (escLine)) 1 (linePkg (escLine)) = true
    ∧ hallOf (asked (.read 8)) 1 (linePkg (escLine)) = none
    ∧ (hallOf { asked (.read 8) with sched.halls := [⟨0, 1, .running, 1, 0, 0, 0⟩] } 1 (linePkg (escLine))).isSome = true := by
  decide +kernel

/-- A line with a prior. -/
def withPrior : State := { base with homes.lines := [{ LineRec.fresh (lineNo 640) with ways := [⟨.prior, 0, false, 0, 1, 0, 0⟩] }] }

theorem test_meets_HostAndErrors : paCls 4096 ≤ 3 ∧ hostPa < 2 ^ 52 ∧ paCls hostPa = 6 ∧ paCls (4 * 2 ^ 42) = 4 ∧ paCls (7 * 2 ^ 42) = 7
    ∧ readStalls base 0 (lineNo 4096) = false ∧ (lineSpans 256 4000 256).all (fun x => !readStalls base 0 (lineNo x.1)) = true
    ∧ 7 ≤ base.health.bootStep ∧ base.homes.hubs = [] ∧ base.homes.layers = [] ∧ (dropCopies (lineNo hostPa) base).2 = []
    ∧ lineOff hostPa + 8 ≤ 128 ∧ isHostPa (lineNo hostPa * 128) = true
    ∧ lineClass base (lineNo 4096) ≠ 1 ∧ base.sched.halls = [] ∧ writerLive base 0 (linePkg (lineNo 4096)) = true
    ∧ (dropCopies (lineNo 4096) base).2 = [] ∧ (lineRec base (lineNo 4096)).versions = [] ∧ Memory.wf base.homes.mem = true
    ∧ (hubbed (lineNo hostPa)).homes.hubs.filter (fun h => h.line == lineNo hostPa) = [⟨0, lineNo hostPa, 1, false, 1, 0, [⟨0, 1, 1⟩]⟩]
    ∧ (lineRec { base with homes.lines := [{ lineRec base 5 with backInv := true }] } 5).backInv = true
    ∧ (translate 4096 false base).2 = .ok 4096 ∧ (launchOf base 1).phase = .bound ∧ (launchOf base 1).decided = false
    ∧ (launchOf { base with sched.launches := [{ launch1 with phase := .committed }] } 1).phase ≠ .bound
    ∧ (let l := launchOf { base with sched.launches := [{ launch1 with phase := .ready, pair := 1 }] } 1
       l.pair ≠ 0 ∧ l.phase = .ready ∧ l.pairEqual = false ∧ l.decided = false)
    ∧ ((lineRec withPrior (lineNo 640)).versions.filter (fun w => w.kind == .prior))[0]? = some ⟨.prior, 0, false, 0, 1, 0, 0⟩
    ∧ (ownLaunch base).phase = .bound
    ∧ (hallEntry { base with sched.halls := [⟨0, 1, .running, 1, 0, 0, 0⟩] } 0 1).isSome = true := by decide +kernel

/-! ### Clauses that ask for more -/

/-- A live version, and a line of the same die whose ways fill its SRAM: with `n` versions more than one. -/
def liveWay : Way := ⟨.shadow, 1, false, 0, 0, 0, 0⟩
def crammed (n : Nat) : State :=
  { base with
    sched.halls := [⟨0, 1, .running, 1, 0, 0, 0⟩]
    homes.lines := [{ LineRec.fresh escLine with ways := [liveWay] }, { LineRec.fresh (escLine + 1) with ways := List.replicate (n + 1) liveWay }] }

theorem crammed_place : linePkg (escLine + 1) = linePkg escLine ∧ (homeOf ((escLine + 1) * 128)).1 = (homeOf (escLine * 128)).1
    ∧ escLine + 1 ≠ escLine := by decide +kernel

theorem crammed_used (n : Nat) : 128 * n ≤ sramUsed (crammed n) escLine := by
  have h := crammed_place
  unfold sramUsed
  simp only [crammed, List.filter_cons, LineRec.fresh, h.1, h.2.1, beq_self_eq_true, List.replicate_succ, List.isEmpty_cons, Bool.not_false,
    Bool.and_self, if_true, List.filter_nil, List.foldl_cons, List.foldl_nil, List.length_cons, List.length_replicate]
  omega

theorem crammed_reclaim (n : Nat) : reclaim (crammed n) (lineRec (crammed n) escLine) = lineRec (crammed n) escLine := by
  have h : reclaim (crammed 0) (lineRec (crammed 0) escLine) = lineRec (crammed 0) escLine := by decide +kernel
  have e : lineRec (crammed n) escLine = lineRec (crammed 0) escLine := by simp [lineRec, crammed, LineRec.fresh]
  rw [e]
  exact h

theorem test_meets_HomesApply_evicts (n : Nat) (hn : 2 ^ 22 ≤ n) : foldLine escLine (crammed n) = crammed n
    ∧ sramFull (crammed n) escLine = true ∧ (crammed n).homes.lines.any (fun x => x.line == escLine) = true
    ∧ (reclaim (crammed n) (lineRec (crammed n) escLine)).ways = [liveWay]
    ∧ spillUsed (setLineRec (reclaim (crammed n) (lineRec (crammed n) escLine)) (crammed n)) escLine + 1 ≤ spillSlots := by
  have e : lineRec (crammed n) escLine = { LineRec.fresh escLine with ways := [liveWay] } := by simp [lineRec, crammed, LineRec.fresh]
  rw [crammed_reclaim, e]
  refine ⟨?_, ?_, by simp [crammed, LineRec.fresh], rfl, ?_⟩
  · simp [foldLine, e, LineRec.versions, LineRec.fresh, liveWay]
  · have := crammed_used n
    exact decide_eq_true (by unfold sramBytes; omega)
  · have h := crammed_place
    have z : spillUsed (setLineRec { LineRec.fresh escLine with ways := [liveWay] } (crammed n)) escLine = 0 := by
      simp [spillUsed, setLineRec, crammed, LineRec.fresh, h.1, h.2.1, base, State.reset]
    rw [z]
    decide

/-- A packet under way; the pool of the modelled core and of core 1, with three errors before; a launch that has ended. -/
def underWay : State := withPacket { packetKind 2 with ejected := 0 } base
def poolHit (n : Nat) : State := { base with now := 100, health.poolErrors := List.replicate n (0, 5) }
def endedLaunch : State := { base with sched.launches := [{ launch1 with phase := .committed }] }

theorem test_meets_more_errors : heldBytes (hubbed escLine) 0 1 escLine = false
    ∧ (packetOf underWay 7).map arrived = some false ∧ (packetOf (withPacket (packetKind 2) base) 7).map arrived = some true
    ∧ (launchOf (poolHit 2) 1).phase = .bound ∧ (launchOf (poolHit 2) 1).decided = false ∧ (poolHit 2).core.launch = 1
    ∧ ((poolHit 2).health.poolErrors.filter (fun x => decide (((poolHit 2).now - x.2).toNat < 1000000000))).length < 3
    ∧ 3 ≤ ((poolHit 3).health.poolErrors.filter (fun x => decide (((poolHit 3).now - x.2).toNat < 1000000000))).length
    ∧ (slotRec (poolHit 3) 1).launch ≠ 1 ∧ (launchOf (poolHit 3) (slotRec (poolHit 3) 1).launch).decided = false
    ∧ (launchOf endedLaunch 1).phase ≠ .bound ∧ (gridOn 1).core.grid.run = some (gridAt 1) := by decide +kernel

/-! ### Device registers and power regions -/

/-- Region 1 of the package as a test needs it. -/
def withRegion (p : PowerRegion) (s : State) : State := setRegionRec 1 p s

/-- Region 1 in a stretch whose supply came back at a counter value, with a step decided in a window, a hold that has run out, and a
number of alarms of the last 1 ms. -/
def drooping (back window : DWord) (alarms : Nat) : State :=
  withRegion { regionRec base 1 with
    str := true, recovered := some back, nextStep := some (1, window), holds := [1000], limit := 800
    alarms := List.replicate alarms 2 } { base with now := 2 ^ 20 }

/-- A `GGO` that waits to be admitted in region 0, the limit 100 A; what the window has taken so far. -/
def awaiting (window : DWord) (charged : Nat) : State :=
  setRegionRec 0 { regionRec base 0 with limit := 800, window := window, charged := charged }
    { executing 4 (command .ggo #v[0, 4, 0, 0]) false with core.grid.readyAt := some 0 }

theorem test_meets_DeviceAndPower : qcfgLegal 0x84 = true ∧ qcfgLegal 0x83 = false
    ∧ ({ base with sched.host.lock := true } : State).sched.host.lock = true ∧ base.sched.host.lock = false
    ∧ State.reset.health.bootStep = 0 ∧ 7 < ({ State.reset with health.bootStep := 7 } : State).health.bootStep + 1
    ∧ (regionRec (drooping 0 9 0) 1).nextStep = some (1, 9) ∧ (regionRec (drooping 0 9 0) 1).str = true
    ∧ (regionRec (drooping 0 9 0) 1).recovered = some 0
    ∧ (regionRec (drooping 0 9 0) 1).holds.find? (fun t => decide (t.toNat ≤ (drooping 0 9 0).now.toNat)) = some 1000
    ∧ ((regionRec (drooping 0 9 2) 1).alarms.filter (fun t => decide (((drooping 0 9 2).now - t).toNat < 1000000))).length < 3
    ∧ (regionRec (withRegion { regionRec base 1 with str := true } base) 1).recovered = none ∧ (regionRec base 1).str = false
    ∧ (regionRec base 1).off = false ∧ 16 * 115 ≤ hottest #v[0, 1840, 0, 0] ∧ 16 * 105 ≤ hottest #v[1700, 0, 0, 0]
    ∧ hottest #v[1700, 0, 0, 0] < 16 * 115 := by decide +kernel

/-- Three alarms of the last 1 ms. -/
theorem test_meets_DeviceAndPower_alarms : let s : State := { drooping 0 9 3 with now := 3 }
    3 ≤ ((regionRec s 1).alarms.filter (fun t => decide ((s.now - t).toNat < 1000000))).length := by decide +kernel

/-- A region's counter is less than 2^38 ns ahead of the model's clock (log entry 6). -/
theorem window_between (s : State) (r : BitVec 4) (h : s.now = 2 ^ 20) :
    2 ^ 20 / 200 ≤ (powerWindow s r).toNat ∧ (powerWindow s r).toNat < 2 ^ 39 := by
  unfold powerWindow regionCounter fieldCounter trueOffset
  rw [h]
  simp only [dw, BitVec.toNat_add, BitVec.toNat_ofNat, show (2 ^ 20 : DWord).toNat = 2 ^ 20 by decide]
  omega

/-- A stretch of which 1 us has gone since the supply came back, and one of which it has not; a step decided in another window, and in
this one. -/
theorem test_meets_DeviceAndPower_stretch (r : BitVec 4) :
    ((0 : DWord).toNat + 1000 + 199) / 200 ≤ (powerWindow (drooping 0 9 0) r).toNat
    ∧ (powerWindow (drooping (2 ^ 48) 9 0) r).toNat < ((2 ^ 48 : DWord).toNat + 1000 + 199) / 200
    ∧ (9 : DWord) ≠ powerWindow (drooping 0 9 0) r
    ∧ ∃ w, (regionRec (drooping 0 w 0) 1).nextStep = some (1, w) ∧ w = powerWindow (drooping 0 w 0) r := by
  have h := window_between (drooping 0 9 0) r rfl
  have h' := window_between (drooping (2 ^ 48) 9 0) r rfl
  refine ⟨Nat.le_trans (by decide) h.1, Nat.lt_trans h'.2 (by decide), fun e => ?_, powerWindow (drooping 0 9 0) r, rfl, rfl⟩
  rw [← e] at h
  exact absurd h.1 (by decide)

/-- The supply is nominal or it is not, whatever the calibration of the region says, which is at least 650 mV and below 2^15 mV. -/
theorem test_meets_DeviceAndPower_droop : 100 * (0 : BitVec 16).toNat < 92 * nominal 1 ∧ 92 * nominal 1 ≤ 100 * (0xFFFF : BitVec 16).toNat := by
  unfold nominal
  have := (Config.nominalSupply 1).isLt
  constructor
  · simp
  · simp
    omega

theorem test_meets_DeviceAndPower_admission : (regionRec (awaiting 0 0) 0).str = false ∧ (regionRec (awaiting 0 0) 0).off = false
    ∧ (awaiting 0 0).core.grid.readyAt = some 0 ∧ (awaiting 0 0).core.grid.admitted = false
    ∧ (queueHead (awaiting 0 0) 4).map needsAdmission = some true ∧ coreRegion (awaiting 0 0).core.id = 0
    ∧ (regionRec (awaiting 0 0) 0).ready = [] ∧ (regionRec (awaiting 0 0) 0).charged = 0
    ∧ gridCharge (command .ggo #v[0, 4, 0, 0]) ≤ (regionRec (awaiting 0 0) 0).limit.toNat
    ∧ 0 < gridCharge (command .ggo #v[0, 4, 0, 0]) := by decide +kernel

/-- A window that has taken all of its limit. -/
theorem test_meets_DeviceAndPower_full : ∃ w, let s := awaiting w 800
    (regionRec s 0).window = powerWindow s 0 ∧ (regionRec s 0).charged = 800 ∧ (regionRec s 0).limit.toNat = 800 :=
  ⟨powerWindow base 0, rfl, by decide +kernel, by decide +kernel⟩

/-! ### Launches and cores under the scheduler -/

/-- A queue of 16 entries at 0x2000 whose first entry names a record at 0x1000, of one core, with an image at 0x10000 (R312, R316, R319). -/
def submitted : State :=
  let s : State := { State.reset with health.bootStep := 7, sched.host.keyValid := 1 }
  let s := memWrite 0x2000 (leBytes 8 0x1000) s
  let s := memWrite 0x1000 (leBytes 8 0x10000) s
  let s := memWrite 0x1010 (leBytes 8 1) s
  let s := memWrite 0x10000 (leBytes 16 (0x4E310001 + 2 ^ 32 + 2 ^ 64 * 16384)) s
  let s := memWrite 0x10010 (leBytes 8 (3584 + 2 ^ 32 * 3584)) s
  let s := memWrite 0x10050 (leBytes 8 16384) s
  setHostQueue 2 ⟨0x2000, 0x84, 0, 1, 1⟩ s

theorem test_meets_Scheduling_submit : 7 ≤ submitted.health.bootStep ∧ queueSize (hostQueue submitted 2) = 16
    ∧ (hostQueue submitted 2).head = 0 ∧ (hostQueue submitted 2).announced ≠ 0 ∧ (hostQueue base 2).announced = 0
    ∧ committedNat submitted (entryPa submitted 2 0) 8 = 0x1000
    ∧ inDevice 0x1000 = true ∧ inDevice (4 * 2 ^ 42) = false
    ∧ committedNat (memWrite 0x2000 (leBytes 8 0x3001) submitted) (entryPa submitted 2 0) 8 % 2 ≠ 0 ∧ (checkRecord submitted 0x3000 (.queue 2 0) 0 []).1 = 1
    ∧ (readRecord submitted 0x1000 (.queue 2 0) 1).map (fun l => (l.cores, l.image)) = some (1, 0x10000)
    ∧ imageFields submitted 0x10000 [] = true := by decide +kernel

/-- A record of one core in package 0 whose checks all hold but for the signature is accepted where the signature is. -/
theorem accepted (u : State) (src : LaunchSrc) (prio : BitVec 3) (h : ∀ d k b, Config.signatureValid d k b = true)
    (hk : u.sched.host.keyValid.getLsbD (imageNat u 0x10000 0x58 1) = true) (hf : imageFields u 0x10000 [] = true)
    (hg : readGroups u 0x10000 (recDw u 0x1000) 1 = some []) (hr : readRegions u 0x10000 (recDw u 0x1000) = some [])
    (hp : u.health.packages[0] = true ∧ u.health.lostPkgs = [] ∧ coreFit u false 0 = true)
    (hn : regionPkgs u 0x10000 (recDw u 0x1000) = [])
    (hm : (readRecord u 0x1000 src prio).map (fun l => ((l.cores, l.image), (l.home, l.span), l.pair, l.deg7))
      = some ((1, 0x10000), (0, [(0, 1)]), 0, false)) : (checkRecord u 0x1000 src prio []).1 = 0 := by
  have hs : imageSigned u 0x10000 = true := by
    unfold imageSigned
    dsimp only
    rw [h, Bool.and_true]
    exact hk
  have hc : countCores (coreFit u false) 0#7 ≠ 0 := by
    have : 0 ∈ (List.range 16384).filter (fun i => coreFit u false (BitVec.ofNat 21 ((0#7).toNat * 16384 + i))) := by
      rw [List.mem_filter]
      exact ⟨by simp, by simpa using hp.2.2⟩
    exact Nat.ne_of_gt (List.length_pos_of_mem this)
  unfold checkRecord
  cases hl : readRecord u 0x1000 src prio with
  | none => rw [hl] at hm; cases hm
  | some l =>
    rw [hl] at hm
    simp only [Option.map_some, Option.some.injEq, Prod.mk.injEq] at hm
    obtain ⟨⟨h1, h2⟩, ⟨h3, h4⟩, h6, h7⟩ := hm
    simp [h1, h2, h3, h4, h6, h7, hs, hf, hg, hr, hp, hn, hc, namedPackages, pairRefused]

theorem test_meets_Scheduling_accepted (h : ∀ d k b, Config.signatureValid d k b = true) :
    (checkRecord submitted 0x1000 (.queue 2 0) 1 []).1 = 0 :=
  accepted submitted (.queue 2 0) 1 h (by decide +kernel) (by decide +kernel) (by decide +kernel) (by decide +kernel)
    (by decide +kernel) (by decide +kernel) (by decide +kernel)

/-- A launch of one core that waits, its queue's AGE 1 us gone by. -/
def waiting : State :=
  setHostQueue 0 ⟨0, 0x84, 0, 0, 0⟩ { State.reset with
    health.bootStep := 7, now := 1000
    sched.launches := [{ LaunchRec.none with id := 1, cores := 1, level := 1, phase := .waiting, span := [(0, 1)] }] }

/-- A launch of all 256 cores of chiplet 0, the only chiplet left in the package; core 0 runs a launch of lower priority. -/
def crowded : State :=
  { base with
    health.lostDies := (List.range 63).map (fun i => (0, BitVec.ofNat 7 (i + 1)))
    sched.launches := [launch1, { LaunchRec.none with id := 2, cores := 256, level := 1, prio := 1, phase := .waiting, span := [(0, 256)] }] }
def chiplet0 : List CoreId := (List.range 256).map (fun i => BitVec.ofNat 21 i)

theorem test_meets_Scheduling_preemption : placeLegal crowded (launchOf crowded 2) chiplet0 = true
    ∧ outranked crowded (launchOf crowded 2) = false ∧ itsTurn crowded (launchOf crowded 2) = true
    ∧ chiplet0.all (coreFree crowded) = false
    ∧ chiplet0.all (fun id => coreFree crowded id || coreLeaving crowded id || preemptable crowded (launchOf crowded 2).prio id) = true := by
  decide +kernel

/-- No other chiplet has a fit core. -/
theorem crowded_unfit (x : CoreId) (h : coreChip x ≠ 0) (hp : corePkg x = 0) (d : Bool) : coreFit crowded d x = false := by
  have hc : ∀ c : BitVec 6, c ≠ 0 → crowded.health.lostDies.contains ((0, c.setWidth 7) : BitVec 7 × BitVec 7) = true := by decide +kernel
  unfold coreFit
  rw [hp, hc _ h]
  simp

/-- At most 255 cores are free: those of chiplet 0 but core 0. -/
theorem crowded_count : countCores (fun x => coreFit crowded (launchOf crowded 2).deg7 x && (coreFree crowded x || coreLeaving crowded x)) 0 ≤ 255 := by
  have key : ∀ p : CoreId → Bool, p 0 = false → (∀ x : CoreId, coreChip x ≠ 0 → corePkg x = 0 → p x = false) → countCores p 0 ≤ 255 := by
    intro p h0 hp
    unfold countCores
    have hr : List.range 16384 = 0 :: (List.range' 1 255 ++ List.range' 256 16128) := by
      rw [List.range'_append_1 (s := 1) (m := 255) (n := 16128), List.range_eq_range']
      rfl
    have h3 : (List.range' 256 16128).filter (fun i => p (BitVec.ofNat 21 ((0 : BitVec 7).toNat * 16384 + i))) = [] := by
      rw [List.filter_eq_nil_iff]
      intro i hi
      rw [List.mem_range'_1] at hi
      simp only [Bool.not_eq_true]
      apply hp
      · intro h
        have := congrArg BitVec.toNat h
        simp [coreChip, Nat.shiftRight_eq_div_pow] at this
        omega
      · apply BitVec.eq_of_toNat_eq
        simp [corePkg, Nat.shiftRight_eq_div_pow]
        omega
    rw [hr, List.filter_cons_of_neg (by simpa using h0), List.filter_append, h3, List.append_nil]
    exact Nat.le_trans (List.length_filter_le _ _) (by simp)
  exact key _ (by decide +kernel) (fun x h hp => by rw [crowded_unfit x h hp, Bool.false_and])

/-- A place in one package takes no more than that package lacks where its cores and those to be had are few enough. -/
theorem placeNeeded_of (s : State) (l : LaunchRec) (place : List CoreId) (n : Nat) (hp : ∀ id ∈ place, corePkg id = 0)
    (hc : countCores (fun x => coreFit s l.deg7 x && (coreFree s x || coreLeaving s x)) 0 ≤ n)
    (h : n + (place.filter (fun x => corePkg x == 0 && preemptable s l.prio x)).length ≤ (place.filter (fun x => corePkg x == 0)).length) :
    placeNeeded s l place = true := by
  unfold placeNeeded
  rw [List.all_eq_true]
  intro id hid
  rw [hp id hid]
  generalize countCores (fun x => coreFit s l.deg7 x && (coreFree s x || coreLeaving s x)) 0 = k at hc ⊢
  dsimp only
  simp only [Bool.or_eq_true, decide_eq_true_eq]
  omega

theorem test_meets_Scheduling_needed : placeNeeded crowded (launchOf crowded 2) chiplet0 = true :=
  placeNeeded_of crowded (launchOf crowded 2) chiplet0 255
    (fun id h => eq_of_beq (List.all_eq_true.mp (show chiplet0.all (fun x => corePkg x == 0) = true by decide +kernel) id h))
    crowded_count (by decide +kernel)

/-- The slot of this core, or of core 1, with an order and a state. -/
def slotAt (id : CoreId) (op : BitVec 4) (st : SlotState) (run : RunState) : State :=
  { base with
    now := 1000, core.seq.run := run
    sched.slots := [⟨id, op, 1, id.setWidth 24, false, 1, 0, 0, 0, 0, 0, 0, 0, st, false, none⟩] }
def slotted (op : BitVec 4) (st : SlotState) (run : RunState) : State := slotAt 0 op st run

/-- Both cores of launch 1 loaded, at a time; or core 1 alone. -/
def loaded (own : MemberState) (k : DWord) : State :=
  { slotted 0 .loading .bound with
    sched.launches := [{ launch1 with loadedAt := [(0, k)], members := [⟨false, 0, 0, own, 0⟩, ⟨false, 1, 1, .loaded, 0⟩] }] }

/-- This core at rest while it is saved; and saved, its slot free for the resume, or ordered to resume. -/
def resting : State := slotted 0 .saving (.saving false)
def savedOff (op : BitVec 4) (st : SlotState) : State :=
  { unbindOwn (slotted op st .unbound) with
    sched.launches := [{ launch1 with members := [⟨false, 0, 0, .saved, 0⟩, ⟨false, 1, 1, .running, 0⟩] }]
    sched.saves := [saveArea 0 false base] }
def doomedSlot (op : BitVec 4) (st : SlotState) : State :=
  { slotted op st .running with sched.launches := [{ launch1 with phase := .doomed }] }

/-- A slot's order and state, and the launch that it has. -/
def slotHas (s : State) (id : CoreId) : BitVec 4 × SlotState × Nat := ((slotRec s id).op, (slotRec s id).state, (slotRec s id).launch)

theorem test_meets_Scheduling_waiting : (launchOf waiting 1).phase = .waiting ∧ (launchOf waiting 1).level.toNat < 7
    ∧ fieldN (hostQueue waiting (BitVec.ofNat 6 (launchQueue waiting (launchOf waiting 1)))).cfg 7 25 * 1000
      ≤ (waiting.now - (launchOf waiting 1).since).toNat
    ∧ (launchOf base 1).phase ≠ .waiting
    ∧ placeLegal waiting (launchOf waiting 1) [0] = true ∧ outranked waiting (launchOf waiting 1) = false
    ∧ itsTurn waiting (launchOf waiting 1) = true ∧ [0].all (coreFree waiting) = true
    ∧ (namedPackages (launchOf waiting 1) ++ [(0 : CoreId)].map corePkg).all (fun p => (nextHall waiting p).isSome) = true := by
  decide +kernel

theorem test_meets_Scheduling_start : slotHas (slotted 1 .loading .unbound) 0 = (1, .loading, 1)
    ∧ slotHas (slotAt 1 1 .loading .unbound) 1 = (1, .loading, 1) ∧ (slotted 1 .loading .unbound).core.id = 0
    ∧ (launchOf (loaded .loaded 0) 1).loadedAt.find? (fun y => y.1 == 0) = some (0, 0)
    ∧ (launchRegions (launchOf (loaded .loaded 0) 1) 0).findIdx? (fun y => y == 0) = some 0
    ∧ (loaded .loaded 0).now = 1000 ∧ (loaded .loaded 2000).now.toNat < (2000 : DWord).toNat
    ∧ (launchOf (loaded .loaded 0) 1).members.map (fun m => (m.place, m.state)) = [(0, .loaded), (1, .loaded)]
    ∧ (launchOf (loaded .running 0) 1).members.map (fun m => (m.place, m.state)) = [(0, .running), (1, .loaded)] := by decide +kernel

theorem test_meets_Scheduling_saves : slotHas (slotted 3 .running .running) 0 = (3, .running, 1) ∧ base.core.launch = 1
    ∧ slotHas (slotAt 1 3 .running .running) 1 = (3, .running, 1)
    ∧ ({ slotted 0 .saving .running with core.seq.savePending := true } : State).core.seq.savePending = true
    ∧ (slotted 0 .saving .exited).core.seq.run = .exited ∧ slotHas (slotted 0 .halted (.halted false)) 0 = (0, .halted, 1)
    ∧ slotHas (slotted 3 .halted (.halted true)) 0 = (3, .halted, 1)
    ∧ slotHas resting 0 = (0, .saving, 1) ∧ quiesced resting = true ∧ (pushOut resting).2 = .done := by decide +kernel

theorem test_meets_Scheduling_resumes : (resumeChoice (savedOff 0 .free) 0).map (fun x => (x.1.id, x.2.ord)) = some (1, 0)
    ∧ coreFree (savedOff 0 .free) 0 = true ∧ (savedOff 0 .free).sched.launches.all (fun z => z.phase != .waiting) = true
    ∧ (areaOf (savedOff 2 .loading) 1 false 0).isSome = true ∧ slotHas (savedOff 2 .loading) 0 = (2, .loading, 1)
    ∧ (savedOff 2 .loading).core.id = 0 := by decide +kernel

theorem test_meets_Scheduling_stops : slotHas (doomedSlot 0 .running) 0 = (0, .running, 1) ∧ slotHas (doomedSlot 4 .halted) 0 = (4, .halted, 1)
    ∧ (launchOf (doomedSlot 4 .halted) 1).phase = .doomed ∧ slotHas (slotted 5 .running .exited) 0 = (5, .running, 1)
    ∧ slotHas (slotAt 1 5 .running .running) 1 = (5, .running, 1) ∧ (slotted 0 .halted (.halted true)).core.port.holding = []
    ∧ slotHas (slotted 6 .halted (.halted true)) 0 = (6, .halted, 1)
    ∧ (slotted 6 .halted (.halted true)).sched.slots.all (fun y => y.id == 0) = true := by decide +kernel

/-! ### Clauses that ask for more -/

/-- A slot ordered to load while a link of its package sleeps; cores of two power regions loaded, and the first of them running. -/
def asleep (op : BitVec 4) : State := { slotted op .loading .unbound with net.links := [{ linkRec base 4 with power := .sleep }] }
def twoRegions (first : MemberState) : State :=
  { loaded first 0 with
    sched.launches := [{ launch1 with loadedAt := [(0, 0)], members := [⟨false, 0, 0, first, 0⟩, ⟨false, 1, 1024, .loaded, 0⟩] }] }

/-- A saved core with a stream at work, and one that was on another layer, ordered to resume. -/
def savedWith (s : State) : State := { savedOff 2 .loading with sched.saves := [saveArea 0 false s] }

theorem test_meets_more_scheduling : stillWaking (corePkg 0) (asleep 1) = true ∧ stillWaking (corePkg 0) (slotted 1 .loading .unbound) = false
    ∧ slotHas (asleep 1) 0 = (1, .loading, 1) ∧ stillWaking (corePkg 0) (savedOff 2 .loading) = false
    ∧ (launchRegions (launchOf (twoRegions .loaded) 1) 0).findIdx? (fun y => y == coreRegion 1024) = some 1
    ∧ coreRegion 0 ∈ (launchRegions (launchOf (twoRegions .loaded) 1) 0).take 1 ∧ (twoRegions .loaded).now.toNat = 0 + 200 * 5
    ∧ (launchOf (twoRegions .running) 1).members.map (fun m => (coreRegion m.place, m.state)) = [(0, .running), (coreRegion 1024, .loaded)]
    ∧ (areaOf (savedWith reading) 1 false 0).map (fun a => (vgetD a.image.eng.streams 0 none, vgetD a.image.eng.exec 0 none))
      = some (some (stream false), some (runningCmd false)) ∧ (stream false).write = false ∧ (runningCmd false).finished = false
    ∧ (areaOf (savedWith { base with core.id := 300 }) 1 false 0).map (fun a => decide (layerOf a.image.id = layerOf 0)) = some false
    ∧ (areaOf (savedWith base) 1 false 0).map (fun a => decide (layerOf a.image.id = layerOf 0)) = some true
    ∧ ({ slotted 6 .halted (.halted true) with core.port.holding := [.packet 7] } : State).core.port.holding ≠ []
    ∧ slotHas (savedWith reading) 0 = (2, .loading, 1) := by decide +kernel

/-- Region 1 hot at two steps, before and after its wait; capped; with its step at the alarms' limit. -/
def heated (step : BitVec 2) (last : Option DWord) : State :=
  withRegion { regionRec base 1 with heatStep := step, lastHeat := last } { base with now := 2000000 }

theorem test_meets_more_power : (regionRec (heated 1 none) 1).cap = false ∧ 16 * 95 ≤ hottest #v[1600, 0, 0, 0] ∧ hottest #v[1600, 0, 0, 0] < 16 * 105
    ∧ (regionRec (heated 1 none) 1).heatStep.toNat < 2 ∧ (regionRec (heated 1 (some 5)) 1).lastHeat = some 5
    ∧ 1000000 ≤ ((heated 1 (some 5)).now - 5).toNat ∧ hottest #v[1000, 0, 0, 0] < 16 * 90 ∧ (regionRec (heated 1 none) 1).heatStep.toNat ≠ 0
    ∧ (regionRec (withRegion { regionRec base 1 with cap := true } base) 1).cap = true ∧ hottest #v[1500, 0, 0, 0] < 16 * 95
    ∧ (stepWanted (regionRec base 1) < 3) ∧ 3 ≤ stepWanted { regionRec base 1 with step := 3 }
    ∧ cyToNs 4096 (setRegionRec 0 (regionRec base 0) base) = cyToNs 4096 base
    ∧ (regionRec (withRegion { regionRec base 1 with str := true } base) 1).str = true
    ∧ (regionRec (withRegion { regionRec base 1 with str := true } base) 1).recovered = none
    ∧ cyToNs 4096 (setRegionRec 0 { regionRec base 0 with str := true } base) ≠ cyToNs 4096 base ∧ base.core.port.meters = [] := by
  decide +kernel

/-- The supply is at 95 %, between, and below, whatever the calibration says. -/
theorem test_meets_more_droop : 95 * nominal 1 ≤ 100 * (0xFFFF : BitVec 16).toNat ∧ 100 * (0 : BitVec 16).toNat < 95 * nominal 1
    ∧ ∃ mv : BitVec 16, 100 * mv.toNat < 95 * nominal 1 ∧ 92 * nominal 1 ≤ 100 * mv.toNat := by
  unfold nominal
  have h : (Config.nominalSupply 1).toNat % 201 < 201 := Nat.mod_lt _ (by decide)
  generalize (Config.nominalSupply 1).toNat % 201 = x at h
  have e : (BitVec.ofNat 16 ((92 * (650 + x) + 99) / 100)).toNat = (92 * (650 + x) + 99) / 100 :=
    Nat.mod_eq_of_lt (by omega)
  exact ⟨by simp; omega, by simp, _, by rw [e]; omega, by rw [e]; omega⟩

/-! ### Commit, abort and loss -/

/-- Launch 1 with both cores in a state, in a phase. -/
def ending (st : MemberState) (ph : LaunchPhase) : LaunchRec :=
  { launch1 with phase := ph, members := [⟨false, 0, 0, st, 0⟩, ⟨false, 1, 1, st, 0⟩], touched := [(0, 1)], hallMask := 1 }
def withLaunch (l : LaunchRec) : State :=
  { base with now := 2000000, sched.launches := [l], sched.halls := [⟨0, 1, .ready, 1, 1, 0, 0⟩] }

/-- A pair whose copies are ready, with a way of the primary alone (its hash is not that of none), or with no way at all. -/
def pairOf (ways : List Way) : State :=
  { withLaunch { ending .done .ready with pair := 1 } with homes.lines := [{ LineRec.fresh 5 with ways := ways }] }

theorem test_meets_CommitAndLoss_ready : (ending .done .bound).halted = false ∧ writesApplied (withLaunch (ending .done .bound)) (ending .done .bound) false = true
    ∧ (ending .done .bound).pair = 0 ∧ copyDone (ending .done .bound) false = true
    ∧ launchOf (withLaunch (ending .done .bound)) 1 = ending .done .bound
    ∧ copyHash (pairOf []) (launchOf (pairOf []) 1) false = copyHash (pairOf []) (launchOf (pairOf []) 1) true
    ∧ (launchOf (pairOf []) 1).pair ≠ 0 ∧ (launchOf (pairOf []) 1).phase = .ready ∧ (launchOf (pairOf []) 1).pairEqual = false
    ∧ (launchOf (pairOf []) 1).decided = false := by decide +kernel

theorem test_meets_CommitAndLoss_unequal :
    copyHash (pairOf [⟨.shadow, 1, false, 0, 0, 7, 0⟩]) (launchOf (pairOf [⟨.shadow, 1, false, 0, 0, 7, 0⟩]) 1) false
      ≠ copyHash (pairOf [⟨.shadow, 1, false, 0, 0, 7, 0⟩]) (launchOf (pairOf [⟨.shadow, 1, false, 0, 0, 7, 0⟩]) 1) true := by
  decide +kernel

/-- A pair of which one copy has been ready for 2 ms. -/
def waitingPair : State := withLaunch { ending .done .bound with pair := 1, readyCopies := [false] }

/-- A commit at its decision, the home prepared; and one whose home package is lost, 2 ms after it began. -/
def committing : State := withLaunch { ending .done .committing with prepared := [0] }
def orphan : State := { committing with health.lostPkgs := [0] }

/-- A ready launch of a graph's node; a commit of two packages at its decision; one that all have flipped; one of a graph's node with a
way to commit; and, 2 ms after another package has prepared, a commit without a flip there: as the home and the witness have it. -/
def readyNode : State := withLaunch { ending .done .ready with src := .node 1 0 }
def widely : State := withLaunch { ending .done .committing with halls := [(0, 1), (1, 1)], prepared := [0, 1] }
def flippedAll : State := withLaunch { ending .done .committing with decided := true, flipped := [0] }
def nodeWays : State :=
  { withLaunch { ending .done .committing with src := .node 1 0, prepared := [0] } with
    homes.lines := [{ LineRec.fresh (lineNo 640) with ways := [⟨.shadow, 1, false, 0, 0, 7, 0⟩] }] }
def lateCommit (decided : Bool) (w : Option (BitVec 7)) (lost : List (BitVec 7)) : State :=
  { withLaunch { ending .done .committing with
      halls := [(0, 1), (1, 1)], prepared := [0, 1], preparedAt := [(1, 0)], decided := decided, witness := w } with health.lostPkgs := lost }

theorem test_meets_CommitAndLoss_commit : (launchOf waitingPair 1).readyCopies.length = 1
    ∧ (ending .done .committing).phase ≠ .bound ∧ (launchOf waitingPair 1).decided = false
    ∧ ((0 : DWord)).toNat < pairWaitNs (launchOf waitingPair 1)
    ∧ (launchOf readyNode 1).phase = .ready ∧ (launchOf readyNode 1).src = .node 1 0
    ∧ (1 : Nat) < (launchOf widely 1).halls.length ∧ snoopsDone widely (launchOf widely 1) = true
    ∧ (launchOf widely 1).halls.all (fun h => (launchOf widely 1).prepared.contains h.1) = true
    ∧ (launchOf flippedAll 1).decided = true ∧ (launchOf flippedAll 1).halls.all (fun h => (launchOf flippedAll 1).flipped.contains h.1) = true
    ∧ (launchOf nodeWays 1).src = .node 1 0 ∧ (launchOf nodeWays 1).abort = none ∧ (hallOf nodeWays 1 0).map (fun h => h.hall) = some 1
    ∧ linePkg (lineNo 640) = 0 ∧ snoopsDone nodeWays (launchOf nodeWays 1) = true
    ∧ lateFlips (lateCommit false none []) (launchOf (lateCommit false none []) 1) = [1]
    ∧ (launchOf (lateCommit false none []) 1).witness = none ∧ (launchOf (lateCommit false none []) 1).decided = false
    ∧ (launchOf (lateCommit true none [0]) 1).decided = true ∧ (launchOf (lateCommit true none [0]) 1).home ∈ (lateCommit true none [0]).health.lostPkgs
    ∧ (launchOf (lateCommit true none [0]) 1).flipped = [] ∧ lateFlips (lateCommit true none [0]) (launchOf (lateCommit true none [0]) 1) = [1]
    ∧ (launchOf (lateCommit true none []) 1).home ∉ (lateCommit true none []).health.lostPkgs
    ∧ (launchOf (lateCommit true (some 3) []) 1).witness = some 3 ∧ (launchOf (lateCommit true (some 3) []) 1).decided = true
    ∧ lateFlips (lateCommit true (some 3) []) (launchOf (lateCommit true (some 3) []) 1) = [1]
    ∧ lateFlips committing (launchOf committing 1) = [] ∧ (launchOf committing 1).home ∉ committing.health.lostPkgs
    ∧ (launchOf orphan 1).decided = false
    ∧ pairWaitNs (launchOf waitingPair 1) ≤ (waitingPair.now - (launchOf waitingPair 1).pairSince).toNat
    ∧ (withLaunch (ending .done .ready)).sched.launches.all (fun m => m.id == 1) = true
    ∧ (withLaunch (ending .done .ready)).homes.layers = [] ∧ (withLaunch (ending .done .ready)).homes.hubs = []
    ∧ (hallOf (withLaunch (ending .done .ready)) 1 0).map (fun h => h.state) = some .ready
    ∧ (launchOf committing 1).phase = .committing ∧ (launchOf committing 1).halls.all (fun h => (launchOf committing 1).prepared.contains h.1) = true
    ∧ snoopsDone committing (launchOf committing 1) = true ∧ (launchOf committing 1).halls.length ≤ 1
    ∧ committing.core.launch = 1 ∧ (launchOf orphan 1).home ∈ orphan.health.lostPkgs
    ∧ 1000000 ≤ (orphan.now - (launchOf orphan 1).readyAt).toNat := by decide +kernel

theorem test_meets_CommitAndLoss_loss : abortable (ending .running .bound) = true
    ∧ ending .running .bound ∈ (withLaunch (ending .running .bound)).sched.launches
    ∧ (launchOf (withLaunch (ending .running .doomed)) 1).phase = .doomed
    ∧ (ending .stopped .doomed).members.all (fun m => m.state == .stopped) = true
    ∧ (ending .running .bound).touched.any (fun k => k.1 == 0 && k.2.getLsbD (0 : BitVec 7).toNat) = true
    ∧ (ending .running .bound).touched.any (fun k => k.1 == 0 && k.2.getLsbD (9 : BitVec 7).toNat) = false
    ∧ (ending .running .bound).hallMask.getLsbD (0 : BitVec 7).toNat = true
    ∧ (ending .running .bound).hallMask.getLsbD (5 : BitVec 7).toNat = false ∧ (ending .running .bound).phase ≠ .committing
    ∧ ({ base with health.heartbeats := [(0, 5, 2, 0)] } : State).health.heartbeats.find? (fun x => x.1 == 0 && x.2.1 == 5) = some (0, 5, 2, 0)
    ∧ base.health.heartbeats.find? (fun x => x.1 == 0 && x.2.1 == 5) = none ∧ ((0, 5) : BitVec 7 × BitVec 7) ∉ base.health.lostDies := by
  decide +kernel

/-- A pair whose first copy is done, its second at work. -/
def firstDone : State :=
  withLaunch { ending .done .bound with pair := 1, members := [⟨false, 0, 0, .done, 0⟩, ⟨true, 0, 1, .running, 0⟩] }

theorem test_meets_more_commit : (launchOf firstDone 1).phase = .bound ∧ (launchOf firstDone 1).halted = false
    ∧ (launchOf firstDone 1).pair ≠ 0 ∧ (launchOf firstDone 1).readyCopies = [] ∧ copyDone (launchOf firstDone 1) false = true
    ∧ writesApplied firstDone (launchOf firstDone 1) false = true ∧ copyDone (launchOf firstDone 1) true = false
    ∧ firstDone.homes.heldReds = [] ∧ (launchOf committing 1).phase ≠ .bound
    ∧ 2000000 ≤ ((2000000 : DWord) - 0).toNat ∧ ¬ 2000000 ≤ ((1000000 : DWord) - 0).toNat
    ∧ (ending .done .committing).witness ≠ some 0 := by decide +kernel

/-! ### Task graphs -/

/-- A graph of two nodes at 0x4000 whose header stands at 0x3000, with one object in package 0 and one edge (R320). -/
def graphRec (nodes : List NodeState) : GraphRec := ⟨1, 0, 0, 0x3000, nodes, true, false, [⟨0, 65536, 0, 2, false, none, 0⟩], [], []⟩
def idle : NodeState := ⟨0, 0, 0, none, none⟩

/-- Its memory: node 0 with a first doubleword and targets, node 1 all zeros. -/
def graphState (head targets : Nat) (nodes : List NodeState) : State :=
  let s : State := { submitted with sched.graphs := [graphRec nodes] }
  memWrite 0x4010 (leBytes 8 targets) (memWrite 0x4000 (leBytes 16 (head + 0x1000 * 2 ^ 64)) (memWrite 0x3000 (leBytes 16 (0x4000 + 2 ^ 65)) s))

theorem test_meets_TaskGraphs_kernel : graphOf (graphState 0 0 [idle, idle]) 1 = some (graphRec [idle, idle])
    ∧ nodeKind (graphState 0 0 [idle, idle]) (graphRec [idle, idle]) 0 = 0
    ∧ nodeEligible (graphState 0 0 [idle, idle]) (graphRec [idle, idle]) 0 = true
    ∧ nodeLrec (graphState 0 0 [idle, idle]) (graphRec [idle, idle]) 0 = 0x1000
    ∧ (checkRecord (graphState 0 0 [idle, idle]) 0x5000 (.node 1 0) 0 []).1 = 1
    ∧ nodeState (graphRec [⟨1, 0, 0, some 1, none⟩, idle]) 0 = ⟨1, 0, 0, some 1, none⟩
    ∧ (launchOf ({ base with sched.launches := [{ launch1 with phase := .committed }] } : State) 1).phase = .committed
    ∧ (launchOf ({ base with sched.launches := [{ launch1 with phase := .aborted }] } : State) 1).phase = .aborted
    ∧ loopOf (graphState 0 0 [⟨1, 0, 0, some 1, none⟩, idle]) (graphRec [⟨1, 0, 0, some 1, none⟩, idle]) 0 = none := by decide +kernel

theorem test_meets_TaskGraphs_accepted (h : ∀ d k b, Config.signatureValid d k b = true) :
    (checkRecord (graphState 0 0 [idle, idle]) 0x1000 (.node 1 0) 0 []).1 = 0
      ∧ nodeBindings (graphState 0 0 [idle, idle]) (graphRec [idle, idle]) 0 = []
      ∧ nodePrio (graphState 0 0 [idle, idle]) (graphRec [idle, idle]) 0 = 0 :=
  ⟨accepted (graphState 0 0 [idle, idle]) (.node 1 0) 0 h (by decide +kernel) (by decide +kernel) (by decide +kernel)
    (by decide +kernel) (by decide +kernel) (by decide +kernel) (by decide +kernel), by decide +kernel, by decide +kernel⟩

/-- A condition, switch, join and loop at node 0, whose word is the first of object 0 (LREC 0): where the management core placed it
is its own choice, and no line of memory holds it back. -/
def choosing (head targets : Nat) (nodes : List NodeState) : State :=
  memWrite 0x4008 (leBytes 8 0) (graphState head targets nodes)

theorem test_meets_TaskGraphs_choice : nodeKind (choosing 1 (1 + 0xFFFF0000) [idle, idle]) (graphRec [idle, idle]) 0 = 1
    ∧ nodeEligible (choosing 1 (1 + 0xFFFF0000) [idle, idle]) (graphRec [idle, idle]) 0 = true
    ∧ nodeTarget (choosing 1 (1 + 0xFFFF0000) [idle, idle]) (graphRec [idle, idle]) 0 0 = 1
    ∧ nodeTarget (choosing 1 (1 + 0xFFFF0000) [idle, idle]) (graphRec [idle, idle]) 0 1 = 0xFFFF
    ∧ (nodeWordPa (choosing 1 0 [idle, idle]) (graphRec [idle, idle]) 0).isSome = true
    ∧ (choosing 1 0 [idle, idle]).homes.lines = []
    ∧ nodeKind (choosing (3 + 2 ^ 33) 1 [idle, idle]) (graphRec [idle, idle]) 0 = 3
    ∧ nodeEligible (choosing (3 + 2 ^ 33) 1 [idle, idle]) (graphRec [idle, idle]) 0 = true
    ∧ fieldN (nodeHead (choosing (3 + 2 ^ 33) 1 [idle, idle]) (graphRec [idle, idle]) 0) 32 4 = 2
    ∧ nodeKind (choosing 4 0 [idle, idle]) (graphRec [idle, idle]) 0 = 4
    ∧ nodeEligible (choosing 4 0 [idle, idle]) (graphRec [idle, idle]) 0 = true := by decide +kernel

/-- The word is there, whatever its value is. -/
theorem test_meets_TaskGraphs_word (n : Nat) (hn : (nodeWordPa (choosing 1 0 [idle, idle]) (graphRec [idle, idle]) n).isSome = true) :
    ∃ w, nodeWord (choosing 1 0 [idle, idle]) (graphRec [idle, idle]) n = some w := by
  obtain ⟨pa, h⟩ := Option.isSome_iff_exists.mp hn
  have hl : (choosing 1 0 [idle, idle]).homes.lines = [] := by decide +kernel
  exact ⟨_, by simp [nodeWord, h, readStalls, lineRec, hl, LineRec.fresh, LineRec.versions]; rfl⟩

/-- A loop over node 1, up to 3 times: before its first iteration, and after its third. -/
def looping (i : Nat) : GraphRec := graphRec [⟨if i = 0 then 0 else 1, i, 0, none, none⟩, ⟨if i = 0 then 0 else 2, i, i, none, none⟩]

/-- The body of a loop at work for launch 1, which has lost a write conflict. -/
def bodyNodes : List NodeState := [⟨1, 1, 0, none, none⟩, ⟨1, 1, 1, some 1, none⟩]
def bodyLost : State :=
  { choosing (2 + 3 * 2 ^ 16) 1 bodyNodes with
    sched.launches := [{ launch1 with phase := .aborted, abort := some { AbortInfo.of 1 with winnerLaunch := 2 } }] }

theorem test_meets_TaskGraphs_lost : loopOf bodyLost (graphRec bodyNodes) 1 = some 0 ∧ nodeKind bodyLost (graphRec bodyNodes) 1 = 0
    ∧ nodeState (graphRec bodyNodes) 1 = ⟨1, 1, 1, some 1, none⟩ ∧ (launchOf bodyLost 1).phase = .aborted
    ∧ (launchOf bodyLost 1).abort.map (fun a => a.cause) = some 1 := by decide +kernel

theorem test_meets_TaskGraphs_loop : nodeKind (choosing (2 + 3 * 2 ^ 16) 1 (looping 0).nodes) (looping 0) 0 = 2
    ∧ nodeEligible (choosing (2 + 3 * 2 ^ 16) 1 (looping 0).nodes) (looping 0) 0 = true
    ∧ fieldN (nodeHead (choosing (2 + 3 * 2 ^ 16) 1 (looping 0).nodes) (looping 0) 0) 16 16 = 3
    ∧ nodeTarget (choosing (2 + 3 * 2 ^ 16) 1 (looping 0).nodes) (looping 0) 0 0 = 1
    ∧ (nodeState (looping 3) 0).status = 1 ∧ (nodeState (looping 3) 1).taken = (nodeState (looping 3) 0).iterations
    ∧ nodeFinished (nodeState (looping 3) 1) = true
    ∧ nodeEligible (choosing (2 + 3 * 2 ^ 16) 1 (looping 3).nodes) (looping 3) 0 = false
    ∧ holdOpen base (nodeState (looping 3) 0).hold = false ∧ 3 ≤ (nodeState (looping 3) 0).iterations ∧ (1 : Nat) ≠ 0
    ∧ (nodeState (looping 2) 0).status = 1 ∧ (nodeState (looping 2) 1).taken = (nodeState (looping 2) 0).iterations
    ∧ nodeFinished (nodeState (looping 2) 1) = true ∧ (nodeState (looping 2) 0).iterations < 3 ∧ (looping 2).running = true
    ∧ nodeEligible (choosing (2 + 0 * 2 ^ 16) 1 (looping 0).nodes) (looping 0) 0 = true
    ∧ fieldN (nodeHead (choosing (2 + 0 * 2 ^ 16) 1 (looping 0).nodes) (looping 0) 0) 16 16 = 0 := by decide +kernel

/-- Whatever the word is, the loop runs on it with one value of its condition bit and ends on it with the other. -/
theorem test_meets_TaskGraphs_runs (w : Nat) : ∃ b : Bool, (if b then w != 0 else w == 0) = true ∧ (if !b then w != 0 else w == 0) = false := by
  by_cases h : w = 0
  · exact ⟨false, by simp [h]⟩
  · exact ⟨true, by simp [h]⟩

/-! ### Mesh -/

/-- A flit of the packet at this core's router, and at the router east of it; a packet that has not left. -/
def flitOf (r : Router) : Flit := ⟨7, 0, r, 0, 2, 0, 0⟩
def flitHere (k : BitVec 4) (r : Router) : State := { withPacket { packetKind k with ejected := 0, cls := 2 } base with net.flits := [flitOf r] }
def unsent : State := withPacket { packetKind 2 with ejected := 0, sent := 0, src := routerOf 0 } base

/-- Label 5 bound to buffer 4. -/
def labelled (b : BufState) : State := { buffered b with core.port.recvLabels := [(5, 4)] }

/-- A state in which the packet of a kind waits to be taken up; the core running, done, or saved. -/
def taking (k : BitVec 4) (s : State) : State := withPacket (packetKind k) s
def saved : State := { buffered .filling with core.seq.run := .saved }
def done : State := { buffered .filling with core.seq.run := .done }

theorem test_meets_Mesh_flits : (headFlits (flitHere 2 0) 0 0).map (fun x => (x.1.pkt, x.2)) = [(7, 0)]
    ∧ (packetOf (flitHere 2 0) 7).map (fun p => flitMoves (flitHere 2 0) p (flitOf 0)) = some true
    ∧ headerLegal { packetKind 2 with ejected := 0, cls := 2 } = true ∧ routeDir false 0 (packetKind 2).dest = 0
    ∧ (headFlits (flitHere 2 1) 0 1).map (fun x => (x.1.pkt, x.2)) = [(7, 0)] ∧ routeDir false 1 (packetKind 2).dest ≠ 0
    ∧ (packetOf (flitHere 2 1) 7).map (fun p => flitMoves (flitHere 2 1) p (flitOf 1)) = some true
    ∧ headerLegal { packetKind 15 with ejected := 0, cls := 2 } = false
    ∧ (packetOf (flitHere 15 1) 7).map (fun p => flitMoves (flitHere 15 1) p (flitOf 1)) = some true
    ∧ ([1, 2, 3, 4] : List Dir).all (fun d => (inbound (flitHere 2 1) 0 1 d).isEmpty && (inbound unsent 0 0 d).isEmpty) = true
    ∧ headFlits unsent 0 0 = [] ∧ (nextInject unsent 0 0).isSome = true := by decide +kernel

theorem test_meets_Mesh_placements : [2, 3].all (fun k => nextArrived (taking k (labelled .filling)) (packetKind k)
      && decide (holderOf (taking k (labelled .filling)) 1 false 0 = .own)
      && decide ((placeLabel 5 0 4 [1, 2, 3, 4] (taking k (labelled .filling))).2 = .ok [])
      && decide ((placeLabel 5 0 4 [1, 2, 3, 4] (taking k (labelled .full))).2 = .refused)
      && nextArrived (taking k (labelled .full)) (packetKind k)
      && decide ((placeLabel 5 0 4 [1, 2, 3, 4] (taking k base)).2 = .error) && nextArrived (taking k base) (packetKind k)
      && decide (holderOf (taking k done) 1 false 0 = .gone) && nextArrived (taking k done) (packetKind k)
      && decide (holderOf (taking k saved) 1 false 0 = .away) && nextArrived (taking k saved) (packetKind k)
      && decide (savedLabel (taking k saved) 1 false 0 5 0 4 = .refused)) = true := by decide +kernel

/-- A `SEND` of this core in execution; a packet refused 1 us ago; meter entries. -/
def sendingCore : State := withPacket (packetKind 5) (executing 5 (command .sendCmd #v[0, 4, 5, 0]) false)
def refusedPacket (p : Packet) : State := withPacket { p with retryAt := 1000 } { base with now := 1000 }
def ownElsewhere : Packet := { packetKind 2 with sender := 0, pkg := 1 }
def meter (n : Nat) : Meter := ⟨1, 5, n, 0, 0, false, 0, none, false, 0, false⟩
def metered (m : Meter) : State := { base with core.port.meters := [m] }

theorem test_meets_Mesh_answers : nextArrived sendingCore (packetKind 5) = true ∧ (packetKind 5).receiver = sendingCore.core.id
    ∧ (packetKind 5).result = 0 ∧ ({ packetKind 5 with result := 2 } : Packet).result = 2
    ∧ answeredAccess (dropPacket 7 sendingCore) (packetKind 5) = none
    ∧ (copyCommand sendingCore 1 1).isSome = true ∧ (execOf sendingCore 5).isSome = true
    ∧ (refusedPacket (packetKind 2)).net.packets.map (fun p => p.retryAt) = [1000] ∧ (refusedPacket (packetKind 2)).now = 1000
    ∧ (packetKind 2).sender ≠ base.core.id ∧ ownElsewhere.sender = base.core.id ∧ ownElsewhere.launch = base.core.launch
    ∧ corePkg (ordPlace (refusedPacket ownElsewhere) ownElsewhere.ord) ≠ ownElsewhere.pkg
    ∧ (metered (meter 0)).core.port.meters[0]? = some (meter 0) ∧ (meter 0).intervalEnd.toNat ≤ (metered (meter 0)).now.toNat
    ∧ (meter 0).slot = none ∧ (meter 0).tripped = false ∧ (meter 0).holdOff = 0 ∧ (meter 3).count ≠ 0
    ∧ (metered (meter 0)).now.toNat < ({ meter 0 with intervalEnd := 1000 } : Meter).intervalEnd.toNat
    ∧ ({ meter 3 with slot := some 2, started := true } : Meter).slot ≠ none := by decide +kernel

/-- A probe at router 0 on its way to core 1, in a state of its own; one that is there; and one of this core. -/
def probe (x : ProbeState) : Probe := ⟨3, 0, 0, 0, 0x102, false, 0, [], x, 1, 0, 0, 0, 5, false, 100, 0⟩
def probeThere : Probe := { probe .advance with dest := 0 }
def probeMine : Probe := { probe (.confirm 0) with sender := 0, receiver := 1, ord := 1 }
def probing (p : Probe) : State := { base with net.probes := [p] }

/-- One that meets an output that another holds. -/
def probeHeld : State := { probing (probe .advance) with net.probes := [probe .advance, { probe .advance with id := 4, reserved := [(0, 2), (0, 3)] }] }
/-- One that another goes before, from an input whose turn it is. -/
def probeBehind : State :=
  { base with
    net.probes := [{ probe .advance with input := 1 }, { probe .advance with id := 4 }] }

theorem test_meets_Mesh_probes : (probing (probe .advance)).net.probes[0]? = some (probe .advance)
    ∧ probeYields (probing (probe .advance)) (probe .advance) = false
    ∧ probeOutput (probe .advance) ≠ 0 ∧ outputHeld (probing (probe .advance)) 0 0 (probeOutput (probe .advance)) = false
    ∧ probeOutput probeThere = 0 ∧ outputHeld (probing probeThere) 0 0 0 = false ∧ portAccepts (probing probeThere) probeThere = true
    ∧ probeYields (probing probeThere) probeThere = false
    ∧ outputHeld probeHeld 0 0 (probeOutput (probe .advance)) = true ∧ probeYields probeHeld (probe .advance) = false
    ∧ probeYields probeBehind { probe .advance with input := 1 } = true
    ∧ pathOut (probing (probe (.confirm 0))) (probe (.confirm 0)) = false ∧ (probe .advance).b < 2 ∧ (probe .advance).reserved = []
    ∧ narrowLinks (probing (probe (.confirm 0))) (probe (.confirm 0)) = [] ∧ (probe (.confirm 0)).sender ≠ base.core.id
    ∧ narrowLinks (probing probeMine) probeMine = [] ∧ probeMine.sender = base.core.id ∧ probeMine.promoted = false
    ∧ ({ probe .giveUp with reserved := [(0, 2)] } : Probe).reserved ≠ [] ∧ (probe .giveUp).reserved = [] := by decide +kernel

/-- A circuit of core 1 to this core, and one of this core to core 1, with a window. -/
def circuitIn : Circuit := ⟨9, 0, [], 1, 0, 2, 5, false, false, 0, 0, [], false⟩
def circuitOut (fails : Nat) : Circuit := ⟨9, 0, [], 0, 1, 2, 5, false, false, 0, 0, [⟨1, 128, 128, 4096, fails, none⟩], false⟩
def beat (crc : Option DWord) : Beat := ⟨9, 0, 0, crc, 4, [1, 2, 3, 4]⟩
def receiving (crc : Option DWord) : State :=
  { labelled .filling with
    net.circuits := [circuitIn], net.beats := [beat crc]
    net.rx := if crc.isSome then [⟨9, 5, 0, [4096], [(0, 1), (1, 2), (2, 3), (3, 4)], true, false, false, false⟩] else [] }
def answeredWindow (k : BitVec 4) (aux : Word) (fails : Nat) : State :=
  withPacket { packetKind k with cmd := 9, ofs := 128, aux := aux } { base with net.circuits := [circuitOut fails] }

theorem test_meets_Mesh_beats : (receiving none).net.beats[0]? = some (beat none) ∧ circuitOf (receiving none) 9 = some circuitIn
    ∧ firstBeat (receiving none) 0 (beat none) = true ∧ rxWindow (receiving none) 9 0 = none ∧ circuitIn.receiver = (receiving none).core.id
    ∧ (receiving none).core.seq.run = .running ∧ (circuitOut 0).receiver ≠ base.core.id
    ∧ labelAddr (receiving none).core 5 0 4 = some 4096 ∧ wordAnswer (receiving none) 5 4096 4 = .allowed
    ∧ windowFits { receiving none with net.beats := [] } circuitIn 0 = true
    ∧ (rxWindow (receiving (some 1)) 9 0).map (fun w => (w.placed, w.range, w.refused)) = some ([4096], false, false)
    ∧ firstBeat (receiving (some 1)) 0 (beat (some 1)) = true
    ∧ windowCrc 0 [1, 2, 3, 4] ≠ 1 := by decide +kernel

theorem test_meets_Mesh_windows : [6, 7].all (fun k => (answeredWindow k 0 0).net.packets.all (nextArrived (answeredWindow k 0 0))) = true
    ∧ (circuitOf (answeredWindow 6 0 0) 9).bind (fun c => txWindow c 128) = some ⟨1, 128, 128, 4096, 0, none⟩
    ∧ (circuitOut 0).sender = (answeredWindow 6 0 0).core.id ∧ (answeredWindow 7 1 0).net.packets.map (fun p => (p.kind, p.aux)) = [(7, 1)]
    ∧ ((circuitOf (answeredWindow 7 0 2) 9).bind (fun c => txWindow c 128)).map (fun w => w.fails) = some 2
    ∧ ((circuitOf (answeredWindow 7 0 1) 9).bind (fun c => txWindow c 128)).map (fun w => w.fails) = some 1
    ∧ (circuitOf (answeredWindow 8 0 0) 9).isSome = true
    ∧ (answeredWindow 8 0 0).net.packets.all (nextArrived (answeredWindow 8 0 0)) = true := by decide +kernel

/-- A flit of the packet under way to router 1 from the west, as its sender numbered it or not; on the link east of router 0. -/
def onWire (seq : Byte) : State :=
  let l := linkRec base (meshLink 0 0 1 4)
  let p := { packetKind 2 with ejected := 0, cls := 2 }
  let f : Flit := ⟨7, 0, 1, 4, 2, seq, crc32c (flitBytes p 0)⟩
  { withPacket p base with net.links := [{ l with fwd := ⟨seq + 1, [f], [f], 0⟩ }] }

theorem test_meets_more_flits : (inbound (onWire 0) 0 1 4).length = 1 ∧ linkCarries (onWire 0) (meshLink 0 0 1 4) = true
    ∧ ([1, 2, 3] : List Dir).all (fun e => (inbound (onWire 0) 0 1 e).isEmpty) = true
    ∧ (inbound (onWire 0) 0 1 4).map (fun f => (f.seq, (packetOf (onWire 0) f.pkt).map (fun p => f.crc == crc32c (flitBytes p f.idx)))) = [(0, some true)]
    ∧ (linkRec (onWire 0) (meshLink 0 0 1 4)).fwd.expect = 0 ∧ (inbound (onWire 5) 0 1 4).map (fun f => f.seq) = [5] := by decide +kernel

/-- The core frozen, with room for what comes and without; an access that its receiver refused. -/
def frozenCore (full : Bool) : State :=
  { labelled .filling with
    core.seq.run := .halted false
    core.port.holding := if full then List.replicate 512 (.beat ⟨9, 0, 0, none, 16, List.replicate 16 0⟩) else [] }
def refusedAccess (e : RemotePool) (p : Packet) : State :=
  { withPacket p base with now := 1000, net.remote := [{ e with retryAt := 1000, pkt := 7 }] }

theorem test_meets_more_packets : [2, 3].all (fun k => nextArrived (taking k (frozenCore false)) (packetKind k)
      && decide (holderOf (taking k (frozenCore false)) 1 false 0 = .frozen)
      && holdingRoom (taking k (frozenCore false)) (.packet 7) && !holdingRoom (taking k (frozenCore true)) (.packet 7)
      && nextArrived (taking k (frozenCore true)) (packetKind k)) = true
    ∧ (refusedAccess (remoteCopy 8192) (packetKind 4)).net.remote.map (fun e => (e.retryAt, e.pkt)) = [(1000, 7)]
    ∧ (packetOf (refusedAccess (remoteCopy 8192) (packetKind 4)) 7).isSome = true
    ∧ (remoteCopy 8192).sender ≠ base.core.id
    ∧ (let e := { remoteCopy 8192 with sender := 0 }
       e.sender = base.core.id ∧ e.launch = base.core.launch ∧ corePkg (ordPlace (refusedAccess e ownElsewhere) e.ord) ≠ ownElsewhere.pkg) := by
  decide +kernel

/-- A promoted flow of this core on slot 6, with nothing sent in the interval, or under a `SEND`. -/
def promoted : Circuit := ⟨9, 0, [], 0, 1, 6, 5, true, true, 0, 0, [⟨1, 128, 128, 4096, 0, none⟩], false⟩
def flowOf (started : Bool) : State :=
  { metered { meter 3 with slot := some 6, started := started } with net.circuits := [promoted] }
def onCircuit (cursor : Nat) : State :=
  let c := command .sendCmd #v[4096, 0, 64, 5 + 2 ^ 16]
  let s := setExec 5 (some { runningCmd false with cursor := cursor }) (atHead 5 c)
  { s with core.port.meters := [{ meter 3 with slot := some 6 }], net.circuits := [promoted] }

/-- A probe of a promotion of this core at its end; on a path that has failed or sleeps. -/
def probePromoted : Probe := { probeMine with promoted := true, slot := 6 }
def probeOn (x : LinkRec) : State := { probing { probe (.confirm 0) with reserved := [(0, 2)] } with net.links := [x] }
def pathLink : LinkRec := linkRec base (meshLink 1 0 0 2)

theorem test_meets_more_meters : ({ meter 3 with slot := some 6 } : Meter).intervalEnd.toNat ≤ (flowOf false).now.toNat
    ∧ (flowOf false).core.port.meters.map (fun m => (m.slot, m.started, sendOnCircuit m (flowOf false))) = [(some 6, false, false)]
    ∧ ownCircuit (flowOf false) 6 = some promoted ∧ sendOnCircuit { meter 3 with slot := some 6 } (onCircuit 2) = true
    ∧ probePromoted.sender = base.core.id ∧ probePromoted.promoted = true ∧ narrowLinks (probing probePromoted) probePromoted = []
    ∧ pathOut (probing probePromoted) probePromoted = false
    ∧ (probing probePromoted).core.port.meters = []
    ∧ ({ probing probePromoted with core.port.meters := [{ meter 3 with tripped := true }] } : State).core.port.meters.any
      (fun m => m.dest == probePromoted.ord && m.label == probePromoted.label && m.tripped) = true
    ∧ pathOut (probeOn { pathLink with failed := true }) { probe (.confirm 0) with reserved := [(0, 2)] } = true
    ∧ pathOut (probeOn { pathLink with power := .narrow }) { probe (.confirm 0) with reserved := [(0, 2)] } = false
    ∧ narrowLinks (probeOn { pathLink with power := .narrow }) { probe (.confirm 0) with reserved := [(0, 2)] } ≠ []
    ∧ ({ probe .advance with b := 2 } : Probe).b = 2 ∧ ({ probe .advance with reserved := [(0, 2)] } : Probe).reserved = [] ++ [(0, 2)] := by
  decide +kernel

/-- A beat for a full buffer, for one that is too short, for a placed word, and for a frozen core; windows that were refused, past their
range, and passed before. -/
def receivingIn (s : State) (crc : Option DWord) (rx : List RxWindow) : State :=
  { s with net.circuits := [circuitIn], net.beats := [beat crc], net.rx := rx }
def windowOf (refused range passed : Bool) (placed : List Nat) : RxWindow :=
  ⟨9, 5, 0, placed, [(0, 1), (1, 2), (2, 3), (3, 4)], true, refused, range, passed⟩
def passedWindow : RxWindow := { windowOf false false true [4096] with circuit := 8 }

theorem test_meets_more_beats : wordAnswer (receivingIn (labelled .full) none []) 5 4096 4 = .wait
    ∧ labelAddr (labelled .filling).core 5 (2 ^ 20) 4 = none
    ∧ wordAnswer { receivingIn (labelled .filling) none [] with core.pool.placed := [4096] } 5 4096 4 = .fault
    ∧ rxWindow (receivingIn (labelled .filling) none [windowOf false false false []]) 9 0 = some (windowOf false false false [])
    ∧ rxWindow (receivingIn (labelled .filling) none [windowOf true false false []]) 9 0 = some (windowOf true false false [])
    ∧ (receivingIn (frozenCore false) none []).core.seq.run = .halted false
    ∧ holdingRoom (receivingIn (frozenCore false) none []) (.beat (beat none)) = true
    ∧ holdingRoom (receivingIn (frozenCore true) none []) (.beat (beat none)) = false
    ∧ rxWindow (receivingIn (frozenCore false) (some 1) [windowOf true false false []]) 9 0 = some (windowOf true false false [])
    ∧ passedBefore (receivingIn (labelled .filling) (some 1) [windowOf false false false [4096]]) circuitIn 0 = none
    ∧ passedBefore (receivingIn (labelled .filling) (some 1) [windowOf false true false []]) circuitIn 0 = none
    ∧ passedBefore (receivingIn (labelled .filling) (some (windowCrc 0 [1, 2, 3, 4])) [windowOf false false false [], passedWindow]) circuitIn 0
      = some passedWindow ∧ passedWindow.data.length = (windowOf false false false []).data.length
    ∧ (beat (some 1)).check.isSome = true ∧ ({ circuitIn with receiver := 1 } : Circuit).receiver ≠ base.core.id := by decide +kernel

/-- Answers to a window of the `SEND` on the circuit, of a `CSTREAM` in execution, and of one that has ended. -/
def answeredOn (k : BitVec 4) (aux : Word) (s : State) : State :=
  { s with net.packets := [{ packetKind k with cmd := 9, ofs := 128, aux := aux }], net.nextPkt := 8 }

theorem test_meets_more_windows : nextArrived (answeredOn 6 0 (onCircuit 2)) { packetKind 6 with cmd := 9, ofs := 128 } = true
    ∧ (circuitOf (answeredOn 6 0 (onCircuit 2)) 9).bind (fun c => txWindow c 128) = some ⟨1, 128, 128, 4096, 0, none⟩
    ∧ promoted.sender = base.core.id ∧ (queueHead (onCircuit 2) 5).map (fun y => (y.op, y.id)) = some (.sendCmd, 1)
    ∧ (execOf (onCircuit 2) 5).map (fun r => r.cursor) = some 2
    ∧ (answeredOn 7 2 (onCircuit 2)).net.packets.map (fun p => (p.kind, p.aux)) = [(7, 2)]
    ∧ (queueHead cstreamOn 5).map (fun y => (y.id, streamsOn 2 y)) = some (1, true)
    ∧ (handleOf base 2).resume = 0 ∧ ({ promoted with sender := 1 } : Circuit).sender ≠ base.core.id := by decide +kernel

/-! ### Links and rings -/

/-- Link 4 of the packet plane, and the data plane of package 0's clockwise ring link, in states of their own. -/
def withLink (l : LinkRec) (t : DWord) : State := { base with now := t, net.links := [l], sched.slots := [], core.launch := 0 }
def meshRec : LinkRec := linkRec base 4
def ringRec : LinkRec := linkRec base (ringLink 0 false)
def someFlit : Flit := flitOf 0

theorem test_meets_LinksAndRings_links : meshRec.failed = false ∧ mustRetrain meshRec = false ∧ mustRetrain { meshRec with fails := 5 } = true
    ∧ mustRetrain { ringRec with fails := 4 } = true ∧ mustRetrain ringRec = false
    ∧ ({ meshRec with fwd := ⟨1, [], [someFlit], 0⟩ } : LinkRec).fwd.wire ≠ [] ∧ meshRec.fwd.wire = [] ∧ meshRec.back.wire = []
    ∧ ({ meshRec with back := ⟨1, [], [someFlit], 0⟩ } : LinkRec).back.wire ≠ [] ∧ ringRec.openFrame = []
    ∧ linkFailed (withLink { meshRec with failed := true } 0) 4 = true ∧ 4 < 2 ^ 40 ∧ linkFailed (withLink meshRec 0) 4 = false
    ∧ (linkRec (withLink meshRec 1000) 4).power = .full ∧ linkReserved (withLink meshRec 1000) 4 = false
    ∧ 1000 ≤ ((withLink meshRec 1000).now - meshRec.lastTraffic).toNat ∧ (withLink meshRec 0).net.waking.contains 4 = false
    ∧ (linkRec (withLink { meshRec with power := .narrow } 100000) 4).power = .narrow
    ∧ linkPlane 4 = 0 ∧ packageIdle (withLink { meshRec with power := .narrow } 100000) (linkPkg 4) = true
    ∧ endsQuiet (withLink { meshRec with power := .narrow } 100000) 4 = true
    ∧ 2 ^ 40 ≤ ringLink 0 false ∧ reachBeyond (withLink { ringRec with power := .narrow } 100000) (linkPort (ringLink 0 false)) = false
    ∧ 4 ∈ ({ base with net.waking := [4] } : State).net.waking := by decide +kernel

/-- The session of a link that retrains holds or not: a free value (log entry 79). -/
theorem test_meets_LinksAndRings_session (n : Nat) : Config.sessionHolds n = true ∨ Config.sessionHolds n = false := by
  cases Config.sessionHolds n <;> simp

/-- Frames: `n` flits in a ring link's record, `closed` of them in a frame that has closed. -/
def framed (n closed : Nat) : LinkRec := { ringRec with openFrame := List.replicate n ⟨1, true⟩, closed := closed }

theorem test_meets_LinksAndRings_frames : (framed 1 0).openFrame ≠ [] ∧ (framed 1 0).openFrame.length < 16 ∧ (framed 1 0).closed = 0
    ∧ 64 ≤ ((withLink (framed 1 0) 64).now - (framed 1 0).openAt).toNat
    ∧ [framed 16 0, framed 3 2].all (fun l => decide ((if l.closed = 0 then 16 else l.closed) ≤ l.openFrame.length) && l.session && !l.failed
      && !mustRetrain l && l.power != .sleep && decide (l.frame.toNat + 1 < 2 ^ 32 + l.keyStart)) = true
    ∧ 4 ≤ (withLink (framed 16 0) 0).health.bootStep ∧ ¬ 16 ≤ (framed 1 0).openFrame.length
    ∧ ringRec.oldKey = false ∧ ringRec.failed = false := by decide +kernel

/-- A request of package 1 for package 0 under its number 0: to apply an add, or to read a line; as it has come to its target. -/
def ringReq (b : RingBody) (n : BitVec 16) : RingReq :=
  { commitMessage 1 0 b with core := 16384, launch := 1, ord := 1, cls := 1, pa := escPa, sent := true, arrived := true, seq := n }
def adds (n : BitVec 16) : RingReq := ringReq (.semAdd 3 1 0) n

/-- Requests at their source, what the filter holds for the first, and answers on their way. -/
def answer (nack arrived : Bool) : RingResp := ⟨1, 0, 0, nack, [], true, arrived⟩
def ringState (l : List RingReq) (base' : BitVec 16) (e : List FilterEntry) : State :=
  { base with
    net.ringReqs := l, net.ringPairs := [⟨1, 0, 9, base', e⟩]
    net.ringResps := [answer false true, answer true true, answer false false] }
def oneAdd (e : List FilterEntry) : State := ringState [adds 0] 0 e

/-- Four control requests of the pair in progress at their target, and a fifth. -/
def crowdedPair : State := ringState ((List.range 5).map (fun k => adds (BitVec.ofNat 16 k))) 0 [⟨1, none⟩, ⟨2, none⟩, ⟨3, none⟩, ⟨4, none⟩]

theorem test_meets_LinksAndRings_requests : (oneAdd []).net.ringReqs[0]? = some (adds 0) ∧ (adds 0).arrived = true
    ∧ (oneAdd []).health.lostPkgs.contains (adds 0).dst = false
    ∧ ({ oneAdd [] with health.lostPkgs := [0] } : State).health.lostPkgs.contains (adds 0).dst = true
    ∧ seqBefore (ringPair (oneAdd []) 1 0).base (oldestOpen (oneAdd []) (adds 0)) = false ∧ seqBefore 0 (ringPair (oneAdd []) 1 0).base = false
    ∧ filterEntry (ringPair (oneAdd []) 1 0) 0 = none ∧ noRoom (oneAdd []) (adds 0) ⟨1, 0, 9, 0, []⟩ = false
    ∧ (ringExecute (adds 0) (oneAdd [])).2 = .done [0, 0, 0, 0]
    ∧ seqBefore 0 (ringPair (ringState [adds 0] 5 []) 1 0).base = true
    ∧ seqBefore (ringPair (ringState [adds 0] 5 []) 1 0).base (oldestOpen (ringState [adds 0] 5 []) (adds 0)) = false
    ∧ noRoom crowdedPair (adds 0) (ringPair crowdedPair 1 0) = true ∧ filterEntry (ringPair crowdedPair 1 0) 0 = none
    ∧ (adds 0).refused = 0 ∧ ({ adds 0 with refused := 1 } : RingReq).refused ≠ 0
    ∧ filterEntry (ringPair (oneAdd [⟨0, some [1]⟩]) 1 0) 0 = some ⟨0, some [1]⟩ ∧ repeats (adds 0).body = false
    ∧ repeats (RingBody.lineRead 0 8) = true
    ∧ filterEntry (ringPair (oneAdd [⟨0, none⟩]) 1 0) 0 = some ⟨0, none⟩
    ∧ ({ adds 0 with arrived := false } : RingReq).arrived = false := by decide +kernel

/-- A read of a line that commits, which is held where there is room for it: room is a free value (log entry 48). -/
def heldRead : RingReq := ringReq (.lineRead 0 8) 0
def heldState (n : Nat) : State :=
  { ringState [heldRead] 0 [] with
    fresh := n
    sched.halls := [⟨0, 2, .committing, 2, 0, 0, 0⟩]
    homes.lines := [{ LineRec.fresh escLine with ways := [⟨.shadow, 2, false, 0, 0, 0, 0⟩] }] }

theorem test_meets_LinksAndRings_stalls : (ringExecute heldRead (heldState 0)).2 = .held
    ∧ filterEntry (ringPair (heldState 0) 1 0) 0 = none ∧ noRoom (heldState 0) heldRead ⟨1, 0, 9, 0, []⟩ = false
    ∧ filterEntry (ringPair { heldState 0 with net.ringPairs := [⟨1, 0, 9, 0, [⟨0, some []⟩]⟩] } 1 0) 0 = some ⟨0, some []⟩ := by decide +kernel

/-- Remote-pool data that its target turns away for now. -/
def turnedAway : RingReq := ringReq (.copyData (remoteCopy 4096)) 0

theorem test_meets_LinksAndRings_refused : (ringExecute turnedAway { ringState [turnedAway] 0 [] with
    core.pool := (buffered .full).core.pool }).2 = .refused := by decide +kernel

theorem test_meets_LinksAndRings_responses : (oneAdd []).net.ringResps[0]? = some (answer false true)
    ∧ (oneAdd []).net.ringResps[1]? = some (answer true true) ∧ (oneAdd []).net.ringResps[2]? = some (answer false false)
    ∧ (oneAdd []).net.ringReqs.find? (fun r => r.src == 1 && r.dst == 0 && r.seq == 0) = some (adds 0)
    ∧ ({ adds 0 with refused := 2 } : RingReq).refused = 2 ∧ (adds 0).refused ≠ 2
    ∧ (ringState [] 0 []).net.ringReqs = [] ∧ (ringReq (.prepare 1) 0).body = .prepare 1
    ∧ resendDue (oneAdd []) { adds 0 with resendAt := some 0 } 0 = true ∧ resendDue (oneAdd []) (adds 0) 0 = false
    ∧ resendDue (oneAdd []) { adds 0 with sent := false } 1023 = true ∧ resendDue (oneAdd []) { adds 0 with sent := false } 1024 = false
    ∧ (ringDir (oneAdd []) 1 0).isSome = true
    ∧ ringDir { oneAdd [] with net.links := [{ ringRec with failed := true }, { linkRec base (ringLink 0 true) with failed := true },
        { linkRec base (ringLink 1 false) with failed := true }, { linkRec base (ringLink 1 true) with failed := true }] } 1 0 = none := by
  decide +kernel

/-- Flits on their way: at a station between, at the target, and at the bridge of the pod for another pod. -/
def awayReq : RingReq := { adds 0 with dst := 9 }
def awayData : RingReq := { turnedAway with dst := 9 }

theorem test_meets_LinksAndRings_flits : (oneAdd []).net.ringReqs.find? (fun r => ringKey r == ringKey (adds 0)) = some (adds 0)
    ∧ 2 ≠ ringGoal 2 (adds 0).dst ∧ 0 = ringGoal 0 (adds 0).dst ∧ (0 : Nat) = (adds 0).dst.toNat
    ∧ 128 = ringGoal 128 awayReq.dst ∧ (128 : Nat) ≠ awayReq.dst.toNat ∧ (ringDir base 256 (ringGoal 256 awayReq.dst)).isSome = true
    ∧ awayReq.body.isControl = true ∧ awayData.body.isControl = false
    ∧ ({ base with net.ringResps := [answer false false] } : State).net.ringReqs = []
    ∧ ({ base with net.ringResps := [answer false false] } : State).net.ringResps.find?
      (fun x => answerKey x == answerKey (answer false false) && !x.arrived) = some (answer false false)
    ∧ 2 ≠ ringGoal 2 (answer false false).src ∧ 1 = ringGoal 1 (answer false false).src ∧ 128 = ringGoal 128 (9 : BitVec 7)
    ∧ base.net.ringResps = [] ∧ base.net.ringReqs = []
    ∧ ({ ringRec with power := .sleep } : LinkRec).power ≠ .full ∧ ringRec.narrowed = false := by decide +kernel

/-- A bridge has room for data or not: a free value (log entry 48). -/
theorem test_meets_LinksAndRings_room (n : Nat) : Config.ringRoom n = true ∨ Config.ringRoom n = false := by
  cases Config.ringRoom n <;> simp

/-! ### The pager -/

/-- A copy of this core stopped at a page, the region in pager mode or its page there by now. -/
def paged (va e : Nat) : State :=
  let s := setExec 5 (some { runningCmd false with stopped := true, pager := some (va, false) }) (atHead 5 (command .copy #v[4096, 8192, 64, 0]))
  -- tables at 0x100000, 0x110000, 0x120000, 0x130000; entry 1 of the last is given
  let s := memWrite 0x100000 (leBytes 8 (1 + 0x110000)) { s with core.ptroot := 0x100000 }
  let s := memWrite 0x110000 (leBytes 8 (1 + 0x120000)) s
  let s := memWrite 0x120000 (leBytes 8 (1 + 0x130000)) s
  memWrite 0x130008 (leBytes 8 e) { s with sched.host.evqbase := 0x8000, sched.host.evqcfg := 4 }

/-- A request of slot 3 for a page of a launch. -/
def requested (va : Nat) : State := { base with sched.host.pageReqs := [⟨3, 1, false, 0, va, false, 5⟩] }

theorem test_meets_EnginesAtWork_pager : pagerNeed (paged 0x10000 (7 + 0x200000)) 5 = some (0x10000, false)
    ∧ (regionOf (ownLaunch base) 0x10000).isSome = true
    ∧ (walk (paged 0x10000 (7 + 0x200000)) (paged 0x10000 (7 + 0x200000)).core.ptroot 0x10000).page.isSome = true
    ∧ (walk (paged 0x10000 32) (paged 0x10000 32).core.ptroot 0x10000).page = none
    ∧ (walk (paged 0x10000 32) (paged 0x10000 32).core.ptroot 0x10000).entry.getLsbD 5 = true
    ∧ (walk (paged 0x10000 0) (paged 0x10000 0).core.ptroot 0x10000).page = none
    ∧ (walk (paged 0x10000 0) (paged 0x10000 0).core.ptroot 0x10000).entry.getLsbD 5 = false
    ∧ (paged 0x10000 0).sched.host.pageReqs = [] ∧ ringEntries (paged 0x10000 0) = 16
    ∧ ((paged 0x10000 0).sched.host.evqtail.toNat + 1) % 16 ≠ (paged 0x10000 0).sched.host.evqhead.toNat
    ∧ pagerNeed (paged (2 ^ 40) 0) 5 = some (2 ^ 40, false) ∧ (regionOf (ownLaunch base) (2 ^ 40)).isSome = false
    ∧ ((requested 0x10000).sched.host.pageReqs.find? (fun x => x.slot == 3)).map (fun x => (x.launch, x.va)) = some (1, 0x10000)
    ∧ (regionOf (launchOf (requested 0x10000) 1) 0x10000).isSome = true := by decide +kernel

/-! ## Values: the spec's own tables and examples, or worked out by hand -/

/-- The state after an instruction. -/
noncomputable def after (i : Instr) (s : State) : State :=
  match exec i s with
  | .next t => t
  | .fault _ | .refused _ => s

/-- Scalar registers 1 and 2 set, and what then becomes of register 3: at once, or on its way. -/
def scalars (x y : DWord) : State := { base with core.regs.s := (base.core.regs.s.set 1 x).set 2 y }
noncomputable def into3 (i : Instr) (x y : DWord) : List DWord :=
  let t := after i (scalars x y)
  t.core.regs.latent.filterMap (fun l => match l with | .scalar 3 v => some v | _ => none) ++ [readS t 3]

/-- R52: the sum wraps; the saturating sum stays at 2^63 - 1; the word form extends its sign. -/
theorem test_add : into3 (.add 3 1 2 false false) 0xFFFFFFFFFFFFFFFF 2 = [1]
    ∧ into3 (.addsat 3 1 2 false false) 0x7FFFFFFFFFFFFFFF 1 = [0x7FFFFFFFFFFFFFFF]
    ∧ into3 (.subsat 3 1 2 false false) 0x8000000000000000 1 = [0x8000000000000000]
    ∧ into3 (.addw 3 1 2 false false) 0x7FFFFFFF 1 = [0xFFFFFFFF80000000]
    ∧ into3 (.andn 3 1 2 false false) 0xFF 0x0F = [0xF0] := by decide +kernel

/-- R53: the amount of a word shift is five bits; the rotate brings bits round. -/
theorem test_shift : into3 (.sraw 3 1 2 false false) 0x80000000 33 = [0xFFFFFFFFC0000000]
    ∧ into3 (.srl 3 1 2 false false) 0x8000000000000000 0x7F = [1]
    ∧ into3 (.rol 3 1 2 false false) 0x8000000000000001 1 = [3]
    ∧ into3 (.slliw 3 1 31) 1 0 = [0xFFFFFFFF80000000] := by decide +kernel

/-- R54, R55: the high half of a signed by unsigned product; division by zero and the overflow of division. -/
theorem test_multiply_divide : (into3 (.mulhsu 3 1 2 false false) 0xFFFFFFFFFFFFFFFF 2).head? = some 0xFFFFFFFFFFFFFFFF
    ∧ (into3 (.div 3 1 2 false false) 7 0).head? = some 0xFFFFFFFFFFFFFFFF
    ∧ (into3 (.div 3 1 2 false false) 0x8000000000000000 0xFFFFFFFFFFFFFFFF).head? = some 0x8000000000000000
    ∧ (into3 (.rem 3 1 2 false false) 0xFFFFFFFFFFFFFFF9 2).head? = some 0xFFFFFFFFFFFFFFFF
    ∧ (into3 (.remuw 3 1 2 false false) 0x80000000 0).head? = some 0xFFFFFFFF80000000 := by decide +kernel

/-- R56, R58, R59, R62. -/
theorem test_counts_and_immediates : into3 (.clz 3 1 false) 0 0 = [64] ∧ into3 (.clz 3 1 false) 1 0 = [63]
    ∧ into3 (.minu 3 1 2 false false) 0xFFFFFFFFFFFFFFFF 1 = [1] ∧ into3 (.min 3 1 2 false false) 0xFFFFFFFFFFFFFFFF 1 = [0xFFFFFFFFFFFFFFFF]
    ∧ into3 (.scaddx 3 1 2 false false 3) 16 0xFFFFFFFF = [8] ∧ into3 (.andi 3 1 0x7FF8) 0xFFFFFFFFFFFFFFFF 0 = [0xFFFFFFFFFFFFFFF8]
    ∧ into3 (.lui 3 0x80000) 0 0 = [0xFFFFFFFC00000000] := by decide +kernel

/-- R61: the extended immediate is compared as an unsigned number: 5 < 2^64 - 1. -/
theorem test_compare : (after (.cmpltui 2 1 0xFFF) (scalars 5 0)).core.regs.p.getLsbD 2 = true
    ∧ (after (.cmplti 2 1 0xFFF) (scalars 5 0)).core.regs.p.getLsbD 2 = false := by decide +kernel

/-- R270: the package-scope release cost of the near class. -/
theorem test_disc : (into3 (.disc 3 1 false) 0x1016 0).head? = some 0x8000008FC0000096 := by decide +kernel

/-- R325, R326: `TRAP 37` saves the pc, gives cause 0x18 and the number, and goes to the handler. -/
theorem test_trap : let t := after (.trap 37) { base with core.seq.pc := 100, core.sys.tvec := 3600 }
    t.core.sys.tcause = 0x18 ∧ t.core.sys.taddr = 37 ∧ t.core.seq.pc = 3600 ∧ t.core.seq.mode = .handler := by decide +kernel

/-- The walk of R232's example: entry 544 of the level-3 table maps 2 MiB. The tables of levels 0 to 2 are at 0x1000, 0x3000, 0x5000. -/
def walked : State :=
  let s := memWrite 0x2000 (leBytes 8 0x4001) State.reset
  let s := memWrite (0x4000 + 8 * 4) (leBytes 8 0x6001) s
  let s := memWrite (0x6000 + 8 * 2) (leBytes 8 0x8001) s
  memWrite (0x8000 + 8 * 544) (leBytes 8 0x000069100060000F) s

theorem test_walk : (walk walked 0x2000 0x400A3F1234).page = some (0x691000600000, 21, true)
    ∧ homeOf 0x6910007F1234 = (17, 0x7F1234) ∧ paPkg 0x6910007F1234 = 3 := by decide +kernel

/-- R229: chiplet 19 is at (11, 1), chiplet 24 at (12, 0). -/
theorem test_sites : siteOf 19 = (11, 1) ∧ siteOf 24 = (12, 0) := by decide +kernel

/-! ### Vectors -/

/-- Lanes from a list, the rest 0. -/
def lanes (l : List Word) : VReg := Vector.ofFn (fun i => l.getD i.val 0)
def vectors (x y : List Word) : State := { base with core.regs.v := (base.core.regs.v.set 4 (lanes x)).set 5 (lanes y) }

/-- What is on its way to vector register 8, lane by lane, and the flags. -/
noncomputable def into8 (i : Instr) (x y : List Word) : Option (List Word) × BitVec 6 :=
  let t := after i (vectors x y)
  ((t.core.regs.latent.findSome? (fun l => match l with | .vector 8 v => some v | _ => none)).map (fun v => v.toList), t.core.sys.fpflag)
noncomputable def lane0 (i : Instr) (x y : List Word) : Option Word × BitVec 6 :=
  let r := into8 i x y
  (r.1.bind (fun v => v[0]?), r.2)

/-- R96-R98: an inexact sum of 2^24 and 1 is a tie; ∞ - ∞; 0 x ∞ with a NaN addend; a maximum drops a NaN. -/
theorem test_vector_float : lane0 (.vaddF32 8 4 5 0) [0x4B800000] [0x3F800000] = (some 0x4B800000, 0x10)
    ∧ lane0 (.vsubF32 8 4 5 0) [0x7F800000] [0x7F800000] = (some 0x7FC00000, 1)
    ∧ lane0 (.vmulF32 8 4 5 2) [0x7F7FFFFF] [0x40000000] = (some 0x7F7FFFFF, 0x14)
    ∧ lane0 (.vmaxF32 8 4 5) [0x7FC00000] [0xC0000000] = (some 0xC0000000, 0) := by decide +kernel

/-- R99: 2^-1, 1/0, and the logarithm of 8. -/
theorem test_transcendental : lane0 (.vexp2 8 4 false) [0xBF800000] [] = (some 0x3F000000, 0)
    ∧ lane0 (.vrcp 8 4 false) [0x80000000] [] = (some 0xFF800000, 2) ∧ lane0 (.vlog2 8 4 false) (List.replicate 16 0x41000000) [] = (some 0x40400000, 0)
    ∧ lane0 (.vrsq 8 4 false) (List.replicate 16 0x40800000) [] = (some 0x3F000000, 0) := by decide +kernel

/-- R100. -/
theorem test_vector_integer : lane0 (.vaddsZ32 8 4 5) [0xFFFFFFFF] [2] = (some 0xFFFFFFFF, 0)
    ∧ lane0 (.vmulhI32 8 4 5) [0xFFFFFFFF] [2] = (some 0xFFFFFFFF, 0) ∧ lane0 (.vmulhZ32 8 4 5) [0xFFFFFFFF] [2] = (some 1, 0)
    ∧ lane0 (.vsrai 8 4 31) [0x80000000] [] = (some 0xFFFFFFFF, 0) := by decide +kernel

/-- R183: 464 and 500 narrowed to E4M3, and half the least subnormal, under each reading. -/
theorem test_narrow_e4m3 : lane0 (.vcvtE4m3F32 8 4 0 0 false 0) [0x43E80000] [] = (some 0x7E, 0x10)
    ∧ lane0 (.vcvtE4m3F32 8 4 0 0 false 1) [0x43FA0000] [] = (some 0x7F, 0x14)
    ∧ lane0 (.vcvtE4m3F32 8 4 0 0 true 2) [0x43F00000] [] = (some 0x77, 0x30)
    ∧ lane0 (.vcvtE4m3F32 8 4 0 0 false 0) [0xBA800000] [] = (some 0x80, 0x18)
    ∧ lane0 (.vcvtE4m3F32 8 4 0 0 false 0) [0x7FC00000] [] = (some 0, 1) := by decide +kernel

/-- R184, R185: 5.0 to E2M1; the ties of BF16. -/
theorem test_narrow_others : lane0 (.vcvtE2m1F32 8 4 0 0 true 2) [0x40A00000] [] = (some 5, 0x30)
    ∧ lane0 (.vcvtE2m1F32 8 4 0 0 false 0) [0xBE800000] [] = (some 8, 0x18)
    ∧ lane0 (.vcvtBf16F32 8 4 5 0 false) [0x3F808000] [0x3F818000] = (some 0x3F823F80, 0x10)
    ∧ lane0 (.vcvtI32F32 8 4 0) [0x4F000000] [] = (some 0x7FFFFFFF, 1) := by decide +kernel

/-- The block of chapter 3, packed at its limits. -/
theorem test_block : into8 (.vbscale 8 4 5 0 1) [0x447A0000, 0xC0400000, 0x3C23D70A] [] = (some (List.replicate 16 0x80), 0)
    ∧ lane0 (.vbpack 8 4 5 0 false 0 1 false) [0x447A0000, 0xC0400000, 0x3C23D70A] [] = (some 0x3BC7E, 0x38) := by decide +kernel

/-- R179: codes 7, 8 and 12 of an E2M1 block with S = 0x7E and E = 0x4A read as 3, 2.5 and -1. -/
theorem test_unblock : (into8 (.vbunpk 8 4 5 0 2 0 0 false) [0xC87] [0x4A7E]).1.map (fun l => l.take 3)
    = some [0x40400000, 0x40200000, 0xBF800000] := by decide +kernel

/-- R107: the tree adds -0 to itself; the largest magnitude drops a NaN. -/
theorem test_reduce : lane0 (.vraddF32 8 4 0) (List.replicate 16 0x80000000) [] = (some 0x80000000, 0)
    ∧ lane0 (.vramaxF32 8 4) [0x7FC00000, 0xC0400000, 0x3F800000] [] = (some 0x40400000, 0)
    ∧ (into8 (.vrot 8 4 1) [7, 9] []).1.map (fun l => (l[0]?, l[15]?)) = some (some 9, some 7) := by decide +kernel

/-! ### Memory at a home -/

/-- R198: the word form of an unsigned minimum zero-extends what it returns, the compare-and-swap extends its sign. -/
theorem test_atomic : atomicReturn 6 false 0x80000000 = 0x80000000 ∧ atomicReturn 9 false 0x80000000 = 0xFFFFFFFF80000000
    ∧ atomicMem 4 false 0xFFFFFFFF 1 0 = 0xFFFFFFFF ∧ atomicMem 6 false 0xFFFFFFFF 1 0 = 1 ∧ atomicMem 9 true 5 7 5 = 7 := by decide +kernel

/-! ### The fetch -/

/-- The word of `ADD s3, s1, s2` decodes to it, and the first step after reset with it placed runs it: `s1` holds 0 and so does `s3`,
the pc moves on. -/
theorem test_first_step : decodeTableWord 32 0x02308800 = some (.add 3 1 2 false false)
    ∧ (match step (State.reset.withFetchWord 32 0x02308800) with
      | .next t => some (t.core.seq.pc, readS t 3)
      | .fault _ | .refused _ => none) = some (1, 0) := by decide +kernel

end Sys2Proof.Tests
end

section
/-! SUPPORT. Decoding and encoding (R39 to R41): the fields of a concatenation, and that the decoder reads from the word of each
well-formed instruction that instruction. -/

namespace Sys2Proof

/-- A field that lies across a boundary of a concatenation has a value when its two parts have. -/
theorem extractLsb'_append_eq_iff {v w : Nat} {hi : BitVec v} {lo : BitVec w} {start len : Nat} {c : BitVec len}
    (h : start < w) (h' : w - start < len) :
    (hi ++ lo).extractLsb' start len = c ↔
      lo.extractLsb' start (w - start) = c.extractLsb' 0 (w - start)
        ∧ hi.extractLsb' 0 (len - (w - start)) = c.extractLsb' (w - start) (len - (w - start)) := by
  constructor
  · rintro rfl
    constructor
    · ext i hi
      simp only [BitVec.getElem_extractLsb', BitVec.getLsbD_append, BitVec.getLsbD_extractLsb']
      simp [show i < len by omega, show start + i < w by omega]
    · ext i hi
      simp only [BitVec.getElem_extractLsb', BitVec.getLsbD_append, BitVec.getLsbD_extractLsb']
      simp [show w - start + i < len by omega, show ¬ start + (w - start + i) < w by omega,
        show start + (w - start + i) - w = i by omega]
  · rintro ⟨hlo, hhi⟩
    ext i hlen
    simp only [BitVec.getElem_extractLsb', BitVec.getLsbD_append]
    split
    · have := congrArg (fun x => x.getLsbD i) hlo
      simpa [show i < w - start by omega, hlen] using this
    · have := congrArg (fun x => x.getLsbD (i - (w - start))) hhi
      simpa [show i - (w - start) < len - (w - start) by omega, show w - start + (i - (w - start)) = i by omega,
        show start + i - w = i - (w - start) by omega, hlen] using this

/-- Where a field or a bit of a concatenation lies: in its low part, in its high part, or across the boundary; and what the
fields of one part by itself are. -/
theorem word_fields :
    (∀ {v w : Nat} {hi : BitVec v} {lo : BitVec w} {start len : Nat}, start + len ≤ w →
      (hi ++ lo).extractLsb' start len = lo.extractLsb' start len)
    ∧ (∀ {v w : Nat} {hi : BitVec v} {lo : BitVec w} {start len : Nat}, w ≤ start →
      (hi ++ lo).extractLsb' start len = hi.extractLsb' (start - w) len)
    ∧ (∀ {v w : Nat} {hi : BitVec v} {lo : BitVec w} {start len : Nat} {c : BitVec len}, start < w → w - start < len →
      ((hi ++ lo).extractLsb' start len = c ↔ lo.extractLsb' start (w - start) = c.extractLsb' 0 (w - start)
        ∧ hi.extractLsb' 0 (len - (w - start)) = c.extractLsb' (w - start) (len - (w - start))))
    ∧ (∀ {v w : Nat} {hi : BitVec v} {lo : BitVec w} {i : Nat}, i < w → (hi ++ lo).getLsbD i = lo.getLsbD i)
    ∧ (∀ {v w : Nat} {hi : BitVec v} {lo : BitVec w} {i : Nat}, w ≤ i → (hi ++ lo).getLsbD i = hi.getLsbD (i - w))
    ∧ (∀ {w : Nat} (x : BitVec w), x.extractLsb' 0 w = x) ∧ ∀ b : Bool, (bit1 b).getLsbD 0 = b :=
  ⟨BitVec.extractLsb'_append_eq_of_add_le, BitVec.extractLsb'_append_eq_of_le, extractLsb'_append_eq_iff,
    fun h => by simp [BitVec.getLsbD_append, h], fun h => by simp [BitVec.getLsbD_append, h],
    fun _ => BitVec.extractLsb'_eq_self, fun b => by simp⟩

/-- The decoder finds in the word of an instruction the fields of that instruction. -/
def Reads (i : Instr) : Prop := decodeFields (encode i) = some i

-- The first use of `encode` and `decodeFields` makes their equations; done in order, no later lemma waits for them in a thread of its own.
set_option Elab.async false in
/-- The rows of scalar arithmetic (majors 0x01 to 0x07). -/
theorem reads_scalar :
    (∀ d a b fa fb, Reads (.add d a b fa fb)) ∧ (∀ d a b fa fb, Reads (.sub d a b fa fb)) ∧
    (∀ d a b fa fb, Reads (.andR d a b fa fb)) ∧ (∀ d a b fa fb, Reads (.orR d a b fa fb)) ∧
    (∀ d a b fa fb, Reads (.xorR d a b fa fb)) ∧ (∀ d a b fa fb, Reads (.andn d a b fa fb)) ∧
    (∀ d a b fa fb, Reads (.addw d a b fa fb)) ∧ (∀ d a b fa fb, Reads (.subw d a b fa fb)) ∧
    (∀ d a b fa fb, Reads (.addsat d a b fa fb)) ∧ (∀ d a b fa fb, Reads (.subsat d a b fa fb)) ∧
    (∀ d a b fa fb, Reads (.sll d a b fa fb)) ∧ (∀ d a b fa fb, Reads (.srl d a b fa fb)) ∧
    (∀ d a b fa fb, Reads (.sra d a b fa fb)) ∧ (∀ d a b fa fb, Reads (.rol d a b fa fb)) ∧
    (∀ d a b fa fb, Reads (.ror d a b fa fb)) ∧ (∀ d a b fa fb, Reads (.sllw d a b fa fb)) ∧
    (∀ d a b fa fb, Reads (.srlw d a b fa fb)) ∧ (∀ d a b fa fb, Reads (.sraw d a b fa fb)) ∧
    (∀ d a b fa fb, Reads (.mul d a b fa fb)) ∧ (∀ d a b fa fb, Reads (.mulh d a b fa fb)) ∧
    (∀ d a b fa fb, Reads (.mulhu d a b fa fb)) ∧ (∀ d a b fa fb, Reads (.mulhsu d a b fa fb)) ∧
    (∀ d a b fa fb, Reads (.mulw d a b fa fb)) ∧ (∀ d a b fa fb, Reads (.div d a b fa fb)) ∧
    (∀ d a b fa fb, Reads (.divu d a b fa fb)) ∧ (∀ d a b fa fb, Reads (.rem d a b fa fb)) ∧
    (∀ d a b fa fb, Reads (.remu d a b fa fb)) ∧ (∀ d a b fa fb, Reads (.divw d a b fa fb)) ∧
    (∀ d a b fa fb, Reads (.divuw d a b fa fb)) ∧ (∀ d a b fa fb, Reads (.remw d a b fa fb)) ∧
    (∀ d a b fa fb, Reads (.remuw d a b fa fb)) ∧ (∀ d a fa, Reads (.clz d a fa)) ∧ (∀ d a fa, Reads (.popc d a fa)) ∧
    (∀ d a b fa fb, Reads (.min d a b fa fb)) ∧ (∀ d a b fa fb, Reads (.max d a b fa fb)) ∧
    (∀ d a b fa fb, Reads (.minu d a b fa fb)) ∧ (∀ d a b fa fb, Reads (.maxu d a b fa fb)) ∧
    (∀ d a b fa fb neg p, Reads (.sel d a b fa fb neg p)) ∧ (∀ d a b fa fb sh, Reads (.scadd d a b fa fb sh)) ∧
    (∀ d a b fa fb sh, Reads (.scaddx d a b fa fb sh)) ∧ (∀ d a b fa fb sh, Reads (.scaddz d a b fa fb sh)) := by
  simp only [Reads, encode, decodeFields, decodeMajor01, decodeMajor02, decodeMajor03, decodeMajor04, decodeMajor05,
    decodeMajor06, decodeMajor07, wordAdd, wordSub, wordAndR, wordOrR, wordXorR, wordAndn, wordAddw, wordSubw,
    wordAddsat, wordSubsat, wordSll, wordSrl, wordSra, wordRol, wordRor, wordSllw, wordSrlw, wordSraw, wordMul,
    wordMulh, wordMulhu, wordMulhsu, wordMulw, wordDiv, wordDivu, wordRem, wordRemu, wordDivw, wordDivuw, wordRemw,
    wordRemuw, wordClz, wordPopc, wordMin, wordMax, wordMinu, wordMaxu, wordSel, wordScadd, wordScaddx, wordScaddz,
    word_fields, Word.bits, Nat.reduceLT, Nat.reduceLeDiff, Nat.reduceSub, BitVec.reduceEq, BitVec.reduceExtractLsb',
    ↓reduceIte, Nat.zero_add, and_true, and_false, false_and, implies_true]

/-- The rows of immediate forms (majors 0x10 to 0x17). -/
theorem reads_immediates :
    (∀ d a imm, Reads (.addi d a imm)) ∧ (∀ d a imm, Reads (.andi d a imm)) ∧ (∀ d a imm, Reads (.ori d a imm)) ∧
    (∀ d a imm, Reads (.xori d a imm)) ∧ (∀ d a n, Reads (.slliw d a n)) ∧ (∀ d a n, Reads (.srliw d a n)) ∧
    (∀ d a n, Reads (.sraiw d a n)) ∧ (∀ d a n, Reads (.slli d a n)) ∧ (∀ d a n, Reads (.srli d a n)) ∧
    (∀ d a n, Reads (.srai d a n)) ∧ (∀ d a n, Reads (.rori d a n)) ∧ (∀ d a imm, Reads (.addiw d a imm)) ∧
    (∀ p a imm, Reads (.cmpeqi p a imm)) ∧ (∀ p a imm, Reads (.cmpnei p a imm)) ∧
    (∀ p a imm, Reads (.cmplti p a imm)) ∧ (∀ p a imm, Reads (.cmpgei p a imm)) ∧
    (∀ p a imm, Reads (.cmpltui p a imm)) ∧ (∀ p a imm, Reads (.cmpgeui p a imm)) ∧ (∀ d imm, Reads (.lui d imm)) := by
  simp only [Reads, encode, decodeFields, decodeMajor10, decodeMajor11, decodeMajor12, decodeMajor13, decodeMajor14,
    decodeMajor15, decodeMajor16, decodeMajor17, wordAddi, wordAndi, wordOri, wordXori, wordSlliw, wordSrliw,
    wordSraiw, wordSlli, wordSrli, wordSrai, wordRori, wordAddiw, wordCmpeqi, wordCmpnei, wordCmplti, wordCmpgei,
    wordCmpltui, wordCmpgeui, wordLui, word_fields, Word.bits, Nat.reduceLT, Nat.reduceLeDiff, Nat.reduceSub,
    BitVec.reduceEq, BitVec.reduceExtractLsb', ↓reduceIte, Nat.zero_add, and_true, and_false, implies_true]

/-- The rows of scalar loads and stores (majors 0x18, 0x19, 0x1A, 0x1B). -/
theorem reads_scalarMemory :
    (∀ d a kind idx, Reads (.pldIndexed d a kind idx)) ∧ (∀ d a kind off, Reads (.pld d a kind off)) ∧
    (∀ d a kind idx, Reads (.pstIndexed d a kind idx)) ∧ (∀ d a kind off, Reads (.pst d a kind off)) ∧
    (∀ d a kind idx, Reads (.gldIndexed d a kind idx)) ∧ (∀ d a kind off, Reads (.gld d a kind off)) ∧
    (∀ d a width sc idx, Reads (.gstIndexed d a width sc idx)) ∧ (∀ d a width sc off, Reads (.gst d a width sc off)) := by
  simp only [Reads, encode, decodeFields, decodeMajor18, decodeMajor19, decodeMajor1A, decodeMajor1B, wordPldIndexed,
    wordPld, wordPstIndexed, wordPst, wordGldIndexed, wordGld, wordGstIndexed, wordGst, word_fields, Word.bits,
    Nat.reduceLeDiff, Nat.reduceSub, BitVec.reduceEq, ↓reduceIte, Nat.zero_add, and_true, and_false, false_and,
    implies_true]

/-- The rows of branches, compares, predicates, loops and control words (majors 0x1C to 0x24). -/
theorem reads_control :
    (∀ b disp, Reads (.pbr b disp)) ∧ (∀ b p neg, Reads (.br b p neg)) ∧ (∀ b p neg, Reads (.brl b p neg)) ∧
    (∀ d a, Reads (.pnot d a)) ∧ (∀ d a, Reads (.pget d a)) ∧ (∀ d a b, Reads (.pand d a b)) ∧
    (∀ d a b, Reads (.por d a b)) ∧ (∀ d a b, Reads (.pxor d a b)) ∧ (∀ d a b, Reads (.pandn d a b)) ∧
    (∀ d a fa, Reads (.pset d a fa)) ∧ (∀ p a b fa fb, Reads (.cmpeq p a b fa fb)) ∧
    (∀ p a b fa fb, Reads (.cmpne p a b fa fb)) ∧ (∀ p a b fa fb, Reads (.cmplt p a b fa fb)) ∧
    (∀ p a b fa fb, Reads (.cmpge p a b fa fb)) ∧ (∀ p a b fa fb, Reads (.cmpltu p a b fa fb)) ∧
    (∀ p a b fa fb, Reads (.cmpgeu p a b fa fb)) ∧ (∀ d a fa, Reads (.pbrr d a fa)) ∧ (∀ lvl, Reads (.lbrk lvl)) ∧
    (∀ lvl a len, Reads (.loop lvl a len)) ∧ (∀ lvl raw len, Reads (.loopi lvl raw len)) ∧
    (∀ a m, Reads (.mcall a m)) ∧ (∀ a stepNo m, Reads (.mstore a stepNo m)) ∧ Reads .nop ∧ Reads .exit ∧
    (∀ d, Reads (.cyc d)) ∧ (∀ a fa, Reads (.ovl a fa)) := by
  simp only [Reads, encode, decodeFields, decodeMajor1C, decodeMajor1D, decodeMajor1E, decodeMajor1F, decodeMajor20,
    decodeMajor21, decodeMajor22, decodeMajor24, wordPbr, wordBr, wordBrl, wordPnot, wordPget, wordPand, wordPor,
    wordPxor, wordPandn, wordPset, wordCmpeq, wordCmpne, wordCmplt, wordCmpge, wordCmpltu, wordCmpgeu, wordPbrr,
    wordLbrk, wordLoop, wordLoopi, wordMcall, wordMstore, wordNop, wordExit, wordCyc, wordOvl, word_fields, Word.bits,
    Nat.reduceLT, Nat.reduceLeDiff, Nat.reduceSub, BitVec.reduceEq, BitVec.reduceExtractLsb', ↓reduceIte,
    Nat.zero_add, and_true, true_and, and_false, false_and, implies_true]

/-- The rows of system registers that have a row of their own, and `MOV` (majors 0x23). -/
theorem reads_systemRegisters :
    (∀ d, Reads (.mfsTcause d)) ∧ (∀ a, Reads (.mtsPartw a)) ∧ (∀ a, Reads (.mtsFpctl a)) ∧
    (∀ a, Reads (.mtsFpflag a)) ∧ (∀ a, Reads (.mtsMsdepth a)) ∧ (∀ d a, Reads (.mov d a)) := by
  simp only [Reads, encode, decodeFields, decodeMajor23, wordMfsTcause, wordMtsPartw, wordMtsFpctl, wordMtsFpflag,
    wordMtsMsdepth, wordMov, word_fields, Word.bits, Nat.reduceLT, Nat.reduceLeDiff, Nat.reduceSub, BitVec.reduceEq,
    BitVec.reduceExtractLsb', ↓reduceIte, Nat.zero_add, and_true, and_false, false_and, implies_true]

/-- The numbers of the status registers, queues and loop counts name rows of their own, the other numbers the general rows. -/
theorem reads_numberedRegisters :
    (∀ d r, (Instr.mfs d r).wf → Reads (.mfs d r)) ∧ (∀ d r, (Instr.mfsEngineStatus d r).wf → Reads (.mfsEngineStatus d r)) ∧
    (∀ a r, (Instr.mts a r).wf → Reads (.mts a r)) ∧ (∀ a r, (Instr.mtsLc a r).wf → Reads (.mtsLc a r)) ∧
    (∀ a r, (Instr.mtsQht a r).wf → Reads (.mtsQht a r)) := by
  simp only [Reads, encode, decodeFields, decodeMajor23, wordMfs, wordMfsEngineStatus, wordMts, wordMtsLc, wordMtsQht,
    word_fields, Word.bits, Nat.reduceLT, Nat.reduceLeDiff, Nat.reduceSub, BitVec.reduceEq, BitVec.reduceExtractLsb',
    ↓reduceIte, Nat.zero_add, and_true, true_and, and_false, false_and]
  refine ⟨fun d r h => ?_, fun d r h => ?_, fun a r h => ?_, fun a r h => ?_, fun a r h => ?_⟩
  · have hr : r ≠ 32#12 ∧ ¬(8#12 ≤ r ∧ r ≤ 17#12) := of_decide_eq_true h
    rw [if_neg hr.1, if_neg hr.2]
  · have hr : 8#12 ≤ r ∧ r ≤ 17#12 := of_decide_eq_true h
    rw [if_neg (by bv_omega), if_pos hr]
  · have hr : 3#12 ≤ r ∧ ¬(12#12 ≤ r ∧ r ≤ 22#12) := of_decide_eq_true h
    rw [if_neg (by bv_omega), if_neg (by bv_omega), if_neg (by bv_omega), if_neg (by bv_omega), if_neg (by bv_omega),
      if_neg (by bv_omega)]
  · have hr : 18#12 ≤ r ∧ r ≤ 21#12 := of_decide_eq_true h
    rw [if_neg (by bv_omega), if_neg (by bv_omega), if_neg (by bv_omega), if_neg (by bv_omega), if_pos hr]
  · have hr : 12#12 ≤ r ∧ r ≤ 17#12 := of_decide_eq_true h
    rw [if_neg (by bv_omega), if_neg (by bv_omega), if_neg (by bv_omega), if_neg (by bv_omega), if_neg (by bv_omega),
      if_pos hr]

/-- The rows of vector floating-point arithmetic (majors 0x40, 0x41). -/
theorem reads_vectorFloat :
    (∀ d a, Reads (.vabsF32 d a)) ∧ (∀ d a, Reads (.vnegF32 d a)) ∧ (∀ d a rm, Reads (.vexp2 d a rm)) ∧
    (∀ d a rm, Reads (.vrcp d a rm)) ∧ (∀ d a rm, Reads (.vrsq d a rm)) ∧ (∀ d a rm, Reads (.vlog2 d a rm)) ∧
    (∀ d a b, Reads (.vminF32 d a b)) ∧ (∀ d a b, Reads (.vmaxF32 d a b)) ∧ (∀ d a b rm, Reads (.vaddF32 d a b rm)) ∧
    (∀ d a b rm, Reads (.vsubF32 d a b rm)) ∧ (∀ d a b rm, Reads (.vmulF32 d a b rm)) ∧
    (∀ d a b rm, Reads (.vfmaF32 d a b rm)) ∧ (∀ d a b rm, Reads (.vfmsF32 d a b rm)) ∧
    (∀ d a b rm, Reads (.vfnmaF32 d a b rm)) ∧ (∀ d a, Reads (.vabsBf16 d a)) ∧ (∀ d a, Reads (.vnegBf16 d a)) ∧
    (∀ d a b, Reads (.vminBf16 d a b)) ∧ (∀ d a b, Reads (.vmaxBf16 d a b)) ∧
    (∀ d a b rm, Reads (.vaddBf16 d a b rm)) ∧ (∀ d a b rm, Reads (.vsubBf16 d a b rm)) ∧
    (∀ d a b rm, Reads (.vmulBf16 d a b rm)) ∧ (∀ d a b rm, Reads (.vfmaBf16 d a b rm)) ∧
    (∀ d a b rm, Reads (.vfmsBf16 d a b rm)) ∧ (∀ d a b rm, Reads (.vfnmaBf16 d a b rm)) := by
  simp only [Reads, encode, decodeFields, decodeMajor40, decodeMajor41, wordVabsF32, wordVnegF32, wordVexp2,
    wordVrcp, wordVrsq, wordVlog2, wordVminF32, wordVmaxF32, wordVaddF32, wordVsubF32, wordVmulF32, wordVfmaF32,
    wordVfmsF32, wordVfnmaF32, wordVabsBf16, wordVnegBf16, wordVminBf16, wordVmaxBf16, wordVaddBf16, wordVsubBf16,
    wordVmulBf16, wordVfmaBf16, wordVfmsBf16, wordVfnmaBf16, word_fields, Word.bits, Nat.reduceLT, Nat.reduceLeDiff,
    Nat.reduceSub, BitVec.reduceEq, BitVec.reduceExtractLsb', ↓reduceIte, Nat.zero_add, and_true, true_and, and_false,
    false_and, implies_true]

/-- The rows of vector integer arithmetic, compares and masks (majors 0x42, 0x43). -/
theorem reads_vectorInteger :
    (∀ d a b, Reads (.vaddI32 d a b)) ∧ (∀ d a b, Reads (.vsubI32 d a b)) ∧ (∀ d a b, Reads (.vmulI32 d a b)) ∧
    (∀ d a b, Reads (.vmulhI32 d a b)) ∧ (∀ d a b, Reads (.vmulhZ32 d a b)) ∧ (∀ d a b, Reads (.vaddsI32 d a b)) ∧
    (∀ d a b, Reads (.vsubsI32 d a b)) ∧ (∀ d a b, Reads (.vaddsZ32 d a b)) ∧ (∀ d a b, Reads (.vsubsZ32 d a b)) ∧
    (∀ d a b, Reads (.vminI32 d a b)) ∧ (∀ d a b, Reads (.vmaxI32 d a b)) ∧ (∀ d a b, Reads (.vminZ32 d a b)) ∧
    (∀ d a b, Reads (.vmaxZ32 d a b)) ∧ (∀ d a b, Reads (.vand d a b)) ∧ (∀ d a b, Reads (.vor d a b)) ∧
    (∀ d a b, Reads (.vxor d a b)) ∧ (∀ d a b, Reads (.vandn d a b)) ∧ (∀ d a b, Reads (.vsll d a b)) ∧
    (∀ d a b, Reads (.vsrl d a b)) ∧ (∀ d a b, Reads (.vsra d a b)) ∧ (∀ d a n, Reads (.vslli d a n)) ∧
    (∀ d a n, Reads (.vsrli d a n)) ∧ (∀ d a n, Reads (.vsrai d a n)) ∧ (∀ d, Reads (.qtop d)) ∧
    (∀ d a, Reads (.qnot d a)) ∧ (∀ d a b, Reads (.qand d a b)) ∧ (∀ d a b, Reads (.qor d a b)) ∧
    (∀ d a b, Reads (.qxor d a b)) ∧ (∀ d a b, Reads (.qandn d a b)) ∧ (∀ q a b cond, Reads (.vcmpF32 q a b cond)) ∧
    (∀ q a b cond, Reads (.vcmpI32 q a b cond)) ∧ (∀ q a b cond, Reads (.vcmpZ32 q a b cond)) := by
  simp only [Reads, encode, decodeFields, decodeMajor42, decodeMajor43, wordVaddI32, wordVsubI32, wordVmulI32,
    wordVmulhI32, wordVmulhZ32, wordVaddsI32, wordVsubsI32, wordVaddsZ32, wordVsubsZ32, wordVminI32, wordVmaxI32,
    wordVminZ32, wordVmaxZ32, wordVand, wordVor, wordVxor, wordVandn, wordVsll, wordVsrl, wordVsra, wordVslli,
    wordVsrli, wordVsrai, wordQtop, wordQnot, wordQand, wordQor, wordQxor, wordQandn, wordVcmpF32, wordVcmpI32,
    wordVcmpZ32, word_fields, Word.bits, Nat.reduceLT, Nat.reduceLeDiff, Nat.reduceSub, BitVec.reduceEq,
    BitVec.reduceExtractLsb', ↓reduceIte, Nat.zero_add, and_true, true_and, and_false, false_and, implies_true]

/-- The rows of vector conversions (majors 0x44). -/
theorem reads_conversions :
    (∀ d a, Reads (.vcvtF32Bf16Lo d a)) ∧ (∀ d a, Reads (.vcvtF32Bf16Hi d a)) ∧ (∀ d a, Reads (.vcvtF32F16Lo d a)) ∧
    (∀ d a, Reads (.vcvtF32F16Hi d a)) ∧ (∀ d a rm, Reads (.vcvtI32F32 d a rm)) ∧
    (∀ d a rm, Reads (.vcvtZ32F32 d a rm)) ∧ (∀ d a rm, Reads (.vcvtF32I32 d a rm)) ∧
    (∀ d a rm, Reads (.vcvtF32Z32 d a rm)) ∧ (∀ d a j rd, Reads (.vcvtF32E4m3 d a j rd)) ∧
    (∀ d a j rd, Reads (.vcvtF32E5m2 d a j rd)) ∧ (∀ d a n rd, Reads (.vcvtF32E2m1 d a n rd)) ∧
    (∀ d a j rm sat rd, Reads (.vcvtE4m3F32 d a j rm sat rd)) ∧
    (∀ d a j rm sat rd, Reads (.vcvtE5m2F32 d a j rm sat rd)) ∧ (∀ d a b rm sat, Reads (.vcvtBf16F32 d a b rm sat)) ∧
    (∀ d a b rm sat, Reads (.vcvtF16F32 d a b rm sat)) ∧ (∀ d a n rm sat rd, Reads (.vcvtE2m1F32 d a n rm sat rd)) := by
  simp only [Reads, encode, decodeFields, decodeMajor44, wordVcvtF32Bf16Lo, wordVcvtF32Bf16Hi, wordVcvtF32F16Lo,
    wordVcvtF32F16Hi, wordVcvtI32F32, wordVcvtZ32F32, wordVcvtF32I32, wordVcvtF32Z32, wordVcvtF32E4m3,
    wordVcvtF32E5m2, wordVcvtF32E2m1, wordVcvtE4m3F32, wordVcvtE5m2F32, wordVcvtBf16F32, wordVcvtF16F32,
    wordVcvtE2m1F32, word_fields, Word.bits, Nat.reduceLT, Nat.reduceLeDiff, Nat.reduceSub, BitVec.reduceEq,
    BitVec.reduceExtractLsb', ↓reduceIte, Nat.zero_add, and_true, true_and, and_false, false_and, implies_true]

/-- The rows of blocks and lane reductions (majors 0x45, 0x46, 0x47). -/
theorem reads_blocks :
    (∀ d a b, Reads (.vbamax d a b)) ∧ (∀ d a b fmt rd, Reads (.vbscale d a b fmt rd)) ∧
    (∀ d a b rm pHi fmt rd pLo, Reads (.vbpack d a b rm pHi fmt rd pLo)) ∧
    (∀ d a b rm fmt rd p h, Reads (.vbunpk d a b rm fmt rd p h)) ∧ (∀ d a, Reads (.vrmaxF32 d a)) ∧
    (∀ d a, Reads (.vrminF32 d a)) ∧ (∀ d a, Reads (.vramaxF32 d a)) ∧ (∀ d a, Reads (.vraddI32 d a)) ∧
    (∀ d a, Reads (.vrmaxI32 d a)) ∧ (∀ d a, Reads (.vrminI32 d a)) ∧ (∀ d a rm, Reads (.vraddF32 d a rm)) := by
  simp only [Reads, encode, decodeFields, decodeMajor45, decodeMajor46, decodeMajor47, wordVbamax, wordVbscale,
    wordVbpack, wordVbunpk, wordVrmaxF32, wordVrminF32, wordVramaxF32, wordVraddI32, wordVrmaxI32, wordVrminI32,
    wordVraddF32, word_fields, Word.bits, Nat.reduceLT, Nat.reduceLeDiff, Nat.reduceSub, BitVec.reduceEq,
    BitVec.reduceExtractLsb', ↓reduceIte, Nat.zero_add, and_true, and_false, false_and, implies_true]

/-- The rows of permutes and the mask stack (majors 0x48, 0x49). -/
theorem reads_permutes :
    (∀ d a, Reads (.s2q d a)) ∧ (∀ d a, Reads (.q2s d a)) ∧ (∀ d a, Reads (.vmov d a)) ∧
    (∀ d a, Reads (.vbcast d a)) ∧ (∀ d a b, Reads (.vperm d a b)) ∧ (∀ d a n, Reads (.vrot d a n)) ∧
    (∀ d a b, Reads (.vzipl d a b)) ∧ (∀ d a b, Reads (.vziph d a b)) ∧ (∀ d a n, Reads (.vins d a n)) ∧
    (∀ d a n, Reads (.vext d a n)) ∧ (∀ d a n, Reads (.vextz d a n)) ∧ Reads .minv ∧ Reads .mpop ∧
    (∀ a, Reads (.mpush a)) ∧ (∀ len, Reads (.brmz len)) := by
  simp only [Reads, encode, decodeFields, decodeMajor48, decodeMajor49, wordS2q, wordQ2s, wordVmov, wordVbcast,
    wordVperm, wordVrot, wordVzipl, wordVziph, wordVins, wordVext, wordVextz, wordMinv, wordMpop, wordMpush, wordBrmz,
    word_fields, Word.bits, Nat.reduceLT, Nat.reduceLeDiff, Nat.reduceSub, BitVec.reduceEq, BitVec.reduceExtractLsb',
    ↓reduceIte, Nat.zero_add, and_true, and_false, false_and, implies_true]

/-- The rows of vector loads and stores (majors 0x4A, 0x4B). -/
theorem reads_vectorMemory :
    (∀ d a idx, Reads (.vpldIndexed d a idx)) ∧ (∀ d a idx, Reads (.vpstIndexed d a idx)) ∧
    (∀ d a idx, Reads (.vldaIndexed d a idx)) ∧ (∀ d a idx, Reads (.vstaIndexed d a idx)) ∧
    (∀ d a off, Reads (.vpld d a off)) ∧ (∀ d a off, Reads (.vpst d a off)) ∧ (∀ d a off, Reads (.vlda d a off)) ∧
    (∀ d a off, Reads (.vsta d a off)) ∧ (∀ d a idx, Reads (.vgldIndexed d a idx)) ∧
    (∀ d a sc idx, Reads (.vgstIndexed d a sc idx)) ∧ (∀ d a off, Reads (.vgld d a off)) ∧
    (∀ d a sc off, Reads (.vgst d a sc off)) := by
  simp only [Reads, encode, decodeFields, decodeMajor4A, decodeMajor4B, wordVpldIndexed, wordVpstIndexed,
    wordVldaIndexed, wordVstaIndexed, wordVpld, wordVpst, wordVlda, wordVsta, wordVgldIndexed, wordVgstIndexed,
    wordVgld, wordVgst, word_fields, Word.bits, Nat.reduceLT, Nat.reduceLeDiff, Nat.reduceSub, BitVec.reduceEq,
    BitVec.reduceExtractLsb', ↓reduceIte, Nat.zero_add, and_true, and_false, false_and, implies_true]

/-- The rows of engine commands, grid, tokens and buffers (majors 0x50 to 0x5D). -/
theorem reads_engines :
    (∀ sig wa wb wc sp, Reads (.srun sig wa wb wc sp)) ∧ (∀ sig wa wb wc sp, Reads (.gldc sig wa wb wc sp)) ∧
    (∀ sig wa wb wc sp, Reads (.ggo sig wa wb wc sp)) ∧ (∀ sig wa wb wc sp, Reads (.gmma sig wa wb wc sp)) ∧
    Reads .gstop ∧ (∀ n, Reads (.gsel n)) ∧ (∀ d, Reads (.pqpop d)) ∧ (∀ d, Reads (.gpop d)) ∧
    (∀ d, Reads (.gbank d)) ∧ (∀ a fa, Reads (.gfeed a fa)) ∧ (∀ n a lvl fa, Reads (.snest n a lvl fa)) ∧
    (∀ sig wa wb wc sp, Reads (.copy sig wa wb wc sp)) ∧ (∀ sig wa wb wc sp, Reads (.copy2d sig wa wb wc sp)) ∧
    (∀ sig wa wb wc sp, Reads (.send sig wa wb wc sp)) ∧ (∀ sig wa wb wc sp, Reads (.lbind sig wa wb wc sp)) ∧
    (∀ a, Reads (.kwait a)) ∧ (∀ d a, Reads (.kstat d a)) ∧ (∀ n, Reads (.bufrel n)) ∧ (∀ n, Reads (.bufrelFree n)) ∧
    (∀ n st, Reads (.bufwait n st)) ∧ (∀ d a, Reads (.bufstat d a)) ∧ (∀ n a b fa fb, Reads (.bufdef n a b fa fb)) := by
  simp only [Reads, encode, decodeFields, decodeMajor50, decodeMajor51, decodeMajor52, decodeMajor53, decodeMajor54,
    decodeMajor58, decodeMajor59, decodeMajor5A, decodeMajor5B, decodeMajor5C, decodeMajor5D, wordSrun, wordGldc,
    wordGgo, wordGmma, wordGstop, wordGsel, wordPqpop, wordGpop, wordGbank, wordGfeed, wordSnest, wordCopy,
    wordCopy2d, wordSend, wordLbind, wordKwait, wordKstat, wordBufrel, wordBufrelFree, wordBufwait, wordBufstat,
    wordBufdef, word_fields, Word.bits, Nat.reduceLT, Nat.reduceLeDiff, Nat.reduceSub, BitVec.reduceEq,
    BitVec.reduceExtractLsb', ↓reduceIte, Nat.zero_add, and_true, true_and, and_false, false_and, implies_true]

/-- The rows of fences, atomics, reductions and line regions (majors 0x60 to 0x64). -/
theorem reads_sync :
    (∀ s, Reads (.mark s)) ∧ (∀ s, Reads (.fenceRel s)) ∧ (∀ s, Reads (.fenceAcq s)) ∧ (∀ s, Reads (.fenceFull s)) ∧
    (∀ d a b fa fb esc dbl, Reads (.amoadd d a b fa fb esc dbl)) ∧
    (∀ d a b fa fb esc dbl, Reads (.amoand d a b fa fb esc dbl)) ∧
    (∀ d a b fa fb esc dbl, Reads (.amoor d a b fa fb esc dbl)) ∧
    (∀ d a b fa fb esc dbl, Reads (.amoxor d a b fa fb esc dbl)) ∧
    (∀ d a b fa fb esc dbl, Reads (.amomin d a b fa fb esc dbl)) ∧
    (∀ d a b fa fb esc dbl, Reads (.amomax d a b fa fb esc dbl)) ∧
    (∀ d a b fa fb esc dbl, Reads (.amominz d a b fa fb esc dbl)) ∧
    (∀ d a b fa fb esc dbl, Reads (.amomaxz d a b fa fb esc dbl)) ∧
    (∀ d a b fa fb esc dbl, Reads (.amoswap d a b fa fb esc dbl)) ∧
    (∀ d a b fa fb esc dbl, Reads (.amocas d a b fa fb esc dbl)) ∧ (∀ a b fa s, Reads (.redF32 a b fa s)) ∧
    (∀ a b fa s, Reads (.redBf16 a b fa s)) ∧ (∀ a b fa s, Reads (.redI32 a b fa s)) ∧
    (∀ a b fa s, Reads (.redF32max a b fa s)) ∧ (∀ a b fa grp, Reads (.redoF32 a b fa grp)) ∧
    (∀ a b fa grp, Reads (.redoBf16 a b fa grp)) ∧ (∀ a b fa grp, Reads (.redoI32 a b fa grp)) ∧
    (∀ a b fa grp, Reads (.redoF32max a b fa grp)) ∧ Reads .alre ∧ (∀ a fa, Reads (.alr a fa)) := by
  simp only [Reads, encode, decodeFields, decodeMajor60, decodeMajor61, decodeMajor62, decodeMajor63, decodeMajor64,
    wordMark, wordFenceRel, wordFenceAcq, wordFenceFull, wordAmoadd, wordAmoand, wordAmoor, wordAmoxor, wordAmomin,
    wordAmomax, wordAmominz, wordAmomaxz, wordAmoswap, wordAmocas, wordRedF32, wordRedBf16, wordRedI32, wordRedF32max,
    wordRedoF32, wordRedoBf16, wordRedoI32, wordRedoF32max, wordAlre, wordAlr, word_fields, Word.bits, Nat.reduceLT,
    Nat.reduceLeDiff, Nat.reduceSub, BitVec.reduceEq, BitVec.reduceExtractLsb', ↓reduceIte, Nat.zero_add, and_true,
    true_and, and_false, false_and, implies_true]

/-- The rows of semaphores, pool atomics and groups (majors 0x65, 0x66, 0x67). -/
theorem reads_semaphores :
    (∀ slot, Reads (.sembindOff slot)) ∧ (∀ slot a fa, Reads (.sembind slot a fa)) ∧
    (∀ a b fa fb s, Reads (.semwait a b fa fb s)) ∧ (∀ d a b fa fb s, Reads (.semadd d a b fa fb s)) ∧
    (∀ d a b fa fb dbl, Reads (.pamoadd d a b fa fb dbl)) ∧ (∀ d a b fa fb dbl, Reads (.pamoand d a b fa fb dbl)) ∧
    (∀ d a b fa fb dbl, Reads (.pamoor d a b fa fb dbl)) ∧ (∀ d a b fa fb dbl, Reads (.pamoxor d a b fa fb dbl)) ∧
    (∀ d a b fa fb dbl, Reads (.pamomin d a b fa fb dbl)) ∧ (∀ d a b fa fb dbl, Reads (.pamomax d a b fa fb dbl)) ∧
    (∀ d a b fa fb dbl, Reads (.pamominz d a b fa fb dbl)) ∧ (∀ d a b fa fb dbl, Reads (.pamomaxz d a b fa fb dbl)) ∧
    (∀ d a b fa fb dbl, Reads (.pamoswap d a b fa fb dbl)) ∧ (∀ d a b fa fb dbl, Reads (.pamocas d a b fa fb dbl)) ∧
    (∀ s grp, Reads (.bar s grp)) ∧ (∀ d grp, Reads (.grpinfo d grp)) := by
  simp only [Reads, encode, decodeFields, decodeMajor65, decodeMajor66, decodeMajor67, wordSembindOff, wordSembind,
    wordSemwait, wordSemadd, wordPamoadd, wordPamoand, wordPamoor, wordPamoxor, wordPamomin, wordPamomax,
    wordPamominz, wordPamomaxz, wordPamoswap, wordPamocas, wordBar, wordGrpinfo, word_fields, Word.bits, Nat.reduceLT,
    Nat.reduceLeDiff, Nat.reduceSub, BitVec.reduceEq, BitVec.reduceExtractLsb', ↓reduceIte, Nat.zero_add, and_true,
    true_and, and_false, false_and, implies_true]

/-- The rows of traps, transactions, links and circuits (majors 0x68 to 0x6D). -/
theorem reads_system :
    Reads .tfence ∧ Reads .tret ∧ Reads .tretSkip ∧ (∀ m, Reads (.dstep m)) ∧ (∀ n, Reads (.trap n)) ∧
    (∀ n, Reads (.bkpt n)) ∧ (∀ d, Reads (.txstat d)) ∧ (∀ d, Reads (.yield d)) ∧ (∀ d, Reads (.dstat d)) ∧
    (∀ a fa, Reads (.txabort a fa)) ∧ (∀ a fa, Reads (.sleept a fa)) ∧ (∀ d a fa, Reads (.sleep d a fa)) ∧
    (∀ a fa, Reads (.lwake a fa)) ∧ (∀ a fa, Reads (.lwakeWait a fa)) ∧ (∀ d a fa, Reads (.disc d a fa)) ∧
    (∀ d a fa, Reads (.prd d a fa)) ∧ (∀ h, Reads (.cclose h)) ∧ (∀ d h, Reads (.cstat d h)) ∧
    (∀ d a h fa, Reads (.chold d a h fa)) ∧ (∀ sig wa wb wc sp, Reads (.copen sig wa wb wc sp)) ∧
    (∀ sig wa wb wc sp, Reads (.cstream sig wa wb wc sp)) := by
  simp only [Reads, encode, decodeFields, decodeMajor68, decodeMajor69, decodeMajor6A, decodeMajor6B, decodeMajor6C,
    decodeMajor6D, wordTfence, wordTret, wordTretSkip, wordDstep, wordTrap, wordBkpt, wordTxstat, wordYield,
    wordDstat, wordTxabort, wordSleept, wordSleep, wordLwake, wordLwakeWait, wordDisc, wordPrd, wordCclose, wordCstat,
    wordChold, wordCopen, wordCstream, word_fields, Word.bits, Nat.reduceLT, Nat.reduceLeDiff, Nat.reduceSub,
    BitVec.reduceEq, BitVec.reduceExtractLsb', ↓reduceIte, Nat.zero_add, and_true, true_and, and_false, false_and,
    implies_true]

/-- The decoder finds the fields of every well-formed instruction in its word. -/
theorem reads_of_wf (i : Instr) (hi : i.isWord) (hwf : i.wf) : Reads i := by
  cases i
  case add | sub | andR | orR | xorR | andn | addw | subw | addsat | subsat | sll | srl | sra | rol | ror | sllw |
    srlw | sraw | mul | mulh | mulhu | mulhsu | mulw | div | divu | rem | remu | divw | divuw | remw | remuw | clz |
    popc | min | max | minu | maxu | sel | scadd | scaddx | scaddz =>
    simp only [reads_scalar]
  case addi | andi | ori | xori | slliw | srliw | sraiw | slli | srli | srai | rori | addiw | cmpeqi | cmpnei |
    cmplti | cmpgei | cmpltui | cmpgeui | lui =>
    simp only [reads_immediates]
  case pldIndexed | pld | pstIndexed | pst | gldIndexed | gld | gstIndexed | gst =>
    simp only [reads_scalarMemory]
  case pbr | br | brl | pnot | pget | pand | por | pxor | pandn | pset | cmpeq | cmpne | cmplt | cmpge | cmpltu |
    cmpgeu | pbrr | lbrk | loop | loopi | mcall | mstore | nop | exit | cyc | ovl =>
    simp only [reads_control]
  case mtsLc | mfsEngineStatus | mtsQht | mfs | mts =>
    simp only [reads_numberedRegisters, hwf]
  case mfsTcause | mtsPartw | mtsFpctl | mtsFpflag | mtsMsdepth | mov =>
    simp only [reads_systemRegisters]
  case vabsF32 | vnegF32 | vexp2 | vrcp | vrsq | vlog2 | vminF32 | vmaxF32 | vaddF32 | vsubF32 | vmulF32 | vfmaF32 |
    vfmsF32 | vfnmaF32 | vabsBf16 | vnegBf16 | vminBf16 | vmaxBf16 | vaddBf16 | vsubBf16 | vmulBf16 | vfmaBf16 |
    vfmsBf16 | vfnmaBf16 =>
    simp only [reads_vectorFloat]
  case vaddI32 | vsubI32 | vmulI32 | vmulhI32 | vmulhZ32 | vaddsI32 | vsubsI32 | vaddsZ32 | vsubsZ32 | vminI32 |
    vmaxI32 | vminZ32 | vmaxZ32 | vand | vor | vxor | vandn | vsll | vsrl | vsra | vslli | vsrli | vsrai | qtop |
    qnot | qand | qor | qxor | qandn | vcmpF32 | vcmpI32 | vcmpZ32 =>
    simp only [reads_vectorInteger]
  case vcvtF32Bf16Lo | vcvtF32Bf16Hi | vcvtF32F16Lo | vcvtF32F16Hi | vcvtI32F32 | vcvtZ32F32 | vcvtF32I32 |
    vcvtF32Z32 | vcvtF32E4m3 | vcvtF32E5m2 | vcvtF32E2m1 | vcvtE4m3F32 | vcvtE5m2F32 | vcvtBf16F32 | vcvtF16F32 |
    vcvtE2m1F32 =>
    simp only [reads_conversions]
  case vbamax | vbscale | vbpack | vbunpk | vrmaxF32 | vrminF32 | vramaxF32 | vraddI32 | vrmaxI32 | vrminI32 |
    vraddF32 =>
    simp only [reads_blocks]
  case s2q | q2s | vmov | vbcast | vperm | vrot | vzipl | vziph | vins | vext | vextz | minv | mpop | mpush | brmz =>
    simp only [reads_permutes]
  case vpldIndexed | vpstIndexed | vldaIndexed | vstaIndexed | vpld | vpst | vlda | vsta | vgldIndexed | vgstIndexed |
    vgld | vgst =>
    simp only [reads_vectorMemory]
  case srun | gldc | ggo | gmma | gstop | gsel | pqpop | gpop | gbank | gfeed | snest | copy | copy2d | send | lbind |
    kwait | kstat | bufrel | bufrelFree | bufwait | bufstat | bufdef =>
    simp only [reads_engines]
  case mark | fenceRel | fenceAcq | fenceFull | amoadd | amoand | amoor | amoxor | amomin | amomax | amominz |
    amomaxz | amoswap | amocas | redF32 | redBf16 | redI32 | redF32max | redoF32 | redoBf16 | redoI32 | redoF32max |
    alre | alr =>
    simp only [reads_sync]
  case sembindOff | sembind | semwait | semadd | pamoadd | pamoand | pamoor | pamoxor | pamomin | pamomax | pamominz |
    pamomaxz | pamoswap | pamocas | bar | grpinfo =>
    simp only [reads_semaphores]
  case tfence | tret | tretSkip | dstep | trap | bkpt | txstat | yield | dstat | txabort | sleept | sleep | lwake |
    lwakeWait | disc | prd | cclose | cstat | chold | copen | cstream =>
    simp only [reads_system]
  case lunbind => exact Bool.noConfusion hwf
  case overlayLoadDone | coreDone | targetFetchReady | gldDataReturn | engineStatusFill | engineCommandStart |
    engineCommandComplete | engineFault | lateCopyTrap | streamTokenDeliver | streamTokenCommit | gridStep |
    gmmaKblock | gmmaPreemptCut | reliefGrant | deadlockTrap | atomicApply | atomicResultReturn | redApply |
    redoArrival | redoResend | lineRegionApply | semaphoreAdd | stepTrap | sleeptWake | leaseExpiry | storeApply |
    hubLineDrain | homeSweep | pageWalk | tlbInvalidate | pagerFault | lmbox | qcfg | qerr | evqhead | pgresp | ikey |
    deviceRegisterWrite | launchSubmit | launchBind | launchAging | bind | resume | save | coreSaved | kill | halt |
    releaseHalt | debugHaltRequest | sequencerStart | gridAdmission | droopAlarm | droopStretchEnd |
    clockStepHoldEnd | thermalSample | launchReady | pairCompare | pairWaitExpiry | commitPrepare | commitFlip |
    witnessQuery | abortDecide | launchAborted | kernelNode | conditionNode | switchNode | loopNode | joinNode |
    dieLoss | packageLoss | stationLoss | heartbeatMiss | uncorrectableError | hostRead | hostWrite | hostSnoop |
    flitForward | linkReplay | linkRetrain | linkFailure | detourLoad | linkNarrow | linkSleep | linkWake |
    packetPlacement | placementAcknowledgement | reoffer | claspPlacement | meterIntervalEnd | probeAction |
    circuitBeat | windowCheck | windowAcknowledgement | windowNak | circuitRelease | ringRequest | ringResponse |
    ringResend | ringFrame | frameClose | keyUpdate | boot | illegalInstruction | remotePoolAccess | homeRead |
    latencyResultDelivery | cxlWriteCompletion | backInvalidateResponse | capoWrite | clockStepChange =>
    exact Bool.noConfusion hi

theorem decode_of_reads {i : Instr} (h : Reads i) (hwf : i.wf) : decode (encode i) = some i := by
  unfold Reads at h
  simp [decode, h, hwf]

/-- Settles O3: the decoder reads every row's fields back from the row's own word (`reads_of_wf`), and the check of the field
values passes what is well formed. -/
theorem decodeEncodeRoundTrip : Obligations.DecodeEncodeRoundTrip := by
  refine ⟨fun i hi hwf => decode_of_reads (reads_of_wf i hi hwf) hwf, fun sig wa wb wc sp h1 h28 => ?_⟩
  have hwf : (Instr.lbind sig wa wb wc sp).wf = true := decide_eq_true ⟨h1, h28⟩
  exact decode_of_reads (reads_of_wf _ rfl hwf) hwf

end Sys2Proof
end

section
/-! SUPPORT. The state after reset, worked words, and what one step does (tier 1). -/

namespace Sys2Proof

/-- A word encodes the instruction whose encoding it is. -/
theorem decode_of_encode {i : Instr} {w : Word} (hw : encode i = w) (hi : i.isWord = true) (hwf : i.wf = true) :
    decode w = some i :=
  hw ▸ decode_of_reads (reads_of_wf i hi hwf) hwf

/-- Settles O2: each word is the encoding of its instruction (`decode_of_encode`); a `BR` with a fixed bit set is no row's word. -/
theorem decodeWords : Obligations.DecodeWords :=
  ⟨decode_of_encode rfl rfl rfl, decode_of_encode rfl rfl rfl, decode_of_encode rfl rfl rfl, rfl, decode_of_encode rfl rfl rfl,
    decode_of_encode rfl rfl rfl, decode_of_encode rfl rfl rfl, decode_of_encode rfl rfl rfl, decode_of_encode rfl rfl rfl,
    decode_of_encode rfl rfl rfl, decode_of_encode rfl rfl rfl, decode_of_encode rfl rfl rfl, decode_of_encode rfl rfl rfl,
    decode_of_encode rfl rfl rfl, decode_of_encode rfl rfl rfl, decode_of_encode rfl rfl rfl, decode_of_encode rfl rfl rfl,
    decode_of_encode rfl rfl rfl, decode_of_encode rfl rfl rfl, decode_of_encode rfl rfl rfl, decode_of_encode rfl rfl rfl⟩

end Sys2Proof

namespace Sys2Proof.Machine

/-- An entry of a vector of equal entries. -/
theorem vget_replicate {α : Type} {w : Nat} (x : α) (i : BitVec w) : vget (Vector.replicate (2 ^ w) x) i = x := by
  simp [vget]

/-- Settles O1, field by field from the definition of the reset state. -/
theorem resetState : Obligations.ResetState := by
  refine ⟨rfl, fun q => ?_, rfl, rfl, rfl, rfl, rfl, rfl, rfl, rfl, fun k => vget_replicate 0 k, rfl, ?_, rfl, fun r => ?_, rfl, rfl, rfl,
    fun r => ?_, fun r => vget_replicate (w := 5) _ r, fun r => ?_, fun r => ?_, rfl, rfl, fun b => vget_replicate _ b,
    fun k => ?_, fun l => ?_, rfl, rfl⟩
  · have hq : vget State.reset.sched.host.queues q = ⟨0, 1000#64 <<< 7, 0, 0, 0⟩ := vget_replicate (w := 6) _ q
    rw [hq]
    decide
  · intro p hp
    cases hp
  · have hr : vget State.reset.power r = PowerRegion.start := vget_replicate (w := 4) _ r
    rw [hr]
    exact ⟨rfl, rfl, rfl, rfl, rfl, rfl⟩
  · have hs : vget (w := 5) State.reset.core.regs.s r = 0 := by
      show vget (vset (w := 5) (Vector.replicate 32 0) 1 0) r = 0
      have h0 : vget (w := 5) (Vector.replicate 32 (0 : DWord)) r = 0 := vget_replicate (w := 5) 0 r
      rw [vget_vset, h0, ite_self]
    simp [readS, hs]
  · revert r; decide
  · have hq : vget (w := 3) State.reset.core.regs.q r = if r = 0 then 0xFFFF else 0 := by
      show vget (vset (w := 3) (Vector.replicate 8 0) 0 0xFFFF) r = _
      have h0 : vget (w := 3) (Vector.replicate 8 (0 : BitVec 16)) r = 0 := vget_replicate (w := 3) 0 r
      rw [vget_vset, h0]
    rw [readQ, hq]
    split <;> rfl
  · have hk : vget State.reset.core.eng.slots k = TokenSlot.start := vget_replicate (w := 5) _ k
    rw [hk]
    exact ⟨rfl, rfl⟩
  · have hl : vget State.reset.core.seq.loops l = LoopLevel.off := vget_replicate (w := 2) _ l
    rw [hl]
    exact ⟨rfl, rfl⟩

/-- A trap taken, nested or not, leaves no wait. -/
theorem takeTrap_wait (cause : Cause) (addr tstat : DWord) (s : State) : (takeTrap cause addr tstat s).core.seq.wait = none := by
  unfold takeTrap nestedFault
  split
  · split <;> simp
  · rfl

@[simp] theorem tick_core (s : State) : (tick s).core = s.core := rfl

/-- Nothing is due at the boundary where no save and no halt is pending and, in program mode, no trap. -/
theorem boundaryEvent_eq_none {s : State} (hsave : s.core.seq.savePending = false) (hhalt : s.core.seq.haltRequested = false)
    (htraps : s.core.seq.mode = .handler ∨ (s.core.seq.stepFired = false ∧ s.core.seq.gridStepFired = false
      ∧ s.core.eng.faults = [] ∧ s.core.eng.lateCopies = [])) : boundaryEvent s = none := by
  rcases htraps with hm | ⟨hstep, hgrid, hfaults, hlate⟩
  · simp [boundaryEvent, hsave, hhalt, hm]
  · simp [boundaryEvent, hsave, hhalt, hstep, hgrid, hfaults, hlate]

/-- The sequencer issues the word at the program counter where no fetch fault stands there and no macros run. -/
theorem issueNext_of_fetch {s : State} (hmacro : s.core.seq.macroRun = false) (hover : s.core.seq.pcOver = false)
    (harea : s.core.seq.mode = .program → s.core.seq.pc.toNat < Config.handlerArea) (hbad : s.core.seq.pc ∉ s.core.seq.badWords) :
    issueNext s = issueDecoded (wordAtPc s) s := by
  have harea' : ¬ (s.core.seq.mode = .program ∧ Config.handlerArea ≤ s.core.seq.pc.toNat) := fun h => by
    have := harea h.1
    omega
  simp [issueNext, issueWord, hmacro, hover, harea', hbad]

/-- With no move on the agenda and nothing due, a running core's step is its sequencer's. -/
theorem step_of_running {s : State} (hagenda : s.agenda = []) (hrun : s.core.seq.run = .running)
    (hdue : boundaryEvent (tick s) = none) : step s = afterIssue (issueNext (tick s)) := by
  have ha : (tick s).agenda = [] := hagenda
  simp [step, ha, hdue, hrun]

/-- Settles O4: nothing is due, so the step is the issue of the word at the program counter, and an answer that waits gives the step to
another unit. -/
theorem stepRunsDecoded : Obligations.StepRunsDecoded := by
  rintro s _ rfl hagenda hrun hmacro hover harea hbad hsave hhalt htraps
  have hstep : step s = afterIssue (issueDecoded (wordAtPc s) (tick s)) := by
    rw [step_of_running hagenda hrun (boundaryEvent_eq_none hsave hhalt htraps), issueNext_of_fetch (s := tick s) hmacro hover harea hbad]
    rfl
  refine ⟨fun i hi => ?_, fun hnone => ?_, rfl⟩
  · rw [hstep, issueDecoded, hi]
    refine ⟨fun t ht hw => ?_, fun t ht hw => ?_, fun f hf => ?_⟩
    · simp [ht, afterIssue, hw]
    · simp [ht, afterIssue, Option.isNone_iff_eq_none, hw]
    · simp [hf, afterIssue]
  · rw [hstep, issueDecoded, hnone]
    show afterIssue (.next _) = .next _
    simp [afterIssue, takeTrap_wait]

end Sys2Proof.Machine
end

section
/-! SUPPORT. Issue where something stands in the way: awaited, empty and interlocked registers (R16 to R18, R211), and where an
instruction may stand at all (R69, R74, R95, R211, R257). -/

namespace Sys2Proof.Machine

/-- A trap in program mode is a next state with the saved fields and the handler's program counter. -/
theorem trap_of_program {s : State} (cause : Cause) (addr : DWord) (hm : s.core.seq.mode = .program) :
    ∃ t, trap cause addr s = .next t ∧ t.core.regs = s.core.regs ∧ t.core.pool = s.core.pool ∧ t.core.eng = s.core.eng
      ∧ t.homes = s.homes ∧ t.core.mq = { s.core.mq with region := none } ∧ t.core.sys.tpc = trapPc s
      ∧ t.core.sys.taddr = addr ∧ t.core.sys.tcause = cause.code.setWidth 64 ||| (if cause.async then 0x100 else 0) := by
  refine ⟨takeTrap cause addr 0 s, rfl, ?_⟩
  simp [takeTrap, hm]

/-- A scalar register awaits a load of the open line region when one of the collected loads fills it. -/
theorem regionLoads_s_iff {s : State} {r : BitVec 5} :
    regionLoads s (.s r) = true
      ↔ r ≠ 0 ∧ ∃ g pa n k, s.core.mq.region = some g ∧ RegionAcc.load pa n r k ∈ g.accs := by
  unfold regionLoads accsFill
  cases hg : s.core.mq.region with
  | none => simp
  | some g =>
    simp only [Bool.and_eq_true, bne_iff_ne, List.any_eq_true, Option.some.injEq]
    refine and_congr_right fun hr => ⟨?_, ?_⟩
    · rintro ⟨x, hx, hfill⟩
      cases x with
      | load pa n d k => exact ⟨g, pa, n, k, rfl, beq_iff_eq.mp hfill ▸ hx⟩
      | store pa bs => cases hfill
    · rintro ⟨_, pa, n, k, rfl, hx⟩
      exact ⟨_, hx, beq_self_eq_true r⟩

section usesDAB
variable {w : Word} {s : State} {d a b : BitVec 5} {fa fb : Bool} {k : State → Out}

/-- A source that the open line region will load is illegal before anything else. -/
theorem issue_of_awaited (h : regionLoads s (.s a) = true ∨ regionLoads s (.s b) = true) :
    issue w (usesDAB d a b fa fb) s k = illegal w s := by
  have : ((usesDAB d a b fa fb).srcs.any fun x => regionLoads s x.reg) = true := by simpa [usesDAB, srcS] using h
  simp [issue, this]

theorem srcs_not_awaited (ha : ¬ regionLoads s (.s a) = true) (hb : ¬ regionLoads s (.s b) = true) :
    ((usesDAB d a b fa fb).srcs.any fun x => regionLoads s x.reg) = false := by
  simp [usesDAB, srcS, ha, hb]

/-- An empty source a whose bit is 1 traps, whatever source b holds. -/
theorem issue_of_empty_a (ha : ¬ regionLoads s (.s a) = true) (hb : ¬ regionLoads s (.s b) = true)
    (he : (fa && sIsEmpty s a) = true) : issue w (usesDAB d a b fa fb) s k = trap .emptySource (dw a.toNat) s := by
  unfold issue
  rw [srcs_not_awaited ha hb]
  simp [usesDAB, srcS, regEmpty, RegRef.num, he]

/-- An empty source b whose bit is 1 traps where source a does not. -/
theorem issue_of_empty_b (ha : ¬ regionLoads s (.s a) = true) (hb : ¬ regionLoads s (.s b) = true)
    (hea : (fa && sIsEmpty s a) = false) (heb : (fb && sIsEmpty s b) = true) :
    issue w (usesDAB d a b fa fb) s k = trap .emptySource (dw b.toNat) s := by
  unfold issue
  rw [srcs_not_awaited ha hb]
  simp [usesDAB, srcS, regEmpty, RegRef.num, hea, heb]

/-- Where no source traps, a register that is empty or awaits a result makes the instruction wait. -/
theorem issue_of_occupied (ha : ¬ regionLoads s (.s a) = true) (hb : ¬ regionLoads s (.s b) = true)
    (hea : (fa && sIsEmpty s a) = false) (heb : (fb && sIsEmpty s b) = false)
    (h : ∃ r ∈ [a, b, d], sIsEmpty s r = true ∨ regPending s (.s r) = true) :
    ∃ kind, issue w (usesDAB d a b fa fb) s k = waitOn kind s := by
  unfold issue
  rw [srcs_not_awaited ha hb]
  have hfind : ((usesDAB d a b fa fb).srcs.find? fun x => x.trap && regEmpty s x.reg) = none := by
    simp [usesDAB, srcS, regEmpty, hea, heb]
  obtain ⟨r, hr, hbusy⟩ := h
  cases hocc : ((usesDAB d a b fa fb).srcs.map (fun x => x.reg) ++ (usesDAB d a b fa fb).dsts).find?
      (fun r => regEmpty s r || regPending s r) with
  | none =>
    rw [List.find?_eq_none] at hocc
    have := hocc (.s r) (by simpa [usesDAB, srcS] using hr)
    simp [regEmpty] at this
    simp [this] at hbusy
  | some x => exact ⟨regWait s x, by simp [hfind]⟩

theorem issues_of_alu {i : Instr} (f : DWord → DWord → DWord) (hg : gateOpen inLine s = true)
    (h : exec i s = alu (encode i) d a b fa fb f s) : ∃ k, exec i s = issue (encode i) (usesDAB d a b fa fb) s k :=
  ⟨_, h.trans (gate_of_open hg)⟩

theorem issues_of_aluLate {i : Instr} (f : DWord → DWord → DWord) (hg : gateOpen inLine s = true)
    (h : exec i s = aluLate (encode i) d a b fa fb f s) : ∃ k, exec i s = issue (encode i) (usesDAB d a b fa fb) s k :=
  ⟨_, h.trans (gate_of_open hg)⟩

end usesDAB

/-- The format A instructions of two sources and a destination issue with their own word and those registers. -/
theorem exec_formatA {s : State} {d a b : BitVec 5} {fa fb : Bool} (hg : gateOpen inLine s = true) :
    ∀ i ∈ [Instr.add d a b fa fb, .sub d a b fa fb, .andR d a b fa fb, .orR d a b fa fb, .xorR d a b fa fb,
        .andn d a b fa fb, .addw d a b fa fb, .subw d a b fa fb, .addsat d a b fa fb, .subsat d a b fa fb, .sll d a b fa fb,
        .srl d a b fa fb, .sra d a b fa fb, .rol d a b fa fb, .ror d a b fa fb, .sllw d a b fa fb, .srlw d a b fa fb,
        .sraw d a b fa fb, .mul d a b fa fb, .mulh d a b fa fb, .mulhu d a b fa fb, .mulhsu d a b fa fb, .mulw d a b fa fb,
        .div d a b fa fb, .divu d a b fa fb, .rem d a b fa fb, .remu d a b fa fb, .divw d a b fa fb, .divuw d a b fa fb,
        .remw d a b fa fb, .remuw d a b fa fb, .min d a b fa fb, .max d a b fa fb, .minu d a b fa fb, .maxu d a b fa fb],
      ∃ k, exec i s = issue (encode i) (usesDAB d a b fa fb) s k := by
  simp only [List.forall_mem_cons, List.not_mem_nil, false_implies, implies_true, and_true]
  exact ⟨issues_of_alu _ hg (exec_add ..), issues_of_alu _ hg (exec_sub ..), issues_of_alu _ hg (exec_andR ..),
    issues_of_alu _ hg (exec_orR ..), issues_of_alu _ hg (exec_xorR ..), issues_of_alu _ hg (exec_andn ..),
    issues_of_alu _ hg (exec_addw ..), issues_of_alu _ hg (exec_subw ..), issues_of_alu _ hg (exec_addsat ..),
    issues_of_alu _ hg (exec_subsat ..), issues_of_alu _ hg (exec_sll ..), issues_of_alu _ hg (exec_srl ..),
    issues_of_alu _ hg (exec_sra ..), issues_of_alu _ hg (exec_rol ..), issues_of_alu _ hg (exec_ror ..),
    issues_of_alu _ hg (exec_sllw ..), issues_of_alu _ hg (exec_srlw ..), issues_of_alu _ hg (exec_sraw ..),
    issues_of_aluLate _ hg (exec_mul ..), issues_of_aluLate _ hg (exec_mulh ..),
    issues_of_aluLate _ hg (exec_mulhu ..), issues_of_aluLate _ hg (exec_mulhsu ..),
    issues_of_aluLate _ hg (exec_mulw ..), issues_of_aluLate _ hg (exec_div ..),
    issues_of_aluLate _ hg (exec_divu ..), issues_of_aluLate _ hg (exec_rem ..),
    issues_of_aluLate _ hg (exec_remu ..), issues_of_aluLate _ hg (exec_divw ..),
    issues_of_aluLate _ hg (exec_divuw ..), issues_of_aluLate _ hg (exec_remw ..),
    issues_of_aluLate _ hg (exec_remuw ..), issues_of_alu _ hg (exec_min ..), issues_of_alu _ hg (exec_max ..),
    issues_of_alu _ hg (exec_minu ..), issues_of_alu _ hg (exec_maxu ..)⟩

/-- Settles O13: the shared issue of format A, case by case in the order of R42. -/
theorem emptyAndInterlocked : Obligations.EmptyAndInterlocked := by
  intro s d a b fa fb hg awaited
  refine ⟨fun i hi => ?_, rfl, rfl, fun x hm hregion => ?_⟩
  · obtain ⟨k, hk⟩ := exec_formatA hg i hi
    simp only [hk, awaited, ← regionLoads_s_iff, Bool.not_eq_true', ← Bool.not_eq_true]
    refine ⟨issue_of_awaited, issue_of_empty_a, fun ha hb hea heb => ?_, fun ha hb hea heb hocc => ?_⟩
    · exact issue_of_empty_b ha hb (by simpa using hea) heb
    · obtain ⟨kind, hw⟩ := issue_of_occupied (k := k) (w := encode i) ha hb (by simpa using hea) (by simpa using heb) hocc
      exact ⟨kind, hw⟩
  · obtain ⟨t, ht, hregs, hpool, heng, hhomes, hmq, htpc, htaddr, hcause⟩ := trap_of_program .emptySource x hm
    refine ⟨t, ht, hregs, ?_, hpool, heng, hhomes, ?_, htaddr, hcause⟩
    · rw [hmq, ← hregion]
    · simpa [trapPc, hregion] using htpc

end Sys2Proof.Machine
end

section
/-! SUPPORT. Where an instruction may stand (R69, R74, R95, R211, R257): the gate of every instruction. -/

namespace Sys2Proof.Machine

/-- The gate that the lists of R69, R74, R95, R211 and R257 give an instruction. -/
def gateOf (i : Instr) : Gate where
  inRegion := acceptedInRegion i
  inMacro := !barredFromMacros i
  endWord := !barredAtEnd i
  only := modeAsked i

/-- An instruction comes behind its gate, with its own word, before anything else it does. -/
def Gated (i : Instr) : Prop := ∀ s, ∃ k, exec i s = gate (gateOf i) (encode i) s k

/-- The illegal-instruction trap behind a gate for both modes is that trap whatever the gate says. -/
theorem gate_illegal {g : Gate} (hg : g.only = none) (w : Word) (s : State) : gate g w s (illegal w) = illegal w s := by
  unfold gate
  simp only [hg, ite_self]

/-- `ALRE` outside a line region is illegal before its gate is asked, and the gate would answer the same or let it pass to that trap. -/
theorem gated_alre : Gated .alre := by
  intro s
  simp only [exec, execAlre]
  split
  · exact ⟨illegal wordAlre, (gate_illegal rfl wordAlre s).symm⟩
  · exact ⟨_, rfl⟩

/-- The engine status reads have one gate, whatever register they name. -/
theorem gated_mfsEngineStatus (d : BitVec 5) (r : BitVec 12) : Gated (.mfsEngineStatus d r) := by
  intro s
  simp only [exec, execMfsEngineStatus, statusRead]
  split
  · exact ⟨illegal (wordMfsEngineStatus d r), (gate_illegal rfl _ s).symm⟩
  · split <;> exact ⟨_, rfl⟩

/-- Every instruction of the word table comes behind its gate. -/
theorem gated_of_isWord (i : Instr) (hi : i.isWord) : Gated i := by
  cases i
  case alre => exact gated_alre
  case mfsEngineStatus d r => exact gated_mfsEngineStatus d r
  case add | sub | andR | orR | xorR | andn | addw | subw | addsat | subsat | sll | srl | sra | rol | ror | sllw |
    srlw | sraw | mul | mulh | mulhu | mulhsu | mulw | div | divu | rem | remu | divw | divuw | remw | remuw | clz |
    popc | min | max | minu | maxu | sel | scadd | scaddx | scaddz =>
    simp only [Gated, exec, execAdd, execSub, execAndR, execOrR, execXorR, execAndn, execAddw, execSubw, execAddsat,
      execSubsat, execSll, execSrl, execSra, execRol, execRor, execSllw, execSrlw, execSraw, execMul, execMulh,
      execMulhu, execMulhsu, execMulw, execDiv, execDivu, execRem, execRemu, execDivw, execDivuw, execRemw, execRemuw,
      execClz, execPopc, execMin, execMax, execMinu, execMaxu, execSel, execScadd, execScaddx, execScaddz, alu,
      aluLate, alu1]
    exact fun _ => ⟨_, rfl⟩
  case addi | andi | ori | xori | slliw | srliw | sraiw | slli | srli | srai | rori | addiw | cmpeqi | cmpnei |
    cmplti | cmpgei | cmpltui | cmpgeui | lui =>
    simp only [Gated, exec, execAddi, execAndi, execOri, execXori, execSlliw, execSrliw, execSraiw, execSlli,
      execSrli, execSrai, execRori, execAddiw, execCmpeqi, execCmpnei, execCmplti, execCmpgei, execCmpltui,
      execCmpgeui, execLui, alu1, cmpImm]
    exact fun _ => ⟨_, rfl⟩
  case pldIndexed | pld | pstIndexed | pst | gldIndexed | gld | gstIndexed | gst =>
    simp only [Gated, exec, execPldIndexed, execPld, execPstIndexed, execPst, execGldIndexed, execGld,
      execGstIndexed, execGst, poolLoad, poolStore, globalLoad, globalStore]
    exact fun _ => ⟨_, rfl⟩
  case pbr | br | brl | pnot | pget | pand | por | pxor | pandn | pset | cmpeq | cmpne | cmplt | cmpge | cmpltu |
    cmpgeu | pbrr | lbrk | loop | loopi | mcall | mstore | nop | exit | cyc | ovl =>
    simp only [Gated, exec, execPbr, execBr, execBrl, execPnot, execPget, execPand, execPor, execPxor, execPandn,
      execPset, execCmpeq, execCmpne, execCmplt, execCmpge, execCmpltu, execCmpgeu, execPbrr, execLbrk, execLoop,
      execLoopi, execMcall, execMstore, execNop, execExit, execCyc, execOvl, branch, cmpTo, predOp, openLoop]
    exact fun _ => ⟨_, rfl⟩
  case mfsTcause | mtsPartw | mtsFpctl | mtsFpflag | mtsMsdepth | mov | mtsLc | mtsQht | mfs | mts =>
    simp only [Gated, exec, execMfsTcause, execMtsPartw, execMtsFpctl, execMtsFpflag, execMtsMsdepth, execMov,
      execMtsLc, execMtsQht, execMfs, execMts, readSys, writeSys, alu1]
    exact fun _ => ⟨_, rfl⟩
  case vabsF32 | vnegF32 | vexp2 | vrcp | vrsq | vlog2 | vminF32 | vmaxF32 | vaddF32 | vsubF32 | vmulF32 | vfmaF32 |
    vfmsF32 | vfnmaF32 | vabsBf16 | vnegBf16 | vminBf16 | vmaxBf16 | vaddBf16 | vsubBf16 | vmulBf16 | vfmaBf16 |
    vfmsBf16 | vfnmaBf16 =>
    simp only [Gated, exec, execVabsF32, execVnegF32, execVexp2, execVrcp, execVrsq, execVlog2, execVminF32,
      execVmaxF32, execVaddF32, execVsubF32, execVmulF32, execVfmaF32, execVfmsF32, execVfnmaF32, execVabsBf16,
      execVnegBf16, execVminBf16, execVmaxBf16, execVaddBf16, execVsubBf16, execVmulBf16, execVfmaBf16, execVfmsBf16,
      execVfnmaBf16, vecF32, vecBf16, vecRound, vecLanes, vecTrans]
    exact fun _ => ⟨_, rfl⟩
  case vaddI32 | vsubI32 | vmulI32 | vmulhI32 | vmulhZ32 | vaddsI32 | vsubsI32 | vaddsZ32 | vsubsZ32 | vminI32 |
    vmaxI32 | vminZ32 | vmaxZ32 | vand | vor | vxor | vandn | vsll | vsrl | vsra | vslli | vsrli | vsrai | qtop |
    qnot | qand | qor | qxor | qandn | vcmpF32 | vcmpI32 | vcmpZ32 =>
    simp only [Gated, exec, execVaddI32, execVsubI32, execVmulI32, execVmulhI32, execVmulhZ32, execVaddsI32,
      execVsubsI32, execVaddsZ32, execVsubsZ32, execVminI32, execVmaxI32, execVminZ32, execVmaxZ32, execVand, execVor,
      execVxor, execVandn, execVsll, execVsrl, execVsra, execVslli, execVsrli, execVsrai, execQtop, execQnot,
      execQand, execQor, execQxor, execQandn, execVcmpF32, execVcmpI32, execVcmpZ32, vecInt, vecLanes, vecShift,
      vecCmp, maskOp]
    exact fun _ => ⟨_, rfl⟩
  case vcvtF32Bf16Lo | vcvtF32Bf16Hi | vcvtF32F16Lo | vcvtF32F16Hi | vcvtI32F32 | vcvtZ32F32 | vcvtF32I32 |
    vcvtF32Z32 | vcvtF32E4m3 | vcvtF32E5m2 | vcvtF32E2m1 | vcvtE4m3F32 | vcvtE5m2F32 | vcvtBf16F32 | vcvtF16F32 |
    vcvtE2m1F32 =>
    simp only [Gated, exec, execVcvtF32Bf16Lo, execVcvtF32Bf16Hi, execVcvtF32F16Lo, execVcvtF32F16Hi, execVcvtI32F32,
      execVcvtZ32F32, execVcvtF32I32, execVcvtF32Z32, execVcvtF32E4m3, execVcvtF32E5m2, execVcvtF32E2m1,
      execVcvtE4m3F32, execVcvtE5m2F32, execVcvtBf16F32, execVcvtF16F32, execVcvtE2m1F32, vecRound, vecWiden,
      vecLanes, vecNarrow, vecToInt]
    exact fun _ => ⟨_, rfl⟩
  case vbamax | vbscale | vbpack | vbunpk | vrmaxF32 | vrminF32 | vramaxF32 | vraddI32 | vrmaxI32 | vrminI32 |
    vraddF32 =>
    simp only [Gated, exec, execVbamax, execVbscale, execVbpack, execVbunpk, execVrmaxF32, execVrminF32,
      execVramaxF32, execVraddI32, execVrmaxI32, execVrminI32, execVraddF32, vecLanes, vecReduce]
    exact fun _ => ⟨_, rfl⟩
  case s2q | q2s | vmov | vbcast | vperm | vrot | vzipl | vziph | vins | vext | vextz | minv | mpop | mpush | brmz =>
    simp only [Gated, exec, execS2q, execQ2s, execVmov, execVbcast, execVperm, execVrot, execVzipl, execVziph,
      execVins, execVext, execVextz, execMinv, execMpop, execMpush, execBrmz, vecLanes, vecToScalar]
    exact fun _ => ⟨_, rfl⟩
  case vpldIndexed | vpstIndexed | vldaIndexed | vstaIndexed | vpld | vpst | vlda | vsta | vgldIndexed | vgstIndexed |
    vgld | vgst =>
    simp only [Gated, exec, execVpldIndexed, execVpstIndexed, execVldaIndexed, execVstaIndexed, execVpld, execVpst,
      execVlda, execVsta, execVgldIndexed, execVgstIndexed, execVgld, execVgst, vecLoad, vecStore, vecGlobalLoad,
      vecGlobalStore]
    exact fun _ => ⟨_, rfl⟩
  case srun | gldc | ggo | gmma | gstop | gsel | pqpop | gpop | gbank | gfeed | snest | copy | copy2d | send | lbind |
    kwait | kstat | bufrel | bufrelFree | bufwait | bufstat | bufdef =>
    simp only [Gated, exec, execSrun, execGldc, execGgo, execGmma, execGstop, execGsel, execPqpop, execGpop,
      execGbank, execGfeed, execSnest, execCopy, execCopy2d, execSend, execLbind, execKwait, execKstat, execBufrel,
      execBufrelFree, execBufwait, execBufstat, execBufdef, issueCommand, statusRead]
    exact fun _ => ⟨_, rfl⟩
  case mark | fenceRel | fenceAcq | fenceFull | amoadd | amoand | amoor | amoxor | amomin | amomax | amominz |
    amomaxz | amoswap | amocas | redF32 | redBf16 | redI32 | redF32max | redoF32 | redoBf16 | redoI32 | redoF32max |
    alr =>
    simp only [Gated, exec, execMark, execFenceRel, execFenceAcq, execFenceFull, execAmoadd, execAmoand, execAmoor,
      execAmoxor, execAmomin, execAmomax, execAmominz, execAmomaxz, execAmoswap, execAmocas, execRedF32, execRedBf16,
      execRedI32, execRedF32max, execRedoF32, execRedoBf16, execRedoI32, execRedoF32max, execAlr, postFence,
      globalAtomic, redInstr, redoInstr, reduction]
    exact fun _ => ⟨_, rfl⟩
  case sembindOff | sembind | semwait | semadd | pamoadd | pamoand | pamoor | pamoxor | pamomin | pamomax | pamominz |
    pamomaxz | pamoswap | pamocas | bar | grpinfo =>
    simp only [Gated, exec, execSembindOff, execSembind, execSemwait, execSemadd, execPamoadd, execPamoand,
      execPamoor, execPamoxor, execPamomin, execPamomax, execPamominz, execPamomaxz, execPamoswap, execPamocas,
      execBar, execGrpinfo, poolAtomic]
    exact fun _ => ⟨_, rfl⟩
  case tfence | tret | tretSkip | dstep | trap | bkpt | txstat | yield | dstat | txabort | sleept | sleep | lwake |
    lwakeWait | disc | prd | cclose | cstat | chold | copen | cstream =>
    simp only [Gated, exec, execTfence, execTret, execTretSkip, execDstep, execTrap, execBkpt, execTxstat, execYield,
      execDstat, execTxabort, execSleept, execSleep, execLwake, execLwakeWait, execDisc, execPrd, execCclose,
      execCstat, execChold, execCopen, execCstream, lateScalar, statusRead, issueCommand]
    exact fun _ => ⟨_, rfl⟩
  case lunbind =>
    simp only [Gated, exec, execLunbind, issueCommand]
    exact fun _ => ⟨_, rfl⟩
  case overlayLoadDone | coreDone | targetFetchReady | gldDataReturn | engineStatusFill | engineCommandStart |
    engineCommandComplete | engineFault | lateCopyTrap | streamTokenDeliver | streamTokenCommit | gridStep |
    gmmaKblock | gmmaPreemptCut | reliefGrant | deadlockTrap | atomicApply | atomicResultReturn | redApply |
    redoArrival | redoResend | lineRegionApply | semaphoreAdd | stepTrap | sleeptWake | leaseExpiry | storeApply |
    hubLineDrain | homeSweep | pageWalk | tlbInvalidate | pagerFault | lmbox | qcfg | qerr | evqhead | pgresp | ikey |
    deviceRegisterWrite | launchSubmit | launchBind | launchAging | bind | resume | save | coreSaved | kill | halt |
    releaseHalt | debugHaltRequest | sequencerStart | gridAdmission | droopAlarm | droopStretchEnd |
    clockStepHoldEnd | thermalSample | launchReady | pairCompare | pairWaitExpiry | commitPrepare | commitFlip |
    witnessQuery | abortDecide | launchAborted | kernelNode | conditionNode | switchNode | loopNode | joinNode |
    dieLoss | packageLoss | stationLoss | heartbeatMiss | uncorrectableError | hostRead | hostWrite | hostSnoop |
    flitForward | linkReplay | linkRetrain | linkFailure | detourLoad | linkNarrow | linkSleep | linkWake |
    packetPlacement | placementAcknowledgement | reoffer | claspPlacement | meterIntervalEnd | probeAction |
    circuitBeat | windowCheck | windowAcknowledgement | windowNak | circuitRelease | ringRequest | ringResponse |
    ringResend | ringFrame | frameClose | keyUpdate | boot | illegalInstruction | remotePoolAccess | homeRead |
    latencyResultDelivery | cxlWriteCompletion | backInvalidateResponse | capoWrite | clockStepChange =>
    exact Bool.noConfusion hi

/-- What a gate bars by place: the illegal-instruction trap with the word. -/
theorem gate_barred {g : Gate} {w : Word} {s : State} {k : State → Out}
    (h : (s.core.mq.region.isSome && !g.inRegion || s.core.seq.macroRun && !g.inMacro
      || !s.core.seq.macroRun && isEndWord s s.core.seq.pc && !g.endWord) = true) : gate g w s k = illegal w s := by
  simp only [Bool.or_eq_true, Bool.and_eq_true, Bool.not_eq_true'] at h
  rcases h with (⟨h1, h2⟩ | ⟨h1, h2⟩) | ⟨⟨h1, h2⟩, h3⟩
  · simp [gate, h1, h2]
  · simp [gate, h1, h2]
  · simp [gate, h1, h2, h3]

/-- What a gate bars by mode alone: the privilege trap with the word. -/
theorem gate_wrong_mode {g : Gate} {w : Word} {s : State} {k : State → Out} {m : Mode} (hregion : s.core.mq.region.isSome = false)
    (hmacro : s.core.seq.macroRun = false) (hend : isEndWord s s.core.seq.pc = false) (hg : g.only = some m)
    (hm : s.core.seq.mode ≠ m) : gate g w s k = privilege w s := by
  simp [gate, hregion, hmacro, hend, hg, hm]

/-- Settles O31: every instruction comes behind the gate of the lists (`gated_of_isWord`), and a gate bars as R42 orders. -/
theorem whereInstructionsMayStand : Obligations.WhereInstructionsMayStand := by
  intro s i hi _
  obtain ⟨k, hk⟩ := gated_of_isWord i hi s
  refine ⟨fun h => ?_, fun m hregion hmacro hend hmode hm => ?_⟩
  · rw [hk]
    exact gate_barred (by simpa [gateOf] using h)
  · rw [hk]
    have hmacro' : s.core.seq.macroRun = false := by simpa using hmacro
    exact gate_wrong_mode (by simpa using hregion) hmacro' (by simpa [hmacro'] using hend) hmode hm

end Sys2Proof.Machine
end

section
/-! SUPPORT. The mask stack and region skipping (R94, R95). -/

namespace Sys2Proof.Machine

theorem mayIssue_iff {g : Gate} {u : Uses} {s : State} :
    mayIssue g u s = true ↔ gateOpen g s = true ∧ usesFree u s = true := by
  simp [mayIssue]

/-- An entry within a vector's length is there, whatever the default. -/
theorem vgetD_eq_getElem {α : Type} {n : Nat} (v : Vector α n) {i : Nat} (d : α) (h : i < n) : vgetD v i d = v[i] := by
  simp [vgetD, h]

/-- Entries after one has been replaced. -/
theorem vgetD_setIfInBounds {α : Type} {n : Nat} (v : Vector α n) (i k : Nat) (x d : α) :
    vgetD (v.setIfInBounds i x) k d = if k = i ∧ i < n then x else vgetD v k d := by
  unfold vgetD
  rw [Vector.getElem?_setIfInBounds]
  by_cases h : i = k
  · subst h
    by_cases hn : i < n <;> simp [hn]
  · simp [h, Ne.symm h]

/-- The current mask above depth 0 is the entry on top. -/
theorem topMask_of_depth {s : State} {k : Nat} (h : s.core.regs.depth.toNat = k + 1) (d : BitVec 16) (hk : k < 16) :
    topMask s = vgetD s.core.regs.stack k d := by
  have h0 : s.core.regs.depth ≠ 0 := fun e => by simp [e] at h
  rw [topMask, if_neg h0, h, Nat.add_sub_cancel, vgetD_eq_getElem _ _ hk, vgetD_eq_getElem _ _ hk]

/-- Words beyond the code, for the mode. -/
theorem beyondCode_eq_false_iff {s : State} {n : Nat} :
    beyondCode s n = false ↔ n ≤ 4095 ∧ (s.core.seq.mode = .program → n < 3584) := by
  cases hm : s.core.seq.mode <;> simp [beyondCode, hm]

theorem beyondCode_eq_true_iff {s : State} {n : Nat} :
    beyondCode s n = true ↔ ¬ (n ≤ 4095 ∧ (s.core.seq.mode = .program → n < 3584)) := by
  rw [← beyondCode_eq_false_iff, Bool.not_eq_false]

/-- `MPUSH` below depth 16: a new top entry, and one depth more. -/
theorem execMpush_below {s : State} {q : BitVec 3} (h : mayIssue anywhere ⟨[⟨.q q, false⟩], []⟩ s = true)
    (hd : s.core.regs.depth.toNat < 16) :
    ∃ t, exec (.mpush q) s = .next (retire t)
      ∧ t = { issued s with
          core.regs.stack := s.core.regs.stack.setIfInBounds s.core.regs.depth.toNat (topMask s &&& readQ s q)
          core.regs.depth := s.core.regs.depth + 1 } := by
  obtain ⟨hg, hu⟩ := mayIssue_iff.mp h
  refine ⟨_, ?_, rfl⟩
  rw [exec_mpush, execMpush, gate_of_open hg, if_neg (by simpa [maskDepth] using hd), issue_of_free hu]
  rfl

/-- `MINV` above depth 0: the top entry becomes the parent and not the old one. -/
theorem execMinv_above {s : State} (h : mayIssue anywhere {} s = true) (hd : s.core.regs.depth ≠ 0) :
    ∃ t, exec .minv s = .next (retire t)
      ∧ t = { issued s with
          core.regs.stack := s.core.regs.stack.setIfInBounds (s.core.regs.depth.toNat - 1) (parentMask s &&& ~~~topMask s) } := by
  obtain ⟨hg, hu⟩ := mayIssue_iff.mp h
  refine ⟨_, ?_, rfl⟩
  rw [exec_minv, execMinv, gate_of_open hg, if_neg hd, issue_of_free hu]
  rfl

/-- `MPOP` above depth 0: one depth less. -/
theorem execMpop_above {s : State} (h : mayIssue anywhere {} s = true) (hd : s.core.regs.depth ≠ 0) :
    exec .mpop s = .next (retire { issued s with core.regs.depth := s.core.regs.depth - 1 }) := by
  obtain ⟨hg, hu⟩ := mayIssue_iff.mp h
  rw [exec_mpop, execMpop, gate_of_open hg, if_neg hd, issue_of_free hu]
  rfl

/-- Whether an active loop ends among the `len` words after the program counter. -/
def loopEndsWithin (s : State) (len : BitVec 12) : Bool :=
  s.core.seq.loops.toList.any fun l =>
    l.active && decide (s.core.seq.pc.toNat < l.stop.toNat) && decide (l.stop.toNat ≤ s.core.seq.pc.toNat + len.toNat)

theorem loopEndsWithin_eq_false_iff {s : State} {len : BitVec 12} :
    loopEndsWithin s len = false ↔ ∀ l ∈ s.core.seq.loops.toList, l.active = true →
      ¬ (s.core.seq.pc.toNat < l.stop.toNat ∧ l.stop.toNat ≤ s.core.seq.pc.toNat + len.toNat) := by
  simp only [loopEndsWithin, List.any_eq_false, Bool.and_eq_true, decide_eq_true_eq, and_assoc, not_and]

/-- `BRMZ` with its target inside the code and no loop's end among the words it may skip. -/
theorem execBrmz_inside {s : State} {len : BitVec 12} (h : mayIssue { inMacro := false, endWord := false } {} s = true)
    (hin : beyondCode s (s.core.seq.pc.toNat + len.toNat) = false) (hloops : loopEndsWithin s len = false) :
    exec (.brmz len) s = .next (if topMask s = 0 then retireTo (s.core.seq.pc.toNat + len.toNat + 1) (issued s)
      else retire (issued s)) := by
  obtain ⟨hg, hu⟩ := mayIssue_iff.mp h
  unfold loopEndsWithin at hloops
  rw [exec_brmz, execBrmz, gate_of_open hg]
  simp only [hin, hloops, Bool.false_eq_true, if_false]
  rw [issue_of_free hu]
  rfl

/-- `BRMZ` with its target beyond the code, or an active loop's end among the words it may skip. -/
theorem execBrmz_outside {s : State} {len : BitVec 12} (hg : gateOpen { inMacro := false, endWord := false } s = true)
    (h : beyondCode s (s.core.seq.pc.toNat + len.toNat) = true ∨ loopEndsWithin s len = true) :
    exec (.brmz len) s = illegal (wordBrmz len) s := by
  unfold loopEndsWithin at h
  rw [exec_brmz, execBrmz, gate_of_open hg]
  rcases h with h | h
  · simp only [h, if_true]
  · simp only [h, if_true, ite_self]

/-- Settles O46: each instruction by its depth, and `BRMZ` by its two checks. -/
theorem maskStack : Obligations.MaskStack := by
  intro s q len depth top stack pc inside clear only
  refine ⟨fun h => ⟨fun hd => ?_, fun hd => ?_⟩, fun h => ⟨fun hpos hle => ⟨?_, ?_⟩, fun hzero => ?_⟩,
    fun h => ⟨fun hin hcl => ?_, fun hout => ?_⟩⟩
  · obtain ⟨t, ht, rfl⟩ := execMpush_below h hd
    have hdepth : (s.core.regs.depth + 1).toNat = depth + 1 := by
      rw [BitVec.toNat_add]
      exact Nat.mod_eq_of_lt (show depth + 1 < 32 by omega)
    refine ⟨_, ht, rfl, hdepth, ?_, fun k hk => ?_⟩
    · rw [topMask_of_depth hdepth 0 hd]
      show vgetD (s.core.regs.stack.setIfInBounds depth _) depth 0 = _
      rw [vgetD_setIfInBounds, if_pos ⟨rfl, hd⟩]
    · show vgetD (s.core.regs.stack.setIfInBounds depth _) k 0 = _
      rw [vgetD_setIfInBounds, if_neg (fun e => hk e.1)]
  · rw [exec_mpush, execMpush, gate_of_open (mayIssue_iff.mp h).1, if_pos (show 16 ≤ maskDepth s from hd)]
  · have h0 : s.core.regs.depth ≠ 0 := fun e => by simp [depth, e] at hpos
    have hdepth : s.core.regs.depth.toNat = (depth - 1) + 1 := by omega
    have hparent : parentMask s = if depth = 1 then 0xFFFF else stack s (depth - 2) := by
      unfold parentMask
      by_cases h1 : depth = 1
      · rw [if_pos (Nat.le_of_eq h1), if_pos h1]
      · rw [if_neg (by omega), if_neg h1]
        show vgetD s.core.regs.stack (depth - 2) _ = vgetD s.core.regs.stack (depth - 2) _
        rw [vgetD_eq_getElem _ _ (by omega), vgetD_eq_getElem _ _ (by omega)]
    obtain ⟨t, ht, he⟩ := execMinv_above h h0
    have hdepth' : t.core.regs.depth.toNat = (depth - 1) + 1 := by rw [he]; exact hdepth
    refine ⟨t, ht, by rw [he], by rw [he]; rfl, ?_, fun k hk => ?_⟩
    · rw [topMask_of_depth hdepth' 0 (by omega), ← hparent, he]
      show vgetD (s.core.regs.stack.setIfInBounds (depth - 1) _) (depth - 1) 0 = _
      rw [vgetD_setIfInBounds, if_pos ⟨rfl, by omega⟩]
    · rw [he]
      show vgetD (s.core.regs.stack.setIfInBounds (depth - 1) _) k 0 = _
      rw [vgetD_setIfInBounds, if_neg (fun e => hk e.1)]
  · have h0 : s.core.regs.depth ≠ 0 := fun e => by simp [depth, e] at hpos
    refine ⟨_, execMpop_above h h0, rfl, rfl, ?_⟩
    show (s.core.regs.depth - 1).toNat = depth - 1
    rw [BitVec.toNat_sub_of_le (by rw [BitVec.le_def]; exact hpos)]
    rfl
  · have h0 : s.core.regs.depth = 0 := BitVec.eq_of_toNat_eq hzero
    have hg := (mayIssue_iff.mp h).1
    exact ⟨by rw [exec_minv, execMinv, gate_of_open hg, if_pos h0], by rw [exec_mpop, execMpop, gate_of_open hg, if_pos h0]⟩
  · exact execBrmz_inside h (beyondCode_eq_false_iff.mpr hin) (loopEndsWithin_eq_false_iff.mpr hcl)
  · refine execBrmz_outside (mayIssue_iff.mp h).1 (hout.imp beyondCode_eq_true_iff.mpr fun hcl => ?_)
    rw [← Bool.not_eq_false, loopEndsWithin_eq_false_iff]
    exact hcl

end Sys2Proof.Machine
end

section
/-! SUPPORT. Loops (R68, R69, R71): which level a word ends, where the sequencer goes, and the start of a level. -/

namespace Sys2Proof.Machine

/-! ## The levels of a vector of loops -/

theorem vgetD_eq_vget {α : Type} {w : Nat} (v : Vector α (2 ^ w)) (i : BitVec w) (d : α) : vgetD v i.toNat d = vget v i :=
  vgetD_eq_getElem v d i.isLt

theorem setIfInBounds_eq_vset {α : Type} {w : Nat} (v : Vector α (2 ^ w)) (i : BitVec w) (x : α) :
    v.setIfInBounds i.toNat x = vset v i x := by
  ext k hk
  simp only [vset, Vector.getElem_setIfInBounds, Vector.getElem_set]

theorem mem_toList_iff_vget {α : Type} {w : Nat} {v : Vector α (2 ^ w)} {x : α} : x ∈ v.toList ↔ ∃ i : BitVec w, vget v i = x := by
  rw [Vector.mem_toList_iff, Vector.mem_iff_getElem]
  constructor
  · rintro ⟨k, hk, rfl⟩
    exact ⟨BitVec.ofNat w k, by simp [vget, Nat.mod_eq_of_lt hk]⟩
  · rintro ⟨i, rfl⟩
    exact ⟨i.toNat, i.isLt, rfl⟩

/-! ## The innermost level that ends at a word -/

/-- One step of the search for the candidate of the highest order. -/
def laterCandidate (cand : Nat → Bool) (order : Nat → Nat) (best : Option Nat) (i : Nat) : Option Nat :=
  if cand i then
    match best with
    | none => some i
    | some j => if order j < order i then some i else best
  else best

theorem foldl_laterCandidate_of_none {cand : Nat → Bool} {order : Nat → Nat} (l : List Nat) (best : Option Nat)
    (h : ∀ k ∈ l, cand k = false) : l.foldl (laterCandidate cand order) best = best := by
  induction l with
  | nil => rfl
  | cons k l ih =>
    rw [List.foldl_cons]
    simp only [laterCandidate, h k List.mem_cons_self, Bool.false_eq_true, if_false]
    exact ih fun j hj => h j (List.mem_cons_of_mem _ hj)

/-- A candidate above all others is found, from a best one that is below it or is itself. -/
theorem foldl_laterCandidate {cand : Nat → Bool} {order : Nat → Nat} {i : Nat} (hi : cand i = true) (l : List Nat)
    (hmax : ∀ k ∈ l, cand k = true → k ≠ i → order k < order i) (best : Option Nat)
    (hbest : best = some i ∨ (i ∈ l ∧ ∀ j, best = some j → order j < order i)) :
    l.foldl (laterCandidate cand order) best = some i := by
  induction l generalizing best with
  | nil => simpa using hbest
  | cons k l ih =>
    rw [List.foldl_cons]
    refine ih (fun j hj => hmax j (List.mem_cons_of_mem _ hj)) _ ?_
    unfold laterCandidate
    by_cases hk : k = i
    · subst hk
      left
      rcases hbest with rfl | ⟨-, hlow⟩
      · simp [hi]
      · cases best with
        | none => simp [hi]
        | some j => simp [hi, hlow j rfl]
    · rcases hbest with rfl | ⟨hmem, hlow⟩
      · left
        by_cases hc : cand k = true
        · have := hmax k List.mem_cons_self hc hk
          simp [hc, Nat.not_lt_of_gt this]
        · simp [hc]
      · right
        refine ⟨(List.mem_cons.mp hmem).resolve_left (Ne.symm hk), fun j hj => ?_⟩
        by_cases hc : cand k = true
        · have hlt := hmax k List.mem_cons_self hc hk
          cases best with
          | none => simp [hc] at hj; exact hj ▸ hlt
          | some b =>
            have hb := hlow b rfl
            simp only [hc, if_true] at hj
            split at hj
            · exact Option.some.inj hj ▸ hlt
            · exact Option.some.inj hj ▸ hb
        · simp [hc] at hj
          exact hlow j hj

/-- Whether an active level ends at a word. -/
def endsAt (ls : Vector LoopLevel 4) (pc : BitVec 12) (i : BitVec 2) : Prop :=
  (vget (w := 2) ls i).active = true ∧ (vget (w := 2) ls i).stop = pc

/-- The levels that `innermost` chooses from, by number. -/
def loopCandidate (ls : Vector LoopLevel 4) (pc : BitVec 12) (done : List Nat) (i : Nat) : Bool :=
  (vgetD ls i LoopLevel.off).active && (vgetD ls i LoopLevel.off).stop == pc && !done.contains i

theorem innermost_eq_foldl (ls : Vector LoopLevel 4) (pc : BitVec 12) (done : List Nat) :
    innermost ls pc done = (List.range 4).foldl
      (laterCandidate (loopCandidate ls pc done) fun i => (vgetD ls i LoopLevel.off).order) none := rfl

theorem loopCandidate_iff {ls : Vector LoopLevel 4} {pc : BitVec 12} {done : List Nat} {i : BitVec 2} :
    loopCandidate ls pc done i.toNat = true ↔ endsAt ls pc i ∧ i.toNat ∉ done := by
  have h : vgetD ls i.toNat LoopLevel.off = vget (w := 2) ls i := vgetD_eq_vget (w := 2) ls i _
  simp [loopCandidate, endsAt, h, and_assoc]

theorem exists_level_of_lt {k : Nat} (h : k < 4) : ∃ i : BitVec 2, i.toNat = k :=
  ⟨BitVec.ofNat 2 k, Nat.mod_eq_of_lt h⟩

/-- Where every level that ends at the word has been tested, none is left. -/
theorem innermost_eq_none {ls : Vector LoopLevel 4} {pc : BitVec 12} {done : List Nat}
    (h : ∀ i, endsAt ls pc i → i.toNat ∈ done) : innermost ls pc done = none := by
  rw [innermost_eq_foldl]
  refine foldl_laterCandidate_of_none _ _ fun k hk => ?_
  obtain ⟨i, rfl⟩ := exists_level_of_lt (List.mem_range.mp hk)
  rw [← Bool.not_eq_true, loopCandidate_iff]
  exact fun hc => hc.2 (h i hc.1)

/-- A level that ends at the word, is not tested yet and was started after all others of that kind is the innermost. -/
theorem innermost_eq_some {ls : Vector LoopLevel 4} {pc : BitVec 12} {done : List Nat} {i : BitVec 2} (hi : endsAt ls pc i)
    (hdone : i.toNat ∉ done)
    (hmax : ∀ k, endsAt ls pc k → k.toNat ∉ done → k ≠ i → (vget (w := 2) ls k).order < (vget (w := 2) ls i).order) :
    innermost ls pc done = some i.toNat := by
  rw [innermost_eq_foldl]
  refine foldl_laterCandidate (loopCandidate_iff.mpr ⟨hi, hdone⟩) _ (fun k hk hc hne => ?_) none
    (Or.inr ⟨List.mem_range.mpr i.isLt, fun j hj => by cases hj⟩)
  obtain ⟨k, rfl⟩ := exists_level_of_lt (List.mem_range.mp hk)
  obtain ⟨hk', hkdone⟩ := loopCandidate_iff.mp hc
  have := hmax k hk' hkdone (fun e => hne (e ▸ rfl))
  rwa [← vgetD_eq_vget (w := 2) ls k LoopLevel.off, ← vgetD_eq_vget (w := 2) ls i LoopLevel.off] at this

/-! ## The end-of-body tests -/

section endTests
variable {ls : Vector LoopLevel 4} {pc : BitVec 12} {done : List Nat} {i : BitVec 2} {n : Nat}

/-- No level left to test: on to the next word. -/
theorem endTests_of_none (h : innermost ls pc done = none) : endTests n ls pc done = (ls, none) := by
  cases n with
  | zero => rfl
  | succ n => rw [endTests, h]

/-- The innermost level goes round again. -/
theorem endTests_round (h : innermost ls pc done = some i.toNat) (hc : 1 < (vget (w := 2) ls i).count.toNat) :
    endTests (n + 1) ls pc done
      = (vset (w := 2) ls i { vget (w := 2) ls i with count := (vget (w := 2) ls i).count - 1 },
          some (vget (w := 2) ls i).start) := by
  have hl : vgetD ls i.toNat LoopLevel.off = vget (w := 2) ls i := vgetD_eq_vget (w := 2) ls i _
  have hs := setIfInBounds_eq_vset (w := 2) ls i
  rw [endTests, h]
  simp only [hl, if_neg (Nat.not_le_of_gt hc)]
  rw [hs]

/-- The innermost level ends, and the other levels are tested. -/
theorem endTests_ended (h : innermost ls pc done = some i.toNat) (hc : (vget (w := 2) ls i).count.toNat ≤ 1) :
    endTests (n + 1) ls pc done
      = endTests n (vset (w := 2) ls i { vget (w := 2) ls i with count := 0, active := false }) pc (i.toNat :: done) := by
  have hl : vgetD ls i.toNat LoopLevel.off = vget (w := 2) ls i := vgetD_eq_vget (w := 2) ls i _
  have hs := setIfInBounds_eq_vset (w := 2) ls i
  rw [endTests, h]
  simp only [hl, if_pos hc]
  rw [hs]

/-- A level that has ended ends nowhere any more; the others end where they did. -/
theorem endsAt_vset_ended {k : BitVec 2} {l : LoopLevel} (hl : l.active = false) :
    endsAt (vset (w := 2) ls i l) pc k ↔ k ≠ i ∧ endsAt ls pc k := by
  unfold endsAt
  rw [vget_vset]
  by_cases h : k = i <;> simp [h, hl]

end endTests

/-! ## Retiring outside macros -/

/-- Counting the armed step touches nothing that the end-of-body tests read. -/
theorem countStep_seq_fields (s : State) : (countStep s).core.seq.loops = s.core.seq.loops
    ∧ (countStep s).core.seq.pc = s.core.seq.pc ∧ (countStep s).core.seq.macroRun = s.core.seq.macroRun
    ∧ (countStep s).core.seq.ctrl = s.core.seq.ctrl := by
  unfold countStep
  split <;> simp

/-- Where the sequencer stands after it has gone on to word `n` with the loop levels `ls`. -/
def loopsGoTo (s : State) (ls : Vector LoopLevel 4) (n : Nat) : State :=
  { countStep s with
    core.seq.loops := ls, core.seq.pc := BitVec.ofNat 12 n, core.seq.pcOver := decide (n = 4096), core.seq.wait := none }

theorem goto_eq_loopsGoTo {s : State} {ls : Vector LoopLevel 4} {n : Nat} (h : n ≤ 4096) :
    goto n { countStep s with core.seq.loops := ls } = loopsGoTo s ls n := by
  have : decide (4096 ≤ n) = decide (n = 4096) := decide_eq_decide.mpr ⟨fun h' => Nat.le_antisymm h h', fun e => Nat.le_of_eq e.symm⟩
  simp only [goto, loopsGoTo, this]

theorem retire_of_round {s : State} {ls : Vector LoopLevel 4} {start : BitVec 12} (hm : s.core.seq.macroRun = false)
    (h : endTests 4 s.core.seq.loops s.core.seq.pc [] = (ls, some start)) : retire s = loopsGoTo s ls start.toNat := by
  obtain ⟨hloops, hpc, hmacro, -⟩ := countStep_seq_fields s
  rw [← goto_eq_loopsGoTo (Nat.le_of_lt start.isLt)]
  simp only [retire, hmacro, hm, Bool.false_eq_true, if_false, nextWord, hloops, hpc, h]

theorem retire_of_exit {s : State} {ls : Vector LoopLevel 4} (hm : s.core.seq.macroRun = false)
    (h : endTests 4 s.core.seq.loops s.core.seq.pc [] = (ls, none)) : retire s = loopsGoTo s ls (s.core.seq.pc.toNat + 1) := by
  obtain ⟨hloops, hpc, hmacro, -⟩ := countStep_seq_fields s
  rw [← goto_eq_loopsGoTo s.core.seq.pc.isLt]
  simp only [retire, hmacro, hm, Bool.false_eq_true, if_false, nextWord, hloops, hpc, h]

/-! ## The start of a level -/

/-- A fold that takes the highest order of the active levels is not below its start, nor below any of them. -/
theorem le_foldl_maxOrder (l : List LoopLevel) (m : Nat) :
    m ≤ l.foldl (fun m l => if l.active then Nat.max m l.order else m) m
      ∧ ∀ x ∈ l, x.active = true → x.order ≤ l.foldl (fun m l => if l.active then Nat.max m l.order else m) m := by
  induction l generalizing m with
  | nil => simp
  | cons y l ih =>
    rw [List.foldl_cons]
    obtain ⟨hm, hl⟩ := ih (if y.active then Nat.max m y.order else m)
    have hy : m ≤ (if y.active then Nat.max m y.order else m)
        ∧ (y.active = true → y.order ≤ if y.active then Nat.max m y.order else m) := by
      by_cases h : y.active = true
      · rw [if_pos h]
        exact ⟨Nat.le_max_left .., fun _ => Nat.le_max_right ..⟩
      · simp [h]
    refine ⟨Nat.le_trans hy.1 hm, fun x hx hact => ?_⟩
    rcases List.mem_cons.mp hx with rfl | hx
    · exact Nat.le_trans (hy.2 hact) hm
    · exact hl x hx hact

theorem order_lt_nextOrder {s : State} {i : BitVec 2} (h : (vget (w := 2) s.core.seq.loops i).active = true) :
    (vget (w := 2) s.core.seq.loops i).order < nextOrder s := by
  have := (le_foldl_maxOrder s.core.seq.loops.toList 0).2 _ ((mem_toList_iff_vget (w := 2)).mpr ⟨i, rfl⟩) h
  unfold nextOrder
  omega

theorem loopiCount_eq (raw : BitVec 8) : loopiCount raw = BitVec.ofNat 32 (raw.toNat % 8 * 32 + raw.toNat / 8) := by
  revert raw; decide

/-- What lets a level start: a body, the level not active, its end inside the code and inside every active level. -/
def Opens (s : State) (lvl : BitVec 2) (len : BitVec 12) : Prop :=
  len ≠ 0 ∧ (vget (w := 2) s.core.seq.loops lvl).active = false ∧ s.core.seq.pc.toNat + len.toNat ≤ 4095
    ∧ (s.core.seq.mode = .program → s.core.seq.pc.toNat + len.toNat < 3584)
    ∧ ∀ i : BitVec 2, (vget (w := 2) s.core.seq.loops i).active = true →
      s.core.seq.pc.toNat + len.toNat ≤ (vget (w := 2) s.core.seq.loops i).stop.toNat

/-- No active level ends before a word. -/
theorem anyStopBefore_eq_false_iff {s : State} {n : Nat} :
    (s.core.seq.loops.toList.any fun l => l.active && decide (l.stop.toNat < n)) = false
      ↔ ∀ i : BitVec 2, (vget (w := 2) s.core.seq.loops i).active = true → n ≤ (vget (w := 2) s.core.seq.loops i).stop.toNat := by
  simp only [List.any_eq_false, Bool.and_eq_true, decide_eq_true_eq, not_and, Nat.not_lt]
  constructor
  · exact fun h i => h _ ((mem_toList_iff_vget (w := 2)).mpr ⟨i, rfl⟩)
  · intro h l hl
    obtain ⟨i, rfl⟩ := (mem_toList_iff_vget (w := 2)).mp hl
    exact h i

section openLoop
variable {w : Word} {s : State} {lvl : BitVec 2} {len : BitVec 12} {srcs : List Src} {count : State → Word}

theorem openLoop_of_opens (h : mayIssue control ⟨srcs, []⟩ s = true) (ho : Opens s lvl len) :
    openLoop w lvl len srcs count s =
      if count (issued s) = 0 then
        .next (retireTo (s.core.seq.pc.toNat + len.toNat + 1) (setLoop lvl { loopLevel s lvl with count := 0 } (issued s)))
      else
        .next (retire (setLoop lvl ⟨count (issued s), BitVec.ofNat 12 (s.core.seq.pc.toNat + 1),
          BitVec.ofNat 12 (s.core.seq.pc.toNat + len.toNat), true, nextOrder (issued s)⟩ (issued s))) := by
  obtain ⟨hg, hu⟩ := mayIssue_iff.mp h
  obtain ⟨hlen, hlvl, hcode, hmode, hout⟩ := ho
  have hoff : ¬ (loopLevel s lvl).active = true := Bool.not_eq_true _ ▸ hlvl
  rw [openLoop, gate_of_open hg]
  dsimp only
  rw [if_neg hlen, if_neg hoff, if_neg (Bool.not_eq_true _ ▸ beyondCode_eq_false_iff.mpr ⟨hcode, hmode⟩),
    if_neg (Bool.not_eq_true _ ▸ anyStopBefore_eq_false_iff.mpr hout), issue_of_free hu]
  rfl

theorem openLoop_of_not_opens (hg : gateOpen control s = true) (ho : ¬ Opens s lvl len) :
    openLoop w lvl len srcs count s = illegal w s := by
  rw [openLoop, gate_of_open hg]
  dsimp only
  by_cases hlen : len = 0
  · rw [if_pos hlen]
  by_cases hlvl : (loopLevel s lvl).active = true
  · rw [if_neg hlen, if_pos hlvl]
  by_cases hcode : beyondCode s (s.core.seq.pc.toNat + len.toNat) = true
  · rw [if_neg hlen, if_neg hlvl, if_pos hcode]
  obtain ⟨hcode, hmode⟩ := beyondCode_eq_false_iff.mp (Bool.not_eq_true _ ▸ hcode)
  rw [if_neg hlen, if_neg hlvl, if_neg ‹_›, if_pos]
  by_contra hout
  exact ho ⟨hlen, Bool.not_eq_true _ ▸ hlvl, hcode, hmode, anyStopBefore_eq_false_iff.mp (Bool.not_eq_true _ ▸ hout)⟩

end openLoop

/-- Settles O25: the end-of-body tests by the levels that end at the word, and the start of a level by `openLoop`. -/
theorem loops : Obligations.Loops := by
  unfold Obligations.Loops
  refine ⟨?_, ?_⟩
  · intro s hm pc level ends goes round ended ls
    refine ⟨fun hnone => retire_of_exit hm (endTests_of_none (innermost_eq_none fun i hi => (hnone i hi).elim)), ?_, ?_⟩
    · intro i hi hone
      have hin : innermost ls pc [] = some i.toNat :=
        innermost_eq_some hi List.not_mem_nil fun k hk _ hne => (hne (hone k hk)).elim
      refine ⟨fun hc => retire_of_round hm (endTests_round hin hc), fun hc => retire_of_exit hm ?_⟩
      rw [endTests_ended hin hc]
      refine endTests_of_none (innermost_eq_none fun k hk => ?_)
      obtain ⟨hne, hk⟩ := (endsAt_vset_ended rfl).mp hk
      exact (hne (hone k hk)).elim
    · intro i k hi hk horder htwo
      have hki : k ≠ i := fun e => Nat.lt_irrefl _ (e ▸ horder)
      have hin : innermost ls pc [] = some i.toNat := innermost_eq_some hi List.not_mem_nil fun j hj _ hne => by
        obtain rfl := (htwo j hj).resolve_left hne
        exact horder
      have hvk : vget (w := 2) (vset (w := 2) ls i (ended i)) k = level k := by rw [vget_vset, if_neg hki]
      have hin' : innermost (vset (w := 2) ls i (ended i)) pc [i.toNat] = some k.toNat := by
        refine innermost_eq_some ((endsAt_vset_ended rfl).mpr ⟨hki, hk⟩)
          (fun h => hki (BitVec.eq_of_toNat_eq (List.mem_singleton.mp h))) fun j hj _ hne => ?_
        obtain ⟨hji, hj⟩ := (endsAt_vset_ended rfl).mp hj
        exact (((htwo j hj).resolve_left hji) |> hne).elim
      refine ⟨fun hc => retire_of_round hm (endTests_round hin hc), fun hc hck => ?_, fun hc hck => ?_⟩
      · refine retire_of_round hm ?_
        rw [endTests_ended hin hc]
        have := endTests_round (n := 2) hin' (hvk ▸ hck)
        rwa [hvk] at this
      · refine retire_of_exit hm ?_
        rw [endTests_ended hin hc]
        have := endTests_ended (n := 2) hin' (hvk ▸ hck)
        rw [hvk] at this
        refine this.trans (endTests_of_none (innermost_eq_none fun j hj => ?_))
        obtain ⟨hjk, hj⟩ := (endsAt_vset_ended rfl).mp hj
        obtain ⟨hji, hj⟩ := (endsAt_vset_ended rfl).mp hj
        exact (((htwo j hj).resolve_left hji) |> hjk).elim
  · intro s lvl a raw len g pc stop level opens starts
    have start_of (w : Word) (ins : Instr) (srcs : List Src) (count : State → Word)
        (he : exec ins s = openLoop w lvl len srcs count s) (h : mayIssue g ⟨srcs, []⟩ s = true) :
        starts ins (count (issued s)) ∧ (¬ opens → exec ins s = illegal w s) := by
      refine ⟨⟨fun ho hc => ?_, fun ho hc => ?_⟩, fun ho => he.trans (openLoop_of_not_opens (mayIssue_iff.mp h).1 ho)⟩
      · refine ⟨_, he.trans ((openLoop_of_opens h ho).trans (if_neg hc)), fun i hi => ?_, ?_⟩
        · exact (vget_vset ..).trans (if_neg hi)
        · have hnew : vget (w := 2) (setLoop lvl ⟨count (issued s), BitVec.ofNat 12 (pc + 1), BitVec.ofNat 12 stop, true,
              nextOrder (issued s)⟩ (issued s)).core.seq.loops lvl
              = ⟨count (issued s), BitVec.ofNat 12 (pc + 1), BitVec.ofNat 12 stop, true, nextOrder (issued s)⟩ :=
            (vget_vset ..).trans (if_pos rfl)
          rw [hnew]
          have hstop : stop < 4096 := Nat.lt_succ_of_le ho.2.2.1
          exact ⟨rfl, rfl, BitVec.toNat_ofNat .., (BitVec.toNat_ofNat ..).trans (Nat.mod_eq_of_lt hstop),
            fun i hi => order_lt_nextOrder (s := issued s) hi, rfl, rfl⟩
      · exact he.trans ((openLoop_of_opens h ho).trans (if_pos hc))
    refine ⟨fun h => start_of _ _ [srcS a] (fun s => lo32 (readS s a)) (exec_loop ..) h, fun h => ?_⟩
    rw [← loopiCount_eq]
    exact start_of _ _ [] (fun _ => loopiCount raw) (exec_loopi ..) h

end Sys2Proof.Machine
end

section
/-! SUPPORT. Macros (R28, R72-R74): the control store, and where a macro goes on or ends. -/

namespace Sys2Proof.Machine

/-- `MSTEP` as a number: ACT in bit 15, MAC in bits [10:5], STEP in bits [4:0] (R28). -/
theorem mstepOf_eq (act : Bool) (mac step : Nat) :
    mstepOf act mac step = BitVec.ofNat 64 ((if act then 2 ^ 15 else 0) + 32 * (mac % 64) + step % 32) := by
  have hlow : step % 32 ||| (mac % 64) <<< 5 = 32 * (mac % 64) + step % 32 := by
    have hstep : step % 32 < 2 ^ 5 := Nat.mod_lt _ (by decide)
    rw [Nat.or_comm, ← Nat.shiftLeft_add_eq_or_of_lt hstep, Nat.shiftLeft_eq, Nat.mul_comm]
  have hfield : 32 * (mac % 64) + step % 32 < 2 ^ 15 := by omega
  have hword : dw (step % 32) ||| dw (mac % 64) <<< 5 = BitVec.ofNat 64 (32 * (mac % 64) + step % 32) := by
    have hlow64 : step % 32 < 2 ^ 64 := Nat.lt_trans (Nat.mod_lt _ (by decide)) (by decide)
    have hmac64 : mac % 64 < 2 ^ 64 := Nat.lt_trans (Nat.mod_lt _ (by decide)) (by decide)
    have hshift : (mac % 64) <<< 5 < 2 ^ 64 := by rw [Nat.shiftLeft_eq]; omega
    refine BitVec.eq_of_toNat_eq ?_
    rw [BitVec.toNat_or, BitVec.toNat_shiftLeft, BitVec.toNat_ofNat, BitVec.toNat_ofNat, BitVec.toNat_ofNat,
      Nat.mod_eq_of_lt hlow64, Nat.mod_eq_of_lt hmac64, Nat.mod_eq_of_lt hshift, hlow]
    exact (Nat.mod_eq_of_lt (Nat.lt_trans hfield (by decide))).symm
  rw [mstepOf, hword]
  refine BitVec.eq_of_toNat_eq ?_
  cases act
  · simp
  · have hact := Nat.two_pow_add_eq_or_of_lt hfield 1
    rw [Nat.mul_one] at hact
    simp only [if_true, BitVec.toNat_or, BitVec.toNat_ofNat, Nat.add_assoc]
    rw [Nat.mod_eq_of_lt (Nat.lt_trans hfield (by decide)), Nat.or_comm]
    exact hact.symm.trans (Nat.mod_eq_of_lt (by omega)).symm

/-- An instruction that macros and end words bar, and that may issue, stands outside a macro at a word that no level ends. -/
theorem outside_of_gateOpen {g : Gate} {s : State} (h : gateOpen g s = true) (hm : g.inMacro = false) :
    s.core.seq.macroRun = false ∧ (g.endWord = false → isEndWord s s.core.seq.pc = false) := by
  simp only [gateOpen, Bool.and_eq_true, hm, Bool.or_false, Bool.not_eq_true'] at h
  obtain ⟨⟨⟨-, hrun⟩, hend⟩, -⟩ := h
  exact ⟨hrun, fun he => by simpa [hrun, he] using hend⟩

/-- A word that no level ends: on to the next one. -/
theorem nextWord_of_no_end {s : State} (h : isEndWord s s.core.seq.pc = false) : nextWord s = goto (s.core.seq.pc.toNat + 1) s := by
  have hnone : ∀ i, ¬ endsAt s.core.seq.loops s.core.seq.pc i := fun i hi => by
    simp only [isEndWord, List.any_eq_false] at h
    exact h _ ((mem_toList_iff_vget (w := 2)).mpr ⟨i, rfl⟩) (by simp [hi.1, hi.2])
  have := endTests_of_none (n := 4) (innermost_eq_none (done := []) fun i hi => (hnone i hi).elim)
  rw [nextWord, this]

/-- It goes on at an operation that is there. -/
theorem macroAt_goes_on {mac step : Nat} {s : State} (hs : step < 32) (h : macroWord s mac step ≠ 0) :
    macroAt mac step s = { s with core.sys.mstep := mstepOf true mac step, core.seq.wait := none } := by
  rw [macroAt, if_neg (by rintro (h' | h') <;> [exact Nat.not_le_of_gt hs h'; exact h h'])]

/-- It ends at an all-zero word or at step 32. -/
theorem macroAt_ends {mac step : Nat} {s : State} (h : 32 ≤ step ∨ macroWord s mac step = 0) :
    macroAt mac step s = nextWord { s with core.sys.mstep := mstepOf false mac step, core.seq.macroRun := false } := by
  rw [macroAt, if_pos h]

/-- The control store after one operation has been written. -/
theorem macroWord_setCtrl (s : State) (m m' : BitVec 6) (k k' : BitVec 5) (x : Word) :
    macroWord { s with core.seq.ctrl := s.core.seq.ctrl.setIfInBounds (32 * m.toNat + k.toNat) x } m'.toNat k'.toNat
      = if m' = m ∧ k' = k then x else macroWord s m'.toNat k'.toNat := by
  have hindex : 32 * m'.toNat + k'.toNat = 32 * m.toNat + k.toNat ∧ 32 * m.toNat + k.toNat < 2048 ↔ m' = m ∧ k' = k := by
    rw [BitVec.toNat_eq, BitVec.toNat_eq]
    omega
  unfold macroWord
  rw [vgetD_setIfInBounds, if_congr hindex rfl rfl]

theorem countStep_macroWord (s : State) (mac step : Nat) : macroWord (countStep s) mac step = macroWord s mac step := by
  rw [macroWord, (countStep_seq_fields s).2.2.2, macroWord]

/-- The step counter does not depend on the fields that the end of macros changes. -/
theorem countStep_macro_fields (s : State) (run : Bool) (x : DWord) :
    countStep { s with core.seq.macroRun := run, core.sys.mstep := x }
      = { countStep s with core.seq.macroRun := run, core.sys.mstep := x } := by
  unfold countStep
  by_cases h : (s.core.seq.stepInst && s.core.seq.mode == .program) = true
  · rw [if_pos h, if_pos h]
  · rw [if_neg h, if_neg h]

/-- The state in which macros run. -/
def inMacroRun (s : State) : State := { s with core.seq.macroRun := true }

/-- `MCALL` that issues: the control store stands at its first operation. -/
theorem execMcall_issues {s : State} {a : BitVec 5} {m : BitVec 6} (h : mayIssue control {} s = true) :
    exec (.mcall a m) s = .next (macroAt m.toNat 0
      (inMacroRun (if macroWord (issued s) m.toNat 0 = 0 then countStep (issued s) else issued s))) := by
  obtain ⟨hg, hu⟩ := mayIssue_iff.mp h
  rw [exec_mcall, execMcall, gate_of_open hg, issue_of_free hu]
  rfl

/-- `MCALL` where there is a first operation. -/
theorem execMcall_runs {s : State} {a : BitVec 5} {m : BitVec 6} (h : mayIssue control {} s = true) (hw : macroWord s m.toNat 0 ≠ 0) :
    exec (.mcall a m) s
      = .next { issued s with core.seq.macroRun := true, core.sys.mstep := BitVec.ofNat 64 (2 ^ 15 + 32 * m.toNat) } := by
  have hstep : mstepOf true m.toNat 0 = BitVec.ofNat 64 (2 ^ 15 + 32 * m.toNat) := by
    rw [mstepOf_eq, Nat.mod_eq_of_lt m.isLt]
    rfl
  rw [execMcall_issues h, if_neg (show macroWord (issued s) _ _ ≠ 0 from hw), ← hstep]
  exact congrArg Host.Outcome.next (macroAt_goes_on (s := inMacroRun (issued s)) (by decide) hw)

/-- `MCALL` where the first operation is all-zero. -/
theorem execMcall_empty {s : State} {a : BitVec 5} {m : BitVec 6} (h : mayIssue control {} s = true) (hw : macroWord s m.toNat 0 = 0) :
    exec (.mcall a m) s
      = .next (retireTo (s.core.seq.pc.toNat + 1) { issued s with core.sys.mstep := BitVec.ofNat 64 (32 * m.toNat) }) := by
  obtain ⟨hrun, hend⟩ := outside_of_gateOpen (mayIssue_iff.mp h).1 rfl
  have hstep : mstepOf false m.toNat 0 = BitVec.ofNat 64 (32 * m.toNat) := by
    rw [mstepOf_eq, Nat.mod_eq_of_lt m.isLt]
    simp
  obtain ⟨hloops, hpc, -, -⟩ := countStep_seq_fields (issued s)
  have hend' : isEndWord (countStep (issued s)) (countStep (issued s)).core.seq.pc = false := by
    rw [isEndWord, hloops, hpc]
    exact hend rfl
  have hidle : { issued s with core.seq.macroRun := false, core.sys.mstep := mstepOf false m.toNat 0 }
      = { issued s with core.sys.mstep := mstepOf false m.toNat 0 } :=
    congrArg (fun b => { issued s with core.seq.macroRun := b, core.sys.mstep := mstepOf false m.toNat 0 }) hrun.symm
  rw [execMcall_issues h, if_pos (show macroWord (issued s) _ _ = 0 from hw), ← hstep, retireTo, ← hidle,
    countStep_macro_fields (issued s) false (mstepOf false m.toNat 0)]
  refine congrArg Host.Outcome.next ((macroAt_ends (s := inMacroRun (countStep (issued s)))
    (Or.inr ((countStep_macroWord (issued s) _ _).trans hw))).trans ((nextWord_of_no_end ?_).trans ?_))
  · exact hend'
  · rw [show (s.core.seq.pc) = (countStep (issued s)).core.seq.pc from hpc.symm]
    rfl

/-- Settles O27: the control store by `macroWord_setCtrl`, and the two ways on by `macroAt`. -/
theorem macros : Obligations.Macros := by
  unfold Obligations.Macros
  intro s a k m
  refine ⟨fun h => ?_, fun h => ⟨execMcall_runs h, execMcall_empty h⟩, fun hrun => ?_⟩
  · obtain ⟨hg, hu⟩ := mayIssue_iff.mp h
    refine ⟨{ issued s with core.seq.ctrl := s.core.seq.ctrl.setIfInBounds (32 * m.toNat + k.toNat) (lo32 (readS s a)) },
      ?_, rfl, fun m' k' => macroWord_setCtrl (issued s) m m' k k' _⟩
    rw [exec_mstore, execMstore, gate_of_open hg, issue_of_free hu]
    rfl
  · intro mac step
    have hcount : retire s = macroAt mac step (countStep s) := by
      rw [retire, if_pos ((countStep_seq_fields s).2.2.1.trans hrun)]
      simp only [mstepMac, mstepStep, fieldN, countStep_sys, mac, step, BitVec.toNat_ushiftRight, Nat.shiftRight_eq_div_pow,
        Nat.pow_zero, Nat.div_one]
      rfl
    have hmac : mac % 64 = mac := Nat.mod_mod _ _
    rw [hcount]
    refine ⟨fun hs hw => ?_, fun hend => ?_⟩
    · rw [macroAt_goes_on hs ((countStep_macroWord s _ _).symm ▸ hw), mstepOf_eq, hmac, Nat.mod_eq_of_lt hs]
      rfl
    · rw [macroAt_ends (hend.imp (fun e => Nat.le_of_eq e.symm) (countStep_macroWord s _ _).trans), mstepOf_eq, hmac]
      simp

end Sys2Proof.Machine
end

section
/-! SUPPORT. The record that `BUFSTAT` returns (R139), of a buffer longer than its `FILL` field can say. -/

namespace Sys2Proof.Machine

/-- A declared, full buffer of 2^17 bytes. `BUFDEF` declares none of that size, but the state can hold it. -/
def oversizedBuffer : Buffer := ⟨true, 0, 2 ^ 17, .full, false, 0, 0⟩

/-- Reset, with the oversized buffer as buffer 0. -/
def withOversizedBuffer : State := { State.reset with core.pool.bufs := State.reset.core.pool.bufs.set 0 oversizedBuffer }

theorem bufOf_withOversizedBuffer : bufOf withOversizedBuffer 0 = oversizedBuffer := by
  simp [bufOf, withOversizedBuffer, vgetD]

/-- The model shifts the whole size into the record: bit 17 of the size stands in bit 21, above the field [20:4]. -/
theorem bufstatValue_withOversizedBuffer : bufstatValue withOversizedBuffer 0 = 0x200006#64 := by
  simp only [bufstatValue, bufOf_withOversizedBuffer]
  decide

/-- Refutes O28: the statement is about every state, and of a full buffer of 2^17 bytes `BUFSTAT` returns 0x200006, while the
17-bit field `FILL` of the statement holds 0 (0x6). -/
theorem not_systemRegisterReads : ¬ Obligations.SystemRegisterReads := by
  unfold Obligations.SystemRegisterReads
  intro h
  obtain ⟨-, -, hbuf, -⟩ := h withOversizedBuffer 0 0 0 0
  have hrecord : bufstatValue withOversizedBuffer 0 = 0x6#64 := by
    refine hbuf.trans ?_
    rw [show BitVec.toNat (0 : BitVec 5) = 0 from rfl, bufOf_withOversizedBuffer]
    decide
  exact absurd (bufstatValue_withOversizedBuffer.symm.trans hrecord) (by decide)

end Sys2Proof.Machine
end

section
/-! SUPPORT. Writes of system registers (R20-R24, R28-R32, R325). -/

namespace Sys2Proof.Machine

/-! ## What a stored register reads -/

/-- Every other register reads as before. -/
theorem sysRead_storeSys_of_ne {s : State} {x : DWord} {n : Nat} {r' : BitVec 12} (h : r'.toNat ≠ n) :
    sysRead (storeSys n x s) r' = sysRead s r' := by
  unfold sysRead
  generalize r'.toNat = k at h ⊢
  unfold storeSys
  split
  case h_12 => rfl
  all_goals
    dsimp only
    split
    all_goals first
      | rfl  -- a field that is not written
      | exact absurd rfl h  -- the register itself
      | exact congrArg some (Vector.getElem_set_ne _ _ (by decide))  -- another one of `SRP0`-`SRP3`

/-- The registers without behaviour of their own: `MSTEP`, `SRP0`-`SRP3` and the trap registers. -/
def PlainReg (r : BitVec 12) : Prop :=
  r = 0x007 ∨ (0x008 ≤ r.toNat ∧ r.toNat ≤ 0x00B) ∨ (0x020 ≤ r.toNat ∧ r.toNat ≤ 0x025)

/-- What a plain register reads after a write. -/
def storedSys (s : State) (r : BitVec 12) (x : DWord) : DWord :=
  if r = 0x023 then (x &&& ~~~0x80) ||| (s.core.sys.tstat &&& 0x80) else x

/-- A value within the width of a program-counter field is read back whole. -/
theorem setWidth_setWidth_of_lt {x : DWord} (h : x.toNat < 4096) : (x.setWidth 12).setWidth 64 = x := by
  refine BitVec.eq_of_toNat_eq ?_
  rw [BitVec.toNat_setWidth, BitVec.toNat_setWidth, Nat.mod_eq_of_lt h, Nat.mod_eq_of_lt x.isLt]

/-- The numbers of the plain registers. -/
theorem PlainReg.cases {r : BitVec 12} (h : PlainReg r) :
    r = 0x007 ∨ r = 0x008 ∨ r = 0x009 ∨ r = 0x00A ∨ r = 0x00B
      ∨ r = 0x020 ∨ r = 0x021 ∨ r = 0x022 ∨ r = 0x023 ∨ r = 0x024 ∨ r = 0x025 := by
  unfold PlainReg at h
  bv_omega

/-- A plain register reads the legal value it was given. -/
theorem sysRead_storeSys_same {s : State} {r : BitVec 12} {x : DWord} (hr : PlainReg r) (hx : sysLegal r.toNat x = true) :
    sysRead (storeSys r.toNat x s) r = some (storedSys s r x) := by
  have hsrp (i : Nat) (hi : i < 4) : some (s.core.sys.srp.set i x)[i] = some x := congrArg some (Vector.getElem_set_self _)
  rcases hr.cases with rfl | rfl | rfl | rfl | rfl | rfl | rfl | rfl | rfl | rfl | rfl
  · rfl
  · exact hsrp 0 (by decide)
  · exact hsrp 1 (by decide)
  · exact hsrp 2 (by decide)
  · exact hsrp 3 (by decide)
  · rfl
  · rfl
  · have hlt : x.toNat < 3584 := of_decide_eq_true hx
    exact congrArg some (setWidth_setWidth_of_lt (Nat.lt_trans hlt (by decide)))
  · rfl
  · have hlt : (decide (3584 ≤ x.toNat) && decide (x.toNat < 4096)) = true := hx
    exact congrArg some (setWidth_setWidth_of_lt (of_decide_eq_true (Bool.and_eq_true_iff.mp hlt).2))
  · rfl

/-- Only the system registers change. -/
theorem storeSys_frame (n : Nat) (x : DWord) (s : State) : storeSys n x s = { s with core.sys := (storeSys n x s).core.sys } := by
  unfold storeSys
  split <;> rfl

theorem PlainReg.isSome {r : BitVec 12} (h : PlainReg r) (s : State) : (sysRead s r).isNone = false ∧ sysReadOnly r.toNat = false := by
  obtain rfl | rfl | rfl | rfl | rfl | rfl | rfl | rfl | rfl | rfl | rfl := h.cases <;> exact ⟨rfl, rfl⟩

theorem sysRead_eq_none {s : State} {r : BitVec 12} (h : 0x016 < r.toNat) (h' : r.toNat < 0x020 ∨ 0x025 < r.toNat) :
    sysRead s r = none := by
  unfold sysRead
  generalize r.toNat = k at h h'
  split
  case h_30 => rfl
  all_goals omega

/-! ## The common shape of a write -/

section writeSys
variable {w : Word} {a : BitVec 5} {may : State → Bool} {legal : State → DWord → Bool} {effect : DWord → State → Out} {s : State}

/-- What bars the write whatever the value stands before the wait for the source. -/
theorem writeSys_of_not_may (hg : gateOpen anywhere s = true) (hm : may s = false) : writeSys w a may legal effect s = illegal w s := by
  rw [writeSys, gate_of_open hg, hm]
  rfl

/-- A write that may be made, once the source is there. -/
theorem writeSys_of_may (h : mayIssue anywhere ⟨[srcS a], []⟩ s = true) (hm : may s = true) :
    writeSys w a may legal effect s
      = if legal (issued s) (readS s a) then effect (readS s a) (issued s) else illegal w (issued s) := by
  obtain ⟨hg, hu⟩ := mayIssue_iff.mp h
  rw [writeSys, gate_of_open hg, hm, issue_of_free hu]
  rfl

theorem writeSys_of_legal (h : mayIssue anywhere ⟨[srcS a], []⟩ s = true) (hm : may s = true)
    (hl : legal (issued s) (readS s a) = true) : writeSys w a may legal effect s = effect (readS s a) (issued s) := by
  rw [writeSys_of_may h hm, if_pos hl]

theorem writeSys_of_illegal (h : mayIssue anywhere ⟨[srcS a], []⟩ s = true) (hm : may s = true)
    (hl : legal (issued s) (readS s a) = false) : writeSys w a may legal effect s = illegal w (issued s) := by
  rw [writeSys_of_may h hm, hl]
  rfl

end writeSys

/-! ## The checks as numbers -/

theorem onlyBits_eq_true_iff {x m : DWord} : onlyBits x m = true ↔ x &&& ~~~m = 0 := beq_iff_eq

/-- Bits outside a mask are all clear when the mask leaves the value as it is. -/
theorem and_not_eq_zero_iff {w : Nat} {x m : BitVec w} : x &&& ~~~m = 0 ↔ x &&& m = x := by
  constructor
  · intro h
    calc x &&& m = (x &&& m) ||| (x &&& ~~~m) := by rw [h]; exact (BitVec.or_zero).symm
      _ = x := by ext i; simp; cases m[i] <;> simp
  · intro h
    rw [← h, BitVec.and_assoc]
    ext i
    simp

theorem onlyBits_flags_iff {x : DWord} : onlyBits x 0x3F = true ↔ x.toNat < 64 := by
  rw [onlyBits_eq_true_iff, and_not_eq_zero_iff, BitVec.toNat_eq, BitVec.toNat_and]
  have hlow : x.toNat &&& (0x3F : DWord).toNat = x.toNat % 2 ^ 6 := Nat.and_two_pow_sub_one_eq_mod x.toNat 6
  rw [hlow]
  exact Nat.mod_eq_iff_lt (by decide)

theorem fieldN_eq (x : DWord) (lo n : Nat) : fieldN x lo n = x.toNat / 2 ^ lo % 2 ^ n := by
  rw [fieldN, BitVec.toNat_ushiftRight, Nat.shiftRight_eq_div_pow]

theorem fieldN_high_iff {x : DWord} : fieldN x 32 32 = 0 ↔ x.toNat < 2 ^ 32 := by
  have := x.isLt
  rw [fieldN_eq]
  omega

theorem enginesIdle_eq_true_iff {s : State} : enginesIdle s = true ↔ ∀ q : Fin 6, s.core.eng.queues[q].head = s.core.eng.queues[q].tail := by
  simp only [enginesIdle, List.all_eq_true, List.mem_range, queueEmpty, queueOf, beq_iff_eq]
  exact ⟨fun h q => by simpa [vgetD_eq_getElem _ _ q.isLt] using h q q.isLt, fun h q hq => by
    rw [vgetD_eq_getElem _ _ hq]; exact h ⟨q, hq⟩⟩

theorem mode_eq_program_iff {m : Mode} : m = .program ↔ ¬ m = .handler := by
  cases m <;> decide

theorem queueOf_eq_getElem (s : State) (q : Fin 6) : queueOf s q = s.core.eng.queues[q] := vgetD_eq_getElem _ _ q.isLt

/-- The values `FPCTL` accepts (R23). -/
def FpctlLegal (x : DWord) : Prop := x.toNat % 8 ≤ 4 ∧ x.toNat / 2 ^ 8 % 2 ^ 24 = 0

theorem fpctlLegal_iff {x : DWord} : (decide (fieldN x 0 3 ≤ 4) && fieldN x 8 24 == 0) = true ↔ FpctlLegal x := by
  rw [Bool.and_eq_true, decide_eq_true_iff, beq_iff_eq, fieldN_eq, fieldN_eq, FpctlLegal, Nat.pow_zero, Nat.div_one]
  rfl

/-! ## Each write -/

section registers

variable {s : State} {a : BitVec 5} {r : BitVec 12}

section writes
variable (h : mayIssue anywhere ⟨[srcS a], []⟩ s = true)
include h

theorem execMtsFpflag_writes :
    ((readS s a).toNat < 64 → exec (.mtsFpflag a) s = .next (retire { issued s with core.sys.fpflag := (readS s a).setWidth 6 }))
    ∧ (64 ≤ (readS s a).toNat → exec (.mtsFpflag a) s = illegal (wordMtsFpflag a) (issued s)) := by
  rw [exec_mtsFpflag, execMtsFpflag]
  refine ⟨fun hx => writeSys_of_legal h rfl (onlyBits_flags_iff.mpr hx), fun hx => writeSys_of_illegal h rfl ?_⟩
  exact Bool.not_eq_true _ ▸ mt onlyBits_flags_iff.mp (Nat.not_lt_of_ge hx)

theorem execMtsFpctl_writes :
    (FpctlLegal (readS s a) → vectorsOut s = false → exec (.mtsFpctl a) s = .next (retire (writeFpctl (readS s a) (issued s))))
    ∧ (FpctlLegal (readS s a) → vectorsOut s = true → exec (.mtsFpctl a) s = waitOn .external (issued s))
    ∧ (¬ FpctlLegal (readS s a) → exec (.mtsFpctl a) s = illegal (wordMtsFpctl a) (issued s)) := by
  rw [exec_mtsFpctl, execMtsFpctl]
  refine ⟨fun hx hv => ?_, fun hx hv => ?_, fun hx => writeSys_of_illegal h rfl (Bool.not_eq_true _ ▸ mt fpctlLegal_iff.mp hx)⟩
  all_goals rw [writeSys_of_legal h rfl (fpctlLegal_iff.mpr hx)]
  · exact if_neg (Bool.not_eq_true _ ▸ hv)
  · exact if_pos hv

/-- `MTS PARTW` with idle engines. -/
theorem execMtsPartw_writes (hidle : enginesIdle s = true) :
    (partwLegal (readS s a) = true ∧ movesBuffer s (readS s a) = false →
      (partCA (readS s a) = partCA s.core.sys.partw → exec (.mtsPartw a) s = .next (retire (repartition (readS s a) (issued s))))
      ∧ ∀ s', partCA (readS s a) ≠ partCA s.core.sys.partw →
        (l1Flush (issued s) = (s', .done) → exec (.mtsPartw a) s = .next (retire (repartition (readS s a) s')))
        ∧ (l1Flush (issued s) = (s', .held) → exec (.mtsPartw a) s = waitOn .external s'))
    ∧ (¬ (partwLegal (readS s a) = true ∧ movesBuffer s (readS s a) = false) →
      exec (.mtsPartw a) s = illegal (wordMtsPartw a) (issued s)) := by
  have hlegal : (partwLegal (readS s a) && !movesBuffer (issued s) (readS s a)) = true
      ↔ partwLegal (readS s a) = true ∧ movesBuffer s (readS s a) = false := by
    rw [Bool.and_eq_true, Bool.not_eq_true']
    rfl
  rw [exec_mtsPartw, execMtsPartw]
  refine ⟨fun hx => ?_, fun hx => writeSys_of_illegal h hidle (Bool.not_eq_true _ ▸ mt hlegal.mp hx)⟩
  rw [writeSys_of_legal h hidle (hlegal.mpr hx)]
  refine ⟨fun hca => if_pos hca, fun s' hca => ⟨fun hf => ?_, fun hf => ?_⟩⟩
  all_goals
    refine (if_neg hca).trans ?_
    rw [hf]

theorem execMtsLc_writes {lvl : BitVec 2} (hr : r.toNat = 0x012 + lvl.toNat) :
    ((readS s a).toNat < 2 ^ 32 → exec (.mtsLc a r) s = .next (setLoop lvl
      { loopLevel (retire (issued s)) lvl with count := (readS s a).setWidth 32 } (retire (issued s))))
    ∧ (2 ^ 32 ≤ (readS s a).toNat → exec (.mtsLc a r) s = illegal (wordMtsLc a r) (issued s)) := by
  have hlvl : (r - 0x012).setWidth 2 = lvl := by bv_omega
  rw [exec_mtsLc, execMtsLc, hlvl]
  refine ⟨fun hx => ?_, fun hx => writeSys_of_illegal h rfl (beq_eq_false_iff_ne.mpr (mt fieldN_high_iff.mp (Nat.not_lt_of_ge hx)))⟩
  rw [writeSys_of_legal h rfl (beq_iff_eq.mpr (fieldN_high_iff.mpr hx))]
  rfl

theorem execMtsMsdepth_writes (hm : s.core.seq.mode = .handler) :
    ((readS s a).toNat ≤ 16 → exec (.mtsMsdepth a) s = .next (retire { issued s with core.regs.depth := (readS s a).setWidth 5 }))
    ∧ (16 < (readS s a).toNat → exec (.mtsMsdepth a) s = illegal (wordMtsMsdepth a) (issued s)) := by
  have hmay : handlerWrites s = true := beq_iff_eq.mpr hm
  rw [exec_mtsMsdepth, execMtsMsdepth]
  exact ⟨fun hx => writeSys_of_legal h hmay (decide_eq_true hx),
    fun hx => writeSys_of_illegal h hmay (decide_eq_false (Nat.not_le_of_gt hx))⟩

theorem execMtsQht_writes {q : Fin 6} (hr : r.toNat = 0x00C + q.val) (hm : s.core.seq.mode = .handler)
    (hq : s.core.eng.restoring.getLsbD q = true) :
    (readS s a &&& ~~~0x1F1F = 0 → exec (.mtsQht a r) s = .next (retire { issued s with
        core.eng.queues := s.core.eng.queues.set q
          { s.core.eng.queues[q] with head := (readS s a).setWidth 5, tail := (readS s a >>> 8).setWidth 5 } }))
    ∧ (readS s a &&& ~~~0x1F1F ≠ 0 → exec (.mtsQht a r) s = illegal (wordMtsQht a r) (issued s)) := by
  have hnum : r.toNat - 0x00C = q.val := by omega
  have hmay : (handlerWrites s && s.core.eng.restoring.getLsbD q) = true := by rw [handlerWrites, hm, hq]; rfl
  rw [exec_mtsQht, execMtsQht, hnum]
  refine ⟨fun hx => ?_, fun hx => writeSys_of_illegal h hmay (Bool.not_eq_true _ ▸ mt onlyBits_eq_true_iff.mp hx)⟩
  have hset (c : CmdQueue) : s.core.eng.queues.setIfInBounds q c = s.core.eng.queues.set q c := by
    ext k hk
    simp only [Vector.getElem_setIfInBounds, Vector.getElem_set]
  have hhead : field (readS s a) 0 5 = (readS s a).setWidth 5 := by ext i; simp [field]
  have htail : field (readS s a) 8 5 = (readS s a >>> 8).setWidth 5 := by ext i; simp [field]
  rw [writeSys_of_legal h hmay (onlyBits_eq_true_iff.mpr hx), hhead, htail, setQueue, queueOf_eq_getElem, issued_eng, hset]

theorem execMts_writes (hr : PlainReg r) (hm : s.core.seq.mode = .handler) :
    (sysLegal r.toNat (readS s a) = true →
      exec (.mts a r) s = .next (retire (storeSys r.toNat (readS s a) (issued s))))
    ∧ (sysLegal r.toNat (readS s a) = false → exec (.mts a r) s = illegal (wordMts a r) (issued s)) := by
  have hmay : handlerWrites s = true := beq_iff_eq.mpr hm
  have hreach : (isTrapReg r && s.core.seq.mode == .program) = false := by rw [hm]; exact Bool.and_false _
  rw [exec_mts, execMts, gate_of_open (mayIssue_iff.mp h).1, (hr.isSome s).1, (hr.isSome s).2, hreach]
  simp only [Bool.or_self, Bool.false_eq_true, if_false]
  exact ⟨fun hx => writeSys_of_legal h hmay hx, fun hx => writeSys_of_illegal h hmay hx⟩

end writes

/-- A plain register in program mode: the privilege trap for a trap register, else illegal. -/
theorem execMts_program (hg : gateOpen anywhere s = true) (hr : PlainReg r) (hm : s.core.seq.mode = .program) :
    exec (.mts a r) s = if isTrapReg r then privilege (wordMts a r) s else illegal (wordMts a r) s := by
  have hmay : handlerWrites s = false := by rw [handlerWrites, hm]; rfl
  rw [exec_mts, execMts, gate_of_open hg, (hr.isSome s).1, (hr.isSome s).2, hm, writeSys_of_not_may hg hmay]
  cases isTrapReg r <;> rfl

/-- A register that `MTS` never writes, or a number that is not in the table. -/
theorem execMts_refused (hg : gateOpen anywhere s = true) (hr : ((sysRead s r).isNone || sysReadOnly r.toNat) = true) :
    exec (.mts a r) s = illegal (wordMts a r) s := by
  rw [exec_mts, execMts, gate_of_open hg]
  exact if_pos hr

/-- `QHT` of a queue that is not stopped for a restore, or in program mode. -/
theorem execMtsQht_refused {q : Fin 6} (hg : gateOpen anywhere s = true) (hr : r.toNat = 0x00C + q.val)
    (h : s.core.seq.mode = .program ∨ s.core.eng.restoring.getLsbD q = false) :
    exec (.mtsQht a r) s = illegal (wordMtsQht a r) s := by
  have hnum : r.toNat - 0x00C = q.val := by omega
  have hmay : (handlerWrites s && s.core.eng.restoring.getLsbD q) = false := by
    rcases h with h | h
    · rw [handlerWrites, h]; rfl
    · rw [h, Bool.and_false]
  rw [exec_mtsQht, execMtsQht, hnum, writeSys_of_not_may hg hmay]

end registers

/-- Settles O29, by the common shape `writeSys` of the writes and `sysRead_storeSys_same`. -/
theorem systemRegisterWrites : Obligations.SystemRegisterWrites := by
  unfold Obligations.SystemRegisterWrites
  refine ⟨fun s a r hg => ⟨fun ⟨q, hq⟩ => ?_, fun q hr hq => execMtsQht_refused hg hr hq⟩, ?_⟩
  · have hbusy : enginesIdle s = false := Bool.not_eq_true _ ▸ fun hi => hq (enginesIdle_eq_true_iff.mp hi q)
    rw [exec_mtsPartw, execMtsPartw, writeSys_of_not_may hg hbusy]
  · intro s a r h x handler fpctl idle partw plain
    have hg := (mayIssue_iff.mp h).1
    obtain ⟨hflag, hflag'⟩ := execMtsFpflag_writes h
    obtain ⟨hfp, hfpWait, hfp'⟩ := execMtsFpctl_writes h
    refine ⟨hflag, hflag', fun hx hv => ⟨_, hfp hx hv, rfl, fun i => ?_, fun i => ?_⟩, hfpWait, hfp',
      fun hx hca => ?_, fun s' hx hca => ?_,
      fun hi hx => ?_, fun lvl hr => execMtsLc_writes h hr, fun hm => (execMtsMsdepth_writes h hm).1,
      fun hm => (execMtsMsdepth_writes h hm).2, fun hm => ?_, fun q hr => ?_, fun hm hr hx => ?_, fun hm hr hx => ?_, fun hm hr => ?_,
      fun hlo hhi => ?_, fun hlo hhi => ?_⟩
    · exact Vector.getElem_ofFn ..
    · exact Vector.getElem_ofFn ..
    · exact ((execMtsPartw_writes h (enginesIdle_eq_true_iff.mpr hx.1)).1 hx.2).1 hca
    · exact ((execMtsPartw_writes h (enginesIdle_eq_true_iff.mpr hx.1)).1 hx.2).2 s' hca
    · exact (execMtsPartw_writes h (enginesIdle_eq_true_iff.mpr hi)).2 fun hp => hx ⟨hi, hp⟩
    · have hmay : handlerWrites s = false := by rw [handlerWrites, mode_eq_program_iff.mpr hm]; rfl
      rw [exec_mtsMsdepth, execMtsMsdepth, writeSys_of_not_may hg hmay]
    · refine ⟨fun hm hx => (execMtsQht_writes h hr hm hx.1).1 hx.2,
        fun hm hq hx => (execMtsQht_writes h hr hm hq).2 fun hb => hx ⟨hq, hb⟩,
        fun hno => execMtsQht_refused hg hr (hno.imp mode_eq_program_iff.mpr (Bool.not_eq_true _).mp)⟩
    · refine ⟨_, (execMts_writes h hr hm).1 hx, storeSys_frame _ _ _, sysRead_storeSys_same hr hx,
        fun r' hne => sysRead_storeSys_of_ne fun e => hne (BitVec.eq_of_toNat_eq e)⟩
    · exact (execMts_writes h hr hm).2 hx
    · exact execMts_program hg hr (mode_eq_program_iff.mpr hm)
    · exact execMts_refused hg (by simp [sysReadOnly, hlo, hhi])
    · exact execMts_refused hg (by rw [sysRead_eq_none hlo hhi]; rfl)

end Sys2Proof.Machine
end

section
/-! SUPPORT. Vector instructions that round (R89-R93, R96, R98): lanes, flags and rounding states. -/

namespace Sys2Proof.Machine

theorem lane_eq_getElem (v : VReg) (i : Fin 16) : lane v i = v[i] := vgetD_eq_getElem v 0 i.isLt

theorem laneState_eq_getElem (s : State) (i : Fin 16) : laneState s i = s.core.sys.laneRsr[i] := vgetD_eq_getElem _ 0 i.isLt

theorem getElem_laneMerge (mask : BitVec 16) (old new : VReg) (i : Fin 16) :
    (laneMerge mask old new)[i] = if mask.getLsbD i then new[i] else old[i] := Vector.getElem_ofFn ..

/-- ORing the flags of the entries a test admits, one by one. -/
theorem getLsbD_foldl_or (p : Nat → Bool) (g : Nat → Flags) (l : List Nat) (start : Flags) (k : Nat) :
    (l.foldl (fun fl i => if p i then fl ||| g i else fl) start).getLsbD k
      = (start.getLsbD k || l.any fun i => p i && (g i).getLsbD k) := by
  induction l generalizing start with
  | nil => simp
  | cons i l ih =>
    rw [List.foldl_cons, ih, List.any_cons]
    cases p i <;> simp [Bool.or_assoc]

/-- A bit of the flags of the lanes of a mask. -/
theorem getLsbD_laneFlags (mask : BitVec 16) (r : Vector (Word × Flags) 16) (k : Nat) :
    (laneFlags mask r).getLsbD k = (List.finRange 16).any fun i => mask.getLsbD i && r[i].2.getLsbD k := by
  have hlane (i : Fin 16) : vgetD r i (0, 0) = r[i] := vgetD_eq_getElem r _ i.isLt
  have hzero : BitVec.getLsbD (0 : Flags) k = false := BitVec.getLsbD_zero
  rw [laneFlags, getLsbD_foldl_or, hzero, Bool.false_or, ← List.map_coe_finRange_eq_range, List.any_map]
  simp only [Function.comp_def, hlane]

/-- The rounding state of each lane after an instruction that rounds n elements per lane. -/
theorem getElem_laneRsr_advanceRsr (mask : BitVec 16) (mode : BitVec 3) (n : Nat) (s : State) (i : Fin 16) :
    (advanceRsr mask mode n s).core.sys.laneRsr[i] = if mode = 4 ∧ mask.getLsbD i then
      (if n = 1 then rsrNext s.core.sys.laneRsr[i] else rsrNext (rsrNext s.core.sys.laneRsr[i])) else s.core.sys.laneRsr[i] := by
  unfold advanceRsr
  by_cases hm : mode = 4
  · rw [if_pos hm]
    refine (Vector.getElem_ofFn ..).trans ?_
    simp only [hm, true_and]
    rw [← laneState_eq_getElem]
  · rw [if_neg hm, if_neg fun h => hm h.1]

/-- Only the rounding states change. -/
theorem advanceRsr_frame (mask : BitVec 16) (mode : BitVec 3) (n : Nat) (s : State) :
    advanceRsr mask mode n s = { s with core.sys.laneRsr := (advanceRsr mask mode n s).core.sys.laneRsr } := by
  unfold advanceRsr
  by_cases hm : mode = 4
  · rw [if_pos hm]
  · rw [if_neg hm]

/-- The rounding mode an instruction names (R35). -/
theorem modeOf_eq (s : State) (rm : BitVec 3) : modeOf s rm = if rm = 0 then s.core.sys.fpctl.setWidth 3 else rm - 1 := by
  have : field s.core.sys.fpctl 0 3 = s.core.sys.fpctl.setWidth 3 := by ext i; simp [field]
  rw [modeOf, this]

/-- A vector instruction that rounds, with nothing in the way. -/
theorem vecRound_arrives {w : Word} {d : BitVec 5} {srcs : List Src} {rm : BitVec 3} {n : Nat} {f : State → LaneFn} {s : State}
    (h : mayIssue anywhere ⟨srcs, [.v d]⟩ s = true) :
    roundedLanesArrive (vecRound w d srcs rm n f s) s d (modeOf s rm) n (fun i => f (issued s) i) := by
  obtain ⟨hg, hu⟩ := mayIssue_iff.mp h
  have hresult (i : Fin 16) : (laneResults (issued s) (modeOf s rm) (f (issued s)))[i]
      = f (issued s) i (Rnd.ofBits (modeOf s rm) (rsrNext s.core.sys.laneRsr[i]))
          (Rnd.ofBits (modeOf s rm) (rsrNext (rsrNext s.core.sys.laneRsr[i]))) := by
    rw [← laneState_eq_getElem]
    exact Vector.getElem_ofFn ..
  refine ⟨(roundLanes (topMask s) (modeOf s rm) n (readV s d) (f (issued s)) (issued s)).2,
    (roundLanes (topMask s) (modeOf s rm) n (readV s d) (f (issued s)) (issued s)).1, ?_, ?_, fun i => ?_, fun k => ?_, fun i => ?_⟩
  · rw [vecRound, gate_of_open hg, issue_of_free hu]
    rfl
  · rw [roundLanes, advanceRsr_frame]
    rfl
  · dsimp only
    rw [← hresult]
    refine (getElem_laneMerge ..).trans ?_
    rw [Fin.getElem_fin, Vector.getElem_map]
    rfl
  · simp only [← hresult]
    refine (BitVec.getLsbD_or ..).trans ?_
    rw [getLsbD_laneFlags, advanceRsr_frame]
    rfl
  · exact getElem_laneRsr_advanceRsr ..

/-- Element 0 or 1 of a lane, as the bits that hold it. -/
theorem half_eq (x : Word) (k : Nat) : half x k = (x.extractLsb' (16 * k) 16).toNat := by
  rw [half, BitVec.extractLsb'_toNat, BitVec.toNat_ushiftRight]

section arithmetic
variable {s : State} {d a b : BitVec 5} {rm : BitVec 3} {w : Word} (f : Rnd → FVal → FVal → FVal → FVal × Flags)
  (h : mayIssue anywhere ⟨[srcV a, srcV b], [.v d]⟩ s = true)
include h

theorem vecF32_arrives : roundedLanesArrive (vecF32 w d a b rm f s) s d (modeOf s rm) 1 (fun i r _ =>
    f32Result r (f r (valF32 (readV s a)[i]) (valF32 (readV s b)[i]) (valF32 (readV s d)[i]))) := by
  simp only [← lane_eq_getElem]
  exact vecRound_arrives h

theorem vecBf16_arrives : roundedLanesArrive (vecBf16 w d a b rm f s) s d (modeOf s rm) 2 (fun i r1 r2 =>
    bf16Lane f r1 r2 (readV s a)[i] (readV s b)[i] (readV s d)[i]) := by
  simp only [← lane_eq_getElem]
  exact vecRound_arrives h

end arithmetic

/-- Settles O38: all twelve instructions are `vecF32` or `vecBf16` of one exact operation. -/
theorem vectorFloatArithmetic : Obligations.VectorFloatArithmetic := by
  unfold Obligations.VectorFloatArithmetic
  intro s d a b rm h
  rw [← modeOf_eq]
  intro mode x y z single double
  have single_of (ins : Instr) (w : Word) (f : Rnd → FVal → FVal → FVal → FVal × Flags)
      (he : exec ins s = vecF32 w d a b rm f s) : single ins f := by
    have := vecF32_arrives (w := w) (rm := rm) f h
    rwa [← he] at this
  have double_of (ins : Instr) (w : Word) (f : Rnd → FVal → FVal → FVal → FVal × Flags)
      (he : exec ins s = vecBf16 w d a b rm f s) : double ins f := by
    have := vecBf16_arrives (w := w) (rm := rm) f h
    simp only [bf16Lane, half_eq, ← he] at this
    exact this
  exact ⟨single_of _ _ fAdd (exec_vaddF32 ..), double_of _ _ fAdd (exec_vaddBf16 ..),
    single_of _ _ fSub (exec_vsubF32 ..), double_of _ _ fSub (exec_vsubBf16 ..),
    single_of _ _ fMul (exec_vmulF32 ..), double_of _ _ fMul (exec_vmulBf16 ..),
    single_of _ _ fFma (exec_vfmaF32 ..), double_of _ _ fFma (exec_vfmaBf16 ..),
    single_of _ _ fFms (exec_vfmsF32 ..), double_of _ _ fFms (exec_vfmsBf16 ..),
    single_of _ _ fFnma (exec_vfnmaF32 ..), double_of _ _ fFnma (exec_vfnmaBf16 ..)⟩

end Sys2Proof.Machine
end

section
/-! SUPPORT. Results that reach their registers (R16, R49, R84, R110, R123, R199), and little-endian loads (R78). -/

namespace Sys2Proof.Machine

/-! ## The value of a load -/

theorem leNat_lt (bs : List Byte) : leNat bs < 256 ^ bs.length := by
  induction bs with
  | nil => decide
  | cons b r ih =>
    have := b.isLt
    rw [leNat, List.length_cons, Nat.pow_succ]
    omega

/-- A little-endian number: its first byte stands lowest. -/
theorem ofNat_leNat (n : Nat) (bs : List Byte) :
    BitVec.ofNat (n + 8) (leNat bs) = BitVec.ofNat n (leNat bs.tail) ++ bs.getD 0 0 := by
  have hcons : leNat bs = (bs.getD 0 0).toNat + 256 * leNat bs.tail := by cases bs <;> rfl
  have hb := (bs.getD 0 0).isLt
  refine BitVec.eq_of_toNat_eq ?_
  rw [BitVec.toNat_append, ← Nat.shiftLeft_add_eq_or_of_lt hb, Nat.shiftLeft_eq, BitVec.toNat_ofNat, BitVec.toNat_ofNat, hcons,
    Nat.pow_add, Nat.mul_comm (2 ^ n), Nat.mod_mul]
  have hlow : ((bs.getD 0 0).toNat + 256 * leNat bs.tail) % 2 ^ 8 = (bs.getD 0 0).toNat := by omega
  have hhigh : ((bs.getD 0 0).toNat + 256 * leNat bs.tail) / 2 ^ 8 = leNat bs.tail := by omega
  rw [hlow, hhigh, Nat.add_comm, Nat.mul_comm]

theorem ofNat8_leNat (bs : List Byte) : BitVec.ofNat 8 (leNat bs) = bs.getD 0 0 := by
  refine (ofNat_leNat 0 bs).trans ?_
  rw [BitVec.eq_nil (BitVec.ofNat 0 _), BitVec.zero_width_append]
  rfl

theorem ofNat16_leNat (bs : List Byte) : BitVec.ofNat 16 (leNat bs) = bs.getD 1 0 ++ bs.getD 0 0 := by
  refine (ofNat_leNat 8 bs).trans ?_
  rw [ofNat8_leNat]
  simp

theorem ofNat32_leNat (bs : List Byte) :
    BitVec.ofNat 32 (leNat bs) = bs.getD 3 0 ++ bs.getD 2 0 ++ bs.getD 1 0 ++ bs.getD 0 0 := by
  rw [ofNat_leNat 24, ofNat_leNat 16, ofNat16_leNat]
  simp

theorem ofNat64_leNat (bs : List Byte) :
    BitVec.ofNat 64 (leNat bs) = bs.getD 7 0 ++ bs.getD 6 0 ++ bs.getD 5 0 ++ bs.getD 4 0
      ++ bs.getD 3 0 ++ bs.getD 2 0 ++ bs.getD 1 0 ++ bs.getD 0 0 := by
  rw [ofNat_leNat 56, ofNat_leNat 48, ofNat_leNat 40, ofNat_leNat 32, ofNat32_leNat]
  simp

/-- A number of `k` bytes, zero-extended. -/
theorem ofNat64_leNat_of_length {bs : List Byte} {k : Nat} (h : bs.length = k) :
    BitVec.ofNat 64 (leNat bs) = (BitVec.ofNat (8 * k) (leNat bs)).setWidth 64 := by
  have hlt : leNat bs < 2 ^ (8 * k) := by
    rw [Nat.pow_mul, ← h]
    exact leNat_lt bs
  refine BitVec.eq_of_toNat_eq ?_
  rw [BitVec.toNat_setWidth, BitVec.toNat_ofNat, BitVec.toNat_ofNat, Nat.mod_eq_of_lt hlt]

/-- The value of a load by its kind, byte by byte (R78). -/
def valueByKind (kind : BitVec 3) (x : Nat → Byte) : DWord :=
  if kind = 0 then (x 0).signExtend 64
  else if kind = 1 then (x 1 ++ x 0).signExtend 64
  else if kind = 2 then (x 3 ++ x 2 ++ x 1 ++ x 0).signExtend 64
  else if kind = 3 then x 7 ++ x 6 ++ x 5 ++ x 4 ++ x 3 ++ x 2 ++ x 1 ++ x 0
  else if kind = 4 then (x 0).setWidth 64
  else if kind = 5 then (x 1 ++ x 0).setWidth 64
  else (x 3 ++ x 2 ++ x 1 ++ x 0).setWidth 64

theorem loadValue_eq_valueByKind {kind : BitVec 3} {bs : List Byte} (h7 : kind ≠ 7) (hlen : bs.length = 2 ^ (kind.toNat % 4)) :
    loadValue kind bs = valueByKind kind (fun k => bs.getD k 0) := by
  have hkind : kind = 0 ∨ kind = 1 ∨ kind = 2 ∨ kind = 3 ∨ kind = 4 ∨ kind = 5 ∨ kind = 6 := by
    revert h7
    clear hlen
    revert kind
    decide
  rcases hkind with rfl | rfl | rfl | rfl | rfl | rfl | rfl
  · exact congrArg (BitVec.signExtend 64) (ofNat8_leNat bs)
  · exact congrArg (BitVec.signExtend 64) (ofNat16_leNat bs)
  · exact congrArg (BitVec.signExtend 64) (ofNat32_leNat bs)
  · exact ofNat64_leNat bs
  · exact (ofNat64_leNat_of_length hlen).trans (congrArg (BitVec.setWidth 64) (ofNat8_leNat bs))
  · exact (ofNat64_leNat_of_length hlen).trans (congrArg (BitVec.setWidth 64) (ofNat16_leNat bs))
  · exact (ofNat64_leNat_of_length hlen).trans (congrArg (BitVec.setWidth 64) (ofNat32_leNat bs))

/-! ## What arrives, and its frame -/

/-- A value has come to `s[d]` of a state: nothing else but, where the instruction set it, the empty bit has changed. -/
def ScalarComes (s u t : State) (d : BitVec 5) (x : DWord) (clear : Bool) : Prop :=
  t = { u with core.regs.s := t.core.regs.s, core.regs.sEmpty := t.core.regs.sEmpty }
    ∧ (∀ r, readS t r = if r = d ∧ d ≠ 0 then x else readS s r)
    ∧ ∀ r, sIsEmpty t r = (!(clear && r == d) && sIsEmpty s r)

/-- The same for a vector register. -/
def VectorComes (s u t : State) (d : BitVec 5) (x : VReg) (clear : Bool) : Prop :=
  t = { u with core.regs.v := t.core.regs.v, core.regs.vEmpty := t.core.regs.vEmpty }
    ∧ (∀ r, readV t r = if r = d then x else readV s r)
    ∧ ∀ r, vIsEmpty t r = (!(clear && r == d) && vIsEmpty s r)

theorem sIsEmpty_congr {s u : State} (h : u.core.regs.sEmpty = s.core.regs.sEmpty) (r : BitVec 5) : sIsEmpty u r = sIsEmpty s r := by
  rw [sIsEmpty, h, sIsEmpty]

theorem vIsEmpty_congr {s u : State} (h : u.core.regs.vEmpty = s.core.regs.vEmpty) (r : BitVec 5) : vIsEmpty u r = vIsEmpty s r := by
  rw [vIsEmpty, h, vIsEmpty]

theorem writeS_frame (d : BitVec 5) (x : DWord) (u : State) :
    writeS d x u = { u with core.regs.s := (writeS d x u).core.regs.s } := by
  unfold writeS
  split <;> rfl

theorem setSEmpty_frame (d : BitVec 5) (b : Bool) (u : State) :
    setSEmpty d b u = { u with core.regs.sEmpty := (setSEmpty d b u).core.regs.sEmpty } := by
  unfold setSEmpty
  split <;> rfl

section comes
variable {s u : State}

theorem writeS_comes (hs : u.core.regs.s = s.core.regs.s) (hse : u.core.regs.sEmpty = s.core.regs.sEmpty) (d : BitVec 5) (x : DWord) :
    ScalarComes s u (writeS d x u) d x false := by
  refine ⟨?_, fun r => ?_, fun r => ?_⟩
  · rw [writeS_frame]
  · rw [readS_writeS, readS_congr hs]
  · rw [sIsEmpty_writeS, sIsEmpty_congr hse, Bool.false_and, Bool.not_false, Bool.true_and]

theorem fillS_comes (hs : u.core.regs.s = s.core.regs.s) (hse : u.core.regs.sEmpty = s.core.regs.sEmpty) (d : BitVec 5) (x : DWord) :
    ScalarComes s u (setSEmpty d false (writeS d x u)) d x true := by
  refine ⟨?_, fun r => ?_, fun r => ?_⟩
  · rw [setSEmpty_frame, writeS_frame]
  · rw [readS_setSEmpty, readS_writeS, readS_congr hs]
  · rw [sIsEmpty_setSEmpty, sIsEmpty_writeS, sIsEmpty_congr hse]
    by_cases h : r = d <;> simp [h]

theorem writeV_comes (hv : u.core.regs.v = s.core.regs.v) (hve : u.core.regs.vEmpty = s.core.regs.vEmpty) (d : BitVec 5) (x : VReg) :
    VectorComes s u (writeV d x u) d x false := by
  refine ⟨rfl, fun r => ?_, fun r => ?_⟩
  · rw [readV_writeV, readV_congr hv]
  · rw [vIsEmpty_writeV, vIsEmpty_congr hve, Bool.false_and, Bool.not_false, Bool.true_and]

theorem fillV_comes (hv : u.core.regs.v = s.core.regs.v) (hve : u.core.regs.vEmpty = s.core.regs.vEmpty) (d : BitVec 5) (x : VReg) :
    VectorComes s u (setVEmpty d false (writeV d x u)) d x true := by
  refine ⟨rfl, fun r => ?_, fun r => ?_⟩
  · rw [readV_setVEmpty, readV_writeV, readV_congr hv]
  · rw [vIsEmpty_setVEmpty, vIsEmpty_writeV, vIsEmpty_congr hve]
    by_cases h : r = d <;> simp [h]

end comes

theorem writeQ_frame (d : BitVec 3) (x : BitVec 16) (u : State) :
    writeQ d x u = { u with core.regs.q := (writeQ d x u).core.regs.q } := by
  unfold writeQ
  split <;> rfl

/-- An error of a load dooms the launch while it may still be aborted; only launches and hallmarks change. -/
theorem execGldDataReturn_error {s : State} {i : Nat} {l : LoadEntry} (h : s.core.mq.loads[i]? = some l) :
    exec (.gldDataReturn i true) s = .next (doom s.core.launch { AbortInfo.of 6 with addr := dw l.va } s) := by
  rw [exec_gldDataReturn, execGldDataReturn, h]
  rfl

/-- A load that has performed returns its data. -/
theorem execGldDataReturn_data {s : State} {i : Nat} {l : LoadEntry} {bs : List Byte} (h : s.core.mq.loads[i]? = some l)
    (hd : l.data = some bs) :
    exec (.gldDataReturn i false) s = .next (returnLoad l.dest bs { s with core.mq.loads := s.core.mq.loads.eraseIdx i }) := by
  rw [exec_gldDataReturn, execGldDataReturn, h]
  simp only [Bool.false_eq_true, if_false, hd]

/-- What a latency result writes. -/
def writeLatent (l : Latent) (s : State) : State :=
  match l with
  | .scalar r x => writeS r x s
  | .vector r x => writeV r x s
  | .mask r x => writeQ r x s

theorem execLatencyResultDelivery_some {s : State} {i : Nat} {l : Latent} (h : s.core.regs.latent[i]? = some l) :
    exec (.latencyResultDelivery i) s
      = .next (writeLatent l { s with core.regs.latent := s.core.regs.latent.eraseIdx i }) := by
  rw [exec_latencyResultDelivery, execLatencyResultDelivery, h]
  cases l <;> rfl

theorem execEngineStatusFill_status {s : State} {i : Nat} {r : StatusReq} (h : s.core.mq.status[i]? = some r) :
    exec (.engineStatusFill i) s = .next (setSEmpty (statusValue s r).1 false (writeS (statusValue s r).1 (statusValue s r).2
      { s with core.mq.status := s.core.mq.status.eraseIdx i })) := by
  rw [exec_engineStatusFill, execEngineStatusFill, h]

/-- The oldest waiting `GPOP` takes the next entry; settling the queues reads nothing that the write changes. -/
theorem execEngineStatusFill_gpop {s : State} {i : Nat} {d : BitVec 5} {ds : List (BitVec 5)} {k : TokenData} {ks : List TokenData}
    (h : s.core.mq.status[i]? = none) (hd : s.core.mq.gpops = d :: ds) (hk : s.core.grid.outq = k :: ks) :
    exec (.engineStatusFill i) s = .next (setVEmpty d false (writeV d (tokenVec k)
      (settleQueues { s with core.mq.gpops := ds, core.grid.outq := ks }))) := by
  rw [exec_engineStatusFill, execEngineStatusFill, h]
  simp only [hd, hk]
  rfl

theorem execAtomicResultReturn_some {s : State} {i : Nat} {r : ResultPend} {x : DWord} (h : s.core.mq.results[i]? = some r)
    (hx : r.result = some x) :
    exec (.atomicResultReturn i) s = .next (writeS r.d x { s with core.mq.results := s.core.mq.results.eraseIdx i }) := by
  rw [exec_atomicResultReturn, execAtomicResultReturn, h]
  simp only [hx]

/-- Settles O50, event by event. -/
theorem resultsArrive : Obligations.ResultsArrive := by
  unfold Obligations.ResultsArrive
  intro s i scalar vector byKind late
  refine ⟨?_, ?_, ?_, ?_, ?_, ?_, ?_, ?_, ?_⟩
  · exact fun kind bs h7 hlen => loadValue_eq_valueByKind h7 hlen
  · exact fun d x hl => ⟨_, execLatencyResultDelivery_some hl, writeS_comes rfl rfl d x⟩
  · exact fun d x hl => ⟨_, execLatencyResultDelivery_some hl, writeV_comes rfl rfl d x⟩
  · exact fun d x hl => ⟨_, execLatencyResultDelivery_some hl, writeQ_frame .., fun r => readQ_writeQ ..⟩
  · intro l bs hl hd gone
    have hret := execGldDataReturn_data hl hd
    refine ⟨fun d kind hdest => ?_, fun d m hdest => ?_, fun hdest => ?_⟩
    all_goals rw [hdest] at hret
    · exact ⟨_, hret, fillS_comes rfl rfl d _⟩
    · exact ⟨_, hret, fillV_comes rfl rfl d _⟩
    · exact hret
  · intro l hl
    refine ⟨_, execGldDataReturn_error hl, ?_, ?_⟩
    · unfold doom
      dsimp only
      split <;> rfl
    · intro y hy hid hrec hab
      have hthere : (s.sched.launches.any fun l => l.id == s.core.launch) = true :=
        List.any_eq_true.mpr ⟨y, hy, beq_iff_eq.mpr hid⟩
      rw [doom_launchOf _ hthere (hrec ▸ hab)]
      exact ⟨rfl, _, rfl, rfl, rfl⟩
  · exact fun r x hr hx => ⟨_, execAtomicResultReturn_some hr hx, writeS_comes rfl rfl _ _⟩
  · exact fun r hr => ⟨_, execEngineStatusFill_status hr, fillS_comes rfl rfl _ _⟩
  · exact fun d ds k ks h hd hk => ⟨_, execEngineStatusFill_gpop h hd hk, fillV_comes rfl rfl d _⟩

end Sys2Proof.Machine
end

section
/-! SUPPORT. What the removal of a circuit leaves alone (R277, R345, R351). -/

namespace Sys2Proof.Machine

/-- What the loss of a circuit or of its windows keeps: identity, registers, sequencer, the bytes of the pool, homes and scheduling. -/
structure KeptAtCut (s t : State) : Prop where
  id : t.core.id = s.core.id
  launch : t.core.launch = s.core.launch
  ord : t.core.ord = s.core.ord
  sec : t.core.sec = s.core.sec
  regs : t.core.regs = s.core.regs
  seq : t.core.seq = s.core.seq
  cells : t.core.pool.cells = s.core.pool.cells
  bankGen : t.core.pool.bankGen = s.core.pool.bankGen
  homes : t.homes = s.homes
  sched : t.sched = s.sched

/-- What the loss of windows keeps: the circuits too. -/
structure KeptByWindows (s t : State) : Prop extends KeptAtCut s t where
  circuits : t.net.circuits = s.net.circuits

theorem KeptAtCut.trans {s t u : State} (h : KeptAtCut s t) (h' : KeptAtCut t u) : KeptAtCut s u :=
  ⟨h'.id.trans h.id, h'.launch.trans h.launch, h'.ord.trans h.ord, h'.sec.trans h.sec, h'.regs.trans h.regs, h'.seq.trans h.seq,
    h'.cells.trans h.cells, h'.bankGen.trans h.bankGen, h'.homes.trans h.homes, h'.sched.trans h.sched⟩

theorem KeptAtCut.refl (s : State) : KeptAtCut s s := ⟨rfl, rfl, rfl, rfl, rfl, rfl, rfl, rfl, rfl, rfl⟩

theorem KeptByWindows.trans {s t u : State} (h : KeptByWindows s t) (h' : KeptByWindows t u) : KeptByWindows s u :=
  ⟨h.toKeptAtCut.trans h'.toKeptAtCut, h'.circuits.trans h.circuits⟩

theorem KeptByWindows.refl (s : State) : KeptByWindows s s := ⟨.refl s, rfl⟩

theorem KeptByWindows.foldl {α : Type} {f : State → α → State} (h : ∀ s x, KeptByWindows s (f s x)) (l : List α) (s : State) :
    KeptByWindows s (l.foldl f s) := by
  induction l generalizing s with
  | nil => exact .refl s
  | cons x l ih => exact (h s x).trans (ih _)

theorem KeptAtCut.foldl {α : Type} {f : State → α → State} (h : ∀ s x, KeptAtCut s (f s x)) (l : List α) (s : State) :
    KeptAtCut s (l.foldl f s) := by
  induction l generalizing s with
  | nil => exact .refl s
  | cons x l ih => exact (h s x).trans (ih _)

/-- The bytes of the pool depend on its cells and the generations of its banks. -/
theorem KeptAtCut.poolByte {s t : State} (h : KeptAtCut s t) (a : Nat) : poolByte t a = poolByte s a := by
  unfold Machine.poolByte poolDefault
  rw [h.cells, h.bankGen]

/-! ## Windows -/

theorem keptByWindows_updExec (q : Nat) (f : Running → Running) (s : State) : KeptByWindows s (updExec q f s) := by
  unfold updExec
  split
  · exact ⟨⟨rfl, rfl, rfl, rfl, rfl, rfl, rfl, rfl, rfl, rfl⟩, rfl⟩
  · exact .refl s

theorem keptByWindows_rewindWindow (w : Nat × Nat) (i : Nat) (s : State) : KeptByWindows s (rewindWindow w i s) := by
  unfold rewindWindow
  split
  · exact ⟨⟨rfl, rfl, rfl, rfl, rfl, rfl, rfl, rfl, rfl, rfl⟩, rfl⟩
  · exact .refl s

theorem keptByWindows_rewindTo (i n : Nat) (taken : List Token) (s : State) : KeptByWindows s (rewindTo i n taken s) := by
  unfold rewindTo
  split
  · refine .trans ?_ (keptByWindows_updExec ..)
    split <;> split <;> exact ⟨⟨rfl, rfl, rfl, rfl, rfl, rfl, rfl, rfl, rfl, rfl⟩, rfl⟩
  · exact .refl s

theorem keptByWindows_windowFailed (w : Nat × Nat) (s : State) : KeptByWindows s (windowFailed w s) := by
  unfold windowFailed
  extract_lets s1 s2
  have h1 : KeptByWindows s s1 := .foldl (fun s i => by
    split
    · split
      · exact keptByWindows_rewindWindow ..
      · exact .refl s
    · exact .refl s) _ s
  clear_value s1
  have h2 : KeptByWindows s1 s2 := by
    unfold s2
    split
    · split
      · exact ⟨⟨rfl, rfl, rfl, rfl, rfl, rfl, rfl, rfl, rfl, rfl⟩, rfl⟩
      · exact .refl s1
    · exact .refl s1
  clear_value s2
  refine h1.trans (h2.trans ?_)
  split
  · split
    · split
      · extract_lets back s3
        have hback (column : Bool) (t : State) : KeptByWindows t (back column t) := by
          unfold back
          split
          · exact keptByWindows_rewindTo ..
          · exact .refl t
        have h3 : KeptByWindows s2 s3 := (hback false s2).trans (hback true _)
        clear_value s3
        refine h3.trans (.trans ?_ (keptByWindows_updExec ..))
        exact ⟨⟨rfl, rfl, rfl, rfl, rfl, rfl, rfl, rfl, rfl, rfl⟩, rfl⟩
      · exact .refl s2
    · exact .refl s2
  · exact .refl s2

theorem keptByWindows_failWindow (w : RxWindow) (s : State) : KeptByWindows s (failWindow w s) := by
  unfold failWindow
  refine .trans ?_ (keptByWindows_windowFailed ..)
  exact ⟨⟨rfl, rfl, rfl, rfl, rfl, rfl, rfl, rfl, rfl, rfl⟩, rfl⟩

theorem keptByWindows_changeChk (label : BitVec 16) (f : Nat → Nat) (s : State) : KeptByWindows s (changeChk label f s) := by
  unfold changeChk
  split
  · exact ⟨⟨rfl, rfl, rfl, rfl, rfl, rfl, rfl, rfl, rfl, rfl⟩, rfl⟩
  · exact .refl s

theorem keptByWindows_dropWindow (w : RxWindow) (s : State) : KeptByWindows s (dropWindow w s) := by
  unfold dropWindow
  extract_lets +onlyGivenNames s1
  have h1 : KeptByWindows s s1 := keptByWindows_failWindow w s
  clear_value s1
  refine h1.trans ?_
  split
  · refine .trans ?_ (keptByWindows_changeChk ..)
    exact ⟨⟨rfl, rfl, rfl, rfl, rfl, rfl, rfl, rfl, rfl, rfl⟩, rfl⟩
  · exact ⟨⟨rfl, rfl, rfl, rfl, rfl, rfl, rfl, rfl, rfl, rfl⟩, rfl⟩

theorem keptByWindows_endWindows (c : Circuit) (s : State) : KeptByWindows s (endWindows c s) := by
  unfold endWindows
  extract_lets mine unacked s1
  have h1 : KeptByWindows s s1 := .foldl (fun s w => keptByWindows_dropWindow w s) _ s
  clear_value s1
  exact h1.trans ⟨⟨rfl, rfl, rfl, rfl, rfl, rfl, rfl, rfl, rfl, rfl⟩, rfl⟩

/-! ## Circuits -/

/-- The network without a circuit and without what is on its way in it. -/
def withoutCircuit (c : Circuit) (s : State) : State :=
  { s with
    net.circuits := s.net.circuits.filter (fun x => x.id != c.id)
    net.beats := s.net.beats.filter (fun b => b.circuit != c.id) }

theorem removeCircuit_eq (c : Circuit) (s : State) :
    removeCircuit c s = if c.receiver = s.core.id then endWindows c (withoutCircuit c s) else withoutCircuit c s := rfl

theorem keptByWindows_removeCircuit (c : Circuit) (s : State) : KeptByWindows (withoutCircuit c s) (removeCircuit c s) := by
  rw [removeCircuit_eq]
  split
  · exact keptByWindows_endWindows ..
  · exact .refl _

theorem keptAtCut_removeCircuit (c : Circuit) (s : State) : KeptAtCut s (removeCircuit c s) :=
  .trans (t := withoutCircuit c s) ⟨rfl, rfl, rfl, rfl, rfl, rfl, rfl, rfl, rfl, rfl⟩ (keptByWindows_removeCircuit c s).toKeptAtCut

/-- The other circuits stay. -/
theorem circuits_removeCircuit (c : Circuit) (s : State) :
    (removeCircuit c s).net.circuits = s.net.circuits.filter (fun x => x.id != c.id) :=
  (keptByWindows_removeCircuit c s).circuits

/-- After the removal of a list of circuits one that is left was there before, and is none of them. -/
theorem mem_circuits_foldl_removeCircuit {x : Circuit} (l : List Circuit) (s : State)
    (h : x ∈ (l.foldl (fun s c => removeCircuit c s) s).net.circuits) : x ∈ s.net.circuits ∧ ∀ c ∈ l, x.id ≠ c.id := by
  induction l generalizing s with
  | nil => exact ⟨h, fun c hc => nomatch hc⟩
  | cons c l ih =>
    obtain ⟨hx, hl⟩ := ih _ h
    rw [circuits_removeCircuit, List.mem_filter, bne_iff_ne] at hx
    exact ⟨hx.1, List.forall_mem_cons.mpr ⟨hx.2, hl⟩⟩

end Sys2Proof.Machine
end

section
/-! SUPPORT. Events at and between boundaries (R41, R87, R117, R142, R215, R262, R269, R273, R277, R324). -/

namespace Sys2Proof.Machine

/-! ## Traps at a boundary -/

/-- Taking a trap in program mode: what it saves, where it goes, and what it leaves alone (R324, R325). -/
theorem takeTrap_of_program {s : State} (hm : s.core.seq.mode = .program) (cause : Cause) (addr stat : DWord) :
    let t := takeTrap cause addr stat s
    t.core.sys.tcause = cause.code.setWidth 64 ||| (if cause.async then 0x100 else 0) ∧ t.core.sys.taddr = addr
      ∧ t.core.sys.tstat = stat ∧ t.core.sys.tpc = trapPc s ∧ t.core.seq.mode = .handler ∧ t.core.seq.pc = s.core.sys.tvec
      ∧ t.core.regs = s.core.regs ∧ t.core.pool = s.core.pool ∧ t.homes = s.homes := by
  simp only [takeTrap, hm]
  exact ⟨trivial, trivial, trivial, trivial, trivial, trivial, trivial, trivial, trivial⟩

/-- The queues of pending faults and late copies are no part of what a trap in program mode reads. -/
theorem takeTrap_setFaults {s : State} (hm : s.core.seq.mode = .program) (cause : Cause) (addr stat : DWord) (l : List EngineFault) :
    takeTrap cause addr stat { s with core.eng.faults := l } = { takeTrap cause addr stat s with core.eng.faults := l } := by
  simp only [takeTrap, hm]
  rfl

theorem takeTrap_setLateCopies {s : State} (hm : s.core.seq.mode = .program) (cause : Cause) (addr stat : DWord) (l : List (BitVec 5)) :
    takeTrap cause addr stat { s with core.eng.lateCopies := l } = { takeTrap cause addr stat s with core.eng.lateCopies := l } := by
  simp only [takeTrap, hm]
  rfl

/-- A trap taken at a boundary or at issue, with what is saved and what stays: the next state is `u`. -/
def TrapTaken (s : State) (o : Out) (cause addr stat : DWord) (u : State) : Prop :=
  ∃ t, o = .next t ∧ t.core.sys.tcause = cause ∧ t.core.sys.taddr = addr ∧ t.core.sys.tstat = stat
    ∧ t.core.sys.tpc = trapPc s ∧ t.core.seq.mode = .handler ∧ t.core.seq.pc = s.core.sys.tvec ∧ t.core.regs = s.core.regs
    ∧ t.core.pool = s.core.pool ∧ t.homes = s.homes ∧ t = u

/-- The next state is that of the trap, but for bookkeeping that `TrapTaken` does not read. -/
theorem trapTaken_of_takeTrap {s u : State} (hm : s.core.seq.mode = .program) (cause : Cause) {addr stat : DWord}
    (hsys : u.core.sys = (takeTrap cause addr stat s).core.sys) (hmode : u.core.seq.mode = (takeTrap cause addr stat s).core.seq.mode)
    (hpc : u.core.seq.pc = (takeTrap cause addr stat s).core.seq.pc) (hregs : u.core.regs = (takeTrap cause addr stat s).core.regs)
    (hpool : u.core.pool = (takeTrap cause addr stat s).core.pool) (hhomes : u.homes = (takeTrap cause addr stat s).homes) :
    TrapTaken s (.next u) (cause.code.setWidth 64 ||| (if cause.async then 0x100 else 0)) addr stat u := by
  obtain ⟨hcause, haddr, hstat, htpc, hm', hpc', hregs', hpool', hhomes'⟩ := takeTrap_of_program hm cause addr stat
  exact ⟨u, rfl, hsys ▸ hcause, hsys ▸ haddr, hsys ▸ hstat, hsys ▸ htpc, hmode.trans hm', hpc.trans hpc', hregs.trans hregs',
    hpool.trans hpool', hhomes.trans hhomes', rfl⟩

section boundary
variable {s : State} (hm : s.core.seq.mode = .program) (hrun : s.core.seq.run = .running)
include hm hrun

theorem atBoundary_of_running : atBoundary s = true := by
  rw [atBoundary, hrun, hm]
  rfl

theorem execEngineFault_takes {f : EngineFault} {rest : List EngineFault} (hf : s.core.eng.faults = f :: rest) :
    exec .engineFault s = .next { takeTrap .engine f.addr (faultStat f) s with core.eng.faults := rest } := by
  rw [exec_engineFault, execEngineFault, hf]
  exact (if_pos (atBoundary_of_running hm hrun)).trans (congrArg Host.Outcome.next (takeTrap_setFaults hm ..))

theorem execLateCopyTrap_takes {k : BitVec 5} {rest : List (BitVec 5)} (hk : s.core.eng.lateCopies = k :: rest) :
    exec .lateCopyTrap s = .next { takeTrap .lateCopy (k.setWidth 64) 0 s with core.eng.lateCopies := rest } := by
  rw [exec_lateCopyTrap, execLateCopyTrap, hk]
  exact (if_pos (atBoundary_of_running hm hrun)).trans (congrArg Host.Outcome.next (takeTrap_setLateCopies hm ..))

/-- A fired step, of an instruction or of the grid, is taken and disarmed. -/
theorem execStepTrap_takes :
    (s.core.seq.stepFired = true → exec (.stepTrap false) s
      = .next { takeTrap .step 0 0 s with core.seq.stepInst := false, core.seq.stepFired := false })
    ∧ (s.core.seq.gridStepFired = true → exec (.stepTrap true) s
      = .next { takeTrap .step 1 0 s with core.seq.stepGrid := false, core.seq.gridStepFired := false }) := by
  have hgo : ¬ (s.core.seq.mode ≠ .program ∨ s.core.seq.run ≠ .running) := fun h => h.elim (· hm) (· hrun)
  refine ⟨fun hfired => ?_, fun hfired => ?_⟩
  all_goals
    rw [exec_stepTrap, execStepTrap, if_neg hgo]
    simp only [hfired, if_true, Bool.false_eq_true, if_false]

end boundary

/-! ## Leases -/

theorem ownCircuit_some {s : State} {h : BitVec 3} {c : Circuit} (hc : ownCircuit s h = some c) :
    c.sender = s.core.id ∧ c.slot = h ∧ c.releasing = false := by
  have := List.find?_some hc
  simpa [and_assoc] using this

theorem handleOf_setHandle_same (h : BitVec 3) (x : Handle) (s : State) : handleOf (setHandle h x s) h = x := by
  simp [handleOf, setHandle, vget_vset]

theorem updExec_frame (q : Nat) (f : Running → Running) (s : State) :
    updExec q f s = { s with core.eng.exec := (updExec q f s).core.eng.exec } := by
  unfold updExec
  split <;> rfl

/-- A `CSTREAM` in execution on a handle that is cut ends with an error. -/
def failStreamOn (h : BitVec 3) (s : State) : State :=
  match queueHead s 5 with
  | some y => if streamsOn h y then updExec 5 (fun r => { r with finished := true, err := true }) s else s
  | none => s

theorem failStreamOn_frame (h : BitVec 3) (s : State) : failStreamOn h s = { s with core.eng.exec := (failStreamOn h s).core.eng.exec } := by
  unfold failStreamOn
  split
  · split
    · rw [← updExec_frame]
    · rfl
  · rfl

/-- A cut of an explicit circuit of the core: the circuit is gone, and the handle is in state 4 with the cause. -/
theorem cutCircuit_own {s : State} {c : Circuit} {cause : BitVec 2} (hc : circuitOf s c.id = some c) (hown : c.sender = s.core.id)
    (hrel : c.releasing = false) (hprom : c.promoted = false) :
    ∃ (x : Handle) (e : Vector (Option Running) 6), x.st = 4 ∧ x.cause = cause
      ∧ cutCircuit c.id cause s = { setHandle c.slot x (removeCircuit c s) with core.eng.exec := e } := by
  have hgo : ¬ (c.sender ≠ (removeCircuit c s).core.id ∨ c.releasing = true) := by
    rw [(keptAtCut_removeCircuit c s).id, hown, hrel]
    simp
  have hcut : cutCircuit c.id cause s = failStreamOn c.slot (setHandle c.slot
      { handleOf (removeCircuit c s) c.slot with st := 4, cause := cause, cutAt := (removeCircuit c s).core.eng.cmdId }
      (removeCircuit c s)) := by
    rw [cutCircuit, hc]
    dsimp only
    rw [if_neg hgo, hprom, failStreamOn]
    generalize setHandle c.slot _ (removeCircuit c s) = t
    cases queueHead t 5 <;> rfl
  refine ⟨{ handleOf (removeCircuit c s) c.slot with st := 4, cause := cause, cutAt := (removeCircuit c s).core.eng.cmdId },
    (cutCircuit c.id cause s).core.eng.exec, rfl, rfl, ?_⟩
  rw [hcut]
  exact failStreamOn_frame ..

/-- A lease that has run out, of a handle that is open or closing. -/
theorem execLeaseExpiry_due {s : State} {h : BitVec 3} (hst : (handleOf s h).st = 2 ∨ (handleOf s h).st = 3)
    (hdue : (handleOf s h).leaseEnd.toNat ≤ (counterOf s s.core.id).toNat) :
    (ownCircuit s h = none → exec (.leaseExpiry h) s
      = .next (setHandle h { handleOf s h with st := 4, cause := 0, cutAt := s.core.eng.cmdId } s))
    ∧ ∀ c, ownCircuit s h = some c → c.promoted = false → exec (.leaseExpiry h) s = .next (cutCircuit c.id 0 s) := by
  rw [exec_leaseExpiry, execLeaseExpiry, expireLease]
  dsimp only
  rw [if_pos ⟨hst, hdue⟩]
  refine ⟨fun hc => ?_, fun c hc hp => ?_⟩
  · rw [hc]
  · rw [hc]
    simp only [hp, Bool.false_eq_true, if_false]

/-! ## The end of a core's run -/

/-- Without a record there is no member. -/
theorem launchOf_of_absent {s : State} {id : Nat} (h : (s.sched.launches.any fun l => l.id == id) = false) :
    launchOf s id = LaunchRec.none := by
  rw [launchOf, List.find?_eq_none.mpr (by simpa using h)]
  rfl

/-- A member of a launch after the members of its number have been changed. -/
theorem mem_members_updMember {launch : Nat} {sec : Bool} {ord : BitVec 24} {f : Member → Member} {s : State} {x : Member}
    (h : x ∈ (launchOf (updMember launch sec ord f s) launch).members) :
    ∃ y, x = if y.sec = sec ∧ y.ord = ord then f y else y := by
  cases hthere : s.sched.launches.any fun l => l.id == launch with
  | true =>
    rw [updMember, launchOf_updLaunch _ ?_ hthere] at h
    · obtain ⟨y, -, hy⟩ := List.mem_map.mp h
      exact ⟨y, hy.symm⟩
    · exact fun _ => rfl
  | false =>
    have hnone : launchOf (updMember launch sec ord f s) launch = LaunchRec.none := by
      refine launchOf_of_absent ?_
      rw [← hthere]
      simp only [updMember, updLaunch, List.any_map]
      refine List.any_congr rfl fun l => ?_
      dsimp only [Function.comp]
      split <;> rfl
    rw [hnone] at h
    exact nomatch h

/-- The circuits that another core's members send on. -/
def sentByGone (s : State) (launch : Nat) (sec : Bool) (ord : BitVec 24) : List Circuit :=
  s.net.circuits.filter fun c =>
    ((launchOf s launch).members.filter fun m => m.sec == sec && m.ord == ord && m.place != s.core.id).any fun m => m.place == c.sender

/-- The state in which the circuits of a core that is done are gone. -/
def withoutSent (s : State) (launch : Nat) (sec : Bool) (ord : BitVec 24) : State :=
  (sentByGone s launch sec ord).foldl (fun s c => removeCircuit c s) s

/-- The state of a member becomes done. -/
def becomesDone (m : Member) : Member := { m with state := .done }

/-- `memberDone` as its three parts: circuits, member, slots. -/
theorem memberDone_eq (s : State) (launch : Nat) (sec : Bool) (ord : BitVec 24) :
    memberDone launch sec ord s =
      { updMember launch sec ord becomesDone (withoutSent s launch sec ord) with
        sched.slots := (withoutSent s launch sec ord).sched.slots.map fun x =>
          if x.launch = launch ∧ x.sec = sec ∧ x.ord = ord then { x with state := .done } else x } := rfl

theorem memberDone_members {s : State} {launch : Nat} {sec : Bool} {ord : BitVec 24} :
    ∀ x ∈ (launchOf (memberDone launch sec ord s) launch).members, x.sec = sec → x.ord = ord → x.state = .done := by
  intro x hx hsec hord
  obtain ⟨y, rfl⟩ := mem_members_updMember (s := withoutSent s launch sec ord) hx
  by_cases hy : y.sec = sec ∧ y.ord = ord
  · rw [if_pos hy]
  · rw [if_neg hy] at hsec hord
    exact absurd ⟨hsec, hord⟩ hy

theorem memberDone_slots {s : State} {launch : Nat} {sec : Bool} {ord : BitVec 24} :
    ∀ x ∈ (memberDone launch sec ord s).sched.slots, x.launch = launch → x.sec = sec → x.ord = ord → x.state = .done := by
  intro x hx hl hsec hord
  obtain ⟨y, -, rfl⟩ := List.mem_map.mp hx
  by_cases hy : y.launch = launch ∧ y.sec = sec ∧ y.ord = ord
  · rw [if_pos hy]
  · rw [if_neg hy] at hl hsec hord
    exact absurd ⟨hl, hsec, hord⟩ hy

/-- What `memberDone` keeps but for launch records and slots. -/
theorem memberDone_kept (s : State) (launch : Nat) (sec : Bool) (ord : BitVec 24) :
    (memberDone launch sec ord s).core.regs = s.core.regs ∧ (memberDone launch sec ord s).core.seq = s.core.seq
      ∧ (∀ k, poolByte (memberDone launch sec ord s) k = poolByte s k) ∧ (memberDone launch sec ord s).homes = s.homes
      ∧ (memberDone launch sec ord s).sched = { s.sched with
          launches := (memberDone launch sec ord s).sched.launches, slots := (memberDone launch sec ord s).sched.slots } := by
  have h : KeptAtCut s (withoutSent s launch sec ord) := .foldl (fun s c => keptAtCut_removeCircuit c s) _ s
  have hsched : (memberDone launch sec ord s).sched = { (withoutSent s launch sec ord).sched with
      launches := (memberDone launch sec ord s).sched.launches, slots := (memberDone launch sec ord s).sched.slots } := rfl
  exact ⟨h.regs, h.seq, h.poolByte, h.homes, h.sched ▸ hsched⟩

/-- The circuits that a member of another core sent on are released. -/
theorem memberDone_circuits {s : State} {launch : Nat} {m : Member} (hm : m ∈ (launchOf s launch).members)
    (hplace : m.place ≠ s.core.id) :
    ∀ c ∈ (memberDone launch m.sec m.ord s).net.circuits, c ∈ s.net.circuits ∧ c.sender ≠ m.place := by
  intro c hc
  obtain ⟨hin, hne⟩ := mem_circuits_foldl_removeCircuit _ s hc
  refine ⟨hin, fun hsend => hne c ?_ rfl⟩
  refine List.mem_filter.mpr ⟨hin, List.any_eq_true.mpr ⟨m, List.mem_filter.mpr ⟨hm, ?_⟩, beq_iff_eq.mpr hsend.symm⟩⟩
  simp [hplace]

/-- Without such a circuit only launch records and slots change. -/
theorem memberDone_of_no_circuit {s : State} {launch : Nat} {sec : Bool} {ord : BitVec 24}
    (h : ∀ c ∈ s.net.circuits, ∀ y ∈ (launchOf s launch).members, y.sec = sec → y.ord = ord →
      y.place = c.sender → y.place = s.core.id) :
    memberDone launch sec ord s = { s with sched.launches := (memberDone launch sec ord s).sched.launches,
                                           sched.slots := (memberDone launch sec ord s).sched.slots } := by
  have hnone : sentByGone s launch sec ord = [] := by
    refine List.filter_eq_nil_iff.mpr fun c hc hany => ?_
    obtain ⟨y, hy, hsend⟩ := List.any_eq_true.mp hany
    simp only [List.mem_filter, Bool.and_eq_true, beq_iff_eq, bne_iff_ne, and_assoc] at hy
    obtain ⟨hy, hsec, hord, hplace⟩ := hy
    exact hplace (h c hc y hy hsec hord (beq_iff_eq.mp hsend))
  rw [memberDone_eq, withoutSent, hnone]
  rfl

/-- The release of the core's circuits leaves the sequencer alone. -/
theorem releaseAll_seq (s : State) : (releaseAll s).core.seq = s.core.seq := by
  have hone (t : State) (c : Circuit) : (if c.promoted then releasePromoted c t else releaseExplicit c t).core.seq = t.core.seq := by
    split
    · rfl
    · exact (keptAtCut_removeCircuit c t).seq
  unfold releaseAll
  generalize s.net.circuits.filter _ = l
  induction l generalizing s with
  | nil => rfl
  | cons c l ih => exact (ih _).trans (hone s c)

/-- The end of the modelled core's run, once its pushes are made. -/
theorem execCoreDone_own {s : State} (hd : drained s = true) :
    (∀ t, exitPush s = (t, true) → exec (.coreDone s.core.launch s.core.ord.toNat) s
      = .next (memberDone s.core.launch t.core.sec t.core.ord (releaseAll { t with core.seq.run := .done })))
    ∧ ∀ t, exitPush s = (t, false) → exec (.coreDone s.core.launch s.core.ord.toNat) s = .next t := by
  rw [exec_coreDone, execCoreDone, if_pos ⟨rfl, rfl⟩, hd]
  refine ⟨fun t ht => ?_, fun t ht => ?_⟩ <;> rw [ht] <;> rfl

/-- Another core of a launch reports done. -/
theorem execCoreDone_other {s : State} {launch ord : Nat} {m : Member} (hother : launch ≠ s.core.launch ∨ ord ≠ s.core.ord.toNat)
    (hm : (launchOf s launch).members.find? (fun m => m.ord.toNat == ord && (m.state == .running || m.state == .exited)
      && m.place != s.core.id) = some m) :
    exec (.coreDone launch ord) s = .next (memberDone launch m.sec m.ord s) := by
  have hne : ¬ (launch = s.core.launch ∧ ord = s.core.ord.toNat) := fun h => hother.elim (· h.1) (· h.2)
  rw [exec_coreDone, execCoreDone, if_neg hne, hm]

/-! ## Semaphores -/

/-- The entry of a semaphore in the hub's list. -/
def isSemaphore (l : Nat) (sec : Bool) (n : Byte) (x : Nat × Bool × Byte × Word) : Bool := x.1 == l && x.2.1 == sec && x.2.2.1 == n

theorem isSemaphore_iff {l : Nat} {sec : Bool} {n : Byte} {x : Nat × Bool × Byte × Word} :
    isSemaphore l sec n x = true ↔ l = x.1 ∧ sec = x.2.1 ∧ n = x.2.2.1 := by
  simp only [isSemaphore, Bool.and_eq_true, beq_iff_eq, and_assoc]
  exact ⟨fun ⟨hl, hsec, hn⟩ => ⟨hl.symm, hsec.symm, hn.symm⟩, fun ⟨hl, hsec, hn⟩ => ⟨hl.symm, hsec.symm, hn.symm⟩⟩

theorem semValue_eq (s : State) (l : Nat) (sec : Bool) (n : Byte) :
    semValue s l sec n = ((s.sched.sems.find? (isSemaphore l sec n)).map (fun x => x.2.2.2)).getD 0 := rfl

/-- The list after an add: a value of 0 has no entry. -/
def semsAfter (s : State) (l : Nat) (sec : Bool) (n : Byte) (v : Word) : List (Nat × Bool × Byte × Word) :=
  if semValue s l sec n + v = 0 then s.sched.sems.filter (fun x => !isSemaphore l sec n x)
  else (l, sec, n, semValue s l sec n + v) :: s.sched.sems.filter (fun x => !isSemaphore l sec n x)

theorem semApply_eq (s : State) (l : Nat) (sec : Bool) (n : Byte) (v : Word) :
    (semApply l sec n v s).1 = semWake { s with sched.sems := semsAfter s l sec n v } := rfl

/-- Waking the core's `SEMWAIT` changes its captured wait only. -/
theorem semWake_frame (s : State) : semWake s = { s with core.seq.semCap := (semWake s).core.seq.semCap } := by
  unfold semWake
  split
  · split <;> rfl
  · rfl

/-- The other entries are found as before. -/
theorem find_rest {l l' : Nat} {sec sec' : Bool} {n n' : Byte} (xs : List (Nat × Bool × Byte × Word))
    (h : ¬ (l' = l ∧ sec' = sec ∧ n' = n)) :
    (xs.filter fun x => !isSemaphore l sec n x).find? (isSemaphore l' sec' n') = xs.find? (isSemaphore l' sec' n') := by
  rw [List.find?_filter]
  congr 1
  funext x
  by_cases hx : isSemaphore l' sec' n' x = true
  · have hother : isSemaphore l sec n x = false := by
      rw [← Bool.not_eq_true, isSemaphore_iff]
      rintro ⟨rfl, rfl, rfl⟩
      exact h (isSemaphore_iff.mp hx)
    simp [hx, hother]
  · simp [hx]

theorem semsAfter_same (s : State) (l : Nat) (sec : Bool) (n : Byte) (v : Word) :
    (((semsAfter s l sec n v).find? (isSemaphore l sec n)).map (fun x => x.2.2.2)).getD 0 = semValue s l sec n + v := by
  have hnone : (s.sched.sems.filter fun x => !isSemaphore l sec n x).find? (isSemaphore l sec n) = none := by
    simp [List.find?_eq_none]
  unfold semsAfter
  by_cases hz : semValue s l sec n + v = 0
  · rw [if_pos hz, hnone, hz]
    rfl
  · have hself : isSemaphore l sec n (l, sec, n, semValue s l sec n + v) = true := isSemaphore_iff.mpr ⟨rfl, rfl, rfl⟩
    rw [if_neg hz, List.find?_cons_of_pos hself]
    rfl

theorem semsAfter_other {s : State} {l l' : Nat} {sec sec' : Bool} {n n' : Byte} {v : Word} (h : ¬ (l' = l ∧ sec' = sec ∧ n' = n)) :
    (semsAfter s l sec n v).find? (isSemaphore l' sec' n') = s.sched.sems.find? (isSemaphore l' sec' n') := by
  unfold semsAfter
  split
  · exact find_rest _ h
  · rw [List.find?_cons_of_neg (mt isSemaphore_iff.mp h), find_rest _ h]

/-- Semaphore values after the entry of one of them has been replaced. -/
theorem semValue_of_semsAfter {l : Nat} {sec : Bool} {n : Byte} {v : Word} {s t : State} (ht : t.sched.sems = semsAfter s l sec n v)
    (l' : Nat) (sec' : Bool) (n' : Byte) :
    semValue t l' sec' n' = if l' = l ∧ sec' = sec ∧ n' = n then semValue s l sec n + v else semValue s l' sec' n' := by
  rw [semValue_eq t, ht]
  by_cases h : l' = l ∧ sec' = sec ∧ n' = n
  · rw [if_pos h]
    obtain ⟨rfl, rfl, rfl⟩ := h
    exact semsAfter_same ..
  · rw [if_neg h, semsAfter_other h]
    rfl

/-- The captured wait of the core after a wake: passed when it was, or when the value has now passed the captured one. -/
theorem semWake_semCap (s : State) :
    (∀ k v y, s.core.seq.semCap = some (k, v, y) → (semWake s).core.seq.semCap
      = some (k, v, y || decide ((semValue s s.core.launch s.core.sec k - v).toNat < 2 ^ 31)))
    ∧ (s.core.seq.semCap = none → (semWake s).core.seq.semCap = none) := by
  refine ⟨fun k v y hcap => ?_, fun hcap => ?_⟩
  · rw [semWake, hcap]
    cases y with
    | true => exact hcap
    | false =>
      change _ = some (k, v, semPassed (semValue s s.core.launch s.core.sec k) v)
      dsimp only
      cases semPassed (semValue s s.core.launch s.core.sec k) v with
      | true => rfl
      | false => exact hcap
  · rw [semWake, hcap]
    exact hcap

/-- An add that has come to the hub. -/
theorem execSemaphoreAdd_some {s : State} {i l : Nat} {sec : Bool} {n : Byte} {v : Word} (h : s.sched.semAdds[i]? = some (l, sec, n, v)) :
    exec (.semaphoreAdd i) s = .next (semWake { s with
      sched.semAdds := s.sched.semAdds.eraseIdx i, sched.sems := semsAfter s l sec n v }) := by
  rw [exec_semaphoreAdd, execSemaphoreAdd, h]
  exact congrArg Host.Outcome.next (semApply_eq ..)

/-! ## A waiting `SLEEPT` -/

/-- The fields by which `SLEEPT_WAKE` knows the waiting instruction. -/
theorem wordSleept_fields : ∀ (a : BitVec 5) (fa : Bool), (wordSleept a fa).bits 25 7 = 0x69#7 ∧ (wordSleept a fa).bits 0 8 = 0x04#8
    ∧ (wordSleept a fa).bits 15 5 = a ∧ (wordSleept a fa).getLsbD 9 = fa := by
  decide

/-- The deadline of the waiting `SLEEPT` is reached: it retires. -/
theorem execSleeptWake_due {s : State} {a : BitVec 5} {fa : Bool} (hrun : s.core.seq.run = .running)
    (hwait : s.core.seq.wait = some .external) (hmacro : s.core.seq.macroRun = false) (hword : wordAtPc s = wordSleept a fa)
    (h : mayIssue control ⟨[srcS a fa], []⟩ s = true) (hdue : (readS s a).toNat ≤ (counterOf s s.core.id).toNat) :
    exec .sleeptWake s = .next (retire (issued s)) := by
  obtain ⟨hg, hu⟩ := mayIssue_iff.mp h
  obtain ⟨hmajor, hfn, ha, hfa⟩ := wordSleept_fields a fa
  rw [exec_sleeptWake, execSleeptWake, hword, if_pos ⟨hrun, hwait, by rw [hmacro]; rfl, hmajor, hfn⟩, ha, hfa, execSleept,
    gate_of_open hg, issue_of_free hu]
  exact if_pos hdue

/-- Settles O51, event by event. -/
theorem boundaryEvents : Obligations.BoundaryEvents := by
  unfold Obligations.BoundaryEvents
  intro s traps
  refine ⟨fun hm => ⟨fun hrun => ⟨fun f rest hf => ?_, fun k rest hk => ?_, fun hfired => ?_, fun hfired => ?_⟩, fun w => ?_⟩,
    fun a fa => execSleeptWake_due, fun h c hst hdue hown hprom hc => ?_, fun h hst hdue => (execLeaseExpiry_due hst hdue).1,
    fun t hd => ⟨fun ht => ?_, (execCoreDone_own hd).2 t⟩, fun launch ord m hother hm => ?_, fun i l sec n v hi => ?_, fun i => rfl⟩
  · rw [execEngineFault_takes hm hrun hf]
    exact trapTaken_of_takeTrap hm .engine rfl rfl rfl rfl rfl rfl
  · rw [execLateCopyTrap_takes hm hrun hk]
    exact trapTaken_of_takeTrap hm .lateCopy rfl rfl rfl rfl rfl rfl
  · rw [(execStepTrap_takes hm hrun).1 hfired]
    exact trapTaken_of_takeTrap hm .step rfl rfl rfl rfl rfl rfl
  · rw [(execStepTrap_takes hm hrun).2 hfired]
    exact trapTaken_of_takeTrap hm .step rfl rfl rfl rfl rfl rfl
  · exact trapTaken_of_takeTrap hm .illegal rfl rfl rfl rfl rfl rfl
  · obtain ⟨hsender, hslot, hrel⟩ := ownCircuit_some hown
    obtain ⟨x, e, hx4, hx0, hcut⟩ := cutCircuit_own (cause := 0) hc hsender hrel hprom
    have hkept := keptAtCut_removeCircuit c s
    have hx : handleOf { setHandle c.slot x (removeCircuit c s) with core.eng.exec := e } h = x :=
      hslot ▸ handleOf_setHandle_same c.slot x (removeCircuit c s)
    refine ⟨_, (((execLeaseExpiry_due hst hdue).2 c hown hprom)).trans (congrArg Host.Outcome.next hcut), (congrArg Handle.st hx).trans hx4,
      (congrArg Handle.cause hx).trans hx0,
      fun y hy => ?_, hkept.regs, hkept.homes, fun hfar => ?_⟩
    · have hy' : y ∈ (removeCircuit c s).net.circuits := hy
      rw [circuits_removeCircuit, List.mem_filter, bne_iff_ne] at hy'
      exact hy'.2
    · rw [removeCircuit_eq, if_neg hfar]
      rfl
  · refine ⟨_, (execCoreDone_own hd).1 t ht, ?_, rfl, memberDone_members, memberDone_slots⟩
    rw [(memberDone_kept ..).2.1, releaseAll_seq]
  · obtain ⟨hregs, -, hpool, hhomes, hsched⟩ := memberDone_kept s launch m.sec m.ord
    have hplace : m.place ≠ s.core.id := by
      have := List.find?_some hm
      simp only [Bool.and_eq_true, bne_iff_ne] at this
      exact this.2
    exact ⟨_, execCoreDone_other hother hm, memberDone_circuits (List.mem_of_find?_eq_some hm) hplace, hregs, hpool, hhomes, hsched,
      memberDone_of_no_circuit, memberDone_members⟩
  · have hframe := semWake_frame { s with sched.semAdds := s.sched.semAdds.eraseIdx i, sched.sems := semsAfter s l sec n v }
    obtain ⟨hcap, hnone⟩ := semWake_semCap { s with sched.semAdds := s.sched.semAdds.eraseIdx i, sched.sems := semsAfter s l sec n v }
    refine ⟨_, execSemaphoreAdd_some hi, ?_, fun k v' y hk => ?_, hnone, ?_⟩
    · rw [hframe]
    · rw [hcap k v' y hk, hframe]
      rfl
    · refine semValue_of_semsAfter ?_
      rw [hframe]

end Sys2Proof.Machine
end

section
/-! SUPPORT. Scalar instructions with nothing in the way of issue (R49, R52-R63, R75, R77): what each form writes, and its word. -/

namespace Sys2Proof.Machine

/-! ## What each operand form answers -/

section forms
variable {s : State} {i : Instr} {w : Word} {d a b : BitVec 5} {p : BitVec 3} {fa fb : Bool} {z : DWord} {c : Bool}

theorem exec_eq_of_alu {f : DWord → DWord → DWord} (h : mayIssue inLine (usesDAB d a b fa fb) s = true)
    (he : exec i s = alu w d a b fa fb f s) (hz : f (readS s a) (readS s b) = z) :
    exec i s = .next (retire (writeS d z (issued s))) :=
  hz ▸ he.trans (gate_issue h)

theorem exec_eq_of_aluLate {f : DWord → DWord → DWord} (h : mayIssue inLine (usesDAB d a b fa fb) s = true)
    (he : exec i s = aluLate w d a b fa fb f s) (hz : f (readS s a) (readS s b) = z) :
    exec i s = .next (retire (deliverLater (.scalar d z) (issued s))) :=
  hz ▸ he.trans (gate_issue h)

theorem exec_eq_of_alu1 {f : DWord → DWord} (h : mayIssue inLine ⟨[srcS a fa], [.s d]⟩ s = true)
    (he : exec i s = alu1 w d a fa f s) (hz : f (readS s a) = z) : exec i s = .next (retire (writeS d z (issued s))) :=
  hz ▸ he.trans (gate_issue h)

theorem exec_eq_of_cmpTo {f : DWord → DWord → Bool} (h : mayIssue inLine ⟨[srcS a fa, srcS b fb], []⟩ s = true)
    (he : exec i s = cmpTo w p a b fa fb f s) (hc : f (readS s a) (readS s b) = c) :
    exec i s = .next (retire (writeP p c (issued s))) :=
  hc ▸ he.trans (gate_issue h)

theorem exec_eq_of_cmpImm {imm : BitVec 12} {f : DWord → DWord → Bool} (h : mayIssue inLine ⟨[srcS a], []⟩ s = true)
    (he : exec i s = cmpImm w p a imm f s) (hc : f (readS s a) (imm.signExtend 64) = c) :
    exec i s = .next (retire (writeP p c (issued s))) :=
  hc ▸ he.trans (gate_issue h)

theorem exec_eq_of_predOp {x : State → Bool} (h : mayIssue inLine {} s = true)
    (he : exec i s = predOp w p x s) (hc : x (issued s) = c) : exec i s = .next (retire (writeP p c (issued s))) :=
  hc ▸ he.trans (gate_issue h)

theorem execNop_issues (h : mayIssue inLine {} s = true) : exec .nop s = .next (retire (issued s)) :=
  (exec_nop s).trans (gate_issue h)

end forms

/-! ## Values at once -/

/-- A shift amount, the low bits of a register. -/
theorem fieldN_low (x : DWord) (n : Nat) : fieldN x 0 n = x.toNat % 2 ^ n := by
  rw [fieldN_eq, Nat.pow_zero, Nat.div_one]

theorem clamp64_eq (x : Int) : clamp64 x = BitVec.ofInt 64 (max (-2 ^ 63) (min x (2 ^ 63 - 1))) := by
  refine congrArg (BitVec.ofInt 64) ?_
  split
  · omega
  · split <;> omega

theorem ltS_eq_decide (x y : DWord) : ltS x y = decide (x.toInt < y.toInt) := BitVec.slt_eq_decide

theorem ltU_eq_decide (x y : DWord) : ltU x y = decide (x.toNat < y.toNat) := BitVec.ult_eq_decide

/-- Where the strict comparison asks the other way round, the equal case goes with the first. -/
theorem ite_ltS_swap {α : Type} (x y : DWord) (u v : α) :
    (if ltS y x = true then v else u) = if x.toInt ≤ y.toInt then u else v := by
  simp only [ltS_eq_decide, decide_eq_true_eq, ← Int.not_le, ite_not]

theorem ite_ltU_swap {α : Type} (x y : DWord) (u v : α) :
    (if ltU y x = true then v else u) = if x.toNat ≤ y.toNat then u else v := by
  simp only [ltU_eq_decide, decide_eq_true_eq, ← Nat.not_le, ite_not]

/-- The larger of two values: where they are equal, either. -/
theorem ite_ltS_eq_ite_le (x y : DWord) : (if ltS x y = true then y else x) = if x.toInt ≤ y.toInt then y else x := by
  by_cases hxy : x.toInt = y.toInt
  · rw [BitVec.toInt_inj.mp hxy, ite_self, ite_self]
  · simp only [ltS_eq_decide, decide_eq_true_eq, lt_iff_le_and_ne, ne_eq, hxy, not_false_eq_true, and_true]

theorem ite_ltU_eq_ite_le (x y : DWord) : (if ltU x y = true then y else x) = if x.toNat ≤ y.toNat then y else x := by
  by_cases hxy : x.toNat = y.toNat
  · rw [BitVec.eq_of_toNat_eq hxy, ite_self, ite_self]
  · simp only [ltU_eq_decide, decide_eq_true_eq, lt_iff_le_and_ne, ne_eq, hxy, not_false_eq_true, and_true]

/-- Settles O6: the write by `readS_writeS`, and all twenty-six instructions by the form `alu`. -/
theorem scalarOperationsAtOnce : Obligations.ScalarOperationsAtOnce := by
  unfold Obligations.ScalarOperationsAtOnce
  refine ⟨fun s d z => ⟨?_, fun r hr => ?_, writeS_frame d z s, readS_zero s⟩, ?_⟩
  · by_cases h : d = 0
    · rw [if_pos h, h, readS_zero]
    · rw [if_neg h, readS_writeS, if_pos ⟨rfl, h⟩]
  · rw [readS_writeS, if_neg fun h => hr h.1]
  · intro s d a b fa fb neg p sh h x y lo wrote clamp
    exact ⟨exec_eq_of_alu h (exec_add ..) rfl, exec_eq_of_alu h (exec_sub ..) rfl, exec_eq_of_alu h (exec_andR ..) rfl,
      exec_eq_of_alu h (exec_orR ..) rfl, exec_eq_of_alu h (exec_xorR ..) rfl, exec_eq_of_alu h (exec_andn ..) rfl,
      exec_eq_of_alu h (exec_addw ..) rfl, exec_eq_of_alu h (exec_subw ..) rfl,
      exec_eq_of_alu h (exec_addsat ..) (clamp64_eq _), exec_eq_of_alu h (exec_subsat ..) (clamp64_eq _),
      exec_eq_of_alu h (exec_sll ..) (congrArg (x <<< ·) (fieldN_low y 6)),
      exec_eq_of_alu h (exec_srl ..) (congrArg (x >>> ·) (fieldN_low y 6)),
      exec_eq_of_alu h (exec_sra ..) (congrArg x.sshiftRight (fieldN_low y 6)),
      exec_eq_of_alu h (exec_rol ..) (congrArg x.rotateLeft (fieldN_low y 6)),
      exec_eq_of_alu h (exec_ror ..) (congrArg x.rotateRight (fieldN_low y 6)),
      exec_eq_of_alu h (exec_sllw ..) (congrArg (fun n => sx (lo x <<< n)) (fieldN_low y 5)),
      exec_eq_of_alu h (exec_srlw ..) (congrArg (fun n => sx (lo x >>> n)) (fieldN_low y 5)),
      exec_eq_of_alu h (exec_sraw ..) (congrArg (fun n => sx ((lo x).sshiftRight n)) (fieldN_low y 5)),
      exec_eq_of_alu h (exec_min ..) (ite_ltS_swap x y x y), exec_eq_of_alu h (exec_max ..) (ite_ltS_eq_ite_le x y),
      exec_eq_of_alu h (exec_minu ..) (ite_ltU_swap x y x y), exec_eq_of_alu h (exec_maxu ..) (ite_ltU_eq_ite_le x y),
      exec_eq_of_alu h (exec_sel ..) (by rw [Bool.bne_eq_xor]), exec_eq_of_alu h (exec_scadd ..) rfl,
      exec_eq_of_alu h (exec_scaddx ..) rfl, exec_eq_of_alu h (exec_scaddz ..) rfl⟩

/-! ## Results after their latency -/

/-- The register that a result on its way will fill. -/
def latentDest : Latent → RegRef
  | .scalar d _ => .s d
  | .vector d _ => .v d
  | .mask d _ => .q d

theorem deliverLater_discarded {l : Latent} (h : latentDest l = .s 0 ∨ latentDest l = .q 0) (s : State) : deliverLater l s = s := by
  cases l <;> simp_all [latentDest, deliverLater]

theorem deliverLater_appends {l : Latent} (hs : latentDest l ≠ .s 0) (hq : latentDest l ≠ .q 0) (s : State) :
    deliverLater l s = { s with core.regs.latent := s.core.regs.latent ++ [l] } := by
  cases l <;> simp_all [latentDest, deliverLater]

/-- The last of the results under way interlocks its destination. -/
theorem regPending_latentDest {l : Latent} {ls : List Latent} {s : State} (hl : s.core.regs.latent = ls ++ [l])
    (hs : latentDest l ≠ .s 0) (hq : latentDest l ≠ .q 0) : regPending s (latentDest l) = true := by
  cases l <;> simp_all [latentDest, regPending]

theorem quotS_eq {w : Nat} (x y : BitVec w) :
    quotS x y = if y = 0 then BitVec.allOnes w else BitVec.ofInt w (x.toInt.tdiv y.toInt) := by
  have hdiv : BitVec.ofInt w (x.toInt.tdiv y.toInt) = x.sdiv y :=
    BitVec.toInt_inj.mp ((BitVec.toInt_ofInt _).trans (BitVec.toInt_sdiv x y).symm)
  rw [quotS, hdiv]

theorem remS_eq {w : Nat} (x y : BitVec w) : remS x y = if y = 0 then x else BitVec.ofInt w (x.toInt.tmod y.toInt) := by
  rw [remS, ← BitVec.toInt_srem, BitVec.ofInt_toInt]

theorem quotU_eq {w : Nat} (x y : BitVec w) :
    quotU x y = if y = 0 then BitVec.allOnes w else BitVec.ofNat w (x.toNat / y.toNat) := by
  rw [quotU, ← BitVec.toNat_udiv, BitVec.ofNat_toNat, BitVec.setWidth_eq]

theorem remU_eq {w : Nat} (x y : BitVec w) : remU x y = if y = 0 then x else BitVec.ofNat w (x.toNat % y.toNat) := by
  rw [remU, ← BitVec.toNat_umod, BitVec.ofNat_toNat, BitVec.setWidth_eq]

/-- Settles O7: a result on its way by its destination, and all eight instructions by the form `aluLate`. -/
theorem divide : Obligations.Divide := by
  unfold Obligations.Divide
  refine ⟨fun s l => ?_, fun s d a b fa fb h => ?_⟩
  · refine ⟨fun h => deliverLater_discarded h s, fun hs hq => ?_⟩
    have happ := deliverLater_appends hs hq s
    exact ⟨regPending_latentDest (congrArg (·.core.regs.latent) happ) hs hq, happ⟩
  · intro x y xl yl late
    exact ⟨exec_eq_of_aluLate h (exec_div ..) (quotS_eq x y), exec_eq_of_aluLate h (exec_divu ..) (quotU_eq x y),
      exec_eq_of_aluLate h (exec_rem ..) (remS_eq x y), exec_eq_of_aluLate h (exec_remu ..) (remU_eq x y),
      exec_eq_of_aluLate h (exec_divw ..) (congrArg sx (quotS_eq xl yl)),
      exec_eq_of_aluLate h (exec_divuw ..) (congrArg sx (quotU_eq xl yl)),
      exec_eq_of_aluLate h (exec_remw ..) (congrArg sx (remS_eq xl yl)),
      exec_eq_of_aluLate h (exec_remuw ..) (congrArg sx (remU_eq xl yl))⟩

/-- Settles O8: all five instructions by the form `aluLate`, and their words by definition. -/
theorem multiply : Obligations.Multiply := by
  unfold Obligations.Multiply
  intro s d a b fa fb h x y xl yl late high row
  exact ⟨exec_eq_of_aluLate h (exec_mul ..) rfl, exec_eq_of_aluLate h (exec_mulh ..) rfl,
    exec_eq_of_aluLate h (exec_mulhu ..) rfl, exec_eq_of_aluLate h (exec_mulhsu ..) rfl,
    exec_eq_of_aluLate h (exec_mulw ..) rfl, rfl, rfl, rfl, rfl, rfl⟩

/-! ## Immediate forms and their words -/

/-- The operation of an immediate shift and the unassigned bits below it as one field. -/
theorem shiftWord_eq (d a : BitVec 5) (op : BitVec 3) (n : BitVec 6) :
    (0x14#7 ++ d ++ a ++ op ++ 0#6 ++ n : Word) = 0x14#7 ++ d ++ a ++ (op ++ 0#6) ++ n :=
  congrArg (fun y : BitVec 26 => y ++ n) BitVec.append_assoc

/-- The same for a shift of a word, whose amount has five bits. -/
theorem shiftWordW_eq (d a : BitVec 5) (op : BitVec 3) (m : BitVec 5) :
    (0x14#7 ++ d ++ a ++ op ++ 0#6 ++ (0#1 ++ m) : Word) = 0x14#7 ++ d ++ a ++ (op ++ 0#6 ++ 0#1) ++ m :=
  calc (0x14#7 ++ d ++ a ++ op ++ 0#6 ++ (0#1 ++ m) : Word)
      = 0x14#7 ++ d ++ a ++ op ++ 0#6 ++ 0#1 ++ m := BitVec.append_assoc.symm
    _ = 0x14#7 ++ d ++ a ++ (op ++ 0#6) ++ 0#1 ++ m :=
      congrArg (fun y : BitVec 26 => (y ++ 0#1 ++ m : Word)) BitVec.append_assoc
    _ = 0x14#7 ++ d ++ a ++ (op ++ 0#6 ++ 0#1) ++ m := congrArg (fun y : BitVec 27 => y ++ m) BitVec.append_assoc

/-- A field within a field. -/
theorem bits_of_bits (w : Word) {lo n : Nat} (k m : Nat) (h : k + m ≤ n) : w.bits (lo + k) m = (w.bits lo n).extractLsb' k m := by
  ext i hi
  simp [Word.bits, show k + i < n by omega, Nat.add_assoc]

/-- In major 0x14 a word with an unassigned bit set, operation 7, or an amount of 32 or more of a W form encodes nothing (R60). -/
theorem decodeMajor14_eq_none {w : Word}
    (h : w.bits 6 6 ≠ 0 ∨ w.bits 12 3 = 7 ∨ 4 ≤ (w.bits 12 3).toNat ∧ w.bits 5 1 = 1#1) : decodeMajor14 w = none := by
  have hwide : ∀ c ∈ [0x200#10, 0x280#10, 0x300#10], w.bits 5 10 ≠ c := by
    intro c hc e
    rw [bits_of_bits w (lo := 5) (n := 10) 1 6 (by decide), bits_of_bits w (lo := 5) (n := 10) 7 3 (by decide),
      bits_of_bits w (lo := 5) (n := 10) 0 1 (by decide), e] at h
    clear e
    revert c
    decide
  have hnarrow : ∀ c ∈ [0x0#9, 0x40#9, 0x80#9, 0xC0#9], w.bits 6 9 ≠ c := by
    intro c hc e
    replace h := h.imp_right (Or.imp_right And.left)
    rw [bits_of_bits w (lo := 6) (n := 9) 0 6 (by decide), bits_of_bits w (lo := 6) (n := 9) 6 3 (by decide), e] at h
    clear e
    revert c
    decide
  simp only [List.forall_mem_cons] at hwide hnarrow
  simp [decodeMajor14, hwide, hnarrow]

theorem decodeFields_of_major14 {w : Word} (h : w.bits 25 7 = 0x14) : decodeFields w = decodeMajor14 w := by
  unfold decodeFields
  simp only [h]
  rfl

theorem decodeFields_of_major24 {w : Word} (h : w.bits 25 7 = 0x24) : decodeFields w = decodeMajor24 w := by
  unfold decodeFields
  simp only [h]
  rfl

theorem decode_eq_none_of_fields {w : Word} (h : decodeFields w = none) : decode w = none := by
  rw [decode, h]

/-- The words of major 0x24 hold 0 to 3 in their low byte. -/
theorem decodeMajor24_eq_none {w : Word} (h : 4 ≤ (w.bits 0 8).toNat) : decodeMajor24 w = none := by
  have hlow {n : Nat} (hn : 8 ≤ n) {c : BitVec n} (hc : (c.extractLsb' 0 8).toNat < 4) : w.bits 0 n ≠ c := by
    rintro rfl
    rw [← bits_of_bits w 0 8 (Nat.zero_add 8 ▸ hn)] at hc
    exact Nat.not_le_of_gt hc h
  rw [decodeMajor24, if_neg (hlow (by decide) (by decide)), if_neg (hlow (by decide) (by decide)),
    if_neg (hlow (by decide) (by decide)), if_neg fun e => hlow (by decide) (by decide) e.2.2]

/-- Settles O9: all twelve instructions by the form `alu1`, and their words field by field. -/
theorem immediateForms : Obligations.ImmediateForms := by
  unfold Obligations.ImmediateForms
  refine ⟨fun s d a imm n m h => ?_, fun w hmajor h =>
    decode_eq_none_of_fields ((decodeFields_of_major14 hmajor).trans (decodeMajor14_eq_none h))⟩
  intro x lo wrote shift
  exact ⟨exec_eq_of_alu1 h (exec_addi ..) rfl, exec_eq_of_alu1 h (exec_andi ..) rfl, exec_eq_of_alu1 h (exec_ori ..) rfl,
    exec_eq_of_alu1 h (exec_xori ..) rfl, exec_eq_of_alu1 h (exec_addiw ..) rfl, exec_eq_of_alu1 h (exec_slli ..) rfl,
    exec_eq_of_alu1 h (exec_srli ..) rfl, exec_eq_of_alu1 h (exec_srai ..) rfl, exec_eq_of_alu1 h (exec_rori ..) rfl,
    exec_eq_of_alu1 h (exec_slliw ..) rfl, exec_eq_of_alu1 h (exec_srliw ..) rfl, exec_eq_of_alu1 h (exec_sraiw ..) rfl,
    rfl, rfl, rfl, rfl, rfl, (shiftWord_eq d a 0 n).symm, (shiftWord_eq d a 1 n).symm, (shiftWord_eq d a 2 n).symm,
    (shiftWord_eq d a 3 n).symm, (shiftWordW_eq d a 4 m).symm, (shiftWordW_eq d a 5 m).symm, (shiftWordW_eq d a 6 m).symm⟩

/-! ## Moves and counts -/

theorem getLsbD_eq_false_of_log2_lt {x : DWord} {i : Nat} (h : x.toNat.log2 < i) : x.getLsbD i = false := by
  rw [← BitVec.testBit_toNat]
  exact Nat.testBit_lt_two_pow (Nat.lt_of_lt_of_le Nat.lt_log2_self (Nat.pow_le_pow_right (by decide) h))

/-- `clz64` counts the zeros above the highest set bit. -/
theorem clz64_counts (x : DWord) : ∃ z : Nat, z ≤ 64 ∧ (∀ i < 64, 64 - z ≤ i → x.getLsbD i = false)
    ∧ (z < 64 → x.getLsbD (63 - z) = true) ∧ clz64 x = BitVec.ofNat 64 z := by
  by_cases hx : x = 0
  · subst hx
    exact ⟨64, Nat.le_refl _, fun i _ _ => BitVec.getLsbD_zero, fun h => absurd h (by decide), rfl⟩
  · have hpos : x.toNat ≠ 0 := fun e => hx (BitVec.eq_of_toNat_eq e)
    have hlog : x.toNat.log2 < 64 := (Nat.log2_lt hpos).mpr x.isLt
    refine ⟨63 - x.toNat.log2, by omega, fun i _ hi => getLsbD_eq_false_of_log2_lt (by omega), fun _ => ?_, if_neg hx⟩
    rw [show 63 - (63 - x.toNat.log2) = x.toNat.log2 by omega, ← BitVec.testBit_toNat]
    exact Nat.testBit_log2 hpos

/-- Settles O10: `MOV`, `CLZ` and `POPC` by the form `alu1`, `LUI` and `NOP` by `gate_issue`. -/
theorem movesAndCounts : Obligations.MovesAndCounts := by
  unfold Obligations.MovesAndCounts
  intro s d a fa imm20 x wrote
  refine ⟨fun h => exec_eq_of_alu1 h (exec_mov ..) rfl, fun h => ⟨?_, ?_⟩, fun h => (exec_lui ..).trans (gate_issue h),
    execNop_issues⟩
  · obtain ⟨z, hle, hzero, hone, hz⟩ := clz64_counts x
    exact ⟨z, hle, hzero, hone, exec_eq_of_alu1 h (exec_clz ..) hz⟩
  · exact exec_eq_of_alu1 h (exec_popc ..) (congrArg (BitVec.ofNat 64) List.countP_eq_length_filter.symm)

/-! ## Compares and predicates -/

theorem not_ltS_eq_decide (x y : DWord) : (!ltS x y) = decide (y.toInt ≤ x.toInt) := by
  rw [ltS_eq_decide, ← decide_not, decide_eq_decide, Int.not_lt]

theorem not_ltU_eq_decide (x y : DWord) : (!ltU x y) = decide (y.toNat ≤ x.toNat) := by
  rw [ltU_eq_decide, ← decide_not, decide_eq_decide, Nat.not_lt]

theorem bne_eq_decide_ne (x y : DWord) : (x != y) = decide (x ≠ y) := by
  rw [bne, beq_eq_decide, ← decide_not]

theorem writeP_frame (d : BitVec 3) (c : Bool) (s : State) : writeP d c s = { s with core.regs.p := (writeP d c s).core.regs.p } := by
  unfold writeP
  split <;> rfl

/-- Settles O11: the write by `readP_writeP`, and the instructions by the forms `cmpTo`, `cmpImm` and `predOp`. -/
theorem comparesAndPredicates : Obligations.ComparesAndPredicates := by
  unfold Obligations.ComparesAndPredicates
  refine ⟨fun s d c => ⟨?_, fun r hr => ?_, writeP_frame d c s⟩, ?_⟩
  · by_cases h : d = 0
    · subst h
      exact readP_zero _
    · rw [readP_writeP, if_pos ⟨rfl, h⟩, beq_false_of_ne h, Bool.false_or]
  · rw [readP_writeP, if_neg fun h => hr h.1]
  · intro s d a b fa fb p pa pb imm x y i set
    have hi : i.toInt = imm.toInt := BitVec.toInt_signExtend_of_le (by decide)
    refine ⟨fun h => ?_, fun h => ?_, fun h => ?_, fun h => ?_, fun h => ?_⟩
    · exact ⟨exec_eq_of_cmpTo h (exec_cmpeq ..) (beq_eq_decide ..), exec_eq_of_cmpTo h (exec_cmpne ..) (bne_eq_decide_ne ..),
        exec_eq_of_cmpTo h (exec_cmplt ..) (ltS_eq_decide ..), exec_eq_of_cmpTo h (exec_cmpge ..) (not_ltS_eq_decide ..),
        exec_eq_of_cmpTo h (exec_cmpltu ..) (ltU_eq_decide ..), exec_eq_of_cmpTo h (exec_cmpgeu ..) (not_ltU_eq_decide ..)⟩
    · rw [← hi]
      exact ⟨exec_eq_of_cmpImm h (exec_cmpeqi ..) (beq_eq_decide ..),
        exec_eq_of_cmpImm h (exec_cmpnei ..) (bne_eq_decide_ne ..),
        exec_eq_of_cmpImm h (exec_cmplti ..) (ltS_eq_decide ..), exec_eq_of_cmpImm h (exec_cmpgei ..) (not_ltS_eq_decide ..),
        exec_eq_of_cmpImm h (exec_cmpltui ..) (ltU_eq_decide ..),
        exec_eq_of_cmpImm h (exec_cmpgeui ..) (not_ltU_eq_decide ..)⟩
    · exact ⟨exec_eq_of_predOp h (exec_pand ..) rfl, exec_eq_of_predOp h (exec_por ..) rfl,
        exec_eq_of_predOp h (exec_pxor ..) (congrFun₂ Bool.bne_eq_xor ..), exec_eq_of_predOp h (exec_pandn ..) rfl,
        exec_eq_of_predOp h (exec_pnot ..) rfl⟩
    · exact (exec_pset ..).trans ((gate_issue h).trans (congrArg set (bne_eq_decide_ne ..)))
    · exact (exec_pget ..).trans (gate_issue h)

/-! ## `NOP` -/

/-- What going on leaves as it is, to the next word or, where macros run, to the next operation. -/
def GoesOn (s t : State) : Prop :=
  t = { s with core.seq := t.core.seq, core.sys.mstep := t.core.sys.mstep }
    ∧ t.core.seq = { s.core.seq with
        pc := t.core.seq.pc, pcOver := t.core.seq.pcOver, loops := t.core.seq.loops, macroRun := t.core.seq.macroRun,
        stepFired := t.core.seq.stepFired, wait := none }

theorem nextWord_goesOn (s : State) : GoesOn s (nextWord s) := by
  unfold nextWord
  dsimp only
  split <;> exact ⟨rfl, rfl⟩

theorem macroAt_goesOn (mac step : Nat) (s : State) : GoesOn s (macroAt mac step s) := by
  unfold macroAt
  split
  · obtain ⟨h, hseq⟩ := nextWord_goesOn { s with core.sys.mstep := mstepOf false mac step, core.seq.macroRun := false }
    exact ⟨h, hseq⟩
  · exact ⟨rfl, rfl⟩

theorem countStep_frame (s : State) : countStep s = { s with core.seq.stepFired := (countStep s).core.seq.stepFired } := by
  unfold countStep
  split <;> rfl

theorem retire_goesOn (s : State) : GoesOn s (retire s) := by
  have hcount : GoesOn (countStep s) (retire s) := by
    unfold retire
    dsimp only
    split
    · exact macroAt_goesOn ..
    · exact nextWord_goesOn _
  rw [countStep_frame] at hcount
  exact hcount

theorem retire_sys {s : State} (h : s.core.seq.macroRun = false) : (retire s).core.sys = s.core.sys := by
  obtain ⟨-, -, hmacro, -⟩ := countStep_seq_fields s
  rw [retire, hmacro, h, if_neg Bool.false_ne_true, nextWord_sys, countStep_sys]

/-- Settles O12: `NOP` goes on (`retire_goesOn`), and no row of major 0x24 has a low byte above 3. -/
theorem majorTwentyFour : Obligations.MajorTwentyFour := by
  unfold Obligations.MajorTwentyFour
  refine ⟨decode_of_encode (i := .nop) rfl rfl rfl, fun s h => ?_, fun w hmajor h =>
    decode_eq_none_of_fields ((decodeFields_of_major24 hmajor).trans (decodeMajor24_eq_none h))⟩
  obtain ⟨hframe, hseq⟩ := retire_goesOn (issued s)
  exact ⟨_, execNop_issues h, hframe, fun hm => congrArg (·.mstep) (retire_sys (s := issued s) hm), hseq⟩

end Sys2Proof.Machine
end

section
/-! SUPPORT. Scalar loads and stores of the pool with nothing in the way of issue (R78-R80). -/

namespace Sys2Proof.Machine

/-- A kind reads the bytes of its size only. -/
theorem valueByKind_congr {kind : BitVec 3} {x y : Nat → Byte} (h7 : kind ≠ 7) (h : ∀ k < 2 ^ (kind.toNat % 4), x k = y k) :
    valueByKind kind x = valueByKind kind y := by
  have hkind : kind = 0 ∨ kind = 1 ∨ kind = 2 ∨ kind = 3 ∨ kind = 4 ∨ kind = 5 ∨ kind = 6 := by
    clear h
    revert kind
    decide
  rcases hkind with rfl | rfl | rfl | rfl | rfl | rfl | rfl <;> simp [valueByKind, h]

/-- The bytes of a pool load are read at the places their kind reads. -/
theorem loadValue_map_range {kind : BitVec 3} (h7 : kind ≠ 7) (f : Nat → Byte) :
    loadValue kind ((List.range (2 ^ (kind.toNat % 4))).map f) = valueByKind kind f :=
  (loadValue_eq_valueByKind h7 (by simp)).trans (valueByKind_congr h7 fun k hk => by simp [hk])

theorem storeBytes_length (n : Nat) (x : DWord) : (storeBytes n x).length = n := leBytes_length n x.toNat

/-- Byte `k` of a stored register. -/
theorem storeBytes_getD {n k : Nat} (x : DWord) (h : k < n) : (storeBytes n x).getD k 0 = x.extractLsb' (8 * k) 8 := by
  rw [storeBytes, leBytes_getD n x.toNat k h]
  refine BitVec.eq_of_toNat_eq ?_
  rw [BitVec.toNat_ofNat, BitVec.extractLsb'_toNat, Nat.shiftRight_eq_div_pow, Nat.pow_mul]

theorem poolByte_congr {s t : State} (h : t.core.pool = s.core.pool) (a : Nat) : poolByte t a = poolByte s a := by
  rw [poolByte, poolByte, h, poolDefault, poolDefault, h]

/-- What the pool holds after the low bytes of a register have been stored, and what stays. -/
theorem poolWrite_storeBytes (s : State) (a n : Nat) (x : DWord) :
    (∀ k, poolByte (poolWrite a (storeBytes n x) s) k = if a ≤ k ∧ k < a + n then x.extractLsb' (8 * (k - a)) 8 else poolByte s k)
    ∧ (∀ k, memByte (poolWrite a (storeBytes n x) s) k = memByte s k)
    ∧ (poolWrite a (storeBytes n x) s).core.regs = s.core.regs := by
  obtain ⟨l, hframe⟩ := poolWrite_frame (storeBytes n x) a s
  refine ⟨fun k => ?_, fun k => memByte_congr (by rw [hframe]) (by rw [hframe]) k, by rw [hframe]⟩
  rw [poolByte_poolWrite, storeBytes_length]
  split
  · rename_i hk
    rw [storeBytes_getD x (by omega)]
  · rfl

section forms
variable {s : State} {i : Instr} {w : Word} {d a : BitVec 5} {idx : Option (BitVec 5)} {addr : State → DWord}

/-- A scalar pool load: what its check decides. -/
theorem exec_eq_of_poolLoad {kind : BitVec 3} (h : mayIssue anywhere ⟨addrSrcs a idx, [.s d]⟩ s = true)
    (he : exec i s = poolLoad w d a idx kind addr s) :
    (poolCheck s (addr (issued s)) (kindSize kind) true false = none → exec i s = .next (retire (deliverLater
        (.scalar d (loadValue kind (poolRead s (addr (issued s)).toNat (kindSize kind)))) (issued s))))
    ∧ ∀ c x, poolCheck s (addr (issued s)) (kindSize kind) true false = some (c, x) → exec i s = trap c x (issued s) := by
  have hissue := he.trans (gate_issue h)
  refine ⟨fun hc => hissue.trans ?_, fun c x hc => hissue.trans ?_⟩
  · have hc' : poolCheck (issued s) (addr (issued s)) (kindSize kind) true false = none := hc
    simp only [hc']
    rfl
  · have hc' : poolCheck (issued s) (addr (issued s)) (kindSize kind) true false = some (c, x) := hc
    simp only [hc']

/-- A scalar pool store: what its check decides. -/
theorem exec_eq_of_poolStore {kind : BitVec 2} (h : mayIssue anywhere ⟨addrSrcs a idx ++ [srcS d], []⟩ s = true)
    (he : exec i s = poolStore w d a idx kind addr s) :
    (poolCheck s (addr (issued s)) (2 ^ kind.toNat) false true = none → exec i s = .next (retire
        (poolWrite (addr (issued s)).toNat (storeBytes (2 ^ kind.toNat) (readS s d)) (issued s))))
    ∧ ∀ c x, poolCheck s (addr (issued s)) (2 ^ kind.toNat) false true = some (c, x) → exec i s = trap c x (issued s) := by
  have hissue := he.trans (gate_issue h)
  refine ⟨fun hc => hissue.trans ?_, fun c x hc => hissue.trans ?_⟩
  · have hc' : poolCheck (issued s) (addr (issued s)) (2 ^ kind.toNat) false true = none := hc
    simp only [hc']
    rfl
  · have hc' : poolCheck (issued s) (addr (issued s)) (2 ^ kind.toNat) false true = some (c, x) := hc
    simp only [hc']

end forms

/-- Settles O14: all four instructions are `poolLoad` or `poolStore` at their address; the bytes by `poolWrite_storeBytes`. -/
theorem scalarPoolAccess : Obligations.ScalarPoolAccess := by
  unfold Obligations.ScalarPoolAccess
  intro s d a i kind width off byKind n m loaded stored xo yo xi
  have stored_of {x : DWord} {o : Out}
      (h : o = .next (retire (poolWrite x.toNat (storeBytes m (readS s d)) (issued s)))) : stored x o := by
    obtain ⟨hpool, hmem, hregs⟩ := poolWrite_storeBytes (issued s) x.toNat m (readS s d)
    exact ⟨_, h, fun k => (poolByte_congr (retire_pool _) k).trans (hpool k), fun k => (memByte_retire _ k).trans (hmem k),
      (retire_regs _).trans hregs⟩
  refine ⟨fun x h7 => loadValue_map_range h7 _, fun h => exec_eq_of_poolLoad (idx := none) h (exec_pld ..),
    fun h => exec_eq_of_poolLoad (idx := some i) h (exec_pldIndexed ..), fun h => ?_, fun h => ?_⟩
  · obtain ⟨hstore, htrap⟩ := exec_eq_of_poolStore (idx := none) h (exec_pst d a width off s)
    exact ⟨fun hc => stored_of (hstore hc), htrap⟩
  · obtain ⟨hstore, htrap⟩ := exec_eq_of_poolStore (idx := some i) h (exec_pstIndexed d a width i s)
    exact ⟨fun hc => stored_of (hstore hc), htrap⟩

end Sys2Proof.Machine
end

section
/-! SUPPORT. Global loads and stores with nothing in the way of issue, outside line regions (R81-R83, R110). -/

namespace Sys2Proof.Machine

/-- The state of an answered access check: translations only have changed. -/
theorem accessCheck_tlbs {va : DWord} {n : Nat} {w : Bool} {s s' : State} {r : Trans} (h : accessCheck va n w s = (s', r)) :
    ∃ t l, s' = { s with homes.tlb := t, homes.layerTlb := l } := by
  have hframe := accessCheck_frame va n w s
  rwa [h] at hframe

/-! ## The queues -/

/-- A load stands at the end of the load queue: beside it and the empty bits only translations have changed. -/
def LoadQueued (s s' t : State) (dest : LoadDest) (va : DWord) (pa size : Nat) : Prop :=
  t = { s' with
    core.mq := { s.core.mq with
      seq := s.core.mq.seq + 1, loads := s.core.mq.loads ++ [⟨s.core.mq.seq, dest, va.toNat, pa, size, none, false⟩] }
    core.regs.sEmpty := t.core.regs.sEmpty, core.regs.vEmpty := t.core.regs.vEmpty }
  ∧ s' = { issued s with homes.tlb := s'.homes.tlb, homes.layerTlb := s'.homes.layerTlb }
  ∧ (∀ r, readS t r = readS s r) ∧ (∀ r, readV t r = readV s r) ∧ ∀ x, memByte t x = memByte s x

theorem enqueueLoad_queued {s s' : State} {va : DWord} {pa n : Nat} {r : Trans} {w : Bool}
    (hac : accessCheck va n w (issued s) = (s', r)) (dest : LoadDest) (e : BitVec 32) (e' : BitVec 32) (size : Nat) :
    LoadQueued s s' (enqueueLoad dest va.toNat pa size { s' with core.regs.sEmpty := e, core.regs.vEmpty := e' }) dest va pa size := by
  obtain ⟨t, l, rfl⟩ := accessCheck_tlbs hac
  exact ⟨rfl, rfl, fun _ => rfl, fun _ => rfl, fun _ => rfl⟩

/-- A store stands at the end of the store queue: beside it only translations have changed. -/
def StoreQueued (s s' t : State) (cells : List Host.Cell) (va : DWord) (pa size : Nat) (sc : BitVec 3) : Prop :=
  t = { s' with core.mq := { s.core.mq with
    seq := s.core.mq.seq + 1
    stores := s.core.mq.stores ++ [⟨s.core.mq.seq, .write cells, va.toNat, pa, size, storeScope s sc⟩] } }
  ∧ s' = { issued s with homes.tlb := s'.homes.tlb, homes.layerTlb := s'.homes.layerTlb }
  ∧ t.core.regs = s.core.regs ∧ ∀ x, memByte t x = memByte s x

theorem enqueueStore_queued {s s' : State} {va : DWord} {pa n : Nat} {r : Trans} {w : Bool}
    (hac : accessCheck va n w (issued s) = (s', r)) (cells : List Host.Cell) (size : Nat) (sc : BitVec 3) :
    StoreQueued s s' (enqueueStore (.write cells) va.toNat pa size (storeScope s' sc) s') cells va pa size sc := by
  obtain ⟨t, l, rfl⟩ := accessCheck_tlbs hac
  exact ⟨rfl, rfl, rfl, fun _ => rfl⟩

/-- The bytes of a scalar store as cells. -/
theorem map_storeBytes_eq (pa n : Nat) (x : DWord) :
    (List.range n).map (fun k => (pa + k, (storeBytes n x).getD k 0))
      = (List.range n).map (fun k => (pa + k, x.extractLsb' (8 * k) 8)) :=
  List.map_congr_left fun k hk => by rw [storeBytes_getD x (List.mem_range.mp hk)]

/-! ## What each form answers -/

section forms
variable {s s' : State} {i : Instr} {w : Word} {d a : BitVec 5} {idx : Option (BitVec 5)} {addr : State → DWord} {pa : Nat}
  {c : Cause}

/-- Outside line regions nothing of R211 stands in the way of an access. -/
theorem no_region_bars (hregion : s.core.mq.region = none) (srcs : List Src) (va : DWord) (size : Nat) :
    ¬ (regionFull s || outsideLine s srcs va size) = true := by
  simp [regionFull, outsideLine, hregion]

theorem loadQueueFull_of_lt (h : s'.core.mq = s.core.mq) (hlen : s.core.mq.loads.length < Config.memQueueDepth) :
    ¬ loadQueueFull s' = true := by
  simpa [loadQueueFull, h] using hlen

theorem storeQueueFull_of_lt (h : s'.core.mq = s.core.mq) (hlen : s.core.mq.stores.length < Config.memQueueDepth) :
    ¬ storeQueueFull s' = true := by
  simpa [storeQueueFull, h] using hlen

section scalar
variable (hregion : s.core.mq.region = none)
include hregion

theorem globalLoad_ok {kind : BitVec 3} (h : mayIssue inLine ⟨addrSrcs a idx, [.s d]⟩ s = true)
    (hac : accessCheck (addr (issued s)) (kindSize kind) false (issued s) = (s', .ok pa))
    (hlen : s.core.mq.loads.length < Config.memQueueDepth) :
    globalLoad w d a idx kind addr s
      = .next (retire (enqueueLoad (.scalar d kind) (addr (issued s)).toNat pa (kindSize kind) (setSEmpty d true s'))) := by
  obtain ⟨hg, hu⟩ := mayIssue_iff.mp h
  have hmq : s'.core.mq = s.core.mq := congrArg (·.mq) (accessCheck_kept hac).1
  rw [globalLoad, gate_of_open hg, if_neg (no_region_bars hregion _ _ _), issue_of_free hu]
  simp only [issued_mq, hregion, Option.isSome_none, Bool.false_eq_true, if_false, hac, loadQueueFull_of_lt hmq hlen]

theorem globalLoad_fault {kind : BitVec 3} (h : mayIssue inLine ⟨addrSrcs a idx, [.s d]⟩ s = true)
    (hac : accessCheck (addr (issued s)) (kindSize kind) false (issued s) = (s', .fault c)) :
    globalLoad w d a idx kind addr s = trap c (addr (issued s)) s' := by
  obtain ⟨hg, hu⟩ := mayIssue_iff.mp h
  rw [globalLoad, gate_of_open hg, if_neg (no_region_bars hregion _ _ _), issue_of_free hu]
  simp only [issued_mq, hregion, Option.isSome_none, Bool.false_eq_true, if_false, hac]

theorem globalStore_ok {width : BitVec 2} {sc : BitVec 3} (h : mayIssue inLine ⟨addrSrcs a idx ++ [srcS d], []⟩ s = true)
    (hac : accessCheck (addr (issued s)) (2 ^ width.toNat) true (issued s) = (s', .ok pa))
    (hlen : s.core.mq.stores.length < Config.memQueueDepth) :
    globalStore w d a idx width sc addr s = .next (retire (enqueueStore
      (.write ((List.range (2 ^ width.toNat)).map fun k => (pa + k, (readS s d).extractLsb' (8 * k) 8)))
      (addr (issued s)).toNat pa (2 ^ width.toNat) (storeScope s' sc) s')) := by
  obtain ⟨hg, hu⟩ := mayIssue_iff.mp h
  have hmq : s'.core.mq = s.core.mq := congrArg (·.mq) (accessCheck_kept hac).1
  rw [globalStore, gate_of_open hg, if_neg (no_region_bars hregion _ _ _), issue_of_free hu]
  simp only [issued_mq, hregion, Option.isSome_none, Bool.false_eq_true, if_false, hac, storeQueueFull_of_lt hmq hlen,
    map_storeBytes_eq, readS_issued]

theorem globalStore_fault {width : BitVec 2} {sc : BitVec 3} (h : mayIssue inLine ⟨addrSrcs a idx ++ [srcS d], []⟩ s = true)
    (hac : accessCheck (addr (issued s)) (2 ^ width.toNat) true (issued s) = (s', .fault c)) :
    globalStore w d a idx width sc addr s = trap c (addr (issued s)) s' := by
  obtain ⟨hg, hu⟩ := mayIssue_iff.mp h
  rw [globalStore, gate_of_open hg, if_neg (no_region_bars hregion _ _ _), issue_of_free hu]
  simp only [issued_mq, hregion, Option.isSome_none, Bool.false_eq_true, if_false, hac]

end scalar

theorem topMask_of_accessCheck {n : Nat} {write : Bool} {r : Trans} {va : DWord}
    (hac : accessCheck va n write (issued s) = (s', r)) : topMask s' = topMask s := by
  obtain ⟨t, l, rfl⟩ := accessCheck_tlbs hac
  rfl

theorem vecGlobalLoad_ok (h : mayIssue anywhere ⟨addrSrcs a idx, [.v d]⟩ s = true)
    (hac : accessCheck (addr (issued s)) 64 false (issued s) = (s', .ok pa)) :
    (topMask s = 0 → vecGlobalLoad w d a idx addr s = .next (retire s'))
    ∧ (topMask s ≠ 0 → s.core.mq.loads.length < Config.memQueueDepth → vecGlobalLoad w d a idx addr s
      = .next (retire (enqueueLoad (.vector d (topMask s)) (addr (issued s)).toNat pa 64 (setVEmpty d true s')))) := by
  have hmq : s'.core.mq = s.core.mq := congrArg (·.mq) (accessCheck_kept hac).1
  rw [vecGlobalLoad, gate_issue h]
  simp only [hac, topMask_of_accessCheck hac]
  exact ⟨fun h0 => if_pos h0, fun h0 hlen => (if_neg h0).trans (if_neg (loadQueueFull_of_lt hmq hlen))⟩

theorem vecGlobalLoad_fault (h : mayIssue anywhere ⟨addrSrcs a idx, [.v d]⟩ s = true)
    (hac : accessCheck (addr (issued s)) 64 false (issued s) = (s', .fault c)) :
    vecGlobalLoad w d a idx addr s = trap c (addr (issued s)) s' := by
  rw [vecGlobalLoad, gate_issue h]
  simp only [hac]

theorem vecGlobalStore_ok {sc : BitVec 3} (h : mayIssue anywhere ⟨addrSrcs a idx ++ [srcV d], []⟩ s = true)
    (hac : accessCheck (addr (issued s)) 64 true (issued s) = (s', .ok pa)) :
    (topMask s = 0 → vecGlobalStore w d a idx sc addr s = .next (retire s'))
    ∧ (topMask s ≠ 0 → s.core.mq.stores.length < Config.memQueueDepth → vecGlobalStore w d a idx sc addr s
      = .next (retire (enqueueStore (.write (laneCells (topMask s) pa (readV s d))) (addr (issued s)).toNat pa 64
          (storeScope s' sc) s'))) := by
  have hcore := (accessCheck_kept hac).1
  have hmq : s'.core.mq = s.core.mq := congrArg (·.mq) hcore
  have hv : readV s' d = readV s d := readV_congr (congrArg (·.regs.v) hcore) d
  rw [vecGlobalStore, gate_issue h]
  simp only [hac, topMask_of_accessCheck hac, hv]
  exact ⟨fun h0 => if_pos h0, fun h0 hlen => (if_neg h0).trans (if_neg (storeQueueFull_of_lt hmq hlen))⟩

theorem vecGlobalStore_fault {sc : BitVec 3} (h : mayIssue anywhere ⟨addrSrcs a idx ++ [srcV d], []⟩ s = true)
    (hac : accessCheck (addr (issued s)) 64 true (issued s) = (s', .fault c)) :
    vecGlobalStore w d a idx sc addr s = trap c (addr (issued s)) s' := by
  rw [vecGlobalStore, gate_issue h]
  simp only [hac]

end forms

/-- The empty bits after a scalar load has entered its queue. -/
theorem sIsEmpty_marked (s : State) (d r : BitVec 5) : sIsEmpty (setSEmpty d true s) r = (sIsEmpty s r || (r == d && r != 0)) := by
  rw [sIsEmpty_setSEmpty]
  by_cases h : r = d
  · subst h
    unfold sIsEmpty
    cases r != 0 <;> simp
  · simp [h]

theorem vIsEmpty_marked (s : State) (d r : BitVec 5) : vIsEmpty (setVEmpty d true s) r = (vIsEmpty s r || r == d) := by
  rw [vIsEmpty_setVEmpty]
  by_cases h : r = d <;> simp [h]

/-- Settles O17: all four instructions are `globalLoad` or `vecGlobalLoad` at their address. -/
theorem globalLoads : Obligations.GlobalLoads := by
  unfold Obligations.GlobalLoads
  intro s d a i kind off voff hregion n queued scalar vector
  have scalar_of {ins : Instr} {w : Word} {idx : Option (BitVec 5)} {addr : State → DWord}
      (he : exec ins s = globalLoad w d a idx kind addr s) (h : mayIssue inLine ⟨addrSrcs a idx, [.s d]⟩ s = true) :
      scalar ins (addr (issued s)) := by
    refine ⟨fun s' pa hac hlen => ⟨_, he.trans (globalLoad_ok hregion h hac hlen), ?_, fun r => ?_, ?_⟩,
      fun s' c hac => he.trans (globalLoad_fault hregion h hac)⟩
    · rw [setSEmpty_frame]
      exact enqueueLoad_queued hac ..
    · obtain ⟨t, l, rfl⟩ := accessCheck_tlbs hac
      exact sIsEmpty_marked ..
    · obtain ⟨t, l, rfl⟩ := accessCheck_tlbs hac
      rw [setSEmpty_frame]
      rfl
  have vector_of {ins : Instr} {w : Word} {idx : Option (BitVec 5)} {addr : State → DWord}
      (he : exec ins s = vecGlobalLoad w d a idx addr s) (h : mayIssue anywhere ⟨addrSrcs a idx, [.v d]⟩ s = true) :
      vector ins (addr (issued s)) := by
    refine ⟨fun s' pa hac hlen hmask => ⟨_, he.trans ((vecGlobalLoad_ok h hac).2 hmask hlen), enqueueLoad_queued hac ..,
        fun r => ?_, ?_⟩,
      fun s' pa hac hmask => he.trans ((vecGlobalLoad_ok h hac).1 hmask), fun s' c hac => he.trans (vecGlobalLoad_fault h hac)⟩
    · obtain ⟨t, l, rfl⟩ := accessCheck_tlbs hac
      exact vIsEmpty_marked ..
    · obtain ⟨t, l, rfl⟩ := accessCheck_tlbs hac
      rfl
  exact ⟨fun h => scalar_of (idx := none) (exec_gld ..) h, fun h => scalar_of (idx := some i) (exec_gldIndexed ..) h,
    fun h => vector_of (idx := none) (exec_vgld ..) h, fun h => vector_of (idx := some i) (exec_vgldIndexed ..) h⟩

/-- Settles O18: all four instructions are `globalStore` or `vecGlobalStore` at their address. -/
theorem globalStores : Obligations.GlobalStores := by
  unfold Obligations.GlobalStores
  intro s d a i width sc off voff hregion n queued scalar vector
  have scalar_of {ins : Instr} {w : Word} {idx : Option (BitVec 5)} {addr : State → DWord}
      (he : exec ins s = globalStore w d a idx width sc addr s) (h : mayIssue inLine ⟨addrSrcs a idx ++ [srcS d], []⟩ s = true) :
      scalar ins (addr (issued s)) :=
    ⟨fun s' pa hac hlen => ⟨_, he.trans (globalStore_ok hregion h hac hlen), enqueueStore_queued hac ..⟩,
      fun s' c hac => he.trans (globalStore_fault hregion h hac)⟩
  have vector_of {ins : Instr} {w : Word} {idx : Option (BitVec 5)} {addr : State → DWord}
      (he : exec ins s = vecGlobalStore w d a idx sc addr s) (h : mayIssue anywhere ⟨addrSrcs a idx ++ [srcV d], []⟩ s = true) :
      vector ins (addr (issued s)) :=
    ⟨fun s' pa hac hlen hmask => ⟨_, he.trans ((vecGlobalStore_ok h hac).2 hmask hlen), enqueueStore_queued hac ..⟩,
      fun s' pa hac hmask => he.trans ((vecGlobalStore_ok h hac).1 hmask), fun s' c hac => he.trans (vecGlobalStore_fault h hac)⟩
  exact ⟨fun h => scalar_of (idx := none) (exec_gst ..) h, fun h => scalar_of (idx := some i) (exec_gstIndexed ..) h,
    fun h => vector_of (idx := none) (exec_vgst ..) h, fun h => vector_of (idx := some i) (exec_vgstIndexed ..) h⟩

end Sys2Proof.Machine
end

section
/-! SUPPORT. Branches on a faulted target register (R66), and the loop break (R70). -/

namespace Sys2Proof.Machine

/-- A branch on a faulted target register in program mode traps with what the register holds, and keeps which register it was: by it
`TRET` finds the register whose target the handler has changed (R66, R67). -/
theorem branch_faulted {s : State} {w : Word} {link neg : Bool} {b p : BitVec 3} {c : Cause} {x : DWord}
    (hg : gateOpen control s = true) (htaken : readP s p ≠ neg) (hfaulted : (targetOf s b).state = .faulted c x)
    (hm : s.core.seq.mode = .program) : branch w link b p neg s = .next { takeTrap c x 0 s with core.seq.tbTrap := some b } := by
  rw [branch, gate_of_open hg, if_neg (by simpa using htaken)]
  simp only [hfaulted, hm]

/-- Reset, with target register 1 faulted on word 0x1000, beyond the instruction memory. -/
def withFaultedTarget : State :=
  { State.reset with core.seq.tb := vset (w := 3) State.reset.core.seq.tb 1 ⟨0, .faulted .fetchRange 0x1000⟩ }

theorem mayIssue_withFaultedTarget : mayIssue control {} withFaultedTarget = true := by decide

theorem targetOf_withFaultedTarget : (targetOf withFaultedTarget 1).state = .faulted .fetchRange 0x1000 := by
  rw [targetOf, withFaultedTarget, vget_vset, if_pos rfl]

/-- Refutes O24: the statement makes a branch on a faulted target register the plain trap with the register's cause and address, after which
no register is on record as the one that trapped; in program mode the model records the register. -/
theorem not_branches : ¬ Obligations.Branches := by
  unfold Obligations.Branches
  intro h
  obtain ⟨hbranch, -⟩ := h withFaultedTarget 1 0 0 0 false false
  obtain ⟨-, -, -, -, -, hfaulted⟩ := hbranch mayIssue_withFaultedTarget
  obtain ⟨hbr, -⟩ := hfaulted .fetchRange 0x1000 (by rw [readP_zero]; rfl) targetOf_withFaultedTarget
  have hrecords : exec (.br 1 0 false) withFaultedTarget
      = .next { takeTrap .fetchRange 0x1000 0 withFaultedTarget with core.seq.tbTrap := some 1 } :=
    (exec_br ..).trans (branch_faulted (mayIssue_iff.mp mayIssue_withFaultedTarget).1 (by rw [readP_zero]; decide)
      targetOf_withFaultedTarget rfl)
  have hsame := Host.Outcome.next.inj (hrecords.symm.trans hbr)
  have hrecord : some 1 = (none : Option (BitVec 3)) := congrArg (·.core.seq.tbTrap) hsame
  cases hrecord

/-! ## The loop break -/

theorem vget_map {α β : Type} {w : Nat} (f : α → β) (v : Vector α (2 ^ w)) (i : BitVec w) : vget (v.map f) i = f (vget v i) :=
  Vector.getElem_map ..

theorem retireTo_loops (pc : Nat) (s : State) : (retireTo pc s).core.seq.loops = s.core.seq.loops := (countStep_seq_fields s).1

/-- A level after the break of a level of a given order. -/
def brokenOff (order : Nat) (l : LoopLevel) : LoopLevel :=
  if l.active && decide (order ≤ l.order) then { l with count := 0, active := false } else l

theorem execLbrk_active {s : State} {lvl : BitVec 2} (h : mayIssue control {} s = true) (ha : (loopLevel s lvl).active = true) :
    exec (.lbrk lvl) s = .next (retireTo ((loopLevel s lvl).stop.toNat + 1)
      { issued s with core.seq.loops := s.core.seq.loops.map (brokenOff (loopLevel s lvl).order) }) := by
  obtain ⟨hg, hu⟩ := mayIssue_iff.mp h
  rw [exec_lbrk, execLbrk, gate_of_open hg]
  simp only [ha, Bool.not_true, Bool.false_eq_true, if_false]
  exact issue_of_free hu

theorem execLbrk_inactive {s : State} {lvl : BitVec 2} (hg : gateOpen control s = true) (ha : (loopLevel s lvl).active = false) :
    exec (.lbrk lvl) s = illegal (wordLbrk lvl) s := by
  rw [exec_lbrk, execLbrk, gate_of_open hg]
  simp only [ha, Bool.not_false, if_true]

/-- Settles O26: the levels by `brokenOff`, the program counter by `retireTo`. -/
theorem loopBreak : Obligations.LoopBreak := by
  unfold Obligations.LoopBreak
  intro s lvl h level
  refine ⟨fun ha => ⟨_, execLbrk_active h ha, ?_, ?_, fun i => ?_, by simp, by simp, by simp⟩,
    execLbrk_inactive (mayIssue_iff.mp h).1, rfl⟩
  · show BitVec.ofNat 12 ((level lvl).stop.toNat + 1) = (level lvl).stop + 1
    rw [BitVec.ofNat_add, BitVec.ofNat_toNat, BitVec.setWidth_eq]
    rfl
  · show decide (4096 ≤ (level lvl).stop.toNat + 1) = decide ((level lvl).stop = 4095)
    rw [decide_eq_decide]
    bv_omega
  · rw [retireTo_loops]
    refine (vget_map (w := 2) ..).trans ?_
    simp only [brokenOff, Bool.and_eq_true, decide_eq_true_eq]
    rfl

end Sys2Proof.Machine
end

section
/-! SUPPORT. Overlays, the end of a target fetch, and the end of a program (R64, R86, R87). -/

namespace Sys2Proof.Machine

/-! ## `OVL` -/

/-- Where `OVL` may stand (R69, R86): below the overlay area, outside loops and macros. -/
def OvlPlace (s : State) : Prop :=
  s.core.seq.pc.toNat < s.core.seq.ovb ∧ (∀ l ∈ s.core.seq.loops.toList, l.active = false) ∧ s.core.sys.mstep.getLsbD 15 = false

theorem ovlMisplaced_iff {s : State} :
    (decide (s.core.seq.ovb ≤ s.core.seq.pc.toNat) || s.core.seq.loops.toList.any (fun l => l.active) || mstepAct s) = true
      ↔ ¬ OvlPlace s := by
  rw [← Bool.not_eq_false, not_iff_not]
  simp only [OvlPlace, mstepAct, Bool.or_eq_false_iff, decide_eq_false_iff_not, Nat.not_le, List.any_eq_false, Bool.not_eq_true,
    and_assoc]

/-- The queues of the trailer mask are empty. -/
theorem trailerBusy_iff {s : State} :
    ((List.range 6).any fun q => (trailerOf s).getLsbD q && !queueEmpty s q) = true
      ↔ ¬ ∀ q : Fin 6, (trailerOf s).getLsbD q = true → (queueOf s q).head = (queueOf s q).tail := by
  rw [← Bool.not_eq_false, not_iff_not]
  simp only [List.any_eq_false, List.mem_range, queueEmpty, Bool.and_eq_true, Bool.not_eq_true', beq_eq_false_iff_ne, not_and,
    not_not]
  exact ⟨fun h q => h q q.isLt, fun h q hq => h ⟨q, hq⟩⟩

section ovl
variable {s : State} {a : BitVec 5} {fa : Bool}

theorem execOvl_misplaced (hg : gateOpen control s = true) (hp : ¬ OvlPlace s) :
    exec (.ovl a fa) s = illegal (wordOvl a fa) s := by
  rw [exec_ovl, execOvl, gate_of_open hg, if_pos (ovlMisplaced_iff.mpr hp)]

/-- `OVL` in its place: the overlay fault, the wait for the trailer, or the load. -/
theorem execOvl_placed (h : mayIssue control ⟨[srcS a fa], []⟩ s = true) (hp : OvlPlace s) :
    exec (.ovl a fa) s =
      if 2 ^ 16 ≤ (readS s a).toNat ∨ s.core.seq.overlays.length ≤ (readS s a).toNat then trap .overlay (readS s a) (issued s)
      else if (List.range 6).any (fun q => (trailerOf s).getLsbD q && !queueEmpty s q) then waitOn .external (issued s)
      else .next { issued s with core.seq.run := .overlay (readS s a).toNat } := by
  obtain ⟨hg, hu⟩ := mayIssue_iff.mp h
  rw [exec_ovl, execOvl, gate_of_open hg, if_neg fun e => ovlMisplaced_iff.mp e hp]
  exact issue_of_free hu

end ovl

/-! ## The words of an overlay -/

theorem loadWords_frame (ws : List Word) : ∀ (a : Nat) (s : State), loadWords a ws s
    = { s with core.seq.imem := (loadWords a ws s).core.seq.imem, core.seq.badWords := (loadWords a ws s).core.seq.badWords } := by
  induction ws with
  | nil => exact fun _ _ => rfl
  | cons w ws ih =>
    intro a s
    rw [loadWords, ih]

/-- Instruction memory after words have been loaded from an address on. -/
theorem loadWords_imem (ws : List Word) : ∀ (a : Nat) (s : State) (i : Fin 4096), (loadWords a ws s).core.seq.imem[i]
    = if a ≤ i.val ∧ i.val < a + ws.length then ws.getD (i.val - a) 0 else s.core.seq.imem[i] := by
  induction ws with
  | nil => exact fun a s i => (if_neg fun h => by simp at h; omega).symm
  | cons w ws ih =>
    intro a s i
    rw [loadWords, ih, List.length_cons]
    by_cases hfirst : a = i.val
    · rw [if_neg (by omega), if_pos (by omega), show i.val - a = 0 by omega]
      exact (Vector.getElem_setIfInBounds ..).trans (if_pos hfirst)
    · by_cases hlater : a + 1 ≤ i.val ∧ i.val < a + 1 + ws.length
      · rw [if_pos hlater, if_pos (by omega), show i.val - a = (i.val - (a + 1)) + 1 by omega, List.getD_cons_succ]
      · rw [if_neg hlater, if_neg (by omega)]
        exact (Vector.getElem_setIfInBounds ..).trans (if_neg hfirst)

/-- A word that is loaded has no error any more. -/
theorem mem_badWords_loadWords (ws : List Word) : ∀ (a : Nat) (s : State) (b : BitVec 12), b ∈ (loadWords a ws s).core.seq.badWords
    ↔ b ∈ s.core.seq.badWords ∧ ¬ (a ≤ b.toNat ∧ b.toNat < a + ws.length) := by
  induction ws with
  | nil => exact fun a s b => (and_iff_left (by simp)).symm
  | cons w ws ih =>
    intro a s b
    rw [loadWords, ih, List.length_cons]
    simp only [List.mem_filter, bne_iff_ne, and_assoc, and_congr_right_iff]
    intro _
    omega

theorem targetOf_idleTargets (s : State) (r : BitVec 3) : targetOf (idleTargets s) r = .idle := vget_replicate (w := 3) _ r

/-- The end of the load of an overlay without an error. -/
theorem execOverlayLoadDone_words {s : State} {k : Nat} {o : Overlay} (hrun : s.core.seq.run = .overlay k)
    (ho : s.core.seq.overlays[k]? = some o) :
    exec (.overlayLoadDone false) s = .next (retire (idleTargets (loadWords s.core.seq.ovb (o.words.take (3584 - s.core.seq.ovb))
      { s with core.seq.run := .running, core.seq.curOverlay := k }))) := by
  rw [exec_overlayLoadDone, execOverlayLoadDone, hrun]
  simp only [Bool.false_eq_true, if_false, ho]

/-- The words of an overlay that fit below the handler area. -/
theorem getD_take_of_lt {ws : List Word} {n j : Nat} (h : j < n) : (ws.take n).getD j 0 = ws.getD j 0 := by
  rw [List.getD_eq_getElem?_getD, List.getElem?_take_of_lt h, List.getD_eq_getElem?_getD]

/-! ## The end of a target fetch -/

section fetch
variable {s : State} {b : BitVec 3} {err : Bool}

theorem execTargetFetchReady_fetching (h : (targetOf s b).state = .fetching) :
    exec (.targetFetchReady b err) s = .next (setTarget b ⟨(targetOf s b).addr,
      if err = true ∨ s.core.seq.badWords.contains (targetOf s b).addr = true then
        .faulted .fetchError ((targetOf s b).addr.setWidth 64) else .ready⟩ s) := by
  rw [exec_targetFetchReady, execTargetFetchReady]
  simp only [h, Bool.or_eq_true]
  split <;> rfl

end fetch

/-- Settles O30: `OVL` by `execOvl_placed`, the words of an overlay by `loadWords`, and `EXIT` from its definition. -/
theorem overlaysAndExit : Obligations.OverlaysAndExit := by
  unfold Obligations.OverlaysAndExit
  intro s a fa err b n place named trailer at_ setsTarget bad
  refine ⟨fun h => ⟨fun hp hn ht => ?_, fun hp hn ht => ?_, fun hp hn => ?_, execOvl_misplaced (mayIssue_iff.mp h).1⟩,
    fun k o hrun ho => ?_, fun hf hb => ?_, fun hf hb => ?_, fun h => ?_⟩
  · rw [execOvl_placed h hp, if_neg (by simp only [named, n] at hn; omega), if_neg fun e => trailerBusy_iff.mp e ht]
  · rw [execOvl_placed h hp, if_neg (by simp only [named, n] at hn; omega), if_pos (trailerBusy_iff.mpr ht)]
  · rw [execOvl_placed h hp, if_pos (by simp only [named, n] at hn; omega)]
  · intro loaded
    have hin (i : Nat) : (s.core.seq.ovb ≤ i ∧ i < s.core.seq.ovb + (o.words.take (3584 - s.core.seq.ovb)).length) ↔ loaded i := by
      simp only [List.length_take, loaded]
      omega
    refine ⟨_, execOverlayLoadDone_words hrun ho, ?_, fun i => ?_, fun w => ?_, fun r => ?_⟩
    · rw [loadWords_frame]
      rfl
    · refine (loadWords_imem ..).trans ?_
      rw [if_congr (hin i.val) rfl rfl]
      split
      · rename_i hl
        exact getD_take_of_lt (by have := hl.1; have := hl.2.2; omega)
      · rfl
    · exact (mem_badWords_loadWords ..).trans (and_congr_right fun _ => not_congr (hin w.toNat))
    · rw [targetOf_idleTargets]
      rfl
  · exact (execTargetFetchReady_fetching hf).trans (by rw [if_neg hb]; rfl)
  · exact (execTargetFetchReady_fetching hf).trans (by rw [if_pos hb]; rfl)
  · refine ⟨_, (exec_exit ..).trans (gate_issue h), rfl, fun l hl => ?_, fun r => ?_⟩
    · rw [List.eq_of_mem_replicate (a := LoopLevel.off) (n := 4) hl]
      rfl
    · rw [targetOf_idleTargets]
      rfl

end Sys2Proof.Machine
end

section
/-! SUPPORT. Vector instructions that work lane by lane (R89, R91): the form of those that round nothing and the form of those that
round; minima, maxima, sign changes and transcendentals (R96-R99), and integer arithmetic (R100). -/

namespace Sys2Proof.Machine

theorem getElem_vregOf (f : Nat → Word) (i : Fin 16) : (vregOf f)[i] = f i := Vector.getElem_ofFn ..

section forms
variable {ins : Instr} {w : Word} {s : State} {d a b : BitVec 5} {srcs : List Src}

/-- A masked instruction that rounds nothing, with nothing in the way. -/
theorem lanesArrive_of_vecLanes {f : State → Nat → Word} {g : Fin 16 → Word}
    (h : mayIssue anywhere ⟨srcs, [.v d]⟩ s = true) (he : exec ins s = vecLanes w d srcs f s)
    (hf : ∀ i : Fin 16, f (issued s) i = g i) : lanesArrive (exec ins s) s d g := by
  refine ⟨laneMerge (topMask s) (readV s d) (vregOf (f (issued s))), he.trans (gate_issue h), fun i => ?_⟩
  rw [getElem_laneMerge, getElem_vregOf, hf]

/-- Lane i of two sources makes lane i of the result. -/
theorem lanesArrive_of_two {f g : Word → Word → Word} (hf : ∀ x y, f x y = g x y)
    (h : mayIssue anywhere ⟨vsrc2 a b, [.v d]⟩ s = true)
    (he : exec ins s = vecLanes w d (vsrc2 a b) (fun s i => f (lane (readV s a) i) (lane (readV s b) i)) s) :
    lanesArrive (exec ins s) s d (fun i => g (readV s a)[i] (readV s b)[i]) :=
  lanesArrive_of_vecLanes h he fun i => by rw [hf, lane_eq_getElem, lane_eq_getElem]; rfl

/-- Lane i of one source makes lane i of the result. -/
theorem lanesArrive_of_one {f g : Word → Word} (hf : ∀ x, f x = g x) (h : mayIssue anywhere ⟨[srcV a], [.v d]⟩ s = true)
    (he : exec ins s = vecLanes w d [srcV a] (fun s i => f (lane (readV s a) i)) s) :
    lanesArrive (exec ins s) s d (fun i => g (readV s a)[i]) :=
  lanesArrive_of_vecLanes h he fun i => by rw [hf, lane_eq_getElem]; rfl

/-- A masked instruction that rounds, with nothing in the way. -/
theorem roundedLanesArrive_of_vecRound {rm : BitVec 3} {n : Nat} {f : State → LaneFn} {g : Fin 16 → Rnd → Rnd → Word × Flags}
    (h : mayIssue anywhere ⟨srcs, [.v d]⟩ s = true) (he : exec ins s = vecRound w d srcs rm n f s)
    (hf : ∀ i : Fin 16, f (issued s) i = g i) : roundedLanesArrive (exec ins s) s d (modeOf s rm) n g := by
  rw [he, ← funext hf]
  exact vecRound_arrives h

/-- A transcendental rounds to nearest, whatever its `rm` and `FPCTL` say (R99). -/
theorem vecTrans_arrives {f : Word → Word × Flags} (h : mayIssue anywhere ⟨[srcV a], [.v d]⟩ s = true)
    (he : exec ins s = vecTrans w d a f s) : roundedLanesArrive (exec ins s) s d 0 1 (fun i _ _ => f (readV s a)[i]) := by
  have hmode : modeOf s 1 = 0 := rfl
  rw [← hmode]
  exact roundedLanesArrive_of_vecRound h he fun i => by rw [lane_eq_getElem]; rfl

end forms

/-! ## Sign bits, and both elements of a lane -/

theorem and_sign32_eq (x : Word) : x &&& 0x7FFFFFFF = 0#1 ++ x.extractLsb' 0 31 := by
  have hmask : ∀ i < 32, BitVec.getLsbD (0x7FFFFFFF : Word) i = decide (i < 31) := by decide
  refine BitVec.eq_of_getLsbD_eq fun i hi => ?_
  rw [BitVec.getLsbD_and, hmask i hi, BitVec.getLsbD_append]
  by_cases h : i < 31 <;> simp [h]

theorem xor_sign32_eq (x : Word) : x ^^^ 0x80000000 = BitVec.ofBool (!x.getLsbD 31) ++ x.extractLsb' 0 31 := by
  have hmask : ∀ i < 32, BitVec.getLsbD (0x80000000 : Word) i = !decide (i < 31) := by decide
  refine BitVec.eq_of_getLsbD_eq fun i hi => ?_
  rw [BitVec.getLsbD_xor, hmask i hi, BitVec.getLsbD_append]
  rcases Nat.lt_or_ge i 31 with h | h
  · simp [h]
  · obtain rfl : i = 31 := by omega
    simp

theorem and_sign16_eq (x : Word) : x &&& 0x7FFF7FFF = (0#1 ++ x.extractLsb' 16 15) ++ (0#1 ++ x.extractLsb' 0 15) := by
  have hmask : ∀ i < 32, BitVec.getLsbD (0x7FFF7FFF : Word) i = (decide (i < 15) || (decide (16 ≤ i) && decide (i < 31))) := by
    decide
  refine BitVec.eq_of_getLsbD_eq fun i hi => ?_
  rw [BitVec.getLsbD_and, hmask i hi]
  simp only [BitVec.getLsbD_append, BitVec.getLsbD_extractLsb', BitVec.getLsbD_zero]
  by_cases h : i < 16
  · by_cases h' : i < 15 <;> simp [h, h', Nat.not_le.mpr h]
  · by_cases h' : i < 31
    · simp [h, h', show ¬ i < 15 by omega, show 16 ≤ i by omega, show i - 16 < 15 by omega, show 16 + (i - 16) = i by omega]
    · simp [h, h', show ¬ i < 15 by omega, show ¬ i - 16 < 15 by omega]

/-- The smaller or larger of both elements of two lanes (R97, R98). -/
def bf16MinMax (mx : Bool) (x y : Word) : Word :=
  halves (bf16.minMax mx (half x 0) (half y 0)) (bf16.minMax mx (half x 1) (half y 1))

theorem bf16MinMax_eq (mx : Bool) (x y : Word) : bf16MinMax mx x y = BitVec.ofNat 32
    (bf16.minMax mx (x.extractLsb' 0 16).toNat (y.extractLsb' 0 16).toNat
      + 65536 * bf16.minMax mx (x.extractLsb' 16 16).toNat (y.extractLsb' 16 16).toNat) := by
  simp only [bf16MinMax, halves, half_eq, Nat.mul_zero, Nat.mul_one]

/-- Settles O39: minima, maxima and sign changes lane by lane, and the transcendentals by `vecTrans_arrives`. -/
theorem vectorFloatOther : Obligations.VectorFloatOther := by
  unfold Obligations.VectorFloatOther
  intro s d a b rm x y part mm32 mm16 function
  refine ⟨fun h => ?_, fun h => ?_⟩
  · have single (ins : Instr) (w : Word) (mx : Bool) (he : exec ins s = vecLanes w d (vsrc2 a b) (fun s i =>
        BitVec.ofNat 32 (fp32.minMax mx (lane (readV s a) i).toNat (lane (readV s b) i).toNat)) s) :
        lanesArrive (exec ins s) s d (mm32 mx) :=
      lanesArrive_of_vecLanes h he fun i => by rw [lane_eq_getElem, lane_eq_getElem]; rfl
    have double (ins : Instr) (w : Word) (mx : Bool)
        (he : exec ins s = vecLanes w d (vsrc2 a b) (fun s i => bf16MinMax mx (lane (readV s a) i) (lane (readV s b) i)) s) :
        lanesArrive (exec ins s) s d (mm16 mx) :=
      (lanesArrive_of_two (bf16MinMax_eq mx) h he :)
    exact ⟨single _ _ false (exec_vminF32 ..), single _ _ true (exec_vmaxF32 ..), double _ _ false (exec_vminBf16 ..),
      double _ _ true (exec_vmaxBf16 ..)⟩
  · exact ⟨(lanesArrive_of_one and_sign32_eq h (exec_vabsF32 ..) :), (lanesArrive_of_one xor_sign32_eq h (exec_vnegF32 ..) :),
      (lanesArrive_of_one and_sign16_eq h (exec_vabsBf16 ..) :),
      lanesArrive_of_vecLanes h (exec_vnegBf16 ..) fun i => by rw [lane_eq_getElem]; rfl,
      vecTrans_arrives h (exec_vexp2 ..), vecTrans_arrives h (exec_vrcp ..), vecTrans_arrives h (exec_vrsq ..),
      vecTrans_arrives h (exec_vlog2 ..)⟩

/-! ## Integers -/

theorem clampLane_eq {lo hi : Int} (h : lo ≤ hi) (x : Int) : clampLane lo hi x = BitVec.ofInt 32 (max lo (min x hi)) := by
  refine congrArg (BitVec.ofInt 32) ?_
  split
  · omega
  · split <;> omega

/-- Where the strict comparison asks the other way round, the equal case goes with the first. -/
theorem ite_slt_swap (x y : Word) : (if y.slt x = true then y else x) = if x.toInt ≤ y.toInt then x else y := by
  simp only [BitVec.slt_eq_decide, decide_eq_true_eq, ← Int.not_le, ite_not]

theorem ite_ult_swap (x y : Word) : (if y.ult x = true then y else x) = if x.toNat ≤ y.toNat then x else y := by
  simp only [BitVec.ult_eq_decide, decide_eq_true_eq, ← Nat.not_le, ite_not]

/-- The larger of two lanes: where they are equal, either. -/
theorem ite_slt_eq_ite_le (x y : Word) : (if x.slt y = true then y else x) = if x.toInt ≤ y.toInt then y else x := by
  by_cases hxy : x.toInt = y.toInt
  · rw [BitVec.toInt_inj.mp hxy, ite_self, ite_self]
  · simp only [BitVec.slt_eq_decide, decide_eq_true_eq, lt_iff_le_and_ne, ne_eq, hxy, not_false_eq_true, and_true]

theorem ite_ult_eq_ite_le (x y : Word) : (if x.ult y = true then y else x) = if x.toNat ≤ y.toNat then y else x := by
  by_cases hxy : x.toNat = y.toNat
  · rw [BitVec.eq_of_toNat_eq hxy, ite_self, ite_self]
  · simp only [BitVec.ult_eq_decide, decide_eq_true_eq, lt_iff_le_and_ne, ne_eq, hxy, not_false_eq_true, and_true]

/-- Settles O40: all twenty-three instructions work lane by lane; saturation by `clampLane_eq`, minima and maxima by their order. -/
theorem vectorInteger : Obligations.VectorInteger := by
  unfold Obligations.VectorInteger
  intro s d a b n x y two one clamp
  refine ⟨fun h => ?_, fun h => ?_⟩
  · have two_of {ins : Instr} {w : Word} {f : Word → Word → Word} (g : Word → Word → Word) (he : exec ins s = vecInt w d a b f s)
        (hf : ∀ p q, f p q = g p q) : two ins g := (lanesArrive_of_two hf h he :)
    exact ⟨two_of _ (exec_vaddI32 ..) fun _ _ => rfl, two_of _ (exec_vsubI32 ..) fun _ _ => rfl,
      two_of _ (exec_vmulI32 ..) fun _ _ => rfl, two_of _ (exec_vmulhI32 ..) fun _ _ => rfl,
      two_of _ (exec_vmulhZ32 ..) fun _ _ => rfl, two_of _ (exec_vaddsI32 ..) fun _ _ => clampLane_eq (by decide) _,
      two_of _ (exec_vsubsI32 ..) fun _ _ => clampLane_eq (by decide) _,
      two_of _ (exec_vaddsZ32 ..) fun _ _ => clampLane_eq (by decide) _,
      two_of _ (exec_vsubsZ32 ..) fun _ _ => clampLane_eq (by decide) _,
      two_of _ (exec_vminI32 ..) ite_slt_swap, two_of _ (exec_vmaxI32 ..) ite_slt_eq_ite_le,
      two_of _ (exec_vminZ32 ..) ite_ult_swap, two_of _ (exec_vmaxZ32 ..) ite_ult_eq_ite_le,
      two_of _ (exec_vand ..) fun _ _ => rfl, two_of _ (exec_vor ..) fun _ _ => rfl, two_of _ (exec_vxor ..) fun _ _ => rfl,
      two_of _ (exec_vandn ..) fun _ _ => rfl, two_of _ (exec_vsll ..) fun _ _ => rfl, two_of _ (exec_vsrl ..) fun _ _ => rfl,
      two_of _ (exec_vsra ..) fun _ _ => rfl⟩
  · have one_of {ins : Instr} {w : Word} (f : Word → Word) (he : exec ins s = vecShift w d a f s) : one ins f :=
      lanesArrive_of_vecLanes h he fun i => by rw [lane_eq_getElem]; rfl
    exact ⟨one_of _ (exec_vslli ..), one_of _ (exec_vsrli ..), one_of _ (exec_vsrai ..)⟩

end Sys2Proof.Machine
end

section
/-! SUPPORT. Permutes and moves (R108). -/

namespace Sys2Proof.Machine

/-- A lane of one of two registers. -/
theorem lane_readV_ite (s : State) (a b : BitVec 5) (k : Nat) (c : Prop) [Decidable c] :
    lane (readV s (if c then a else b)) k = if c then lane (readV s a) k else lane (readV s b) k :=
  apply_ite (fun r => lane (readV s r) k) c a b

/-- Settles O45: permutes and moves within the vector unit lane by lane, and the moves to and from scalars by `gate_issue`. -/
theorem permutesAndMoves : Obligations.PermutesAndMoves := by
  unfold Obligations.PermutesAndMoves
  intro s d a b n hn x y
  refine ⟨fun h => ⟨?_, ?_, ?_⟩, fun h => ⟨?_, ?_⟩, fun h => ⟨?_, ?_⟩, fun h => ⟨?_, ?_⟩⟩
  · exact lanesArrive_of_vecLanes h (exec_vperm ..) fun _ => rfl
  · exact lanesArrive_of_vecLanes h (exec_vzipl ..) fun i => lane_readV_ite ..
  · exact lanesArrive_of_vecLanes h (exec_vziph ..) fun i => lane_readV_ite ..
  · exact lanesArrive_of_vecLanes h (exec_vrot ..) fun _ => rfl
  · exact lanesArrive_of_vecLanes h (exec_vmov ..) fun _ => rfl
  · exact lanesArrive_of_vecLanes h (exec_vbcast ..) fun _ => rfl
  · refine ⟨_, (exec_vins ..).trans (gate_issue h), fun i => ?_⟩
    rw [getElem_vregOf, lane_eq_getElem]
    rfl
  · exact (exec_vext ..).trans (gate_issue h)
  · exact (exec_vextz ..).trans (gate_issue h)

end Sys2Proof.Machine
end

section
/-! SUPPORT. Vector compares into masks, mask logic, and moves between masks and scalars (R101, R108). -/

namespace Sys2Proof.Machine

/-- Setting the bits of the entries a test admits, one by one. -/
theorem getLsbD_foldl_setBit {n : Nat} (p : Nat → Bool) (l : List Nat) (start : BitVec n) {j : Nat} (hj : j < n) :
    (l.foldl (fun x i => if p i then setBit x i true else x) start).getLsbD j = (start.getLsbD j || (l.contains j && p j)) := by
  induction l generalizing start with
  | nil => simp
  | cons i l ih =>
    have hstep : (if p i then setBit start i true else start).getLsbD j = (start.getLsbD j || (j == i && p j)) := by
      by_cases hji : j = i
      · subst hji
        cases hp : p j <;> simp [getLsbD_setBit _ _ _ _ hj]
      · cases hp : p i <;> simp [getLsbD_setBit _ _ _ _ hj, hji]
    rw [List.foldl_cons, ih, hstep, List.contains_cons, Bool.or_assoc, Bool.and_or_distrib_right]

theorem raiseFlags_zero (s : State) : raiseFlags 0 s = s := by
  have hf : s.core.sys.fpflag ||| 0 = s.core.sys.fpflag := BitVec.or_zero
  rw [raiseFlags, hf]

/-- A compare with nothing in the way: a bit is its active lane's condition, and the flags are those of the active lanes. -/
theorem vecCmp_late {ins : Instr} {w : Word} {q : BitVec 3} {a b : BitVec 5} {f : Word → Word → Bool × Flags} {s : State}
    (h : mayIssue anywhere ⟨vsrc2 a b, [.q q]⟩ s = true) (he : exec ins s = vecCmp w q a b f s) :
    ∃ m fl, exec ins s = .next (retire (deliverLater (.mask q m) (raiseFlags fl (issued s))))
      ∧ (∀ i : Fin 16, m.getLsbD i = ((topMask s).getLsbD i && (f (readV s a)[i] (readV s b)[i]).1))
      ∧ ∀ k, fl.getLsbD k
        = (List.finRange 16).any fun i => (topMask s).getLsbD i && (f (readV s a)[i] (readV s b)[i]).2.getLsbD k := by
  refine ⟨_, _, he.trans (gate_issue h), fun i => ?_, fun k => ?_⟩
  · have hzero : BitVec.getLsbD (0 : BitVec 16) i = false := BitVec.getLsbD_zero
    have hrange : (List.range 16).contains i.val = true := by simp
    rw [getLsbD_foldl_setBit (fun i => (topMask (issued s)).getLsbD i && _) _ _ i.isLt, hzero, hrange]
    simp only [lane_eq_getElem]
    rfl
  · have hzero : BitVec.getLsbD (0 : Flags) k = false := BitVec.getLsbD_zero
    rw [getLsbD_foldl_or, ← List.map_coe_finRange_eq_range, List.any_map, hzero]
    simp only [Function.comp_def, lane_eq_getElem]
    rfl

/-! ## Integer compares -/

/-- The six conditions over an equality and an order (R101). -/
def Condition (cond : Nat) (eq lt : Prop) : Prop :=
  match cond with
  | 0 => eq
  | 1 => ¬ eq
  | 2 => lt
  | 3 => lt ∨ eq
  | 4 => ¬ lt ∧ ¬ eq
  | _ => ¬ lt

theorem condHolds_iff {cond : BitVec 3} {e l g : Bool} {eq lt : Prop} (he : e = true ↔ eq) (hl : l = true ↔ lt)
    (hg : g = true ↔ ¬ lt ∧ ¬ eq) (hne : eq → ¬ lt) : condHolds cond e l g = true ↔ Condition cond.toNat eq lt := by
  unfold condHolds Condition
  generalize cond.toNat = c
  match c with
  | 0 => exact he
  | 1 => simp [← he]
  | 2 => exact hl
  | 3 => simp [← he, ← hl]
  | 4 => exact hg
  | n + 5 =>
    change (g || e) = true ↔ ¬ lt
    rw [Bool.or_eq_true, hg, he]
    tauto

theorem cmpInt_signed_iff {cond : BitVec 3} {x y : Word} :
    (cmpInt true cond x y).1 = true ↔ Condition cond.toNat (x = y) (x.toInt < y.toInt) := by
  refine condHolds_iff beq_iff_eq BitVec.slt_iff_toInt_lt (BitVec.slt_iff_toInt_lt.trans ?_) (by rintro rfl; omega)
  rw [← BitVec.toInt_inj]
  omega

theorem cmpInt_unsigned_iff {cond : BitVec 3} {x y : Word} :
    (cmpInt false cond x y).1 = true ↔ Condition cond.toNat (x = y) (x.toNat < y.toNat) := by
  refine condHolds_iff beq_iff_eq BitVec.ult_iff_toNat_lt (BitVec.ult_iff_toNat_lt.trans ?_) (by rintro rfl; omega)
  rw [← BitVec.toNat_inj]
  omega

/-- An integer compare raises no flag. -/
theorem vecCmp_int {ins : Instr} {w : Word} {q cond : BitVec 3} {a b : BitVec 5} {signed : Bool} {s : State}
    (h : mayIssue anywhere ⟨vsrc2 a b, [.q q]⟩ s = true) (he : exec ins s = vecCmp w q a b (cmpInt signed cond) s) :
    ∃ m, exec ins s = .next (retire (deliverLater (.mask q m) (issued s)))
      ∧ ∀ i : Fin 16, m.getLsbD i = true
        ↔ (topMask s).getLsbD i = true ∧ (cmpInt signed cond (readV s a)[i] (readV s b)[i]).1 = true := by
  obtain ⟨m, fl, hexec, hbits, hflags⟩ := vecCmp_late h he
  have hfl : fl = 0 := BitVec.eq_of_getLsbD_eq fun k _ => by simp [hflags, cmpInt]
  refine ⟨m, ?_, fun i => ?_⟩
  · rw [hexec, hfl, raiseFlags_zero]
  · rw [hbits, Bool.and_eq_true]

/-! ## Compares of values -/

/-- Whether a compare meets a NaN. -/
def eitherNan (x y : Word) : Bool := (valF32 x).isNan || (valF32 y).isNan

theorem cmpF32_of_nan {cond : BitVec 3} {x y : Word} (h : eitherNan x y = true) :
    cmpF32 cond x y = (decide (cond = 1), if 2 ≤ cond.toNat then flagNV else 0) := if_pos h

theorem cmpF32_of_ordered {cond : BitVec 3} {x y : Word} (h : eitherNan x y = false) :
    cmpF32 cond x y = (condHolds cond (!(valF32 x).lt false (valF32 y) && !(valF32 y).lt false (valF32 x))
      ((valF32 x).lt false (valF32 y)) ((valF32 y).lt false (valF32 x)), 0) := if_neg (ne_true_of_eq_false h)

theorem cmpF32_flags (cond : BitVec 3) (x y : Word) :
    (cmpF32 cond x y).2 = if 2 ≤ cond.toNat ∧ eitherNan x y = true then flagNV else 0 := by
  cases h : eitherNan x y
  · simp [cmpF32_of_ordered h]
  · simp [cmpF32_of_nan h]

theorem getLsbD_ite_zero_iff (c : Flags) (P : Prop) [Decidable P] (k : Nat) :
    (if P then c else 0).getLsbD k = true ↔ P ∧ c.getLsbD k = true := by
  by_cases h : P <;> simp [h]

/-- One flag ORed from the entries that raise it. -/
theorem any_getLsbD_ite {n : Nat} (c : Flags) (p : Fin n → Bool) (q : Fin n → Prop) [DecidablePred q] (k : Nat)
    [Decidable (∃ i, p i = true ∧ q i)] : ((List.finRange n).any fun i => p i && (if q i then c else 0).getLsbD k)
      = (if ∃ i, p i = true ∧ q i then c else 0).getLsbD k := by
  rw [Bool.eq_iff_iff, List.any_eq_true, getLsbD_ite_zero_iff]
  simp only [List.mem_finRange, true_and, Bool.and_eq_true, getLsbD_ite_zero_iff, ← and_assoc, exists_and_right]

/-- Settles O41: compares by `vecCmp_late`, the conditions by `condHolds_iff` and the two cases of `cmpF32`;
the other instructions by `gate_issue`. -/
theorem vectorComparesAndMasks : Obligations.VectorComparesAndMasks := by
  unfold Obligations.VectorComparesAndMasks
  intro s q qa qb d a b cond _ x y active holds late compares nan
  refine ⟨fun h => ⟨?_, ?_, ?_⟩, fun h => ?_, fun h => ?_, fun h => ?_, fun h => ?_, fun h => ?_⟩
  · obtain ⟨m, hexec, hbits⟩ := vecCmp_int h (exec_vcmpI32 q a b cond s)
    exact ⟨m, hexec, fun i => (hbits i).trans (and_congr_right fun _ => cmpInt_signed_iff)⟩
  · obtain ⟨m, hexec, hbits⟩ := vecCmp_int h (exec_vcmpZ32 q a b cond s)
    exact ⟨m, hexec, fun i => (hbits i).trans (and_congr_right fun _ => cmpInt_unsigned_iff)⟩
  · obtain ⟨m, fl, hexec, hbits, hflags⟩ := vecCmp_late h (exec_vcmpF32 q a b cond s)
    have hactive (i : Fin 16) (ha : active i = true) : m.getLsbD i = (cmpF32 cond (x i) (y i)).1 := by
      rw [hbits, show (topMask s).getLsbD i = true from ha, Bool.true_and]
    have hfl : fl = if 2 ≤ cond.toNat ∧ ∃ i : Fin 16, active i = true ∧ nan i = true then flagNV else 0 := by
      refine BitVec.eq_of_getLsbD_eq fun k _ => ?_
      simp only [hflags, cmpF32_flags, any_getLsbD_ite]
      exact congrArg (BitVec.getLsbD · k) (if_congr ((exists_congr fun _ => and_left_comm).trans exists_and_left) rfl rfl)
    refine ⟨m, raiseFlags fl (issued s), hexec, rfl, fun i ha hn => ?_, fun i ha => ?_, fun i ha hn => ?_,
      congrArg (s.core.sys.fpflag ||| ·) hfl⟩
    · rw [hactive i ha, cmpF32_of_nan hn]
    · rw [hbits, show (topMask s).getLsbD i = false from ha, Bool.false_and]
    · intro lt gt
      rw [hactive i ha, cmpF32_of_ordered hn, show (lt || gt) = !(!lt && !gt) by simp]
      rfl
  · exact ⟨(exec_qand ..).trans (gate_issue h), (exec_qor ..).trans (gate_issue h), (exec_qxor ..).trans (gate_issue h),
      (exec_qandn ..).trans (gate_issue h)⟩
  · exact (exec_qnot ..).trans (gate_issue h)
  · exact (exec_qtop ..).trans (gate_issue h)
  · exact (exec_s2q ..).trans (gate_issue h)
  · exact (exec_q2s ..).trans (gate_issue h)

end Sys2Proof.Machine
end

section
/-! SUPPORT. Vector conversions (R102, R103). -/

namespace Sys2Proof.Machine

/-- A half of a lane as a field of its bits. -/
theorem half_eq_getBits (x : Word) (k : Nat) : half x k = getBits x (16 * k) 16 := by
  rw [half, getBits, BitVec.toNat_ushiftRight, Nat.shiftRight_eq_div_pow]
  rfl

section forms
variable {ins : Instr} {w : Word} {s : State} {d a b : BitVec 5} {rm : BitVec 3} {f : Fmt} {sat : Bool} {lo n : Nat}

/-- A widening takes one field of each active lane. -/
theorem vecWiden_arrives {code : Word → Nat} (hcode : ∀ x, code x = getBits x lo n)
    (h : mayIssue anywhere ⟨[srcV a], [.v d]⟩ s = true) (he : exec ins s = vecWiden w d a f code s) :
    lanesArrive (exec ins s) s d (fun i => (roundFp32 .rne (f.value (getBits (readV s a)[i] lo n))).1) :=
  lanesArrive_of_vecLanes h he fun i => by rw [lane_eq_getElem, hcode]; rfl

/-- A narrowing replaces one field of each active lane. -/
theorem vecNarrow_arrives (h : mayIssue anywhere ⟨[srcV a], [.v d]⟩ s = true)
    (he : exec ins s = vecNarrow w d a rm f sat lo n s) :
    roundedLanesArrive (exec ins s) s d (modeOf s rm) 1 (fun i r _ =>
      (putBits (readV s d)[i] lo n (f.narrow sat r (valF32 (readV s a)[i])).1, (f.narrow sat r (valF32 (readV s a)[i])).2)) :=
  roundedLanesArrive_of_vecRound h he fun i => by simp only [lane_eq_getElem]; rfl

theorem cvtPair_arrives (h : mayIssue anywhere ⟨vsrc2 a b, [.v d]⟩ s = true)
    (he : exec ins s = vecRound w d (vsrc2 a b) rm 2
      (fun s i r1 r2 => cvtPair f sat r1 r2 (lane (readV s a) i) (lane (readV s b) i)) s) :
    roundedLanesArrive (exec ins s) s d (modeOf s rm) 2 (fun i r1 r2 => cvtPair f sat r1 r2 (readV s a)[i] (readV s b)[i]) :=
  roundedLanesArrive_of_vecRound h he fun i => by rw [lane_eq_getElem, lane_eq_getElem]; rfl

theorem vecToInt_arrives {lo hi : Int} (h : mayIssue anywhere ⟨[srcV a], [.v d]⟩ s = true)
    (he : exec ins s = vecToInt w d a rm lo hi s) :
    roundedLanesArrive (exec ins s) s d (modeOf s rm) 1 (fun i r _ =>
      (BitVec.ofInt 32 ((valF32 (readV s a)[i]).toInt r lo hi).1, ((valF32 (readV s a)[i]).toInt r lo hi).2)) :=
  roundedLanesArrive_of_vecRound h he fun i => by simp only [lane_eq_getElem]; rfl

end forms

/-- Settles O42: each conversion by the form of its kind. -/
theorem vectorConversions : Obligations.VectorConversions := by
  unfold Obligations.VectorConversions
  intro s d a b rm k j rd sat
  rw [← modeOf_eq]
  intro mode x y z pair part wide toInt ofInt
  refine ⟨fun h => ⟨cvtPair_arrives h (exec_vcvtBf16F32 ..), cvtPair_arrives h (exec_vcvtF16F32 ..)⟩, fun h => ?_⟩
  have half_low (x : Word) : half x 0 = getBits x 0 16 := half_eq_getBits x 0
  have half_high (x : Word) : half x 1 = getBits x 16 16 := half_eq_getBits x 1
  exact ⟨vecWiden_arrives half_low h (exec_vcvtF32Bf16Lo ..), vecWiden_arrives half_high h (exec_vcvtF32Bf16Hi ..),
    vecWiden_arrives half_low h (exec_vcvtF32F16Lo ..), vecWiden_arrives half_high h (exec_vcvtF32F16Hi ..),
    vecNarrow_arrives h (exec_vcvtE4m3F32 ..), vecNarrow_arrives h (exec_vcvtE5m2F32 ..), vecNarrow_arrives h (exec_vcvtE2m1F32 ..),
    vecWiden_arrives (fun _ => rfl) h (exec_vcvtF32E4m3 ..), vecWiden_arrives (fun _ => rfl) h (exec_vcvtF32E5m2 ..),
    vecWiden_arrives (fun _ => rfl) h (exec_vcvtF32E2m1 ..),
    vecToInt_arrives h (exec_vcvtI32F32 ..), vecToInt_arrives h (exec_vcvtZ32F32 ..),
    roundedLanesArrive_of_vecRound h (exec_vcvtF32I32 ..) fun i => by rw [lane_eq_getElem]; rfl,
    roundedLanesArrive_of_vecRound h (exec_vcvtF32Z32 ..) fun i => by rw [lane_eq_getElem]; rfl⟩

end Sys2Proof.Machine
end

section
/-! SUPPORT. Block operations (R104-R106): a rounding mode chosen by the block's scale, and the fields of a lane that hold scale and
special byte. -/

namespace Sys2Proof.Machine

theorem modeOf_rne_or (s : State) (c : Prop) [Decidable c] (rm : BitVec 3) :
    modeOf s (if c then 1 else rm) = if c then 0 else modeOf s rm := by
  split <;> rfl

theorem extractLsb'_eq_setWidth_ushiftRight (x : Word) (k n : Nat) : x.extractLsb' k n = (x >>> k).setWidth n := by
  refine BitVec.eq_of_getLsbD_eq fun i hi => ?_
  simp [hi]

/-- `VBUNPK` rounds as any other instruction, in RNE where its scale is 0xFF (R106, log entry 31). -/
theorem exec_vbunpk_eq_vecRound {s : State} {d a b : BitVec 5} {rm : BitVec 3} {fmt rd p : BitVec 2} {h : Bool}
    (hi : mayIssue anywhere ⟨vsrc2 a b, [.v d]⟩ s = true) :
    exec (.vbunpk d a b rm fmt rd p h) s = vecRound (wordVbunpk d a b rm fmt rd p h) d (vsrc2 a b)
      (if (lane (readV s b) p.toNat).extractLsb' 0 8 = 0xFF then 1 else rm) 1 (fun s i r _ =>
        roundFp32 r (blockValue (narrowFmt fmt (readingOf rd)) (fmt == 2) ((lane (readV s b) p.toNat).extractLsb' 0 8)
          (some ((lane (readV s b) p.toNat).extractLsb' 8 8))
          (unpackCode (fmt == 2) (readV s a) p.toNat ((if h then 16 else 0) + i)))) s := by
  refine ((exec_vbunpk ..).trans (gate_issue hi)).trans (.trans ?_ (gate_issue hi).symm)
  simp only [modeOf_rne_or]
  rfl

/-- The position of `VBPACK` from its two bits. -/
theorem position_eq (hi lo : Bool) : (if hi then 2 else 0) + (if lo then 1 else 0) = 2 * hi.toNat + lo.toNat := by
  cases hi <;> cases lo <;> rfl

/-- `VBPACK` with nothing in the way: its codes at their position, and the old lanes elsewhere (R105). -/
theorem exec_vbpack_late {s : State} {d a b : BitVec 5} {rm : BitVec 3} {fmt rd : BitVec 2} {pHi pLo : Bool}
    (h : mayIssue anywhere ⟨vsrc2 a b, [.v d]⟩ s = true) :
    let codes := packCodes s (modeOf s rm) (narrowFmt fmt (readingOf rd)) (fmt == 2) (blockWords s a b)
    let n := if fmt == 2 then 4 else 8
    let at_ := n * ((if pHi then 2 else 0) + (if pLo then 1 else 0))
    exec (.vbpack d a b rm pHi fmt rd pLo) s = .next (retire (deliverLater
      (.vector d (vregOf fun i =>
        if at_ ≤ i ∧ i < at_ + n then packedLane (fmt == 2) codes.1 (i - at_) else lane (readV s d) i))
      (raiseFlags codes.2 (advanceRsr 0xFFFF (modeOf s rm) 2 (issued s))))) :=
  (exec_vbpack ..).trans (gate_issue h)

/-- Settles O43: `VBSCALE` and `VBAMAX` lane by lane, `VBPACK` by `exec_vbpack_late`, `VBUNPK` as an instruction that rounds. -/
theorem vectorBlocks : Obligations.VectorBlocks := by
  unfold Obligations.VectorBlocks
  intro s d a b rm fmt rd p pHi pLo upper h
  rw [← modeOf_eq]
  intro mode words f small n at_ scale special codes
  refine ⟨lanesArrive_of_vecLanes h (exec_vbscale ..) fun _ => rfl, lanesArrive_of_vecLanes h (exec_vbamax ..) fun _ => rfl,
    ⟨_, _, exec_vbpack_late h, fun i => ?_, ?_, fun i => ?_⟩, ?_⟩
  · rw [getElem_vregOf, position_eq, lane_eq_getElem]
    rfl
  · rw [advanceRsr_frame]
    rfl
  · have hall : ∀ i : Fin 16, (0xFFFF : BitVec 16).getLsbD i = true := by decide
    refine (getElem_laneRsr_advanceRsr ..).trans ?_
    simp only [hall, and_true]
    rfl
  · have hp : p.toNat < 16 := by omega
    have hscale : (lane (readV s b) p.toNat).extractLsb' 0 8 = scale := by
      rw [lane, vgetD_eq_getElem _ _ hp, extractLsb'_eq_setWidth_ushiftRight, BitVec.ushiftRight_zero]
    have hspecial : (lane (readV s b) p.toNat).extractLsb' 8 8 = special := by
      rw [lane, vgetD_eq_getElem _ _ hp, extractLsb'_eq_setWidth_ushiftRight]
    rw [← hscale, ← hspecial, ← modeOf_rne_or]
    exact roundedLanesArrive_of_vecRound h (exec_vbunpk_eq_vecRound h) fun _ => rfl

end Sys2Proof.Machine
end

section
/-! SUPPORT. Lane reductions (R107): the tree of neighbours over 16 lanes. -/

namespace Sys2Proof.Machine

/-- The tree of R107 over sixteen entries. -/
def neighbourTree {α : Type} (f : α → α → α) (x : Nat → α) : α :=
  f (f (f (f (x 0) (x 1)) (f (x 2) (x 3))) (f (f (x 4) (x 5)) (f (x 6) (x 7))))
    (f (f (f (x 8) (x 9)) (f (x 10) (x 11))) (f (f (x 12) (x 13)) (f (x 14) (x 15))))

/-- A node of the tree with its flags beside it. -/
def flaggedNode (f : Word → Word → Word × Flags) (p q : Word × Flags) : Word × Flags :=
  ((f p.1 q.1).1, p.2 ||| q.2 ||| (f p.1 q.1).2)

/-- The four stages over sixteen lanes are the tree. -/
theorem redTree_range (f : Word → Word → Word × Flags) (x : Nat → Word) :
    redTree f ((List.range 16).map x) = neighbourTree (flaggedNode f) (fun i => (x i, 0)) := rfl

/-- A tree of nodes that raise no flag raises none. -/
theorem neighbourTree_unflagged {f : Word → Word → Word × Flags} {g : Word → Word → Word} (hf : ∀ x y, f x y = (g x y, 0))
    (x : Nat → Word) : neighbourTree (flaggedNode f) (fun i => (x i, 0)) = (neighbourTree g x, 0) := by
  have hnode (u v : Word) : flaggedNode f (u, 0) (v, 0) = (g u v, 0) := by
    rw [flaggedNode, hf]
    exact Prod.ext rfl (by decide : (0 : Flags) ||| 0 ||| 0 = 0)
  simp only [neighbourTree, hnode]

/-- What lane i of a reduction's source enters the tree as. -/
def reduceInput (s : State) (a : BitVec 5) (ident : Word) (pre : Word → Word) (i : Nat) : Word :=
  if (topMask s).getLsbD i then pre (lane (readV s a) i) else ident

section forms
variable {ins : Instr} {w : Word} {s : State} {d a : BitVec 5} {ident : Word} {pre : Word → Word}

/-- A reduction with nothing in the way brings its tree to lane 0, the flags of the nodes to `FPFLAG`, and nothing else. -/
theorem vecReduce_late {f : State → Word → Word → Word × Flags} {r : Word × Flags}
    (h : mayIssue anywhere ⟨[srcV a], [.v d]⟩ s = true) (he : exec ins s = vecReduce w d a ident pre f s)
    (hr : neighbourTree (flaggedNode (f (issued s))) (fun i => (reduceInput s a ident pre i, 0)) = r) :
    ∃ v : VReg, v[0] = r.1 ∧ (∀ i : Fin 16, i ≠ 0 → v[i] = (readV s d)[i])
      ∧ exec ins s = .next (retire (deliverLater (.vector d v) (raiseFlags r.2 (issued s)))) := by
  have hlate : exec ins s = .next (retire (deliverLater
      (.vector d (vregOf fun i => if i = 0 then r.1 else lane (readV s d) i)) (raiseFlags r.2 (issued s)))) := by
    rw [he, vecReduce, gate_issue h, ← hr, ← redTree_range]
    rfl
  refine ⟨_, getElem_vregOf _ 0, fun i hi => ?_, hlate⟩
  have hi' : i.val ≠ 0 := fun e => hi (Fin.ext e)
  rw [getElem_vregOf, if_neg hi', lane_eq_getElem]

/-- A reduction whose nodes raise no flag. -/
theorem vecReduce_unflagged {f : Word → Word → Word × Flags} {g : Word → Word → Word} {x : Word}
    (h : mayIssue anywhere ⟨[srcV a], [.v d]⟩ s = true) (he : exec ins s = vecReduce w d a ident pre (fun _ => f) s)
    (hf : ∀ x y, f x y = (g x y, 0)) (hx : neighbourTree g (reduceInput s a ident pre) = x) :
    ∃ v : VReg, v[0] = x ∧ (∀ i : Fin 16, i ≠ 0 → v[i] = (readV s d)[i])
      ∧ exec ins s = .next (retire (deliverLater (.vector d v) (raiseFlags 0 (issued s)))) :=
  vecReduce_late h he (r := (x, 0)) (by rw [neighbourTree_unflagged hf, hx])

end forms

/-- Settles O44: all seven instructions by the form `vecReduce`, six of them without flags. -/
theorem laneReductions : Obligations.LaneReductions := by
  unfold Obligations.LaneReductions
  intro s d a rm h
  rw [← modeOf_eq]
  intro mode rnd inputs tree into0 plain node sum
  have plain_of {ins : Instr} {w ident : Word} {pre : Word → Word} {f : Word → Word → Word × Flags} (g : Word → Word → Word)
      (he : exec ins s = vecReduce w d a ident pre (fun _ => f) s) (hf : ∀ x y, f x y = (g x y, 0)) : plain ins ident pre g := by
    have htree : neighbourTree g (reduceInput s a ident pre) = tree g (inputs ident pre) := rfl
    exact vecReduce_unflagged h he hf htree
  have hmagnitude : (fun x : Word => x &&& 0x7FFFFFFF) = fun x => 0#1 ++ x.extractLsb' 0 31 := funext and_sign32_eq
  have hsum : neighbourTree (flaggedNode fun x y => f32Result rnd ((valF32 x).add rnd (valF32 y)))
      (fun i => (reduceInput s a 0x80000000 id i, 0)) = sum := rfl
  have hmax (x y : Word) : (if x.slt y then y else x, (0 : Flags)) = (if x.toInt < y.toInt then y else x, 0) := by
    simp only [BitVec.slt_iff_toInt_lt]
  have hmin (x y : Word) : (if y.slt x then y else x, (0 : Flags)) = (if y.toInt < x.toInt then y else x, 0) := by
    simp only [BitVec.slt_iff_toInt_lt]
  refine ⟨vecReduce_late h (exec_vraddF32 ..) hsum, plain_of _ (exec_vrmaxF32 ..) fun _ _ => rfl,
    plain_of _ (exec_vrminF32 ..) fun _ _ => rfl, ?_, plain_of _ (exec_vraddI32 ..) fun _ _ => rfl,
    (plain_of _ (exec_vrmaxI32 ..) hmax :), (plain_of _ (exec_vrminI32 ..) hmin :)⟩
  rw [← hmagnitude]
  exact plain_of _ (exec_vramaxF32 ..) fun _ _ => rfl

end Sys2Proof.Machine
end

section
/-! SUPPORT. Vector loads and stores of the pool with nothing in the way of issue (R79, R89, R109). -/

namespace Sys2Proof.Machine

/-- Byte k of a little-endian bit vector. -/
theorem leBytes_toNat_getD {w n k : Nat} (x : BitVec w) (h : k < n) :
    (leBytes n x.toNat).getD k 0 = x.extractLsb' (8 * k) 8 := by
  rw [leBytes_getD n x.toNat k h]
  refine BitVec.eq_of_toNat_eq ?_
  rw [BitVec.toNat_ofNat, BitVec.extractLsb'_toNat, Nat.shiftRight_eq_div_pow, Nat.pow_mul]

/-- The first lanes of a masked vector written to the pool. -/
def poolLanesBelow (n : Nat) (mask : BitVec 16) (a : Nat) (v : VReg) (s : State) : State :=
  (List.range n).foldl (fun s i => if mask.getLsbD i then poolWrite (a + 4 * i) (leBytes 4 (lane v i).toNat) s else s) s

theorem poolLanesBelow_succ (n : Nat) (mask : BitVec 16) (a : Nat) (v : VReg) (s : State) :
    poolLanesBelow (n + 1) mask a v s = if mask.getLsbD n then
      poolWrite (a + 4 * n) (leBytes 4 (lane v n).toNat) (poolLanesBelow n mask a v s) else poolLanesBelow n mask a v s := by
  rw [poolLanesBelow, List.range_succ, List.foldl_append]
  rfl

/-- A pool byte after the first n lanes have been written: the byte of its active lane, or the old one. -/
theorem poolByte_poolLanesBelow (n : Nat) (mask : BitVec 16) (a : Nat) (v : VReg) (s : State) (k : Nat) :
    poolByte (poolLanesBelow n mask a v s) k = if a ≤ k ∧ k < a + 4 * n ∧ mask.getLsbD ((k - a) / 4) = true then
      (lane v ((k - a) / 4)).extractLsb' (8 * ((k - a) % 4)) 8 else poolByte s k := by
  induction n with
  | zero => rw [if_neg (by omega)]; rfl
  | succ n ih =>
    have hother (hk : ¬ (a + 4 * n ≤ k ∧ k < a + 4 * n + 4)) : poolByte (poolLanesBelow n mask a v s) k
        = if a ≤ k ∧ k < a + 4 * (n + 1) ∧ mask.getLsbD ((k - a) / 4) = true then
            (lane v ((k - a) / 4)).extractLsb' (8 * ((k - a) % 4)) 8 else poolByte s k := by
      rw [ih]
      exact if_congr (by constructor <;> (rintro ⟨h1, h2, h3⟩; exact ⟨h1, by omega, h3⟩)) rfl rfl
    rw [poolLanesBelow_succ]
    by_cases hk : a + 4 * n ≤ k ∧ k < a + 4 * n + 4
    · have hlane : (k - a) / 4 = n := by omega
      by_cases hm : mask.getLsbD n = true
      · rw [if_pos hm, poolByte_poolWrite, leBytes_length, if_pos hk, leBytes_toNat_getD _ (by omega), hlane,
          if_pos ⟨by omega, by omega, hm⟩, show (k - a) % 4 = k - (a + 4 * n) by omega]
      · rw [if_neg hm, ih, if_neg (by omega), hlane, if_neg fun h => hm h.2.2]
    · split
      · rw [poolByte_poolWrite, leBytes_length, if_neg hk, hother hk]
      · exact hother hk

/-- Writing lanes changes the listed pool bytes only. -/
theorem poolLanesBelow_frame (n : Nat) (mask : BitVec 16) (a : Nat) (v : VReg) (s : State) :
    ∃ l, poolLanesBelow n mask a v s = { s with core.pool.cells := l } := by
  induction n with
  | zero => exact ⟨_, rfl⟩
  | succ n ih =>
    obtain ⟨l, hl⟩ := ih
    rw [poolLanesBelow_succ]
    split
    · obtain ⟨l', hl'⟩ := poolWrite_frame (leBytes 4 (lane v n).toNat) (a + 4 * n) (poolLanesBelow n mask a v s)
      exact ⟨l', by rw [hl', hl]⟩
    · exact ⟨l, hl⟩

/-- What the pool holds after the active lanes of a register have been stored, and what stays (R109). -/
theorem poolLanes_stores (mask : BitVec 16) (a : Nat) (v : VReg) (s : State) :
    (∀ k, poolByte (poolLanes mask a v s) k = if a ≤ k ∧ k < a + 64 ∧ mask.getLsbD ((k - a) / 4) = true then
      (lane v ((k - a) / 4)).extractLsb' (8 * ((k - a) % 4)) 8 else poolByte s k)
    ∧ (∀ k, memByte (poolLanes mask a v s) k = memByte s k) ∧ (poolLanes mask a v s).core.regs = s.core.regs := by
  have hlanes : poolLanes mask a v s = poolLanesBelow 16 mask a v s := rfl
  obtain ⟨l, hframe⟩ := poolLanesBelow_frame 16 mask a v s
  refine ⟨fun k => hlanes ▸ poolByte_poolLanesBelow .., fun k => ?_, ?_⟩
  · rw [hlanes, hframe]
    rfl
  · rw [hlanes, hframe]

section forms
variable {s : State} {i : Instr} {w : Word} {d a : BitVec 5} {idx : Option (BitVec 5)} {addr : State → DWord}
  {check : State → DWord → PoolCheck} {pool : State → DWord → Nat}

/-- A vector pool load: what its check decides. -/
theorem exec_eq_of_vecLoad (h : mayIssue anywhere ⟨addrSrcs a idx, [.v d]⟩ s = true)
    (he : exec i s = vecLoad w d a idx addr check pool s) :
    (check (issued s) (addr (issued s)) = none → exec i s = .next (retire (deliverLater
        (.vector d (loadLanes (topMask s) (readV s d) (poolRead s (pool (issued s) (addr (issued s))) 64))) (issued s))))
    ∧ ∀ c x, check (issued s) (addr (issued s)) = some (c, x) → exec i s = trap c x (issued s) := by
  have hissue := he.trans (gate_issue h)
  refine ⟨fun hc => hissue.trans ?_, fun c x hc => hissue.trans ?_⟩
  · simp only [hc]
    rfl
  · simp only [hc]

/-- A vector pool store: what its check decides. -/
theorem exec_eq_of_vecStore (h : mayIssue anywhere ⟨addrSrcs a idx ++ [srcV d], []⟩ s = true)
    (he : exec i s = vecStore w d a idx addr check pool s) :
    (check (issued s) (addr (issued s)) = none → exec i s = .next (retire
        (poolLanes (topMask s) (pool (issued s) (addr (issued s))) (readV s d) (issued s))))
    ∧ ∀ c x, check (issued s) (addr (issued s)) = some (c, x) → exec i s = trap c x (issued s) := by
  have hissue := he.trans (gate_issue h)
  refine ⟨fun hc => hissue.trans ?_, fun c x hc => hissue.trans ?_⟩
  · simp only [hc]
    rfl
  · simp only [hc]

end forms

/-- An aligned offset within the pool but beyond the AC banks is reported as the offset (R109, log entry 33). -/
theorem acCheck_beyond {s : State} {o : DWord} (load : Bool) (hpool : acBase s + o.toNat < 2 ^ 17)
    (halign : (acBase s + o.toNat) % 64 = 0) (hsize : acSize s < o.toNat + 64) : acCheck s o load = some (.pool, o) := by
  have ha : (dw (acBase s) + o).toNat = acBase s + o.toNat := by
    rw [BitVec.toNat_add, BitVec.toNat_ofNat]
    omega
  rw [acCheck]
  simp only [ha]
  rw [if_neg (by omega), if_neg (by omega), if_pos hsize]

/-- Settles O15: all eight instructions are `vecLoad` or `vecStore` at their address; the bytes by `poolLanes_stores`. -/
theorem vectorPoolAccess : Obligations.VectorPoolAccess := by
  unfold Obligations.VectorPoolAccess
  intro s d a i off xo xi ac loaded stored fails
  have stored_of {x : Nat} {o : Out} (h : o = .next (retire (poolLanes (topMask s) x (readV s d) (issued s)))) : stored x o := by
    obtain ⟨hpool, hmem, hregs⟩ := poolLanes_stores (topMask s) x (readV s d) (issued s)
    exact ⟨_, h, fun k => (poolByte_congr (retire_pool _) k).trans (hpool k), fun k => (memByte_retire _ k).trans (hmem k),
      (retire_regs _).trans hregs⟩
  refine ⟨fun h => ?_, fun h => ?_, fun h => ?_, fun h => ?_, fun o load => acCheck_beyond load⟩
  · obtain ⟨hload, hfail⟩ := exec_eq_of_vecLoad (idx := none) h (exec_vpld d a off s)
    obtain ⟨hload', hfail'⟩ := exec_eq_of_vecLoad (idx := none) h (exec_vlda d a off s)
    exact ⟨hload, hload', hfail, hfail'⟩
  · obtain ⟨hload, hfail⟩ := exec_eq_of_vecLoad (idx := some i) h (exec_vpldIndexed d a i s)
    obtain ⟨hload', hfail'⟩ := exec_eq_of_vecLoad (idx := some i) h (exec_vldaIndexed d a i s)
    exact ⟨hload, hload', hfail, hfail'⟩
  · obtain ⟨hstore, hfail⟩ := exec_eq_of_vecStore (idx := none) h (exec_vpst d a off s)
    obtain ⟨hstore', hfail'⟩ := exec_eq_of_vecStore (idx := none) h (exec_vsta d a off s)
    exact ⟨fun hc => stored_of (hstore hc), fun hc => stored_of (hstore' hc), hfail, hfail'⟩
  · obtain ⟨hstore, hfail⟩ := exec_eq_of_vecStore (idx := some i) h (exec_vpstIndexed d a i s)
    obtain ⟨hstore', hfail'⟩ := exec_eq_of_vecStore (idx := some i) h (exec_vstaIndexed d a i s)
    exact ⟨fun hc => stored_of (hstore hc), fun hc => stored_of (hstore' hc), hfail, hfail'⟩

end Sys2Proof.Machine
end

section
/-! SUPPORT. Scratchpad buffers with nothing in the way of issue (R137-R139, R165): the placed bits of a buffer, and its record. -/

namespace Sys2Proof.Machine

theorem bufOf_setBuf (n m : Nat) (x : Buffer) (s : State) :
    bufOf (setBuf n x s) m = if m = n ∧ n < 32 then x else bufOf s m := vgetD_setIfInBounds ..

/-- The record of a buffer that an instruction can name, once it has been replaced. -/
theorem bufOf_setBuf_same (n : BitVec 5) (x : Buffer) (s : State) : bufOf (setBuf n.toNat x s) n.toNat = x := by
  rw [bufOf_setBuf, if_pos ⟨rfl, n.isLt⟩]

theorem bufOf_setBuf_other {n m : Nat} (h : m ≠ n) (x : Buffer) (s : State) : bufOf (setBuf n x s) m = bufOf s m := by
  rw [bufOf_setBuf, if_neg fun e => h e.1]

/-- A pool address within a buffer. -/
def Buffer.Holds (x : Buffer) (a : Nat) : Prop := x.base ≤ a ∧ a < x.base + x.size

theorem mem_placed_clearPlaced (n a : Nat) (s : State) :
    a ∈ (clearPlaced n s).core.pool.placed ↔ a ∈ s.core.pool.placed ∧ ¬ (bufOf s n).Holds a := by
  rw [clearPlaced, List.mem_filter, Buffer.Holds, ← Bool.decide_and, ← decide_not, decide_eq_true_iff]

theorem mem_placed_setAllPlaced (n a : Nat) (s : State) :
    a ∈ (setAllPlaced n s).core.pool.placed
      ↔ (a ∈ s.core.pool.placed ∧ ¬ (bufOf s n).Holds a) ∨ ∃ k < (bufOf s n).size / 4, (bufOf s n).base + 4 * k = a := by
  unfold setAllPlaced
  dsimp only
  rw [List.mem_append, mem_placed_clearPlaced]
  simp

/-- What an instruction that changes the record of buffer `n` and its placed bits leaves alone. -/
def BufferChanged (n : Nat) (s t : State) : Prop :=
  t.core.pool.cells = s.core.pool.cells
    ∧ t = { issued s with core.pool := t.core.pool }
    ∧ t.core.pool = { s.core.pool with bufs := t.core.pool.bufs, placed := t.core.pool.placed, unchecked := t.core.pool.unchecked }
    ∧ (∀ a, ¬ (a ∈ s.core.pool.placed ↔ a ∈ t.core.pool.placed) →
        (bufOf t n).base ≤ a ∧ a < (bufOf t n).base + (bufOf t n).size)
    ∧ ∀ m, m ≠ n → bufOf t m = bufOf s m

theorem bufferChanged_setBuf (n : BitVec 5) (x : Buffer) (s : State) :
    BufferChanged n.toNat s (setBuf n.toNat x (issued s)) :=
  ⟨rfl, rfl, rfl, fun _ h => absurd Iff.rfl h, fun _ hm => bufOf_setBuf_other hm ..⟩

theorem bufferChanged_clearPlaced (n : BitVec 5) (x : Buffer) (s : State) :
    BufferChanged n.toNat s (clearPlaced n.toNat (setBuf n.toNat x (issued s))) := by
  refine ⟨rfl, rfl, rfl, fun a h => ?_, fun _ hm => bufOf_setBuf_other hm ..⟩
  by_contra hout
  exact h ((mem_placed_clearPlaced n.toNat a (setBuf n.toNat x (issued s))).trans (and_iff_left hout)).symm

theorem bufferChanged_setAllPlaced (n : BitVec 5) (x : Buffer) (s : State) :
    BufferChanged n.toNat s (setAllPlaced n.toNat (setBuf n.toNat x (issued s))) := by
  refine ⟨rfl, rfl, rfl, fun a h => ?_, fun _ hm => bufOf_setBuf_other hm ..⟩
  by_contra hout
  refine h (Iff.symm ((mem_placed_setAllPlaced ..).trans ⟨?_, fun ha => .inl ⟨ha, hout⟩⟩))
  rintro (⟨ha, -⟩ | ⟨k, hk, rfl⟩)
  · exact ha
  · exact absurd (show (bufOf (setBuf n.toNat x (issued s)) n.toNat).Holds _ from ⟨by omega, by omega⟩) hout

/-! ## What each form answers -/

section forms
variable {s : State} {n a b : BitVec 5} {fa fb : Bool} {st : BitVec 2}

/-- The record that `BUFDEF` writes. -/
def declaredBuffer (base desc : DWord) : Buffer :=
  ⟨true, base.toNat, fieldN desc 0 17, if fieldN desc 17 2 = 2 then .full else .empty, false, 0, 0⟩

theorem execBufdef_issues (h : mayIssue anywhere ⟨[srcS a fa, srcS b fb], []⟩ s = true) :
    (bufdefCheck s n.toNat (readS s a) (readS s b) = none →
      exec (.bufdef n a b fa fb) s = .next (retire (if fieldN (readS s b) 17 2 = 2
        then setAllPlaced n.toNat (setBuf n.toNat (declaredBuffer (readS s a) (readS s b)) (issued s))
        else clearPlaced n.toNat (setBuf n.toNat (declaredBuffer (readS s a) (readS s b)) (issued s)))))
    ∧ ∀ c y, bufdefCheck s n.toNat (readS s a) (readS s b) = some (c, y) →
      exec (.bufdef n a b fa fb) s = trap c y (issued s) := by
  rw [exec_bufdef, execBufdef, gate_issue h]
  have hcheck : bufdefCheck (issued s) n.toNat (readS (issued s) a) (readS (issued s) b)
      = bufdefCheck s n.toNat (readS s a) (readS s b) := rfl
  rw [hcheck]
  refine ⟨fun hc => ?_, fun c y hc => ?_⟩
  · rw [hc]
    rfl
  · rw [hc]

theorem execBufrel_issues (h : mayIssue anywhere {} s = true) :
    exec (.bufrel n) s = if (bufOf s n.toNat).declared = true ∧ (bufOf s n.toNat).state = .full then
      .next (retire (clearPlaced n.toNat (setBuf n.toNat
        { bufOf s n.toNat with state := .empty, readers := 0, remoteWriter := false } (issued s))))
      else trap .buffer (n.setWidth 64) (issued s) := by
  rw [exec_bufrel, execBufrel, gate_issue h]
  rfl

theorem execBufrelFree_issues (h : mayIssue anywhere {} s = true) :
    exec (.bufrelFree n) s
      = if (bufOf s n.toNat).declared = true ∧ ((bufOf s n.toNat).state = .full ∨ (bufOf s n.toNat).state = .empty) then
        .next (retire (setBuf n.toNat Buffer.none (issued s))) else trap .buffer (n.setWidth 64) (issued s) := by
  rw [exec_bufrelFree, execBufrelFree, gate_issue h]
  rfl

theorem execBufwait_issues (h : mayIssue anywhere {} s = true) :
    ∃ k, exec (.bufwait n st) s = if (bufOf s n.toNat).declared = false then trap .buffer (n.setWidth 64) (issued s)
      else if (bufOf s n.toNat).state.code = st then .next (retire (issued s)) else waitOn k (issued s) := by
  rw [exec_bufwait, execBufwait, gate_issue h]
  dsimp only
  change ∃ k, (if (!(bufOf s n.toNat).declared) = true then _ else if (bufOf s n.toNat).state.code = st then _ else waitOn _ _) = _
  exact ⟨_, if_congr (iff_of_eq (Bool.not_eq_true' _)) rfl rfl⟩

end forms

/-- Settles O49: the frames by `BufferChanged`, the placed bits by `mem_placed_clearPlaced` and `mem_placed_setAllPlaced`. -/
theorem buffers : Obligations.Buffers := by
  unfold Obligations.Buffers
  intro s n a b fa fb st x kept words
  refine ⟨fun h => ?_, fun h => ?_⟩
  · intro base size full
    obtain ⟨hok, hbad⟩ := execBufdef_issues h
    refine ⟨fun hc => ?_, hbad⟩
    have hexec := hok hc
    have hsize : fieldN (readS s b) 0 17 = size := fieldN_eq (readS s b) 0 17 |>.trans (by rw [Nat.pow_zero, Nat.div_one])
    have hfull : fieldN (readS s b) 17 2 = 2 ↔ full := Eq.to_iff (congrArg (· = 2) (fieldN_eq (readS s b) 17 2))
    have hbuf := bufOf_setBuf_same n (declaredBuffer (readS s a) (readS s b)) (issued s)
    by_cases hf : full
    · rw [if_pos (hfull.mpr hf)] at hexec
      refine ⟨_, hexec, bufferChanged_setAllPlaced .., ?_⟩
      have hb : bufOf (setAllPlaced n.toNat (setBuf n.toNat (declaredBuffer (readS s a) (readS s b)) (issued s))) n.toNat
          = ⟨true, base, size, .full, false, 0, 0⟩ := by
        refine hbuf.trans ?_
        rw [declaredBuffer, if_pos (hfull.mpr hf), hsize]
      rw [hb]
      refine ⟨rfl, rfl, rfl, fun _ => ⟨rfl, fun k hk => ?_⟩, fun hn => absurd hf hn⟩
      rw [mem_placed_setAllPlaced, hbuf]
      exact .inr ⟨k, by rwa [declaredBuffer, hsize], rfl⟩
    · rw [if_neg (mt hfull.mp hf)] at hexec
      refine ⟨_, hexec, bufferChanged_clearPlaced .., ?_⟩
      have hb : bufOf (clearPlaced n.toNat (setBuf n.toNat (declaredBuffer (readS s a) (readS s b)) (issued s))) n.toNat
          = ⟨true, base, size, .empty, false, 0, 0⟩ := by
        refine hbuf.trans ?_
        rw [declaredBuffer, if_neg (mt hfull.mp hf), hsize]
      refine ⟨by rw [hb], by rw [hb], by rw [hb], fun hn => absurd hn hf, fun _ => ⟨by rw [hb], fun w hw => ?_⟩⟩
      exact ((mem_placed_clearPlaced ..).mp hw).2
  · have hrel := execBufrel_issues (n := n) h
    have hfree := execBufrelFree_issues (n := n) h
    obtain ⟨k, hwait⟩ := execBufwait_issues (n := n) (st := st) h
    refine ⟨fun hd hf => ⟨_, hrel.trans (if_pos ⟨hd, hf⟩), bufferChanged_clearPlaced .., bufOf_setBuf_same .., fun w hw => ?_⟩,
      fun hn => hrel.trans (if_neg hn),
      fun hd hf => ⟨_, hfree.trans (if_pos ⟨hd, hf⟩), bufferChanged_setBuf .., bufOf_setBuf_same .., rfl⟩,
      fun hn => hfree.trans (if_neg hn), fun hd hst => ?_, fun hd hst => ⟨k, ?_⟩, fun hd => hwait.trans (if_pos hd)⟩
    · have hout := ((mem_placed_clearPlaced ..).mp hw).2
      rwa [bufOf_setBuf_same] at hout
    · rw [hwait, if_neg (by rw [hd]; exact Bool.noConfusion), if_pos hst]
    · rw [hwait, if_neg (by rw [hd]; exact Bool.noConfusion), if_neg hst]

end Sys2Proof.Machine
end

section
/-! SUPPORT. Grid and token instructions with nothing in the way of issue (R116, R123, R124). -/

namespace Sys2Proof.Machine

/-! ## Bytes of a configuration bank -/

/-- Bytes after a list of bytes has been written to a canonical list of cells. -/
theorem cellsGet_cellsWrite {d : Byte} (bs : List Byte) : ∀ (l : List Host.Cell) (a x : Nat), cellsWfFrom d none l = true →
    cellsGet d (cellsWrite d l a bs) x = if a ≤ x ∧ x < a + bs.length then bs.getD (x - a) 0 else cellsGet d l x := by
  induction bs with
  | nil =>
    intro l a x _
    rw [if_neg (by rw [List.length_nil]; omega)]
    rfl
  | cons b r ih =>
    intro l a x hl
    rw [cellsWrite, ih _ _ _ (cellsSet_wf a b hl), cellsGet_cellsSet a b x l none hl, List.length_cons]
    by_cases hx : x = a
    · subst hx
      rw [if_neg (by omega), if_pos rfl, if_pos (by omega), Nat.sub_self, List.getD_cons_zero]
    · by_cases hin : a + 1 ≤ x ∧ x < a + 1 + r.length
      · rw [if_pos hin, if_pos (by omega), show x - a = x - (a + 1) + 1 by omega, List.getD_cons_succ]
      · rw [if_neg hin, if_neg hx, if_neg (by omega)]

/-- The bytes of the low word of a doubleword. -/
theorem leBytes_lo32_getD {x : DWord} {k : Nat} (h : k < 4) : (leBytes 4 (lo32 x).toNat).getD k 0 = x.extractLsb' (8 * k) 8 := by
  rw [leBytes_toNat_getD _ h]
  refine BitVec.eq_of_getLsbD_eq fun i hi => ?_
  simp only [BitVec.getLsbD_extractLsb', lo32, BitVec.getLsbD_setWidth]
  simp only [hi, decide_true, Bool.true_and, show 8 * k + i < 32 by omega]

/-! ## A vector register as a token -/

/-- The low bytes of a little-endian number. -/
theorem leNat_take (m : Nat) : ∀ l : List Byte, leNat (l.take m) = leNat l % 256 ^ m := by
  induction m with
  | zero => intro l; simp [leNat, Nat.mod_one]
  | succ m ih =>
    intro l
    cases l with
    | nil => simp [leNat]
    | cons b r =>
      have := b.isLt
      have hdiv : (b.toNat + 256 * leNat r) / 256 = leNat r := by omega
      rw [List.take_succ_cons, leNat, leNat, ih, Nat.pow_succ, Nat.mul_comm (256 ^ m), Nat.mod_mul, hdiv]
      omega

theorem leNat_leBytes_append (n x : Nat) (r : List Byte) : leNat (leBytes n x ++ r) = x % 256 ^ n + 256 ^ n * leNat r := by
  induction n generalizing x with
  | zero => simp [leBytes, Nat.mod_one]
  | succ n ih =>
    rw [leBytes, List.cons_append, leNat, ih, BitVec.toNat_ofNat, Nat.pow_succ 256, Nat.mul_comm (256 ^ n) 256, Nat.mod_mul, Nat.mul_add,
      Nat.mul_assoc, Nat.add_assoc]

/-- Word `k` of the little-endian number that a list of words makes up. -/
theorem leNat_words (l : List Word) (k : Nat) :
    leNat (l.flatMap fun w => leBytes 4 w.toNat) / 2 ^ (32 * k) % 2 ^ 32 = (l.getD k 0).toNat := by
  induction l generalizing k with
  | nil => simp [leNat]
  | cons w r ih =>
    have hw := w.isLt
    rw [List.flatMap_cons, leNat_leBytes_append, show (256 : Nat) ^ 4 = 2 ^ 32 from rfl, Nat.mod_eq_of_lt hw]
    cases k with
    | zero =>
      rw [List.getD_cons_zero]
      omega
    | succ k =>
      rw [List.getD_cons_succ, ← ih k, show 32 * (k + 1) = 32 + 32 * k by omega, Nat.pow_add, ← Nat.div_div_eq_div_mul,
        Nat.add_mul_div_left _ _ (by decide : 0 < 2 ^ 32), Nat.div_eq_of_lt hw, Nat.zero_add]

/-- A token holds lanes 0 to 7. -/
theorem extractLsb'_vecToken (v : VReg) (i : Fin 8) : (vecToken v).extractLsb' (32 * i) 32 = lane v i := by
  refine BitVec.eq_of_toNat_eq ?_
  have hlane : (v.toList.getD i 0).toNat = (lane v i).toNat := by simp [lane, vgetD, List.getD]
  have hsplit : 2 ^ 256 = 2 ^ (32 * i.val) * 2 ^ (256 - 32 * i.val) := by rw [← Nat.pow_add]; congr 1; omega
  have hdvd : 2 ^ 32 ∣ 2 ^ (256 - 32 * i.val) := Nat.pow_dvd_pow 2 (by omega)
  rw [BitVec.extractLsb'_toNat, vecToken, BitVec.toNat_ofNat, leNat_take, show (256 : Nat) ^ 32 = 2 ^ 256 from rfl, Nat.mod_mod,
    Nat.shiftRight_eq_div_pow, hsplit, Nat.mod_mul_right_div_self, Nat.mod_mod_of_dvd _ hdvd, vregBytes, leNat_words, hlane]

/-! ## The end of the streams of a grid -/

/-- What ends of streams change: the streams, their commands, and the feed queue that takes back tokens. -/
def StreamsCut (s t : State) : Prop :=
  ∃ e x f, t = { s with core.eng.exec := e, core.eng.streams := x, core.grid.feed := f }

theorem StreamsCut.refl (s : State) : StreamsCut s s := ⟨_, _, _, rfl⟩

theorem StreamsCut.trans {s t u : State} (h : StreamsCut s t) (h' : StreamsCut t u) : StreamsCut s u := by
  obtain ⟨_, _, _, rfl⟩ := h
  obtain ⟨_, _, _, rfl⟩ := h'
  exact ⟨_, _, _, rfl⟩

theorem StreamsCut.ite {c : Prop} [Decidable c] {s t u : State} (h : StreamsCut s t) (h' : StreamsCut s u) :
    StreamsCut s (if c then t else u) := by
  split
  · exact h
  · exact h'

theorem StreamsCut.foldl {α : Type} {f : State → α → State} (h : ∀ s x, StreamsCut s (f s x)) (l : List α) (s : State) :
    StreamsCut s (l.foldl f s) := by
  induction l generalizing s with
  | nil => exact .refl s
  | cons x l ih => exact (h s x).trans (ih _)

theorem streamsCut_updExec (q : Nat) (f : Running → Running) (s : State) : StreamsCut s (updExec q f s) :=
  ⟨_, _, _, updExec_frame q f s⟩

theorem streamsCut_rewindAhead (se : Nat) (s : State) : StreamsCut s (rewindAhead se s) := by
  unfold rewindAhead
  split
  · split
    · exact .refl s
    · exact (StreamsCut.ite (t := { s with core.grid.feed := _ }) ⟨_, _, _, rfl⟩ (.refl s)).trans ⟨_, _, _, rfl⟩
  · exact .refl s

theorem streamsCut_endStream (se : Nat) (s : State) : StreamsCut s (endStream se s) :=
  (streamsCut_rewindAhead se s).trans (streamsCut_updExec ..)

/-- The grid as `GSTOP` leaves it: no iteration enters after the step boundary. -/
def GridRun.stopped (r : GridRun) : GridRun :=
  { r with trip := min r.trip r.st.step, last := r.last - (r.trip - min r.trip r.st.step), stopping := true }

/-- A state in which the grid runs `r`. -/
def gridRuns (r : GridRun) (s : State) : State := { s with core.grid.run := some r }

theorem streamsCut_stopGrid (r : GridRun) (s : State) : StreamsCut (gridRuns r.stopped s) (stopGrid r s) := by
  unfold stopGrid
  extract_lets trip last _ _ s1 s2
  have h2 : StreamsCut s1 s2 := .foldl (fun s i => by
    split
    · exact .ite (streamsCut_endStream ..) (.refl s)
    · exact .refl s) _ s1
  exact h2.trans (.ite (streamsCut_updExec ..) (.refl s2))

/-! ## What each form answers -/

section forms
variable {s : State} {n : BitVec 2} {lvl d3 : BitVec 3} {a d : BitVec 5} {fa : Bool}

theorem execGsel_issues (h : mayIssue anywhere {} s = true) :
    (n ≠ s.core.grid.activeBank → exec (.gsel n) s = .next (retire { issued s with core.grid.shadowBank := n }))
    ∧ (n = s.core.grid.activeBank → exec (.gsel n) s = illegal (wordGsel n) s) := by
  obtain ⟨hg, hu⟩ := mayIssue_iff.mp h
  rw [exec_gsel, execGsel, gate_of_open hg]
  exact ⟨fun hn => (if_neg hn).trans (issue_of_free hu), fun hn => if_pos hn⟩

theorem execGstop_idle (h : mayIssue anywhere {} s = true) (hidle : gridExecuting s = false) :
    exec .gstop s = .next (retire (issued s)) := by
  rw [exec_gstop, execGstop, gate_issue h]
  exact if_pos (congrArg (!·) hidle)

/-- `GSTOP` on a grid command in execution: a `GGO`, a `GMMA`, or a command that has not read its descriptors yet. -/
theorem execGstop_executing (h : mayIssue anywhere {} s = true) (hrun : gridExecuting s = true) :
    (∀ r, s.core.grid.run = some r → exec .gstop s = .next (retire (stopGrid r (issued s))))
    ∧ (∀ m, s.core.grid.run = none → s.core.grid.gmma = some m →
      exec .gstop s = .next (retire { issued s with core.grid.gmma := some { m with stopping := true } }))
    ∧ (s.core.grid.run = none → s.core.grid.gmma = none →
      exec .gstop s = .next (retire (updExec 4 (fun x => { x with stopping := true }) (issued s)))) := by
  have hgo : ¬ (!gridExecuting (issued s)) = true := by
    have : gridExecuting (issued s) = true := hrun
    rw [this]
    decide
  rw [exec_gstop, execGstop, gate_issue h, if_neg hgo, issued_grid]
  refine ⟨fun r hr => ?_, fun m hr hm => ?_, fun hr hm => ?_⟩
  · rw [hr]
  · rw [hr, hm]
  · rw [hr, hm]

theorem execPqpop_issues (h : mayIssue anywhere {} s = true) :
    (∀ b rest, s.core.grid.pq = b :: rest →
      exec (.pqpop d3) s = .next (retire (settleQueues (writeP d3 b { issued s with core.grid.pq := rest }))))
    ∧ (s.core.grid.pq = [] → exec (.pqpop d3) s = waitOn .internal (issued s)) := by
  rw [exec_pqpop, execPqpop, gate_issue h, issued_grid]
  refine ⟨fun b rest hpq => ?_, fun hpq => ?_⟩
  · rw [hpq]
  · rw [hpq]

theorem execKwait_issues (h : mayIssue anywhere {} s = true) :
    exec (.kwait a) s = if a = 31 ∨ ((slotOf s a).cmp - (slotOf s a).iss).toNat < 2 ^ 15
      then .next (retire (issued s)) else waitOn .internal (issued s) := by
  rw [exec_kwait, execKwait, gate_issue h]
  refine if_congr ?_ rfl rfl
  rw [slotReached, Bool.or_eq_true, beq_iff_eq, decide_eq_true_iff]
  exact Iff.rfl

theorem execSnest_issues (h : mayIssue anywhere ⟨[srcS a fa], []⟩ s = true) :
    exec (.snest n a lvl fa) s = if n = s.core.grid.activeBank ∨ 6 ≤ lvl.toNat then illegal (wordSnest n a lvl fa) s
      else if nestBusy s n then waitOn .external (issued s)
      else .next (retire (setBank n (0x800 + 4 * lvl.toNat) (leBytes 4 (lo32 (readS s a)).toNat) (issued s))) := by
  obtain ⟨hg, hu⟩ := mayIssue_iff.mp h
  rw [exec_snest, execSnest, gate_of_open hg, issue_of_free hu]
  rfl

theorem execGfeed_issues (h : mayIssue anywhere ⟨[⟨.v a, fa⟩], []⟩ s = true) :
    exec (.gfeed a fa) s = if feedCap s ≤ s.core.grid.feed.length then waitOn .internal (issued s)
      else .next (retire { issued s with core.grid.feed := s.core.grid.feed ++ [vecToken (readV s a)] }) := by
  rw [exec_gfeed, execGfeed, gate_issue h]
  rfl

theorem execGpop_issues (h : mayIssue anywhere ⟨[], [.v d]⟩ s = true) :
    exec (.gpop d) s = .next (retire (setVEmpty d true { issued s with core.mq.gpops := s.core.mq.gpops ++ [d] })) := by
  rw [exec_gpop, execGpop, gate_issue h]
  rfl

/-- Both bank numbers in one doubleword. -/
theorem banks_eq (x y : BitVec 2) : (x.setWidth 64 ||| y.setWidth 64 <<< 2 : DWord) = BitVec.ofNat 64 (x.toNat + 4 * y.toNat) := by
  revert x y
  decide

theorem execGbank_issues (h : mayIssue anywhere ⟨[], [.s d]⟩ s = true) :
    exec (.gbank d) s = .next (retire (writeS d
      (BitVec.ofNat 64 (s.core.grid.activeBank.toNat + 4 * s.core.grid.shadowBank.toNat)) (issued s))) := by
  rw [exec_gbank, execGbank, gate_issue h, issued_grid, banks_eq]

end forms

/-- What `PQPOP` changes: its predicate, the queue, and grants that go back. -/
theorem settleQueues_writeP (d : BitVec 3) (b : Bool) (rest : List Bool) (s : State) :
    let t := settleQueues (writeP d b { s with core.grid.pq := rest })
    t = { s with core.regs.p := t.core.regs.p, core.grid := {
            s.core.grid with pq := rest, feedGrants := t.core.grid.feedGrants, outGrants := t.core.grid.outGrants,
                             pqGrants := t.core.grid.pqGrants } }
      ∧ ∀ p, readP t p = if p = d ∧ p ≠ 0 then b else readP s p := by
  refine ⟨?_, fun p => ?_⟩
  · rw [writeP_frame]
    rfl
  · have h := readP_writeP d p b { s with core.grid.pq := rest }
    refine h.trans (if_congr (and_congr_right fun hp => ?_) rfl rfl)
    rw [hp]

theorem execOf_setExec (q k : Nat) (r : Option Running) (s : State) :
    execOf (setExec q r s) k = if k = q ∧ q < 6 then r else execOf s k := vgetD_setIfInBounds ..

theorem updExec_of_some {q : Nat} {r : Running} {s : State} (h : execOf s q = some r) (f : Running → Running) :
    updExec q f s = setExec q (some (f r)) s := by
  rw [updExec, h]

/-- What `SNEST` writes: one word of the nest table, in one bank. -/
theorem setBank_word (n : BitVec 2) (o : Nat) (x : DWord) (s : State) :
    let t := setBank n o (leBytes 4 (lo32 x).toNat) s
    (∀ b, b ≠ n → vget (w := 2) t.core.grid.banks b = vget (w := 2) s.core.grid.banks b)
      ∧ (cellsWfFrom 0 none (vget (w := 2) s.core.grid.banks n) = true → ∀ k,
        cellsGet 0 (vget (w := 2) t.core.grid.banks n) k =
          if o ≤ k ∧ k < o + 4 then x.extractLsb' (8 * (k - o)) 8 else cellsGet 0 (vget (w := 2) s.core.grid.banks n) k) := by
  refine ⟨fun b hb => (vget_vset ..).trans (if_neg hb), fun hwf k => ?_⟩
  have hbank : vget (w := 2) (setBank n o (leBytes 4 (lo32 x).toNat) s).core.grid.banks n
      = cellsWrite 0 (vget (w := 2) s.core.grid.banks n) o (leBytes 4 (lo32 x).toNat) := (vget_vset ..).trans (if_pos rfl)
  rw [hbank, cellsGet_cellsWrite _ _ _ _ hwf, leBytes_length]
  by_cases hk : o ≤ k ∧ k < o + 4
  · rw [if_pos hk, if_pos hk, leBytes_lo32_getD (by omega)]
  · rw [if_neg hk, if_neg hk]

/-- Settles O48, instruction by instruction. -/
theorem gridAndTokens : Obligations.GridAndTokens := by
  unfold Obligations.GridAndTokens
  intro s n lvl d3 a d fa g
  refine ⟨fun h => ?_, fun h => ?_, fun h => ?_, fun h => ?_, execGbank_issues⟩
  · obtain ⟨hgsel, hgselActive⟩ := execGsel_issues (n := n) h
    obtain ⟨hpop, hpopEmpty⟩ := execPqpop_issues (d3 := d3) h
    have hkwait := execKwait_issues (a := a) h
    refine ⟨hgsel, hgselActive, execGstop_idle h, fun r hrun hr => ?_, fun m hrun => (execGstop_executing h hrun).2.1 m,
      fun r hrun hr hm hx => ?_, fun b rest hpq => ⟨_, hpop b rest hpq, settleQueues_writeP ..⟩, hpopEmpty,
      fun _ hlt => hkwait.trans (if_pos (.inr hlt)), (execKwait_issues h).trans (if_pos (.inl rfl)), fun ha hle => ?_⟩
    · obtain ⟨e, x, f, hcut⟩ := streamsCut_stopGrid r (issued s)
      rw [(execGstop_executing h hrun).1 r hr, hcut]
      exact ⟨_, r.stopped, rfl, rfl, rfl, rfl⟩
    · refine ⟨_, (execGstop_executing h hrun).2.2 hr hm, updExec_frame .., ?_⟩
      rw [updExec_of_some (show execOf (issued s) 4 = some r from hx)]
      exact ⟨(execOf_setExec ..).trans (if_pos ⟨rfl, by decide⟩), fun q hq => (execOf_setExec ..).trans (if_neg fun e => hq e.1)⟩
    · exact hkwait.trans (if_neg fun hor => hor.elim ha (Nat.not_lt.mpr hle))
  · intro named
    have hsnest := execSnest_issues (n := n) (lvl := lvl) h
    have hnamed : ¬ (n = g.activeBank ∨ 6 ≤ lvl.toNat) ↔ named := by rw [not_or, Nat.not_le]
    refine ⟨fun hn => hsnest.trans (if_pos (not_not.mp (mt hnamed.mp hn))), fun hn hfree => ?_, fun hn hbusy => ?_⟩
    · rw [if_neg (hnamed.mpr hn), hfree] at hsnest
      obtain ⟨hother, hbytes⟩ := setBank_word n (0x800 + 4 * lvl.toNat) (readS s a) (issued s)
      refine ⟨_, hsnest, rfl, hother, fun hwf k => (hbytes hwf k).trans (if_congr ?_ rfl rfl)⟩
      omega
    · rw [if_neg (hnamed.mpr hn), hbusy] at hsnest
      exact hsnest
  · have hfeed := execGfeed_issues h
    exact ⟨fun hlt => ⟨_, hfeed.trans (if_neg (Nat.not_le.mpr hlt)), extractLsb'_vecToken _⟩, fun hle => hfeed.trans (if_pos hle)⟩
  · exact ⟨_, execGpop_issues h, rfl, vIsEmpty_marked _ d⟩

end Sys2Proof.Machine
end

section
/-! SUPPORT. Issue of engine commands with nothing in the way (R111-R114): the entry at the tail, the slot, and what each command adds. -/

namespace Sys2Proof.Machine

/-! ## Queues and slots after a change -/

theorem queueOf_setQueue (q k : Nat) (c : CmdQueue) (s : State) :
    queueOf (setQueue q c s) k = if k = q ∧ q < 6 then c else queueOf s k := vgetD_setIfInBounds ..

theorem slotOf_setSlot (k j : BitVec 5) (t : TokenSlot) (s : State) : slotOf (setSlot k t s) j = if j = k then t else slotOf s j :=
  vget_vset ..

theorem slotIssue_frame (k : BitVec 5) (id : Nat) (psc : BitVec 3) (s : State) :
    slotIssue k id psc s = { s with core.eng.slots := (slotIssue k id psc s).core.eng.slots } := by
  unfold slotIssue
  split <;> rfl

/-- Slot 31 is no slot, and the slots of other numbers stay. -/
theorem slotOf_slotIssue_other {k j : BitVec 5} (h : j ≠ k ∨ j = 31) (id : Nat) (psc : BitVec 3) (s : State) :
    slotOf (slotIssue k id psc s) j = slotOf s j := by
  unfold slotIssue
  split
  · rfl
  · next hk =>
    refine (slotOf_setSlot ..).trans (if_neg fun hjk => ?_)
    exact h.elim (· hjk) fun h31 => hk (hjk ▸ h31)

/-- The signal slot: one more issued, and a record of its new producer. -/
theorem slotOf_slotIssue_same {k : BitVec 5} (h : k ≠ 31) (id : Nat) (psc : BitVec 3) (s : State) :
    slotOf (slotIssue k id psc s) k = { slotOf s k with
      iss := (slotOf s k).iss + 1, pending := (slotOf s k).pending ++ [⟨id, false⟩], last := id, pv := false, prom := 0, late := false
      err := false, wide := (slotOf (slotIssue k id psc s) k).wide } := by
  rw [slotIssue, if_neg h]
  dsimp only
  rw [slotOf_setSlot, if_pos rfl]

/-! ## The entry of a command -/

/-- What a command of description `c` leaves that has entered queue `q`, where the bank `active` is the active one. -/
def CommandEntered (c : CmdSpec) (sig wa wb wc : BitVec 5) (p : Vector DWord 4) (q : Nat) (active : BitVec 2) (s t : State)
    (x : Command) : Prop :=
  t = { issued s with core.eng := { s.core.eng with queues := t.core.eng.queues, slots := t.core.eng.slots,
                                                    cmdId := s.core.eng.cmdId + 1 },
                      core.grid.activeBank := active }
    ∧ vgetD (queueOf t q).slots ((queueOf s q).tail.toNat % 16) none = some x
    ∧ (queueOf t q).tail = (queueOf s q).tail + 1 ∧ (queueOf t q).head = (queueOf s q).head
    ∧ (∀ r, r ≠ q → queueOf t r = queueOf s r)
    ∧ x.op = c.op ∧ x.sig = sig ∧ x.params = p
    ∧ x.waits = ([wa, wb, wc].filter (· ≠ 31)).map (fun k => (k, (slotOf s k).iss))
    ∧ (∀ k : BitVec 5, k ≠ sig ∨ k = 31 → slotOf t k = slotOf s k)
    ∧ (sig ≠ 31 → slotOf t sig = { slotOf s sig with
        iss := (slotOf s sig).iss + 1, pending := (slotOf s sig).pending ++ [⟨x.id, false⟩], last := x.id, pv := false,
        prom := 0, late := false, err := false, wide := (slotOf t sig).wide })

/-- The state in which the slot of a new command counts it. -/
def countedIn (sig : BitVec 5) (x : Command) (s : State) : State :=
  slotIssue sig x.id (cmdPsc x) { issued s with core.eng.cmdId := x.id + 1 }

/-- The new command at the tail of its queue. -/
theorem commandEntered_enqueue (c : CmdSpec) (sig wa wb wc : BitVec 5) (p : Vector DWord 4) {q : Nat} (hq : q < 6) (active : BitVec 2)
    (s : State) :
    CommandEntered c sig wa wb wc p q active s
      { enqueueCmd q (newCommand c sig wa wb wc p (issued s)) (countedIn sig (newCommand c sig wa wb wc p (issued s)) s) with
        core.grid.activeBank := active }
      (newCommand c sig wa wb wc p (issued s)) := by
  generalize hx : newCommand c sig wa wb wc p (issued s) = x
  have hid : x.id = s.core.eng.cmdId := hx ▸ rfl
  have hframe : countedIn sig x s = { issued s with core.eng.cmdId := s.core.eng.cmdId + 1,
                                                    core.eng.slots := (countedIn sig x s).core.eng.slots } := by
    rw [countedIn, hid]
    exact slotIssue_frame ..
  have hqueue : ∀ r, queueOf (countedIn sig x s) r = queueOf s r := fun r => by rw [hframe]; rfl
  have hnew : queueOf (enqueueCmd q x (countedIn sig x s)) q = { queueOf s q with
      slots := (queueOf s q).slots.setIfInBounds ((queueOf s q).tail.toNat % 16) (some x), tail := (queueOf s q).tail + 1 } := by
    refine (queueOf_setQueue ..).trans ((if_pos ⟨rfl, hq⟩).trans ?_)
    rw [hqueue]
  refine ⟨?_, ?_, (congrArg CmdQueue.tail hnew :), (congrArg CmdQueue.head hnew :),
    fun r hr => (queueOf_setQueue ..).trans ((if_neg fun e => hr e.1).trans (hqueue r)), hx ▸ rfl, hx ▸ rfl, hx ▸ rfl, ?_,
    fun k hk => slotOf_slotIssue_other hk .., fun hsig => slotOf_slotIssue_same hsig ..⟩
  · unfold enqueueCmd
    rw [hframe]
    rfl
  · refine (congrArg (fun y : CmdQueue => vgetD y.slots ((queueOf s q).tail.toNat % 16) none) hnew).trans ?_
    exact (vgetD_setIfInBounds ..).trans (if_pos ⟨rfl, Nat.mod_lt _ (by decide)⟩)
  · rw [← hx]
    refine congrArg (List.map _) (List.filter_congr fun k _ => ?_)
    rw [Bool.eq_iff_iff, bne_iff_ne, decide_eq_true_iff]

section issue
variable {ins : Instr} {w : Word} {c : CmdSpec} {sig wa wb wc sp : BitVec 5} {q : Nat} {active : BitVec 2} {s : State}

/-- The parameters of issue. -/
def issueParams (s : State) (sp : BitVec 5) : Vector DWord 4 := #v[readS s sp, readS s (sp + 1), readS s (sp + 2), readS s (sp + 3)]

theorem readParams_issued (s : State) (sp : BitVec 5) : readParams (issued s) sp = issueParams s sp := by
  have h0 : sp + 0#5 = sp := BitVec.add_zero sp
  refine Vector.ext fun i hi => ?_
  match i, hi with
  | 0, _ => exact congrArg (readS s) h0
  | 1, _ => rfl
  | 2, _ => rfl
  | 3, _ => rfl

/-- The sources of a command: its parameter registers. -/
def paramUses (sp : BitVec 5) : Uses := ⟨[srcS sp, srcS (sp + 1), srcS (sp + 2), srcS (sp + 3)], []⟩

/-- A command whose parameters keep their rules has its effect through what its description adds. -/
theorem issueCommand_rules (h : mayIssue anywhere (paramUses sp) s = true) (hrules : ∀ p, c.rules (issued s) p = c.rules s p) :
    ((c.rules s (issueParams s sp)).bad = none → issueCommand w c sig wa wb wc sp s
      = c.more (issueParams s sp) (issued s) fun u =>
        if queueFull u (c.queue (issueParams s sp)) then waitOn .internal u
        else if slotStall u sig then waitOn .internal u
        else
          let x := newCommand c sig wa wb wc (issueParams s sp) u
          .next (retire (c.enters (issueParams s sp) (enqueueCmd (c.queue (issueParams s sp)) x
            (slotIssue sig x.id (cmdPsc x) { u with core.eng.cmdId := x.id + 1 })))))
    ∧ ∀ i, (c.rules s (issueParams s sp)).bad = some i →
      issueCommand w c sig wa wb wc sp s = trap .command (BitVec.ofNat 64 i) (issued s) := by
  have hstart : issueCommand w c sig wa wb wc sp s = _ := gate_issue (u := paramUses sp) h
  rw [hstart, readParams_issued]
  dsimp only
  rw [hrules]
  refine ⟨fun hok => ?_, fun i hbad => ?_⟩
  · rw [hok]
  · rw [hbad]

/-- What the statement says of one kind of command. -/
def Enters (ins : Instr) (c : CmdSpec) (sig wa wb wc sp : BitVec 5) (q : Nat) (active : BitVec 2) (s : State) : Prop :=
  ((c.rules s (issueParams s sp)).bad = none → (queueOf s q).tail - (queueOf s q).head ≠ 16 → slotStall s sig = false →
      ∃ (t : State) (x : Command), exec ins s = .next (retire t)
        ∧ CommandEntered c sig wa wb wc (issueParams s sp) q active s t x)
    ∧ ((c.rules s (issueParams s sp)).bad = none → (queueOf s q).tail - (queueOf s q).head = 16 ∨ slotStall s sig = true →
      exec ins s = waitOn .internal (issued s))
    ∧ ∀ i, (c.rules s (issueParams s sp)).bad = some i → exec ins s = trap .command (BitVec.ofNat 64 i) (issued s)

/-- A command that nothing of its own holds back enters its queue, waits for room or its slot, or traps on a parameter. -/
theorem enters_of_issueCommand (hexec : exec ins s = issueCommand w c sig wa wb wc sp s)
    (h : mayIssue anywhere (paramUses sp) s = true) (hrules : ∀ p, c.rules (issued s) p = c.rules s p)
    (hmore : ∀ k, c.more (issueParams s sp) (issued s) k = k (issued s)) (hqueue : c.queue (issueParams s sp) = q) (hq : q < 6)
    (henters : ∀ u : State, u.core.grid.activeBank = s.core.grid.activeBank →
      c.enters (issueParams s sp) u = { u with core.grid.activeBank := active }) :
    Enters ins c sig wa wb wc sp q active s := by
  obtain ⟨hok, hbad⟩ := issueCommand_rules (w := w) (sig := sig) (wa := wa) (wb := wb) (wc := wc) h hrules
  rw [hmore, hqueue] at hok
  have hfull : queueFull (issued s) q = true ↔ (queueOf s q).tail - (queueOf s q).head = 16 := beq_iff_eq
  have hstall : slotStall (issued s) sig = slotStall s sig := rfl
  rw [hstall] at hok
  refine ⟨fun hr hroom hfree => ?_, fun hr hwait => ?_, fun i hi => hexec.trans (hbad i hi)⟩
  · have hgrid : (enqueueCmd q (newCommand c sig wa wb wc (issueParams s sp) (issued s))
        (countedIn sig (newCommand c sig wa wb wc (issueParams s sp) (issued s)) s)).core.grid.activeBank = s.core.grid.activeBank := by
      unfold enqueueCmd countedIn
      rw [slotIssue_frame]
      rfl
    refine ⟨_, _, ?_, commandEntered_enqueue c sig wa wb wc (issueParams s sp) hq active s⟩
    rw [← henters _ hgrid, hexec, hok hr, if_neg (mt hfull.mp hroom), if_neg (by rw [hfree]; exact Bool.false_ne_true)]
    rfl
  · rw [hexec, hok hr]
    by_cases hf : queueFull (issued s) q = true
    · exact if_pos hf
    · rw [if_neg hf, if_pos (hwait.resolve_left (mt hfull.mpr hf))]

/-- A command whose description adds nothing. -/
theorem enters_of_plain (hexec : exec ins s = issueCommand w c sig wa wb wc sp s)
    (h : mayIssue anywhere (paramUses sp) s = true) (hrules : ∀ p, c.rules (issued s) p = c.rules s p)
    (hmore : c.more = fun _ s k => k s) (henters : c.enters = fun _ s => s) (hqueue : c.queue (issueParams s sp) = q) (hq : q < 6) :
    Enters ins c sig wa wb wc sp q s.core.grid.activeBank s := by
  refine enters_of_issueCommand hexec h hrules (fun k => by rw [hmore]) hqueue hq fun u hu => ?_
  rw [henters, ← hu]

theorem field_low (x : DWord) (n : Nat) : field x 0 n = x.setWidth n :=
  BitVec.eq_of_getLsbD_eq fun i hi => by simp [field, hi]

/-- `GGO` behind its parameter rules: it waits for a queued `GLDC`, and its bank is looked at. -/
theorem ggo_more (s : State) (p : Vector DWord 4) (k : State → Out) :
    ((∃ x ∈ queued s 4, x.op = .gldc) → ggoSpec.more p s k = waitOn .external s)
    ∧ ((∀ x ∈ queued s 4, x.op ≠ .gldc) →
      (offending s (p[0].setWidth 2) = none → ggoSpec.more p s k = k s)
      ∧ ∀ n, offending s (p[0].setWidth 2) = some n → ggoSpec.more p s k = trap .illegal (BitVec.ofNat 64 (n / 4 + 64 * (n % 4))) s) := by
  have hany : ((queued s 4).any fun c => c.op == .gldc) = true ↔ ∃ x ∈ queued s 4, x.op = .gldc := by
    simp only [List.any_eq_true, beq_iff_eq]
  unfold ggoSpec
  dsimp only
  rw [field_low]
  refine ⟨fun hq => if_pos (hany.mpr hq), fun hq => ?_⟩
  have hno : ¬ ((queued s 4).any fun c => c.op == .gldc) = true := fun e => by
    obtain ⟨x, hx, hop⟩ := hany.mp e
    exact hq x hx hop
  rw [if_neg hno]
  refine ⟨fun ho => ?_, fun n ho => ?_⟩
  · rw [ho]
  · rw [ho]
    rfl

/-- `GGO` where something stands between its parameters and its entry (R126). -/
theorem execGgo_held (h : mayIssue anywhere (paramUses sp) s = true) (hok : (ggoSpec.rules s (issueParams s sp)).bad = none) :
    ((∃ x ∈ queued s 4, x.op = .gldc) → exec (.ggo sig wa wb wc sp) s = waitOn .external (issued s))
    ∧ ∀ n, (∀ x ∈ queued s 4, x.op ≠ .gldc) → offending s ((issueParams s sp)[0].setWidth 2) = some n →
      exec (.ggo sig wa wb wc sp) s = trap .illegal (BitVec.ofNat 64 (n / 4 + 64 * (n % 4))) (issued s) := by
  have hissue := (issueCommand_rules (w := wordGgo sig wa wb wc sp) (sig := sig) (wa := wa) (wb := wb) (wc := wc) (c := ggoSpec) h
    fun _ => rfl).1 hok
  obtain ⟨hwait, hlook⟩ := ggo_more (issued s) (issueParams s sp) _
  rw [exec_ggo, execGgo, hissue]
  exact ⟨hwait, fun n hq => (hlook hq).2 n⟩

theorem execGgo_enters (h : mayIssue anywhere (paramUses sp) s = true) (hq : ∀ x ∈ queued s 4, x.op ≠ .gldc)
    (ho : offending s ((issueParams s sp)[0].setWidth 2) = none) :
    Enters (.ggo sig wa wb wc sp) ggoSpec sig wa wb wc sp 4 ((issueParams s sp)[0].setWidth 2) s :=
  enters_of_issueCommand (exec_ggo ..) h (fun _ => rfl) (fun k => ((ggo_more (issued s) (issueParams s sp) k).2 hq).1 ho) rfl (by decide)
    fun u _ => by
      rw [← field_low]
      rfl

/-- `GLDC` looks at the shadow bank before all else (R125). -/
theorem execGldc_gated (h : mayIssue anywhere (paramUses sp) s = true) :
    exec (.gldc sig wa wb wc sp) s = if s.core.grid.shadowBank = s.core.grid.activeBank then illegal (wordGldc sig wa wb wc sp) s
      else issueCommand (wordGldc sig wa wb wc sp) gldcSpec sig wa wb wc sp s := by
  rw [exec_gldc, execGldc, gate_of_open (mayIssue_iff.mp h).1]

end issue

/-- Settles O47: `GLDC` and `GGO` have checks of their own, all other commands are `issueCommand` alone. -/
theorem engineCommands : Obligations.EngineCommands := by
  unfold Obligations.EngineCommands
  intro s sig wa wb wc sp h p enters now bank
  have hsrun : srunSpec.queue p = p[3].toNat % 4 := fieldN_low p[3] 2
  refine ⟨enters_of_plain (exec_srun ..) h (fun _ => rfl) rfl rfl hsrun (by omega), fun hb => ?_,
    fun hb => (execGldc_gated h).trans (if_pos hb), execGgo_enters h, fun hok => (execGgo_held h hok).1,
    fun n hok => (execGgo_held h hok).2 n, ?_, ?_, ?_, ?_, ?_, ?_, ?_, ?_⟩
  · exact enters_of_plain ((execGldc_gated h).trans (if_neg hb)) h (fun _ => rfl) rfl rfl rfl (by decide)
  · exact enters_of_plain (exec_gmma ..) h (fun _ => rfl) rfl rfl rfl (by decide)
  · exact enters_of_plain (exec_copy ..) h (fun _ => rfl) rfl rfl rfl (by decide)
  · exact enters_of_plain (exec_copy2d ..) h (fun _ => rfl) rfl rfl rfl (by decide)
  · exact enters_of_plain (exec_send ..) h (fun _ => rfl) rfl rfl rfl (by decide)
  · exact enters_of_plain (exec_lbind ..) h (fun _ => rfl) rfl rfl rfl (by decide)
  · exact enters_of_plain (exec_lunbind ..) h (fun _ => rfl) rfl rfl rfl (by decide)
  · exact enters_of_plain (exec_copen ..) h (fun _ => rfl) rfl rfl rfl (by decide)
  · exact enters_of_plain (exec_cstream ..) h (fun _ => rfl) rfl rfl rfl (by decide)

end Sys2Proof.Machine
end

section
/-! SUPPORT. What the engines leave alone at work (R114-R127, R132-R135, R141-R144): registers, homes, queues, and which command each queue
executes. -/

namespace Sys2Proof.Machine

/-- What the work of engines keeps: registers, homes, the six queues, and which command each of them has in execution. -/
structure KeptByEngines (s t : State) : Prop where
  regs : t.core.regs = s.core.regs
  homes : t.homes = s.homes
  queues : t.core.eng.queues = s.core.eng.queues
  ids : ∀ q, (execOf t q).map Running.id = (execOf s q).map Running.id

namespace KeptByEngines

theorem refl (s : State) : KeptByEngines s s := ⟨rfl, rfl, rfl, fun _ => rfl⟩

theorem trans {s t u : State} (h : KeptByEngines s t) (h' : KeptByEngines t u) : KeptByEngines s u :=
  ⟨h'.regs.trans h.regs, h'.homes.trans h.homes, h'.queues.trans h.queues, fun q => (h'.ids q).trans (h.ids q)⟩

theorem ite {c : Prop} [Decidable c] {s t u : State} (h : KeptByEngines s t) (h' : KeptByEngines s u) :
    KeptByEngines s (if c then t else u) := by
  split
  · exact h
  · exact h'

/-- The state part of an answer. -/
theorem of_fst {α : Type} {s t : State} {p : State × α} {r : α} (h : KeptByEngines s p.1) (e : p = (t, r)) : KeptByEngines s t := by
  rw [e] at h
  exact h

theorem foldl {α : Type} {f : State → α → State} (h : ∀ s x, KeptByEngines s (f s x)) (l : List α) (s : State) :
    KeptByEngines s (l.foldl f s) := by
  induction l generalizing s with
  | nil => exact .refl s
  | cons x l ih => exact (h s x).trans (ih _)

theorem queueOf {s t : State} (h : KeptByEngines s t) (q : Nat) : queueOf t q = queueOf s q := by
  unfold Machine.queueOf
  rw [h.queues]

theorem queueHead {s t : State} (h : KeptByEngines s t) (q : Nat) : queueHead t q = queueHead s q := by
  unfold Machine.queueHead queueEmpty
  rw [h.queueOf]

/-- A queue that executes a command goes on executing it. -/
theorem execOf_some {s t : State} {q : Nat} {r : Running} (h : KeptByEngines s t) (hr : execOf s q = some r) :
    ∃ x, execOf t q = some x ∧ x.id = r.id := by
  have hid := h.ids q
  rw [hr] at hid
  exact Option.map_eq_some_iff.mp hid

theorem execOf_none {s t : State} {q : Nat} (h : KeptByEngines s t) (hn : execOf s q = none) : execOf t q = none := by
  have hid := h.ids q
  rw [hn] at hid
  exact Option.map_eq_none_iff.mp hid

end KeptByEngines

/-! ## Commands in execution -/

theorem execOf_updExec_same {q : Nat} (hq : q < 6) (f : Running → Running) (s : State) :
    execOf (updExec q f s) q = (execOf s q).map f := by
  cases hr : execOf s q with
  | none => rw [updExec, hr]; exact hr
  | some r => exact (congrArg (execOf · q) (updExec_of_some hr f)).trans ((execOf_setExec ..).trans (if_pos ⟨rfl, hq⟩))

theorem execOf_updExec_other {q k : Nat} (h : k ≠ q) (f : Running → Running) (s : State) :
    execOf (updExec q f s) k = execOf s k := by
  cases hr : execOf s q with
  | none => rw [updExec, hr]
  | some r => exact (congrArg (execOf · k) (updExec_of_some hr f)).trans ((execOf_setExec ..).trans (if_neg fun e => h e.1))

/-- A change of the command in execution that leaves its number. -/
theorem kept_updExec (q : Nat) (f : Running → Running) (s : State) (hf : ∀ r, (f r).id = r.id := by exact fun _ => rfl) :
    KeptByEngines s (updExec q f s) := by
  have hframe := updExec_frame q f s
  refine ⟨congrArg (·.core.regs) hframe, congrArg (·.homes) hframe, congrArg (·.core.eng.queues) hframe, fun k => ?_⟩
  by_cases hk : k = q
  · subst hk
    by_cases h6 : k < 6
    · rw [execOf_updExec_same h6, Option.map_map]
      exact congrArg (fun g => (execOf s k).map g) (funext hf)
    · cases hr : execOf s k with
      | none => rw [updExec, hr]; exact congrArg (Option.map Running.id) hr
      | some r =>
        rw [updExec_of_some hr, execOf_setExec, if_neg fun e => h6 e.2, hr]
  · rw [execOf_updExec_other hk]

theorem kept_finishCmd (q : Nat) (s : State) : KeptByEngines s (finishCmd q s) := kept_updExec ..

theorem kept_setCursor (n : Nat) (s : State) : KeptByEngines s (setCursor n s) := kept_updExec ..

theorem kept_quietError (s : State) : KeptByEngines s (quietError s) := kept_updExec ..

theorem kept_raiseEngine (q : Nat) (sub : BitVec 2) (a : DWord) (n : Nat) (s : State) : KeptByEngines s (raiseEngine q sub a n s) :=
  ⟨rfl, rfl, rfl, fun _ => rfl⟩

theorem kept_commandError (q : Nat) (s : State) : KeptByEngines s (commandError q s) :=
  (kept_updExec ..).trans (kept_raiseEngine ..)

theorem kept_engineStop (q port : Nat) (sub : BitVec 2) (a n : Nat) (w t : Bool) (s : State) :
    KeptByEngines s (engineStop q port sub a n w t s) :=
  .ite (kept_updExec ..) ((kept_updExec ..).trans (kept_raiseEngine ..))

theorem kept_restarted (q : Nat) (s : State) : KeptByEngines s (restarted q s) :=
  .ite ⟨rfl, rfl, rfl, fun _ => rfl⟩ (.refl s)

/-! ## Reads of the pool -/

theorem kept_setBuf (n : Nat) (b : Buffer) (s : State) : KeptByEngines s (setBuf n b s) := ⟨rfl, rfl, rfl, fun _ => rfl⟩

theorem kept_readerStart (i : Nat) (s : State) : KeptByEngines s (readerStart i s) := by
  unfold readerStart
  dsimp only
  split
  · exact kept_setBuf ..
  · exact kept_setBuf ..
  · exact .refl s

theorem kept_readerDone (i : Nat) (s : State) : KeptByEngines s (readerDone i s) := by
  unfold readerDone
  dsimp only
  split
  · exact .ite (kept_setBuf ..) (kept_setBuf ..)
  · exact .refl s

theorem kept_joinBuffer {q i : Nat} {s t : State} (h : joinBuffer q i s = some t) : KeptByEngines s t := by
  unfold joinBuffer at h
  extract_lets b mine at h
  split at h
  · rw [← Option.some.inj h]
    exact .refl s
  · split at h
    · exact nomatch h
    · rw [← Option.some.inj h]
      exact (kept_readerStart i s).trans (kept_updExec ..)

theorem kept_joinBuffers {q : Nat} {l : List Nat} : ∀ {s t : State}, joinBuffers q l s = some t → KeptByEngines s t := by
  induction l with
  | nil => intro s t h; rw [← Option.some.inj h]; exact .refl s
  | cons i r ih =>
    intro s t h
    rw [joinBuffers] at h
    split at h
    · obtain ⟨u, hu, ht⟩ := Option.bind_eq_some_iff.mp h
      exact (kept_joinBuffer hu).trans (ih ht)
    · obtain ⟨u, hu, ht⟩ := Option.bind_eq_some_iff.mp h
      exact (kept_joinBuffer hu).trans (ih ht)
    · exact ih h
    · exact ih h

theorem kept_enginePoolRead (q a n : Nat) (s : State) : KeptByEngines s (enginePoolRead q a n s).1 := by
  unfold enginePoolRead
  split
  · exact .refl s
  · extract_lets bufs part ans
    split
    · exact .refl s
    · split
      · exact .refl s
      · cases h : joinBuffers q bufs s with
        | none => exact .refl s
        | some t => exact kept_joinBuffers h

theorem kept_checkedRead (q a n : Nat) (s : State) : KeptByEngines s (checkedRead q a n s).1 := by
  have h := kept_enginePoolRead q a n s
  unfold checkedRead
  split
  · next s' bs ws e => exact h.of_fst e
  · exact h

/-! ## Starts -/

theorem kept_setStream (se : Nat) (r : Option StreamRun) (s : State) : KeptByEngines s (setStream se r s) := ⟨rfl, rfl, rfl, fun _ => rfl⟩

theorem kept_setSrp (se n : Nat) (v : Bool) (s : State) : KeptByEngines s (setSrp se n v s) := ⟨rfl, rfl, rfl, fun _ => rfl⟩

theorem kept_startStream (se : Nat) (c : Command) (s : State) : KeptByEngines s (startStream se c s) := by
  unfold startStream
  extract_lets s1 counts trip first
  have h1 : KeptByEngines s s1 := kept_setSrp ..
  clear_value s1
  have h := kept_checkedRead se c.params[0].toNat 64 s1
  split
  · next s2 e => exact h1.trans (h.of_fst e)
  · next s2 sub a t e => exact (h1.trans (h.of_fst e)).trans (kept_engineStop ..)
  · next s2 e => exact (h1.trans (h.of_fst e)).trans (kept_updExec ..)
  · next s2 d ws e =>
    exact (h1.trans (h.of_fst e)).trans (.ite (kept_commandError ..) (.ite (kept_updExec ..) (kept_setStream ..)))

theorem kept_startGgo (c : Command) (s : State) : KeptByEngines s (startGgo c s) :=
  .ite (kept_commandError ..) (.ite (kept_finishCmd ..) ⟨rfl, rfl, rfl, fun _ => rfl⟩)

theorem kept_poolWrite (a : Nat) (bs : List Byte) (s : State) : KeptByEngines s (poolWrite a bs s) := by
  obtain ⟨l, h⟩ := poolWrite_frame bs a s
  rw [h]
  exact ⟨rfl, rfl, rfl, fun _ => rfl⟩

theorem kept_writeTile (p : Vector DWord 4) (acc : List Word) (s : State) : KeptByEngines s (writeTile p acc s) :=
  .foldl (fun _ _ => .foldl (fun _ _ => kept_poolWrite ..) _ _) _ s

theorem kept_startGmma (c : Command) (s : State) : KeptByEngines s (startGmma c s) := by
  unfold startGmma
  extract_lets p fail
  have hfail (r : EngRes) (t : State) : KeptByEngines t (fail r t) := by
    cases r with
    | fault sub a tr => exact kept_engineStop ..
    | error => exact kept_updExec ..
    | ok bs ws => exact .refl t
    | wait => exact .refl t
  clear_value fail
  refine .ite (kept_finishCmd ..) ?_
  have ha := kept_checkedRead 4 p[0].toNat 64 s
  split
  · next s1 a ws e =>
    have h1 : KeptByEngines s s1 := ha.of_fst e
    have hb := kept_checkedRead 4 p[1].toNat 64 s1
    split
    · next s2 b ws' e' =>
      have h2 : KeptByEngines s s2 := h1.trans (hb.of_fst e')
      refine h2.trans (.ite (kept_commandError ..) ?_)
      extract_lets s3
      have h3 : KeptByEngines s2 s3 := (kept_setSrp 0 0 false s2).trans (kept_setSrp ..)
      clear_value s3
      exact h3.trans (.ite ((KeptByEngines.ite (kept_writeTile ..) (.refl s3)).trans (kept_finishCmd ..)) ⟨rfl, rfl, rfl, fun _ => rfl⟩)
    · next s2 r hr e' => exact (h1.trans (hb.of_fst e')).trans (hfail ..)
  · next s1 r hr e => exact (ha.of_fst e).trans (hfail ..)

theorem kept_releasePromoted (c : Circuit) (s : State) : KeptByEngines s (releasePromoted c s) := ⟨rfl, rfl, rfl, fun _ => rfl⟩

theorem kept_endInterval (m : Meter) (s : State) : KeptByEngines s (endInterval m s) := by
  unfold endInterval
  extract_lets +onlyGivenNames key
  refine .ite ⟨rfl, rfl, rfl, fun _ => rfl⟩ ?_
  extract_lets idle s1
  have h1 : KeptByEngines s s1 := ⟨rfl, rfl, rfl, fun _ => rfl⟩
  clear_value s1
  split
  · exact h1.trans (kept_releasePromoted ..)
  · exact h1

theorem kept_settleIntervals (n : Nat) (key : Meter → Bool) : ∀ s : State, KeptByEngines s (settleIntervals n key s) := by
  induction n with
  | zero => exact .refl
  | succ n ih =>
    intro s
    rw [settleIntervals]
    split
    · exact .ite (.refl s) ((kept_endInterval ..).trans (ih _))
    · exact .refl s

theorem kept_sendStart (c : Command) (s : State) : KeptByEngines s (sendStart c s) := by
  unfold sendStart
  refine .ite (kept_commandError ..) (.ite (kept_setCursor ..) ?_)
  extract_lets s1
  have h1 : KeptByEngines s s1 := kept_settleIntervals ..
  clear_value s1
  refine h1.trans ?_
  split
  · exact .refl s1
  · next m x e =>
    extract_lets key s2
    have h2 : KeptByEngines s1 s2 := ⟨rfl, rfl, rfl, fun _ => rfl⟩
    clear_value s2
    refine h2.trans (.ite (kept_setCursor ..) (.ite ?_ (kept_releasePromoted ..)))
    exact .trans (t := updMeters key _ s2) ⟨rfl, rfl, rfl, fun _ => rfl⟩ (kept_setCursor ..)

theorem kept_streamStart (c : Command) (s : State) : KeptByEngines s (streamStart c s) :=
  .ite (kept_quietError ..) (.ite (kept_commandError ..) (.refl s))

theorem kept_slotPromise (k : BitVec 5) (id : Nat) (p : Option DWord) (s : State) : KeptByEngines s (slotPromise k id p s) := by
  unfold slotPromise
  refine .ite (.refl s) ?_
  cases p with
  | none => exact .refl s
  | some x => exact .ite ⟨rfl, rfl, rfl, fun _ => rfl⟩ (.refl s)

end Sys2Proof.Machine
end

section
/-! SUPPORT. Engine commands as they start and take their next step (R114, R125, R126, R141, R143, R144, R274, R276). -/

namespace Sys2Proof.Machine

/-! ## Start -/

/-- A command that starts is the one its queue executes; queues, registers and memory stay. -/
theorem startCommand_starts {q : Nat} (hq : q < 6) (c : Command) (s : State) :
    (∃ x, execOf (startCommand q c s) q = some x ∧ x.id = c.id) ∧ queueOf (startCommand q c s) q = queueOf s q
      ∧ (startCommand q c s).core.regs = s.core.regs ∧ (startCommand q c s).homes.mem = s.homes.mem := by
  have hrest {u t : State} {r : Running} (hr : execOf u q = some r) (hid : r.id = c.id) (hqueues : u.core.eng.queues = s.core.eng.queues)
      (hregs : u.core.regs = s.core.regs) (hmem : u.homes.mem = s.homes.mem) (h : KeptByEngines u t) :
      (∃ x, execOf t q = some x ∧ x.id = c.id) ∧ queueOf t q = queueOf s q ∧ t.core.regs = s.core.regs ∧ t.homes.mem = s.homes.mem := by
    obtain ⟨x, hx, hxid⟩ := h.execOf_some hr
    refine ⟨⟨x, hx, hxid.trans hid⟩, (h.queueOf q).trans ?_, h.regs.trans hregs, ?_⟩
    · rw [queueOf, hqueues]
      rfl
    · rw [h.homes, hmem]
  unfold startCommand
  extract_lets t p nest s1 s2
  have hexec : execOf s1 q = some ⟨c.id, t, p, 0, false, false, false, none, [], nest, false⟩ :=
    (execOf_setExec ..).trans (if_pos ⟨rfl, hq⟩)
  have h1 : s1.core.eng.queues = s.core.eng.queues ∧ s1.core.regs = s.core.regs ∧ s1.homes.mem = s.homes.mem := ⟨rfl, rfl, rfl⟩
  clear_value s1
  obtain ⟨hqueues, hregs, hmem⟩ := h1
  have h2 : ∃ u, execOf u q = some ⟨c.id, t, p, 0, false, false, false, none, [], nest, false⟩
      ∧ u.core.eng.queues = s.core.eng.queues ∧ u.core.regs = s.core.regs ∧ u.homes.mem = s.homes.mem ∧ KeptByEngines u s2 := by
    by_cases hfar : c.far = true
    · exact ⟨dropRemote (fun _ => true) s1, hexec, hqueues, hregs, hmem, by
        simp only [s2, if_pos hfar]
        exact kept_slotPromise ..⟩
    · exact ⟨s1, hexec, hqueues, hregs, hmem, by
        simp only [s2, if_neg hfar]
        exact kept_slotPromise ..⟩
  clear_value s2
  obtain ⟨u, hu, hqueues, hregs, hmem, h2⟩ := h2
  cases c.op with
  | srun => exact hrest hu rfl hqueues hregs hmem (h2.trans (kept_startStream ..))
  | ggo => exact hrest hu rfl hqueues hregs hmem (h2.trans (kept_startGgo ..))
  | gmma => exact hrest hu rfl hqueues hregs hmem (h2.trans (kept_startGmma ..))
  | cstream => exact hrest hu rfl hqueues hregs hmem (h2.trans (kept_streamStart ..))
  | sendCmd => exact hrest hu rfl hqueues hregs hmem (h2.trans (kept_sendStart ..))
  | gldc => exact hrest hu rfl hqueues hregs hmem h2
  | copy => exact hrest hu rfl hqueues hregs hmem h2
  | copy2d => exact hrest hu rfl hqueues hregs hmem h2
  | lbind => exact hrest hu rfl hqueues hregs hmem h2
  | copen => exact hrest hu rfl hqueues hregs hmem h2

section command
variable {s : State} {q : Nat} {c : Command} (hlive : engineLive s = true) (hhead : queueHead s q = some c)
include hlive hhead

theorem execEngineCommandStart_starts (hadm : needsAdmission c = true → s.core.grid.admitted = true) (hnone : execOf s q = none)
    (hwaits : waitsReached s c = true) (hheld : commandHeld s q c = false) :
    exec (.engineCommandStart q) s = .next (startCommand q c (restarted q s)) := by
  have hno : (needsAdmission c && !s.core.grid.admitted) = false := by
    cases hn : needsAdmission c with
    | false => rfl
    | true => rw [hadm hn]; rfl
  rw [exec_engineCommandStart, execEngineCommandStart, hhead]
  simp only [hlive, hnone, hwaits, hno, hheld, Bool.not_true, Bool.false_eq_true, if_false]

/-- The next step of a command in execution that nothing has ended or stopped: of a `GLDC` the next piece, in the copy queue the next step of
its command. -/
theorem execEngineCommandStart_goes {r : Running} (hadm : needsAdmission c = true → s.core.grid.admitted = true)
    (hr : execOf s q = some r) (hf : r.finished = false) (hstop : r.stopped = false) :
    (c.op = .gldc → exec (.engineCommandStart q) s = .next (gldcPiece c r.cursor (restarted q s)))
    ∧ (c.op ∈ [CmdOp.copy, .copy2d, .sendCmd, .lbind, .copen, .cstream] →
      exec (.engineCommandStart q) s = .next (copyQueueStep c r.cursor (restarted q s))) := by
  have hno : (needsAdmission c && !s.core.grid.admitted) = false := by
    cases hn : needsAdmission c with
    | false => rfl
    | true => rw [hadm hn]; rfl
  rw [exec_engineCommandStart, execEngineCommandStart, hhead]
  simp only [hlive, hr, hf, hstop, hno, Bool.not_true, Bool.false_eq_true, if_false, Bool.or_self]
  refine ⟨fun hop => ?_, fun hop => ?_⟩
  · rw [hop]
  · cases hc : c.op <;> simp_all

end command

/-! ## Progress of the command in execution -/

/-- The command in execution has a new cursor, and has ended where `last` says so. -/
def CursorAt (q : Nat) (u t : State) (k : Nat) (last : Bool) : Prop :=
  ∀ x, execOf u q = some x → execOf t q = some { x with cursor := k, finished := x.finished || last }

/-- A piece has been done: the cursor moves on, and the last piece ends the command. -/
theorem cursorAt_advance {q : Nat} (hq : q < 6) (k : Nat) (s : State) (last : Prop) [Decidable last] :
    CursorAt q s (if last then finishCmd q (updExec q (fun x => { x with cursor := k }) s) else updExec q (fun x => { x with cursor := k }) s)
      k (decide last) := by
  intro x hx
  split
  · next h => rw [finishCmd, execOf_updExec_same hq, execOf_updExec_same hq, hx, decide_eq_true h, Bool.or_true]; rfl
  · next h => rw [execOf_updExec_same hq, hx, decide_eq_false h, Bool.or_false]; rfl

/-- Nothing but the commands in execution differs. -/
def OnlyExec (s t : State) : Prop := t = { s with core.eng.exec := t.core.eng.exec }

theorem OnlyExec.trans {s t u : State} (h : OnlyExec s t) (h' : OnlyExec t u) : OnlyExec s u := by
  rw [OnlyExec] at h h'
  rw [h] at h'
  exact h'

theorem onlyExec_updExec (q : Nat) (f : Running → Running) (s : State) : OnlyExec s (updExec q f s) := updExec_frame ..

theorem onlyExec_finishCmd (q : Nat) (s : State) : OnlyExec s (finishCmd q s) := onlyExec_updExec ..

/-- Progress changes the commands in execution only. -/
theorem onlyExec_advance (q k : Nat) (s : State) (last : Prop) [Decidable last] :
    OnlyExec s (if last then finishCmd q (updExec q (fun x => { x with cursor := k }) s) else updExec q (fun x => { x with cursor := k }) s) := by
  split
  · exact (onlyExec_updExec ..).trans (onlyExec_finishCmd ..)
  · exact onlyExec_updExec ..

/-- The next 128 bytes of a bank image, once they are read. -/
theorem gldcPiece_reads {c : Command} {k : Nat} {s u : State} {bs : List Byte}
    (h : engineRead 4 (if c.params[3].getLsbD 0 then .global else .pool) (c.params[0] + dw (128 * k)) 128 s = (u, .ok bs [])) :
    OnlyExec (setBank c.bank (128 * k) bs u) (gldcPiece c k s) ∧ CursorAt 4 u (gldcPiece c k s) (k + 1) (decide (k = 63)) := by
  have hpiece : gldcPiece c k s = if k = 63
      then finishCmd 4 (updExec 4 (fun x => { x with cursor := k + 1 }) (setBank c.bank (128 * k) bs u))
      else updExec 4 (fun x => { x with cursor := k + 1 }) (setBank c.bank (128 * k) bs u) := by
    unfold gldcPiece
    dsimp only
    rw [h]
    rfl
  rw [hpiece]
  exact ⟨onlyExec_advance .., cursorAt_advance (by decide) (k + 1) (setBank c.bank (128 * k) bs u) (k = 63)⟩

end Sys2Proof.Machine
end

section
/-! SUPPORT. The commands of the copy queue at work (R126, R141, R143, R144, R274, R276). -/

namespace Sys2Proof.Machine

theorem onlyExec_setCursor (k : Nat) (s : State) : OnlyExec s (setCursor k s) := onlyExec_updExec ..

/-! ## Copies -/

section copies
variable {c : Command} {k : Nat} {s : State} (hring : pieceOnRing s c.id = false)
include hring

/-- A source in another core's pool, not asked for yet: the request leaves. -/
theorem copyStep_asks (hout : pieceOut s c.id = none) (hssp : copySsp c.params = 2) :
    copyStep c k s = sendRemote { ownRemote s c (copyOrd c.params) (copyPiece c k).1.toNat with len := (copyPiece c k).2.2 } s := by
  unfold copyStep
  simp only [hring, hout, hssp, Bool.false_eq_true, if_false]

/-- The bytes of the piece as they are read here. -/
theorem copyStep_read {u : State} {bs : List Byte} {w : List (Nat × Nat)} (hout : pieceOut s c.id = none) (hssp : copySsp c.params ≠ 2)
    (h : copyRead (copySsp c.params) (copyPiece c k).1 (copyPiece c k).2.2 s = (u, .ok bs w)) :
    copyStep c k s = if copyDsp c.params = 2 then sendPiece c k bs u else writePiece c k bs u := by
  unfold copyStep
  simp only [hring, hout, h, Bool.false_eq_true, if_false]

/-- The bytes of the piece as they have come from another core. -/
theorem copyStep_came {e : RemotePool} (hout : pieceOut s c.id = some e) (hw : e.write = false) (hlen : e.data.length = e.len) :
    copyStep c k s = writePiece c k e.data s := by
  unfold copyStep
  simp only [hring, hout, hw, hlen, Bool.false_eq_true, if_false, Bool.not_false, beq_self_eq_true, Bool.and_self, if_true]

end copies

/-- An access to a core of this package leaves in a packet. -/
theorem sendRemote_here {e : RemotePool} {s : State} (h : corePkg (ordPlace s e.ord) = corePkg s.core.id) :
    ∃ p, (sendRemote e s).net.packets = s.net.packets ++ [p] ∧ p.kind = (if e.write then 4 else 0) ∧ p.dest = routerOf (ordPlace s e.ord)
      ∧ p.ofs = BitVec.ofNat 32 e.addr ∧ p.data = (if e.write then e.data else [])
      ∧ (sendRemote e s).net.remote = s.net.remote ++ [{ e with pkt := p.id, retryAt := 0 }] := by
  unfold sendRemote
  rw [if_pos h]
  exact ⟨_, rfl, rfl, rfl, rfl, rfl, rfl⟩

/-- A piece written: its bytes no longer wait, the cursor moves on, and the last piece ends the copy. -/
theorem writePiece_done {c : Command} {k : Nat} {bs : List Byte} {u v : State}
    (h : copyDsp c.params = 0 ∧ engineOwnWrite (copyPiece c k).2.1.toNat bs u = (v, .done)
      ∨ copyDsp c.params = 1 ∧ engineGlobalWrite (copyPiece c k).2.1.toNat bs (storeScope u (cmdPsc c)) u = (v, .done)) :
    writePiece c k bs u = pieceDone c k (dropPiece c.id v) := by
  unfold writePiece
  rcases h with ⟨hd, h⟩ | ⟨hd, h⟩
  · simp only [hd, h, if_true]
  · simp only [hd, h, Nat.one_ne_zero, if_false]

theorem pieceDone_advances (c : Command) (k : Nat) (s : State) :
    OnlyExec s (pieceDone c k s) ∧ CursorAt 5 s (pieceDone c k s) (k + 1) (decide (copyPieces c ≤ k + 1)) :=
  ⟨onlyExec_advance .., cursorAt_advance (q := 5) (by decide) (k + 1) s _⟩

section copyStep
variable {c : Command} {k : Nat} {s : State} (hring : pieceOnRing s c.id = false)
include hring

/-- A read of another core's pool within the package. -/
theorem copyStep_requests (hout : pieceOut s c.id = none) (hssp : copySsp c.params = 2)
    (hhere : corePkg (ordPlace s (copyOrd c.params)) = corePkg s.core.id) :
    ∃ p, (copyStep c k s).net.packets = s.net.packets ++ [p] ∧ p.kind = 0 ∧ p.dest = routerOf (ordPlace s (copyOrd c.params))
      ∧ p.ofs = BitVec.ofNat 32 (copyPiece c k).1.toNat ∧ (copyStep c k s).net.remote = s.net.remote
        ++ [{ ownRemote s c (copyOrd c.params) (copyPiece c k).1.toNat with len := (copyPiece c k).2.2, pkt := p.id }] := by
  rw [copyStep_asks hring hout hssp]
  obtain ⟨p, hp, hkind, hdest, hofs, -, hremote⟩ := sendRemote_here (s := s)
    (e := { ownRemote s c (copyOrd c.params) (copyPiece c k).1.toNat with len := (copyPiece c k).2.2 }) hhere
  exact ⟨p, hp, hkind, hdest, hofs, hremote⟩

section bytes
variable {u : State} {bs : List Byte}
  (hbytes : (pieceOut s c.id = none ∧ copySsp c.params ≠ 2 ∧ ∃ w, copyRead (copySsp c.params) (copyPiece c k).1 (copyPiece c k).2.2 s = (u, .ok bs w))
    ∨ copyDsp c.params ≠ 2 ∧ u = s ∧ ∃ e, pieceOut s c.id = some e ∧ e.write = false ∧ e.data.length = e.len ∧ e.data = bs)
include hbytes

/-- The bytes of a piece for another core's pool within the package leave. -/
theorem copyStep_sends (hdsp : copyDsp c.params = 2) (hhere : corePkg (ordPlace u (copyOrd c.params)) = corePkg u.core.id) :
    ∃ p, (copyStep c k s).net.packets = u.net.packets ++ [p] ∧ p.kind = 4 ∧ p.dest = routerOf (ordPlace u (copyOrd c.params))
      ∧ p.ofs = BitVec.ofNat 32 (copyPiece c k).2.1.toNat ∧ p.data = bs := by
  rcases hbytes with ⟨hout, hssp, w, hw⟩ | ⟨hno, -⟩
  · rw [copyStep_read hring hout hssp hw, if_pos hdsp]
    obtain ⟨p, hp, hkind, hdest, hofs, hdata, -⟩ := sendRemote_here (s := u) (e := { ownRemote u c (copyOrd c.params)
      (copyPiece c k).2.1.toNat with
        write := true, data := bs, len := bs.length, lo := (copyRun c (k / Nat.max 1 (rowPieces c))).1
        hi := (copyRun c (k / Nat.max 1 (rowPieces c))).2, row := (rowAddrs c (k / Nat.max 1 (rowPieces c))).2.toNat
        width := (copyRows c).2
        before := if k / Nat.max 1 (rowPieces c) = 0 then none else some (rowAddrs c (k / Nat.max 1 (rowPieces c) - 1)).2.toNat }) hhere
    exact ⟨p, hp, hkind, hdest, hofs, hdata⟩
  · exact absurd hdsp hno

/-- The bytes of a piece are written here. -/
theorem copyStep_writes {v : State}
    (hv : copyDsp c.params = 0 ∧ engineOwnWrite (copyPiece c k).2.1.toNat bs u = (v, .done)
      ∨ copyDsp c.params = 1 ∧ engineGlobalWrite (copyPiece c k).2.1.toNat bs (storeScope u (cmdPsc c)) u = (v, .done)) :
    copyStep c k s = pieceDone c k (dropPiece c.id v) := by
  have hdsp : copyDsp c.params ≠ 2 := by
    rcases hv with ⟨h, -⟩ | ⟨h, -⟩
    · rw [h]; decide
    · rw [h]; decide
  rcases hbytes with ⟨hout, hssp, w, hw⟩ | ⟨-, rfl, e, hout, hwe, hlen, rfl⟩
  · rw [copyStep_read hring hout hssp hw, if_neg hdsp, writePiece_done hv]
  · rw [copyStep_came hring hout hwe hlen, writePiece_done hv]

end bytes
end copyStep

theorem copyQueueStep_copy {c : Command} (hop : c.op = .copy ∨ c.op = .copy2d) (hbytes : copyBytes c ≠ 0) (k : Nat) (s : State) :
    copyQueueStep c k s = copyStep c k s := by
  unfold copyQueueStep
  rcases hop with hop | hop
  · rw [hop]
    exact if_neg hbytes
  · rw [hop]
    exact if_neg hbytes

/-! ## Labels -/

section bind
variable {c : Command} {s : State}

/-- The two bits of an `LBIND`'s field that say what it does: a send label, and an unbinding. -/
theorem bindBits (k : BitVec 2) (h : field c.params[3] 0 2 = k) :
    c.params[3].getLsbD 0 = k.getLsbD 0 ∧ c.params[3].getLsbD 1 = k.getLsbD 1 := by
  subst h
  simp [field]

theorem bindStep_bindsReceive (hop : field c.params[3] 0 2 = (0 : BitVec 2))
    (hfree : s.core.port.recvLabels.any (fun x => x.1 == (field c.params[0] 0 16 : BitVec 16)) = false)
    (hroom : s.core.port.recvLabels.length < 64) (hbuf : (bufOf s (field c.params[1] 0 5 : BitVec 5).toNat).declared = true) :
    bindStep c s = finishCmd 5 { s with core.port.recvLabels := s.core.port.recvLabels ++ [(field c.params[0] 0 16, field c.params[1] 0 5)] } := by
  obtain ⟨h0, h1⟩ : c.params[3].getLsbD 0 = false ∧ c.params[3].getLsbD 1 = false := bindBits _ hop
  have hok : ¬ (64 ≤ s.core.port.recvLabels.length) := Nat.not_le.mpr hroom
  unfold bindStep
  simp only [h0, h1, hfree, hok, hbuf, Bool.false_eq_true, Bool.not_true, or_self, if_false]

theorem bindStep_bindsSend (hop : field c.params[3] 0 2 = (1 : BitVec 2))
    (hfree : s.core.port.sendLabels.any (fun x => x.1 == (field c.params[0] 0 16 : BitVec 16)) = false)
    (hroom : s.core.port.sendLabels.length < 64) :
    bindStep c s = finishCmd 5 { s with core.port.sendLabels := s.core.port.sendLabels
      ++ [((field c.params[0] 0 16 : BitVec 16), if (field c.params[2] 0 32 : Word) = 0 then (65536 : Word) else field c.params[2] 0 32)] } := by
  obtain ⟨h0, h1⟩ : c.params[3].getLsbD 0 = true ∧ c.params[3].getLsbD 1 = false := bindBits _ hop
  have hok : ¬ (64 ≤ s.core.port.sendLabels.length) := Nat.not_le.mpr hroom
  unfold bindStep
  simp only [h0, h1, hfree, hok, Bool.false_eq_true, or_self, if_true, if_false]

theorem bindStep_unbindsReceive (hop : field c.params[3] 0 2 = (2 : BitVec 2))
    (hbound : s.core.port.recvLabels.any (fun x => x.1 == (field c.params[0] 0 16 : BitVec 16)) = true)
    (hquiet : labelPackets s (field c.params[0] 0 16) = false) :
    bindStep c s = finishCmd 5 { cutCircuits (fun x => x.receiver == s.core.id && x.label == field c.params[0] 0 16) 3 s with
      core.port.recvLabels := s.core.port.recvLabels.filter (fun x => x.1 != field c.params[0] 0 16) } := by
  obtain ⟨h0, h1⟩ : c.params[3].getLsbD 0 = false ∧ c.params[3].getLsbD 1 = true := bindBits _ hop
  unfold bindStep
  simp only [h0, h1, hbound, hquiet, Bool.false_eq_true, Bool.not_true, if_false]

theorem bindStep_unbindsSend (hop : field c.params[3] 0 2 = (3 : BitVec 2))
    (hbound : s.core.port.sendLabels.any (fun x => x.1 == (field c.params[0] 0 16 : BitVec 16)) = true) :
    bindStep c s = finishCmd 5 { freeLabelMeters (field c.params[0] 0 16) s with
      core.port.sendLabels := s.core.port.sendLabels.filter (fun x => x.1 != field c.params[0] 0 16) } := by
  obtain ⟨h0, h1⟩ : c.params[3].getLsbD 0 = true ∧ c.params[3].getLsbD 1 = true := bindBits _ hop
  unfold bindStep
  simp only [h0, h1, hbound, Bool.false_eq_true, Bool.not_true, if_true, if_false]

end bind

/-! ## Packets of metered flows -/

/-- Meters add packets and drop none. -/
def KeepsPackets (s t : State) : Prop := s.net.packets ⊆ t.net.packets

namespace KeepsPackets

theorem refl (s : State) : KeepsPackets s s := List.Subset.refl _

theorem of_eq {s t : State} (h : t.net.packets = s.net.packets) : KeepsPackets s t := fun _ hp => h ▸ hp

theorem trans {s t u : State} (h : KeepsPackets s t) (h' : KeepsPackets t u) : KeepsPackets s u := List.Subset.trans h h'

theorem ite {c : Prop} [Decidable c] {s t u : State} (h : KeepsPackets s t) (h' : KeepsPackets s u) : KeepsPackets s (if c then t else u) := by
  split
  · exact h
  · exact h'

end KeepsPackets

theorem keepsPackets_releasePromoted (c : Circuit) (s : State) : KeepsPackets s (releasePromoted c s) :=
  List.subset_append_left ..

theorem keepsPackets_endInterval (m : Meter) (s : State) : KeepsPackets s (endInterval m s) := by
  unfold endInterval
  extract_lets +onlyGivenNames key
  refine .ite (.of_eq rfl) ?_
  extract_lets idle s1
  have h1 : KeepsPackets s s1 := .of_eq rfl
  clear_value s1
  split
  · exact h1.trans (keepsPackets_releasePromoted ..)
  · exact h1

theorem keepsPackets_settleIntervals (n : Nat) (key : Meter → Bool) : ∀ s : State, KeepsPackets s (settleIntervals n key s) := by
  induction n with
  | zero => exact .refl
  | succ n ih =>
    intro s
    rw [settleIntervals]
    split
    · exact .ite (.refl s) ((keepsPackets_endInterval ..).trans (ih _))
    · exact .refl s

theorem keepsPackets_meterRoom (s : State) : KeepsPackets s (meterRoom s) := by
  unfold meterRoom
  refine .ite (.refl s) ?_
  split
  · exact .refl s
  · extract_lets s1
    refine .trans (t := s1) ?_ (.of_eq rfl)
    unfold s1
    split
    · split
      · exact keepsPackets_releasePromoted ..
      · exact .refl s
    · exact .refl s

theorem keepsPackets_meterTrip (m : Meter) (s : State) : KeepsPackets s (meterTrip m s) := by
  unfold meterTrip
  dsimp only
  split
  · exact .of_eq rfl
  · exact .of_eq rfl

theorem keepsPackets_meterDepart (ord : BitVec 24) (label : BitVec 16) (n thr : Nat) (s : State) :
    KeepsPackets s (meterDepart ord label n thr s) := by
  unfold meterDepart
  extract_lets key s1 room _ _ s2 s3
  have h1 : KeepsPackets s s1 := keepsPackets_settleIntervals ..
  have h2 : KeepsPackets s1 s2 := by
    unfold s2
    split
    · exact .refl s1
    · exact keepsPackets_meterRoom s1
  have h3 : KeepsPackets s2 s3 := .of_eq rfl
  refine (h1.trans h2).trans (h3.trans ?_)
  split
  · exact .ite (keepsPackets_meterTrip ..) (.refl s3)
  · exact .refl s3

theorem mem_sendPacket (p : Packet) (s : State) :
    { p with id := s.net.nextPkt, sent := 0, ejected := 0, answered := false } ∈ (sendPacket p s).net.packets :=
  List.mem_append_right _ (List.mem_singleton.mpr rfl)

/-- A `SEND` without a circuit leaves as a packet of its bytes. -/
theorem sendStep_departs {c : Command} {s u : State} {bs : List Byte} {w : List (Nat × Nat)} (hpool : c.params[0].toNat < 2 ^ 17)
    (h : checkedRead 5 c.params[0].toNat (sendLen c) s = (u, .ok bs w)) (hflow : flowEntry u c = none) :
    sendStep c 0 s = departPacket c bs false u := by
  have hread : sendStep c 0 s = sendRead c 0 (sendLen c) (sendDepart c 0) s := rfl
  rw [hread, sendRead, if_neg (by omega), Nat.add_zero, h]
  simp only [sendDepart, hflow]

theorem departPacket_packet (c : Command) (bs : List Byte) (s : State) :
    ∃ p, p ∈ (departPacket c bs false s).net.packets ∧ p.kind = 2 ∧ p.label = sendLabel c ∧ p.ofs = BitVec.ofNat 32 (sendOfs c) ∧ p.data = bs
      ∧ p.dest = routerOf (ordPlace s (sendOrd c)) ∧ p.cmd = c.id := by
  unfold departPacket
  extract_lets dst thr p t
  have hkeeps (o : Option Nat) :
      KeepsPackets t (match o with | some n => meterDepart (sendOrd c) (sendLabel c) (sendLen c) n t | none => t) := by
    cases o with
    | some n => exact keepsPackets_meterDepart ..
    | none => exact .refl t
  exact ⟨_, hkeeps thr (mem_sendPacket _ _), rfl, rfl, rfl, rfl, rfl, rfl⟩

/-! ## Circuits -/

theorem openStep_launches {c : Command} {s u : State}
    (hbound : labelBound (field c.params[1] 0 24) (field c.params[1] 24 16) s = (u, true)) (hlo : 1 ≤ c.params[2].toNat)
    (hhi : c.params[2].toNat ≤ 2 ^ 24) (hhere : corePkg (ordPlace u (field c.params[1] 0 24)) = corePkg u.core.id)
    (hst : (handleOf s (field c.params[0] 0 3)).st ∈ ([0, 4, 5] : List (BitVec 3))) :
    openStep c 0 s = launchProbe (field c.params[0] 0 3) (field c.params[1] 0 24) (field c.params[1] 24 16) false c.params[2].toNat
      (handleOf s (field c.params[0] 0 3)).st (setCursor 1 (setHandle (field c.params[0] 0 3)
        { handleOf s (field c.params[0] 0 3) with
          st := 1, resume := 0, resumeCmd := 0, dest := field c.params[1] 0 24, label := field c.params[1] 24 16 } u)) := by
  unfold openStep
  rw [if_neg (by simp)]
  extract_lets h ord label lease x b t
  have hb : b = (u, true) := hbound
  have hx : x.st = 0 ∨ x.st = 4 ∨ x.st = 5 := by simpa [x, h] using hst
  have ht : t = u := congrArg Prod.fst hb
  have hfree : x.st ≠ 1 ∧ x.st ≠ 2 ∧ x.st ≠ 3 ∧ x.st ≠ 6 := by
    rcases hx with hx | hx | hx <;> rw [hx] <;> decide
  have hno : ¬ (lease = 0 ∨ 2 ^ 24 < lease ∨ corePkg (ordPlace t ord) ≠ corePkg t.core.id ∨ (!b.2) = true ∨ x.st = 1 ∨ x.st = 2 ∨ x.st = 3) := by
    obtain ⟨h1, h2, h3, -⟩ := hfree
    rw [ht, hb]
    simp only [h1, h2, h3, or_false, Bool.not_true, Bool.false_eq_true, not_or, lease, ord]
    exact ⟨by omega, by omega, not_not_intro hhere⟩
  rw [if_neg hno, if_neg hfree.2.2.2]
  clear_value t
  subst ht
  rfl

/-- The handle is taken, and one probe leaves. -/
theorem openStep_probes {c : Command} {s u : State}
    (hbound : labelBound (field c.params[1] 0 24) (field c.params[1] 24 16) s = (u, true)) (hlo : 1 ≤ c.params[2].toNat)
    (hhi : c.params[2].toNat ≤ 2 ^ 24) (hhere : corePkg (ordPlace u (field c.params[1] 0 24)) = corePkg u.core.id)
    (hst : (handleOf s (field c.params[0] 0 3)).st ∈ ([0, 4, 5] : List (BitVec 3))) :
    handleOf (openStep c 0 s) (field c.params[0] 0 3) = { handleOf s (field c.params[0] 0 3) with
        st := 1, resume := 0, resumeCmd := 0, dest := field c.params[1] 0 24, label := field c.params[1] 24 16 }
      ∧ ∃ p, (openStep c 0 s).net.probes = u.net.probes ++ [p] ∧ p.slot = field c.params[0] 0 3 ∧ p.ord = field c.params[1] 0 24
        ∧ p.label = field c.params[1] 24 16 ∧ p.lease = c.params[2].toNat
        ∧ p.dest = routerOf (ordPlace u (field c.params[1] 0 24)) ∧ p.promoted = false := by
  rw [openStep_launches hbound hlo hhi hhere hst, setCursor, updExec_frame]
  exact ⟨handleOf_setHandle_same .., _, rfl, rfl, rfl, rfl, rfl, rfl, rfl⟩

theorem circuitTraffic_beats (c : Circuit) (s : State) : (circuitTraffic c s).net.beats = s.net.beats := by
  unfold circuitTraffic
  induction circuitLinks c.pkg c.path generalizing s with
  | nil => rfl
  | cons l r ih => exact (ih _).trans rfl

theorem sendWindow_beats {x : Circuit} {t : TxWindow} {s u : State} {bs : List Byte} {w : List (Nat × Nat)}
    (h : checkedRead 5 t.src t.len s = (u, .ok bs w)) : (sendWindow x t s).net.beats = u.net.beats ++ windowBeats x.id t.start bs := by
  unfold sendWindow
  simp only [h]
  rw [circuitTraffic_beats]
  rfl

/-- The next window of a `CSTREAM`, of at most 4,096 bytes, leaves. -/
theorem streamStep_beats {c : Command} {k : Nat} {s u : State} {x : Circuit} {bs : List Byte} {w : List (Nat × Nat)}
    (hk : k < streamLen c) (hown : ownCircuit s (field c.params[1] 0 3) = some x) (hdue : dueWindow s x = none) (htwo : x.tx.length < 2)
    (hfar : ∀ t ∈ x.tx, t.cmd = c.id → streamOfs c + k < t.start + 8192)
    (h : checkedRead 5 (c.params[0].toNat + k) (Nat.min 4096 (streamLen c - k)) s = (u, .ok bs w)) :
    (streamStep c k s).net.beats = u.net.beats ++ windowBeats x.id (streamOfs c + k) bs := by
  have hbusy : ¬ (2 ≤ x.tx.length ∨ x.tx.any (fun t => t.cmd == c.id && decide (t.start + 8192 ≤ streamOfs c + k)) = true) := by
    rintro (h2 | hany)
    · omega
    · obtain ⟨t, ht, hb⟩ := List.any_eq_true.mp hany
      obtain ⟨hc, hle⟩ := Bool.and_eq_true_iff.mp hb
      exact absurd (hfar t ht (beq_iff_eq.mp hc)) (by have := of_decide_eq_true hle; omega)
  unfold streamStep
  simp only [hown, hdue]
  rw [if_neg (by omega), if_neg hbusy]
  have hs := sendWindow_beats (x := x) (t := ⟨c.id, streamOfs c + k, Nat.min 4096 (streamLen c - k), c.params[0].toNat + k, 0, none⟩) h
  split
  · exact (congrArg (·.net.beats) (onlyExec_setCursor ..)).trans hs
  · exact hs

end Sys2Proof.Machine
end

section
/-! SUPPORT. What the failure of a check window changes (R163, R164, R345, R351). -/

namespace Sys2Proof.Machine

/-- Streams, sinks, the grid and the progress of commands may have gone back: nothing else differs, and no other command is in execution. -/
structure Rewound (s t : State) : Prop where
  frame : t = { s with core.eng.exec := t.core.eng.exec, core.eng.streams := t.core.eng.streams, core.eng.sinks := t.core.eng.sinks,
                       core.grid := t.core.grid, core.sys.srp := t.core.sys.srp }
  ids : ∀ q, (execOf t q).map Running.id = (execOf s q).map Running.id

namespace Rewound

theorem refl (s : State) : Rewound s s := ⟨rfl, fun _ => rfl⟩

/-- A change of streams, sinks, the grid and `SRP` alone. -/
theorem of_eq {s t : State} (h : t = { s with core.eng.streams := t.core.eng.streams, core.eng.sinks := t.core.eng.sinks,
                                              core.grid := t.core.grid, core.sys.srp := t.core.sys.srp }) : Rewound s t := by
  have hexec : t.core.eng.exec = s.core.eng.exec := congrArg (·.core.eng.exec) h
  refine ⟨?_, fun q => ?_⟩
  · rw [hexec]
    exact h
  · unfold execOf
    rw [hexec]

theorem trans {s t u : State} (h : Rewound s t) (h' : Rewound t u) : Rewound s u := by
  refine ⟨?_, fun q => (h'.ids q).trans (h.ids q)⟩
  have hu := h'.frame
  rw [h.frame] at hu
  exact hu

theorem ite {c : Prop} [Decidable c] {s t u : State} (h : Rewound s t) (h' : Rewound s u) : Rewound s (if c then t else u) := by
  split
  · exact h
  · exact h'

theorem foldl {α : Type} {f : State → α → State} (h : ∀ s x, Rewound s (f s x)) (l : List α) (s : State) : Rewound s (l.foldl f s) := by
  induction l generalizing s with
  | nil => exact .refl s
  | cons x l ih => exact (h s x).trans (ih _)

theorem kept {s t : State} (h : Rewound s t) : KeptByEngines s t :=
  ⟨congrArg (·.core.regs) h.frame, congrArg (·.homes) h.frame, congrArg (·.core.eng.queues) h.frame, h.ids⟩

theorem net {s t : State} (h : Rewound s t) : t.net = s.net := congrArg (·.net) h.frame

theorem port {s t : State} (h : Rewound s t) : t.core.port = s.core.port := congrArg (·.core.port) h.frame

theorem pool {s t : State} (h : Rewound s t) : t.core.pool = s.core.pool := congrArg (·.core.pool) h.frame

end Rewound

theorem rewound_updExec (q : Nat) (f : Running → Running) (s : State) (hf : ∀ r, (f r).id = r.id := by exact fun _ => rfl) :
    Rewound s (updExec q f s) := by
  refine ⟨?_, (kept_updExec q f s hf).ids⟩
  have hframe := updExec_frame q f s
  rw [hframe]

theorem rewound_rewindWindow (w : Nat × Nat) (i : Nat) (s : State) : Rewound s (rewindWindow w i s) := by
  unfold rewindWindow
  split
  · exact .of_eq rfl
  · exact .refl s

theorem rewound_rewindTo (i n : Nat) (taken : List Token) (s : State) : Rewound s (rewindTo i n taken s) := by
  unfold rewindTo
  split
  · extract_lets s1 s2
    have h1 : Rewound s s1 := .ite (.of_eq rfl) (.of_eq rfl)
    have h2 : Rewound s1 s2 := .ite (.of_eq rfl) (.of_eq rfl)
    exact (h1.trans h2).trans (rewound_updExec ..)
  · exact .refl s

theorem rewound_windowFailed (w : Nat × Nat) (s : State) : Rewound s (windowFailed w s) := by
  unfold windowFailed
  extract_lets s1 s2
  have h1 : Rewound s s1 := .foldl (fun s i => by
    split
    · exact .ite (rewound_rewindWindow ..) (.refl s)
    · exact .refl s) _ s
  clear_value s1
  have h2 : Rewound s1 s2 := by
    unfold s2
    split
    · exact .ite (.of_eq rfl) (.refl s1)
    · exact .refl s1
  clear_value s2
  refine h1.trans (h2.trans ?_)
  split
  · split
    · split
      · extract_lets back s3
        have hback (column : Bool) (t : State) : Rewound t (back column t) := by
          unfold back
          split
          · exact rewound_rewindTo ..
          · exact .refl t
        have h3 : Rewound s2 s3 := (hback false s2).trans (hback true _)
        clear_value s3
        exact h3.trans (.trans (.of_eq rfl) (rewound_updExec ..))
      · exact .refl s2
    · exact .refl s2
  · exact .refl s2

theorem rewound_windowPassed (w : Nat × Nat) (s : State) : Rewound s (windowPassed w s) := by
  unfold windowPassed
  dsimp only
  split
  · exact .ite (.of_eq rfl) (.of_eq rfl)
  · exact .of_eq rfl

/-! ## Circuits that go -/

theorem kept_failWindow (w : RxWindow) (s : State) : KeptByEngines s (failWindow w s) := by
  unfold failWindow
  refine .trans ?_ (rewound_windowFailed ..).kept
  exact ⟨rfl, rfl, rfl, fun _ => rfl⟩

theorem kept_changeChk (label : BitVec 16) (f : Nat → Nat) (s : State) : KeptByEngines s (changeChk label f s) := by
  unfold changeChk
  split
  · exact kept_setBuf ..
  · exact .refl s

theorem kept_dropWindow (w : RxWindow) (s : State) : KeptByEngines s (dropWindow w s) := by
  unfold dropWindow
  extract_lets +onlyGivenNames s1
  have h1 : KeptByEngines s s1 := kept_failWindow w s
  clear_value s1
  refine h1.trans (.ite ?_ ⟨rfl, rfl, rfl, fun _ => rfl⟩)
  refine .trans ?_ (kept_changeChk ..)
  exact ⟨rfl, rfl, rfl, fun _ => rfl⟩

theorem kept_removeCircuit (c : Circuit) (s : State) : KeptByEngines s (removeCircuit c s) := by
  rw [removeCircuit_eq]
  have h : KeptByEngines s (withoutCircuit c s) := ⟨rfl, rfl, rfl, fun _ => rfl⟩
  refine .ite (h.trans ?_) h
  unfold endWindows
  extract_lets mine unacked s1
  have h1 : KeptByEngines (withoutCircuit c s) s1 := .foldl (fun s w => kept_dropWindow w s) _ _
  clear_value s1
  exact h1.trans ⟨rfl, rfl, rfl, fun _ => rfl⟩

theorem kept_releaseExplicit (c : Circuit) (s : State) : KeptByEngines s (releaseExplicit c s) :=
  (kept_removeCircuit c s).trans ⟨rfl, rfl, rfl, fun _ => rfl⟩

theorem kept_settleCloses (s : State) : KeptByEngines s (settleCloses s) :=
  .foldl (fun s i => by
    refine .ite ?_ (.refl s)
    split
    · exact kept_releaseExplicit ..
    · exact ⟨rfl, rfl, rfl, fun _ => rfl⟩) _ s

/-! ## Completion -/

theorem kept_raiseFlags (f : Flags) (s : State) : KeptByEngines s (raiseFlags f s) := ⟨rfl, rfl, rfl, fun _ => rfl⟩

theorem kept_endGrid (s : State) : KeptByEngines s (endGrid s) := by
  unfold endGrid
  extract_lets _ _ s1 s2
  have h1 : KeptByEngines s s1 := by
    unfold s1
    split
    · refine .trans (.ite ?_ (.refl s)) (kept_raiseFlags ..)
      exact ⟨rfl, rfl, rfl, fun _ => rfl⟩
    · exact .refl s
  have h2 : KeptByEngines s1 s2 := by
    unfold s2
    split
    · exact kept_raiseFlags ..
    · exact .refl s1
  exact (h1.trans h2).trans ⟨rfl, rfl, rfl, fun _ => rfl⟩

theorem kept_slotComplete (k : BitVec 5) (id : Nat) (late err : Bool) (s : State) : KeptByEngines s (slotComplete k id late err s) := by
  unfold slotComplete
  refine .ite (.refl s) ?_
  dsimp only
  split
  · exact ⟨rfl, rfl, rfl, fun _ => rfl⟩
  · exact ⟨rfl, rfl, rfl, fun _ => rfl⟩

/-- A command retired: its queue executes none, its entry has left the head; registers and homes stay. -/
theorem retireCommand_leaves {q : Nat} (hq : q < 6) (c : Command) (r : Running) (s : State) :
    execOf (retireCommand q c r s) q = none ∧ (queueOf (retireCommand q c r s) q).head = (queueOf s q).head + 1
      ∧ (queueOf (retireCommand q c r s) q).tail = (queueOf s q).tail ∧ (retireCommand q c r s).core.regs = s.core.regs
      ∧ (retireCommand q c r s).homes = s.homes := by
  unfold retireCommand
  extract_lets s1 s2 late s3 _ _ s4
  have h1 : KeptByEngines s s1 := .foldl (fun s i => kept_readerDone i s) _ s
  have h2 : KeptByEngines s1 s2 := .ite (kept_endGrid ..) (.ite (kept_setStream ..) (.refl s1))
  have h3 : KeptByEngines (setExec q none (dequeueCmd q s2)) s3 := kept_slotComplete ..
  have h4 : KeptByEngines s3 s4 := .ite ⟨rfl, rfl, rfl, fun _ => rfl⟩ (.refl s3)
  have h5 : KeptByEngines s4 (if q = 5 then settleCloses s4 else s4) := .ite (kept_settleCloses s4) (.refl s4)
  have hpre := h1.trans h2
  have hpost := (h3.trans h4).trans h5
  clear_value s1 s2 s3 s4
  have hqueue : queueOf (setExec q none (dequeueCmd q s2)) q
      = { queueOf s2 q with slots := (queueOf s2 q).slots.setIfInBounds ((queueOf s2 q).head.toNat % 16) none, head := (queueOf s2 q).head + 1 } :=
    (queueOf_setQueue ..).trans (if_pos ⟨rfl, hq⟩)
  have hnone : execOf (setExec q none (dequeueCmd q s2)) q = none := (execOf_setExec ..).trans (if_pos ⟨rfl, hq⟩)
  refine ⟨hpost.execOf_none hnone, ?_, ?_, hpost.regs.trans hpre.regs, hpost.homes.trans hpre.homes⟩
  · rw [hpost.queueOf, hqueue, hpre.queueOf]
  · rw [hpost.queueOf, hqueue, hpre.queueOf]

/-- A finished command that nothing holds is retired once its writes have performed. -/
theorem execEngineCommandComplete_retires {s s' : State} {q : Nat} {c : Command} {r : Running} (hlive : engineLive s = true)
    (hhead : queueHead s q = some c) (hr : execOf s q = some r) (hf : r.finished = true) (hheld : completionHeld s q = false)
    (hscope : writeScope (restarted q s) q c = none ∧ s' = restarted q s
      ∨ ∃ scope, writeScope (restarted q s) q c = some scope ∧ pushLayer scope (restarted q s) = (s', .done)
        ∧ scopeOpen s' scope s'.core.mq.seq = false) :
    exec (.engineCommandComplete q) s = .next (retireCommand q c r s') := by
  rw [exec_engineCommandComplete, execEngineCommandComplete, hhead, hr]
  simp only [hlive, hf, hheld, Bool.not_true, Bool.false_eq_true, if_false, Bool.or_self]
  obtain ⟨hnone, rfl⟩ | ⟨scope, hsome, hpush, hopen⟩ := hscope
  · rw [hnone]
  · simp only [hsome, hpush, hopen, Bool.false_eq_true, if_false]

end Sys2Proof.Machine
end

section
/-! SUPPORT. Streams and `SRP` (R29, R119, R120, R162). -/

namespace Sys2Proof.Machine

theorem leNat_leBytes (n x : Nat) : leNat (leBytes n x) = x % 256 ^ n := by
  have h := leNat_leBytes_append n x []
  rwa [List.append_nil, leNat, Nat.mul_zero, Nat.add_zero] at h

/-- The 32 bytes of a token make the token again. -/
theorem ofNat_leNat_leBytes_token (k : TokenData) : BitVec.ofNat 256 (leNat (leBytes 32 k.toNat)) = k := by
  apply BitVec.eq_of_toNat_eq
  rw [leNat_leBytes, BitVec.toNat_ofNat, Nat.mod_eq_of_lt (a := k.toNat) (b := 256 ^ 32) k.isLt, Nat.mod_eq_of_lt k.isLt]

/-! ## Streams -/

theorem streamOf_setStream (q : Nat) (r : Option StreamRun) (s : State) (k : Nat) :
    streamOf (setStream q r s) k = if k = q ∧ q < 4 then r else streamOf s k := by
  unfold streamOf setStream
  rw [vgetD_setIfInBounds]

theorem srp_setSrp {q : Nat} (hq : q < 4) (n : Nat) (v : Bool) (s : State) :
    vgetD (setSrp q n v s).core.sys.srp q 0 = dw (n % 2 ^ 48) ||| b64 v <<< 63 := by
  unfold setSrp
  rw [vgetD_setIfInBounds, if_pos ⟨rfl, hq⟩]

theorem srpV_setSrp_same {q : Nat} (hq : q < 4) (n : Nat) (v : Bool) (s : State) : srpV (setSrp q n v s) q = v := by
  have hlow : (dw (n % 2 ^ 48)).getLsbD 63 = false := by
    rw [BitVec.getLsbD_ofNat, Nat.testBit_lt_two_pow (lt_of_lt_of_le (Nat.mod_lt _ (by decide)) (by decide)), Bool.and_false]
  rw [srpV, srp_setSrp hq, BitVec.getLsbD_or, hlow]
  cases v <;> decide

theorem srpSeq_setSrp_same {q : Nat} (hq : q < 4) (n : Nat) (v : Bool) (s : State) : srpSeq (setSrp q n v s) q = n % 2 ^ 48 := by
  have hn : n % 2 ^ 48 < 2 ^ 48 := Nat.mod_lt _ (by decide)
  have hv : (b64 v <<< 63).toNat % 2 ^ 48 = 0 := by cases v <;> decide
  rw [srpSeq, srp_setSrp hq, fieldN_low, BitVec.toNat_or, Nat.or_mod_two_pow, hv, Nat.or_zero, BitVec.toNat_ofNat,
    Nat.mod_eq_of_lt (b := 2 ^ 64) (by omega), Nat.mod_mod]

theorem srpV_setSrp_other {q k : Nat} (h : k ≠ q) (n : Nat) (v : Bool) (s : State) : srpV (setSrp q n v s) k = srpV s k := by
  unfold srpV setSrp
  rw [vgetD_setIfInBounds, if_neg fun e => h e.1]

theorem srpSeq_setSrp_other {q k : Nat} (h : k ≠ q) (n : Nat) (v : Bool) (s : State) : srpSeq (setSrp q n v s) k = srpSeq s k := by
  unfold srpSeq setSrp
  rw [vgetD_setIfInBounds, if_neg fun e => h e.1]

/-- An engine whose stream goes on. -/
theorem liveStream_some {s : State} {q : Nat} {r : StreamRun} {x : Running} (hlive : engineLive s = true) (hr : streamOf s q = some r)
    (hx : execOf s q = some x) (hf : x.finished = false) (hstop : x.stopped = false) : liveStream s q = some (r, x) := by
  unfold liveStream
  simp only [hr, hx, hlive, hf, hstop, Bool.not_false, Bool.and_self, if_true]

/-! ## The read of a token -/

section stream
variable {s : State} {se : BitVec 2} {r : StreamRun} {x : Running} (hstream : liveStream s se.toNat = some (r, x))
include hstream

/-- A token of the feed queue. -/
theorem execStreamTokenDeliver_feed {k : TokenData} {ks : List TokenData} (hw : r.write = false) (hroom : r.ahead.length < 16)
    (htrip : r.nextRead < r.trip) (hsp : r.space = .queue) (hfeed : s.core.grid.feed = k :: ks) :
    exec (.streamTokenDeliver se) s = .next (restarted se.toNat (settleQueues (setStream se.toNat
      (some { r with ahead := r.ahead ++ [⟨r.nextRead, k, []⟩], nextRead := r.nextRead + 1 }) { s with core.grid.feed := ks }))) := by
  have hgo : ¬ (r.write = true ∨ 16 ≤ r.ahead.length ∨ r.trip ≤ r.nextRead) := by simp [hw, hroom, htrip]
  rw [exec_streamTokenDeliver, execStreamTokenDeliver, hstream]
  simp only [hgo, hsp, hfeed, if_false, pushToken, ofNat_leNat_leBytes_token]

/-- A token of the bytes that are read. -/
theorem execStreamTokenDeliver_bytes {s' : State} {bs : List Byte} {w : List (Nat × Nat)} (hw : r.write = false)
    (hroom : r.ahead.length < 16) (htrip : r.nextRead < r.trip) (hsp : r.space ≠ .queue)
    (halign : (streamAddr r r.nextRead).toNat % 32 = 0) (h : engineRead se.toNat r.space (streamAddr r r.nextRead) 32 s = (s', .ok bs w)) :
    exec (.streamTokenDeliver se) s = .next (restarted se.toNat (setStream se.toNat
      (some { r with ahead := r.ahead ++ [⟨r.nextRead, BitVec.ofNat 256 (leNat bs), w⟩], nextRead := r.nextRead + 1 }) s')) := by
  have hgo : ¬ (r.write = true ∨ 16 ≤ r.ahead.length ∨ r.trip ≤ r.nextRead) := by simp [hw, hroom, htrip]
  have htoken : tokenAligned (streamAddr r r.nextRead) = true := beq_iff_eq.mpr halign
  rw [exec_streamTokenDeliver, execStreamTokenDeliver, hstream]
  simp only [hgo, if_false, htoken, if_true, h, pushToken]

/-! ## The commit of a token -/

theorem execStreamTokenCommit_commits {k : SinkToken} {ks : List SinkToken} {s' : State} (hw : r.write = true)
    (hsinks : s.core.eng.sinks = k :: ks) (hseq : k.seq = r.nextRead) (hchecked : k.unchecked = false)
    (h : commitToken r k s = (s', .done)) :
    exec (.streamTokenCommit se) s = .next (restarted se.toNat (countToken se.toNat k.seq r
      (setStream se.toNat (some { r with nextRead := r.nextRead + 1 }) { s' with core.eng.sinks := ks }))) := by
  rw [exec_streamTokenCommit, execStreamTokenCommit, hstream]
  simp only [hw, hsinks, Bool.not_true, Bool.false_eq_true, if_false, hseq, Nat.lt_irrefl, hchecked, or_self, h]

end stream

theorem restarted_frame (q : Nat) (s : State) : restarted q s = { s with core.eng.restoring := (restarted q s).core.eng.restoring } := by
  unfold restarted
  split
  · rfl
  · rfl

theorem countToken_frame (q n : Nat) (r : StreamRun) (s : State) :
    countToken q n r s = { setSrp q n true s with core.eng.exec := (countToken q n r s).core.eng.exec } := by
  unfold countToken
  dsimp only
  split
  · exact updExec_frame ..
  · rfl

/-- What the commit of a token leaves. -/
theorem committed_frame {q : Nat} (hq : q < 4) (n : Nat) (r r' : StreamRun) (u : State) :
    let t := restarted q (countToken q n r (setStream q (some r') u))
    t = { u with core.eng.streams := t.core.eng.streams, core.eng.exec := t.core.eng.exec, core.eng.restoring := t.core.eng.restoring,
                 core.sys.srp := t.core.sys.srp }
      ∧ streamOf t q = some r' ∧ srpV t q = true ∧ srpSeq t q = n % 2 ^ 48 := by
  intro t
  have hcount := countToken_frame q n r (setStream q (some r') u)
  have ht : t = { countToken q n r (setStream q (some r') u) with core.eng.restoring := t.core.eng.restoring } := restarted_frame ..
  generalize t.core.eng.restoring = m at ht
  generalize (countToken q n r (setStream q (some r') u)).core.eng.exec = e at hcount
  rw [hcount] at ht
  clear_value t
  subst ht
  exact ⟨rfl, (streamOf_setStream q (some r') u q).trans (if_pos ⟨rfl, hq⟩), srpV_setSrp_same hq n true u, srpSeq_setSrp_same hq n true u⟩

end Sys2Proof.Machine
end

section
/-! SUPPORT. The grid at work (R128, R129, R133-R135, R160, R164, R262). -/

namespace Sys2Proof.Machine

/-! ## What a step computes depends on the banks only -/

section banks
variable {s t : State} (h : t.core.grid.banks = s.core.grid.banks)
include h

theorem clusterWord_congr : clusterWord t = clusterWord s := by
  funext b n
  unfold clusterWord bankNat bankByte
  rw [h]

theorem senders_congr : senders t = senders s := by
  funext b n
  unfold senders sendsTo
  rw [clusterWord_congr h]

theorem linkDepth_congr (b : BitVec 2) (k : Nat) : linkDepth t b k = linkDepth s b k := by
  induction k with
  | zero => rfl
  | succ k ih =>
    funext n
    rw [linkDepth, linkDepth, clusterWord_congr h, senders_congr h, ih]

theorem clusterStep_congr : clusterStep t = clusterStep s := by
  funext st i n prev
  unfold clusterStep
  rw [clusterWord_congr h, linkDepth_congr h]

theorem gridCompute_congr : gridCompute t = gridCompute s := by
  funext st i
  unfold gridCompute allClusters
  rw [clusterWord_congr h, senders_congr h, clusterStep_congr h]

end banks

theorem restarted_grid (q : Nat) (s : State) : (restarted q s).core.grid = s.core.grid := by
  rw [restarted_frame]

/-- What the work of the grid keeps: `SRP`, engines and the grid may differ, and the step trap that a step arms. -/
def GridFrame (s t : State) : Prop :=
  t = { s with core.grid := t.core.grid, core.eng := t.core.eng, core.sys.srp := t.core.sys.srp,
               core.seq.gridStepFired := t.core.seq.gridStepFired }

namespace GridFrame

theorem refl (s : State) : GridFrame s s := rfl

theorem trans {s t u : State} (h : GridFrame s t) (h' : GridFrame t u) : GridFrame s u := by
  rw [GridFrame] at h h'
  rw [h] at h'
  exact h'

end GridFrame

theorem gridFrame_restarted (q : Nat) (s : State) : GridFrame s (restarted q s) := by
  rw [restarted_frame]
  rfl

/-- What a taken token leaves of the grid and of the sinks. -/
theorem takeToken_frame (column : Bool) (k : Token) (s : State) :
    GridFrame s (takeToken column k s) ∧ (takeToken column k s).core.grid = s.core.grid
      ∧ (takeToken column k s).core.eng.sinks = s.core.eng.sinks := by
  unfold takeToken
  split
  · split
    · rw [countToken_frame]
      exact ⟨rfl, rfl, rfl⟩
    · exact ⟨rfl, rfl, rfl⟩
  · exact ⟨rfl, rfl, rfl⟩

/-- The step trap changes neither the grid nor the sinks. -/
theorem fireGridStep_frame (s : State) :
    GridFrame s (fireGridStep s) ∧ (fireGridStep s).core.grid = s.core.grid ∧ (fireGridStep s).core.eng.sinks = s.core.eng.sinks
      ∧ (fireGridStep s).core.sys = s.core.sys ∧ (fireGridStep s).core.pool = s.core.pool ∧ (fireGridStep s).core.regs = s.core.regs
      ∧ (fireGridStep s).homes = s.homes := by
  unfold fireGridStep
  split
  · rw [updExec_frame]
    exact ⟨rfl, rfl, rfl, rfl, rfl, rfl, rfl⟩
  · exact ⟨rfl, rfl, rfl, rfl, rfl, rfl, rfl⟩

/-! ## The step -/

/-- The tokens at the ports have been taken. -/
def portTaken (column : Bool) (k : Option Token) (s : State) : State := k.elim s (fun k => takeToken column k s)

def portsTaken (row col : Option Token) (s : State) : State := portTaken true col (portTaken false row s)

theorem portTaken_frame (column : Bool) (k : Option Token) (s : State) :
    GridFrame s (portTaken column k s) ∧ (portTaken column k s).core.grid = s.core.grid
      ∧ (portTaken column k s).core.eng.sinks = s.core.eng.sinks := by
  cases k with
  | some k => exact takeToken_frame ..
  | none => exact ⟨.refl s, rfl, rfl⟩

theorem portsTaken_frame (row col : Option Token) (s : State) :
    GridFrame s (portsTaken row col s) ∧ (portsTaken row col s).core.grid = s.core.grid
      ∧ (portsTaken row col s).core.eng.sinks = s.core.eng.sinks := by
  obtain ⟨hf, hg, hk⟩ := portTaken_frame false row s
  obtain ⟨hf', hg', hk'⟩ := portTaken_frame true col (portTaken false row s)
  exact ⟨hf.trans hf', hg'.trans hg, hk'.trans hk⟩

/-- A step outside check windows has run: its outcome bit and its gathered sinks have left it. -/
def stepped (g : GridRun) (o : StepOut) (seq : Nat) (u : State) : State := { u with
  core.grid.run := some { g with st := o.st, flags := g.flags ||| o.flags, taken := [] }
  core.grid.pq := u.core.grid.pq ++ o.pq.toList
  core.eng.sinks := if o.sinks ≠ [] ∧ seq < g.trip then u.core.eng.sinks ++ [gather o.sinks seq] else u.core.eng.sinks }

theorem runStep_of_open {g : GridRun} {row col : Option Token} {s : State} {o : StepOut} {seq : Nat} (hwindows : portWindows row col = [])
    (hwindow : g.window = none) (hcheck : g.check = none)
    (ho : gridCompute s g.st ⟨g.bank, g.st.step, g.first, g.trip, g.rm, row, col⟩ = o)
    (hseq : (o.sinks.map (fun x => x.2.tag.getD g.st.step)).headD g.st.step = seq)
    (htags : ∀ x ∈ o.sinks, x.2.tag.getD g.st.step = seq) (hpq : o.pq ≠ none → pqLoad s < pqCap s) :
    runStep g row col s = fireGridStep (if g.last ≤ g.st.step then finishCmd 4 (stepped g o seq (portsTaken row col s))
      else stepped g o seq (portsTaken row col s)) := by
  unfold runStep
  extract_lets t windows g' o' tags seq' keep s2 s1 taken _ _ _ w
  have hg : g' = g := by
    unfold g' windows
    rw [hwindows, hwindow]
  clear_value g'
  subst hg
  have ho' : o' = o := ho
  clear_value o'
  subst ho'
  have hall : tags.all (fun x => x == tags.headD t) = true := by
    refine List.all_eq_true.mpr fun y hy => beq_iff_eq.mpr ?_
    obtain ⟨x, hx, rfl⟩ := List.mem_map.mp hy
    exact (htags x hx).trans hseq.symm
  have hroom : ¬ (o'.pq.isSome && decide (pqCap s ≤ pqLoad s)) = true := by
    intro h
    obtain ⟨hsome, hle⟩ := Bool.and_eq_true_iff.mp h
    exact absurd (hpq (Option.isSome_iff_ne_none.mp hsome)) (Nat.not_lt.mpr (of_decide_eq_true hle))
  have hkeep : (keep = true) = (o'.sinks ≠ [] ∧ seq < g'.trip) := by
    have hs : seq' = seq := hseq
    simp [keep, hs]
  have hw : w = stepped g' o' seq (portsTaken row col s) := by
    have hs : seq' = seq := hseq
    have ht : taken = [] := by simp [taken, hcheck]
    have hs1 : s1 = portsTaken row col s := by cases row <;> cases col <;> rfl
    clear_value s1
    subst hs1
    simp only [w, stepped, hkeep, hs, ht, hcheck, Option.isSome_none, Bool.false_eq_true, if_false]
    rfl
  rw [hall, if_neg hroom, hw]
  rfl

theorem runStep_runs {g : GridRun} {row col : Option Token} {s : State} {o : StepOut} {seq : Nat} (hwindows : portWindows row col = [])
    (hwindow : g.window = none) (hcheck : g.check = none) (hsinks : s.core.eng.sinks = [])
    (ho : gridCompute s g.st ⟨g.bank, g.st.step, g.first, g.trip, g.rm, row, col⟩ = o)
    (hseq : (o.sinks.map (fun x => x.2.tag.getD g.st.step)).headD g.st.step = seq)
    (htags : ∀ x ∈ o.sinks, x.2.tag.getD g.st.step = seq) (hpq : o.pq ≠ none → pqLoad s < pqCap s) :
    GridFrame s (runStep g row col s)
      ∧ (runStep g row col s).core.grid.run = some { g with st := o.st, flags := g.flags ||| o.flags, taken := [] }
      ∧ (runStep g row col s).core.grid.pq = s.core.grid.pq ++ o.pq.toList
      ∧ (runStep g row col s).core.eng.sinks = if o.sinks ≠ [] ∧ seq < g.trip then [gather o.sinks seq] else [] := by
  rw [runStep_of_open hwindows hwindow hcheck ho hseq htags hpq]
  obtain ⟨hf, hgrid, hk⟩ := portsTaken_frame row col s
  generalize portsTaken row col s = u at hf hgrid hk
  have hstep : GridFrame u (stepped g o seq u) := rfl
  generalize hw : (if g.last ≤ g.st.step then finishCmd 4 (stepped g o seq u) else stepped g o seq u) = w
  have hwf : OnlyExec (stepped g o seq u) w := by
    rw [← hw]
    split
    · exact onlyExec_finishCmd ..
    · rfl
  have hwg : w.core.grid = (stepped g o seq u).core.grid := congrArg (·.core.grid) hwf
  have hws : w.core.eng.sinks = (stepped g o seq u).core.eng.sinks := congrArg (·.core.eng.sinks) hwf
  have hwgf : GridFrame (stepped g o seq u) w := by
    rw [hwf]
    rfl
  obtain ⟨hfire, hfg, hfs, -⟩ := fireGridStep_frame w
  refine ⟨hf.trans (hstep.trans (hwgf.trans hfire)), ?_, ?_, ?_⟩
  · rw [hfg, hwg]
    rfl
  · rw [hfg, hwg, stepped, hgrid]
  · rw [hfs, hws, stepped, hk, hsinks]
    rfl

/-- A configuration with its tokens, outside check windows, takes its step. -/
theorem execGridStep_runs {g : GridRun} {row col : Option Token} {s : State} (hlive : engineLive s = true) (hrun : s.core.grid.run = some g)
    (hworks : gridWorks s = true) (hsinks : s.core.eng.sinks = []) (hrow : portToken s g false = some row)
    (hcol : portToken s g true = some col) (hwindows : portWindows row col = []) (hwindow : g.window = none) :
    exec .gridStep s = .next (runStep g row col (restarted 4 s)) := by
  rw [exec_gridStep, execGridStep, hrun]
  simp only [hlive, hworks, hsinks, hrow, hcol, hwindows, hwindow, List.isEmpty_nil, Bool.not_true, Bool.or_self, Bool.false_eq_true,
    if_false, Option.toList_none, List.nil_append]
  exact if_pos (by decide)

/-! ## Blocks and retires of a `GMMA` -/

theorem not_isSaving_of_live {s : State} (h : engineLive s = true) : isSaving s = false := by
  unfold engineLive at h
  unfold isSaving
  split
  · next hrun => rw [hrun] at h; exact nomatch h
  · rfl

section gmma
variable {s : State} {g : GmmaRun} {c : Command} (hlive : engineLive s = true) (hg : s.core.grid.gmma = some g)
  (hhead : queueHead s 4 = some c) (hworks : gridWorks s = true)
include hlive hg hhead hworks

theorem execGmmaKblock_retires (hdue : retireDue c.params g s = true) (hwindows : g.windows = []) :
    exec .gmmaKblock s = .next (retireTile c.params g s) := by
  rw [exec_gmmaKblock, execGmmaKblock, hg, hhead]
  simp only [hlive, hworks, hdue, hwindows, List.isEmpty_nil, Bool.not_true, Bool.true_or, Bool.or_self, Bool.false_eq_true, if_true,
    if_false]

theorem execGmmaKblock_blocks (hdue : retireDue c.params g s = false) : exec .gmmaKblock s = .next (gmmaBlock c g (restarted 4 s)) := by
  rw [exec_gmmaKblock, execGmmaKblock, hg, hhead]
  simp only [hlive, hworks, hdue, not_isSaving_of_live hlive, Bool.not_true, Bool.true_or, Bool.or_self, Bool.false_and, Bool.false_eq_true,
    if_false]

end gmma

/-- A retire writes the tile, names its last block in `SRP0` and `SRP1`, and merges the flags. -/
theorem retireTile_writes (p : Vector DWord 4) (g : GmmaRun) (s : State) :
    (retireTile p g s).core.pool = (writeTile p g.acc s).core.pool
      ∧ srpV (retireTile p g s) 0 = true ∧ srpSeq (retireTile p g s) 0 = (g.nextBlock - 1) % 2 ^ 48
      ∧ srpV (retireTile p g s) 1 = true ∧ srpSeq (retireTile p g s) 1 = (g.nextBlock - 1) % 2 ^ 48
      ∧ (retireTile p g s).core.grid.gmma = some { g with flags := g.flags ||| g.flagsNew, flagsNew := 0 }
      ∧ (retireTile p g s).core.regs = s.core.regs ∧ (retireTile p g s).homes = s.homes := by
  have hkept := kept_writeTile p g.acc s
  unfold retireTile
  generalize writeTile p g.acc s = u at hkept
  extract_lets j s1 _ _ s2
  generalize hw : (if g.nextBlock = gmmaBlocks p ∨ g.stopping = true then finishCmd 4 s2 else s2) = w
  have hws : OnlyExec s2 w := by
    rw [← hw]
    split
    · exact onlyExec_finishCmd ..
    · rfl
  obtain ⟨-, hgrid, -, hsys, hpool, hregs, hhomes⟩ := fireGridStep_frame w
  have hsys' : (fireGridStep w).core.sys = s1.core.sys := hsys.trans (congrArg (·.core.sys) hws)
  have hsrp (k : Nat) : srpV (fireGridStep w) k = srpV s1 k ∧ srpSeq (fireGridStep w) k = srpSeq s1 k := by
    unfold srpV srpSeq
    rw [hsys']
    exact ⟨rfl, rfl⟩
  refine ⟨hpool.trans (congrArg (·.core.pool) hws), ?_, ?_, ?_, ?_, ?_, (hregs.trans (congrArg (·.core.regs) hws)).trans hkept.regs,
    (hhomes.trans (congrArg (·.homes) hws)).trans hkept.homes⟩
  · rw [(hsrp 0).1, srpV_setSrp_other (by decide), srpV_setSrp_same (by decide)]
  · rw [(hsrp 0).2, srpSeq_setSrp_other (by decide), srpSeq_setSrp_same (by decide)]
  · rw [(hsrp 1).1, srpV_setSrp_same (by decide)]
  · rw [(hsrp 1).2, srpSeq_setSrp_same (by decide)]
  · rw [hgrid]
    exact congrArg (·.core.grid.gmma) hws

theorem gmmaBlock_ends {c : Command} {g : GmmaRun} (h : gmmaBlocks c.params ≤ g.nextBlock) (s : State) : gmmaBlock c g s = finishCmd 4 s :=
  if_pos h

/-- A block whose operand rows are read is accumulated, and retired where a retire is due and no check window is open. -/
theorem gmmaBlock_accumulates {c : Command} {g : GmmaRun} {s u v : State} {a b : OperandBlock} (h : g.nextBlock < gmmaBlocks c.params)
    (ha : operandRows (gmmaFa c.params) (gmmaKb c.params) g.descA (gmmaScl c.params) g.narrow g.nextBlock (List.range (gmmaM c.params)) s
      ⟨[], [], 0⟩ = (u, .inr a))
    (hb : operandRows (gmmaFb c.params) (gmmaKb c.params) g.descB (gmmaScl c.params) g.narrow g.nextBlock (List.range (gmmaN c.params)) u
      ⟨[], [], 0⟩ = (v, .inr b)) :
    let cells := (List.range (gmmaM c.params * gmmaN c.params)).map (fun i => accumulate (gmmaScl c.params) (g.acc.getD i 0)
      (a.rows.getD (i / gmmaN c.params) ([], 127)) (b.rows.getD (i % gmmaN c.params) ([], 127)))
    let g' := { g with
      acc := cells.map (fun x => x.1), nextBlock := g.nextBlock + 1, windows := a.windows ++ b.windows ++ g.windows
      flagsNew := cells.foldl (fun f x => f ||| x.2) (g.flagsNew ||| a.flags ||| b.flags) }
    let w := { v with core.grid.gmma := some g' }
    gmmaBlock c g s = if retireDue c.params g' w && g'.windows.isEmpty then retireTile c.params g' w else w := by
  intro cells g' w
  unfold gmmaBlock
  simp only [ha, hb]
  exact if_neg (Nat.not_le.mpr h)

/-- A row of an operand without scale and special bytes: the values of its block, each from its code. -/
theorem operandRow_reads {fmt kb j m : Nat} {d : List Byte} {narrow : Bool} {u v : State} {bs : List Byte} {ws : List (Nat × Nat)}
    (hspc : descField d 0x2C 4 / 64 % 2 = 0)
    (halign : fmt = 0 → (dw (descField d 0 8) + dw m * (BitVec.ofNat 32 (descField d 8 4)).signExtend 64
      + dw (j * blockBytes fmt)).getLsbD 0 = false)
    (h : engineRead 4 (spaceOf (descField d 0x30 4)) (dw (descField d 0 8) + dw m * (BitVec.ofNat 32 (descField d 8 4)).signExtend 64
      + dw (j * blockBytes fmt)) (blockBytes fmt) u = (v, .ok bs ws)) :
    let f := operandFmt fmt (descField d 0x2C 4 / 16 % 4)
    let val : Nat → FVal × Flags := fun k =>
      let x := blockValue f (fmt == 3) 127 none (blockCode fmt bs k); if narrow then narrowed x else (x, 0)
    operandRow fmt kb d false narrow j m u = (v, .ok ((List.range kb).map (fun k => (val k).1)) 127 ws
      (((List.range kb).map val).foldl (fun f x => f ||| x.2) 0)) := by
  intro f val
  have hno : ¬ descField d 0x2C 4 / 64 % 2 = 1 := by omega
  have hodd : ¬ (fmt = 0 ∧ (dw (descField d 0 8) + dw m * (BitVec.ofNat 32 (descField d 8 4)).signExtend 64
      + dw (j * blockBytes fmt)).getLsbD 0 = true) := by
    rintro ⟨h0, h1⟩
    exact absurd ((halign h0).symm.trans h1) (by decide)
  have h127 : (127 : Byte) ≠ 0xFF := by decide
  unfold operandRow
  simp only [hno, hodd, h, h127, if_false, Bool.false_eq_true, or_self, List.append_nil, List.map_map]
  rfl

end Sys2Proof.Machine
end

section
/-! SUPPORT. Relief, accesses of other cores, and the pager (R141, R166, R170, R171, R313, R326, R327). -/

namespace Sys2Proof.Machine

/-! ## Stuck cores -/

section stuck
variable {s : State} (hstuck : isStuck s = true)
include hstuck

theorem execReliefGrant_grants (hroom : grantsUsed s < Config.reliefGrants) :
    (grantTo s = some 0 → exec .reliefGrant s = .next { s with core.grid.feedGrants := s.core.grid.feedGrants + 1 })
    ∧ (grantTo s = some 1 → exec .reliefGrant s = .next { s with core.grid.outGrants := s.core.grid.outGrants + 1 })
    ∧ (grantTo s = some 2 → exec .reliefGrant s = .next { s with core.grid.pqGrants := s.core.grid.pqGrants + 1 }) := by
  have hfree : decide (Config.reliefGrants ≤ grantsUsed s) = false := decide_eq_false (Nat.not_le.mpr hroom)
  rw [exec_reliefGrant, execReliefGrant, hstuck, hfree]
  refine ⟨fun h => ?_, fun h => ?_, fun h => ?_⟩
  · rw [h]; rfl
  · rw [h]; rfl
  · rw [h]; rfl

/-- A stuck core with no grant to give traps, or aborts its launch where it has left its program. -/
theorem execDeadlockTrap_ends (hnone : grantTo s = none ∨ ¬ grantsUsed s < Config.reliefGrants) :
    (s.core.seq.run = .running → exec .deadlockTrap s = .next (takeTrap .deadlock (deadlockMap s) 0 s))
    ∧ (s.core.seq.run = .exited → exec .deadlockTrap s = .next (doom s.core.launch { AbortInfo.of 7 with ord := s.core.ord } s)) := by
  have hno : ((grantTo s).isSome && decide (grantsUsed s < Config.reliefGrants)) = false := by
    rcases hnone with h | h
    · rw [h]; rfl
    · rw [decide_eq_false h, Bool.and_false]
  rw [exec_deadlockTrap]
  unfold execDeadlockTrap
  rw [hstuck, hno]
  refine ⟨fun h => ?_, fun h => ?_⟩
  · rw [h]; rfl
  · rw [h]; rfl

end stuck

/-! ## Bytes placed from outside -/

/-- The bookkeeping of buffers after a placement: neither the bytes of the pool nor anything outside the buffers. -/
theorem afterPlacement_frame (i : Nat) (remote : Bool) (s : State) : ∃ b, afterPlacement i remote s = { s with core.pool.bufs := b } := by
  unfold afterPlacement
  extract_lets b b' s1
  split
  · exact ⟨_, rfl⟩
  · exact ⟨_, rfl⟩

theorem foldl_afterPlacement_frame (remote : Bool) (l : List Nat) (s : State) :
    ∃ b, l.foldl (fun s i => afterPlacement i remote s) s = { s with core.pool.bufs := b } := by
  induction l generalizing s with
  | nil => exact ⟨_, rfl⟩
  | cons i l ih =>
    obtain ⟨b, hb⟩ := afterPlacement_frame i remote s
    obtain ⟨b', hb'⟩ := ih (afterPlacement i remote s)
    exact ⟨b', by rw [List.foldl_cons, hb', hb]⟩

/-- A placement changes the pool alone. -/
theorem placeBytes_frame (a : Nat) (bs : List Byte) (remote unchecked : Bool) (s : State) :
    ∃ p, placeBytes a bs remote unchecked s = { s with core.pool := p } := by
  obtain ⟨l, hl⟩ := poolWrite_frame bs a s
  unfold placeBytes
  extract_lets +onlyGivenNames bufs words inBuf s1
  have h1 : s1 = { s with core.pool.cells := l } := hl
  clear_value s1
  subst h1
  obtain ⟨b, hb⟩ := foldl_afterPlacement_frame remote bufs _
  exact ⟨_, hb⟩

/-- The bytes of a placement stand in the pool, and every other byte stays. -/
theorem poolByte_placeBytes (a : Nat) (bs : List Byte) (remote unchecked : Bool) (s : State) (b : Nat) :
    poolByte (placeBytes a bs remote unchecked s) b = if a ≤ b ∧ b < a + bs.length then bs.getD (b - a) 0 else poolByte s b := by
  rw [← poolByte_poolWrite]
  unfold placeBytes
  extract_lets +onlyGivenNames bufs words inBuf s1
  obtain ⟨x, hx⟩ := foldl_afterPlacement_frame remote bufs _
  rw [hx]
  rfl

/-- What a placement of another core's bytes may answer, and what it leaves then. -/
theorem placeRemote_cases {o : Option RemotePool} {a : Nat} {bs : List Byte} {s s' : State} {x : RemoteAns}
    (h : placeRemote o a bs s = (s', x)) : (x = .ok [] ∧ s' = placeBytes a bs true false s) ∨ ((x = .error ∨ x = .refused) ∧ s' = s) := by
  unfold placeRemote at h
  dsimp only at h
  split at h
  · obtain ⟨rfl, rfl⟩ := Prod.mk.inj h
    exact .inr ⟨.inl rfl, rfl⟩
  · split at h
    · obtain ⟨rfl, rfl⟩ := Prod.mk.inj h
      exact .inr ⟨.inl rfl, rfl⟩
    · split at h
      · obtain ⟨rfl, rfl⟩ := Prod.mk.inj h
        exact .inr ⟨.inr rfl, rfl⟩
      · obtain ⟨rfl, rfl⟩ := Prod.mk.inj h
        exact .inl ⟨rfl, rfl⟩

theorem answerAccess_core (e : RemotePool) (a : RemoteAns) (s : State) : (answerAccess e a s).core = s.core := by
  unfold answerAccess
  split
  · rfl
  · dsimp only
    split
    · rfl
    · rfl
    · rfl
    · rfl

/-- The result that a placement acknowledgement gives: placed, refused, or an error (R141). -/
def placementResult : RemoteAns → BitVec 2
  | .ok _ => 0
  | .refused => 1
  | .error | .stays => 2

/-- The answer to a write: a placement acknowledgement with its result. -/
theorem answerAccess_tells {e : RemotePool} {a : RemoteAns} {s : State} {p : Packet} (hw : e.write = true)
    (hp : s.net.packets.find? (fun p => p.id == e.pkt) = some p) (ha : a ≠ .stays) :
    ∃ p' ∈ (answerAccess e a s).net.packets, p'.kind = 5 ∧ p'.dest = routerOf p.sender ∧ p'.cmd = e.cmd
      ∧ p'.result = placementResult a := by
  unfold answerAccess
  simp only [hp]
  cases a with
  | ok bs =>
    rw [hw]
    exact ⟨_, mem_sendPacket _ _, rfl, rfl, rfl, rfl⟩
  | refused => exact ⟨_, mem_sendPacket _ _, rfl, rfl, rfl, rfl⟩
  | error => exact ⟨_, mem_sendPacket _ _, rfl, rfl, rfl, rfl⟩
  | stays => exact absurd rfl ha

theorem execRemotePoolAccess_places {s : State} {i : Nat} {e : RemotePool} (he : s.net.remote[i]? = some e) (hretry : e.retryAt = 0)
    (harr : accessArrived s e = true) (hw : e.write = true) (hl : e.label = none) (hown : holderOf s e.launch e.sec e.ord = .own) :
    exec (.remotePoolAccess i) s
      = .next (answerAccess e (placeRemote (some e) e.addr e.data s).2 (placeRemote (some e) e.addr e.data s).1) := by
  have hans : e.answered = false := by rw [RemotePool.answered, hw]; rfl
  have hfrozen : accessFrozen s e = false := by rw [accessFrozen, hown]; rfl
  have hserved : remoteAccess e s = placeRemote (some e) e.addr e.data s := by
    unfold remoteAccess
    simp only [hown, hl, hw]
  rw [exec_remotePoolAccess, execRemotePoolAccess, he]
  simp only [hretry, hans, harr, hfrozen, hserved, ne_eq, not_true, Bool.not_true, Bool.false_eq_true, or_self, and_false, if_false]

/-! ## The pager -/



theorem tableWrite_core (owner : Nat) (f : DWord → Nat) (va : Nat) (n : Nat) :
    ∀ (pkg : BitVec 7) (table level : Nat) (s : State), (tableWrite owner n pkg table level va f s).core = s.core := by
  induction n with
  | zero => exact fun _ _ _ _ => rfl
  | succ n ih =>
    intro pkg table level s
    unfold tableWrite
    dsimp only
    split
    · rfl
    · split
      · exact ih ..
      · exact ih ..

theorem mapPage_core (l : LaunchRec) (va pa : Nat) (s : State) : (mapPage l va pa s).core = s.core := by
  unfold mapPage
  induction l.roots generalizing s with
  | nil => rfl
  | cons r rs ih => exact (ih _).trans (tableWrite_core ..)

theorem rewindAhead_frame (q : Nat) (s : State) :
    rewindAhead q s = { s with core.eng.streams := (rewindAhead q s).core.eng.streams, core.grid := (rewindAhead q s).core.grid } := by
  unfold rewindAhead
  split
  · split
    · rfl
    · dsimp only
      split
      · rfl
      · rfl
  · rfl

/-- A stream that goes on: its command may be finished, and is otherwise as it was. -/
theorem resumeStream_runs {q : Nat} (hq : q < 6) {s : State} {x : Running} (hx : execOf s q = some x) :
    (∃ y, execOf (resumeStream q s) q = some y ∧ y.id = x.id ∧ y.stopped = x.stopped ∧ y.pager = x.pager)
      ∧ (resumeStream q s).homes = s.homes ∧ (resumeStream q s).core.regs = s.core.regs := by
  unfold resumeStream
  extract_lets u
  have hu : u = { s with core.eng.streams := u.core.eng.streams, core.grid := u.core.grid } := rewindAhead_frame ..
  have hxu : execOf u q = some x := by
    rw [hu]
    exact hx
  have hhomes : u.homes = s.homes := congrArg (·.homes) hu
  have hregs : u.core.regs = s.core.regs := congrArg (·.core.regs) hu
  clear_value u
  split
  · exact ⟨⟨x, hxu, rfl, rfl, rfl⟩, hhomes, hregs⟩
  · next r _ =>
    extract_lets n v
    have hxv : execOf v q = some x := hxu
    split
    · have hf := updExec_frame q (fun x => { x with finished := true }) v
      refine ⟨⟨{ x with finished := true }, ?_, rfl, rfl, rfl⟩, (congrArg (·.homes) hf).trans hhomes, (congrArg (·.core.regs) hf).trans hregs⟩
      rw [execOf_updExec_same hq, hxv]
      rfl
    · exact ⟨⟨x, hxv, rfl, rfl, rfl⟩, hhomes, hregs⟩

/-- What an engine that goes on after a fault keeps: registers and homes; its command is no longer stopped, nor waits for the pager. -/
theorem resumeEngine_runs {q : Nat} (hq : q < 6) {s : State} {x : Running} (hx : execOf s q = some x) :
    (∃ y, execOf (resumeEngine q s) q = some y ∧ y.id = x.id ∧ y.stopped = false ∧ y.pager = none)
      ∧ (resumeEngine q s).homes = s.homes ∧ (resumeEngine q s).core.regs = s.core.regs := by
  unfold resumeEngine
  extract_lets s1
  have hx1 : execOf s1 q = some { x with stopped := false, pager := none } := by
    unfold s1
    rw [execOf_updExec_same hq, hx]
    rfl
  have h1 : KeptByEngines s s1 := kept_updExec ..
  clear_value s1
  split
  · obtain ⟨hy, hhomes, hregs⟩ := resumeStream_runs hq hx1
    exact ⟨hy, hhomes.trans h1.homes, hregs.trans h1.regs⟩
  · split
    · split
      · exact ⟨⟨_, hx1, rfl, rfl, rfl⟩, h1.homes, h1.regs⟩
      · exact ⟨⟨_, hx1, rfl, rfl, rfl⟩, h1.homes, h1.regs⟩
    · exact ⟨⟨_, hx1, rfl, rfl, rfl⟩, h1.homes, h1.regs⟩

section pager
variable {s : State} {q va : Nat} {write : Bool} (hneed : pagerNeed s q = some (va, write))
include hneed

theorem execPagerFault_mapped {r : Region} {p : Nat × Nat × Bool} (hq : q < 6) (hr : regionOf (ownLaunch s) va = some r)
    (hp : (walk s s.core.ptroot va).page = some p) (hperm : write = true → p.2.2 = true) :
    exec (.pagerFault q) s = .next (resumeEngine q s) := by
  have hok : ¬ (write = true ∧ (!p.2.2) = true) := by
    rintro ⟨hw, hn⟩
    rw [hperm hw] at hn
    exact nomatch hn
  rw [exec_pagerFault]
  unfold execPagerFault
  simp only [hneed, hr, hp, hok, if_false, pagerResume, if_pos hq]

theorem execPagerFault_outside (hr : regionOf (ownLaunch s) va = none) :
    exec (.pagerFault q) s = .next (pagerAbort s.core.launch s.core.ord q va s) := by
  rw [exec_pagerFault]
  unfold execPagerFault
  simp only [hneed, hr]

section missing
variable {r : Region} (hr : regionOf (ownLaunch s) va = some r) (hp : (walk s s.core.ptroot va).page = none)
  (hpending : s.sched.host.pageReqs.any (fun x => x.launch == s.core.launch && x.queue == q) = false)
include hr hp hpending

/-- A page that the launch asked to be filled with zeros is chosen, cleared and mapped. -/
theorem execPagerFault_zeroFills (hq : q < 6) (hzf : (walk s s.core.ptroot va).entry.getLsbD 5 = true) :
    let y := freshPage s.core.launch r (ownLaunch s).home s
    exec (.pagerFault q) s = .next (resumeEngine q (mapPage (ownLaunch s) va y.2 (zeroPage y.2 65536 y.1))) := by
  rw [exec_pagerFault]
  unfold execPagerFault
  simp only [hneed, hr, hp, hpending, hzf, if_true, Bool.false_eq_true, if_false, pagerResume, if_pos hq]

theorem execPagerFault_asks (hzf : (walk s s.core.ptroot va).entry.getLsbD 5 = false) (hring : ringEntries s ≠ 0)
    (hroom : (s.sched.host.evqtail.toNat + 1) % ringEntries s ≠ s.sched.host.evqhead.toNat) :
    exec (.pagerFault q) s = .next (askHost q va write s) := by
  rw [exec_pagerFault]
  unfold execPagerFault
  simp only [hneed, hr, hp, hpending, hzf, hring, hroom, Bool.false_eq_true, if_false]

end missing
end pager

/-- The host gives a page: it is mapped, and the unit that asked goes on. -/
theorem execPgresp_gives {s : State} {slot : BitVec 10} {x : PageReq} {r : Region}
    (hx : s.sched.host.pageReqs.find? (fun x => x.slot == slot) = some x) (hr : regionOf (launchOf s x.launch) x.va = some r) :
    let u := { s with sched.host.pageReqs := s.sched.host.pageReqs.filter (fun y => y.slot != slot) }
    let y := freshPage x.launch r (launchOf s x.launch).home u
    exec (.pgresp slot true) s = .next (pageArrived x (mapPage (launchOf s x.launch) x.va y.2
      (copyPage (s.sched.host.pgpa.toNat / 2 ^ 16 % 2 ^ 36 * 65536) y.2 y.1))) := by
  intro u y
  have hu : regionOf (launchOf u x.launch) x.va = some r := hr
  rw [exec_pgresp, execPgresp, hx]
  simp only
  rw [show ({ s with sched.host.pageReqs := s.sched.host.pageReqs.filter (fun y => y.slot != slot) } : State) = u from rfl, hu, ← fieldN_eq]
  rfl

theorem execPgresp_refuses {s : State} {slot : BitVec 10} {x : PageReq}
    (hx : s.sched.host.pageReqs.find? (fun x => x.slot == slot) = some x) :
    exec (.pgresp slot false) s = .next (pagerAbort x.launch x.ord x.queue x.va
      { s with sched.host.pageReqs := s.sched.host.pageReqs.filter (fun y => y.slot != slot) }) := by
  rw [exec_pgresp, execPgresp, hx]

theorem execGmmaPreemptCut_resets {s : State} {g : GmmaRun} {c : Command} (hg : s.core.grid.gmma = some g) (hhead : queueHead s 4 = some c)
    (hsaving : isSaving s = true) :
    exec .gmmaPreemptCut s = .next { s with core.grid.gmma := some { g with
      acc := loadTile c.params s, nextBlock := retired s, flagsNew := 0, windows := [] } } := by
  rw [exec_gmmaPreemptCut, execGmmaPreemptCut, hg, hhead]
  exact if_pos hsaving

end Sys2Proof.Machine
end

section
/-! O52: the engines at work. -/

namespace Sys2Proof.Machine

/-- Settles O52, clause by clause: starts and progress of commands, completion, streams, the grid, `GMMA`, relief, accesses of other cores,
and the pager. -/
theorem enginesAtWork : Obligations.EnginesAtWork := by
  unfold Obligations.EnginesAtWork
  intro s hlive
  refine ⟨?work, ?completion, ?streams, ?grid, ?gmma, ?rows, ?stuck, ?access, ?pager, ?pgresp, ?cut⟩
  case work =>
    intro q c hhead hq hadm live
    refine ⟨fun hnone hwaits hheld => ?_, fun r hr hf hstop => ?_⟩
    · obtain ⟨⟨x, hx, hid⟩, hqueue, hregs, hmem⟩ := startCommand_starts hq c live
      exact ⟨_, x, execEngineCommandStart_starts hlive hhead hadm hnone hwaits hheld, rfl, hx, hid,
        hqueue.trans ((kept_restarted q s).queueOf q), hregs.trans (kept_restarted q s).regs,
        hmem.trans (congrArg (·.mem) (kept_restarted q s).homes)⟩
    · intro goes next
      obtain ⟨hgldc, hcopy⟩ := execEngineCommandStart_goes hlive hhead hadm hr hf hstop
      refine ⟨?_, ?_, ?_, ?_, ?_, ?_⟩
      · intro hq hop u bs hread
        subst hq
        obtain ⟨hframe, hnext⟩ := gldcPiece_reads hread
        exact ⟨_, hgldc hop, hframe, hnext⟩
      · intro hq hop hbytes hring x from_ into dst here
        subst hq
        have hstep : goes (copyStep c r.cursor live) := (hcopy (by rcases hop with h | h <;> rw [h] <;> decide)).trans
          (congrArg Host.Outcome.next (copyQueueStep_copy hop hbytes r.cursor live))
        refine ⟨fun hout hfrom hhere => ?_, fun u bs hread => ⟨fun hinto hhere => ?_, fun v hv => ?_⟩⟩
        · obtain ⟨p, hp, hkind, hdest, hofs, hremote⟩ := copyStep_requests (k := r.cursor) hring hout hfrom hhere
          exact ⟨_, p, hstep, hp, hkind, hdest, hofs, hremote⟩
        · obtain ⟨p, hp⟩ := copyStep_sends (k := r.cursor) hring hread hinto hhere
          exact ⟨_, p, hstep, hp⟩
        · have hwrites := copyStep_writes (k := r.cursor) hring hread hv
          rw [hwrites] at hstep
          obtain ⟨hframe, hnext⟩ := pieceDone_advances c r.cursor (dropPiece c.id v)
          exact ⟨_, hstep, hframe, hnext⟩
      · intro hq hop hcur hpool u bs w hread hflow
        subst hq
        have hstep : goes (sendStep c r.cursor live) := by
          refine (hcopy (by rw [hop]; decide)).trans ?_
          rw [copyQueueStep, hop]
        rw [hcur, sendStep_departs hpool hread hflow] at hstep
        obtain ⟨p, hmem, hp⟩ := departPacket_packet c bs u
        exact ⟨_, p, hstep, hmem, hp⟩
      · intro hq hop label n thr recv send done
        subst hq
        have hstep : goes (bindStep c live) := by
          refine (hcopy (by rw [hop]; decide)).trans ?_
          rw [copyQueueStep, hop]
        have hdone {u : State} (h : bindStep c live = finishCmd 5 u) : done u := hstep.trans (congrArg Host.Outcome.next h)
        exact ⟨fun hb hfree hroom hbuf => hdone (bindStep_bindsReceive hb hfree hroom hbuf),
          fun hb hfree hroom => hdone (bindStep_bindsSend hb hfree hroom),
          fun hb hbound hquiet => hdone (bindStep_unbindsReceive hb hbound hquiet),
          fun hb hbound => hdone (bindStep_unbindsSend hb hbound)⟩
      · intro hq hop hcur h ord label u hbound hlo hhi hhere hst
        subst hq
        have hstep : goes (openStep c r.cursor live) := by
          refine (hcopy (by rw [hop]; decide)).trans ?_
          rw [copyQueueStep, hop]
        rw [hcur] at hstep
        obtain ⟨hh, p, hp⟩ := openStep_probes hbound hlo hhi hhere hst
        exact ⟨_, p, hstep, hh, hp⟩
      · intro hq hop hcur n from_ x u bs w hown hdue htwo hfar hread
        subst hq
        have hstep : goes (streamStep c r.cursor live) := by
          refine (hcopy (by rw [hop]; decide)).trans ?_
          rw [copyQueueStep, hop]
        exact ⟨_, hstep, streamStep_beats hcur hown hdue htwo hfar hread⟩
  case completion =>
    intro q c r s' hhead hr hq hf hheld live hscope
    obtain ⟨hnone, hh, ht, hregs, hhomes⟩ := retireCommand_leaves hq c r s'
    exact ⟨_, execEngineCommandComplete_retires hlive hhead hr hf hheld hscope, rfl, hnone, hh, ht, hregs, hhomes⟩
  case streams =>
    intro se r x hr hx hf hstop token
    have hstream := liveStream_some hlive hr hx hf hstop
    refine ⟨fun hw hroom htrip => ⟨fun k ks hsp hfeed => ?_, fun s' bs w hsp halign hread => ?_⟩, fun k ks s' hw hsinks hseq hchk hdone => ?_⟩
    · exact execStreamTokenDeliver_feed hstream hw hroom htrip hsp hfeed
    · exact execStreamTokenDeliver_bytes hstream hw hroom htrip hsp halign hread
    · obtain ⟨hframe, hnext, hv, hn⟩ := committed_frame (q := se.toNat) se.isLt k.seq r { r with nextRead := r.nextRead + 1 }
        { s' with core.eng.sinks := ks }
      exact ⟨_, execStreamTokenCommit_commits hstream hw hsinks hseq hchk hdone, hframe, hnext, hv, hn⟩
  case grid =>
    intro g row col hrun hworks hsinks hrow hcol hwindows hwindow hcheck o seq htags hpq
    have hgrid := restarted_grid 4 s
    have hstep := runStep_runs (s := restarted 4 s) hwindows hwindow hcheck ((congrArg (·.core.eng.sinks) (restarted_frame 4 s)).trans hsinks)
      (congrFun (congrFun (gridCompute_congr (congrArg (·.banks) hgrid)) _) _) rfl htags
      (fun h => by rw [pqLoad, pqCap, hgrid]; exact hpq h)
    obtain ⟨hframe, hrun', hpq', hsinks'⟩ := hstep
    exact ⟨_, execGridStep_runs hlive hrun hworks hsinks hrow hcol hwindows hwindow, (gridFrame_restarted 4 s).trans hframe, hrun',
      hpq'.trans (by rw [hgrid]), hsinks'⟩
  case gmma =>
    intro g c hg hhead hworks
    refine ⟨fun hdue hwindows => ?_, fun hdue => ?_⟩
    · exact ⟨_, execGmmaKblock_retires hlive hg hhead hworks hdue hwindows, retireTile_writes c.params g s⟩
    · intro p j rows
      have hblock := execGmmaKblock_blocks hlive hg hhead hworks hdue
      refine ⟨fun hj => ?_, fun hj u v a b ha hb => ?_⟩
      · rw [hblock, gmmaBlock_ends hj]
      · rw [hblock, gmmaBlock_accumulates hj ha hb]
  case rows =>
    intro fmt kb d narrow j m u v bs ws at_ hspc halign hread
    exact operandRow_reads hspc halign hread
  case stuck =>
    intro hstuck room
    refine ⟨fun hroom hto => ?_, fun hroom hto => ?_, fun hroom hto => ?_, fun hnone => ⟨fun hrun hmode => ?_, fun hrun => ?_⟩⟩
    · exact (execReliefGrant_grants hstuck hroom).1 hto
    · exact (execReliefGrant_grants hstuck hroom).2.1 hto
    · exact (execReliefGrant_grants hstuck hroom).2.2 hto
    · obtain ⟨hcause, haddr, -, -, hhandler, -, hregs, -, hhomes⟩ := takeTrap_of_program hmode .deadlock (deadlockMap s) 0
      exact ⟨_, (execDeadlockTrap_ends hstuck hnone).1 hrun, rfl, hcause.trans (by decide), haddr, hhandler, hregs, hhomes⟩
    · exact (execDeadlockTrap_ends hstuck hnone).2 hrun
  case access =>
    intro i e s' a he hretry harr hw hl hown hplace
    refine ⟨_, execRemotePoolAccess_places he hretry harr hw hl hown, ?_⟩
    rw [hplace]
    have hcore : (answerAccess e a s').core = s'.core := answerAccess_core ..
    have hcases := placeRemote_cases hplace
    refine ⟨rfl, hcore, fun ha b => ?_, fun ha => ?_, fun p hp => ?_⟩
    · rcases hcases with ⟨-, hs'⟩ | ⟨herr | hrefused, -⟩
      · rw [poolByte_congr (congrArg (·.pool) hcore), hs', poolByte_placeBytes]
      · exact nomatch ha.symm.trans herr
      · exact nomatch ha.symm.trans hrefused
    · rcases hcases with ⟨hok, -⟩ | ⟨-, hs'⟩
      · exact absurd hok ha
      · exact hs'
    · have hpackets : s'.net.packets = s.net.packets := by
        rcases hcases with ⟨-, hs'⟩ | ⟨-, hs'⟩
        · obtain ⟨x, hx⟩ := placeBytes_frame e.addr e.data true false s
          rw [hs', hx]
        · rw [hs']
      have hstays : a ≠ .stays := by
        rcases hcases with ⟨h, -⟩ | ⟨h | h, -⟩ <;> rw [h] <;> exact nofun
      rw [← hpackets] at hp
      obtain ⟨p', hmem, hkind, hdest, hcmd, hres⟩ := answerAccess_tells hw hp hstays
      exact ⟨p', hmem, hkind, hdest, hcmd, hres.trans (by cases a <;> rfl)⟩
  case pager =>
    intro q va write x hneed hq hx region w pending goesOn
    have hgoes (u : State) (hcore : u.core = s.core) (he : exec (.pagerFault q) s = .next (resumeEngine q u)) : goesOn u := by
      have hxu : execOf u q = some x := by rw [← hx, execOf, execOf, hcore]
      obtain ⟨⟨y, hy, hid, hstop, hpager⟩, hhomes, hregs⟩ := resumeEngine_runs hq hxu
      exact ⟨_, y, he, rfl, hy, hid, hstop, hpager, hhomes, hregs.trans (congrArg (·.regs) hcore)⟩
    refine ⟨fun r p hr hp hperm => ?_, fun hr => ?_, fun r hr hp hpending => ⟨fun hzf => ?_, fun hzf hring hroom => ?_⟩⟩
    · exact hgoes s rfl (execPagerFault_mapped hneed hq hr hp hperm)
    · exact execPagerFault_outside hneed hr
    · exact hgoes _ (mapPage_core ..) (execPagerFault_zeroFills hneed hr hp hpending hq hzf)
    · exact execPagerFault_asks hneed hr hp hpending hzf hring hroom
  case pgresp =>
    intro slot x hx u l
    exact ⟨fun r hr => execPgresp_gives hx hr, execPgresp_refuses hx⟩
  case cut =>
    intro u g c hg hhead hsaving
    exact execGmmaPreemptCut_resets hg hhead hsaving

end Sys2Proof.Machine
end

section
/-! SUPPORT. Links and the flits on them (R339-R342). -/

namespace Sys2Proof.Machine

/-! ## Link records -/

theorem link_linkRec (s : State) (l : Nat) : (linkRec s l).link = l := by
  unfold linkRec
  cases h : s.net.links.find? (fun r => r.link == l) with
  | none => rfl
  | some r =>
    have hr := List.find?_some h
    exact beq_iff_eq.mp hr

theorem linkRec_setLink_same {r : LinkRec} {l : Nat} (h : r.link = l) (s : State) : linkRec (setLink r s) l = r := by
  unfold linkRec setLink
  rw [List.find?_cons, beq_iff_eq.mpr h]
  rfl

theorem linkRec_setLink_other {r : LinkRec} {l m : Nat} (hl : r.link = l) (h : m ≠ l) (s : State) :
    linkRec (setLink r s) m = linkRec s m := by
  subst hl
  have hfind : (r :: s.net.links.filter (fun x => x.link != r.link)).find? (fun x => x.link == m) = s.net.links.find? (fun x => x.link == m) := by
    rw [List.find?_cons, beq_false_of_ne h.symm, List.find?_filter]
    refine congrArg (fun p => s.net.links.find? p) (funext fun x => ?_)
    by_cases hx : x.link = m
    · simp [hx, h]
    · simp [hx]
  unfold linkRec setLink
  rw [hfind]

/-- Both ways of a record that a way is put into: the first way runs east and south. -/
theorem setWay_eq (d : Dir) (w : LinkDir) (r : LinkRec) :
    setWay d w r = { r with fwd := if d.toNat = 2 ∨ d.toNat = 3 then w else r.fwd, back := if d.toNat = 2 ∨ d.toNat = 3 then r.back else w } := by
  unfold setWay
  split
  · rfl
  · rfl

theorem link_setWay (d : Dir) (w : LinkDir) (r : LinkRec) : (setWay d w r).link = r.link := by
  rw [setWay_eq]

/-! ## Flits that come in -/

section takeFlit
variable {s : State} {pkg : BitVec 7} {r : Router} {d : Dir}

theorem takeFlit_idle (h : inbound s pkg r d = [] ∨ linkCarries s (meshLink 0 pkg r d) = false) : takeFlit pkg r d s = none := by
  unfold takeFlit
  dsimp only
  split
  · rfl
  · next f rest hin =>
    rcases h with h | h
    · exact nomatch h.symm.trans hin
    · rw [h]
      rfl

section came
variable {f : Flit} {rest : List Flit} {p : Packet} (hin : inbound s pkg r d = f :: rest)
  (hcarries : linkCarries s (meshLink 0 pkg r d) = true) (hp : packetOf s f.pkt = some p)
include hin hcarries hp

/-- The flit that a link expects, with the right CRC, enters its buffer. -/
theorem takeFlit_good (hgood : f.seq = (linkWay (linkRec s (meshLink 0 pkg r d)) (inputOf d)).expect ∧ f.crc = crc32c (flitBytes p f.idx)) :
    takeFlit pkg r d s = some { setLink (setWay (inputOf d) { linkWay (linkRec s (meshLink 0 pkg r d)) (inputOf d) with
        wire := rest, expect := (linkWay (linkRec s (meshLink 0 pkg r d)) (inputOf d)).expect + 1 }
      { linkRec s (meshLink 0 pkg r d) with fails := 0, lastTraffic := s.now }) s with net.flits := s.net.flits ++ [f] } := by
  have hall : (packetOf s f.pkt).all (fun p => f.crc == crc32c (flitBytes p f.idx)) = true := by
    rw [hp]
    exact beq_iff_eq.mpr hgood.2
  unfold takeFlit
  simp only [hin, hcarries, hp, Bool.not_true, Bool.false_eq_true, if_false]
  rw [hp] at hall
  rw [if_pos ⟨hgood.1, hall⟩]
  rfl

/-- Any other flit is discarded with a NAK. -/
theorem takeFlit_bad (hbad : ¬ (f.seq = (linkWay (linkRec s (meshLink 0 pkg r d)) (inputOf d)).expect ∧ f.crc = crc32c (flitBytes p f.idx))) :
    takeFlit pkg r d s = some (nakFlit (meshLink 0 pkg r d) (inputOf d) s) := by
  have hno : ¬ (f.seq = (linkWay (linkRec s (meshLink 0 pkg r d)) (inputOf d)).expect
      ∧ (some p).all (fun p => f.crc == crc32c (flitBytes p f.idx)) = true) := fun h => hbad ⟨h.1, beq_iff_eq.mp h.2⟩
  unfold takeFlit
  simp only [hin, hcarries, hp, Bool.not_true, Bool.false_eq_true, if_false]
  exact if_neg hno

end came
end takeFlit

theorem execFlitForward_takes {s t : State} {i : Nat} {d : Dir} (hd : d ∈ ([1, 2, 3, 4] : List Dir))
    (hidle : ∀ e ∈ ([1, 2, 3, 4] : List Dir), e.toNat < d.toNat → takeFlit (BitVec.ofNat 7 (i / 2 ^ 15)) (BitVec.ofNat 15 i) e s = none)
    (ht : takeFlit (BitVec.ofNat 7 (i / 2 ^ 15)) (BitVec.ofNat 15 i) d s = some t) : exec (.flitForward i) s = .next t := by
  have hfirst : ([1, 2, 3, 4] : List Dir).findSome? (fun e => takeFlit (BitVec.ofNat 7 (i / 2 ^ 15)) (BitVec.ofNat 15 i) e s) = some t := by
    generalize hf : (fun e => takeFlit (BitVec.ofNat 7 (i / 2 ^ 15)) (BitVec.ofNat 15 i) e s) = f at *
    have hidle' (e : Dir) (he : e ∈ ([1, 2, 3, 4] : List Dir)) (h : e.toNat < d.toNat) : f e = none := by rw [← hf]; exact hidle e he h
    have ht' : f d = some t := by rw [← hf]; exact ht
    simp only [List.mem_cons, List.not_mem_nil, or_false] at hd
    rcases hd with rfl | rfl | rfl | rfl
    · rw [List.findSome?_cons, ht']
    · rw [List.findSome?_cons, hidle' 1 (by decide) (by decide), List.findSome?_cons, ht']
    · rw [List.findSome?_cons, hidle' 1 (by decide) (by decide), List.findSome?_cons, hidle' 2 (by decide) (by decide), List.findSome?_cons, ht']
    · rw [List.findSome?_cons, hidle' 1 (by decide) (by decide), List.findSome?_cons, hidle' 2 (by decide) (by decide), List.findSome?_cons,
        hidle' 3 (by decide) (by decide), List.findSome?_cons, ht']
  rw [exec_flitForward]
  unfold execFlitForward
  simp only [hfirst]

/-- The input of a flit that comes from the east or from the north is of a link's first way. -/
theorem inputOf_first {d : Dir} (hd : d ∈ ([1, 2, 3, 4] : List Dir)) :
    ((inputOf d).toNat = 2 ∨ (inputOf d).toNat = 3) ↔ (d.toNat = 1 ∨ d.toNat = 4) := by
  simp only [List.mem_cons, List.not_mem_nil, or_false] at hd
  rcases hd with rfl | rfl | rfl | rfl <;> decide

/-- A flit that has come is taken in, or discarded with a NAK; its link's record alone changes. -/
theorem takeFlit_takes {s : State} {pkg : BitVec 7} {r : Router} {d : Dir} {f : Flit} {rest : List Flit} {p : Packet}
    (hd : d ∈ ([1, 2, 3, 4] : List Dir)) (hin : inbound s pkg r d = f :: rest)
    (hcarries : linkCarries s (meshLink 0 pkg r d) = true) (hp : packetOf s f.pkt = some p) :
    let link := meshLink 0 pkg r d
    let old := linkRec s link
    let east := d.toNat = 1 ∨ d.toNat = 4
    let way := if east then old.fwd else old.back
    let good := f.seq = way.expect ∧ f.crc = crc32c (flitBytes p f.idx)
    let way' : LinkDir := if good then { way with wire := rest, expect := way.expect + 1 }
      else { way with wire := way.replay.reverse.dropWhile (fun x => x.seq != way.expect) }
    ∃ t, takeFlit pkg r d s = some t
      ∧ t = { s with net.flits := t.net.flits, net.links := t.net.links }
      ∧ t.net.flits = (if good then s.net.flits ++ [f] else s.net.flits)
      ∧ linkRec t link = { old with
          fwd := if east then way' else old.fwd
          back := if east then old.back else way'
          lastTraffic := if good then s.now else old.lastTraffic
          fails := if good then 0 else old.fails + 1 }
      ∧ ∀ m, m ≠ link → linkRec t m = linkRec s m := by
  intro link old east way good way'
  have hfirst : ((inputOf d).toNat = 2 ∨ (inputOf d).toNat = 3) = east := propext (inputOf_first hd)
  have hway : linkWay old (inputOf d) = way := by
    unfold linkWay
    simp only [hfirst]
    rfl
  have hlink : old.link = link := link_linkRec s link
  by_cases hgood : good
  · have hg : f.seq = (linkWay old (inputOf d)).expect ∧ f.crc = crc32c (flitBytes p f.idx) := by
      rw [hway]
      exact hgood
    have hrec := (link_setWay (inputOf d) { linkWay old (inputOf d) with wire := rest, expect := (linkWay old (inputOf d)).expect + 1 }
      { old with fails := 0, lastTraffic := s.now }).trans hlink
    refine ⟨_, takeFlit_good hin hcarries hp hg, rfl, (if_pos hgood).symm, (linkRec_setLink_same hrec s).trans ?_,
      fun m hm => linkRec_setLink_other hrec hm s⟩
    rw [setWay_eq]
    simp only [way', hway, hfirst, if_pos hgood]
  · have hg : ¬ (f.seq = (linkWay old (inputOf d)).expect ∧ f.crc = crc32c (flitBytes p f.idx)) := by
      rw [hway]
      exact hgood
    have hrec := (link_setWay (inputOf d) (resendFrom (linkWay old (inputOf d))) { old with fails := old.fails + 1 }).trans hlink
    refine ⟨_, takeFlit_bad hin hcarries hp hg, rfl, (if_neg hgood).symm, (linkRec_setLink_same hrec s).trans ?_,
      fun m hm => linkRec_setLink_other hrec hm s⟩
    rw [setWay_eq]
    simp only [way', hway, hfirst, if_neg hgood, resendFrom]

/-! ## Flits that move on -/

section idle
variable {s : State} {i : Nat}
  (hidle : ∀ d ∈ ([1, 2, 3, 4] : List Dir), takeFlit (BitVec.ofNat 7 (i / 2 ^ 15)) (BitVec.ofNat 15 i) d s = none)
include hidle

theorem no_takeFlit :
    ([1, 2, 3, 4] : List Dir).findSome? (fun d => takeFlit (BitVec.ofNat 7 (i / 2 ^ 15)) (BitVec.ofNat 15 i) d s) = none :=
  List.findSome?_eq_none_iff.mpr hidle

/-- With no flit to take in, the first flit of the router moves on where it may. -/
theorem execFlitForward_moves {f : Flit} {k : Nat} {rest : List (Flit × Nat)} {p : Packet}
    (hheads : headFlits s (BitVec.ofNat 7 (i / 2 ^ 15)) (BitVec.ofNat 15 i) = (f, k) :: rest) (hp : packetOf s f.pkt = some p)
    (hmoves : flitMoves s p f = true) : exec (.flitForward i) s = .next (moveFlit p f k s) := by
  rw [exec_flitForward]
  unfold execFlitForward
  simp only [no_takeFlit hidle, hheads, List.findSome?_cons, hp, hmoves, if_true]

/-- With none in the router either, the next packet of its port sends a flit. -/
theorem execFlitForward_injects {p : Packet} (hheads : headFlits s (BitVec.ofNat 7 (i / 2 ^ 15)) (BitVec.ofNat 15 i) = [])
    (hp : nextInject s (BitVec.ofNat 7 (i / 2 ^ 15)) (BitVec.ofNat 15 i) = some p) :
    exec (.flitForward i) s = .next (injectFlit p s) := by
  rw [exec_flitForward]
  unfold execFlitForward
  simp only [no_takeFlit hidle, hheads, List.findSome?_nil, hp]

end idle

theorem wakeLink_frame (l : Nat) (s : State) : wakeLink l s = { s with net.waking := (wakeLink l s).net.waking } := by
  unfold wakeLink
  dsimp only
  split
  · rfl
  · rfl

section moveFlit
variable {p : Packet} {f : Flit}

theorem moveFlit_drops (h : headerLegal p = false) (k : Nat) (s : State) :
    moveFlit p f k s = { dropPacket p.id s with
      health.linkErrors := s.health.linkErrors ++ [p.pkg.toNat * 2 ^ 15 + f.router.toNat] } := by
  unfold moveFlit
  simp only [h, Bool.not_false, if_true]
  rfl

theorem moveFlit_ejects (h : headerLegal p = true) (hd : routeDir false f.router p.dest = 0) (k : Nat) (s : State) :
    moveFlit p f k s = updPacket p.id (fun x => { x with ejected := x.ejected + 1 }) { s with net.flits := s.net.flits.eraseIdx k } := by
  unfold moveFlit
  simp only [h, hd, Bool.not_true, Bool.false_eq_true, if_false, if_true]

/-- A flit sent over a link takes the next number of its way, and the sender keeps a copy. -/
theorem moveFlit_sends (h : headerLegal p = true) (hd : routeDir false f.router p.dest ≠ 0) (k : Nat) (s : State) :
    let d := routeDir false f.router p.dest
    let link := meshLink 0 p.pkg f.router d
    let old := linkRec s link
    let east := d.toNat = 2 ∨ d.toNat = 3
    let way := if east then old.fwd else old.back
    let f' : Flit := { f with seq := way.next, router := routerStep f.router d, input := inputOf d }
    let way' : LinkDir := { way with next := way.next + 1, replay := f' :: way.replay.take 63, wire := way.wire ++ [f'] }
    let t := moveFlit p f k s
    t = { s with net.flits := t.net.flits, net.links := t.net.links, net.waking := t.net.waking }
      ∧ t.net.flits = s.net.flits.eraseIdx k
      ∧ linkRec t link = { old with
          fwd := if east then way' else old.fwd
          back := if east then old.back else way'
          lastTraffic := s.now }
      ∧ ∀ m, m ≠ link → linkRec t m = linkRec s m := by
  intro d link old east way f' way' t
  have ht : t = wakeLink link (sendFlit link d { f with router := routerStep f.router d, input := inputOf d }
      { s with net.flits := s.net.flits.eraseIdx k }) := by
    unfold t moveFlit
    simp only [h, Bool.not_true, Bool.false_eq_true, if_false]
    exact if_neg hd
  have hwake := wakeLink_frame link (sendFlit link d { f with router := routerStep f.router d, input := inputOf d }
      { s with net.flits := s.net.flits.eraseIdx k })
  rw [← ht] at hwake
  have hsend : sendFlit link d { f with router := routerStep f.router d, input := inputOf d } { s with net.flits := s.net.flits.eraseIdx k }
      = setLink (setWay d way' { old with lastTraffic := s.now }) { s with net.flits := s.net.flits.eraseIdx k } := rfl
  rw [hsend] at hwake
  have hlink := (link_setWay d way' { old with lastTraffic := s.now }).trans (link_linkRec s link)
  have hrec (m : Nat) : linkRec t m
      = linkRec (setLink (setWay d way' { old with lastTraffic := s.now }) { s with net.flits := s.net.flits.eraseIdx k }) m := by
    rw [hwake]
    rfl
  refine ⟨?_, congrArg (·.net.flits) hwake, ((hrec link).trans (linkRec_setLink_same hlink _)).trans (setWay_eq ..),
    fun m hm => (hrec m).trans (linkRec_setLink_other hlink hm _)⟩
  generalize t.net.waking = w at hwake
  rw [hwake]
  rfl

end moveFlit

end Sys2Proof.Machine
end

section
/-! SUPPORT. Packets placed, acknowledged and offered again (R141, R143, R331, R336, R340). -/

namespace Sys2Proof.Machine

/-- The acknowledgement of a packet leaves, and its place in the holding buffer is free. -/
def acknowledged (p : Packet) (result : BitVec 2) (u : State) : State :=
  sendPacket { controlPacket 5 p.pkg p.receiver p.sender p.label p.ofs 0 p.cmd result with launch := p.launch, sec := p.sec }
    { u with core.port.holding := u.core.port.holding.filter (fun x => x != .packet p.id) }

theorem answerPacket_refused (p : Packet) (u : State) :
    answerPacket p .refused u = acknowledged p 1 (updPacket p.id (fun x => { x with answered := true }) u) := rfl

theorem answerPacket_error (p : Packet) (u : State) : answerPacket p .error u = acknowledged p 2 (dropPacket p.id u) := rfl

theorem answerPacket_stays (p : Packet) (u : State) : answerPacket p .stays u = u := rfl

/-- The circuits of a clasp's flow take circuit data from its end on. -/
def armed (p : Packet) (u : State) : State := { u with
  net.circuits := u.net.circuits.map (fun c =>
    if c.promoted ∧ c.sender = p.sender ∧ c.receiver = p.receiver ∧ c.label = p.label then
      { c with armed := true, claspEnd := p.aux.toNat } else c) }

section placed
variable {p : Packet} {s s' : State}

theorem placePacket_data {bs : List Byte} (hk : p.kind = 2) (h : receivePacket p s = (s', .ok bs)) :
    placePacket p s = acknowledged p 0 (dropPacket p.id s') := by
  unfold placePacket
  rw [h, hk]
  rfl

theorem placePacket_clasp {bs : List Byte} (hk : p.kind = 3) (h : receivePacket p s = (s', .ok bs)) :
    placePacket p s = acknowledged p 0 (dropPacket p.id (armed p s')) := by
  unfold placePacket
  rw [h, hk]
  rfl

theorem placePacket_notPlaced {a : RemoteAns} (ha : ∀ bs, a ≠ .ok bs) (h : receivePacket p s = (s', a)) :
    placePacket p s = answerPacket p a s' := by
  unfold placePacket
  rw [h]
  cases a with
  | ok bs => exact absurd rfl (ha bs)
  | refused => simp
  | error => simp
  | stays => simp

end placed

/-- An arrived data packet or clasp is placed by its event. -/
theorem exec_placement {s : State} {i : Nat} {p : Packet} (hp : s.net.packets[i]? = some p) (harr : nextArrived s p = true)
    (hk : p.kind = 2 ∨ p.kind = 3) :
    exec (if p.kind = 2 then .packetPlacement i else .claspPlacement i) s = .next (placePacket p s) := by
  rcases hk with hk | hk
  · rw [if_pos hk, exec_packetPlacement]
    unfold execPacketPlacement
    simp only [hp, hk, harr, and_self, if_true]
  · have hno : ¬ p.kind = 2 := by rw [hk]; decide
    rw [if_neg hno, exec_claspPlacement]
    unfold execClaspPlacement
    simp only [hp, hk, harr, and_self, if_true]

/-- A packet that the port takes next stands in no holding buffer. -/
theorem not_held_of_nextArrived {s : State} {p : Packet} (h : nextArrived s p = true) :
    s.core.port.holding.contains (.packet p.id) = false := by
  unfold nextArrived at h
  obtain ⟨q, hq, hid⟩ := Option.map_eq_some_iff.mp (beq_iff_eq.mp h)
  have hopen := List.find?_some hq
  rw [Bool.and_eq_true, Bool.and_eq_true (arrived q && !q.answered)] at hopen
  obtain ⟨-, -, hheld⟩ := hopen
  rw [← hid]
  exact Bool.not_eq_true' _ ▸ hheld

/-- What the port of a destination makes of an arrived packet, by who holds the ordinal there. -/
theorem placements {s : State} {i : Nat} {p : Packet} (hp : s.net.packets[i]? = some p) (harr : nextArrived s p = true)
    (hk : p.kind = 2 ∨ p.kind = 3) :
    let ev : Instr := if p.kind = 2 then .packetPlacement i else .claspPlacement i
    let waits : State → State := updPacket p.id (fun x => { x with answered := true })
    (holderOf s p.launch p.sec p.ord = .own → ∀ s',
      (∀ bs, placeLabel p.label p.ofs.toNat (p.ofs.toNat + p.data.length) p.data s = (s', .ok bs) →
        (p.kind = 2 → exec ev s = .next (acknowledged p 0 (dropPacket p.id s')))
        ∧ (p.kind = 3 → exec ev s = .next (acknowledged p 0 (dropPacket p.id (armed p s')))))
      ∧ (placeLabel p.label p.ofs.toNat (p.ofs.toNat + p.data.length) p.data s = (s', .refused) →
        exec ev s = .next (acknowledged p 1 (waits s')))
      ∧ (placeLabel p.label p.ofs.toNat (p.ofs.toNat + p.data.length) p.data s = (s', .error) →
        exec ev s = .next (acknowledged p 2 (dropPacket p.id s'))))
    ∧ (holderOf s p.launch p.sec p.ord = .frozen →
      (holdingRoom s (.packet p.id) = true →
        exec ev s = .next { s with core.port.holding := s.core.port.holding ++ [.packet p.id] })
      ∧ (holdingRoom s (.packet p.id) = false → exec ev s = .next (acknowledged p 1 (waits s))))
    ∧ (holderOf s p.launch p.sec p.ord = .gone → exec ev s = .next (acknowledged p 2 (dropPacket p.id s)))
    ∧ (holderOf s p.launch p.sec p.ord = .away →
      savedLabel s p.launch p.sec p.ord p.label p.ofs.toNat p.data.length = .refused → exec ev s = .next (acknowledged p 1 (waits s))) := by
  intro ev waits
  have hev : exec ev s = .next (placePacket p s) := exec_placement hp harr hk
  have hheld := not_held_of_nextArrived harr
  rw [hev]
  refine ⟨fun hown s' => ?_, fun hfrozen => ⟨fun hroom => ?_, fun hroom => ?_⟩, fun hgone => ?_, fun haway hsaved => ?_⟩
  · have hreceive : receivePacket p s = placeLabel p.label p.ofs.toNat (p.ofs.toNat + p.data.length) p.data s := by
      rw [receivePacket, hown]
    rw [← hreceive]
    refine ⟨fun bs h => ⟨fun h2 => ?_, fun h3 => ?_⟩, fun h => ?_, fun h => ?_⟩
    · rw [placePacket_data h2 h]
    · rw [placePacket_clasp h3 h]
    · rw [placePacket_notPlaced (by exact nofun) h, answerPacket_refused]
    · rw [placePacket_notPlaced (by exact nofun) h, answerPacket_error]
  · have h : receivePacket p s = (holdData (.packet p.id) s, .stays) := by
      unfold receivePacket
      simp only [hfrozen, hheld, hroom, Bool.false_eq_true, if_false, if_true]
    rw [placePacket_notPlaced (by exact nofun) h, answerPacket_stays]
    rfl
  · have h : receivePacket p s = (s, .refused) := by
      unfold receivePacket
      simp only [hfrozen, hheld, hroom, Bool.false_eq_true, if_false]
    rw [placePacket_notPlaced (by exact nofun) h, answerPacket_refused]
  · have h : receivePacket p s = (s, .error) := by rw [receivePacket, hgone]
    rw [placePacket_notPlaced (by exact nofun) h, answerPacket_error]
  · have h : receivePacket p s = (s, .refused) := by rw [receivePacket, haway, hsaved]
    rw [placePacket_notPlaced (by exact nofun) h, answerPacket_refused]

/-! ## Acknowledgements -/

section acknowledgement
variable {s : State} {i : Nat} {p : Packet} (hp : s.net.packets[i]? = some p) (hk : p.kind = 5) (harr : nextArrived s p = true)
  (hans : answeredAccess (dropPacket p.id s) p = none)
include hp hk harr hans

theorem execPlacementAcknowledgement_refused (hres : p.result = 1) :
    exec (.placementAcknowledgement i) s = .next { dropPacket p.id s with
      net.packets := (dropPacket p.id s).net.packets.map (fun x =>
        if x.answered ∧ x.sender = p.receiver ∧ x.cmd = p.cmd ∧ x.launch = p.launch ∧ (x.kind = 2 ∨ x.kind = 3) then
          { x with retryAt := s.now + 1000 } else x) } := by
  rw [exec_placementAcknowledgement]
  unfold execPlacementAcknowledgement
  simp only [hp, hk, harr, hans, hres, ne_eq, not_true, false_and, Bool.not_true, Bool.false_eq_true, or_self, if_false, if_true]
  rfl

theorem execPlacementAcknowledgement_ends {c : Command} (hres : p.result ≠ 1) (hown : p.receiver = s.core.id)
    (hc : copyCommand s p.launch p.cmd = some c) :
    exec (.placementAcknowledgement i) s
      = if p.result = 0 then .next (finishCmd 5 (noteClasp c (dropPacket p.id s))) else .next (commandError 5 (dropPacket p.id s)) := by
  have hc' : copyCommand (dropPacket p.id s) p.launch p.cmd = some c := hc
  have hown' : ¬ p.receiver ≠ (dropPacket p.id s).core.id := not_not_intro hown
  rw [exec_placementAcknowledgement]
  unfold execPlacementAcknowledgement
  simp only [hp, hk, harr, hans, hres, hc', hown', ne_eq, not_true, false_and, Bool.not_true, Bool.false_eq_true, or_self, if_false]

end acknowledgement

/-- The note of a clasp is made in the meters alone. -/
theorem noteClasp_frame (c : Command) (s : State) : ∃ l, noteClasp c s = { s with core.port.meters := l } := by
  unfold noteClasp
  split
  · split
    · exact ⟨_, rfl⟩
    · exact ⟨_, rfl⟩
  · exact ⟨_, rfl⟩

theorem execOf_commandError {q : Nat} (hq : q < 6) (s : State) :
    execOf (commandError q s) q = (execOf s q).map (fun r => { r with finished := true, err := true }) :=
  execOf_updExec_same hq _ s

theorem faults_commandError (q : Nat) (s : State) :
    (commandError q s).core.eng.faults = s.core.eng.faults ++ [⟨BitVec.ofNat 3 q, subCommand, 0, 0⟩] := by
  unfold commandError raiseEngine
  rw [updExec_frame]
  rfl

/-! ## Offers -/

section reoffer
variable {s : State} {i : Nat} {p : Packet}

theorem execReoffer_packet (hp : s.net.packets[i]? = some p) (hretry : p.retryAt ≠ 0) (hdue : p.retryAt.toNat ≤ s.now.toNat) :
    exec (.reoffer i) s = if p.sender = s.core.id ∧ p.launch = s.core.launch ∧ corePkg (ordPlace s p.ord) ≠ p.pkg then
      .next (setCursor 0 (dropPacket p.id s)) else .next (resendPacket p s) := by
  have hno : ¬ (p.retryAt = 0 ∨ s.now.toNat < p.retryAt.toNat) := not_or.mpr ⟨hretry, Nat.not_lt.mpr hdue⟩
  rw [exec_reoffer]
  unfold execReoffer
  simp only [hp, hno, if_false]

theorem execReoffer_access {e : RemotePool} (hi : s.net.packets.length ≤ i) (he : s.net.remote[i - s.net.packets.length]? = some e)
    (hretry : e.retryAt ≠ 0) (hdue : e.retryAt.toNat ≤ s.now.toNat) (hp : packetOf s e.pkt = some p) :
    let j := i - s.net.packets.length
    let again := s.net.remote.modify j (fun x => { x with retryAt := 0 })
    exec (.reoffer i) s = if e.sender = s.core.id ∧ e.launch = s.core.launch ∧ corePkg (ordPlace s e.ord) ≠ p.pkg then
      .next (dropPacket p.id { s with net.remote := again.eraseIdx j }) else .next (resendPacket p { s with net.remote := again }) := by
  intro j again
  have hnone : s.net.packets[i]? = none := List.getElem?_eq_none hi
  have hno : ¬ (e.retryAt = 0 ∨ s.now.toNat < e.retryAt.toNat) := not_or.mpr ⟨hretry, Nat.not_lt.mpr hdue⟩
  have hp' : packetOf { s with net.remote := again } e.pkt = some p := hp
  rw [exec_reoffer]
  unfold execReoffer
  simp only [hnone, he, hno, if_false]
  rw [show s.net.remote.modify (i - s.net.packets.length) (fun x => { x with retryAt := 0 }) = again from rfl]
  simp only [hp']
  rfl

end reoffer

end Sys2Proof.Machine
end

section
/-! SUPPORT. Meters and the release of promoted circuits (R335, R346, R350). -/

namespace Sys2Proof.Machine

/-- Restarted counts of a flow's entry. -/
def onward (m : Meter) (s : State) : State := { s with
  core.port.meters := s.core.port.meters.map (fun x => if x.dest == m.dest && x.label == m.label then { x with
    count := 0, holdOff := x.holdOff - 1, started := false, intervalEnd := x.intervalEnd + meterInterval s } else x) }

theorem endInterval_frees {m : Meter} {s : State} (hslot : m.slot = none) (hcount : m.count = 0) (htrip : m.tripped = false) :
    endInterval m s
      = { s with core.port.meters := s.core.port.meters.filter (fun x => !(x.dest == m.dest && x.label == m.label)) } := by
  unfold endInterval
  simp only [hslot, hcount, htrip, Option.isNone_none, Bool.not_false, and_self, if_true]

/-- An entry in use, or whose circuit is, counts anew. -/
theorem endInterval_restarts {m : Meter} {s : State}
    (h : m.slot = none ∧ ¬ (m.count = 0 ∧ m.tripped = false) ∨ m.slot ≠ none ∧ (m.started = true ∨ sendOnCircuit m s = true)) :
    endInterval m s = onward m s := by
  have hkeep : ¬ (m.slot.isNone = true ∧ m.count = 0 ∧ (!m.tripped) = true) := by
    rintro ⟨hslot, hcount, htrip⟩
    rcases h with ⟨-, h⟩ | ⟨h, -⟩
    · exact h ⟨hcount, (Bool.not_eq_true' _).mp htrip⟩
    · exact h (Option.isNone_iff_eq_none.mp hslot)
  have hidle : (m.slot.isSome && !m.started && !sendOnCircuit m s) = false := by
    rcases h with ⟨h, -⟩ | ⟨-, h | h⟩
    · rw [h]; rfl
    · rw [h, Bool.not_true, Bool.and_false, Bool.false_and]
    · rw [h, Bool.not_true, Bool.and_false]
  unfold endInterval
  simp only [hkeep, hidle, if_false]
  rfl

/-- A promoted circuit without a `SEND` in its interval is released. -/
theorem endInterval_releases {m : Meter} {s : State} {h : BitVec 3} {c : Circuit} (hslot : m.slot = some h) (hstarted : m.started = false)
    (hsend : sendOnCircuit m s = false) (hc : ownCircuit s h = some c) : endInterval m s = releasePromoted c (onward m s) := by
  have hc' : ownCircuit (onward m s) h = some c := hc
  unfold endInterval
  simp only [hslot, hstarted, hsend, Option.isNone_some, Option.isSome_some, Bool.not_false, Bool.and_self, Bool.false_eq_true, false_and,
    if_false, Option.bind_some]
  rw [show updMeters (fun x => x.dest == m.dest && x.label == m.label) (fun x => { x with
    count := 0, holdOff := x.holdOff - 1, started := false, intervalEnd := x.intervalEnd + meterInterval s }) s = onward m s from rfl, hc']

theorem execMeterIntervalEnd_due {s : State} {i : Nat} {m : Meter} (hm : s.core.port.meters[i]? = some m) :
    exec (.meterIntervalEnd i) s = .next (if s.now.toNat < m.intervalEnd.toNat then s else endInterval m s) := by
  rw [exec_meterIntervalEnd]
  unfold execMeterIntervalEnd
  simp only [hm]
  split
  · rfl
  · rfl

/-- A released promoted circuit: its slot is closed, a release message leaves, and no handle owns it any more. -/
theorem releasePromoted_releases (c : Circuit) (s : State) (hown : c.releasing = false) :
    (handleOf (releasePromoted c s) c.slot).st = 0
      ∧ (∃ a, (releasePromoted c s).net.packets.getLast? = some a ∧ a.kind = 8 ∧ a.cmd = c.id ∧ a.sender = c.sender ∧ a.receiver = c.receiver)
      ∧ ownCircuit (releasePromoted c s) c.slot ≠ some c := by
  refine ⟨?_, ⟨_, List.getLast?_concat, rfl, rfl, rfl, rfl⟩, fun h => ?_⟩
  · exact congrArg (·.st) (handleOf_setHandle_same c.slot _ (freeMeterSlot c.slot _))
  · have hmem : c ∈ s.net.circuits.map (fun x => if x.id = c.id then { x with releasing := true } else x) := List.mem_of_find?_eq_some h
    obtain ⟨x, -, hx⟩ := List.mem_map.mp hmem
    by_cases hid : x.id = c.id
    · rw [if_pos hid] at hx
      exact Bool.noConfusion (hown.symm.trans (congrArg (·.releasing) hx).symm)
    · rw [if_neg hid] at hx
      exact hid (congrArg (·.id) hx)

end Sys2Proof.Machine
end

section
/-! SUPPORT. The actions of a probe (R273, R274, R335, R347-R349). -/

namespace Sys2Proof.Machine

section probe
variable {s : State} {i : Nat} {p : Probe} (hp : s.net.probes[i]? = some p)
include hp

theorem execProbeAction_launch (h : p.state = .launch) : exec (.probeAction i) s = .next (setProbe { p with state := .advance } s) := by
  rw [exec_probeAction]
  unfold execProbeAction
  simp only [hp, h]

section advance
variable (h : p.state = .advance)
include h

theorem execProbeAction_yields (hyields : probeYields s p = true) : exec (.probeAction i) s = .next s := by
  rw [exec_probeAction]
  unfold execProbeAction
  simp only [hp, h, hyields, if_true]

theorem execProbeAction_blocked (hyields : probeYields s p = false)
    (hblocked : (outputHeld s p.pkg p.pos (probeOutput p) || (probeOutput p == 0 && !portAccepts s p)) = true) :
    exec (.probeAction i) s = .next (probeBlocked p s) := by
  rw [exec_probeAction]
  unfold execProbeAction
  simp only [hp, h, hyields, hblocked, Bool.false_eq_true, if_true, if_false]

section free
variable (hyields : probeYields s p = false)
  (hfree : (outputHeld s p.pkg p.pos (probeOutput p) || (probeOutput p == 0 && !portAccepts s p)) = false)
include hyields hfree

theorem execProbeAction_arrives (hd : probeOutput p = 0) :
    exec (.probeAction i) s = .next (noteWon p.pkg p.pos (probeOutput p) p.input
      (setProbe { p with reserved := p.reserved ++ [(p.pos, 0)], state := .confirm p.reserved.length } s)) := by
  rw [hd] at hfree
  rw [exec_probeAction]
  unfold execProbeAction
  simp only [hp, h, hyields, hd, hfree, Bool.false_eq_true, if_true, if_false]

theorem execProbeAction_reserves (hd : probeOutput p ≠ 0) :
    exec (.probeAction i) s = .next (wakeLink (meshLink 1 p.pkg p.pos (probeOutput p)) (noteWon p.pkg p.pos (probeOutput p) p.input
      (setProbe { p with reserved := p.reserved ++ [(p.pos, probeOutput p)], pos := routerStep p.pos (probeOutput p)
                         input := inputOf (probeOutput p) } s))) := by
  rw [exec_probeAction]
  unfold execProbeAction
  simp only [hp, h, hyields, hd, hfree, Bool.false_eq_true, if_false]

end free
end advance

theorem execProbeAction_confirms {k : Nat} (h : p.state = .confirm (k + 1)) :
    exec (.probeAction i) s = .next (setProbe { p with state := .confirm k } s) := by
  rw [exec_probeAction]
  unfold execProbeAction
  simp only [hp, h]

section confirmed
variable (h : p.state = .confirm 0)
include h

theorem execProbeAction_pathOut (hout : pathOut s p = true) :
    exec (.probeAction i) s = .next (setProbe { p with b := 3, state := .giveUp } s) := by
  rw [exec_probeAction]
  unfold execProbeAction
  simp only [hp, h, hout, if_true]

theorem execProbeAction_wakes (hout : pathOut s p = false) (hnarrow : narrowLinks s p ≠ []) :
    exec (.probeAction i) s = .next ((narrowLinks s p).foldl (fun u l => wakeLink l u) s) := by
  rw [exec_probeAction]
  unfold execProbeAction
  simp only [hp, h, hout, Bool.false_eq_true, if_false]

theorem execProbeAction_succeeds (hout : pathOut s p = false) (hnarrow : narrowLinks s p = []) :
    exec (.probeAction i) s = .next (probeSuccess p s) := by
  rw [exec_probeAction]
  unfold execProbeAction
  simp only [hp, h, hout, hnarrow, Bool.false_eq_true, if_false]

end confirmed

section giveUp
variable (h : p.state = .giveUp)
include h

theorem execProbeAction_givesBack (hres : p.reserved ≠ []) :
    exec (.probeAction i) s = .next (setProbe { p with reserved := p.reserved.dropLast } s) := by
  rw [exec_probeAction]
  unfold execProbeAction
  simp only [hp, h]

theorem execProbeAction_ends (hres : p.reserved = []) : exec (.probeAction i) s = .next (probeEnd p s) := by
  rw [exec_probeAction]
  unfold execProbeAction
  simp only [hp, h, hres]

end giveUp
end probe

/-! ## A blocked way -/

section blocked
variable {p : Probe} (hb : p.b < 2)
include hb

theorem probeBlocked_start (hres : p.reserved = []) (s : State) :
    probeBlocked p s = setProbe { p with b := p.b + 1, yFirst := !p.yFirst } s := by
  unfold probeBlocked
  simp only [if_neg (Nat.not_le.mpr hb), hres, List.reverse_nil]

/-- A probe goes back over its last output, to try the other order from there. -/
theorem probeBlocked_back {rest : List (Router × Dir)} {r : Router} {o : Dir} (hres : p.reserved = rest ++ [(r, o)]) (s : State) :
    probeBlocked p s = setProbe { p with
      b := p.b + 1, reserved := rest, pos := r, yFirst := o == 2 || o == 4
      input := rest.getLast?.elim 0 (fun x => inputOf x.2) } s := by
  unfold probeBlocked
  simp only [if_neg (Nat.not_le.mpr hb), hres, List.reverse_append, List.reverse_cons, List.reverse_nil, List.nil_append, List.cons_append,
    List.reverse_reverse]
  rw [List.getLast?_eq_head?_reverse]
  cases rest.reverse with
  | nil => rfl
  | cons x l => rfl

end blocked

theorem probeBlocked_givesUp {p : Probe} (hb : 2 ≤ p.b) (s : State) : probeBlocked p s = setProbe { p with b := 3, state := .giveUp } s :=
  if_pos hb

/-! ## The circuit of a confirmed probe -/

/-- The circuit that a confirmed probe makes. -/
def probeCircuit (p : Probe) : Circuit :=
  ⟨p.id, p.pkg, p.reserved, p.sender, p.receiver, p.slot, p.label, p.promoted, false, 0, 0, [], false⟩

/-- The probe has gone, and its circuit stands. -/
def circuitMade (p : Probe) (s : State) : State := { dropProbe p s with net.circuits := s.net.circuits ++ [probeCircuit p] }

section success
variable {s : State} {p : Probe}

theorem probeSuccess_other (h : p.sender ≠ s.core.id) : probeSuccess p s = circuitMade p s := if_pos h

theorem probeSuccess_promoted (hown : p.sender = s.core.id) (hpro : p.promoted = true)
    (h : ∃ m ∈ s.core.port.meters, (m.dest == p.ord && m.label == p.label && m.tripped) = true) :
    probeSuccess p s = { circuitMade p s with
      core.port.meters := s.core.port.meters.map (fun m => if m.dest == p.ord && m.label == p.label && m.tripped then
        { m with slot := some p.slot, tripped := false, clasped := false, started := true } else m) } := by
  have hany : s.core.port.meters.any (fun m => m.dest == p.ord && m.label == p.label && m.tripped) = true := List.any_eq_true.mpr h
  have hkept : ¬ (!s.core.port.meters.any (fun m => m.dest == p.ord && m.label == p.label && m.tripped)) = true := by rw [hany]; decide
  exact (if_neg (not_not_intro hown)).trans ((if_pos hpro).trans (if_neg hkept))

/-- A promotion whose entry has gone meanwhile releases its circuit. -/
theorem probeSuccess_orphan (hown : p.sender = s.core.id) (hpro : p.promoted = true)
    (h : ∀ m ∈ s.core.port.meters, (m.dest == p.ord && m.label == p.label && m.tripped) = false) :
    probeSuccess p s = releasePromoted (probeCircuit p) (circuitMade p s) := by
  have hany : s.core.port.meters.any (fun m => m.dest == p.ord && m.label == p.label && m.tripped) = false := List.any_eq_false.mpr
    fun m hm => by rw [h m hm]; decide
  have hgone : (!s.core.port.meters.any (fun m => m.dest == p.ord && m.label == p.label && m.tripped)) = true := by rw [hany]; rfl
  exact (if_neg (not_not_intro hown)).trans ((if_pos hpro).trans (if_pos hgone))

theorem probeSuccess_explicit (hown : p.sender = s.core.id) (hpro : p.promoted = false) :
    probeSuccess p s = finishCmd 5 (setHandle p.slot
      { handleOf s p.slot with st := 2, leaseEnd := counterOf s s.core.id + dw p.lease } (circuitMade p s)) :=
  (if_neg (not_not_intro hown)).trans (if_neg (by rw [hpro]; decide))

end success

end Sys2Proof.Machine
end

section
/-! SUPPORT. Beats of a circuit at the modelled receiver (R331, R336, R345). -/

namespace Sys2Proof.Machine

/-! ## Windows of a receiver -/

/-- A window that has just begun. -/
def freshWindow (c : Circuit) (start : Nat) : RxWindow := ⟨c.id, c.label, start, [], [], false, false, false, false⟩

/-- One more window at the receiver. -/
def withWindow (w : RxWindow) (u : State) : State := { u with net.rx := u.net.rx ++ [w] }

theorem find?_map_of_forall_eq {α : Type} {p : α → Bool} (g : α → α) (h : ∀ x, p (g x) = p x) (l : List α) :
    (l.map g).find? p = (l.find? p).map g := by
  rw [List.find?_map]
  exact congrArg (fun q => (l.find? q).map g) (funext h)

/-- A change of a window that leaves its circuit and its start. -/
theorem rxWindow_updWindow {id start : Nat} {f : RxWindow → RxWindow} (hf : ∀ w, (f w).circuit = w.circuit ∧ (f w).start = w.start)
    (u : State) : rxWindow (updWindow id start f u) id start = (rxWindow u id start).map f := by
  unfold rxWindow updWindow
  rw [find?_map_of_forall_eq]
  · cases h : u.net.rx.find? (fun w => w.circuit == id && w.start == start) with
    | none => rfl
    | some w =>
      have hw := List.find?_some h
      have hmatch : w.circuit = id ∧ w.start = start := by simpa using hw
      exact congrArg some (if_pos hmatch)
  · intro w
    split
    · rw [(hf w).1, (hf w).2]
    · rfl

theorem rxWindow_updWindow_of {u : State} {id start : Nat} {w : RxWindow} (hw : rxWindow u id start = some w) (f : RxWindow → RxWindow)
    (hf : ∀ w, (f w).circuit = w.circuit ∧ (f w).start = w.start := by exact fun _ => ⟨rfl, rfl⟩) :
    rxWindow (updWindow id start f u) id start = some (f w) := by
  rw [rxWindow_updWindow hf, hw]
  rfl

section none
variable {u : State} {id start : Nat} (hnone : rxWindow u id start = none)
include hnone

theorem no_window (w : RxWindow) (hw : w ∈ u.net.rx) : ¬ (w.circuit = id ∧ w.start = start) := by
  have h := List.find?_eq_none.mp hnone w hw
  simpa using h

theorem updWindow_withWindow {w : RxWindow} (hid : w.circuit = id) (hstart : w.start = start) (f : RxWindow → RxWindow) :
    updWindow id start f (withWindow w u) = withWindow (f w) u := by
  have hmap : u.net.rx.map (fun w => if w.circuit = id ∧ w.start = start then f w else w) = u.net.rx := by
    conv_rhs => rw [← List.map_id u.net.rx]
    exact List.map_congr_left fun x hx => if_neg (no_window hnone x hx)
  unfold updWindow withWindow
  simp only [List.map_append, List.map_cons, List.map_nil, hmap, hid, hstart, and_self, if_true]

theorem rxWindow_withWindow {w : RxWindow} (hid : w.circuit = id) (hstart : w.start = start) :
    rxWindow (withWindow w u) id start = some w := by
  unfold rxWindow withWindow
  rw [List.find?_append, show u.net.rx.find? (fun w => w.circuit == id && w.start == start) = none from hnone, Option.none_or,
    List.find?_cons]
  simp [hid, hstart]

end none

theorem openWindow_none {c : Circuit} {start : Nat} {u : State} (h : rxWindow u c.id start = none) :
    openWindow c start u = withWindow (freshWindow c start) u := by
  unfold openWindow
  rw [h]
  rfl

theorem openWindow_some {c : Circuit} {start : Nat} {u : State} {w : RxWindow} (h : rxWindow u c.id start = some w) :
    openWindow c start u = u := by
  unfold openWindow
  rw [h]
  rfl

section updWindow
variable (id start : Nat) (f : RxWindow → RxWindow) (u : State)

theorem core_updWindow : (updWindow id start f u).core = u.core := rfl

theorem windowFits_updWindow (c : Circuit) (window : Nat) : windowFits (updWindow id start f u) c window = windowFits u c window := rfl

theorem wordAnswer_updWindow (label : BitVec 16) (a n : Nat) : wordAnswer (updWindow id start f u) label a n = wordAnswer u label a n := rfl

end updWindow

/-! ## Beats that arrive -/

theorem circuitTraffic_frame (c : Circuit) (s : State) : ∃ l, circuitTraffic c s = { s with net.links := l } := by
  unfold circuitTraffic
  induction circuitLinks c.pkg c.path generalizing s with
  | nil => exact ⟨_, rfl⟩
  | cons x r ih =>
    obtain ⟨l, hl⟩ := ih (linkTraffic x s)
    exact ⟨l, by rw [List.foldl_cons, hl]; rfl⟩

/-- The beat has left its circuit, whose links have seen traffic. -/
def beatTaken (c : Circuit) (i : Nat) (s : State) : State := circuitTraffic c { s with net.beats := s.net.beats.eraseIdx i }

theorem beatTaken_frame (c : Circuit) (i : Nat) (s : State) :
    ∃ l, beatTaken c i s = { s with net.beats := s.net.beats.eraseIdx i, net.links := l } := circuitTraffic_frame ..

section beat
variable {s : State} {i : Nat} {b : Beat} {c : Circuit} (hb : s.net.beats[i]? = some b) (hc : circuitOf s b.circuit = some c)
  (hfirst : firstBeat s i b = true) (hcheck : b.check = none) (harmed : c.promoted = true → c.armed = true)
include hb hc hfirst hcheck harmed

/-- The first data beat of a circuit goes on to its receiver. -/
theorem execCircuitBeat_arrives :
    exec (.circuitBeat i) s = .next (if c.receiver ≠ s.core.id then beatTaken c i s
      else if frozenAt s c = true then holdBeat c b (beatTaken c i s) else placeBeat c b (beatTaken c i s)) := by
  have hgo : ¬ (b.check.isSome = true ∨ (!firstBeat s i b) = true ∨ c.promoted = true ∧ (!c.armed) = true) := by
    rintro (h | h | ⟨hpro, h⟩)
    · rw [hcheck] at h
      exact nomatch h
    · rw [hfirst] at h
      exact nomatch h
    · rw [harmed hpro] at h
      exact nomatch h
  have hcore : (beatTaken c i s).core = s.core := by
    obtain ⟨l, hl⟩ := beatTaken_frame c i s
    rw [hl]
  have hfrozen : frozenAt (beatTaken c i s) c = frozenAt s c := by rw [frozenAt, frozenAt, hcore]
  rw [exec_circuitBeat]
  unfold execCircuitBeat
  simp only [hb, hc, if_neg hgo]
  change (if c.receiver ≠ (beatTaken c i s).core.id then Host.Outcome.next (beatTaken c i s)
    else if frozenAt (beatTaken c i s) c = true then .next (holdBeat c b (beatTaken c i s)) else .next (placeBeat c b (beatTaken c i s))) = _
  rw [hcore, hfrozen, apply_ite Host.Outcome.next, apply_ite Host.Outcome.next]

end beat

theorem frozenAt_running {s : State} (h : s.core.seq.run = .running) (c : Circuit) : frozenAt s c = false := by
  rw [frozenAt, h, Bool.and_false]

theorem frozenAt_halted {s : State} {r : Bool} (h : s.core.seq.run = .halted r) {c : Circuit} (hown : c.receiver = s.core.id) :
    frozenAt s c = true := by
  rw [frozenAt, h, hown, beq_self_eq_true]
  rfl

/-! ## The words of a beat -/

/-- The bytes seen of a window. -/
def seenBytes (c : Circuit) (b : Beat) : List (Nat × Byte) := b.data.zipIdx.map (fun x => (beatOfs c b + x.2, x.1))

/-- The words that a beat's data takes from an address on. -/
def beatWords (a : Nat) (b : Beat) : List Nat := (List.range ((b.data.length + 3) / 4)).map (fun k => a / 4 * 4 + 4 * k)

section place
variable {c : Circuit} {b : Beat} {u v : State} {w : RxWindow} (hopen : openWindow c (windowStart c b) u = v)
  (hw : rxWindow v c.id (windowStart c b) = some w)
include hopen hw

/-- A window that is refused or out of range takes bytes without placing them. -/
theorem placeBeat_sees (h : w.refused = true ∨ w.range = true) :
    placeBeat c b u = updWindow c.id (windowStart c b) (fun w => { w with data := w.data ++ seenBytes c b }) v := by
  unfold placeBeat
  simp only [hopen, hw, if_pos h]
  rfl

section words
variable (h : ¬ (w.refused = true ∨ w.range = true))
include h

/-- A window that leaves its buffer, or whose word may not be placed, is out of range. -/
theorem placeBeat_leaves (hout : ∀ a, labelAddr v.core c.label (beatOfs c b) b.data.length = some a →
      windowFits v c b.window = false ∨ wordAnswer v c.label a b.data.length = .fault) :
    placeBeat c b u = updWindow c.id (windowStart c b) (fun w => { w with range := true })
      (updWindow c.id (windowStart c b) (fun w => { w with data := w.data ++ seenBytes c b }) v) := by
  unfold placeBeat
  simp only [hopen, hw, if_neg h, core_updWindow, windowFits_updWindow, wordAnswer_updWindow]
  cases ha : labelAddr v.core c.label (beatOfs c b) b.data.length with
  | none => rfl
  | some a =>
    cases hfits : windowFits v c b.window with
    | false => rfl
    | true =>
      have hans : wordAnswer v c.label a b.data.length = .fault := (hout a ha).resolve_left (by rw [hfits]; decide)
      simp only [hans]
      rfl

section fits
variable {a : Nat} (ha : labelAddr v.core c.label (beatOfs c b) b.data.length = some a) (hfits : windowFits v c b.window = true)
include ha hfits

theorem placeBeat_waits (hans : wordAnswer v c.label a b.data.length = .wait) :
    placeBeat c b u = updWindow c.id (windowStart c b) (fun w => { w with refused := true })
      (updWindow c.id (windowStart c b) (fun w => { w with data := w.data ++ seenBytes c b }) v) := by
  unfold placeBeat
  simp only [hopen, hw, if_neg h, core_updWindow, windowFits_updWindow, wordAnswer_updWindow, ha, hfits, hans]
  rfl

/-- Words that the buffer takes are placed, unchecked; with its first word a window counts among the checks outstanding. -/
theorem placeBeat_places (hans : wordAnswer v c.label a b.data.length = .allowed) :
    placeBeat c b u = placeBytes a b.data true true
      (updWindow c.id (windowStart c b) (fun w => { w with placed := w.placed ++ beatWords a b, counted := true })
        (if w.counted then updWindow c.id (windowStart c b) (fun w => { w with data := w.data ++ seenBytes c b }) v
          else changeChk c.label (fun n => n + 1) (updWindow c.id (windowStart c b) (fun w => { w with data := w.data ++ seenBytes c b }) v))) := by
  unfold placeBeat
  simp only [hopen, hw, if_neg h, core_updWindow, windowFits_updWindow, wordAnswer_updWindow, ha, hfits, hans]
  rfl

end fits
end words
end place

/-! ## What a beat leaves -/

theorem changeChk_frame (label : BitVec 16) (f : Nat → Nat) (s : State) : ∃ l, changeChk label f s = { s with core.pool.bufs := l } := by
  unfold changeChk
  split
  · exact ⟨_, rfl⟩
  · exact ⟨_, rfl⟩

/-- Bytes placed after a change of windows and of outstanding checks. -/
theorem placed_frame {u x : State} (hx : ∃ l r, x = { u with core.pool.bufs := l, net.rx := r }) (a : Nat) (bs : List Byte) :
    placeBytes a bs true true x = { u with core.pool := (placeBytes a bs true true x).core.pool, net.rx := x.net.rx }
      ∧ ∀ k, poolByte (placeBytes a bs true true x) k = if a ≤ k ∧ k < a + bs.length then bs.getD (k - a) 0 else poolByte u k := by
  obtain ⟨l, r, rfl⟩ := hx
  obtain ⟨p, hp⟩ := placeBytes_frame a bs true true { u with core.pool.bufs := l, net.rx := r }
  refine ⟨?_, fun k => poolByte_placeBytes ..⟩
  rw [hp]

section begins
variable {c : Circuit} {b : Beat} {u : State} (hnone : rxWindow u c.id (windowStart c b) = none)
include hnone

theorem openWindow_begins : rxWindow (withWindow (freshWindow c (windowStart c b)) u) c.id (windowStart c b)
    = some (freshWindow c (windowStart c b)) := rxWindow_withWindow hnone rfl rfl

theorem seen_withFresh :
    updWindow c.id (windowStart c b) (fun w => { w with data := w.data ++ seenBytes c b }) (withWindow (freshWindow c (windowStart c b)) u)
      = withWindow { freshWindow c (windowStart c b) with data := seenBytes c b } u := updWindow_withWindow hnone rfl rfl _

section begun
variable {a : Nat} (ha : labelAddr u.core c.label (beatOfs c b) b.data.length = some a) (hfits : windowFits u c b.window = true)
include ha hfits

/-- The first words of a window, placed. -/
theorem placeBeat_begins (hans : wordAnswer u c.label a b.data.length = .allowed) :
    placeBeat c b u = { u with
        core.pool := (placeBeat c b u).core.pool
        net.rx := u.net.rx ++ [⟨c.id, c.label, windowStart c b, beatWords a b, seenBytes c b, true, false, false, false⟩] }
      ∧ ∀ k, poolByte (placeBeat c b u) k = if a ≤ k ∧ k < a + b.data.length then b.data.getD (k - a) 0 else poolByte u k := by
  have hplaces := placeBeat_places (openWindow_none hnone) (openWindow_begins hnone) (by simp [freshWindow]) ha hfits hans
  rw [if_neg (by simp [freshWindow]), seen_withFresh hnone] at hplaces
  obtain ⟨l, hl⟩ := changeChk_frame c.label (fun n => n + 1) (withWindow { freshWindow c (windowStart c b) with data := seenBytes c b } u)
  have hchk : changeChk c.label (fun n => n + 1) (withWindow { freshWindow c (windowStart c b) with data := seenBytes c b } u)
      = withWindow { freshWindow c (windowStart c b) with data := seenBytes c b } { u with core.pool.bufs := l } := hl
  rw [hchk, updWindow_withWindow (show rxWindow { u with core.pool.bufs := l } c.id (windowStart c b) = none from hnone) rfl rfl] at hplaces
  rw [hplaces]
  exact placed_frame ⟨l, _, rfl⟩ a b.data

theorem placeBeat_beginsWaiting (hans : wordAnswer u c.label a b.data.length = .wait) :
    placeBeat c b u = withWindow { freshWindow c (windowStart c b) with data := seenBytes c b, refused := true } u := by
  rw [placeBeat_waits (openWindow_none hnone) (openWindow_begins hnone) (by simp [freshWindow]) ha hfits hans, seen_withFresh hnone]
  exact updWindow_withWindow hnone rfl rfl _

end begun

theorem placeBeat_beginsOut (hout : ∀ a, labelAddr u.core c.label (beatOfs c b) b.data.length = some a →
      windowFits u c b.window = false ∨ wordAnswer u c.label a b.data.length = .fault) :
    placeBeat c b u = withWindow { freshWindow c (windowStart c b) with data := seenBytes c b, range := true } u := by
  rw [placeBeat_leaves (openWindow_none hnone) (openWindow_begins hnone) (by simp [freshWindow]) hout, seen_withFresh hnone]
  exact updWindow_withWindow hnone rfl rfl _

end begins

section goesOn
variable {c : Circuit} {b : Beat} {u : State} {w : RxWindow} (hw : rxWindow u c.id (windowStart c b) = some w)
include hw

/-- More words of a window, placed. -/
theorem placeBeat_goesOn {a : Nat} (hrefused : w.refused = false) (hrange : w.range = false)
    (ha : labelAddr u.core c.label (beatOfs c b) b.data.length = some a) (hfits : windowFits u c b.window = true)
    (hans : wordAnswer u c.label a b.data.length = .allowed) :
    placeBeat c b u = { u with core.pool := (placeBeat c b u).core.pool, net.rx := (placeBeat c b u).net.rx }
      ∧ rxWindow (placeBeat c b u) c.id (windowStart c b)
        = some { w with data := w.data ++ seenBytes c b, counted := true, placed := w.placed ++ beatWords a b }
      ∧ ∀ k, poolByte (placeBeat c b u) k = if a ≤ k ∧ k < a + b.data.length then b.data.getD (k - a) 0 else poolByte u k := by
  have hplaces := placeBeat_places (openWindow_some hw) hw (by simp [hrefused, hrange]) ha hfits hans
  generalize hy : (if w.counted = true then updWindow c.id (windowStart c b) (fun w => { w with data := w.data ++ seenBytes c b }) u
    else changeChk c.label (fun n => n + 1) (updWindow c.id (windowStart c b) (fun w => { w with data := w.data ++ seenBytes c b }) u)) = y
    at hplaces
  have hyf : ∃ l, y = { u with
      core.pool.bufs := l, net.rx := (updWindow c.id (windowStart c b) (fun w => { w with data := w.data ++ seenBytes c b }) u).net.rx } := by
    rw [← hy]
    split
    · exact ⟨u.core.pool.bufs, rfl⟩
    · exact changeChk_frame ..
  have hyw : rxWindow y c.id (windowStart c b) = some { w with data := w.data ++ seenBytes c b } := by
    obtain ⟨l, rfl⟩ := hyf
    exact rxWindow_updWindow_of hw (fun w => { w with data := w.data ++ seenBytes c b })
  have hz := rxWindow_updWindow_of hyw (fun w => { w with placed := w.placed ++ beatWords a b, counted := true })
  have hzf : ∃ l r, updWindow c.id (windowStart c b) (fun w => { w with placed := w.placed ++ beatWords a b, counted := true }) y
      = { u with core.pool.bufs := l, net.rx := r } := by
    obtain ⟨l, rfl⟩ := hyf
    exact ⟨l, _, rfl⟩
  generalize updWindow c.id (windowStart c b) (fun w => { w with placed := w.placed ++ beatWords a b, counted := true }) y = z
    at hplaces hz hzf
  obtain ⟨hframe, hbytes⟩ := placed_frame hzf a b.data
  rw [← hplaces] at hframe hbytes
  have hrx : (placeBeat c b u).net.rx = z.net.rx := congrArg (·.net.rx) hframe
  refine ⟨?_, ?_, hbytes⟩
  · rw [hrx]
    exact hframe
  · rw [rxWindow, hrx]
    exact hz

theorem placeBeat_onlySees (h : w.refused = true ∨ w.range = true) :
    placeBeat c b u = { u with net.rx := (placeBeat c b u).net.rx }
      ∧ rxWindow (placeBeat c b u) c.id (windowStart c b) = some { w with data := w.data ++ seenBytes c b } := by
  rw [placeBeat_sees (openWindow_some hw) hw h]
  exact ⟨rfl, rxWindow_updWindow_of hw _⟩

end goesOn

theorem openWindow_frame (c : Circuit) (start : Nat) (u : State) :
    openWindow c start u = { u with net.rx := (openWindow c start u).net.rx } := by
  unfold openWindow
  split
  · rfl
  · rfl

theorem rxWindow_openWindow (c : Circuit) (start : Nat) (u : State) : ∃ w, rxWindow (openWindow c start u) c.id start = some w := by
  cases h : rxWindow u c.id start with
  | none =>
    rw [openWindow_none h]
    exact ⟨_, rxWindow_withWindow h rfl rfl⟩
  | some w =>
    rw [openWindow_some h]
    exact ⟨w, h⟩

theorem holdBeat_holds {c : Circuit} {b : Beat} {u : State} (h : holdingRoom u (.beat b) = true) :
    holdBeat c b u = { u with core.port.holding := u.core.port.holding ++ [.beat b] } := by
  unfold holdBeat
  exact if_pos h

/-- A beat for which the holding buffer has no room has its window refused. -/
theorem holdBeat_refuses {c : Circuit} {b : Beat} {u : State} (h : holdingRoom u (.beat b) = false) :
    holdBeat c b u = { u with net.rx := (holdBeat c b u).net.rx }
      ∧ ∃ w, rxWindow (holdBeat c b u) c.id (windowStart c b) = some w ∧ w.refused = true := by
  have heq : holdBeat c b u
      = updWindow c.id (windowStart c b) (fun w => { w with refused := true }) (openWindow c (windowStart c b) u) := by
    unfold holdBeat
    rw [h]
    rfl
  obtain ⟨w, hw⟩ := rxWindow_openWindow c (windowStart c b) u
  rw [heq]
  refine ⟨?_, ⟨_, rxWindow_updWindow_of hw _, rfl⟩⟩
  rw [openWindow_frame]
  rfl

/-! ## What a beat taken from its circuit leaves alone -/

section beatTaken
variable (c : Circuit) (i : Nat) (s : State)

theorem core_beatTaken : (beatTaken c i s).core = s.core := by
  obtain ⟨l, hl⟩ := beatTaken_frame c i s
  rw [hl]

theorem homes_beatTaken : (beatTaken c i s).homes = s.homes := by
  obtain ⟨l, hl⟩ := beatTaken_frame c i s
  rw [hl]

theorem rx_beatTaken : (beatTaken c i s).net.rx = s.net.rx := by
  obtain ⟨l, hl⟩ := beatTaken_frame c i s
  rw [hl]

theorem circuits_beatTaken : (beatTaken c i s).net.circuits = s.net.circuits := by
  obtain ⟨l, hl⟩ := beatTaken_frame c i s
  rw [hl]

theorem fresh_beatTaken : (beatTaken c i s).fresh = s.fresh := by
  obtain ⟨l, hl⟩ := beatTaken_frame c i s
  rw [hl]

theorem circuitOf_beatTaken (id : Nat) : circuitOf (beatTaken c i s) id = circuitOf s id := by
  rw [circuitOf, circuitOf, circuits_beatTaken]

theorem rxWindow_beatTaken (id start : Nat) : rxWindow (beatTaken c i s) id start = rxWindow s id start := by
  rw [rxWindow, rxWindow, rx_beatTaken]

theorem passedBefore_beatTaken (x : Circuit) (start : Nat) : passedBefore (beatTaken c i s) x start = passedBefore s x start := by
  rw [passedBefore, passedBefore, rx_beatTaken]

theorem wordAnswer_beatTaken (label : BitVec 16) (a n : Nat) : wordAnswer (beatTaken c i s) label a n = wordAnswer s label a n := by
  obtain ⟨l, hl⟩ := beatTaken_frame c i s
  rw [hl]
  rfl

theorem holdingRoom_beatTaken (h : Held) : holdingRoom (beatTaken c i s) h = holdingRoom s h := by
  obtain ⟨l, hl⟩ := beatTaken_frame c i s
  rw [hl]
  rfl

theorem poolByte_beatTaken (a : Nat) : poolByte (beatTaken c i s) a = poolByte s a :=
  poolByte_congr (congrArg (·.pool) (core_beatTaken c i s)) a

end beatTaken

end Sys2Proof.Machine
end

section
/-! SUPPORT. The check beat of a window, and the answer to it (R331, R344, R345, R351). -/

namespace Sys2Proof.Machine

/-! ## Circuits and windows by their names -/

theorem id_of_circuitOf {s : State} {id : Nat} {c : Circuit} (h : circuitOf s id = some c) : c.id = id := by
  have hc := List.find?_some h
  exact beq_iff_eq.mp hc

theorem name_of_rxWindow {s : State} {id start : Nat} {w : RxWindow} (h : rxWindow s id start = some w) :
    w.circuit = id ∧ w.start = start := by
  have hw := List.find?_some h
  simpa using hw

/-- A change of a circuit that leaves its number. -/
theorem circuitOf_updCircuit {id : Nat} {c : Circuit} {s : State} (hc : circuitOf s id = some c) (f : Circuit → Circuit)
    (hf : ∀ c, (f c).id = c.id := by exact fun _ => rfl) : circuitOf (updCircuit id f s) id = some (f c) := by
  unfold circuitOf updCircuit
  rw [find?_map_of_forall_eq, show s.net.circuits.find? (fun c => c.id == id) = some c from hc]
  · exact congrArg some (if_pos (id_of_circuitOf hc))
  · intro x
    split
    · rw [hf]
    · rfl

/-- The last packet of a state says so-and-so: what has been answered. -/
def Answers (t : State) (kind : BitVec 4) (f : Packet → Prop) : Prop := ∃ a, t.net.packets.getLast? = some a ∧ a.kind = kind ∧ f a

theorem windowAnswer_answers (c : Circuit) (kind : BitVec 4) (start : Nat) (aux : Word) (s : State) :
    Answers (windowAnswer c kind start aux s) kind (fun a => a.cmd = c.id ∧ a.ofs = BitVec.ofNat 32 start ∧ a.aux = aux) :=
  ⟨_, List.getLast?_concat, rfl, rfl, rfl, rfl⟩

/-! ## Windows that fail or pass -/

/-- The words of a window are forgotten: what its failure leaves before engines go back. -/
def wordsDropped (w : RxWindow) (s : State) : State :=
  updWindow w.circuit w.start (fun w => { w with placed := [], data := [], refused := false }) { s with
    core.pool.placed := s.core.pool.placed.filter (fun a => !w.placed.contains a)
    core.pool.unchecked := s.core.pool.unchecked.filter (fun a => !w.placed.contains a) }

theorem failWindow_eq (w : RxWindow) (s : State) : failWindow w s = windowFailed (w.circuit, w.start) (wordsDropped w s) := rfl

theorem rewound_failWindow (w : RxWindow) (s : State) : Rewound (wordsDropped w s) (failWindow w s) := by
  rw [failWindow_eq]
  exact rewound_windowFailed ..

section failWindow
variable (w : RxWindow) (s : State)

theorem net_failWindow : (failWindow w s).net = { s.net with rx := (wordsDropped w s).net.rx } := (rewound_failWindow w s).net

theorem port_failWindow : (failWindow w s).core.port = s.core.port := (rewound_failWindow w s).port

theorem still_failWindow : (failWindow w s).core.regs = s.core.regs ∧ (failWindow w s).homes = s.homes :=
  ⟨(kept_failWindow w s).regs, (kept_failWindow w s).homes⟩

end failWindow

theorem rxWindow_failWindow {s : State} {id start : Nat} {w : RxWindow} (hw : rxWindow s id start = some w) :
    rxWindow (failWindow w s) id start = some { w with placed := [], data := [], refused := false } := by
  obtain ⟨hid, hstart⟩ := name_of_rxWindow hw
  subst hid hstart
  rw [rxWindow, net_failWindow]
  exact rxWindow_updWindow_of hw _

theorem still_dropWindow (w : RxWindow) (s : State) : (dropWindow w s).core.regs = s.core.regs ∧ (dropWindow w s).homes = s.homes :=
  ⟨(kept_dropWindow w s).regs, (kept_dropWindow w s).homes⟩

theorem net_changeChk (label : BitVec 16) (f : Nat → Nat) (s : State) : (changeChk label f s).net = s.net := by
  obtain ⟨l, hl⟩ := changeChk_frame label f s
  rw [hl]

theorem net_dropWindow (w : RxWindow) (s : State) : (dropWindow w s).net
    = { s.net with rx := (wordsDropped w s).net.rx.filter (fun x => !(x.circuit == w.circuit && x.start == w.start)) } := by
  have hfail := net_failWindow w s
  unfold dropWindow
  extract_lets +onlyGivenNames s1
  have h1 : s1 = failWindow w s := rfl
  clear_value s1
  subst h1
  split
  · rw [net_changeChk, hfail]
  · rw [hfail]

theorem rxWindow_dropWindow {s : State} {id start : Nat} {w : RxWindow} (hw : rxWindow s id start = some w) :
    rxWindow (dropWindow w s) id start = none := by
  obtain ⟨hid, hstart⟩ := name_of_rxWindow hw
  rw [rxWindow, net_dropWindow]
  refine List.find?_eq_none.mpr fun x hx => ?_
  have hkept := (List.mem_filter.mp hx).2
  rw [hid, hstart] at hkept
  rw [Bool.not_eq_true]
  exact (Bool.not_eq_true' _).mp hkept

theorem circuitOf_failWindow (w : RxWindow) (s : State) (id : Nat) : circuitOf (failWindow w s) id = circuitOf s id := by
  rw [circuitOf, net_failWindow]
  rfl

theorem circuitOf_dropWindow (w : RxWindow) (s : State) (id : Nat) : circuitOf (dropWindow w s) id = circuitOf s id := by
  rw [circuitOf, net_dropWindow]
  rfl

section windowAnswer
variable (c : Circuit) (kind : BitVec 4) (start : Nat) (aux : Word) (s : State)

theorem rxWindow_windowAnswer (id start' : Nat) : rxWindow (windowAnswer c kind start aux s) id start' = rxWindow s id start' := rfl

theorem circuitOf_windowAnswer (id : Nat) : circuitOf (windowAnswer c kind start aux s) id = circuitOf s id := rfl

theorem beats_windowAnswer : (windowAnswer c kind start aux s).net.beats = s.net.beats := rfl

theorem still_windowAnswer : (windowAnswer c kind start aux s).core.regs = s.core.regs ∧ (windowAnswer c kind start aux s).homes = s.homes :=
  ⟨rfl, rfl⟩

end windowAnswer

section turnedAway
variable {c : Circuit} {w : RxWindow} {u : State} {start : Nat} (hc : circuitOf u c.id = some c) (hw : rxWindow u c.id start = some w)
include hc hw

/-- A window that is to be sent again: its words are forgotten, and its sender is told why. -/
theorem failedWindow_leaves (aux : Word) :
    let t := windowAnswer c 7 w.start aux (failWindow w u)
    t.core.regs = u.core.regs ∧ t.homes = u.homes ∧ t.net.beats = u.net.beats
      ∧ rxWindow t c.id start = some { w with placed := [], data := [], refused := false } ∧ circuitOf t c.id = some c
      ∧ Answers t 7 (fun a => a.cmd = c.id ∧ a.ofs = BitVec.ofNat 32 w.start ∧ a.aux = aux) := by
  intro t
  obtain ⟨hregs, hhomes⟩ := still_failWindow w u
  obtain ⟨hregs', hhomes'⟩ := still_windowAnswer c 7 w.start aux (failWindow w u)
  refine ⟨hregs'.trans hregs, hhomes'.trans hhomes, (beats_windowAnswer ..).trans ?_, (rxWindow_windowAnswer ..).trans (rxWindow_failWindow hw),
    (circuitOf_windowAnswer ..).trans ((circuitOf_failWindow w u c.id).trans hc), windowAnswer_answers ..⟩
  rw [net_failWindow]

/-- A window turned away for its range is given up, and its bytes count as received. -/
theorem droppedWindow_leaves :
    let t := takeWindow c w (windowAnswer c 7 w.start 2 (dropWindow w u))
    t.core.regs = u.core.regs ∧ t.homes = u.homes ∧ rxWindow t c.id start = none
      ∧ circuitOf t c.id = some { c with taken := c.taken + w.data.length }
      ∧ Answers t 7 (fun a => a.cmd = c.id ∧ a.ofs = BitVec.ofNat 32 w.start ∧ a.aux = 2) := by
  intro t
  obtain ⟨hregs, hhomes⟩ := still_dropWindow w u
  have hwindow := rxWindow_dropWindow hw
  have hcircuit := (circuitOf_dropWindow w u c.id).trans hc
  unfold t
  generalize dropWindow w u = v at hregs hhomes hwindow hcircuit
  exact ⟨hregs, hhomes, hwindow, circuitOf_updCircuit hcircuit (fun x => { x with taken := x.taken + w.data.length }),
    windowAnswer_answers c 7 w.start 2 v⟩

end turnedAway

/-- A passed window: its words checked, its buffer perhaps full; registers, homes, beats stay. -/
theorem passWindow_passes {s : State} {start : Nat} {c : Circuit} {w : RxWindow} (hc : circuitOf s c.id = some c)
    (hw : rxWindow s c.id start = some w) :
    (passWindow c w s).core.regs = s.core.regs ∧ (passWindow c w s).homes = s.homes ∧ (passWindow c w s).net.beats = s.net.beats
      ∧ rxWindow (passWindow c w s) c.id start = some { w with passed := true, counted := false }
      ∧ circuitOf (passWindow c w s) c.id = some { c with taken := c.taken + w.data.length }
      ∧ Answers (passWindow c w s) 6 (fun a => a.cmd = c.id ∧ a.ofs = BitVec.ofNat 32 w.start) := by
  obtain ⟨hid, hstart⟩ := name_of_rxWindow hw
  unfold passWindow
  extract_lets s1 _ _ _ s2 s3 s4
  have h2 : KeptByEngines s s2 := ⟨rfl, rfl, rfl, fun _ => rfl⟩
  have hbeats : s2.net.beats = s.net.beats := rfl
  have hc2 : circuitOf s2 c.id = some { c with taken := c.taken + w.data.length } := circuitOf_updCircuit hc _
  have hw2 : rxWindow s2 c.id start = some { w with passed := true, counted := false } := by
    subst hstart
    rw [← hid] at hw ⊢
    exact rxWindow_updWindow_of (u := s1) hw (fun w => { w with passed := true, counted := false })
  clear_value s2
  have h3 : KeptByEngines s2 s3 ∧ s3.net = s2.net := by
    have hchk : KeptByEngines s2 (if w.counted = true then changeChk c.label (fun n => n - 1) s2 else s2)
        ∧ (if w.counted = true then changeChk c.label (fun n => n - 1) s2 else s2).net = s2.net := by
      split
      · exact ⟨kept_changeChk .., net_changeChk ..⟩
      · exact ⟨.refl s2, rfl⟩
    exact ⟨hchk.1.trans (rewound_windowPassed ..).kept, (rewound_windowPassed ..).net.trans hchk.2⟩
  clear_value s3
  have h4 : KeptByEngines s3 s4 ∧ s4.net = s3.net := by
    unfold s4
    split
    · next k _ =>
      obtain ⟨l, hl⟩ := afterPlacement_frame k.toNat true s3
      rw [hl]
      exact ⟨⟨rfl, rfl, rfl, fun _ => rfl⟩, rfl⟩
    · exact ⟨.refl s3, rfl⟩
  have hnet : s4.net = s2.net := h4.2.trans h3.2
  have hkept := h2.trans (h3.1.trans h4.1)
  clear_value s4
  obtain ⟨a, hlast, hkind, hcmd, hofs, -⟩ := windowAnswer_answers c 6 w.start 0 s4
  refine ⟨hkept.regs, hkept.homes, (congrArg (·.beats) hnet).trans hbeats, ?_, ?_, a, hlast, hkind, hcmd, hofs⟩
  · exact (congrArg (fun n => n.rx.find? (fun w => w.circuit == c.id && w.start == start)) hnet).trans hw2
  · exact (congrArg (fun n => n.circuits.find? (fun x => x.id == c.id)) hnet).trans hc2

/-! ## Cuts -/

/-- Nothing but the port and the commands in execution differs. -/
def OnlyPort (u t : State) : Prop := t = { u with core.port := t.core.port, core.eng.exec := t.core.eng.exec }

theorem OnlyPort.trans {s t u : State} (h : OnlyPort s t) (h' : OnlyPort t u) : OnlyPort s u := by
  rw [OnlyPort] at h h'
  rw [h] at h'
  exact h'

theorem OnlyPort.ite {c : Prop} [Decidable c] {s t u : State} (h : OnlyPort s t) (h' : OnlyPort s u) : OnlyPort s (if c then t else u) := by
  split
  · exact h
  · exact h'

theorem onlyPort_updExec (q : Nat) (f : Running → Running) (s : State) : OnlyPort s (updExec q f s) := by
  rw [updExec_frame]
  rfl

theorem onlyPort_freeMeterSlot (h : BitVec 3) (s : State) : OnlyPort s (freeMeterSlot h s) := rfl

/-- A cut removes the circuit; else it changes the port and the commands in execution only. -/
theorem cutCircuit_leaves {s : State} {c : Circuit} (hc : circuitOf s c.id = some c) (cause : BitVec 2) :
    OnlyPort (removeCircuit c s) (cutCircuit c.id cause s) := by
  unfold cutCircuit
  simp only [hc]
  generalize removeCircuit c s = u
  refine .ite rfl ?_
  generalize ({ handleOf u c.slot with st := 4, cause := cause, cutAt := u.core.eng.cmdId } : Handle) = x
  refine OnlyPort.trans (t := setHandle c.slot x u) rfl ?_
  generalize setHandle c.slot x u = v
  split
  · exact .ite ((onlyPort_freeMeterSlot ..).trans (.ite (onlyPort_updExec ..) rfl)) (.ite (onlyPort_updExec ..) rfl)
  · exact .ite (onlyPort_freeMeterSlot ..) rfl

theorem still_cutCircuit {s : State} {c : Circuit} (hc : circuitOf s c.id = some c) (cause : BitVec 2) :
    (cutCircuit c.id cause s).core.regs = s.core.regs ∧ (cutCircuit c.id cause s).homes = s.homes := by
  have h := cutCircuit_leaves hc cause
  have hr := keptAtCut_removeCircuit c s
  exact ⟨(congrArg (·.core.regs) h).trans hr.regs, (congrArg (·.homes) h).trans hr.homes⟩

theorem gone_cutCircuit {s : State} {c : Circuit} (hc : circuitOf s c.id = some c) (cause : BitVec 2) :
    ∀ x ∈ (cutCircuit c.id cause s).net.circuits, x.id ≠ c.id := by
  intro x hx
  have h := congrArg (·.net.circuits) (cutCircuit_leaves hc cause)
  have hcircuits : (cutCircuit c.id cause s).net.circuits = (removeCircuit c s).net.circuits := h
  rw [hcircuits, circuits_removeCircuit] at hx
  exact bne_iff_ne.mp (List.mem_filter.mp hx).2

theorem fresh_cutCircuit {s : State} {c : Circuit} (hc : circuitOf s c.id = some c) (hother : c.receiver ≠ s.core.id) (cause : BitVec 2) :
    (cutCircuit c.id cause s).fresh = s.fresh := by
  have h : (cutCircuit c.id cause s).fresh = (removeCircuit c s).fresh := congrArg (·.fresh) (cutCircuit_leaves hc cause)
  rw [h, removeCircuit_eq, if_neg hother]
  rfl

/-! ## The check beat -/

/-- Whether an entry of the holding buffer is of another window than a beat's. -/
def heldElsewhere (c : Circuit) (b : Beat) : Held → Bool
  | .beat x => !(x.circuit == c.id && x.window == b.window)
  | .packet _ => true

/-- What is held of a beat's window has gone. -/
def heldDropped (c : Circuit) (b : Beat) (u : State) : State :=
  { u with core.port.holding := u.core.port.holding.filter (heldElsewhere c b) }

/-- A window that a frozen core refuses: what is held of it goes, and its words are forgotten. -/
def windowForgotten (c : Circuit) (b : Beat) (u : State) : State :=
  (rxWindow u c.id (windowStart c b)).elim (heldDropped c b u) (fun w => failWindow w (heldDropped c b u))

theorem rxWindow_setHolding (l : List Held) (u : State) (id start : Nat) :
    rxWindow { u with core.port.holding := l } id start = rxWindow u id start := rfl

theorem mem_heldElsewhere (c : Circuit) (b : Beat) (h : Held) (l : List Held) :
    h ∈ l.filter (heldElsewhere c b) ↔ h ∈ l ∧ ∀ x, h = .beat x → ¬ (x.circuit = c.id ∧ x.window = b.window) := by
  rw [List.mem_filter]
  refine and_congr_right fun _ => ?_
  cases h with
  | packet id => simp [heldElsewhere]
  | beat x =>
    simpa [heldElsewhere] using imp_iff_not_or.symm

theorem windowForgotten_keeps (c : Circuit) (b : Beat) (u : State) :
    (windowForgotten c b u).core.regs = u.core.regs ∧ (windowForgotten c b u).homes = u.homes
      ∧ (windowForgotten c b u).core.port.holding = u.core.port.holding.filter (heldElsewhere c b) := by
  unfold windowForgotten
  cases rxWindow u c.id (windowStart c b) with
  | none => exact ⟨rfl, rfl, rfl⟩
  | some w =>
    exact ⟨(still_failWindow w _).1, (still_failWindow w _).2, congrArg (·.holding) (port_failWindow w (heldDropped c b u))⟩

/-- What another core answers to a window, by a free choice (log entry 13). -/
def answeredElsewhere (c : Circuit) (start : Nat) (v : State) : Nat → State
  | 0 => windowAnswer c 6 start 0 v
  | 1 => windowAnswer c 7 start 0 v
  | 2 => windowAnswer c 7 start 1 v
  | 3 => windowAnswer c 7 start 2 v
  | _ => cutCircuit c.id 3 v

theorem answeredElsewhere_keeps {c : Circuit} {v : State} (hc : circuitOf v c.id = some c) (hother : c.receiver ≠ v.core.id) (start n : Nat) :
    (answeredElsewhere c start v n).core.regs = v.core.regs ∧ (answeredElsewhere c start v n).homes = v.homes
      ∧ (answeredElsewhere c start v n).fresh = v.fresh := by
  match n with
  | 0 => exact ⟨rfl, rfl, rfl⟩
  | 1 => exact ⟨rfl, rfl, rfl⟩
  | 2 => exact ⟨rfl, rfl, rfl⟩
  | 3 => exact ⟨rfl, rfl, rfl⟩
  | _ + 4 => exact ⟨(still_cutCircuit hc 3).1, (still_cutCircuit hc 3).2, fresh_cutCircuit hc hother 3⟩

section check
variable {s : State} {i : Nat} {b : Beat} {c : Circuit} {crc : DWord} (hb : s.net.beats[i]? = some b)
  (hc : circuitOf s b.circuit = some c) (hfirst : firstBeat s i b = true) (hcheck : b.check = some crc)
include hb hc hfirst hcheck

theorem execWindowCheck_other (hother : c.receiver ≠ s.core.id) :
    exec (.windowCheck i) s
      = .next (answeredElsewhere c b.window (freeAnswer 5 (beatTaken c i s)).1 (freeAnswer 5 (beatTaken c i s)).2) := by
  have hother' : c.receiver ≠ (beatTaken c i s).core.id := by rw [core_beatTaken]; exact hother
  rw [exec_windowCheck]
  unfold execWindowCheck
  simp only [hb, hc, hcheck, hfirst, Bool.not_true, Bool.false_eq_true, if_false]
  rw [show circuitTraffic c { s with net.beats := s.net.beats.eraseIdx i } = beatTaken c i s from rfl, if_pos hother']
  generalize (freeAnswer 5 (beatTaken c i s)).2 = n
  match n with
  | 0 => rfl
  | 1 => rfl
  | 2 => rfl
  | 3 => rfl
  | _ + 4 => rfl

section own
variable (hown : c.receiver = s.core.id)
include hown

theorem execWindowCheck_own (hrun : s.core.seq.run = .running) :
    exec (.windowCheck i) s = .next (checkWindow c b crc (beatTaken c i s)) := by
  have hown' : ¬ c.receiver ≠ (beatTaken c i s).core.id := by rw [core_beatTaken]; exact not_not_intro hown
  have hfrozen : frozenAt (beatTaken c i s) c = false := frozenAt_running (by rw [core_beatTaken]; exact hrun) c
  rw [exec_windowCheck]
  unfold execWindowCheck
  simp only [hb, hc, hcheck, hfirst, Bool.not_true, Bool.false_eq_true, if_false]
  rw [show circuitTraffic c { s with net.beats := s.net.beats.eraseIdx i } = beatTaken c i s from rfl, if_neg hown', hfrozen]
  rfl

/-- At a frozen core a check waits behind the data that is held, in a window that is not refused. -/
theorem execWindowCheck_held {r : Bool} (hrun : s.core.seq.run = .halted r) (hroom : holdingRoom s (.beat b) = true)
    (hopen : ∀ w, rxWindow s c.id (windowStart c b) = some w → w.refused = false) :
    exec (.windowCheck i) s
      = .next { beatTaken c i s with core.port.holding := (beatTaken c i s).core.port.holding ++ [.beat b] } := by
  have hown' : ¬ c.receiver ≠ (beatTaken c i s).core.id := by rw [core_beatTaken]; exact not_not_intro hown
  have hfrozen : frozenAt (beatTaken c i s) c = true := frozenAt_halted (by rw [core_beatTaken]; exact hrun) (by rw [core_beatTaken]; exact hown)
  rw [exec_windowCheck]
  unfold execWindowCheck
  simp only [hb, hc, hcheck, hfirst, Bool.not_true, Bool.false_eq_true, if_false]
  rw [show circuitTraffic c { s with net.beats := s.net.beats.eraseIdx i } = beatTaken c i s from rfl, if_neg hown', hfrozen,
    holdingRoom_beatTaken, hroom, rxWindow_beatTaken]
  cases hw : rxWindow s c.id (windowStart c b) with
  | none => rfl
  | some w =>
    simp only [hopen w hw]
    rfl

/-- A refused window at a frozen core gives up what is held of it, and its sender is told. -/
theorem execWindowCheck_refuses {r : Bool} (hrun : s.core.seq.run = .halted r)
    (hrefused : holdingRoom s (.beat b) = false ∨ ∃ w, rxWindow s c.id (windowStart c b) = some w ∧ w.refused = true) :
    exec (.windowCheck i) s = .next (windowAnswer c 7 (windowStart c b) 1 (windowForgotten c b (beatTaken c i s))) := by
  have hown' : ¬ c.receiver ≠ (beatTaken c i s).core.id := by rw [core_beatTaken]; exact not_not_intro hown
  have hfrozen : frozenAt (beatTaken c i s) c = true := frozenAt_halted (by rw [core_beatTaken]; exact hrun) (by rw [core_beatTaken]; exact hown)
  rw [exec_windowCheck]
  unfold execWindowCheck
  simp only [hb, hc, hcheck, hfirst, Bool.not_true, Bool.false_eq_true, if_false]
  rw [show circuitTraffic c { s with net.beats := s.net.beats.eraseIdx i } = beatTaken c i s from rfl, if_neg hown', hfrozen,
    holdingRoom_beatTaken, windowForgotten]
  simp only [rxWindow_setHolding, rxWindow_beatTaken]
  cases hw : rxWindow s c.id (windowStart c b) with
  | none =>
    have hfull : holdingRoom s (.beat b) = false := hrefused.resolve_right (by rintro ⟨w, h, -⟩; exact nomatch hw.symm.trans h)
    simp only [hfull]
    rfl
  | some w =>
    have hgives : (w.refused || !holdingRoom s (.beat b)) = true := by
      rcases hrefused with h | ⟨w', h, hr⟩
      · rw [h, Bool.not_false, Bool.or_true]
      · rw [Option.some.inj (hw.symm.trans h), hr, Bool.true_or]
    simp only [hgives, if_true, Option.elim_some]
    refine congrArg (fun v => Host.Outcome.next (windowAnswer c 7 (windowStart c b) 1 (failWindow w v))) ?_
    rfl

end own
end check

/-! ## Windows checked at the modelled receiver -/

section checkWindow
variable {c : Circuit} {b : Beat} {crc : DWord} {u : State} {w : RxWindow} (hw : rxWindow u c.id (windowStart c b) = some w)
include hw

/-- A window that has passed before is acknowledged again. -/
theorem checkWindow_again {o : RxWindow} (ho : passedBefore u c (windowStart c b) = some o) (hplaced : w.placed = [])
    (hcrc : windowCrc o.start (o.data.map (fun x => x.2)) = crc) (hlen : o.data.length = w.data.length) :
    checkWindow c b crc u = takeWindow c w (windowAnswer c 6 w.start 0
      { u with net.rx := u.net.rx.filter (fun x => x != w && x != o) ++ [{ o with circuit := c.id }] }) := by
  obtain ⟨-, hstart⟩ := name_of_rxWindow hw
  unfold checkWindow
  simp only [hw, hstart, ho, Option.bind_some, hcrc, hlen, hplaced, and_self, if_true]

section first
variable (hfirst : passedBefore u c (windowStart c b) = none ∨ w.placed ≠ [])
include hfirst

theorem not_passed_before : ((passedBefore u c w.start).bind (fun o =>
    if windowCrc o.start (o.data.map (fun x => x.2)) = crc ∧ o.data.length = w.data.length ∧ w.placed = [] then some o else none)) = none := by
  obtain ⟨-, hstart⟩ := name_of_rxWindow hw
  rw [hstart]
  rcases hfirst with h | h
  · rw [h]
    rfl
  · refine Option.bind_eq_none_iff.mpr fun o _ => if_neg ?_
    rintro ⟨-, -, hp⟩
    exact h hp

theorem checkWindow_outOfRange (hrange : w.range = true) :
    checkWindow c b crc u = takeWindow c w (windowAnswer c 7 w.start 2 (dropWindow w u)) := by
  unfold checkWindow
  simp only [hw, not_passed_before hw hfirst, hrange, if_true]

section inRange
variable (hrange : w.range = false)
include hrange

theorem checkWindow_refused (hrefused : w.refused = true) : checkWindow c b crc u = windowAnswer c 7 w.start 1 (failWindow w u) := by
  unfold checkWindow
  simp only [hw, not_passed_before hw hfirst, hrange, hrefused, Bool.false_eq_true, if_false, if_true]

section taken
variable (hrefused : w.refused = false)
include hrefused

theorem checkWindow_passes (hcrc : windowCrc w.start (w.data.map (fun x => x.2)) = crc) : checkWindow c b crc u = passWindow c w u := by
  unfold checkWindow
  simp only [hw, not_passed_before hw hfirst, hrange, hrefused, hcrc, Bool.false_eq_true, if_false, if_true]

theorem checkWindow_fails (hcrc : windowCrc w.start (w.data.map (fun x => x.2)) ≠ crc) :
    checkWindow c b crc u = windowAnswer c 7 w.start 0 (failWindow w u) := by
  unfold checkWindow
  simp only [hw, not_passed_before hw hfirst, hrange, hrefused, hcrc, Bool.false_eq_true, if_false]

end taken
end inRange
end first
end checkWindow

end Sys2Proof.Machine
end

section
/-! SUPPORT. The answer to a window at its sender, and the release of a circuit (R276, R341, R345, R350). -/

namespace Sys2Proof.Machine

/-- A window acknowledged leaves its circuit, and its note at the receiver. -/
def windowTaken (c : Circuit) (w : TxWindow) (u : State) : State :=
  updCircuit c.id (fun c => { c with tx := c.tx.filter (fun y => y.start != w.start) })
    { u with net.rx := u.net.rx.filter (fun x => !(x.circuit == c.id && x.start == w.start)) }

/-- A command turned away for its range has no window left in its circuit. -/
def windowsEnded (c : Circuit) (w : TxWindow) (u : State) : State :=
  updCircuit c.id (fun c => { c with tx := c.tx.filter (fun y => y.cmd != w.cmd) }) u

/-- A window still in its circuit, changed. -/
def windowChanged (c : Circuit) (w : TxWindow) (f : TxWindow → TxWindow) (u : State) : State :=
  updCircuit c.id (fun c => { c with tx := c.tx.map (fun y => if y.start = w.start then f y else y) }) u

section rangeError
variable {c : Circuit} {w : TxWindow} {y : Command} {u : State} (hy : queueHead u 5 = some y)
include hy

/-- What a window turned away for its range does to the command of the copy queue. -/
theorem rangeError_of_head : rangeError c w u = if y.id ≠ w.cmd then windowsEnded c w u
    else if (c.promoted && y.op == .sendCmd) = true then commandError 5 (windowsEnded c w u)
    else if streamsOn c.slot y = true then quietError (windowsEnded c w u) else windowsEnded c w u := by
  have hy' : queueHead (windowsEnded c w u) 5 = some y := hy
  unfold rangeError
  rw [show updCircuit c.id (fun c => { c with tx := c.tx.filter (fun y => y.cmd != w.cmd) }) u = windowsEnded c w u from rfl]
  simp only [hy']

theorem rangeError_send (h : y.id = w.cmd) (hpro : c.promoted = true) (hop : y.op = .sendCmd) :
    rangeError c w u = commandError 5 (windowsEnded c w u) := by
  rw [rangeError_of_head hy, if_neg (not_not_intro h), if_pos (by rw [hpro, hop]; rfl)]

theorem rangeError_stream (h : y.id = w.cmd) (hop : streamsOn c.slot y = true) : rangeError c w u = quietError (windowsEnded c w u) := by
  have hno : ¬ (c.promoted && y.op == .sendCmd) = true := by
    obtain ⟨hstream, -⟩ := Bool.and_eq_true_iff.mp hop
    rw [beq_iff_eq.mp hstream, Bool.and_eq_true]
    exact fun h => nomatch h.2
  rw [rangeError_of_head hy, if_neg (not_not_intro h), if_neg hno, if_pos hop]

/-- Whatever the command is, registers, homes and circuits stay. -/
theorem rangeError_keeps : (rangeError c w u).core.regs = u.core.regs ∧ (rangeError c w u).homes = u.homes
    ∧ (rangeError c w u).net = (windowsEnded c w u).net := by
  have hv : (windowsEnded c w u).core.regs = u.core.regs ∧ (windowsEnded c w u).homes = u.homes := ⟨rfl, rfl⟩
  rw [rangeError_of_head hy]
  generalize windowsEnded c w u = v at hv
  obtain ⟨hregs, hhomes⟩ := hv
  have hnet : (updExec 5 (fun r => { r with finished := true, err := true }) v).net = v.net := congrArg (·.net) (updExec_frame ..)
  split
  · exact ⟨hregs, hhomes, rfl⟩
  · split
    · exact ⟨(kept_commandError 5 v).regs.trans hregs, (kept_commandError 5 v).homes.trans hhomes, hnet⟩
    · split
      · exact ⟨(kept_quietError v).regs.trans hregs, (kept_quietError v).homes.trans hhomes, hnet⟩
      · exact ⟨hregs, hhomes, rfl⟩

end rangeError

section answer
variable {s : State} {i : Nat} {p : Packet} {c : Circuit} {w : TxWindow} (hp : s.net.packets[i]? = some p)
  (harr : nextArrived s p = true) (hc : circuitOf s p.cmd = some c) (hw : txWindow c p.ofs.toNat = some w)
include hp harr hc hw

theorem execWindowAcknowledgement_resumes (hk : p.kind = 6) (hown : c.sender = s.core.id) (hpro : c.promoted = false) :
    exec (.windowAcknowledgement i) s = .next (setHandle c.slot (resumeAfter (handleOf s c.slot) w) (windowTaken c w (dropPacket p.id s))) := by
  have hc' : circuitOf (dropPacket p.id s) p.cmd = some c := hc
  rw [exec_windowAcknowledgement]
  unfold execWindowAcknowledgement
  simp only [hp, hk, harr, hc', hw, hpro, ne_eq, not_true, Bool.not_true, Bool.false_eq_true, or_self, if_false]
  exact if_neg (not_not_intro hown)

theorem execWindowAcknowledgement_sent {y : Command} {r : Running} (hk : p.kind = 6) (hown : c.sender = s.core.id)
    (hpro : c.promoted = true) (hy : queueHead s 5 = some y) (hop : y.op = .sendCmd) (hr : execOf s 5 = some r) (hcur : r.cursor = 2) :
    exec (.windowAcknowledgement i) s = .next (finishCmd 5 (windowTaken c w (dropPacket p.id s))) := by
  have hc' : circuitOf (dropPacket p.id s) p.cmd = some c := hc
  have hy' : queueHead (windowTaken c w (dropPacket p.id s)) 5 = some y := hy
  have hr' : execOf (windowTaken c w (dropPacket p.id s)) 5 = some r := hr
  have hown' : ¬ c.sender ≠ (windowTaken c w (dropPacket p.id s)).core.id := not_not_intro hown
  rw [exec_windowAcknowledgement]
  unfold execWindowAcknowledgement
  simp only [hp, hk, harr, hc', hw, hpro, ne_eq, not_true, Bool.not_true, Bool.false_eq_true, or_self, if_false, if_true]
  rw [show updCircuit c.id (fun c => { c with tx := c.tx.filter (fun y => y.start != w.start) }) { dropPacket p.id s with
    net.rx := (dropPacket p.id s).net.rx.filter (fun x => !(x.circuit == c.id && x.start == w.start)) }
    = windowTaken c w (dropPacket p.id s) from rfl, if_neg hown', hy', hr']
  exact if_pos ⟨hop, hcur⟩

section nak
variable (hk : p.kind = 7)
include hk

theorem execWindowNak_range (haux : p.aux = 2) (hown : c.sender = s.core.id) :
    exec (.windowNak i) s = .next (rangeError c w (dropPacket p.id s)) := by
  have hc' : circuitOf (dropPacket p.id s) p.cmd = some c := hc
  have hrange : p.aux.getLsbD 1 = true := by rw [haux]; decide
  rw [exec_windowNak]
  unfold execWindowNak
  simp only [hp, hk, harr, hc', hw, hrange, ne_eq, not_true, Bool.not_true, Bool.false_eq_true, or_self, if_false, if_true]
  exact if_pos hown

theorem execWindowNak_rangeElsewhere (haux : p.aux = 2) (hother : c.sender ≠ s.core.id) :
    exec (.windowNak i) s = .next (updCircuit c.id (fun c => { c with tx := c.tx.filter (fun y => y.start != w.start) })
      (dropPacket p.id s)) := by
  have hc' : circuitOf (dropPacket p.id s) p.cmd = some c := hc
  have hrange : p.aux.getLsbD 1 = true := by rw [haux]; decide
  rw [exec_windowNak]
  unfold execWindowNak
  simp only [hp, hk, harr, hc', hw, hrange, ne_eq, not_true, Bool.not_true, Bool.false_eq_true, or_self, if_false, if_true]
  exact if_neg hother

theorem execWindowNak_refused (haux : p.aux = 1) :
    exec (.windowNak i) s = .next (windowChanged c w (fun y => { y with retryAt := some (s.now + 1000) }) (dropPacket p.id s)) := by
  have hc' : circuitOf (dropPacket p.id s) p.cmd = some c := hc
  have hrange : p.aux.getLsbD 1 = false := by rw [haux]; decide
  have hrefused : p.aux.getLsbD 0 = true := by rw [haux]; decide
  rw [exec_windowNak]
  unfold execWindowNak
  simp only [hp, hk, harr, hc', hw, hrange, hrefused, ne_eq, not_true, Bool.not_true, Bool.false_eq_true, or_self, if_false, if_true]
  rfl

section failed
variable (haux : p.aux = 0)
include haux

theorem execWindowNak_failed (hfails : w.fails < 2) :
    exec (.windowNak i) s
      = .next (windowChanged c w (fun y => { y with fails := y.fails + 1, retryAt := some s.now }) (dropPacket p.id s)) := by
  have hc' : circuitOf (dropPacket p.id s) p.cmd = some c := hc
  have hrange : p.aux.getLsbD 1 = false := by rw [haux]; decide
  have hrefused : p.aux.getLsbD 0 = false := by rw [haux]; decide
  rw [exec_windowNak]
  unfold execWindowNak
  simp only [hp, hk, harr, hc', hw, hrange, hrefused, Nat.not_le.mpr hfails, ne_eq, not_true, Bool.not_true, Bool.false_eq_true, or_self,
    if_false]
  rfl

/-- The third failed check cuts the circuit. -/
theorem execWindowNak_cuts (hfails : 2 ≤ w.fails) : exec (.windowNak i) s = .next (cutCircuit c.id 2 (dropPacket p.id s)) := by
  have hc' : circuitOf (dropPacket p.id s) p.cmd = some c := hc
  have hrange : p.aux.getLsbD 1 = false := by rw [haux]; decide
  have hrefused : p.aux.getLsbD 0 = false := by rw [haux]; decide
  rw [exec_windowNak]
  unfold execWindowNak
  simp only [hp, hk, harr, hc', hw, hrange, hrefused, hfails, ne_eq, not_true, Bool.not_true, Bool.false_eq_true, or_self, if_false, if_true]

end failed
end nak
end answer

theorem execCircuitRelease_removes {s : State} {i : Nat} {p : Packet} {c : Circuit} (hp : s.net.packets[i]? = some p) (hk : p.kind = 8)
    (harr : nextArrived s p = true) (hc : circuitOf s p.cmd = some c) :
    exec (.circuitRelease i) s = .next (removeCircuit c (dropPacket p.id s)) := by
  have hc' : circuitOf (dropPacket p.id s) p.cmd = some c := hc
  rw [exec_circuitRelease]
  unfold execCircuitRelease
  simp only [hp, hk, harr, hc', ne_eq, not_true, Bool.not_true, Bool.false_eq_true, or_self, if_false]

end Sys2Proof.Machine
end

section
/-! O59: the packet plane and the circuit plane. -/

namespace Sys2Proof.Machine

/-- Settles O59, clause by clause: flits, placements, acknowledgements, offers, meters, probes, beats and window checks, their answers, and
releases. -/
theorem mesh : Obligations.Mesh := by
  unfold Obligations.Mesh
  intro s i still answers
  refine ⟨?flits, ?placement, ?acknowledgement, ?offer, ?access, ?meter, ?probe, ?beat, ?answer, ?release⟩
  case flits =>
    intro pkg r idle
    have hidle (d : Dir) (h : idle d) : takeFlit pkg r d s = none := takeFlit_idle h
    refine ⟨fun d f rest p hd hbefore hin hcarries hp => ?_, fun hall => ⟨fun f k rest p hheads hp hmoves => ?_, fun p hheads hp => ?_⟩⟩
    · obtain ⟨t, ht, hclause⟩ := takeFlit_takes hd hin hcarries hp
      exact ⟨t, execFlitForward_takes hd (fun e he hlt => hidle e (hbefore e he hlt)) ht, hclause⟩
    · have hmove := execFlitForward_moves (fun e he => hidle e (hall e he)) hheads hp hmoves
      refine ⟨fun hlegal => ?_, fun hlegal hd => ?_, fun hlegal hd => ?_⟩
      · rw [hmove, moveFlit_drops hlegal]
      · rw [hmove, moveFlit_ejects hlegal hd]
      · exact ⟨_, hmove, moveFlit_sends hlegal hd k s⟩
    · exact execFlitForward_injects (fun e he => hidle e (hall e he)) hheads hp
  case placement =>
    intro p hp harr hk
    exact placements hp harr hk
  case acknowledgement =>
    intro p hp hk harr hans u
    refine ⟨execPlacementAcknowledgement_refused hp hk harr hans, fun c x hown hc hx => ⟨fun hres => ?_, fun hres => ?_⟩⟩
    · have hexec := execPlacementAcknowledgement_ends hp hk harr hans (by rw [hres]; decide) hown hc
      rw [if_pos hres] at hexec
      obtain ⟨l, hl⟩ := noteClasp_frame c u
      have hx' : execOf (noteClasp c u) 5 = some x := by rw [hl]; exact hx
      have hkept := kept_finishCmd 5 (noteClasp c u)
      refine ⟨_, hexec, rfl, ⟨hkept.regs.trans ?_, hkept.homes.trans ?_⟩, ?_⟩
      · rw [hl]; rfl
      · rw [hl]; rfl
      · rw [finishCmd, execOf_updExec_same (by decide), hx']; rfl
    · have hexec := execPlacementAcknowledgement_ends hp hk harr hans (by rw [hres]; decide) hown hc
      rw [if_neg (by rw [hres]; decide)] at hexec
      have hkept := kept_commandError 5 u
      refine ⟨_, hexec, rfl, ⟨hkept.regs, hkept.homes⟩, ?_, faults_commandError 5 u⟩
      rw [execOf_commandError (by decide), show execOf u 5 = some x from hx]
      rfl
  case offer =>
    intro p hp hretry hdue moved dst
    have hexec := execReoffer_packet hp hretry hdue
    exact ⟨fun h => hexec.trans (if_pos h), fun h => hexec.trans (if_neg h)⟩
  case access =>
    intro e p hi he hretry hdue hp moved dst j again
    have hexec := execReoffer_access hi he hretry hdue hp
    exact ⟨fun h => hexec.trans (if_pos h), fun h => hexec.trans (if_neg h)⟩
  case meter =>
    intro m hm key idle onward'
    have hexec := execMeterIntervalEnd_due hm
    refine ⟨fun hnow => ?_, fun hdue hslot hidle => ?_, fun hdue h => ?_, fun h c hdue hslot hstarted hsend hc => ?_⟩
    · rw [hexec, if_pos hnow]
    · rw [hexec, if_neg (Nat.not_lt.mpr hdue), endInterval_frees hslot hidle.1 hidle.2]
    · rw [hexec, if_neg (Nat.not_lt.mpr hdue), endInterval_restarts h]
      rfl
    · rw [if_neg (Nat.not_lt.mpr hdue), endInterval_releases hslot hstarted hsend hc] at hexec
      obtain ⟨-, -, hopen⟩ := ownCircuit_some hc
      obtain ⟨hst, hans, hgone⟩ := releasePromoted_releases c (onward m s) hopen
      exact ⟨_, hexec, rfl, ⟨rfl, rfl⟩, hst, hans, hgone⟩
  case probe =>
    intro p hp d blocked c made owns
    refine ⟨execProbeAction_launch hp, execProbeAction_yields hp, fun h hy hb => ?_, fun h hy hb => ?_,
      fun k h => execProbeAction_confirms hp h, execProbeAction_pathOut hp, execProbeAction_wakes hp, fun h hout hnarrow => ?_,
      execProbeAction_givesBack hp, execProbeAction_ends hp⟩
    · have hexec := execProbeAction_blocked hp h hy hb
      refine ⟨fun hb3 => ?_, fun hb2 hres => ?_, fun rest r o hb2 hres => ?_⟩
      · rw [hexec, probeBlocked_givesUp hb3]
      · rw [hexec, probeBlocked_start hb2 hres]
      · rw [hexec, probeBlocked_back hb2 hres]
        cases rest.getLast? with
        | none => rfl
        | some x => rfl
    · exact ⟨execProbeAction_arrives hp h hy hb, execProbeAction_reserves hp h hy hb⟩
    · have hexec := execProbeAction_succeeds hp h hout hnarrow
      refine ⟨fun hown hpro => ⟨fun howns => ?_, fun hnone => ?_⟩, fun hother => ?_, fun hown hpro => ?_⟩
      · rw [hexec, probeSuccess_promoted hown hpro howns]
        rfl
      · rw [hexec, probeSuccess_orphan hown hpro hnone]
        rfl
      · rw [hexec, probeSuccess_other hother]
        rfl
      · rw [hexec, probeSuccess_explicit hown hpro]
        rfl
  case beat =>
    intro b c hb hc hfirst u start mine frozen ofs
    have hcid : circuitOf s c.id = some c := by rw [id_of_circuitOf hc]; exact hc
    have hu : u = beatTaken c i s := rfl
    have hofs : ofs = beatOfs c b := rfl
    have hstart : start = windowStart c b := rfl
    clear_value u ofs start
    subst hu hofs hstart
    have hcid' : circuitOf (beatTaken c i s) c.id = some c := (circuitOf_beatTaken c i s c.id).trans hcid
    have hstill {t : State} (hregs : t.core.regs = (beatTaken c i s).core.regs) (hhomes : t.homes = (beatTaken c i s).homes) : still t :=
      ⟨hregs.trans (congrArg (·.regs) (core_beatTaken c i s)), hhomes.trans (homes_beatTaken c i s)⟩
    refine ⟨fun hcheck harmed hother => ?_, fun a hcheck hown hrun harmed hnone ha hans hfits => ?_, fun hcheck hmine harmed => ?_,
      fun hcheck hfrozen harmed => ?_, fun hcheck hfrozen => ?_, fun hcheck hother => ?_,
      fun crc w o hcheck hmine hw ho hplaced hcrc hlen => ?_, fun crc w hcheck hmine hw hbefore => ?_,
      fun crc w hcheck hmine hw hbefore hrange hrefused => ?_⟩
    · rw [execCircuitBeat_arrives hb hc hfirst hcheck harmed, if_pos hother]
    · have hexec := execCircuitBeat_arrives hb hc hfirst hcheck harmed
      rw [if_neg (not_not_intro hown), if_neg (by rw [frozenAt_running hrun]; decide)] at hexec
      obtain ⟨hframe, hbytes⟩ := placeBeat_begins (c := c) (b := b) (u := beatTaken c i s) (by rw [rxWindow_beatTaken]; exact hnone)
        (by rw [core_beatTaken]; exact ha) hfits (by rw [wordAnswer_beatTaken]; exact hans)
      rw [rx_beatTaken] at hframe
      exact ⟨_, hexec, hframe, fun x => by rw [hbytes x, poolByte_beatTaken]⟩
    · obtain ⟨hown, hrun⟩ := hmine
      have hexec := execCircuitBeat_arrives hb hc hfirst hcheck harmed
      rw [if_neg (not_not_intro hown), if_neg (by rw [frozenAt_running hrun]; decide)] at hexec
      intro seen new addr answer
      refine ⟨fun hnone => ⟨fun a ha hfits hans => ?_, fun hout => ?_⟩, fun w hw => ⟨fun a hrefused hrange ha hfits hans => ?_, fun h => ?_⟩⟩
      · rw [hexec, placeBeat_beginsWaiting (by rw [rxWindow_beatTaken]; exact hnone) (by rw [core_beatTaken]; exact ha) hfits
          (by rw [wordAnswer_beatTaken]; exact hans), withWindow, rx_beatTaken]
        rfl
      · rw [hexec, placeBeat_beginsOut (by rw [rxWindow_beatTaken]; exact hnone)
          (by intro a ha; rw [wordAnswer_beatTaken]; rw [core_beatTaken] at ha; exact hout a ha), withWindow, rx_beatTaken]
        rfl
      · obtain ⟨hframe, hwindow, hbytes⟩ := placeBeat_goesOn (c := c) (b := b) (u := beatTaken c i s)
          (by rw [rxWindow_beatTaken]; exact hw) hrefused hrange (by rw [core_beatTaken]; exact ha) hfits
          (by rw [wordAnswer_beatTaken]; exact hans)
        exact ⟨_, hexec, hframe, hwindow, fun x => by rw [hbytes x, poolByte_beatTaken]⟩
      · obtain ⟨hframe, hwindow⟩ := placeBeat_onlySees (c := c) (b := b) (u := beatTaken c i s) (by rw [rxWindow_beatTaken]; exact hw) h
        exact ⟨_, hexec, hframe, hwindow⟩
    · obtain ⟨hown, r, hrun⟩ := hfrozen
      have hexec := execCircuitBeat_arrives hb hc hfirst hcheck harmed
      rw [if_neg (not_not_intro hown), if_pos (frozenAt_halted hrun hown)] at hexec
      refine ⟨fun hroom => ?_, fun hroom => ?_⟩
      · rw [hexec, holdBeat_holds (by rw [holdingRoom_beatTaken]; exact hroom), core_beatTaken]
      · obtain ⟨hframe, w, hw, hr⟩ := holdBeat_refuses (c := c) (u := beatTaken c i s) (by rw [holdingRoom_beatTaken]; exact hroom)
        exact ⟨_, w, hexec, hframe, hw, hr⟩
    · obtain ⟨hown, r, hrun⟩ := hfrozen
      obtain ⟨crc, hcrc⟩ := Option.isSome_iff_exists.mp hcheck
      intro refused
      refine ⟨fun hopen => ?_, fun hrefused => ?_⟩
      · obtain ⟨hroom, hwindow⟩ := not_or.mp hopen
        have hholding : s.core.port.holding = (beatTaken c i s).core.port.holding := by rw [core_beatTaken]
        rw [hholding]
        exact execWindowCheck_held hb hc hfirst hcrc hown hrun (Bool.not_eq_false _ |>.mp hroom)
          (fun w hw => Bool.not_eq_true _ |>.mp fun h => hwindow ⟨w, hw, h⟩)
      · obtain ⟨hregs, hhomes, hholding⟩ := windowForgotten_keeps c b (beatTaken c i s)
        refine ⟨_, execWindowCheck_refuses hb hc hfirst hcrc hown hrun hrefused, hstill hregs hhomes, windowAnswer_answers .., fun h => ?_⟩
        rw [show (windowAnswer c 7 (windowStart c b) 1 (windowForgotten c b (beatTaken c i s))).core.port.holding
          = s.core.port.holding.filter (heldElsewhere c b) by rw [← core_beatTaken c i s]; exact hholding]
        exact mem_heldElsewhere ..
    · obtain ⟨crc, hcrc⟩ := Option.isSome_iff_exists.mp hcheck
      have hexec := execWindowCheck_other hb hc hfirst hcrc hother
      have hcv : circuitOf (freeAnswer 5 (beatTaken c i s)).1 c.id = some c := hcid'
      have hn : (freeAnswer 5 (beatTaken c i s)).2 = Config.otherAnswer s.fresh % 5 := by rw [freeAnswer, fresh_beatTaken]
      rw [hn] at hexec
      obtain ⟨hregs, hhomes, hfresh⟩ := answeredElsewhere_keeps hcv
        (show c.receiver ≠ (beatTaken c i s).core.id by rw [core_beatTaken]; exact hother) b.window (Config.otherAnswer s.fresh % 5)
      refine ⟨_, hexec, hstill hregs hhomes, hfresh.trans ?_, ?_⟩
      · exact congrArg (· + 1) (fresh_beatTaken c i s)
      · intro about
        have hanswer {t : State} {kind : BitVec 4} {aux : Word}
            (h : Answers t kind (fun a => a.cmd = c.id ∧ a.ofs = BitVec.ofNat 32 b.window ∧ a.aux = aux)) :
            answers t kind (fun a => about a ∧ a.aux = aux) := by
          obtain ⟨a, hlast, hkind, hcmd, ha, haux⟩ := h
          exact ⟨a, hlast, hkind, ⟨hcmd, ha⟩, haux⟩
        generalize Config.otherAnswer s.fresh % 5 = n
        match n with
        | 0 =>
          obtain ⟨a, hlast, hkind, hcmd, ha, -⟩ := windowAnswer_answers c 6 b.window 0 (freeAnswer 5 (beatTaken c i s)).1
          exact ⟨a, hlast, hkind, hcmd, ha⟩
        | 1 => exact hanswer (windowAnswer_answers ..)
        | 2 => exact hanswer (windowAnswer_answers ..)
        | 3 => exact hanswer (windowAnswer_answers ..)
        | _ + 4 => exact gone_cutCircuit hcv 3
    · obtain ⟨hown, hrun⟩ := hmine
      have hw' : rxWindow (beatTaken c i s) c.id (windowStart c b) = some w := by rw [rxWindow_beatTaken]; exact hw
      have hexec := execWindowCheck_own hb hc hfirst hcheck hown hrun
      rw [checkWindow_again hw' (by rw [passedBefore_beatTaken]; exact ho) hplaced hcrc hlen] at hexec
      obtain ⟨a, hlast, hkind, hcmd, ha, -⟩ := windowAnswer_answers c 6 w.start 0 { beatTaken c i s with
        net.rx := (beatTaken c i s).net.rx.filter (fun x => x != w && x != o) ++ [{ o with circuit := c.id }] }
      refine ⟨_, hexec, core_beatTaken .., ?_, ?_, a, hlast, hkind, hcmd, ha⟩
      · rw [← rx_beatTaken c i s]
        rfl
      · exact circuitOf_updCircuit hcid' (fun x => { x with taken := x.taken + w.data.length })
    · obtain ⟨hown, hrun⟩ := hmine
      have hw' : rxWindow (beatTaken c i s) c.id (windowStart c b) = some w := by rw [rxWindow_beatTaken]; exact hw
      have hbefore' : passedBefore (beatTaken c i s) c (windowStart c b) = none ∨ w.placed ≠ [] := by
        rw [passedBefore_beatTaken]; exact hbefore
      have hexec := execWindowCheck_own hb hc hfirst hcheck hown hrun
      refine ⟨fun hrange => ?_, fun hrange hrefused => ?_⟩
      · rw [checkWindow_outOfRange hw' hbefore' hrange] at hexec
        obtain ⟨hregs, hhomes, hleft⟩ := droppedWindow_leaves hcid' hw'
        exact ⟨_, hexec, hstill hregs hhomes, hleft⟩
      · rw [checkWindow_refused hw' hbefore' hrange hrefused] at hexec
        obtain ⟨hregs, hhomes, -, hleft⟩ := failedWindow_leaves hcid' hw' 1
        exact ⟨_, hexec, hstill hregs hhomes, hleft⟩
    · obtain ⟨hown, hrun⟩ := hmine
      have hw' : rxWindow (beatTaken c i s) c.id (windowStart c b) = some w := by rw [rxWindow_beatTaken]; exact hw
      have hbefore' : passedBefore (beatTaken c i s) c (windowStart c b) = none ∨ w.placed ≠ [] := by
        rw [passedBefore_beatTaken]; exact hbefore
      have hexec := execWindowCheck_own hb hc hfirst hcheck hown hrun
      intro agrees
      refine ⟨fun hcrc => ?_, fun hcrc => ?_⟩
      · rw [checkWindow_passes hw' hbefore' hrange hrefused hcrc] at hexec
        obtain ⟨hregs, hhomes, hleft⟩ := passWindow_passes hcid' hw'
        exact ⟨_, hexec, hstill hregs hhomes, hleft⟩
      · rw [checkWindow_fails hw' hbefore' hrange hrefused hcrc] at hexec
        obtain ⟨hregs, hhomes, hleft⟩ := failedWindow_leaves hcid' hw' 0
        exact ⟨_, hexec, hstill hregs hhomes, hleft⟩
  case answer =>
    intro p c w hp harr hc hw u old upd
    have hid : c.id = p.cmd := id_of_circuitOf hc
    have hcid : circuitOf u c.id = some c := by rw [hid]; exact hc
    refine ⟨fun hk hown hpro => ?_, fun y r hk hown hpro hy hop hr hcur => ?_, fun y r hk haux hown hy hr => ?_, fun hk haux hother => ?_,
      fun hk haux => ?_, fun hk haux hfails => ?_, fun hk haux hfails => ?_⟩
    · refine ⟨_, execWindowAcknowledgement_resumes hp harr hc hw hk hown hpro, ⟨rfl, rfl⟩, handleOf_setHandle_same .., ?_⟩
      rw [← hid]
      exact circuitOf_updCircuit hcid (fun c => { c with tx := c.tx.filter (fun y => y.start != w.start) })
    · have hkept := kept_finishCmd 5 (windowTaken c w u)
      refine ⟨_, execWindowAcknowledgement_sent hp harr hc hw hk hown hpro hy hop hr hcur, ⟨hkept.regs, hkept.homes⟩, ?_, ?_⟩
      · rw [finishCmd, execOf_updExec_same (by decide), show execOf (windowTaken c w u) 5 = some r from hr]
        rfl
      · have hnet : (finishCmd 5 (windowTaken c w u)).net = (windowTaken c w u).net := congrArg (·.net) (onlyExec_finishCmd ..)
        rw [circuitOf, hnet, ← hid]
        exact circuitOf_updCircuit hcid (fun c => { c with tx := c.tx.filter (fun y => y.start != w.start) })
    · have hexec := execWindowNak_range hp harr hc hw hk haux hown
      have hr' : execOf (windowsEnded c w u) 5 = some r := hr
      have hy' : queueHead (dropPacket p.id s) 5 = some y := hy
      obtain ⟨hregs, hhomes, hnet⟩ := rangeError_keeps (c := c) (w := w) hy'
      refine ⟨_, hexec, ⟨hregs, hhomes⟩, ?_, fun hcmd => ?_, fun hcmd hpro hop => ?_, fun hcmd hop => ?_⟩
      · rw [circuitOf, hnet, ← hid]
        exact circuitOf_updCircuit hcid (fun c => { c with tx := c.tx.filter (fun y => y.cmd != w.cmd) })
      · rw [rangeError_of_head hy', if_pos hcmd]
        rfl
      · rw [rangeError_send hy' hcmd hpro hop, execOf_commandError (by decide), hr']
        exact ⟨rfl, faults_commandError ..⟩
      · rw [rangeError_stream hy' hcmd hop, quietError, execOf_updExec_same (by decide), hr', updExec_frame]
        exact ⟨rfl, rfl⟩
    · exact execWindowNak_rangeElsewhere hp harr hc hw hk haux hother
    · exact execWindowNak_refused hp harr hc hw hk haux
    · exact execWindowNak_failed hp harr hc hw hk haux hfails
    · exact ⟨_, execWindowNak_cuts hp harr hc hw hk haux hfails, rfl, still_cutCircuit hcid 2, gone_cutCircuit hcid 2⟩
  case release =>
    intro p c hp hk harr hc
    have hkept := keptAtCut_removeCircuit c (dropPacket p.id s)
    have hcircuits := circuits_removeCircuit c (dropPacket p.id s)
    refine ⟨_, execCircuitRelease_removes hp hk harr hc, rfl, ⟨hkept.regs, hkept.homes⟩, fun x hx => ?_, fun x hx hid => ?_⟩
    · rw [hcircuits] at hx
      exact bne_iff_ne.mp (List.mem_filter.mp hx).2
    · rw [hcircuits]
      exact List.mem_filter.mpr ⟨hx, bne_iff_ne.mpr hid⟩

end Sys2Proof.Machine
end

section
/-! SUPPORT. Fences of the sequencer and `MARK` with nothing in the way of issue (R158, R193, R194), and what an acquire leaves (R238). -/

namespace Sys2Proof.Machine

/-! ## Acquires -/

/-- A remote-class line of a layer cache (R227). -/
def RemoteCopy (layer : BitVec 15) (l : LayerLine) : Prop :=
  l.layer = layer ∧ (l.tag = .remoteEscape ∨ ∃ h, l.tag = .remoteHall h)

/-- What an acquire of a core of the layer makes of line `k`: of a remote-class line its dirty bytes, any other as it is (R238). -/
def AcquireLeaves (layer : BitVec 15) (k l : LayerLine) : Prop :=
  (RemoteCopy layer k ∧ l = { k with valid := k.dirty }) ∨ (¬ RemoteCopy layer k ∧ l = k)

theorem mem_layers_dropRemote (s : State) (l : LayerLine) :
    l ∈ (dropRemote (fun _ => true) s).homes.layers
      ↔ l.valid ≠ 0 ∧ ∃ k ∈ s.homes.layers, AcquireLeaves (layerOf s.core.id) k l := by
  simp only [dropRemote, spoilReads, List.mem_filter, List.mem_map, bne_iff_ne, and_comm (b := l.valid ≠ 0)]
  refine and_congr_right fun _ => exists_congr fun k => and_congr_right fun _ => ?_
  rw [eq_comm]
  by_cases hlayer : k.layer = layerOf s.core.id
  · cases htag : k.tag <;> simp [AcquireLeaves, RemoteCopy, hlayer, htag]
  · cases htag : k.tag <;> simp [AcquireLeaves, RemoteCopy, hlayer, htag]

theorem dropRemote_core (hit : Nat → Bool) (s : State) : (dropRemote hit s).core = s.core := rfl

theorem dropRemote_homes (hit : Nat → Bool) (s : State) :
    (dropRemote hit s).homes = { s.homes with layers := (dropRemote hit s).homes.layers } := rfl

theorem dropRemote_health (hit : Nat → Bool) (s : State) : (dropRemote hit s).health = s.health := rfl

/-- The L1 after an acquire at a scope: from layer scope on every line keeps its dirty bytes only. -/
def acquiredL1 (scope : BitVec 3) (l1 : List L1Line) : List L1Line :=
  if 2 ≤ scope.toNat then l1.map (fun l => { l with valid := l.dirty }) else l1

/-- An acquire works on the L1, and at pod or hall scope on the remote-class lines of the layer. -/
theorem acquire_eq (scope : BitVec 3) (s : State) :
    acquire scope s = if 6 ≤ scope.toNat then dropRemote (fun _ => true) { s with core.mq.l1 := acquiredL1 scope s.core.mq.l1 }
      else { s with core.mq.l1 := acquiredL1 scope s.core.mq.l1 } := by
  unfold acquire acquiredL1
  by_cases h : 2 ≤ scope.toNat
  · simp only [if_pos h]
  · simp only [if_neg h]

theorem acquire_core (scope : BitVec 3) (s : State) :
    (acquire scope s).core = { s.core with mq := { s.core.mq with l1 := acquiredL1 scope s.core.mq.l1 } } := by
  rw [acquire_eq]
  split
  · exact dropRemote_core ..
  · rfl

theorem acquire_homes_narrow {scope : BitVec 3} (s : State) (h : scope.toNat < 6) : (acquire scope s).homes = s.homes := by
  rw [acquire_eq, if_neg (Nat.not_le.mpr h)]

theorem acquire_homes_wide {scope : BitVec 3} (s : State) (h : 6 ≤ scope.toNat) :
    (acquire scope s).homes = { s.homes with layers := (acquire scope s).homes.layers }
      ∧ ∀ l, l ∈ (acquire scope s).homes.layers ↔ l.valid ≠ 0 ∧ ∃ k ∈ s.homes.layers, AcquireLeaves (layerOf s.core.id) k l := by
  rw [acquire_eq, if_pos h]
  exact ⟨dropRemote_homes .., mem_layers_dropRemote _⟩

theorem memByte_acquire (scope : BitVec 3) (s : State) (x : Nat) : memByte (acquire scope s) x = memByte s x := by
  rw [acquire_eq]
  split
  · exact memByte_congr (congrArg (·.mem) (dropRemote_homes ..)) (congrArg (·.lostDies) (dropRemote_health ..)) x
  · rfl

/-! ## What each form answers -/

section forms
variable {s : State} {w : Word} {sc : BitVec 3} {mark : Bool}

/-- `MARK` or `FENCE.rel` waits for room in each queue that it enters. -/
theorem postFence_waits (h : mayIssue anywhere {} s = true)
    (hfull : storeQueueFull s = true ∨ (mark = true ∧ loadQueueFull s = true)) :
    postFence w mark sc s = waitOn .external (issued s) := by
  rw [postFence, gate_issue h]
  exact if_pos (Bool.or_eq_true_iff.mpr (hfull.imp id Bool.and_eq_true_iff.mpr))

/-- `MARK` or `FENCE.rel` with room in the queues it enters. -/
theorem postFence_posts (h : mayIssue anywhere {} s = true) (hstores : ¬ storeQueueFull s = true)
    (hloads : mark = true → ¬ loadQueueFull s = true) :
    postFence w mark sc s = .next (retire { issued s with core.mq := { s.core.mq with
      seq := s.core.mq.seq + 1, lastFence := s.core.mq.seq
      stores := s.core.mq.stores ++ [⟨s.core.mq.seq, if mark then .mark else .fenceRel, 0, 0, 0, fenceScope s sc⟩]
      loads := if mark then s.core.mq.loads ++ [⟨s.core.mq.seq, .mark, 0, 0, (fenceScope s sc).toNat, none, false⟩]
        else s.core.mq.loads } }) := by
  rw [postFence, gate_issue h]
  refine if_neg fun hfull => ?_
  obtain hfull | hfull := Bool.or_eq_true_iff.mp hfull
  · exact hstores hfull
  · obtain ⟨hmark, hfull⟩ := Bool.and_eq_true_iff.mp hfull
    exact hloads hmark hfull

theorem execFenceAcq_issues (h : mayIssue anywhere {} s = true) :
    exec (.fenceAcq sc) s = if resultsOut s = true then waitOn .external (issued s)
      else .next (retire (acquire (fenceScope s sc) (issued s))) := by
  rw [exec_fenceAcq, execFenceAcq, gate_issue h]
  rfl

theorem execFenceFull_waits (h : mayIssue anywhere {} s = true) (hstores : s.core.mq.stores ≠ []) :
    exec (.fenceFull sc) s = waitOn .external (issued s) := by
  rw [exec_fenceFull, execFenceFull, gate_issue h]
  exact if_pos (by simpa using hstores)

/-- `FENCE.full` whose push is done and before which nothing is out any more. -/
theorem execFenceFull_acquires {s' : State} (h : mayIssue anywhere {} s = true) (hstores : s.core.mq.stores = [])
    (hpush : releasePush (fenceScope s sc) s.core.mq.seq (issued s) = (s', .done)) (hresults : resultsOut s' = false)
    (hredo : s'.core.mq.redoOut = []) (hopen : scopeOpen s' (fenceScope s sc) s'.core.mq.seq = false) :
    exec (.fenceFull sc) s = .next (retire (acquire (fenceScope s sc) s')) := by
  rw [exec_fenceFull, execFenceFull, gate_issue h]
  have hscope : fenceScope (issued s) sc = fenceScope s sc := rfl
  simp only [hscope, issued_mq, hstores, hpush, hresults, hredo, hopen]
  rfl

end forms

/-- Settles O22: `MARK` and `FENCE.rel` are `postFence`, with and without an entry in the load queue, and an acquire is described by
the state it leaves. -/
theorem fencesAndMark : Obligations.FencesAndMark := by
  unfold Obligations.FencesAndMark
  intro s sc h scope q storesRoom loadsRoom
  refine ⟨fun hs hl => ?markPosts, fun hs => ?relPosts, fun u => ?acquires, fun hl => ?markWaits, fun hs => ?bothWait, fun hr => ?acq,
    fun hr => ?acqWaits, fun s' hs hpush hr hredo hopen => ?full, fun hs => ?fullWaits⟩
  case markPosts =>
    exact (exec_mark ..).trans (postFence_posts h (storeQueueFull_of_lt rfl hs) fun _ => loadQueueFull_of_lt rfl hl)
  case relPosts =>
    exact (exec_fenceRel ..).trans (postFence_posts h (storeQueueFull_of_lt rfl hs) fun hmark => Bool.noConfusion hmark)
  case acquires =>
    exact ⟨acquire_core .., acquire_homes_narrow u, acquire_homes_wide u, memByte_acquire scope u⟩
  case markWaits =>
    exact (exec_mark ..).trans (postFence_waits h (.inr ⟨rfl, decide_eq_true (Nat.not_lt.mp hl)⟩))
  case bothWait =>
    have hfull : storeQueueFull s = true := decide_eq_true (Nat.not_lt.mp hs)
    exact ⟨(exec_mark ..).trans (postFence_waits h (.inl hfull)), (exec_fenceRel ..).trans (postFence_waits h (.inl hfull))⟩
  case acq => rw [execFenceAcq_issues h, if_neg (by simp [hr])]
  case acqWaits => rw [execFenceAcq_issues h, if_pos hr]
  case full => exact execFenceFull_acquires h hs hpush hr hredo hopen
  case fullWaits => exact execFenceFull_waits h hs

end Sys2Proof.Machine
end

section
/-! SUPPORT. Lines as bytes and words, masks of bytes, and committed lines in memory (R225, R228). -/

namespace Sys2Proof.Machine

/-! ## A number from its digits -/

/-- The number whose `w`-bit digits are `f 0` to `f (n - 1)`. -/
def ofDigits {w : Nat} (f : Nat → BitVec w) (n : Nat) : Nat := (List.range n).foldr (fun i acc => acc * 2 ^ w + (f i).toNat) 0

theorem ofDigits_succ {w : Nat} (f : Nat → BitVec w) (n : Nat) :
    ofDigits f (n + 1) = ofDigits (fun i => f (i + 1)) n * 2 ^ w + (f 0).toNat := by
  rw [ofDigits, List.range_succ_eq_map, List.foldr_cons, List.foldr_map]
  rfl

/-- Digit `i` of the number. -/
theorem ofDigits_div_mod {w : Nat} {n : Nat} : ∀ (f : Nat → BitVec w) {i : Nat}, i < n → ofDigits f n / 2 ^ (w * i) % 2 ^ w = (f i).toNat := by
  induction n with
  | zero => intro f i hi; omega
  | succ n ih =>
    intro f i hi
    rw [ofDigits_succ]
    cases i with
    | zero => rw [Nat.mul_zero, Nat.pow_zero, Nat.div_one, Nat.mul_add_mod_self_right, Nat.mod_eq_of_lt (f 0).isLt]
    | succ i =>
      have hstep : (ofDigits (fun i => f (i + 1)) n * 2 ^ w + (f 0).toNat) / 2 ^ w = ofDigits (fun i => f (i + 1)) n := by
        rw [Nat.mul_comm, Nat.mul_add_div (Nat.two_pow_pos w), Nat.div_eq_of_lt (f 0).isLt, Nat.add_zero]
      rw [Nat.mul_succ, Nat.add_comm (w * i), Nat.pow_add, ← Nat.div_div_eq_div_mul, hstep]
      exact ih (fun i => f (i + 1)) (Nat.lt_of_succ_lt_succ hi)

/-- Digit `i` of a line of `n` digits. -/
theorem extractLsb'_ofDigits {w n i : Nat} (f : Nat → BitVec w) (hn : w * n = 1024) (hi : i < n) :
    (BitVec.ofNat 1024 (ofDigits f n)).extractLsb' (w * i) w = f i := by
  refine BitVec.eq_of_toNat_eq ?_
  have hpow : 2 ^ (w * n) = 2 ^ (w * i) * 2 ^ (w * (n - i)) := by
    rw [← Nat.pow_add, ← Nat.mul_add, Nat.add_sub_cancel' (Nat.le_of_lt hi)]
  have hdvd : 2 ^ w ∣ 2 ^ (w * (n - i)) := Nat.pow_dvd_pow 2 (Nat.le_mul_of_pos_right w (Nat.sub_pos_of_lt hi))
  rw [BitVec.extractLsb'_toNat, BitVec.toNat_ofNat, Nat.shiftRight_eq_div_pow, ← ofDigits_div_mod f hi, ← hn, hpow,
    Nat.mod_mul_right_div_self, Nat.mod_mod_of_dvd _ hdvd]

/-! ## Bytes and words of a line -/

theorem lineByte_lineOf (f : Nat → Byte) {i : Nat} (hi : i < 128) : lineByte (lineOf f) i = f i :=
  extractLsb'_ofDigits f (n := 128) (by decide) hi

theorem lineWord_lineOfWords (f : Nat → Word) {i : Nat} (hi : i < 32) : lineWord (lineOfWords f) i = f i :=
  extractLsb'_ofDigits f (n := 32) (by decide) hi

/-- Two lines of equal bytes are one. -/
theorem line_ext {x y : LineData} (h : ∀ i < 128, lineByte x i = lineByte y i) : x = y := by
  refine BitVec.eq_of_getLsbD_eq fun k hk => ?_
  have hbit := congrArg (·.getLsbD (k % 8)) (h (k / 8) (by omega))
  simpa [lineByte, Nat.mod_lt, Nat.div_add_mod] using hbit

theorem lineByte_lineMerge (old new : LineData) (m : LineMask) {i : Nat} (hi : i < 128) :
    lineByte (lineMerge old new m) i = if m.getLsbD i then lineByte new i else lineByte old i := lineByte_lineOf _ hi

/-- Bytes replaced twice. -/
theorem lineMerge_lineMerge (old d : LineData) (m m' : LineMask) :
    lineMerge (lineMerge old d m) d m' = lineMerge old d (m ||| m') := by
  refine line_ext fun i hi => ?_
  simp only [lineByte_lineMerge _ _ _ hi, BitVec.getLsbD_or]
  cases m.getLsbD i <;> cases m'.getLsbD i <;> rfl

theorem lineMerge_zero (old d : LineData) : lineMerge old d 0 = old := by
  refine line_ext fun i hi => ?_
  simp [lineByte_lineMerge _ _ _ hi]

/-! ## Masks -/

/-- A mask collected from a list. -/
theorem getLsbD_foldl_mask {α : Type} (g : α → LineMask) (k : Nat) : ∀ (l : List α) (m : LineMask),
    (l.foldl (fun m a => m ||| g a) m).getLsbD k = (m.getLsbD k || l.any (fun a => (g a).getLsbD k)) := by
  intro l
  induction l with
  | nil => simp
  | cons a l ih => intro m; rw [List.foldl_cons, ih, BitVec.getLsbD_or, List.any_cons, Bool.or_assoc]

theorem getLsbD_maskOf (o n : Nat) {k : Nat} (hk : k < 128) : (maskOf o n).getLsbD k = (decide (o ≤ k) && decide (k < o + n)) := by
  rw [maskOf, BitVec.getLsbD_ofNat, Nat.testBit_mul_two_pow, Nat.testBit_two_pow_sub_one]
  by_cases h : o ≤ k
  · simp only [hk, h, decide_true, Bool.true_and]
    rw [decide_eq_decide]
    omega
  · simp [h]

/-- The mask of a line's byte `k`. -/
theorem getLsbD_maskOf_one (o : Nat) {k : Nat} (hk : k < 128) : (maskOf o 1).getLsbD k = (o == k) := by
  rw [getLsbD_maskOf o 1 hk, ← Bool.decide_and, Bool.eq_iff_iff, decide_eq_true_eq, beq_iff_eq]
  omega

end Sys2Proof.Machine
end

section
/-! SUPPORT. Atomics of the pool and of global memory with nothing in the way of issue (R198, R199, R204). -/

namespace Sys2Proof.Machine

/-! ## The operations -/

theorem atomicNew_min {w : Nat} (x y c : BitVec w) : atomicNew 4 x y c = if x.toInt ≤ y.toInt then x else y := by
  change (if y.slt x then y else x) = _
  simp only [BitVec.slt, decide_eq_true_eq]
  split <;> rename_i h
  · rw [if_neg (Int.not_le.mpr h)]
  · rw [if_pos (Int.not_lt.mp h)]

theorem atomicNew_max {w : Nat} (x y c : BitVec w) : atomicNew 5 x y c = if x.toInt ≤ y.toInt then y else x := by
  change (if x.slt y then y else x) = _
  simp only [BitVec.slt, decide_eq_true_eq]
  rcases Int.lt_trichotomy x.toInt y.toInt with h | h | h
  · rw [if_pos h, if_pos (Int.le_of_lt h)]
  · rw [BitVec.toInt_inj.mp h]
    simp
  · rw [if_neg (Int.not_lt.mpr (Int.le_of_lt h)), if_neg (Int.not_le.mpr h)]

theorem atomicNew_minz {w : Nat} (x y c : BitVec w) : atomicNew 6 x y c = if x.toNat ≤ y.toNat then x else y := by
  change (if y.ult x then y else x) = _
  simp only [BitVec.ult, decide_eq_true_eq]
  split <;> rename_i h
  · rw [if_neg (Nat.not_le.mpr h)]
  · rw [if_pos (Nat.not_lt.mp h)]

theorem atomicNew_maxz {w : Nat} (x y c : BitVec w) : atomicNew 7 x y c = if x.toNat ≤ y.toNat then y else x := by
  change (if x.ult y then y else x) = _
  simp only [BitVec.ult, decide_eq_true_eq]
  rcases Nat.lt_trichotomy x.toNat y.toNat with h | h | h
  · rw [if_pos h, if_pos (Nat.le_of_lt h)]
  · rw [BitVec.eq_of_toNat_eq h]
    simp
  · rw [if_neg (Nat.not_lt.mpr (Nat.le_of_lt h)), if_neg (Nat.not_le.mpr h)]

/-- The new memory value, computed at the width of the form. -/
theorem atomicMem_toNat (op : BitVec 4) (dbl : Bool) (m : Nat) (y c : DWord) :
    (atomicMem op dbl (dw m) y c).toNat = (atomicNew op (BitVec.ofNat (8 * if dbl then 8 else 4) m) (y.setWidth _) (c.setWidth _)).toNat := by
  cases dbl
  · have hlow : lo32 (dw m) = BitVec.ofNat 32 m := BitVec.setWidth_ofNat_of_le (by decide) m
    have hlt := (atomicNew op (BitVec.ofNat 32 m) (lo32 y) (lo32 c)).isLt
    simp only [atomicMem, Bool.false_eq_true, if_false, hlow, BitVec.toNat_setWidth]
    exact Nat.mod_eq_of_lt (Nat.lt_trans hlt (by decide))
  · change _ = (atomicNew op (BitVec.ofNat 64 m) (y.setWidth 64) (c.setWidth 64)).toNat
    rw [BitVec.setWidth_eq, BitVec.setWidth_eq]
    rfl

/-- What an atomic returns, from the old value at the width of the form. -/
theorem atomicReturn_eq (op : BitVec 4) (dbl : Bool) (m : Nat) :
    atomicReturn op dbl (dw m) = if op = 6 ∨ op = 7 then (BitVec.ofNat (8 * if dbl then 8 else 4) m).setWidth 64
      else (BitVec.ofNat (8 * if dbl then 8 else 4) m).signExtend 64 := by
  cases dbl
  · have hlow : lo32 (dw m) = BitVec.ofNat 32 m := BitVec.setWidth_ofNat_of_le (by decide) m
    simp only [atomicReturn, Bool.false_eq_true, if_false, hlow]
    rfl
  · change dw m = if op = 6 ∨ op = 7 then (BitVec.ofNat 64 m).setWidth 64 else (BitVec.ofNat 64 m).signExtend 64
    rw [BitVec.setWidth_eq, BitVec.signExtend_eq, ite_self]

/-! ## The pool -/

section pool
variable {s : State} {i : Instr} {w : Word} {op : BitVec 4} {d a b : BitVec 5} {fa fb dbl : Bool}

/-- A pool atomic whose check passes: the result of its operation stands at `s[a]`, and what it returns is on its way to `s[d]`. -/
theorem exec_eq_of_poolAtomic (h : mayIssue anywhere ⟨[srcS a fa, srcS b fb], [.s d]⟩ s = true)
    (hcheck : poolCheck s (readS s a) (if dbl then 8 else 4) true true = none) (he : exec i s = poolAtomic w op d a b fa fb dbl s) :
    let n := if dbl then 8 else 4
    let old : BitVec (8 * n) := BitVec.ofNat _ (leNat (poolRead s (readS s a).toNat n))
    ∀ {new : BitVec (8 * n)} {back : DWord}, atomicNew op old ((readS s b).setWidth _) ((readS s d).setWidth _) = new →
      (if op = 6 ∨ op = 7 then old.setWidth 64 else old.signExtend 64) = back →
      exec i s = .next (retire (deliverLater (.scalar d back) (poolWrite (readS s a).toNat (leBytes n new.toNat) (issued s)))) := by
  intro n old new back hnew hback
  subst hnew hback
  have hcheck' : poolCheck (issued s) (readS (issued s) a) (atomicSize dbl) true true = none := hcheck
  refine he.trans ((gate_issue h).trans ?_)
  simp only [hcheck', atomicMem_toNat, atomicReturn_eq]
  rfl

end pool

/-- Settles O16: all ten instructions are `poolAtomic`, whose operation is computed at the width of the form. -/
theorem poolAtomics : Obligations.PoolAtomics := by
  unfold Obligations.PoolAtomics
  intro s d a b fa fb dbl x n h hcheck w old y cmp did didZ
  refine ⟨?add, ?and, ?or, ?xor, ?min, ?max, ?minz, ?maxz, ?swap, ?cas⟩
  case add => exact exec_eq_of_poolAtomic h hcheck (exec_pamoadd ..) rfl (if_neg (by decide))
  case and => exact exec_eq_of_poolAtomic h hcheck (exec_pamoand ..) rfl (if_neg (by decide))
  case or => exact exec_eq_of_poolAtomic h hcheck (exec_pamoor ..) rfl (if_neg (by decide))
  case xor => exact exec_eq_of_poolAtomic h hcheck (exec_pamoxor ..) rfl (if_neg (by decide))
  case min => exact exec_eq_of_poolAtomic h hcheck (exec_pamomin ..) (atomicNew_min ..) (if_neg (by decide))
  case max => exact exec_eq_of_poolAtomic h hcheck (exec_pamomax ..) (atomicNew_max ..) (if_neg (by decide))
  case minz => exact exec_eq_of_poolAtomic h hcheck (exec_pamominz ..) (atomicNew_minz ..) (if_pos (by decide))
  case maxz => exact exec_eq_of_poolAtomic h hcheck (exec_pamomaxz ..) (atomicNew_maxz ..) (if_pos (by decide))
  case swap => exact exec_eq_of_poolAtomic h hcheck (exec_pamoswap ..) rfl (if_neg (by decide))
  case cas => exact exec_eq_of_poolAtomic h hcheck (exec_pamocas ..) rfl (if_neg (by decide))

/-! ## Global memory -/

section global
variable {s s' : State} {i : Instr} {w : Word} {op : BitVec 4} {d a b : BitVec 5} {fa fb esc dbl : Bool} {pa : Nat} {c : Cause}

/-- Nothing stands in the way of a global atomic: what it reads is free, and so is `s[d]`. -/
def AtomicIssues (op : BitVec 4) (d a b : BitVec 5) (fa fb : Bool) (s : State) : Prop :=
  mayIssue anywhere ⟨[srcS a fa, srcS b fb] ++ (if op = 9 then [srcS d] else []), []⟩ s = true
    ∧ sIsEmpty s d = false ∧ regPending s (.s d) = false

theorem atomicIssues_of_dst (h : mayIssue anywhere ⟨[srcS a fa, srcS b fb], [.s d]⟩ s = true) (hop : op ≠ 9) :
    AtomicIssues op d a b fa fb s := by
  obtain ⟨hgate, huses⟩ := mayIssue_iff.mp h
  obtain ⟨hsrcs, hdsts⟩ := usesFree_iff.mp huses
  refine ⟨mayIssue_iff.mpr ⟨hgate, usesFree_iff.mpr ⟨?_, by simp⟩⟩, hdsts (.s d) (List.mem_singleton_self _)⟩
  rw [if_neg hop, List.append_nil]
  exact hsrcs

theorem atomicIssues_of_cas (h : mayIssue anywhere ⟨[srcS a fa, srcS b fb, srcS d], []⟩ s = true) : AtomicIssues 9 d a b fa fb s := by
  obtain ⟨hsrcs, -⟩ := usesFree_iff.mp (mayIssue_iff.mp h).2
  obtain ⟨-, hd⟩ := hsrcs (srcS d) (by simp)
  exact ⟨h, hd⟩

/-- A global atomic after its check: the operation at the end of the store queue, and the result that is out. -/
theorem globalAtomic_ok (h : AtomicIssues op d a b fa fb s)
    (hac : accessCheck (readS s a) (if dbl then 8 else 4) true (issued s) = (s', .ok pa))
    (hesc : esc = decide (ownClass s' (readS s a).toNat pa = 1)) (hroom : s.core.mq.stores.length < Config.memQueueDepth) :
    globalAtomic w op d a b fa fb esc dbl s = .next (retire (enqueueStore (.atomic op dbl (readS s b) (readS s d) d)
      (readS s a).toNat pa (if dbl then 8 else 4) 5 (pendResult d s'))) := by
  obtain ⟨hissue, hempty, hpend⟩ := h
  have hcore : s'.core = (issued s).core := (accessCheck_kept hac).1
  have hempty' : sIsEmpty (issued s) d = false := hempty
  have hac' : accessCheck (readS (issued s) a) (atomicSize dbl) true (issued s) = _ := hac
  have hesc' : (esc != (ownClass s' (readS (issued s) a).toNat pa == 1)) = false := bne_eq_false_iff_eq.mpr hesc
  have hpend' : ¬ (d ≠ 0 ∧ regPending s' (.s d) = true) := fun hd => by
    rw [show regPending s' (.s d) = regPending s (.s d) by rw [regPending, regPending, hcore]; rfl, hpend] at hd
    exact Bool.false_ne_true hd.2
  have hfull : ¬ storeQueueFull s' = true := storeQueueFull_of_lt (congrArg (·.mq) hcore) hroom
  have hread (r : BitVec 5) : readS s' r = readS s r := readS_congr (congrArg (·.regs.s) hcore) r
  rw [globalAtomic, gate_issue hissue]
  simp only [hempty', Bool.false_eq_true, if_false, hac', hesc', waitPending, if_neg hpend', if_neg hfull, hread]
  rfl

/-- An ESC bit that does not fit the region: an access fault. -/
theorem globalAtomic_wrongEsc (h : AtomicIssues op d a b fa fb s)
    (hac : accessCheck (readS s a) (if dbl then 8 else 4) true (issued s) = (s', .ok pa))
    (hesc : esc ≠ decide (ownClass s' (readS s a).toNat pa = 1)) :
    globalAtomic w op d a b fa fb esc dbl s = trap .access (readS s a) s' := by
  obtain ⟨hissue, hempty, -⟩ := h
  have hempty' : sIsEmpty (issued s) d = false := hempty
  have hac' : accessCheck (readS (issued s) a) (atomicSize dbl) true (issued s) = _ := hac
  have hesc' : (esc != (ownClass s' (readS (issued s) a).toNat pa == 1)) = true := bne_iff_ne.mpr hesc
  rw [globalAtomic, gate_issue hissue]
  simp only [hempty', Bool.false_eq_true, if_false, hac', hesc', if_true]
  rfl

theorem globalAtomic_fault (h : AtomicIssues op d a b fa fb s)
    (hac : accessCheck (readS s a) (if dbl then 8 else 4) true (issued s) = (s', .fault c)) :
    globalAtomic w op d a b fa fb esc dbl s = trap c (readS s a) s' := by
  obtain ⟨hissue, hempty, -⟩ := h
  have hempty' : sIsEmpty (issued s) d = false := hempty
  have hac' : accessCheck (readS (issued s) a) (atomicSize dbl) true (issued s) = _ := hac
  rw [globalAtomic, gate_issue hissue]
  simp only [hempty', Bool.false_eq_true, if_false, hac']
  rfl

/-- What a result that is out adds to the queues. -/
theorem enqueueStore_pendResult (op : StoreOp) (va pa size : Nat) (sc : BitVec 3) (d : BitVec 5) (s : State) :
    enqueueStore op va pa size sc (pendResult d s) = { s with core.mq := { s.core.mq with
      seq := s.core.mq.seq + 1
      stores := s.core.mq.stores ++ [⟨s.core.mq.seq, op, va, pa, size, sc⟩]
      results := if d = 0 then s.core.mq.results else s.core.mq.results ++ [⟨s.core.mq.seq, d, none⟩] } } := by
  unfold pendResult
  split <;> rfl

end global

/-- Settles O19: all ten instructions are `globalAtomic`. -/
theorem globalAtomics : Obligations.GlobalAtomics := by
  unfold Obligations.GlobalAtomics
  intro s d a b fa fb esc dbl va n posts
  have posts_of {op : BitVec 4} {ins : Instr} {w : Word} (he : exec ins s = globalAtomic w op d a b fa fb esc dbl s)
      (h : AtomicIssues op d a b fa fb s) : posts op ins := by
    refine ⟨fun s' pa hac hesc hroom => ⟨_, he.trans (globalAtomic_ok h hac hesc hroom), ?_⟩,
      fun s' pa hac hesc => he.trans (globalAtomic_wrongEsc h hac hesc), fun s' c hac => he.trans (globalAtomic_fault h hac)⟩
    obtain ⟨t, l, rfl⟩ := accessCheck_tlbs hac
    rw [enqueueStore_pendResult]
    exact ⟨rfl, rfl, rfl, fun _ => rfl⟩
  refine ⟨fun h => ⟨posts_of (exec_amoadd ..) (atomicIssues_of_dst h (by decide)), posts_of (exec_amoand ..) (atomicIssues_of_dst h (by decide)),
    posts_of (exec_amoor ..) (atomicIssues_of_dst h (by decide)), posts_of (exec_amoxor ..) (atomicIssues_of_dst h (by decide)),
    posts_of (exec_amomin ..) (atomicIssues_of_dst h (by decide)), posts_of (exec_amomax ..) (atomicIssues_of_dst h (by decide)),
    posts_of (exec_amominz ..) (atomicIssues_of_dst h (by decide)), posts_of (exec_amomaxz ..) (atomicIssues_of_dst h (by decide)),
    posts_of (exec_amoswap ..) (atomicIssues_of_dst h (by decide))⟩, fun h => posts_of (exec_amocas ..) (atomicIssues_of_cas h)⟩

end Sys2Proof.Machine
end

section
/-! SUPPORT. Reductions with nothing in the way of issue (R205-R208). -/

namespace Sys2Proof.Machine

theorem lineWord_redData (s : State) (b : BitVec 5) (i : Fin 32) :
    lineWord (redData s b) i = if i.val < 16 then lane (readV s b) i else lane (readV s (b + 1)) (i - 16) :=
  lineWord_lineOfWords _ i.isLt

/-- The mask of a contribution: the four bytes of every active lane of either register. -/
theorem getLsbD_redMask (s : State) (k : Fin 128) : (redMask s).getLsbD k = (topMask s).getLsbD (k / 4 % 16) := by
  have hstep : redMask s = (List.range 32).foldl (fun m i => m ||| if (topMask s).getLsbD (i % 16) then maskOf (4 * i) 4 else 0) 0 := by
    refine congrArg (fun f => (List.range 32).foldl f (0 : LineMask)) (funext fun m => funext fun i => ?_)
    split <;> simp
  have hword : ∀ i, ((if (topMask s).getLsbD (i % 16) then maskOf (4 * i) 4 else 0 : LineMask).getLsbD k = true)
      ↔ (topMask s).getLsbD (i % 16) = true ∧ i = k / 4 := by
    intro i
    split <;> rename_i h
    · simp only [getLsbD_maskOf _ _ k.isLt, ← Bool.decide_and, decide_eq_true_eq, h, true_and]
      omega
    · simp [h]
  have hzero : (0 : LineMask).getLsbD k = false := BitVec.getLsbD_zero
  rw [hstep, getLsbD_foldl_mask, hzero, Bool.false_or, Bool.eq_iff_iff]
  simp only [List.any_eq_true, List.mem_range, hword]
  constructor
  · rintro ⟨i, -, hi, rfl⟩
    exact hi
  · exact fun h => ⟨k / 4, by omega, h, rfl⟩

section forms
variable {s s' : State} {i : Instr} {w : Word} {op : RedOp} {a b : BitVec 5} {fa : Bool} {sc : BitVec 3} {grp : Byte} {pa : Nat} {c : Cause}
  {scope : State → BitVec 3} {check : State → Option (Cause × DWord)} {mkOp : State → StoreOp} {after : State → State}

theorem reduction_fault (h : mayIssue anywhere ⟨[srcS a fa, srcV b, srcV (b + 1)], []⟩ s = true)
    (hac : accessCheck (readS s a) 128 true (issued s) = (s', .fault c)) :
    reduction w a b fa scope check mkOp after s = trap c (readS s a) s' := by
  have hac' : accessCheck (readS (issued s) a) 128 true (issued s) = _ := hac
  rw [reduction, gate_issue h]
  simp only [hac']
  rfl

theorem reduction_refused {x : DWord} (h : mayIssue anywhere ⟨[srcS a fa, srcV b, srcV (b + 1)], []⟩ s = true)
    (hac : accessCheck (readS s a) 128 true (issued s) = (s', .ok pa)) (hcheck : check s' = some (c, x)) :
    reduction w a b fa scope check mkOp after s = trap c x s' := by
  have hac' : accessCheck (readS (issued s) a) 128 true (issued s) = _ := hac
  rw [reduction, gate_issue h]
  simp only [hac', hcheck]

theorem reduction_posts (h : mayIssue anywhere ⟨[srcS a fa, srcV b, srcV (b + 1)], []⟩ s = true)
    (hac : accessCheck (readS s a) 128 true (issued s) = (s', .ok pa)) (hcheck : check s' = none)
    (hroom : s.core.mq.stores.length < Config.memQueueDepth) :
    reduction w a b fa scope check mkOp after s
      = .next (retire (after (enqueueStore (mkOp s') (readS s a).toNat pa 128 (scope s') s'))) := by
  have hac' : accessCheck (readS (issued s) a) 128 true (issued s) = _ := hac
  have hmq : s'.core.mq = s.core.mq := congrArg (·.mq) (accessCheck_kept hac).1
  rw [reduction, gate_issue h]
  simp only [hac', hcheck, if_neg (storeQueueFull_of_lt hmq hroom)]
  rfl

end forms

/-- Settles O20: all eight instructions are `reduction`, with a check of the group for `REDO`. -/
theorem reductions : Obligations.Reductions := by
  unfold Obligations.Reductions
  intro s a b fa sc grp h
  refine ⟨fun s' c hac => ?_, ?_⟩
  · have red_of {w : Word} {op : RedOp} {ins : Instr} (he : exec ins s = redInstr w op a b fa sc s) : exec ins s = trap c (readS s a) s' :=
      he.trans (reduction_fault h hac)
    have redo_of {w : Word} {op : RedOp} {ins : Instr} (he : exec ins s = redoInstr w op a b fa grp s) : exec ins s = trap c (readS s a) s' :=
      he.trans (reduction_fault h hac)
    simp only [List.forall_mem_cons, List.not_mem_nil, false_imp_iff, implies_true, and_true]
    exact ⟨red_of (exec_redF32 ..), red_of (exec_redBf16 ..), red_of (exec_redI32 ..), red_of (exec_redF32max ..),
      redo_of (exec_redoF32 ..), redo_of (exec_redoBf16 ..), redo_of (exec_redoI32 ..), redo_of (exec_redoF32max ..)⟩
  intro s' pa hac hroom va kept red redo
  · have kept_of (mq : MemQ) : kept { s' with core.mq := mq } := by
      obtain ⟨t, l, rfl⟩ := accessCheck_tlbs hac
      exact ⟨rfl, fun _ => rfl, rfl⟩
    have red_of {w : Word} {op : RedOp} {ins : Instr} (he : exec ins s = redInstr w op a b fa sc s) : red op ins := by
      refine ⟨_, he.trans (reduction_posts h hac rfl hroom), kept_of _, ?_⟩
      obtain ⟨t, l, rfl⟩ := accessCheck_tlbs hac
      rfl
    have redo_of {w : Word} {op : RedOp} {ins : Instr} (he : exec ins s = redoInstr w op a b fa grp s) : redo op ins := by
      have hgroup : groupOf (ownLaunch s') grp = groupOf (ownLaunch s) grp := by
        obtain ⟨t, l, rfl⟩ := accessCheck_tlbs hac
        rfl
      have hord : s'.core.ord = s.core.ord := congrArg (·.ord) (accessCheck_kept hac).1
      dsimp only [redo]
      split
      · rename_i r hr
        split <;> rename_i hm
        · refine ⟨_, he.trans (reduction_posts h hac ?_ hroom), kept_of _, ?_⟩
          · simp only [hgroup, hr, hord, hm, if_true]
          · obtain ⟨t, l, rfl⟩ := accessCheck_tlbs hac
            rfl
        · refine he.trans (reduction_refused h hac ?_)
          simp only [hgroup, hr, hord, hm]
          rfl
      · rename_i hr
        refine he.trans (reduction_refused h hac ?_)
        simp only [hgroup, hr]
    exact ⟨lineWord_redData s b, getLsbD_redMask s, red_of (exec_redF32 ..), red_of (exec_redBf16 ..), red_of (exec_redI32 ..),
      red_of (exec_redF32max ..), redo_of (exec_redoF32 ..), redo_of (exec_redoBf16 ..), redo_of (exec_redoI32 ..),
      redo_of (exec_redoF32max ..)⟩

end Sys2Proof.Machine
end

section
/-! SUPPORT. Atomic line regions as the sequencer runs them (R210-R212, R367). -/

namespace Sys2Proof.Machine

/-! ## Accesses inside a region -/

section region
variable {s s' : State} {w : Word} {d a : BitVec 5} {idx : Option (BitVec 5)} {addr : State → DWord} {pa : Nat} {g : OpenRegion}

/-- An access lies in the line of an open region that has room for it (R211). -/
def InRegion (g : OpenRegion) (va : DWord) (size : Nat) : Prop :=
  g.accs.length < 8 ∧ g.va ≤ va.toNat ∧ va.toNat + size ≤ g.va + 128

theorem region_admits (hg : s.core.mq.region = some g) {va : DWord} {size : Nat} (hin : InRegion g va size) (srcs : List Src) :
    ¬ (regionFull s || outsideLine s srcs va size) = true := by
  obtain ⟨hroom, hlow, hhigh⟩ := hin
  simp [regionFull, outsideLine, hg, hroom, hlow, hhigh]

/-- An access outside the line, or a ninth, is barred as soon as the registers of its address hold their values. -/
theorem region_bars (hg : s.core.mq.region = some g) {va : DWord} {size : Nat} {srcs : List Src} (hfree : usesFree ⟨srcs, []⟩ s = true)
    (hout : ¬ InRegion g va size) : (regionFull s || outsideLine s srcs va size) = true := by
  have hready : srcs.all (fun x => regReady s x.reg) = true := by
    refine List.all_eq_true.mpr fun x hx => ?_
    obtain ⟨-, hempty, hpend⟩ := (usesFree_iff.mp hfree).1 x hx
    simp [regReady, hempty, hpend]
  simp only [regionFull, outsideLine, hg, hready, Bool.true_and, Bool.or_eq_true, decide_eq_true_eq]
  simp only [InRegion, not_and, Nat.not_le] at hout
  omega

theorem regionFull_of_eight (hg : s.core.mq.region = some g) (h8 : 8 ≤ g.accs.length) : regionFull s = true := by
  simp [regionFull, hg, h8]

theorem globalLoad_barred {kind : BitVec 3} (hgate : gateOpen inLine s = true)
    (hbar : (regionFull s || outsideLine s (addrSrcs a idx) (addr s) (kindSize kind)) = true) :
    globalLoad w d a idx kind addr s = illegal w s := by
  rw [globalLoad, gate_of_open hgate, if_pos hbar]

theorem globalStore_barred {width : BitVec 2} {sc : BitVec 3} (hgate : gateOpen inLine s = true)
    (hbar : (regionFull s || outsideLine s (addrSrcs a idx) (addr s) (2 ^ width.toNat)) = true) :
    globalStore w d a idx width sc addr s = illegal w s := by
  rw [globalStore, gate_of_open hgate, if_pos hbar]

/-- An access that the open region collects. -/
theorem regionAccess_collects {va : DWord} {size : Nat} {write : Bool} {acc : Nat → RegionAcc} (hg : s.core.mq.region = some g)
    (hin : InRegion g va size) (hac : accessCheck va size write (issued s) = (s', .ok pa)) :
    regionAccess w va size write acc (issued s)
      = .next (retire { s' with core.mq.region := some { g with accs := g.accs ++ [acc pa] } }) := by
  obtain ⟨-, hlow, hhigh⟩ := hin
  rw [regionAccess, issued_mq, hg]
  simp only [if_neg (show ¬ (va.toNat < g.va ∨ g.va + 128 < va.toNat + size) by omega), hac]

theorem globalLoad_collects {kind : BitVec 3} (h : mayIssue inLine ⟨addrSrcs a idx, [.s d]⟩ s = true) (hg : s.core.mq.region = some g)
    (haddr : addr (issued s) = addr s) (hin : InRegion g (addr s) (kindSize kind))
    (hac : accessCheck (addr s) (kindSize kind) false (issued s) = (s', .ok pa)) :
    globalLoad w d a idx kind addr s
      = .next (retire { s' with core.mq.region := some { g with accs := g.accs ++ [.load pa (kindSize kind) d kind] } }) := by
  obtain ⟨hgate, huses⟩ := mayIssue_iff.mp h
  rw [globalLoad, gate_of_open hgate, if_neg (region_admits hg hin _), issue_of_free huses]
  simp only [issued_mq, hg, Option.isSome_some, if_true, haddr]
  exact regionAccess_collects hg hin hac

theorem globalStore_collects {width : BitVec 2} {sc : BitVec 3} (h : mayIssue inLine ⟨addrSrcs a idx ++ [srcS d], []⟩ s = true)
    (hg : s.core.mq.region = some g) (haddr : addr (issued s) = addr s) (hin : InRegion g (addr s) (2 ^ width.toNat))
    (hac : accessCheck (addr s) (2 ^ width.toNat) true (issued s) = (s', .ok pa)) :
    globalStore w d a idx width sc addr s = .next (retire { s' with
      core.mq.region := some { g with accs := g.accs ++ [.store pa (storeBytes (2 ^ width.toNat) (readS s d))] } }) := by
  obtain ⟨hgate, huses⟩ := mayIssue_iff.mp h
  rw [globalStore, gate_of_open hgate, if_neg (region_admits hg hin _), issue_of_free huses]
  simp only [issued_mq, hg, Option.isSome_some, if_true, haddr, readS_issued]
  exact regionAccess_collects hg hin hac

end region

theorem storeBytes_getElem? {n k : Nat} (x : DWord) (h : k < n) : (storeBytes n x)[k]? = some (x.extractLsb' (8 * k) 8) := by
  have hk : k < (storeBytes n x).length := by rwa [storeBytes_length]
  rw [List.getElem?_eq_getElem hk, ← storeBytes_getD x h, List.getD_eq_getElem _ _ hk]

/-! ## `ALR` and `ALRE` -/

theorem execAlr_fault {s s' : State} {a : BitVec 5} {fa : Bool} {c : Cause}
    (h : mayIssue { inMacro := false, endWord := false } ⟨[srcS a fa], []⟩ s = true)
    (hac : accessCheck (readS s a) 128 true (issued s) = (s', .fault c)) : exec (.alr a fa) s = trap c (readS s a) s' := by
  have hac' : accessCheck (readS (issued s) a) 128 true (issued s) = _ := hac
  rw [exec_alr, execAlr, gate_issue h]
  simp only [hac']
  rfl

theorem execAlr_opens {s s' : State} {a : BitVec 5} {fa : Bool} {pa : Nat}
    (h : mayIssue { inMacro := false, endWord := false } ⟨[srcS a fa], []⟩ s = true)
    (hac : accessCheck (readS s a) 128 true (issued s) = (s', .ok pa)) :
    exec (.alr a fa) s = .next (retire { s' with core.mq.region := some ⟨s.core.seq.pc, (readS s a).toNat, pa, []⟩ }) := by
  have hac' : accessCheck (readS (issued s) a) 128 true (issued s) = _ := hac
  have hpc : s'.core.seq.pc = s.core.seq.pc := congrArg (·.seq.pc) (accessCheck_kept hac).1
  rw [exec_alr, execAlr, gate_issue h]
  simp only [hac', hpc]
  rfl

/-- An address within 56 bits that is no multiple of the access size. -/
theorem accessCheck_misaligned {va : DWord} {size : Nat} (write : Bool) (s : State) (hlow : va.toNat < 2 ^ 56) (hmod : va.toNat % size ≠ 0) :
    accessCheck va size write s = (s, .fault .alignment) := by
  rw [accessCheck, if_neg (by rw [not_not]; exact Nat.div_eq_of_lt hlow), if_pos hmod]

/-- The bytes that an access reads. -/
def RegionAcc.loaded : RegionAcc → Nat
  | .load _ k _ _ => k
  | .store _ _ => 0

/-- Whether an access is a load of a register. -/
def RegionAcc.fills (r : BitVec 5) : RegionAcc → Bool
  | .load _ _ d _ => d == r
  | .store _ _ => false

theorem regionLoadSize_eq_sum (accs : List RegionAcc) : regionLoadSize accs = (accs.map RegionAcc.loaded).sum := by
  have hacc : ∀ (l : List RegionAcc) (n : Nat),
      l.foldl (fun n a => match a with | .load _ k _ _ => n + k | .store _ _ => n) n = n + (l.map RegionAcc.loaded).sum := by
    intro l
    induction l with
    | nil => simp
    | cons x l ih =>
      intro n
      rw [List.foldl_cons, ih, List.map_cons, List.sum_cons]
      cases x with
      | load => exact Nat.add_assoc ..
      | store => simp [RegionAcc.loaded]
  exact (hacc accs 0).trans (Nat.zero_add _)

theorem markRegion_frame (accs : List RegionAcc) : ∀ s : State, ∃ e, markRegion accs s = { s with core.regs.sEmpty := e } := by
  induction accs with
  | nil => exact fun s => ⟨_, rfl⟩
  | cons x accs ih =>
    intro s
    cases x with
    | load pa n d kind =>
      obtain ⟨e, he⟩ := ih (setSEmpty d true s)
      rw [setSEmpty_frame] at he
      exact ⟨e, (congrArg (markRegion accs) (setSEmpty_frame d true s)).trans he⟩
    | store => exact ih s

/-- The destinations of a region's loads are marked empty, and no other register. -/
theorem sIsEmpty_markRegion (accs : List RegionAcc) (r : BitVec 5) : ∀ s : State,
    sIsEmpty (markRegion accs s) r = (sIsEmpty s r || (r != 0 && accs.any (RegionAcc.fills r))) := by
  induction accs with
  | nil => simp [markRegion]
  | cons x accs ih =>
    intro s
    cases x with
    | load pa n d kind =>
      change sIsEmpty (markRegion accs (setSEmpty d true s)) r = _
      rw [ih, sIsEmpty_marked, List.any_cons]
      have hd : RegionAcc.fills r (.load pa n d kind) = (r == d) := Bool.beq_comm
      rw [hd]
      cases sIsEmpty s r <;> cases (r == d) <;> cases (r != 0) <;> simp
    | store =>
      change sIsEmpty (markRegion accs s) r = _
      rw [ih, List.any_cons]
      rfl

section alre
variable {s : State} {g : OpenRegion} (h : mayIssue { inRegion := true, inMacro := false, endWord := false } {} s = true)
  (hg : s.core.mq.region = some g) (hstores : s.core.mq.stores = [])
include h hg hstores

theorem execAlre_tooMuch (hfar : isRemote s (lineNo g.pa) = true) (hmuch : 16 < regionLoadSize g.accs) :
    exec .alre s = trap .access (dw g.va) (issued s) := by
  have hfar' : isRemote (issued s) (lineNo g.pa) = true := hfar
  rw [exec_alre, execAlre, hg]
  simp only [gate_issue h, issued_mq, hstores, List.isEmpty_nil, Bool.not_true, Bool.false_eq_true, if_false,
    if_pos (And.intro hfar' hmuch)]

theorem execAlre_sends (hfits : isRemote s (lineNo g.pa) = false ∨ regionLoadSize g.accs ≤ 16) :
    exec .alre s = .next (retire (enqueueStore (.region g.accs) g.va g.pa 128 5
      (markRegion g.accs { issued s with core.mq.region := none }))) := by
  have hfits' : ¬ (isRemote (issued s) (lineNo g.pa) = true ∧ 16 < regionLoadSize g.accs) := by
    rintro ⟨hfar, hmuch⟩
    have hfar' : isRemote s (lineNo g.pa) = true := hfar
    exact hfits.elim (fun h => Bool.false_ne_true (h.symm.trans hfar')) (Nat.not_le.mpr hmuch)
  rw [exec_alre, execAlre, hg]
  simp only [gate_issue h, issued_mq, hstores, List.isEmpty_nil, Bool.not_true, Bool.false_eq_true, if_false, if_neg hfits']

omit h hg in
/-- The region as the one entry of the store queue. -/
theorem regionSent_eq {e : BitVec 32}
    (he : markRegion g.accs { issued s with core.mq.region := none } = { issued s with core.mq.region := none, core.regs.sEmpty := e }) :
    enqueueStore (.region g.accs) g.va g.pa 128 5 (markRegion g.accs { issued s with core.mq.region := none }) = { issued s with
      core.mq := { s.core.mq with
        region := none, seq := s.core.mq.seq + 1, stores := [⟨s.core.mq.seq, .region g.accs, g.va, g.pa, 128, 5⟩] }
      core.regs.sEmpty := e } := by
  have hempty : s.core.mq.stores ++ [⟨s.core.mq.seq, .region g.accs, g.va, g.pa, 128, 5⟩] = [⟨s.core.mq.seq, .region g.accs, g.va, g.pa, 128, 5⟩] := by
    rw [hstores, List.nil_append]
  rw [he, ← hempty]
  rfl

end alre

/-- Settles O21: loads and stores inside a region are `regionAccess`, which comes after the bar of the ninth access and of the line. -/
theorem lineRegions : Obligations.LineRegions := by
  unfold Obligations.LineRegions
  intro s d a x fa kind width sc off off9 n m ld st ix size fits loads stores beyond
  have size_eq (g : OpenRegion) : size g = regionLoadSize g.accs := by
    refine Eq.trans (congrArg List.sum (List.map_congr_left fun y _ => ?_)) (regionLoadSize_eq_sum g.accs).symm
    cases y <;> rfl
  have loads_of {ins : Instr} {w : Word} {idx : Option (BitVec 5)} {addr : State → DWord} (he : exec ins s = globalLoad w d a idx kind addr s)
      (haddr : addr (issued s) = addr s) (h : mayIssue inLine ⟨addrSrcs a idx, [.s d]⟩ s = true) : loads ins (addr s) :=
    fun g s' pa hg hin hac => he.trans (globalLoad_collects h hg haddr hin hac)
  have stores_of {ins : Instr} {w : Word} {idx : Option (BitVec 5)} {addr : State → DWord}
      (he : exec ins s = globalStore w d a idx width sc addr s) (haddr : addr (issued s) = addr s)
      (h : mayIssue inLine ⟨addrSrcs a idx ++ [srcS d], []⟩ s = true) : stores ins (addr s) :=
    fun g s' pa hg hin hac => ⟨_, ⟨storeBytes_length m _, fun k hk => storeBytes_getElem? _ hk⟩,
      he.trans (globalStore_collects h hg haddr hin hac)⟩
  have beyond_load {ins : Instr} {idx : Option (BitVec 5)} {addr : State → DWord}
      (he : exec ins s = globalLoad (encode ins) d a idx kind addr s) (h : mayIssue inLine ⟨addrSrcs a idx, []⟩ s = true) :
      beyond ins (addr s) n := by
    obtain ⟨hgate, huses⟩ := mayIssue_iff.mp h
    exact fun g hg hout => he.trans (globalLoad_barred hgate (region_bars hg huses hout))
  have beyond_store {ins : Instr} {idx : Option (BitVec 5)} {addr : State → DWord}
      (he : exec ins s = globalStore (encode ins) d a idx width sc addr s) (h : mayIssue inLine ⟨addrSrcs a idx, []⟩ s = true) :
      beyond ins (addr s) m := by
    obtain ⟨hgate, huses⟩ := mayIssue_iff.mp h
    exact fun g hg hout => he.trans (globalStore_barred hgate (region_bars hg huses hout))
  have gld : exec (.gld d a kind off) s = globalLoad (encode (.gld d a kind off)) d a none kind _ s := exec_gld ..
  have gldIndexed : exec (.gldIndexed d a kind x) s = globalLoad (encode (.gldIndexed d a kind x)) d a (some x) kind _ s := exec_gldIndexed ..
  have gst : exec (.gst d a width sc off9) s = globalStore (encode (.gst d a width sc off9)) d a none width sc _ s := exec_gst ..
  have gstIndexed : exec (.gstIndexed d a width sc x) s = globalStore (encode (.gstIndexed d a width sc x)) d a (some x) width sc _ s :=
    exec_gstIndexed ..
  refine ⟨fun h => ⟨fun hmod hlow => ?misaligned, fun s' c hac => execAlr_fault h hac⟩, fun s' pa h hac => execAlr_opens h hac,
    fun h => loads_of gld rfl h, fun h => loads_of gldIndexed rfl h, fun h => stores_of gst rfl h, fun h => stores_of gstIndexed rfl h,
    fun h => ⟨beyond_load gld h, beyond_store gst h⟩, fun h => ⟨beyond_load gldIndexed h, beyond_store gstIndexed h⟩,
    fun g hgate hg h8 i hi => ?ninth, fun g h hg hstores => ⟨fun hfar hmuch => ?tooMuch, fun hfits => ?sends⟩⟩
  case misaligned => exact execAlr_fault h (accessCheck_misaligned true _ hlow hmod)
  case ninth =>
    have hfull := regionFull_of_eight hg h8
    have hbar (srcs : List Src) (va : DWord) (k : Nat) : (regionFull s || outsideLine s srcs va k) = true := by rw [hfull, Bool.true_or]
    simp only [List.mem_cons, List.not_mem_nil, or_false] at hi
    rcases hi with rfl | rfl | rfl | rfl
    · exact gld.trans (globalLoad_barred hgate (hbar ..))
    · exact gst.trans (globalStore_barred hgate (hbar ..))
    · exact gldIndexed.trans (globalLoad_barred hgate (hbar ..))
    · exact gstIndexed.trans (globalStore_barred hgate (hbar ..))
  case tooMuch => exact execAlre_tooMuch h hg hstores hfar (size_eq g ▸ hmuch)
  case sends =>
    obtain ⟨e, he⟩ := markRegion_frame g.accs { issued s with core.mq.region := none }
    refine ⟨_, execAlre_sends h hg hstores (size_eq g ▸ hfits), ?_, fun r => ?_, fun r => ?_, fun y => ?_⟩
    · rw [regionSent_eq hstores he]
    · exact sIsEmpty_markRegion g.accs r _
    · exact readS_congr (by rw [regionSent_eq hstores he]; rfl) r
    · exact memByte_congr (by rw [regionSent_eq hstores he]; rfl) (by rw [regionSent_eq hstores he]; rfl) y

end Sys2Proof.Machine
end

section
/-! SUPPORT. Semaphores, groups and barriers as the sequencer runs them (R214-R218). -/

namespace Sys2Proof.Machine

/-! ## Semaphores -/

theorem semLegal_iff {s : State} {x : DWord} : semLegal s x = true ↔ x.toNat < 256 ∧ x.toNat < (ownLaunch s).sems := by
  simp [semLegal]

section semaphores
variable {s : State} {w : Word} {d a b k : BitVec 5} {fa fb : Bool} {sc : BitVec 3}

theorem execSembind_binds (h : mayIssue anywhere ⟨[srcS a fa], []⟩ s = true) (hl : semLegal s (readS s a) = true)
    (hcounts : (slotOf s k).cmp = (slotOf s k).iss) :
    exec (.sembind k a fa) s
      = .next (retire (setSlot k { slotOf s k with sem := some ((readS s a).setWidth 8) } (issued s))) := by
  have hl' : semLegal (issued s) (readS (issued s) a) = true := hl
  have hcounts' : (slotOf (issued s) k).cmp = (slotOf (issued s) k).iss := hcounts
  rw [exec_sembind, execSembind, gate_issue h]
  simp only [hl', Bool.not_true, Bool.false_eq_true, if_false]
  exact if_neg (not_not.mpr hcounts')

theorem execSembind_illegal (h : mayIssue anywhere ⟨[srcS a fa], []⟩ s = true) (hl : semLegal s (readS s a) = false) :
    exec (.sembind k a fa) s = trap .semaphore (readS s a) (issued s) := by
  have hl' : semLegal (issued s) (readS (issued s) a) = false := hl
  rw [exec_sembind, execSembind, gate_issue h]
  simp only [hl', Bool.not_false, if_true]
  rfl

theorem execSembindOff_unbinds (h : mayIssue anywhere {} s = true) (hcounts : (slotOf s k).cmp = (slotOf s k).iss) :
    exec (.sembindOff k) s = .next (retire (setSlot k { slotOf s k with sem := none } (issued s))) := by
  have hcounts' : (slotOf (issued s) k).cmp = (slotOf (issued s) k).iss := hcounts
  rw [exec_sembindOff, execSembindOff, gate_issue h]
  exact if_neg (not_not.mpr hcounts')

/-- With both registers free and a semaphore of the launch, `SEMADD` and `SEMWAIT` go on. -/
theorem semIssue_goesOn {dsts : List RegRef} {f : State → DWord → Out} (h : usesFree ⟨[srcS a fa, srcS b fb], dsts⟩ s = true)
    (hl : semLegal s (readS s a) = true) : semIssue w a b fa fb s f = f (issued s) (readS s a) := by
  obtain ⟨hsrcs, -⟩ := usesFree_iff.mp h
  have ha := hsrcs (srcS a fa) (by simp)
  have hb := hsrcs (srcS b fb) (by simp)
  have hempty : (fb && sIsEmpty s b) = false := Bool.and_eq_false_iff.mpr (.inr hb.2.1)
  have hfirst : usesFree ⟨[srcS a fa], []⟩ s = true := usesFree_iff.mpr ⟨by simpa using ha, by simp⟩
  have hb' : usesFree ⟨[srcS b fb], []⟩ s = true := usesFree_iff.mpr ⟨by simpa using hb, by simp⟩
  have hsecond : usesFree ⟨[srcS b fb], []⟩ (issued s) = true := hb'
  have hl' : semLegal (issued s) (readS (issued s) a) = true := hl
  simp only [semIssue, hempty, Bool.false_eq_true, if_false, issue_of_free hfirst, hl', Bool.not_true, issue_of_free hsecond]
  rfl

/-- A register that names no semaphore: the fault, unless `s[b]` traps as an empty source. -/
theorem semIssue_illegal {f : State → DWord → Out} (h : usesFree ⟨[srcS a fa], []⟩ s = true) (hl : semLegal s (readS s a) = false)
    (hb : fb = true → sIsEmpty s b = false) : semIssue w a b fa fb s f = trap .semaphore (readS s a) (issued s) := by
  have hempty : (fb && sIsEmpty s b) = false := by
    cases fb with
    | false => rfl
    | true => exact hb rfl
  have hl' : semLegal (issued s) (readS (issued s) a) = false := hl
  simp only [semIssue, hempty, Bool.false_eq_true, if_false, issue_of_free h, hl', Bool.not_false, if_true]
  rfl

theorem execSemadd_posts (h : mayIssue anywhere ⟨[srcS a fa, srcS b fb], [.s d]⟩ s = true) (hl : semLegal s (readS s a) = true)
    (hroom : s.core.mq.stores.length < Config.memQueueDepth) :
    exec (.semadd d a b fa fb sc) s = .next (retire (enqueueStore
      (.semAdd ((readS s a).setWidth 8) ((readS s b).setWidth 32) d) 0 0 0 (fenceScope s sc) (pendResult d (issued s)))) := by
  obtain ⟨hgate, huses⟩ := mayIssue_iff.mp h
  obtain ⟨hempty, hpend⟩ := (usesFree_iff.mp huses).2 (.s d) (List.mem_singleton_self _)
  have hempty' : sIsEmpty (issued s) d = false := hempty
  have hpend' : ¬ (d ≠ 0 ∧ regPending (issued s) (.s d) = true) := fun hd => Bool.false_ne_true (hpend.symm.trans hd.2)
  have hfull : ¬ storeQueueFull (issued s) = true := storeQueueFull_of_lt rfl hroom
  rw [exec_semadd, execSemadd, gate_of_open hgate, semIssue_goesOn huses hl]
  simp only [hempty', Bool.false_eq_true, if_false, waitPending, if_neg hpend', if_neg hfull]
  rfl

theorem execSemadd_illegal (h : mayIssue anywhere ⟨[srcS a fa], []⟩ s = true) (hl : semLegal s (readS s a) = false)
    (hb : fb = true → sIsEmpty s b = false) : exec (.semadd d a b fa fb sc) s = trap .semaphore (readS s a) (issued s) := by
  obtain ⟨hgate, huses⟩ := mayIssue_iff.mp h
  rw [exec_semadd, execSemadd, gate_of_open hgate, semIssue_illegal huses hl hb]

theorem execSemwait_illegal (h : mayIssue anywhere ⟨[srcS a fa], []⟩ s = true) (hl : semLegal s (readS s a) = false)
    (hb : fb = true → sIsEmpty s b = false) : exec (.semwait a b fa fb sc) s = trap .semaphore (readS s a) (issued s) := by
  obtain ⟨hgate, huses⟩ := mayIssue_iff.mp h
  rw [exec_semwait, execSemwait, gate_of_open hgate, semIssue_illegal huses hl hb]

/-- Whether a `SEMWAIT` that began to wait has been woken (R215). -/
def semWoken (s : State) : Bool := match s.core.seq.semCap with | some (_, _, y) => y | none => false

/-- `SEMWAIT` goes on when the semaphore has passed the value and no result is out, else it waits with what it has seen. -/
theorem execSemwait_eq (h : mayIssue anywhere ⟨[srcS a fa, srcS b fb], []⟩ s = true) (hl : semLegal s (readS s a) = true) :
    let passed := semWoken s || semPassed (semValue s s.core.launch s.core.sec ((readS s a).setWidth 8)) ((readS s b).setWidth 32)
    exec (.semwait a b fa fb sc) s = if !passed || resultsOut s
      then waitOn .external { issued s with core.seq.semCap := some ((readS s a).setWidth 8, (readS s b).setWidth 32, passed) }
      else .next (retire (acquire (fenceScope s sc) { issued s with core.seq.semCap := none })) := by
  obtain ⟨hgate, huses⟩ := mayIssue_iff.mp h
  rw [exec_semwait, execSemwait, gate_of_open hgate, semIssue_goesOn huses hl]
  rfl

end semaphores

/-! ## Groups -/

/-- Members of lower ordinal, range by range. -/
theorem groupRank_eq_sum (r : List (Nat × Nat)) (ord : Nat) : groupRank r ord = (r.map (fun y => min ord (y.2 + 1) - y.1)).sum := by
  have hstep : ∀ (l : List (Nat × Nat)) (n : Nat), l.foldl (fun n x => if ord ≤ x.1 then n else n + (min ord (x.2 + 1) - x.1)) n
      = n + (l.map (fun y => min ord (y.2 + 1) - y.1)).sum := by
    intro l
    induction l with
    | nil => simp
    | cons x l ih =>
      intro n
      rw [List.foldl_cons, ih, List.map_cons, List.sum_cons]
      split <;> omega
  exact (hstep r 0).trans (Nat.zero_add _)

theorem groupSize_eq_sum (r : List (Nat × Nat)) : groupSize r = (r.map (fun y => y.2 + 1 - y.1)).sum := by
  rw [groupSize, List.sum_eq_foldl, List.foldl_map]

theorem groupHas_eq_any (r : List (Nat × Nat)) (ord : Nat) : groupHas r ord = r.any (fun y => decide (y.1 ≤ ord ∧ ord ≤ y.2)) := by
  simp only [groupHas, Bool.decide_and]

/-- The fields of a record of two 24-bit numbers, a bit and a scope (R218). -/
theorem record_fields (x y : BitVec 24) (m : Bool) (z : BitVec 3) :
    let r : DWord := x.setWidth 64 ||| y.setWidth 64 <<< 24 ||| b64 m <<< 48 ||| z.setWidth 64 <<< 49
    r.extractLsb' 0 24 = x ∧ r.extractLsb' 24 24 = y ∧ r.getLsbD 48 = m ∧ r.extractLsb' 49 3 = z ∧ r.extractLsb' 52 12 = 0 := by
  have hm (k : Nat) : (b64 m).getLsbD k = (m && decide (k = 0)) := by
    cases m
    · simp [b64]
    · simp only [b64, if_true, Bool.true_and]
      simp [BitVec.getLsbD_one]
  have hbit (k : Nat) : (x.setWidth 64 ||| y.setWidth 64 <<< 24 ||| b64 m <<< 48 ||| z.setWidth 64 <<< 49 : DWord).getLsbD k
      = if k < 24 then x.getLsbD k else if k < 48 then y.getLsbD (k - 24) else if k = 48 then m else z.getLsbD (k - 49) := by
    simp only [BitVec.getLsbD_or, BitVec.getLsbD_shiftLeft, BitVec.getLsbD_setWidth, hm]
    have hx (h : 24 ≤ k) : x.getLsbD k = false := BitVec.getLsbD_of_ge x k h
    have hy (h : 48 ≤ k) : y.getLsbD (k - 24) = false := BitVec.getLsbD_of_ge y _ (by omega)
    have hz (h : 64 ≤ k) : z.getLsbD (k - 49) = false := BitVec.getLsbD_of_ge z _ (by omega)
    split
    · simp [show k < 64 by omega, show k < 48 by omega, show k < 49 by omega, *]
    split
    · simp [show k < 64 by omega, show k < 49 by omega, show 24 ≤ k by omega, show k - 24 < 64 by omega, *]
    split
    · subst k
      rw [hx (by decide), hy (by decide)]
      simp
    · have h48 : ¬ k - 48 = 0 := by omega
      by_cases h64 : k < 64
      · simp [h64, hx (by omega), hy (by omega), h48, show 49 ≤ k by omega, show k - 49 < 64 by omega]
      · simp [h64, hx (by omega), hz (by omega)]
  intro r
  refine ⟨BitVec.eq_of_getLsbD_eq fun k hk => ?_, BitVec.eq_of_getLsbD_eq fun k hk => ?_, ?_, BitVec.eq_of_getLsbD_eq fun k hk => ?_,
    BitVec.eq_of_getLsbD_eq fun k hk => ?_⟩
  · rw [BitVec.getLsbD_extractLsb', hbit, Nat.zero_add, if_pos hk, decide_eq_true hk, Bool.true_and]
  · rw [BitVec.getLsbD_extractLsb', hbit, if_neg (by omega), if_pos (by omega), decide_eq_true hk, Bool.true_and, Nat.add_sub_cancel_left]
  · exact hbit 48
  · rw [BitVec.getLsbD_extractLsb', hbit, if_neg (by omega), if_neg (by omega), if_neg (by omega), decide_eq_true hk, Bool.true_and,
      Nat.add_sub_cancel_left]
  · rw [BitVec.getLsbD_extractLsb', hbit, if_neg (by omega), if_neg (by omega), if_neg (by omega), BitVec.getLsbD_of_ge z _ (by omega),
      Bool.and_false]
    exact BitVec.getLsbD_zero.symm

theorem groupInfo_eq (s : State) (r : List (Nat × Nat)) :
    groupInfo s r = (BitVec.ofNat 24 (groupSize r)).setWidth 64
      ||| (if groupHas r s.core.ord.toNat then BitVec.ofNat 24 (groupRank r s.core.ord.toNat) else 0).setWidth 64 <<< 24
      ||| b64 (groupHas r s.core.ord.toNat) <<< 48 ||| (groupScope s r).setWidth 64 <<< 49 := by
  have hdw (n : Nat) : dw (n % 2 ^ 24) = (BitVec.ofNat 24 n).setWidth 64 := by
    refine BitVec.eq_of_toNat_eq ?_
    simp only [BitVec.toNat_setWidth, BitVec.toNat_ofNat]
  rw [groupInfo, hdw]
  split
  · rw [hdw]
  · rfl

/-- Two cores lie in one scope of a number (R6). -/
def SameScope (c : Nat) (p q : CoreId) : Prop :=
  (c = 1 → p = q) ∧ (c = 2 → layerOf p = layerOf q) ∧ (c = 3 → hubOf p = hubOf q)
    ∧ (c = 4 → corePkg p = corePkg q ∧ coreField p = coreField q) ∧ (c = 5 → corePkg p = corePkg q)
    ∧ (c = 6 → (corePkg p).toNat / 8 = (corePkg q).toNat / 8)

/-- The test of a scope, as `enclosingScope` makes it. -/
def sameScope (c : Nat) (p q : CoreId) : Bool :=
  match c with
  | 1 => p == q
  | 2 => layerOf p == layerOf q
  | 3 => hubOf p == hubOf q
  | 4 => corePkg p == corePkg q && coreField p == coreField q
  | 5 => corePkg p == corePkg q
  | 6 => (corePkg p).toNat / 8 == (corePkg q).toNat / 8
  | _ => true

theorem sameScope_iff {c : Nat} {p q : CoreId} : sameScope c p q = true ↔ SameScope c p q := by
  unfold sameScope SameScope
  split <;> simp_all

/-- Lying in one scope with `x` is lying in one scope with each other. -/
theorem sameScope_of_both {c : Nat} {x p q : CoreId} (hp : sameScope c p x = true) (hq : sameScope c q x = true) :
    sameScope c p q = true := by
  unfold sameScope at *
  split <;> simp_all

/-- The first of the scopes 1 to 6 that passes a test, else 7. -/
def firstScope (t : Nat → Bool) : BitVec 3 :=
  if t 1 then 1 else if t 2 then 2 else if t 3 then 3 else if t 4 then 4 else if t 5 then 5 else if t 6 then 6 else 7

theorem firstScope_passes {t : Nat → Bool} (h7 : t 7 = true) : 1 ≤ (firstScope t).toNat ∧ t (firstScope t).toNat = true := by
  unfold firstScope
  repeat' split
  all_goals exact ⟨by decide, by assumption⟩

theorem firstScope_le {t : Nat → Bool} {c : Nat} (h1 : 1 ≤ c) (h : t c = true) : (firstScope t).toNat ≤ c := by
  by_cases h7 : 7 ≤ c
  · exact Nat.le_trans (Nat.le_of_lt_succ (firstScope t).isLt) h7
  · have hc : c = 1 ∨ c = 2 ∨ c = 3 ∨ c = 4 ∨ c = 5 ∨ c = 6 := by omega
    unfold firstScope
    rcases hc with rfl | rfl | rfl | rfl | rfl | rfl
    all_goals
      simp only [h, if_true]
      repeat' split
      all_goals decide

theorem enclosingScope_cons (x : CoreId) (r : List CoreId) :
    enclosingScope (x :: r) = firstScope fun c => r.all (fun y => sameScope c y x) := rfl

theorem enclosingScope_encloses (l : List CoreId) :
    1 ≤ (enclosingScope l).toNat ∧ ∀ p ∈ l, ∀ q ∈ l, SameScope (enclosingScope l).toNat p q := by
  cases l with
  | nil => exact ⟨by decide, by simp⟩
  | cons x r =>
    obtain ⟨hlow, hall⟩ := firstScope_passes (t := fun c => r.all (fun y => sameScope c y x)) (by simp [sameScope])
    rw [enclosingScope_cons]
    generalize (firstScope fun c => r.all (fun y => sameScope c y x)).toNat = c at hlow hall
    have hx : ∀ p ∈ x :: r, sameScope c p x = true := List.forall_mem_cons.mpr
      ⟨sameScope_iff.mpr (by simp [SameScope]), List.all_eq_true.mp hall⟩
    exact ⟨hlow, fun p hp q hq => sameScope_iff.mp (sameScope_of_both (hx p hp) (hx q hq))⟩

theorem enclosingScope_le (l : List CoreId) {c : Nat} (h1 : 1 ≤ c) (h : ∀ p ∈ l, ∀ q ∈ l, SameScope c p q) :
    (enclosingScope l).toNat ≤ c := by
  cases l with
  | nil => exact h1
  | cons x r =>
    refine firstScope_le (t := fun c => r.all (fun y => sameScope c y x)) h1 (List.all_eq_true.mpr fun y hy => ?_)
    exact sameScope_iff.mpr (h y (List.mem_cons_of_mem x hy) x List.mem_cons_self)

/-! ## Barriers -/

/-- Entries of other groups are found as before. -/
theorem find_barWait_filter (l : List (Byte × BitVec 3)) (g g' : Byte) :
    (l.filter (fun b => b.1 != g)).find? (fun b => b.1 == g') = if g' = g then none else l.find? (fun b => b.1 == g') := by
  rw [List.find?_filter]
  split
  · rename_i h
    subst h
    simp
  · rename_i h
    refine congrArg (List.find? · l) (funext fun b => ?_)
    by_cases hb : b.1 = g'
    · simp [hb, h]
    · simp [hb]

theorem barPending_clearBarWait (g : Byte) (t : State) (g' : Byte) :
    barPending (clearBarWait g t) g' = if g' = g then none else barPending t g' := by
  rw [barPending, clearBarWait, find_barWait_filter]
  split <;> rfl

theorem barPending_setBarWait (g : Byte) (sc : BitVec 3) (t : State) (g' : Byte) :
    barPending (setBarWait g sc t) g' = if g' = g then some sc else barPending t g' := by
  rw [barPending, setBarWait, List.find?_cons, find_barWait_filter]
  by_cases h : g' = g
  · simp [h]
  · rw [if_neg h, if_neg h, beq_eq_false_iff_ne.mpr (Ne.symm h)]
    rfl

section barriers
variable {s : State} {sc : BitVec 3} {grp : Byte} {r : List (Nat × Nat)} {d : BitVec 5}

/-- `BAR` of a group that is not in the table, or of which the core is no member. -/
theorem execBar_noMember (h : mayIssue anywhere {} s = true)
    (hno : ∀ r, groupOf (ownLaunch s) grp = some r → groupHas r s.core.ord.toNat = false) :
    exec (.bar sc grp) s = trap .group (grp.setWidth 64) (issued s) := by
  have hlaunch : ownLaunch (issued s) = ownLaunch s := rfl
  rw [exec_bar, execBar, gate_issue h]
  cases hg : groupOf (ownLaunch s) grp with
  | none => simp only [hlaunch, hg]
  | some r => simp only [hlaunch, hg, issued_ord, hno r hg, Bool.not_false, if_true]

variable (h : mayIssue anywhere {} s = true) (hg : groupOf (ownLaunch s) grp = some r) (hm : groupHas r s.core.ord.toNat = true)
include h hg hm

/-- `BAR` of a member that has not arrived: the arrival is posted and the core waits. -/
theorem execBar_arrives (hpend : barPending s grp = none) (hroom : s.core.mq.stores.length < Config.memQueueDepth) :
    let scope := presentScope s (if sc = 0 then groupScope s r else sc)
    exec (.bar sc grp) s = waitOn .external (enqueueStore (.barArrive grp) 0 0 0 scope (setBarWait grp scope (issued s))) := by
  have hlaunch : ownLaunch (issued s) = ownLaunch s := rfl
  have hpend' : barPending (issued s) grp = none := hpend
  have hfull : ¬ storeQueueFull (issued s) = true := storeQueueFull_of_lt rfl hroom
  rw [exec_bar, execBar, gate_issue h]
  simp only [hlaunch, hg, issued_ord, hm, Bool.not_true, Bool.false_eq_true, if_false, hpend', if_neg hfull]
  rfl

/-- `BAR` of a member whose episode is complete. -/
theorem execBar_goesOn {scope : BitVec 3} (hpend : barPending s grp = some scope) (hscope : scope ≠ 0) (hsent : barSent s grp = false)
    (hopen : barOpen s grp r = true) (hout : resultsOut s = false) :
    exec (.bar sc grp) s = .next (retire (acquire scope (clearBarWait grp (issued s)))) := by
  have hlaunch : ownLaunch (issued s) = ownLaunch s := rfl
  have hpend' : barPending (issued s) grp = some scope := hpend
  have hgo : ¬ (barSent (issued s) grp || !barOpen (issued s) grp r || resultsOut (issued s)) = true := by
    rw [show barSent (issued s) grp = false from hsent, show barOpen (issued s) grp r = true from hopen,
      show resultsOut (issued s) = false from hout]
    decide
  rw [exec_bar, execBar, gate_issue h]
  simp only [hlaunch, hg, issued_ord, hm, Bool.not_true, Bool.false_eq_true, if_false, hpend', if_neg hscope, if_neg hgo]

end barriers

theorem execGrpinfo_some {s : State} {d : BitVec 5} {grp : Byte} {r : List (Nat × Nat)} (h : mayIssue anywhere ⟨[], [.s d]⟩ s = true)
    (hg : groupOf (ownLaunch s) grp = some r) :
    exec (.grpinfo d grp) s = .next (retire (deliverLater (.scalar d (groupInfo s r)) (issued s))) := by
  have hg' : groupOf (ownLaunch (issued s)) grp = some r := hg
  rw [exec_grpinfo, execGrpinfo, gate_issue h]
  simp only [hg']
  rfl

theorem execGrpinfo_none {s : State} {d : BitVec 5} {grp : Byte} (h : mayIssue anywhere ⟨[], [.s d]⟩ s = true)
    (hg : groupOf (ownLaunch s) grp = none) : exec (.grpinfo d grp) s = trap .group (grp.setWidth 64) (issued s) := by
  have hg' : groupOf (ownLaunch (issued s)) grp = none := hg
  rw [exec_grpinfo, execGrpinfo, gate_issue h]
  simp only [hg']

/-- Settles O23, instruction by instruction. -/
theorem semaphoresGroupsBarriers : Obligations.SemaphoresGroupsBarriers := by
  unfold Obligations.SemaphoresGroupsBarriers
  intro s d a b k fa fb sc grp x legal room slot
  have not_legal (hl : ¬ legal) : semLegal s x = false := Bool.eq_false_iff.mpr fun h => hl (semLegal_iff.mp h)
  refine ⟨fun h => ⟨fun hl hc => execSembind_binds h (semLegal_iff.mpr hl) hc, fun hl => execSembind_illegal h (not_legal hl)⟩,
    fun h hc => execSembindOff_unbinds h hc, fun h hl hroom => ?semadd, fun h => ?semwait,
    fun h hl hb => ⟨execSemwait_illegal h (not_legal hl) hb, execSemadd_illegal h (not_legal hl) hb⟩, fun r => ?record,
    fun h hg => execGrpinfo_none h hg, fun h r hg => execGrpinfo_some h hg, fun h r hg hm => ?bar,
    fun h hno => execBar_noMember h fun r hg => Bool.eq_false_iff.mpr (hno r hg)⟩
  case semadd => exact (execSemadd_posts h (semLegal_iff.mpr hl) hroom).trans (by rw [enqueueStore_pendResult]; rfl)
  case semwait =>
    intro c passed before
    have hwait (hl : legal) := execSemwait_eq (sc := sc) h (semLegal_iff.mpr hl)
    have hseen : (semWoken s || semPassed c ((readS s b).setWidth 32)) = (before || passed) := rfl
    refine ⟨fun hl hp hr => (hwait hl).trans (if_neg ?_), fun hl hp => (hwait hl).trans (if_pos ?_)⟩
    · rw [hseen, hr, Bool.or_false]
      cases hbefore : before <;> cases hpassed : passed <;> simp_all
    · rw [hseen]
      cases hbefore : before <;> cases hpassed : passed <;> simp_all
  case record =>
    intro ord mem info
    have hfields := record_fields (BitVec.ofNat 24 (groupSize r)) (if groupHas r ord then BitVec.ofNat 24 (groupRank r ord) else 0)
      (groupHas r ord) (groupScope s r)
    dsimp only at hfields
    rw [← groupInfo_eq, groupSize_eq_sum, groupRank_eq_sum, groupHas_eq_any] at hfields
    obtain ⟨hsize, hrank, hmem, hscope, hrest⟩ := hfields
    obtain ⟨hlow, hencloses⟩ := enclosingScope_encloses ((groupMembers s r).map (memberPlace s))
    exact ⟨hsize, hrank, hmem, hscope, hrest, hlow, hencloses, fun c h1 h => enclosingScope_le _ h1 h⟩
  case bar =>
    exact ⟨fun hpend hroom => execBar_arrives h hg hm hpend hroom,
      fun scope hpend hscope hsent hopen hout => execBar_goesOn h hg hm hpend hscope hsent hopen hout,
      fun g' t => barPending_setBarWait grp sc t g', fun g' t => barPending_clearBarWait grp t g'⟩

end Sys2Proof.Machine
end

section
/-! SUPPORT. Committed lines in memory: what a line reads as after a line or a byte has been written (R228). -/

namespace Sys2Proof.Machine

/-! ## Bytes of a line -/

/-- Byte `k` of a little-endian number. -/
theorem leNat_div_mod (bs : List Byte) (k : Nat) : leNat bs / 256 ^ k % 256 = (bs.getD k 0).toNat := by
  induction bs generalizing k with
  | nil => simp [leNat]
  | cons b r ih =>
    have hb := b.isLt
    cases k with
    | zero => rw [leNat, List.getD_cons_zero]; omega
    | succ k =>
      rw [leNat, List.getD_cons_succ, Nat.pow_succ, Nat.mul_comm (256 ^ k), ← Nat.div_div_eq_div_mul,
        show (b.toNat + 256 * leNat r) / 256 = leNat r by omega]
      exact ih k

theorem toNat_ofNat_of_lt {w x : Nat} (h : x < 2 ^ w) : (BitVec.ofNat w x).toNat = x :=
  (BitVec.toNat_ofNat x w).trans (Nat.mod_eq_of_lt h)

theorem two_pow_line : 2 ^ 1024 = 256 ^ 128 := by
  rw [show 1024 = 8 * 128 from rfl, Nat.pow_mul]

/-- Byte `k` of a line made of a list of bytes. -/
theorem lineByte_lineOfList {bs : List Byte} {k : Nat} (hlen : bs.length = 128) : lineByte (lineOfList bs) k = bs.getD k 0 := by
  have hlt : leNat bs < 2 ^ 1024 := by
    rw [two_pow_line, ← hlen]
    exact leNat_lt bs
  refine BitVec.eq_of_toNat_eq ?_
  rw [lineByte, lineOfList, BitVec.extractLsb'_toNat, toNat_ofNat_of_lt hlt, Nat.shiftRight_eq_div_pow,
    ← leNat_div_mod, Nat.pow_mul]

/-- One byte placed in a line. -/
theorem lineByte_lineAt_singleton {o : Nat} (b : Byte) (ho : o < 128) : lineByte (lineAt o [b]) o = b := by
  have hb := b.isLt
  have hlt : b.toNat * 256 ^ o < 2 ^ 1024 := by
    have h1 : b.toNat * 256 ^ o < 256 * 256 ^ o := Nat.mul_lt_mul_of_pos_right hb (Nat.pow_pos (by decide))
    have h2 : 256 * 256 ^ o ≤ 256 ^ 128 := by
      rw [← Nat.pow_succ']
      exact Nat.pow_le_pow_right (by decide) ho
    rw [two_pow_line]
    exact Nat.lt_of_lt_of_le h1 h2
  refine BitVec.eq_of_toNat_eq ?_
  rw [lineByte, lineAt, leNat, leNat, Nat.mul_zero, Nat.add_zero, BitVec.extractLsb'_toNat, toNat_ofNat_of_lt hlt,
    Nat.shiftRight_eq_div_pow, show (2 : Nat) ^ (8 * o) = 256 ^ o from Nat.pow_mul 2 8 o, Nat.mul_div_cancel _ (Nat.pow_pos (by decide)),
    Nat.mod_eq_of_lt hb]

/-! ## Where lines stand in memory -/

theorem paOff_lt (pa : Nat) : paOff pa < 2 ^ 42 := Nat.mod_lt _ (by decide)

theorem paCls_mirrorPrimary (pa : Nat) : paCls (mirrorPrimary pa) = 2 := by
  have h := paOff_lt pa
  rw [paCls, mirrorPrimary]
  omega

/-- The replica is the primary but for bit 36. -/
theorem mirrorReplica_cases (pa : Nat) :
    mirrorReplica pa = mirrorPrimary pa + 2 ^ 36 ∨ mirrorReplica pa + 2 ^ 36 = mirrorPrimary pa := by
  have hmod := Nat.xor_mod_two_pow (a := mirrorPrimary pa) (b := 2 ^ 36) (n := 36)
  have hdiv := Nat.xor_div_two_pow (a := mirrorPrimary pa) (b := 2 ^ 36) (n := 36)
  rw [Nat.mod_self, Nat.xor_zero] at hmod
  rw [Nat.div_self (by decide)] at hdiv
  rw [← mirrorReplica] at hmod hdiv
  obtain ⟨y, hy | hy⟩ := Nat.even_or_odd' (mirrorPrimary pa / 2 ^ 36)
  · have hx : mirrorPrimary pa / 2 ^ 36 ^^^ 1 = 2 * y + 1 := by
      rw [hy, Nat.xor_one_of_even (even_two_mul y)]
    omega
  · have hx : mirrorPrimary pa / 2 ^ 36 ^^^ 1 = 2 * y := by
      rw [hy, Nat.xor_one_of_odd (odd_two_mul_add_one y)]
      omega
    omega

theorem paCls_mirrorReplica (pa : Nat) : paCls (mirrorReplica pa) = 2 := by
  have h := paOff_lt pa
  have hmod := Nat.xor_mod_two_pow (a := mirrorPrimary pa) (b := 2 ^ 36) (n := 42)
  have hdiv := Nat.xor_div_two_pow (a := mirrorPrimary pa) (b := 2 ^ 36) (n := 42)
  rw [Nat.div_eq_of_lt (a := 2 ^ 36) (by decide), Nat.xor_zero] at hdiv
  rw [paCls, mirrorReplica, hdiv]
  exact paCls_mirrorPrimary pa

/-- Lines stand at multiples of their size. -/
theorem writeCells_aligned {line a : Nat} (h : a ∈ writeCells (line * 128)) : a % 128 = 0 := by
  have hprim : mirrorPrimary (line * 128) % 128 = 0 := by rw [mirrorPrimary, paOff]; omega
  rw [writeCells] at h
  split at h
  · rw [List.mem_cons, List.mem_singleton] at h
    have := mirrorReplica_cases (line * 128)
    omega
  · rw [List.mem_singleton] at h
    omega

/-- A line is read at one of the places at which it is written. -/
theorem readCell_mem_writeCells (s : State) (pa : Nat) : readCell s pa ∈ writeCells pa := by
  rw [readCell, writeCells]
  split
  · split <;> simp
  · simp

/-- An address of host memory is the only one that is read where it is written. -/
theorem readCell_eq_host {s : State} {pa x : Nat} (hx : isHostPa x = true) (h : readCell s pa = x) : pa = x := by
  have hcls : paCls x = 6 := by simpa [isHostPa] using hx
  rw [readCell] at h
  split at h
  · split at h
    · have := paCls_mirrorReplica pa
      rw [h] at this
      omega
    · have := paCls_mirrorPrimary pa
      rw [h] at this
      omega
  · exact h

theorem writeCells_host {pa : Nat} (h : isHostPa pa = true) : writeCells pa = [pa] := by
  have hcls : paCls pa = 6 := by simpa [isHostPa] using h
  rw [writeCells, if_neg (by omega)]

/-! ## Lines read and written -/

/-- A committed line depends on memory alone, and on which home dies are lost. -/
theorem memLine_congr {s t : State} (h : t.homes.mem = s.homes.mem) (hd : t.health.lostDies = s.health.lostDies) (line : Nat) :
    memLine t line = memLine s line := by
  have hcell : readCell t (line * 128) = readCell s (line * 128) := by simp [readCell, homeLost, hd]
  rw [memLine, memLine, hcell, h]

theorem lineByte_memLine (s : State) (line : Nat) {k : Nat} (hk : k < 128) :
    lineByte (memLine s line) k = cellsGet Config.memDefault s.homes.mem (readCell s (line * 128) + k) := by
  rw [memLine, lineByte_lineOfList (by rw [cellsRead, List.length_map, List.length_range]), cellsRead, List.getD_eq_getElem?_getD,
    List.getElem?_map, List.getElem?_range hk]
  rfl

/-- Bytes of memory after the same line has been written at several places. -/
theorem cellsGet_foldl_cellsWrite {bs : List Byte} (hlen : bs.length = 128) (x : Nat) : ∀ (as : List Nat) (m : List Host.Cell),
    Memory.wf m = true → (∀ a ∈ as, a % 128 = 0) →
    cellsGet Config.memDefault (as.foldl (fun m a => cellsWrite Config.memDefault m a bs) m) x
      = if x / 128 * 128 ∈ as then bs.getD (x % 128) 0 else cellsGet Config.memDefault m x := by
  intro as
  induction as with
  | nil => intro m _ _; rw [if_neg (List.not_mem_nil)]; rfl
  | cons a as ih =>
    intro m hwf ha
    have hal := ha a (List.mem_cons_self ..)
    rw [List.foldl_cons, ih _ (cellsWrite_wf bs a hwf) (fun b hb => ha b (List.mem_cons_of_mem _ hb)), cellsGet_cellsWrite bs m a x hwf,
      hlen]
    by_cases hin : x / 128 * 128 ∈ as
    · rw [if_pos hin, if_pos (List.mem_cons_of_mem _ hin)]
    · rw [if_neg hin]
      by_cases hx : x / 128 * 128 = a
      · rw [if_pos (List.mem_cons.mpr (.inl hx)), if_pos (by omega), show x - a = x % 128 by omega]
      · rw [if_neg fun h => (List.mem_cons.mp h).elim hx hin, if_neg (by omega)]

/-- Bytes of memory after a line has been written. -/
theorem cellsGet_setMemLine {s : State} (hwf : Memory.wf s.homes.mem = true) (line : Nat) (d : LineData) (x : Nat) :
    cellsGet Config.memDefault (setMemLine line d s).homes.mem x
      = if x / 128 * 128 ∈ writeCells (line * 128) then lineByte d (x % 128) else cellsGet Config.memDefault s.homes.mem x := by
  rw [setMemLine, cellsGet_foldl_cellsWrite (by rw [List.length_map, List.length_range]) x _ _ hwf (fun _ h => writeCells_aligned h),
    List.getD_eq_getElem?_getD, List.getElem?_map, List.getElem?_range (Nat.mod_lt x (by decide))]
  rfl

/-- A line written reads as what was written. -/
theorem memLine_setMemLine {s : State} (hwf : Memory.wf s.homes.mem = true) (line : Nat) (d : LineData) :
    memLine (setMemLine line d s) line = d := by
  refine line_ext fun k hk => ?_
  have hal := writeCells_aligned (readCell_mem_writeCells s (line * 128))
  rw [lineByte_memLine _ _ hk, show readCell (setMemLine line d s) (line * 128) = readCell s (line * 128) from rfl,
    cellsGet_setMemLine hwf, show (readCell s (line * 128) + k) / 128 * 128 = readCell s (line * 128) by omega,
    if_pos (readCell_mem_writeCells ..), show (readCell s (line * 128) + k) % 128 = k by omega]

/-- A line of host memory written leaves the other lines. -/
theorem memLine_setMemLine_of_ne {s : State} (hwf : Memory.wf s.homes.mem = true) {line x : Nat} (d : LineData)
    (hhost : isHostPa (line * 128) = true) (hx : x ≠ line) : memLine (setMemLine line d s) x = memLine s x := by
  refine line_ext fun k hk => ?_
  have hal := writeCells_aligned (readCell_mem_writeCells s (x * 128))
  rw [lineByte_memLine _ _ hk, lineByte_memLine _ _ hk, show readCell (setMemLine line d s) (x * 128) = readCell s (x * 128) from rfl,
    cellsGet_setMemLine hwf, show (readCell s (x * 128) + k) / 128 * 128 = readCell s (x * 128) by omega, writeCells_host hhost,
    if_neg (fun h => hx ?_)]
  have := readCell_eq_host hhost (List.mem_singleton.mp h)
  omega

/-- What a committed line makes of memory depends on nothing but memory. -/
theorem setMemLine_homes_mem_congr {s t : State} (h : t.homes.mem = s.homes.mem) (line : Nat) (d : LineData) :
    (setMemLine line d t).homes.mem = (setMemLine line d s).homes.mem := by
  simp only [setMemLine, h]

end Sys2Proof.Machine
end

section
/-! SUPPORT. The dies that a launch has touched (R27, R328) and the home traffic of a line (R354): what noting them leaves alone, and that
noting the same die again changes nothing. -/

namespace Sys2Proof.Machine

/-! ## One die -/

/-- A launch's record after it has touched a die. -/
def touchedRec (pkg : BitVec 7) (die : Nat) (l : LaunchRec) : LaunchRec :=
  { l with
    touched := if l.touched.any (fun t => t.1 == pkg) then
        l.touched.map (fun t => if t.1 = pkg then (t.1, t.2 ||| BitVec.twoPow 128 die) else t)
      else (pkg, BitVec.twoPow 128 die) :: l.touched
    podMask := if pkg.toNat / 8 = l.home.toNat / 8 then l.podMask ||| BitVec.twoPow 8 (pkg.toNat % 8) else l.podMask
    hallMask := l.hallMask ||| BitVec.twoPow 128 pkg.toNat }

/-- The modelled core's pair of mask registers after a die of the home package has been touched. -/
def touchedSys (die : Nat) (y : SysRegs) : SysRegs :=
  if die < 64 then { y with tdmaskl := y.tdmaskl ||| BitVec.twoPow 64 die }
  else { y with tdmaskh := y.tdmaskh ||| BitVec.twoPow 64 (die - 64) }

/-- Whether the modelled core's mask registers show what a launch touches in a package. -/
abbrev showsTouch (launch : Nat) (pkg : BitVec 7) (s : State) : Prop :=
  launch ≠ 0 ∧ launch = s.core.launch ∧ pkg = (if (launchOf s launch).id = 0 then corePkg s.core.id else (launchOf s launch).home)

/-- What a change of records leaves of a launch's record, seen through a part that it keeps. -/
theorem apply_launchOf_updLaunch {α : Type} (g : LaunchRec → α) {f : LaunchRec → LaunchRec} (hid : ∀ l, (f l).id = l.id)
    (hg : ∀ l, g (f l) = g l) (id k : Nat) (s : State) : g (launchOf (updLaunch id f s) k) = g (launchOf s k) := by
  by_cases hk : k = id
  · subst hk
    rw [launchOf, launchOf, updLaunch]
    dsimp only
    rw [find_map_launch k k f hid, if_pos rfl]
    cases s.sched.launches.find? (fun l => l.id == k) with
    | none => rfl
    | some l => exact hg l
  · rw [launchOf_updLaunch_other f hid s hk]

/-- A launch touches a die: its records, and the mask registers that show it. -/
theorem touch_eq (launch : Nat) (pkg : BitVec 7) (die : Nat) (s : State) :
    touch launch pkg die s = { updLaunch launch (touchedRec pkg die) s with
      core.sys := if showsTouch launch pkg s then touchedSys die s.core.sys else s.core.sys } := by
  have hid := apply_launchOf_updLaunch (·.id) (f := touchedRec pkg die) (fun _ => rfl) (fun _ => rfl) launch launch s
  have hhome := apply_launchOf_updLaunch (·.home) (f := touchedRec pkg die) (fun _ => rfl) (fun _ => rfl) launch launch s
  have hshow : showsTouch launch pkg (updLaunch launch (touchedRec pkg die) s) ↔ showsTouch launch pkg s := by
    rw [showsTouch, hid, hhome]
    rfl
  have htouch : touch launch pkg die s = if showsTouch launch pkg (updLaunch launch (touchedRec pkg die) s) then
      (if die < 64 then { updLaunch launch (touchedRec pkg die) s with core.sys.tdmaskl := s.core.sys.tdmaskl ||| BitVec.twoPow 64 die }
        else { updLaunch launch (touchedRec pkg die) s with core.sys.tdmaskh := s.core.sys.tdmaskh ||| BitVec.twoPow 64 (die - 64) })
      else updLaunch launch (touchedRec pkg die) s := rfl
  rw [htouch]
  by_cases h : showsTouch launch pkg s
  · rw [if_pos (hshow.mpr h), if_pos h, touchedSys]
    split <;> rfl
  · rw [if_neg (fun hu => h (hshow.mp hu)), if_neg h]
    rfl

/-- Parts of a launch's record that the dies it has touched have no part in. -/
theorem apply_launchOf_touch {α : Type} (g : LaunchRec → α) (hg : ∀ pkg die l, g (touchedRec pkg die l) = g l) (launch : Nat) (pkg : BitVec 7)
    (die k : Nat) (s : State) : g (launchOf (touch launch pkg die s) k) = g (launchOf s k) := by
  rw [touch_eq]
  exact apply_launchOf_updLaunch g (f := touchedRec pkg die) (fun _ => rfl) (hg pkg die) launch k s

theorem showsTouch_touch (launch : Nat) (pkg pkg' : BitVec 7) (die : Nat) (s : State) :
    showsTouch launch pkg' (touch launch pkg die s) ↔ showsTouch launch pkg' s := by
  have hid := apply_launchOf_touch (·.id) (fun _ _ _ => rfl) launch pkg die launch s
  have hhome := apply_launchOf_touch (·.home) (fun _ _ _ => rfl) launch pkg die launch s
  have hcore : (touch launch pkg die s).core.launch = s.core.launch ∧ (touch launch pkg die s).core.id = s.core.id := by
    rw [touch_eq]
    exact ⟨rfl, rfl⟩
  rw [showsTouch, hid, hhome, hcore.1, hcore.2]

/-- What a die adds to a package's mask. -/
def markDie (pkg : BitVec 7) (die : Nat) (t : BitVec 7 × BitVec 128) : BitVec 7 × BitVec 128 :=
  if t.1 = pkg then (t.1, t.2 ||| BitVec.twoPow 128 die) else t

theorem markDie_fst (pkg : BitVec 7) (die : Nat) (t : BitVec 7 × BitVec 128) : (markDie pkg die t).1 = t.1 := by
  rw [markDie]
  split <;> rfl

theorem markDie_comm (pkg : BitVec 7) (a b : Nat) (t : BitVec 7 × BitVec 128) :
    markDie pkg a (markDie pkg b t) = markDie pkg b (markDie pkg a t) := by
  by_cases h : t.1 = pkg
  · simp only [markDie, h, if_true, BitVec.or_assoc, BitVec.or_comm (BitVec.twoPow 128 b)]
  · simp only [markDie, h, if_false]

theorem markDie_idem (pkg : BitVec 7) (a : Nat) (t : BitVec 7 × BitVec 128) : markDie pkg a (markDie pkg a t) = markDie pkg a t := by
  by_cases h : t.1 = pkg
  · simp only [markDie, h, if_true, BitVec.or_assoc, BitVec.or_self]
  · simp only [markDie, h, if_false]

/-- The masks of a launch's packages after a die of one of them has been touched. -/
def markDies (pkg : BitVec 7) (die : Nat) (l : List (BitVec 7 × BitVec 128)) : List (BitVec 7 × BitVec 128) :=
  if l.any (fun t => t.1 == pkg) then l.map (markDie pkg die) else (pkg, BitVec.twoPow 128 die) :: l

/-- A second die of the package adds to the masks that are there. -/
theorem markDies_markDies (pkg : BitVec 7) (a b : Nat) (l : List (BitVec 7 × BitVec 128)) :
    markDies pkg a (markDies pkg b l) = if l.any (fun t => t.1 == pkg) then l.map (fun t => markDie pkg a (markDie pkg b t))
      else (pkg, BitVec.twoPow 128 b ||| BitVec.twoPow 128 a) :: l := by
  by_cases h : l.any (fun t => t.1 == pkg) = true
  · rw [if_pos h, markDies, markDies, if_pos h, if_pos, List.map_map]
    · rfl
    · rw [List.any_map]
      simpa only [Function.comp_def, markDie_fst] using h
  · have hno : l.map (markDie pkg a) = l := by
      refine (List.map_congr_left fun t ht => ?_).trans (List.map_id l)
      have hne : t.1 ≠ pkg := fun e => h (List.any_eq_true.mpr ⟨t, ht, beq_iff_eq.mpr e⟩)
      rw [markDie, if_neg hne, id]
    rw [if_neg h, markDies, markDies, if_neg h, if_pos (by simp), List.map_cons, hno, markDie, if_pos rfl]

theorem touchedRec_comm (pkg : BitVec 7) (a b : Nat) (l : LaunchRec) :
    touchedRec pkg a (touchedRec pkg b l) = touchedRec pkg b (touchedRec pkg a l) := by
  have hmarks : markDies pkg a (markDies pkg b l.touched) = markDies pkg b (markDies pkg a l.touched) := by
    simp only [markDies_markDies, markDie_comm pkg a b, BitVec.or_comm (BitVec.twoPow 128 a)]
  have hrec : ∀ a b, touchedRec pkg a (touchedRec pkg b l)
      = { touchedRec pkg 0 (touchedRec pkg 0 l) with touched := markDies pkg a (markDies pkg b l.touched) } := fun _ _ => rfl
  rw [hrec, hmarks, ← hrec]

theorem touchedRec_idem (pkg : BitVec 7) (a : Nat) (l : LaunchRec) : touchedRec pkg a (touchedRec pkg a l) = touchedRec pkg a l := by
  have hmarks : markDies pkg a (markDies pkg a l.touched) = markDies pkg a l.touched := by
    rw [markDies_markDies]
    simp only [markDie_idem, BitVec.or_self]
    rfl
  have hpod : (touchedRec pkg a (touchedRec pkg a l)).podMask = (touchedRec pkg a l).podMask := by
    simp only [touchedRec]
    split <;> simp only [BitVec.or_assoc, BitVec.or_self]
  have hhall : (touchedRec pkg a (touchedRec pkg a l)).hallMask = (touchedRec pkg a l).hallMask := by
    simp only [touchedRec, BitVec.or_assoc, BitVec.or_self]
  have hrec : touchedRec pkg a (touchedRec pkg a l) = { touchedRec pkg a l with
      touched := markDies pkg a (markDies pkg a l.touched)
      podMask := (touchedRec pkg a (touchedRec pkg a l)).podMask
      hallMask := (touchedRec pkg a (touchedRec pkg a l)).hallMask } := rfl
  rw [hrec, hmarks, hpod, hhall]
  rfl

theorem touchedSys_comm (a b : Nat) (y : SysRegs) : touchedSys a (touchedSys b y) = touchedSys b (touchedSys a y) := by
  by_cases ha : a < 64 <;> by_cases hb : b < 64 <;>
    simp only [touchedSys, ha, hb, if_true, if_false, BitVec.or_assoc, BitVec.or_comm (BitVec.twoPow 64 (a - 64)),
      BitVec.or_comm (BitVec.twoPow 64 a)]

theorem touchedSys_idem (a : Nat) (y : SysRegs) : touchedSys a (touchedSys a y) = touchedSys a y := by
  by_cases ha : a < 64 <;> simp only [touchedSys, ha, if_true, if_false, BitVec.or_assoc, BitVec.or_self]

/-- Two dies of a package touched in turn. -/
theorem touch_touch (launch : Nat) (pkg : BitVec 7) (a b : Nat) (s : State) :
    touch launch pkg a (touch launch pkg b s)
      = { updLaunch launch (fun l => touchedRec pkg a (touchedRec pkg b l)) s with
          core.sys := if showsTouch launch pkg s then touchedSys a (touchedSys b s.core.sys) else s.core.sys } := by
  have hmap : (s.sched.launches.map fun l => if l.id = launch then touchedRec pkg b l else l).map
        (fun l => if l.id = launch then touchedRec pkg a l else l)
      = s.sched.launches.map fun l => if l.id = launch then touchedRec pkg a (touchedRec pkg b l) else l := by
    rw [List.map_map]
    refine List.map_congr_left fun l _ => ?_
    by_cases hl : l.id = launch
    · have hb : (touchedRec pkg b l).id = launch := hl
      rw [Function.comp_apply, if_pos hl, if_pos hl, if_pos hb]
    · rw [Function.comp_apply, if_neg hl, if_neg hl, if_neg hl]
  rw [touch_eq launch pkg a, if_congr (showsTouch_touch launch pkg pkg b s) rfl rfl, touch_eq launch pkg b]
  by_cases h : showsTouch launch pkg s
  · simp only [if_pos h]
    simp only [updLaunch, hmap]
  · simp only [if_neg h]
    simp only [updLaunch, hmap]

theorem touch_comm (launch : Nat) (pkg : BitVec 7) (a b : Nat) (s : State) :
    touch launch pkg a (touch launch pkg b s) = touch launch pkg b (touch launch pkg a s) := by
  rw [touch_touch, touch_touch]
  simp only [touchedRec_comm pkg a b, touchedSys_comm a b]

/-- A die noted a second time. -/
theorem touch_idem (launch : Nat) (pkg : BitVec 7) (a : Nat) (s : State) :
    touch launch pkg a (touch launch pkg a s) = touch launch pkg a s := by
  rw [touch_touch, touch_eq]
  simp only [touchedRec_idem pkg a, touchedSys_idem a]

/-! ## The dies of a line -/

/-- A launch that has reached a line reaches it again. -/
theorem touchPa_idem (launch pa : Nat) (s : State) : touchPa launch pa (touchPa launch pa s) = touchPa launch pa s := by
  unfold touchPa
  by_cases hhost : isHostPa pa = true
  · simp only [hhost, if_true]
  · by_cases hcls : paCls pa = 3
    · simp only [hhost, hcls, if_true, if_false, Bool.false_eq_true, touch_comm launch (paPkg pa) (64 + (homeOf pa).1),
        touch_idem]
    · simp only [hhost, hcls, if_false, Bool.false_eq_true, touch_idem]

/-- What holds of the state and is kept by touching a die holds once a line has been reached. -/
theorem touchPa_induct {p : State → Prop} {launch : Nat} (hstep : ∀ pkg die u, p u → p (touch launch pkg die u)) (pa : Nat) {s : State}
    (hs : p s) : p (touchPa launch pa s) := by
  unfold touchPa
  split
  · exact hs
  · dsimp only
    split
    · exact hstep _ _ _ (hstep _ _ _ hs)
    · exact hstep _ _ _ hs

/-- A line that is reached leaves its mark in mask registers and launch records alone. -/
theorem touchPa_frame (launch pa : Nat) (s : State) :
    touchPa launch pa s
      = { s with core.sys := (touchPa launch pa s).core.sys, sched.launches := (touchPa launch pa s).sched.launches } := by
  refine touchPa_induct (p := fun u => u = { s with core.sys := u.core.sys, sched.launches := u.sched.launches }) (fun pkg die u hu => ?_) pa rfl
  rw [touch_eq, hu]
  rfl

/-- Parts of a launch's record that the dies it has touched have no part in. -/
theorem apply_launchOf_touchPa {α : Type} (g : LaunchRec → α) (hg : ∀ pkg die l, g (touchedRec pkg die l) = g l) (launch pa k : Nat)
    (s : State) : g (launchOf (touchPa launch pa s) k) = g (launchOf s k) :=
  touchPa_induct (p := fun u => g (launchOf u k) = g (launchOf s k)) (fun pkg die u hu => (apply_launchOf_touch g hg launch pkg die k u).trans hu)
    pa rfl

/-- What decides where a touched die leaves its mark, with the mark. -/
def touchView (s : State) : Nat × CoreId × SysRegs × List LaunchRec := (s.core.launch, s.core.id, s.core.sys, s.sched.launches)

theorem touchView_touch {s t : State} (h : touchView t = touchView s) (launch : Nat) (pkg : BitVec 7) (die : Nat) :
    touchView (touch launch pkg die t) = touchView (touch launch pkg die s) := by
  simp only [touchView, Prod.mk.injEq] at h
  obtain ⟨hlaunch, hid, hsys, hls⟩ := h
  have hshow : showsTouch launch pkg t ↔ showsTouch launch pkg s := by
    rw [showsTouch, hlaunch, hid, show launchOf t launch = launchOf s launch by rw [launchOf, hls]; rfl]
  rw [touch_eq, touch_eq, if_congr hshow rfl rfl, hsys]
  simp only [touchView, updLaunch, hlaunch, hid, hls]

theorem touchView_touchPa {s t : State} (h : touchView t = touchView s) (launch pa : Nat) :
    touchView (touchPa launch pa t) = touchView (touchPa launch pa s) := by
  unfold touchPa
  split
  · exact h
  · dsimp only
    split
    · exact touchView_touch (touchView_touch h _ _ _) _ _ _
    · exact touchView_touch h _ _ _

/-! ## Home traffic -/

/-- Home traffic is noted among the reports of traffic, and of the state needs only those and the time. -/
theorem noteHomeTraffic_congr {s t : State} (h : t.net.homeSeen = s.net.homeSeen) (hnow : t.now = s.now) (line : Nat) :
    noteHomeTraffic line t = { t with net.homeSeen := (noteHomeTraffic line s).net.homeSeen } := by
  rw [noteHomeTraffic, noteHomeTraffic]
  dsimp only
  split
  · rw [← h]
  · rw [h, hnow]

end Sys2Proof.Machine
end

section
/-! SUPPORT. Lines at their home (R226, R291-R293, R297): their records, folds, readers and copies, and what an escape write of a line with
none of them to mind makes of the state. -/

namespace Sys2Proof.Machine

/-! ## Records -/

@[simp] theorem lineRec_line (s : State) (x : Nat) : (lineRec s x).line = x := by
  rw [lineRec]
  cases h : s.homes.lines.find? (fun r => r.line == x) with
  | none => rfl
  | some r => exact beq_iff_eq.mp (List.find?_some (p := fun r : LineRec => r.line == x) h)

theorem lineRec_congr {s t : State} (h : t.homes.lines = s.homes.lines) (x : Nat) : lineRec t x = lineRec s x := by
  rw [lineRec, lineRec, h]

theorem lineRec_setLineRec_same {r : LineRec} {line : Nat} (h : r.line = line) (s : State) : lineRec (setLineRec r s) line = r := by
  have hfind : (r :: s.homes.lines.filter fun x => x.line != r.line).find? (fun x => x.line == line) = some r :=
    List.find?_cons_of_pos (beq_iff_eq.mpr h)
  rw [lineRec, setLineRec, hfind]
  rfl

theorem lineRec_setLineRec_of_ne {r : LineRec} {x : Nat} (s : State) (h : x ≠ r.line) : lineRec (setLineRec r s) x = lineRec s x := by
  have hfind : (s.homes.lines.filter fun y => y.line != r.line).find? (fun y => y.line == x) = s.homes.lines.find? (fun y => y.line == x) := by
    rw [List.find?_filter]
    refine congrArg (fun p => List.find? p s.homes.lines) (funext fun y => ?_)
    by_cases hy : y.line = x
    · simp [hy, h]
    · simp [hy]
  rw [lineRec, setLineRec, List.find?_cons_of_neg (by simpa using fun e => h e.symm), hfind]
  rfl

/-- A record of a line in place of another. -/
theorem setLineRec_setLineRec {r q : LineRec} (h : q.line = r.line) (s : State) : setLineRec r (setLineRec q s) = setLineRec r s := by
  have hlines : (q :: s.homes.lines.filter fun x => x.line != q.line).filter (fun x => x.line != r.line)
      = s.homes.lines.filter fun x => x.line != r.line := by
    rw [List.filter_cons_of_neg (by simp [h]), List.filter_filter, h]
    simp only [Bool.and_self]
  rw [setLineRec, setLineRec, hlines]
  rfl

/-! ## Versions -/

theorem mem_insertPrior (w x : Way) (l : List Way) : x ∈ insertPrior w l ↔ x = w ∨ x ∈ l := by
  induction l with
  | nil => simp [insertPrior]
  | cons y r ih =>
    rw [insertPrior]
    split
    · simp
    · simp only [List.mem_cons, ih]
      exact or_left_comm

theorem mem_foldr_insertPrior (x : Way) (l : List Way) : x ∈ l.foldr insertPrior [] ↔ x ∈ l := by
  induction l with
  | nil => rfl
  | cons y r ih => rw [List.foldr_cons, mem_insertPrior, ih, List.mem_cons]

/-- Spilling orders versions and loses none. -/
theorem mem_spillOrder (x : Way) (l : List Way) : x ∈ spillOrder l ↔ x ∈ l := by
  have hkind : x.kind = .prior ∨ x.kind = .committed ∨ x.kind = .shadow := by cases x.kind <;> simp
  simp only [spillOrder, List.mem_append, mem_foldr_insertPrior, List.mem_filter, beq_iff_eq]
  tauto

theorem versions_withVersions (r : LineRec) (l : List Way) : (r.withVersions l).versions = spillOrder l :=
  List.take_append_drop _ _

theorem mem_versions_withVersions (r : LineRec) (l : List Way) (x : Way) : x ∈ (r.withVersions l).versions ↔ x ∈ l := by
  rw [versions_withVersions, mem_spillOrder]

/-! ## Folds and readers -/

/-- A line without a committed way is folded. -/
theorem foldLine_of_folded {line : Nat} {s : State} (h : ∀ w ∈ (lineRec s line).versions, w.kind ≠ .committed) : foldLine line s = s := by
  have hnone : (lineRec s line).versions.find? (fun w => w.kind == .committed) = none := by
    rw [List.find?_eq_none]
    exact fun w hw => by simpa using h w hw
  rw [foldLine]
  simp only [hnone]

theorem readerLive_congr {s t : State} (h : t.sched.halls = s.sched.halls) : readerLive t = readerLive s := by
  funext pkg x
  rw [readerLive, readerLive, hallEntry, hallEntry, h]

/-- A line's record once the readers that have ended have left it, with the versions that come back from the spill area (R293, R297). -/
def prunedRec (s : State) (r : LineRec) : LineRec :=
  let live := r.readers.filter (readerLive s (linePkg r.line))
  { r with
    readers := live
    overflow := r.overflow && !live.isEmpty
    beyond := if live.isEmpty then [] else r.beyond
    evicted := false }.withVersions r.versions

theorem pruneReaders_eq (line : Nat) (s : State) :
    pruneReaders line s = if (lineRec s line).readers.isEmpty && !(lineRec s line).overflow && !(lineRec s line).evicted then s
      else setLineRec (prunedRec s (lineRec s line)) s := by
  unfold pruneReaders prunedRec
  simp only [lineRec_line]
  rfl

theorem prunedRec_line (s : State) (line : Nat) : (prunedRec s (lineRec s line)).line = line := lineRec_line s line

theorem prunedRec_congr {s t : State} (h : t.sched.halls = s.sched.halls) : prunedRec t = prunedRec s := by
  funext r
  rw [prunedRec, prunedRec, readerLive_congr h]

/-- Readers that have ended leave a line's record; of the state that needs the records and the hallmarks. -/
theorem pruneReaders_congr {s t : State} (hlines : t.homes.lines = s.homes.lines) (hhalls : t.sched.halls = s.sched.halls) (line : Nat) :
    pruneReaders line t = { t with homes.lines := (pruneReaders line s).homes.lines } := by
  rw [pruneReaders_eq, pruneReaders_eq, lineRec_congr hlines, prunedRec_congr hhalls]
  split
  · rw [← hlines]
  · rw [setLineRec, setLineRec, hlines]

/-- A record written over what has become of the readers. -/
theorem setLineRec_pruneReaders {r : LineRec} {line : Nat} (h : r.line = line) (s : State) :
    setLineRec r (pruneReaders line s) = setLineRec r s := by
  rw [pruneReaders_eq]
  split
  · rfl
  · exact setLineRec_setLineRec ((prunedRec_line s line).trans h.symm) s

theorem lineRec_pruneReaders_of_ne {line x : Nat} (s : State) (h : x ≠ line) : lineRec (pruneReaders line s) x = lineRec s x := by
  rw [pruneReaders_eq]
  split
  · rfl
  · exact lineRec_setLineRec_of_ne s fun e => h (e.trans (prunedRec_line s line))

/-- The end of readers leaves the rest of a line's record, and its versions but for their places. -/
theorem lineRec_pruneReaders (line : Nat) (s : State) :
    lineRec (pruneReaders line s) line = lineRec s line ∨ lineRec (pruneReaders line s) line = prunedRec s (lineRec s line) := by
  rw [pruneReaders_eq]
  split
  · exact .inl rfl
  · exact .inr (lineRec_setLineRec_same (prunedRec_line s line) s)

theorem pruneReaders_poison (line : Nat) (s : State) : (lineRec (pruneReaders line s) line).poison = (lineRec s line).poison := by
  obtain h | h := lineRec_pruneReaders line s <;> rw [h]
  rfl

theorem mem_versions_pruneReaders (line : Nat) (s : State) (w : Way) :
    w ∈ (lineRec (pruneReaders line s) line).versions ↔ w ∈ (lineRec s line).versions := by
  obtain h | h := lineRec_pruneReaders line s <;> rw [h]
  exact mem_versions_withVersions _ _ w

/-! ## Copies -/

/-- The copies of a line in layer caches and hub line buffers: of the state those alone count. -/
theorem dropCopies_congr {s t : State} (hlayers : t.homes.layers = s.homes.layers) (hhubs : t.homes.hubs = s.homes.hubs) (line : Nat) :
    dropCopies line t = ({ t with
      homes.layers := (dropCopies line s).1.homes.layers
      homes.hubs := (dropCopies line s).1.homes.hubs }, (dropCopies line s).2) := by
  simp only [dropCopies, hlayers, hhubs]

/-- Copies that hold nothing unpushed leave with their directory entry. -/
theorem invalidateCopies_of_pushed {line : Nat} {s : State} (h : (dropCopies line s).2 = []) :
    invalidateCopies line s
      = setLineRec { lineRec s line with sharers := 0 } { s with
          homes.layers := (dropCopies line s).1.homes.layers
          homes.hubs := (dropCopies line s).1.homes.hubs } := by
  have hdrop := dropCopies_congr (s := s) (t := s) rfl rfl line
  rw [h] at hdrop
  rw [invalidateCopies, hdrop]
  rfl

/-! ## A write of committed state -/

theorem writerLive_congr {s t : State} {launch : Nat} (hphase : (launchOf t launch).phase = (launchOf s launch).phase)
    (hhalls : t.sched.halls = s.sched.halls) (pkg : BitVec 7) : writerLive t launch pkg = writerLive s launch pkg := by
  rw [writerLive, writerLive, hallOf, hallOf, hphase, hhalls]

/-- A line of which nothing stands in a write's way: no committed way, no unpushed copy, no poison. -/
def Plain (s : State) (line : Nat) : Prop :=
  (∀ w ∈ (lineRec s line).versions, w.kind ≠ .committed) ∧ (dropCopies line s).2 = [] ∧ (lineRec s line).poison = 0

/-- What any access of a launch to a line leaves beside its home: touched dies and home traffic. -/
def Visited (b : State) (launch line : Nat) (t : State) : State :=
  { b with
    core.sys := (touchPa launch (line * 128) b).core.sys
    sched.launches := (touchPa launch (line * 128) b).sched.launches
    net.homeSeen := (noteHomeTraffic line b).net.homeSeen
    homes := t.homes }

/-- What an applied write of committed state leaves of a state. -/
def Becomes (b : State) (launch line : Nat) (d : LineData) (m : LineMask) (queue : List HomeReq) (t : State) : Prop :=
  memLine t line = d ∧ t = Visited b launch line t ∧ (∀ x, x ≠ line → lineRec t x = lineRec b x)
  ∧ lineRec t line = { snoopHost { lineRec (pruneReaders line b) line with poison := clearPoison 0 m } with sharers := 0 }
  ∧ t.homes = { (dropCopies line b).1.homes with
      mem := (setMemLine line d b).homes.mem
      lines := t.homes.lines
      queue := queue }

/-- The record of a line whose committed bytes have been written. -/
def writtenRec (line : Nat) (m : LineMask) (b : State) : LineRec :=
  { snoopHost { lineRec (pruneReaders line b) line with poison := clearPoison 0 m } with sharers := 0 }

/-- The state after a write of committed state: touched dies, traffic, memory, copies and the line's record. -/
def written (launch line : Nat) (d : LineData) (m : LineMask) (b : State) : State :=
  setLineRec (writtenRec line m b) { Visited b launch line b with
    homes.mem := (setMemLine line d b).homes.mem
    homes.layers := (dropCopies line b).1.homes.layers
    homes.hubs := (dropCopies line b).1.homes.hubs }

theorem snoopHost_line (r : LineRec) : (snoopHost r).line = r.line := by
  rw [snoopHost]
  split <;> rfl

theorem writtenRec_line (line : Nat) (m : LineMask) (b : State) : (writtenRec line m b).line = line :=
  (snoopHost_line _).trans (lineRec_line ..)

theorem becomes_written {b : State} (hwf : Memory.wf b.homes.mem = true) (launch line : Nat) (d : LineData) (m : LineMask) :
    Becomes b launch line d m b.homes.queue (written launch line d m b) := by
  refine ⟨?_, rfl, fun x hx => ?_, lineRec_setLineRec_same (writtenRec_line line m b) _, rfl⟩
  · exact (memLine_congr rfl rfl line).trans (memLine_setMemLine hwf line d)
  · exact lineRec_setLineRec_of_ne _ fun e => hx (e.trans (writtenRec_line line m b))

/-- The queue of a home plays no part in what a write leaves. -/
theorem Becomes.withQueue {b : State} {launch line : Nat} {d : LineData} {m : LineMask} {q : List HomeReq} {t : State}
    (h : Becomes b launch line d m q t) (q' : List HomeReq) : Becomes b launch line d m q' { t with homes.queue := q' } := by
  obtain ⟨hline, hframe, hothers, hrec, hhomes⟩ := h
  refine ⟨hline, ?_, hothers, hrec, ?_⟩
  · conv_lhs => rw [hframe]
    rfl
  · conv_lhs => rw [hhomes]

/-- What an access of a launch to a line notes of it. -/
theorem noteHomeTraffic_touchPa (launch line : Nat) (b : State) :
    noteHomeTraffic line (touchPa launch (line * 128) b) = Visited b launch line b := by
  have hframe := touchPa_frame launch (line * 128) b
  rw [noteHomeTraffic_congr (s := b) (by rw [hframe]) (by rw [hframe]), Visited, hframe]

theorem writerLive_visited (b : State) (launch line : Nat) (t : State) (k : Nat) (pkg : BitVec 7) :
    writerLive (Visited b launch line t) k pkg = writerLive b k pkg :=
  writerLive_congr (s := b) (t := Visited b launch line t) (apply_launchOf_touchPa (·.phase) (fun _ _ _ => rfl) launch (line * 128) k b) rfl pkg

/-- A write of committed state that meets no poison. -/
theorem plainWrite_of_sound {s : State} {line : Nat} (h : (lineRec s line).poison = 0) (launch : Nat) (f : LineData → LineData)
    (m reads : LineMask) :
    plainWrite launch line f m reads s = (setLineRec (snoopHost { lineRec s line with poison := clearPoison 0 m })
      (setMemLine line (f (memLine s line)) s), .applied (memLine s line)) := by
  have hmet : poisonMet 0 reads = false := by simp [poisonMet]
  rw [plainWrite]
  dsimp only
  rw [h, hmet]
  rfl

/-- A record over that of a line that has been written: nothing is left of what stood there of the line before. -/
theorem setLineRec_over_pruned {line : Nat} {r q : LineRec} (hr : r.line = line) (hq : q.line = line) (b u : State) :
    setLineRec r (setLineRec q { u with homes.lines := (pruneReaders line b).homes.lines })
      = setLineRec r { u with homes.lines := b.homes.lines } := by
  have hlines := congrArg (·.homes.lines) (setLineRec_pruneReaders hr b)
  rw [setLineRec_setLineRec (hq.trans hr.symm)]
  simp only [setLineRec] at hlines ⊢
  rw [hlines]

/-- An escape write applied at its home (R220, R226, R248). -/
theorem homeWrite_committed {b : State} {launch line : Nat} (hplain : Plain b line)
    (hmay : isHostPa (line * 128) = true ∨ writerLive b launch (linePkg line) = true) (sec : Bool) (f : LineData → LineData) (m reads : LineMask) :
    homeWrite launch sec 1 line f m reads b = (written launch line (f (memLine b line)) m b, .applied (memLine b line)) := by
  obtain ⟨hfolded, hpushed, hpoison⟩ := hplain
  have hprune := pruneReaders_congr (s := b) (t := Visited b launch line b) rfl rfl line
  have hrec : lineRec (pruneReaders line (Visited b launch line b)) line = lineRec (pruneReaders line b) line := by
    rw [hprune]
    rfl
  have hmem : memLine (pruneReaders line (Visited b launch line b)) line = memLine b line := by
    rw [hprune]
    exact memLine_congr rfl rfl line
  have hlive : writerLive (pruneReaders line (Visited b launch line b)) launch (linePkg line) = writerLive b launch (linePkg line) := by
    rw [hprune]
    exact writerLive_visited b launch line b launch (linePkg line)
  have happly : applyWrite launch sec 1 line f m reads (Visited b launch line b)
      = plainWrite launch line f m reads (pruneReaders line (Visited b launch line b)) := by
    rw [applyWrite, foldLine_of_folded (s := Visited b launch line b) hfolded]
    obtain hhost | hw := hmay
    · rw [if_pos hhost]
    · rw [hlive, hw]
      simp only [if_true, ite_self]
  rw [homeWrite, noteHomeTraffic_touchPa, happly, plainWrite_of_sound (by rw [hrec, pruneReaders_poison, hpoison]), hrec, hmem]
  have hq : (snoopHost { lineRec (pruneReaders line b) line with poison := clearPoison 0 m }).line = line :=
    (snoopHost_line _).trans (lineRec_line ..)
  have hu := dropCopies_congr (s := b) (t := setLineRec (snoopHost { lineRec (pruneReaders line b) line with poison := clearPoison 0 m })
    (setMemLine line (f (memLine b line)) (pruneReaders line (Visited b launch line b)))) (by rw [hprune]; rfl) (by rw [hprune]; rfl) line
  refine congrArg (fun t => (t, HomeRes.applied (memLine b line))) ?_
  rw [invalidateCopies_of_pushed (by rw [hu]; exact hpushed), hu, lineRec_setLineRec_same hq, hprune]
  exact setLineRec_over_pruned (r := writtenRec line m b) (writtenRec_line line m b) hq b
    { Visited b launch line b with
      homes.mem := (setMemLine line (f (memLine b line)) b).homes.mem
      homes.layers := (dropCopies line b).1.homes.layers
      homes.hubs := (dropCopies line b).1.homes.hubs }

end Sys2Proof.Machine
end

section
/-! SUPPORT. Escape writes, atomics, reductions and line regions of other cores applied at a home (R200, R201, R206, R212). -/

namespace Sys2Proof.Machine

/-! ## Requests that a home applies -/

/-- A home is done with a request of another core. -/
theorem applyEvent_other {s s' : State} {i : Nat} {r : HomeReq} {op : StoreOp} {want : StoreOp → Bool} {bs : List Byte}
    (hr : s.homes.queue[i]? = some r) (hop : r.op = .write op) (hre : r.refusedAt = none) (hwant : want op = true)
    (happly : homeApply ⟨r.core, r.launch, r.sec, r.ord, r.cls⟩ r.pa op s = (s', .done bs)) :
    applyEvent (.other i) want s = .next { s' with homes.queue := s'.homes.queue.eraseIdx i } := by
  obtain ⟨hlt, -⟩ := List.getElem?_eq_some_iff.mp hr
  rw [applyEvent]
  dsimp only
  rw [if_pos hlt, otherApply, hr]
  simp only [hop, hwant, hre, happly, Bool.not_true, Option.isSome_none, Bool.or_self, Bool.false_eq_true, if_false]

theorem homeUpdate_committed {b : State} {x : Sender} {line : Nat} (hcls : x.cls = 1) (hplain : Plain b line)
    (hlive : writerLive b x.launch (linePkg line) = true) (f : LineData → LineData) (m reads : LineMask) (res : LineData → List Byte) :
    homeUpdate x line f m reads res b = (written x.launch line (f (memLine b line)) m b, .done (res (memLine b line))) := by
  rw [homeUpdate, hcls, homeWrite_committed hplain (.inr hlive)]

/-- A request of another core that writes a line of the escape class. -/
structure EscapeRequest (s : State) (i : Nat) (r : HomeReq) (op : StoreOp) : Prop where
  wf : Memory.wf s.homes.mem = true
  queued : s.homes.queue[i]? = some r
  writes : r.op = .write op
  offered : r.refusedAt = none
  escape : r.cls = 1
  plain : Plain s (lineNo r.pa)
  live : writerLive s r.launch (linePkg (lineNo r.pa)) = true

/-- A request whose operation updates its line has left, and the line is what the operation makes of it. -/
theorem EscapeRequest.lands {s : State} {i : Nat} {r : HomeReq} {op : StoreOp} (h : EscapeRequest s i r op) {want : StoreOp → Bool}
    (hwant : want op = true) {f : LineData → LineData} {m reads : LineMask} {res : LineData → List Byte}
    (happly : homeApply ⟨r.core, r.launch, r.sec, r.ord, r.cls⟩ r.pa op s
      = homeUpdate ⟨r.core, r.launch, r.sec, r.ord, r.cls⟩ (lineNo r.pa) f m reads res s) :
    ∃ t, applyEvent (.other i) want s = .next t
      ∧ Becomes s r.launch (lineNo r.pa) (f (memLine s (lineNo r.pa))) m (s.homes.queue.eraseIdx i) t := by
  rw [homeUpdate_committed h.escape h.plain h.live] at happly
  exact ⟨_, applyEvent_other h.queued h.writes h.offered hwant happly, (becomes_written h.wf _ _ _ _).withQueue _⟩

/-! ## Stores -/

/-- The bytes of a store's cells on a line. -/
def cellsLine (cells : List Host.Cell) (d : LineData) : LineData :=
  cells.foldl (fun (d : LineData) c => lineMerge d (lineAt (c.1 % 128) [c.2]) (maskOf (c.1 % 128) 1)) d

def cellsMask (cells : List Host.Cell) : LineMask := cells.foldl (fun (m : LineMask) c => m ||| maskOf (c.1 % 128) 1) 0

theorem getLsbD_cellsMask (cells : List Host.Cell) {k : Nat} (hk : k < 128) :
    (cellsMask cells).getLsbD k = cells.any (fun c => c.1 % 128 == k) := by
  rw [cellsMask, getLsbD_foldl_mask (fun c : Host.Cell => maskOf (c.1 % 128) 1)]
  simp only [getLsbD_maskOf_one _ hk, BitVec.ofNat_eq_ofNat, BitVec.getLsbD_zero, Bool.false_or]

/-- The last cell of a byte gives it. -/
theorem lineByte_cellsLine {k : Nat} (hk : k < 128) : ∀ (cells : List Host.Cell) (d : LineData),
    lineByte (cellsLine cells d) k = match cells.reverse.find? (fun c => c.1 % 128 == k) with
      | some c => c.2
      | none => lineByte d k := by
  intro cells
  induction cells with
  | nil => intro d; rfl
  | cons c cells ih =>
    intro d
    rw [cellsLine, List.foldl_cons, ← cellsLine, ih, List.reverse_cons, List.find?_append]
    cases cells.reverse.find? (fun c => c.1 % 128 == k) with
    | some c' => rfl
    | none =>
      simp only [Option.none_or, List.find?_singleton, lineByte_lineMerge _ _ _ hk, getLsbD_maskOf_one _ hk]
      by_cases hc : c.1 % 128 = k
      · subst hc
        simp only [beq_self_eq_true, if_true, lineByte_lineAt_singleton c.2 hk]
      · simp only [beq_eq_false_iff_ne.mpr hc, Bool.false_eq_true, if_false]

/-- A store's bytes over a line. -/
theorem lineByte_store (cells : List Host.Cell) (old : LineData) {k : Nat} (hk : k < 128) :
    lineByte (lineMerge old (cellsLine cells 0) (cellsMask cells)) k = match cells.reverse.find? (fun c => c.1 % 128 == k) with
      | some c => c.2
      | none => lineByte old k := by
  rw [lineByte_lineMerge _ _ _ hk, getLsbD_cellsMask cells hk, lineByte_cellsLine hk, ← List.any_reverse]
  cases hfind : cells.reverse.find? (fun c => c.1 % 128 == k) with
  | some c => rw [if_pos (List.any_eq_true.mpr ⟨c, List.mem_of_find?_eq_some hfind, List.find?_some hfind⟩)]
  | none => rw [if_neg (by simpa using List.find?_eq_none.mp hfind)]

theorem storeApply_lands {s : State} {i : Nat} {r : HomeReq} {cells : List Host.Cell} (h : EscapeRequest s i r (.write cells)) :
    ∃ d m, (∃ t, exec (.storeApply (.other i)) s = .next t ∧ Becomes s r.launch (lineNo r.pa) d m (s.homes.queue.eraseIdx i) t)
      ∧ ∀ k, k < 128 → m.getLsbD k = cells.any (fun c => c.1 % 128 == k)
        ∧ lineByte d k = match cells.reverse.find? (fun c => c.1 % 128 == k) with
          | some c => c.2
          | none => lineByte (memLine s (lineNo r.pa)) k := by
  refine ⟨_, cellsMask cells, h.lands (f := fun old => lineMerge old (cellsLine cells 0) (cellsMask cells)) (reads := 0) (res := fun _ => [])
    rfl ?_, fun k hk => ⟨getLsbD_cellsMask cells hk, lineByte_store cells _ hk⟩⟩
  rw [homeApply]
  simp only [h.escape, if_true]
  rfl

/-! ## Atomics, reductions and line regions -/

theorem atomicApply_lands {s : State} {i : Nat} {r : HomeReq} {aop : BitVec 4} {dbl : Bool} {x y : DWord} {q : BitVec 5}
    (h : EscapeRequest s i r (.atomic aop dbl x y q)) :
    let n := if dbl then 8 else 4
    let old := memLine s (lineNo r.pa)
    let new := atomicMem aop dbl (dw (leNat (lineBytes old (lineOff r.pa) n))) x y
    let m := maskOf (lineOff r.pa) n
    ∃ t, exec (.atomicApply (.other i)) s = .next t ∧ Becomes s r.launch (lineNo r.pa)
      (lineMerge old (lineAt (lineOff r.pa) (leBytes n new.toNat)) m) m (s.homes.queue.eraseIdx i) t := by
  refine h.lands (want := fun op => match op with | .atomic _ _ _ _ _ => true | _ => false)
    (m := maskOf (lineOff r.pa) (atomicSize dbl)) (reads := maskOf (lineOff r.pa) (atomicSize dbl))
    (res := fun old => lineBytes old (lineOff r.pa) (atomicSize dbl))
    (f := fun old => lineMerge old (lineAt (lineOff r.pa) (leBytes (atomicSize dbl)
      (atomicMem aop dbl (dw (leNat (lineBytes old (lineOff r.pa) (atomicSize dbl)))) x y).toNat)) (maskOf (lineOff r.pa) (atomicSize dbl)))
    rfl ?_
  rw [homeApply]
  simp only [h.escape, if_true]

theorem redApply_lands {s : State} {i : Nat} {r : HomeReq} {rop : RedOp} {d : LineData} {m : LineMask} {k : Nat}
    (h : EscapeRequest s i r (.red rop d m k)) (hfree : (launchOf s r.launch).pair = 0 ∨ rop = .i32) :
    ∃ t, exec (.redApply (.other i)) s = .next t ∧ Becomes s r.launch (lineNo r.pa)
      (redLine rop d m (memLine s (lineNo r.pa))) m (s.homes.queue.eraseIdx i) t := by
  refine h.lands (f := redLine rop d m) (reads := m) (res := fun _ => []) rfl ?_
  rw [homeApply]
  simp only [h.escape, if_true]
  rw [if_neg fun hn => hfree.elim hn.1 hn.2]

theorem lineRegionApply_lands {s : State} {i : Nat} {r : HomeReq} {accs : List RegionAcc}
    (h : EscapeRequest s i r (.region accs)) (hstores : regionMask accs ≠ 0) :
    ∃ t, exec (.lineRegionApply (.other i)) s = .next t ∧ Becomes s r.launch (lineNo r.pa)
      (regionStores accs (memLine s (lineNo r.pa))) (regionMask accs) (s.homes.queue.eraseIdx i) t := by
  refine h.lands (f := regionStores accs) (reads := regionReads accs) (res := fun old => regionLoadBytes old accs) rfl ?_
  rw [homeApply]
  simp only [h.escape, if_true, if_neg (fun hn : regionMask accs = 0 ∧ True => hstores hn.1)]

end Sys2Proof.Machine
end

section
/-! SUPPORT. Folds of a line, its readers, and a read at its home that meets no poison (R291, R292, R297, R389). -/

namespace Sys2Proof.Machine

/-! ## Folds -/

/-- The record of a line whose committed way has become C. -/
def foldedRec (line : Nat) (w : Way) (s : State) : LineRec :=
  let r := lineRec s line
  let prior : Way := ⟨.prior, 0, false, r.stamp, w.stamp, memLine s line, r.poison⟩
  let rest := r.versions.filter (fun x => x != w)
  { r with stamp := w.stamp, committer := (hallLaunch s (linePkg line) w.hall, w.hall), poison := w.poison }.withVersions
    (if priorNeeded s (linePkg line) w.stamp then rest ++ [prior] else rest)

theorem foldedRec_line (line : Nat) (w : Way) (s : State) : (foldedRec line w s).line = line := lineRec_line s line

/-- A fold: a committed way takes the place of C. -/
theorem foldLine_of_some {line : Nat} {s : State} {w : Way} (h : (lineRec s line).versions.find? (fun w => w.kind == .committed) = some w) :
    foldLine line s = setLineRec (foldedRec line w s) (setMemLine line w.data s) := by
  rw [foldLine]
  simp only [h]
  rfl

theorem foldLine_of_none {line : Nat} {s : State} (h : (lineRec s line).versions.find? (fun w => w.kind == .committed) = none) :
    foldLine line s = s := by
  rw [foldLine]
  simp only [h]

theorem hallLaunch_congr {s t : State} (h : t.sched.halls = s.sched.halls) : hallLaunch t = hallLaunch s := by
  funext pkg x
  rw [hallLaunch, hallLaunch, hallEntry, hallEntry, h]

theorem priorNeeded_congr {s t : State} (h : t.sched.halls = s.sched.halls) : priorNeeded t = priorNeeded s := by
  funext pkg c
  rw [priorNeeded, priorNeeded, h]

/-- A fold needs of the state the line's record, memory and the hallmarks. -/
theorem foldLine_congr {s t : State} (hmem : t.homes.mem = s.homes.mem) (hlines : t.homes.lines = s.homes.lines)
    (hhalls : t.sched.halls = s.sched.halls) (hdies : t.health.lostDies = s.health.lostDies) (line : Nat) :
    foldLine line t = { t with homes.mem := (foldLine line s).homes.mem, homes.lines := (foldLine line s).homes.lines } := by
  have hrec := lineRec_congr hlines line
  cases h : (lineRec s line).versions.find? (fun w => w.kind == .committed) with
  | none => rw [foldLine_of_none h, foldLine_of_none (by rw [hrec]; exact h), ← hmem, ← hlines]
  | some w =>
    have hfolded : foldedRec line w t = foldedRec line w s := by
      rw [foldedRec, foldedRec, hrec, memLine_congr hmem hdies, hallLaunch_congr hhalls, priorNeeded_congr hhalls]
    rw [foldLine_of_some h, foldLine_of_some (by rw [hrec]; exact h), hfolded]
    simp only [setLineRec, setMemLine, hmem, hlines]

theorem foldLine_frame (line : Nat) (s : State) :
    foldLine line s = { s with homes.mem := (foldLine line s).homes.mem, homes.lines := (foldLine line s).homes.lines } :=
  foldLine_congr rfl rfl rfl rfl line

theorem lineRec_foldLine_of_ne {line x : Nat} (s : State) (h : x ≠ line) : lineRec (foldLine line s) x = lineRec s x := by
  cases hfind : (lineRec s line).versions.find? (fun w => w.kind == .committed) with
  | none => rw [foldLine_of_none hfind]
  | some w =>
    rw [foldLine_of_some hfind, lineRec_setLineRec_of_ne _ fun e => h (e.trans (foldedRec_line line w s))]
    rfl

theorem foldLine_wf {s : State} (h : Memory.wf s.homes.mem = true) (line : Nat) : Memory.wf (foldLine line s).homes.mem = true := by
  cases hfind : (lineRec s line).versions.find? (fun w => w.kind == .committed) with
  | none => rwa [foldLine_of_none hfind]
  | some w =>
    rw [foldLine_of_some hfind]
    exact setMemLine_wf line w.data s h

/-! ## Readers -/

/-- A launch that enters the readers of a line changes that line's record alone. -/
theorem recordReader_cases (launch line : Nat) (s : State) :
    recordReader launch line s = s ∨ ∃ r, r.line = line ∧ r.poison = (lineRec s line).poison ∧ r.versions = (lineRec s line).versions
      ∧ recordReader launch line s = setLineRec r s := by
  rw [recordReader]
  split
  · exact .inl rfl
  · dsimp only
    split
    · exact .inl rfl
    · split
      · refine .inr ⟨_, ?_, ?_, ?_, rfl⟩
        exacts [lineRec_line s line, rfl, rfl]
      · refine .inr ⟨_, ?_, ?_, ?_, rfl⟩
        exacts [lineRec_line s line, rfl, rfl]

theorem recordReader_frame (launch line : Nat) (s : State) :
    recordReader launch line s = { s with homes.lines := (recordReader launch line s).homes.lines } := by
  obtain h | ⟨r, -, -, -, h⟩ := recordReader_cases launch line s
  · rw [h]
  · rw [h]
    rfl

theorem lineRec_recordReader_of_ne (launch : Nat) {line x : Nat} (s : State) (h : x ≠ line) :
    lineRec (recordReader launch line s) x = lineRec s x := by
  obtain hs | ⟨r, hline, -, -, hs⟩ := recordReader_cases launch line s
  · rw [hs]
  · rw [hs, lineRec_setLineRec_of_ne s fun e => h (e.trans hline)]

/-- A launch with a hallmark at home is then listed there, or the list has overflowed. -/
theorem mem_readers_recordReader {launch line : Nat} {s : State} {h : HallEntry} (hh : hallOf s launch (linePkg line) = some h) :
    h.hall ∈ (lineRec (recordReader launch line s) line).readers ∨ (lineRec (recordReader launch line s) line).overflow = true := by
  rw [recordReader, hh]
  dsimp only
  split
  · rename_i hin
    exact .inl (List.contains_iff_mem.mp hin)
  · split
    · refine .inl ?_
      rw [lineRec_setLineRec_same (line := line) (by exact lineRec_line s line)]
      exact List.mem_append_right _ (List.mem_singleton_self _)
    · refine .inr ?_
      rw [lineRec_setLineRec_same (line := line) (by exact lineRec_line s line)]

/-! ## Lines without poison -/

/-- No version of a line holds poison. -/
def Sound (s : State) (line : Nat) : Prop := (lineRec s line).poison = 0 ∧ ∀ w ∈ (lineRec s line).versions, w.poison = 0

theorem sound_foldLine {s : State} {line : Nat} (h : Sound s line) : Sound (foldLine line s) line := by
  cases hfind : (lineRec s line).versions.find? (fun w => w.kind == .committed) with
  | none => rwa [foldLine_of_none hfind]
  | some w =>
    rw [foldLine_of_some hfind, Sound, lineRec_setLineRec_same (foldedRec_line line w s)]
    refine ⟨h.2 w (List.mem_of_find?_eq_some hfind), fun x hx => ?_⟩
    rw [foldedRec, mem_versions_withVersions] at hx
    split at hx
    · obtain hx | hx := List.mem_append.mp hx
      · exact h.2 x (List.mem_filter.mp hx).1
      · rw [List.mem_singleton.mp hx]
        exact h.1
    · exact h.2 x (List.mem_filter.mp hx).1

theorem sound_pruneReaders {s : State} {line : Nat} (h : Sound s line) : Sound (pruneReaders line s) line :=
  ⟨(pruneReaders_poison line s).trans h.1, fun w hw => h.2 w ((mem_versions_pruneReaders line s w).mp hw)⟩

theorem sound_recordReader {s : State} {line : Nat} (launch : Nat) (h : Sound s line) : Sound (recordReader launch line s) line := by
  obtain hs | ⟨r, hline, hpoison, hversions, hs⟩ := recordReader_cases launch line s
  · rwa [hs]
  · rw [hs, Sound, lineRec_setLineRec_same hline, hpoison, hversions]
    exact h

theorem clearPoison_zero (m : LineMask) : clearPoison 0 m = 0 := by
  have hfold : ∀ l : List Nat, l.foldl (fun (q : BitVec 16) k => if m &&& wordMask k = wordMask k then setBit q k false else q) 0 = 0 := by
    intro l
    induction l with
    | nil => rfl
    | cons k l ih =>
      rw [List.foldl_cons, show (if m &&& wordMask k = wordMask k then setBit (0 : BitVec 16) k false else 0) = 0 by simp [setBit]]
      exact ih
  exact hfold _

/-- A snapshot of a line without poison. -/
theorem snapshotOf_sound {s : State} {line : Nat} (h : Sound s line) (launch : Nat) : (snapshotOf s launch line).2 = 0 := by
  rw [snapshotOf]
  split
  · exact h.1
  · split
    · rename_i hfind
      exact h.2 _ (List.mem_of_find?_eq_some hfind)
    · exact h.1

/-- Whichever version of a line without poison is read. -/
theorem versionOf_sound {s : State} {line : Nat} (h : Sound s line) (launch : Nat) (sec : Bool) (cls : BitVec 2) :
    (versionOf s launch sec cls line).2 = 0 := by
  have hsnap := snapshotOf_sound h launch
  rw [versionOf]
  split
  · exact h.1
  · split
    · rename_i w hown
      rw [ownWay] at hown
      split at hown
      · exact absurd hown (by simp)
      · exact h.2 w (List.mem_of_find?_eq_some hown)
    · generalize snapshotOf s launch line = v at hsnap ⊢
      obtain ⟨d, bad⟩ := v
      have hbad : bad = 0 := hsnap
      dsimp only
      split
      · exact hbad
      · rw [hbad]
        exact clearPoison_zero _

/-! ## Reads at a home -/

/-- The state in which a home answers a read. -/
def readAt (launch : Nat) (cls : BitVec 2) (line : Nat) (s : State) : State :=
  let u := pruneReaders line (foldLine line (Visited s launch line s))
  if cls = 2 then recordReader launch line u else u

theorem sound_readAt {s : State} {line : Nat} (h : Sound s line) (launch : Nat) (cls : BitVec 2) : Sound (readAt launch cls line s) line := by
  have hpruned := sound_pruneReaders (sound_foldLine (s := Visited s launch line s) h)
  rw [readAt]
  split
  · exact sound_recordReader launch hpruned
  · exact hpruned

/-- A read that neither stalls nor meets poison takes its version (R291). -/
theorem homeRead_of_sound {s : State} {launch line : Nat} {sec : Bool} {cls : BitVec 2} (hgo : readStalls s launch line = false)
    (hbad : (versionOf (readAt launch cls line s) launch sec cls line).2 = 0) (reads : LineMask) :
    homeRead launch sec cls line reads s
      = (readAt launch cls line s, .data (versionOf (readAt launch cls line s) launch sec cls line).1 0) := by
  have hmet : poisonMet 0 reads = false := by simp [poisonMet]
  rw [homeRead, hgo, noteHomeTraffic_touchPa]
  change (match versionOf (readAt launch cls line s) launch sec cls line with
    | (d, bad) => if poisonMet bad reads then (doomData launch line (readAt launch cls line s), ReadRes.poison)
      else (readAt launch cls line s, .data d bad)) = _
  generalize versionOf (readAt launch cls line s) launch sec cls line = v at hbad ⊢
  obtain ⟨d, bad⟩ := v
  subst hbad
  dsimp only
  rw [hmet]
  rfl

/-- A read leaves a fold, the end of readers and its own entry among them in the line's record, beside touched dies and traffic. -/
theorem readAt_frame (launch : Nat) (cls : BitVec 2) (line : Nat) (s : State) :
    readAt launch cls line s = { Visited s launch line s with
      homes.mem := (foldLine line s).homes.mem
      homes.lines := (readAt launch cls line s).homes.lines } := by
  have hfold := foldLine_congr (s := s) (t := Visited s launch line s) rfl rfl rfl rfl line
  have hprune := pruneReaders_congr (s := foldLine line (Visited s launch line s)) (t := foldLine line (Visited s launch line s)) rfl rfl line
  rw [readAt]
  split
  · rw [recordReader_frame, hprune, hfold]
  · rw [hprune, hfold]

theorem lineRec_readAt_of_ne (launch : Nat) (cls : BitVec 2) {line x : Nat} (s : State) (h : x ≠ line) :
    lineRec (readAt launch cls line s) x = lineRec s x := by
  have hpruned : lineRec (pruneReaders line (foldLine line (Visited s launch line s))) x = lineRec s x := by
    rw [lineRec_pruneReaders_of_ne _ h, lineRec_foldLine_of_ne _ h]
    rfl
  rw [readAt]
  split
  · rw [lineRec_recordReader_of_ne launch _ h, hpruned]
  · exact hpruned

end Sys2Proof.Machine
end

section
/-! SUPPORT. Reads at a home, held reductions, resent contributions and drained hub lines (R207, R208, R212, R235, R291, R297). -/

namespace Sys2Proof.Machine

/-! ## Reads -/

/-- What a read leaves of a state, its request having left. -/
def ReadDone (s : State) (launch line : Nat) (mem : List Host.Cell) (queue : List HomeReq) (t : State) : Prop :=
  t = Visited s launch line t
  ∧ t.homes = { s.homes with
      mem := mem
      lines := t.homes.lines
      queue := queue }
  ∧ ∀ x, x ≠ line → lineRec t x = lineRec s x

theorem readDone_readAt (s : State) (launch : Nat) (cls : BitVec 2) (line : Nat) (queue : List HomeReq) :
    ReadDone s launch line (foldLine line s).homes.mem queue { readAt launch cls line s with homes.queue := queue } := by
  have hframe := readAt_frame launch cls line s
  refine ⟨?_, ?_, fun x hx => lineRec_readAt_of_ne launch cls s hx⟩
  · rw [hframe]
    rfl
  · rw [hframe]
    rfl

/-- A region of loads of an escape line leaves with memory as it was (R212). -/
theorem lineRegionApply_loads {s : State} {i : Nat} {r : HomeReq} {accs : List RegionAcc} (h : EscapeRequest s i r (.region accs))
    (hloads : regionMask accs = 0) (hgo : readStalls s r.launch (lineNo r.pa) = false) :
    ∃ t, exec (.lineRegionApply (.other i)) s = .next t
      ∧ ReadDone s r.launch (lineNo r.pa) s.homes.mem (s.homes.queue.eraseIdx i) t := by
  obtain ⟨hfolded, -, hpoison⟩ := h.plain
  have hfold := foldLine_of_folded hfolded
  have hbad : (versionOf (readAt r.launch 1 (lineNo r.pa) s) r.launch r.sec 1 (lineNo r.pa)).2 = 0 := by
    have hat : readAt r.launch 1 (lineNo r.pa) s = pruneReaders (lineNo r.pa) (Visited s r.launch (lineNo r.pa) s) := by
      rw [readAt, foldLine_of_folded (s := Visited s r.launch (lineNo r.pa) s) hfolded]
      rfl
    rw [versionOf, if_pos rfl, hat, pruneReaders_poison]
    exact hpoison
  have happly : homeApply ⟨r.core, r.launch, r.sec, r.ord, r.cls⟩ r.pa (.region accs) s
      = (readAt r.launch 1 (lineNo r.pa) s,
          .done (regionLoadBytes (versionOf (readAt r.launch 1 (lineNo r.pa) s) r.launch r.sec 1 (lineNo r.pa)).1 accs)) := by
    rw [homeApply]
    simp only [h.escape, hloads, and_self, if_true, homeRead_of_sound hgo hbad]
  have hdone := readDone_readAt s r.launch 1 (lineNo r.pa) (s.homes.queue.eraseIdx i)
  rw [hfold] at hdone
  refine ⟨_, applyEvent_other h.queued h.writes h.offered rfl happly, ?_⟩
  rw [show (readAt r.launch 1 (lineNo r.pa) s).homes.queue = s.homes.queue by rw [readAt_frame]; rfl]
  exact hdone

/-- A read of another core leaves once it neither stalls nor meets poison (R291, R297). -/
theorem homeRead_other {s : State} {i n : Nat} {r : HomeReq} (hr : s.homes.queue[i]? = some r) (hop : r.op = .read n)
    (hgo : readStalls s r.launch (lineNo r.pa) = false) (hsound : Sound s (lineNo r.pa)) :
    ∃ t, exec (.homeRead (.other i)) s = .next t
      ∧ ReadDone s r.launch (lineNo r.pa) (foldLine (lineNo r.pa) s).homes.mem (s.homes.queue.eraseIdx i) t
      ∧ ∀ h, r.cls = 2 → hallOf s r.launch (linePkg (lineNo r.pa)) = some h →
        h.hall ∈ (lineRec t (lineNo r.pa)).readers ∨ (lineRec t (lineNo r.pa)).overflow = true := by
  refine ⟨{ readAt r.launch r.cls (lineNo r.pa) s with homes.queue := s.homes.queue.eraseIdx i }, ?_, readDone_readAt .., fun h hcls hh => ?_⟩
  · rw [exec_homeRead, execHomeRead]
    dsimp only
    rw [hr]
    simp only [hop, homeRead_of_sound hgo (versionOf_sound (sound_readAt hsound r.launch r.cls) r.launch r.sec r.cls)]
    rw [show (readAt r.launch r.cls (lineNo r.pa) s).homes.queue = s.homes.queue by rw [readAt_frame]; rfl]
  · have hat : readAt r.launch r.cls (lineNo r.pa) s
        = recordReader r.launch (lineNo r.pa) (pruneReaders (lineNo r.pa) (foldLine (lineNo r.pa) (Visited s r.launch (lineNo r.pa) s))) := by
      rw [readAt, if_pos hcls]
    have hmem := mem_readers_recordReader (s := pruneReaders (lineNo r.pa) (foldLine (lineNo r.pa) (Visited s r.launch (lineNo r.pa) s)))
      (launch := r.launch) (line := lineNo r.pa) (h := h) (by
        rw [pruneReaders_congr (s := foldLine (lineNo r.pa) (Visited s r.launch (lineNo r.pa) s)) rfl rfl, foldLine_frame]
        exact hh)
    rw [← hat] at hmem
    exact hmem

/-! ## Own loads -/

/-- A load of the modelled core that waits for nothing older. -/
theorem homeRead_own {s : State} {i : Nat} {l : LoadEntry} (hl : s.core.mq.loads[i]? = some l) (hdest : l.dest ≠ .mark) (hdata : l.data = none)
    (hmark : behindMark s l = false) (hloads : behindLoads s l = false) (happlied : behindApplied s l = false) :
    (∀ bs, forward s l = some (some bs) → exec (.homeRead (.own i)) s = .next (setLoadData l.seq bs s))
    ∧ (forward s l = some none → exec (.homeRead (.own i)) s = .next s)
    ∧ ∀ s' bs, forward s l = none → readOwn (ownClass s l.va l.pa) (lineNo l.pa) (lineOff l.pa) l.size (loadUnit l) l.seq
        (touchPa s.core.launch l.pa s) = (s', .bytes bs) → exec (.homeRead (.own i)) s = .next (setLoadData l.seq bs s') := by
  have hwaits : (l.data.isSome || behindMark s l || behindLoads s l || behindApplied s l) = false := by
    rw [hdata, hmark, hloads, happlied]
    rfl
  refine ⟨fun bs h => ?_, fun h => ?_, fun s' bs h hread => ?_⟩ <;> rw [exec_homeRead, execHomeRead, performLoad, hl]
  · simp only [hdest, hwaits, h, Bool.false_eq_true, if_false]
  · simp only [hdest, hwaits, h, Bool.false_eq_true, if_false]
  · simp only [hdest, hwaits, h, hread, Bool.false_eq_true, if_false]

/-! ## Reductions held for a pair, and contributions offered again -/

theorem redoResend_due {s : State} {i : Nat} {r : HomeReq} {k : DWord} (hr : s.homes.queue[i]? = some r) (hre : r.refusedAt = some k)
    (hdue : 1000 ≤ (s.now - k).toNat) :
    exec (.redoResend i) s = .next { s with homes.queue := s.homes.queue.set i { r with refusedAt := none } } := by
  rw [exec_redoResend, execRedoResend, hr]
  simp only [hre]
  rw [if_neg (by omega)]

/-- A slot is there. -/
theorem makeSlot_of_room {line launch : Nat} {s : State} (hroom : spillUsed s line < spillSlots) (n : Nat) :
    makeSlot (n + 1) line launch s = s := by
  rw [makeSlot, if_pos]
  rw [decide_eq_true hroom, Bool.or_true]

theorem noteWindow_frame (line pa : Nat) (s : State) : noteWindow line pa s = { s with homes.lines := (noteWindow line pa s).homes.lines } := by
  rw [noteWindow]
  split <;> rfl

/-- The state in which a home holds a reduction of a paired launch (R207). -/
def heldAt (r : HomeReq) (s : State) : State :=
  touchPa r.launch (lineNo r.pa * 128) (if r.cls = 1 then s else noteWindow (lineNo r.pa) r.pa s)

theorem heldAt_frame (r : HomeReq) (s : State) : (heldAt r s).sched.halls = s.sched.halls
    ∧ (heldAt r s).homes.heldReds = s.homes.heldReds ∧ (heldAt r s).homes.queue = s.homes.queue := by
  have hwindow : (if r.cls = 1 then s else noteWindow (lineNo r.pa) r.pa s)
      = { s with homes.lines := (if r.cls = 1 then s else noteWindow (lineNo r.pa) r.pa s).homes.lines } := by
    split
    · rfl
    · exact noteWindow_frame ..
  rw [heldAt, touchPa_frame, hwindow]
  exact ⟨rfl, rfl, rfl⟩

theorem launchOf_noteWindow (line pa k : Nat) (s : State) : launchOf (noteWindow line pa s) k = launchOf s k := by
  rw [noteWindow_frame]
  rfl

theorem apply_launchOf_heldAt {α : Type} (g : LaunchRec → α) (hg : ∀ pkg die l, g (touchedRec pkg die l) = g l) (r : HomeReq) (k : Nat)
    (s : State) : g (launchOf (heldAt r s) k) = g (launchOf s k) := by
  rw [heldAt, apply_launchOf_touchPa g hg]
  split
  · rfl
  · rw [launchOf_noteWindow]

theorem redApply_held {s : State} {i : Nat} {r : HomeReq} {rop : RedOp} {d : LineData} {m : LineMask} {k : Nat}
    (hr : s.homes.queue[i]? = some r) (hop : r.op = .write (.red rop d m k)) (hre : r.refusedAt = none)
    (hpair : (launchOf s r.launch).pair ≠ 0) (hfloat : rop ≠ .i32) (hlive : writerLive s r.launch (linePkg (lineNo r.pa)) = true)
    (hroom : spillUsed (heldAt r s) (lineNo r.pa) < spillSlots) :
    exec (.redApply (.other i)) s = .next { heldAt r s with
      homes.heldReds := s.homes.heldReds ++ [⟨r.launch, r.sec, r.ord, k, lineNo r.pa, r.cls, rop, d, m⟩]
      homes.queue := s.homes.queue.eraseIdx i } := by
  obtain ⟨hhalls, hreds, hqueue⟩ := heldAt_frame r s
  have hlive' : writerLive (heldAt r s) r.launch (linePkg (lineNo r.pa)) = true :=
    (writerLive_congr (apply_launchOf_heldAt (·.phase) (fun _ _ _ => rfl) r r.launch s) hhalls _).trans hlive
  have hpair' : (launchOf (if r.cls = 1 then s else noteWindow (lineNo r.pa) r.pa s) r.launch).pair ≠ 0 := by
    split
    · exact hpair
    · rwa [launchOf_noteWindow]
  have happly : homeApply ⟨r.core, r.launch, r.sec, r.ord, r.cls⟩ r.pa (.red rop d m k) s
      = ({ heldAt r s with homes.heldReds := (heldAt r s).homes.heldReds ++ [⟨r.launch, r.sec, r.ord, k, lineNo r.pa, r.cls, rop, d, m⟩] },
          .done []) := by
    rw [homeApply]
    dsimp only
    rw [if_pos ⟨hpair', hfloat⟩, ← heldAt, overflowRounds, makeSlot_of_room hroom, hlive']
    rfl
  exact (applyEvent_other hr hop hre rfl happly).trans (by rw [hreds, hqueue])

/-! ## Hub lines -/

theorem hubLineDrain_lands {s : State} {i : Nat} {h : HubLine} (hwf : Memory.wf s.homes.mem = true)
    (hfind : s.homes.hubs.find? (fun h => h.hub.toNat == i) = some h) (hcls : h.cls = 1)
    (hnear : isHostPa (h.line * 128) = true ∨ linePkg h.line = h.hub.extractLsb' 6 7) {b : State}
    (hb : b = touchPa h.launch (h.line * 128) { s with homes.hubs := s.homes.hubs.filter (fun x => x != h) }) (hplain : Plain b h.line)
    (hlive : writerLive s 0 (linePkg h.line) = true) (hfree : ∀ u ∈ h.unpushed, heldBytes s u.core u.launch h.line = false) :
    ∃ t, exec (.hubLineDrain i) s = .next (noteCxl (h.hub.extractLsb' 6 7) h.line 0 t)
      ∧ Becomes b 0 h.line (lineMerge (memLine s h.line) h.data h.mask) h.mask s.homes.queue t := by
  have hframe := touchPa_frame h.launch (h.line * 128) { s with homes.hubs := s.homes.hubs.filter (fun x => x != h) }
  rw [← hb] at hframe
  have hbwf : Memory.wf b.homes.mem = true := by rw [hframe]; exact hwf
  have hmem : memLine b h.line = memLine s h.line := memLine_congr (by rw [hframe]) (by rw [hframe]) _
  have hqueue : b.homes.queue = s.homes.queue := by rw [hframe]
  have hlive' : writerLive b 0 (linePkg h.line) = true := by
    refine (writerLive_congr ?_ (by rw [hframe]) _).trans hlive
    rw [hb]
    exact apply_launchOf_touchPa (·.phase) (fun _ _ _ => rfl) _ _ _ _
  have hpkg : (!isHostPa (h.line * 128) && linePkg h.line != h.hub.extractLsb' 6 7) = false := by
    obtain hn | hn := hnear <;> simp [hn]
  have hheld : h.unpushed.any (fun u => heldBytes s u.core u.launch h.line) = false := by simpa using hfree
  have hdrain : hubDrain h s
      = (noteCxl (h.hub.extractLsb' 6 7) h.line 0 (written 0 h.line (lineMerge (memLine s h.line) h.data h.mask) h.mask b), true) := by
    rw [hubDrain]
    dsimp only
    rw [hpkg, hheld, ← hb, hcls, if_pos rfl, homeWrite_committed hplain (.inr hlive'), hmem]
    rfl
  refine ⟨_, ?_, hqueue ▸ becomes_written hbwf 0 h.line _ h.mask⟩
  rw [exec_hubLineDrain, execHubLineDrain, hfind]
  dsimp only
  rw [hdrain]

end Sys2Proof.Machine
end

section
/-! SUPPORT. Ordered reductions applied at a home (R208). -/

namespace Sys2Proof.Machine

/-! ## What a write of committed state looks at -/

/-- A written state in the terms of another that agrees in what the write looks at. -/
theorem written_congr {s b : State} {launch line : Nat} (hsys : (touchPa launch (line * 128) b).core.sys = (touchPa launch (line * 128) s).core.sys)
    (hls : (touchPa launch (line * 128) b).sched.launches = (touchPa launch (line * 128) s).sched.launches)
    (hseen : b.net.homeSeen = s.net.homeSeen) (hnow : b.now = s.now) (hmem : b.homes.mem = s.homes.mem) (hlines : b.homes.lines = s.homes.lines)
    (hlayers : b.homes.layers = s.homes.layers) (hhubs : b.homes.hubs = s.homes.hubs) (hhalls : b.sched.halls = s.sched.halls)
    (d : LineData) (m : LineMask) :
    written launch line d m b = { b with
      core.sys := (written launch line d m s).core.sys
      sched.launches := (written launch line d m s).sched.launches
      net.homeSeen := (written launch line d m s).net.homeSeen
      homes.mem := (written launch line d m s).homes.mem
      homes.lines := (written launch line d m s).homes.lines
      homes.layers := (written launch line d m s).homes.layers
      homes.hubs := (written launch line d m s).homes.hubs } := by
  have hrec : writtenRec line m b = writtenRec line m s := by
    have hpruned : lineRec (pruneReaders line b) line = lineRec (pruneReaders line s) line := by
      rw [pruneReaders_congr hlines hhalls]
      exact lineRec_congr rfl line
    rw [writtenRec, writtenRec, hpruned]
  have hcells := setMemLine_homes_mem_congr hmem line d
  have htraffic : (noteHomeTraffic line b).net.homeSeen = (noteHomeTraffic line s).net.homeSeen := by
    rw [noteHomeTraffic_congr hseen hnow]
  have hcopies := dropCopies_congr hlayers hhubs line
  have hdl : (dropCopies line b).1.homes.layers = (dropCopies line s).1.homes.layers := by rw [hcopies]
  have hdh : (dropCopies line b).1.homes.hubs = (dropCopies line s).1.homes.hubs := by rw [hcopies]
  simp only [written, Visited, setLineRec, hrec, hcells, htraffic, hsys, hls, hdl, hdh, hlines]

/-- A write of a line that its launch has reached already. -/
theorem written_touchPa (launch line : Nat) (d : LineData) (m : LineMask) (s : State) :
    written launch line d m (touchPa launch (line * 128) s) = written launch line d m s := by
  have hframe := touchPa_frame launch (line * 128) s
  rw [written_congr (s := s) (by rw [touchPa_idem]) (by rw [touchPa_idem]) (by rw [hframe]) (by rw [hframe]) (by rw [hframe]) (by rw [hframe])
    (by rw [hframe]) (by rw [hframe]) (by rw [hframe]), hframe]
  rfl

/-- An acknowledged contribution leaves its core's list, in its place or saved. -/
theorem redoAcked_congr {s b : State} (hcore : b.core.launch = s.core.launch ∧ b.core.sec = s.core.sec ∧ b.core.ord = s.core.ord)
    (hout : b.core.mq.redoOut = s.core.mq.redoOut) (hsaves : b.sched.saves = s.sched.saves) (launch : Nat) (sec : Bool) (ord : BitVec 24)
    (line : Nat) (g : Byte) :
    redoAcked launch sec ord line g b = { b with
      core.mq.redoOut := (redoAcked launch sec ord line g s).core.mq.redoOut
      sched.saves := (redoAcked launch sec ord line g s).sched.saves } := by
  obtain ⟨hlaunch, hsec, hord⟩ := hcore
  rw [redoAcked, redoAcked, hlaunch, hsec, hord]
  split
  · rw [← hout, ← hsaves]
  · rw [← hout, ← hsaves]

/-- A contribution that is acknowledged before or after the write of its line. -/
theorem redoAcked_written (launch line : Nat) (d : LineData) (m : LineMask) (l : Nat) (sec : Bool) (ord : BitVec 24) (n : Nat) (g : Byte)
    (after : RedoRound) (s : State) :
    setRound after (redoAcked l sec ord n g (written launch line d m s))
      = written launch line d m (setRound after (redoAcked l sec ord n g s)) := by
  have hself := redoAcked_congr (s := s) (b := s) ⟨rfl, rfl, rfl⟩ rfl rfl l sec ord n g
  have hview := touchView_touchPa (s := s) (t := setRound after (redoAcked l sec ord n g s)) (by rw [hself]; rfl) launch (line * 128)
  simp only [touchView, Prod.mk.injEq] at hview
  obtain ⟨-, -, hsys, hls⟩ := hview
  rw [written_congr (s := s) hsys hls (by rw [hself]; rfl) (by rw [hself]; rfl) (by rw [hself]; rfl) (by rw [hself]; rfl) (by rw [hself]; rfl)
    (by rw [hself]; rfl) (by rw [hself]; rfl), redoAcked_congr (s := s) (b := written launch line d m s) ⟨rfl, rfl, rfl⟩ rfl rfl, hself]
  rfl

/-! ## A contribution that is next in rank -/

theorem roundOf_line (s : State) (x : Sender) (line : Nat) (g : Byte) : (roundOf s x line g).line = line ∧ (roundOf s x line g).group = g := by
  rw [roundOf]
  cases h : s.homes.rounds.find? (fun r => r.launch == x.launch && r.sec == x.sec && r.line == line && r.group == g) with
  | none => exact ⟨rfl, rfl⟩
  | some r =>
    have hp := List.find?_some h
    simp only [Bool.and_eq_true, beq_iff_eq] at hp
    exact ⟨hp.1.2, hp.2⟩

/-- The round after a contribution that was next in rank. -/
def nextRound (q : RedoRound) (size : Nat) : RedoRound :=
  if q.next + 1 = size then { q with next := 0, round := q.round + 1 } else { q with next := q.next + 1 }

/-- A round with nothing held stops at its next rank. -/
theorem redoAdvance_of_nothing_held {x : Sender} {size n : Nat} {q : RedoRound} (hheld : q.held = []) (hnext : q.next < size) (s : State) :
    redoAdvance (n + 1) x size q s = setRound q s := by
  rw [redoAdvance, if_neg (by omega), hheld]
  rfl

/-- The one contribution that a round holds is applied when it is next in rank (R208). -/
theorem redoAdvance_one {x : Sender} {size : Nat} {q : RedoRound} {h : HeldRedo} {s t : State} (hheld : q.held = [])
    (hnext : q.next < size) (hround : h.round = q.round) (hrank : h.rank = q.next)
    (happly : homeUpdate x q.line (redLine h.op h.data h.mask) h.mask h.mask (fun _ => []) s = (t, .done [])) :
    redoAdvance (size + 2) x size { q with held := [h] } s
      = setRound (nextRound q size) (redoAcked x.launch x.sec h.ord q.line q.group t) := by
  have hfind : [h].find? (fun y => y.round == q.round && y.rank == q.next) = some h := by
    simp [hround, hrank]
  have hgone : [h].filter (fun y => y != h) = q.held := by
    rw [hheld]
    simp
  rw [redoAdvance, if_neg (by show ¬ size ≤ q.next; omega)]
  dsimp only
  rw [hfind]
  dsimp only
  rw [happly, hgone]
  dsimp only
  rw [nextRound]
  split
  · rename_i hlast
    obtain ⟨n, rfl⟩ : ∃ n, size = n + 1 := ⟨q.next, hlast.symm⟩
    rw [redoAdvance, if_pos (by show n + 1 ≤ q.next + 1; omega)]
    exact redoAdvance_of_nothing_held (q := { q with next := 0, round := q.round + 1 }) hheld (Nat.succ_pos n) _
  · exact redoAdvance_of_nothing_held (q := { q with next := q.next + 1 }) hheld (by show q.next + 1 < size; omega) _

/-- A line that nothing stands in the way of, after it has been reached. -/
theorem plain_touchPa {s : State} {line : Nat} (h : Plain s line) (launch pa : Nat) : Plain (touchPa launch pa s) line := by
  obtain ⟨hfolded, hpushed, hpoison⟩ := h
  have hframe := touchPa_frame launch pa s
  have hrec : lineRec (touchPa launch pa s) line = lineRec s line := lineRec_congr (by rw [hframe]) line
  refine ⟨by rw [hrec]; exact hfolded, ?_, by rw [hrec]; exact hpoison⟩
  rw [dropCopies_congr (s := s) (by rw [hframe]) (by rw [hframe])]
  exact hpushed

/-- The home's answer to a contribution that is next in rank of a round that holds nothing. -/
theorem redoArrive_next {x : Sender} {line : Nat} {rop : RedOp} {d : LineData} {m : LineMask} {g : Byte} {ranges : List (Nat × Nat)}
    {q : RedoRound} {s t : State} (hgroup : groupOf (launchOf s x.launch) g = some ranges)
    (hq : roundOf s x line g = q) (hheld : q.held = []) (hnext : q.next = groupRank ranges x.ord.toNat)
    (hrank : groupRank ranges x.ord.toNat < groupSize ranges)
    (happly : homeUpdate x line (redLine rop d m) m m (fun _ => []) (touchPa x.launch (line * 128) s) = (t, .done [])) :
    redoArrive x line rop d m g s = (setRound (nextRound q (groupSize ranges)) (redoAcked x.launch x.sec x.ord line g t), .done []) := by
  obtain ⟨hline, hg⟩ := roundOf_line s x line g
  rw [hq] at hline hg
  have hgroup' : groupOf (launchOf (touchPa x.launch (line * 128) s) x.launch) g = some ranges := by
    rw [← hgroup]
    exact apply_launchOf_touchPa (fun l => groupOf l g) (fun _ _ _ => rfl) ..
  have hround : roundOf (touchPa x.launch (line * 128) s) x line g = q := by
    rw [touchPa_frame, ← hq]
    rfl
  have hlast := redoAdvance_one (h := ⟨q.round, q.next, rop, d, m, x.ord⟩) hheld (hnext ▸ hrank) rfl rfl (by rw [hline]; exact happly)
  rw [hline, hg] at hlast
  rw [redoArrive]
  dsimp only
  rw [hgroup']
  dsimp only
  rw [hround, hheld, ← hnext, happly, hline, hg]
  have hnot : (HomeOut.done [] == HomeOut.held) = false := by decide
  simp only [Nat.lt_irrefl, decide_false, List.any_nil, Bool.or_self, bne_self_eq_false, Bool.false_and, Bool.false_eq_true, if_false,
    hnot, Bool.and_false, List.nil_append, hlast]

theorem redoArrival_lands {s : State} {i : Nat} {r : HomeReq} {rop : RedOp} {d : LineData} {m : LineMask} {g : Byte} {ranges : List (Nat × Nat)}
    (h : EscapeRequest s i r (.redo rop d m g)) (hgroup : groupOf (launchOf s r.launch) g = some ranges) {q : RedoRound}
    (hq : roundOf s ⟨r.core, r.launch, r.sec, r.ord, r.cls⟩ (lineNo r.pa) g = q) (hheld : q.held = [])
    (hnext : q.next = groupRank ranges r.ord.toNat) (hrank : groupRank ranges r.ord.toNat < groupSize ranges) :
    ∃ t, exec (.redoArrival (.other i)) s = .next t
      ∧ Becomes (setRound (nextRound q (groupSize ranges)) (redoAcked r.launch r.sec r.ord (lineNo r.pa) g s)) r.launch (lineNo r.pa)
        (redLine rop d m (memLine s (lineNo r.pa))) m (s.homes.queue.eraseIdx i) t := by
  have hframe := touchPa_frame r.launch (lineNo r.pa * 128) s
  have hlive : writerLive (touchPa r.launch (lineNo r.pa * 128) s) r.launch (linePkg (lineNo r.pa)) = true :=
    (writerLive_congr (apply_launchOf_touchPa (·.phase) (fun _ _ _ => rfl) ..) (by rw [hframe]) _).trans h.live
  have hmem : memLine (touchPa r.launch (lineNo r.pa * 128) s) (lineNo r.pa) = memLine s (lineNo r.pa) :=
    memLine_congr (by rw [hframe]) (by rw [hframe]) _
  have happly := homeUpdate_committed (x := ⟨r.core, r.launch, r.sec, r.ord, r.cls⟩) h.escape (plain_touchPa h.plain r.launch (lineNo r.pa * 128))
    hlive (redLine rop d m) m m (fun _ => [])
  rw [hmem, written_touchPa] at happly
  have harrive := redoArrive_next hgroup hq hheld hnext hrank happly
  rw [redoAcked_written] at harrive
  have hself := redoAcked_congr (s := s) (b := s) ⟨rfl, rfl, rfl⟩ rfl rfl r.launch r.sec r.ord (lineNo r.pa) g
  have hhome : homeApply ⟨r.core, r.launch, r.sec, r.ord, r.cls⟩ r.pa (.redo rop d m g) s
      = redoArrive ⟨r.core, r.launch, r.sec, r.ord, r.cls⟩ (lineNo r.pa) rop d m g s := by
    rw [homeApply]
    simp only [h.escape, if_true]
  have hwf : Memory.wf (setRound (nextRound q (groupSize ranges)) (redoAcked r.launch r.sec r.ord (lineNo r.pa) g s)).homes.mem = true := by
    rw [hself]
    exact h.wf
  refine ⟨_, applyEvent_other h.queued h.writes h.offered rfl (hhome.trans harrive), ?_⟩
  have hlands := (becomes_written hwf r.launch (lineNo r.pa) (redLine rop d m (memLine s (lineNo r.pa))) m).withQueue (s.homes.queue.eraseIdx i)
  have hqueue : (redoAcked r.launch r.sec r.ord (lineNo r.pa) g s).homes.queue = s.homes.queue := by rw [hself]
  exact hqueue ▸ hlands

end Sys2Proof.Machine
end

section
/-! SUPPORT. The background sweep of a line (R290, R292, R293). -/

namespace Sys2Proof.Machine

/-- A folded line reads as the committed way that it held. -/
theorem memLine_foldLine {s : State} (hwf : Memory.wf s.homes.mem = true) (line : Nat) :
    memLine (foldLine line s) line = match (lineRec s line).versions.find? (fun w => w.kind == .committed) with
      | some w => w.data
      | none => memLine s line := by
  cases h : (lineRec s line).versions.find? (fun w => w.kind == .committed) with
  | none => rw [foldLine_of_none h]
  | some w =>
    rw [foldLine_of_some h]
    exact memLine_setMemLine hwf line w.data

theorem reclaim_line (s u : State) (line : Nat) : (reclaim s (lineRec u line)).line = line := lineRec_line u line

/-- A line that was never recorded has nothing to reclaim. -/
theorem reclaim_fresh (s : State) (line : Nat) : reclaim s (LineRec.fresh line) = LineRec.fresh line := rfl

/-- What the sweep makes of a line's record: `full` says whether home SRAM evicts it. -/
def sweptRec (r : LineRec) (full : Bool) : LineRec :=
  if full = true ∧ r.ways ≠ [] then { r with evicted := true, ways := [], spilled := r.versions } else r

theorem sweptRec_line (r : LineRec) (full : Bool) : (sweptRec r full).line = r.line := by
  rw [sweptRec]
  split <;> rfl

/-- Home SRAM evicts a line whose ways fit into the spill area. -/
theorem evictLine_of_room {s : State} {line : Nat} (n : Nat)
    (hroom : (reclaim s (lineRec s line)).ways ≠ [] → spillUsed (setLineRec (reclaim s (lineRec s line)) s) line
      + (reclaim s (lineRec s line)).ways.length ≤ spillSlots) :
    evictLine (n + 1) line s = setLineRec (sweptRec (reclaim s (lineRec s line)) true) s := by
  rw [evictLine]
  by_cases hways : (reclaim s (lineRec s line)).ways = []
  · rw [if_pos (by rw [hways]; rfl), sweptRec, if_neg (fun h => h.2 hways)]
  · rw [if_neg (by simpa using hways), if_pos (hroom hways), sweptRec, if_pos ⟨rfl, hways⟩, setLineRec_setLineRec]
    rfl

/-- The sweep's work on the line's record. -/
def sweepLine (line : Nat) (u : State) : State :=
  if !u.homes.lines.any (fun r => r.line == line) then u
  else if sramFull u line then evictLine (overflowRounds u) line u
  else setLineRec (reclaim u (lineRec u line)) u

/-- The sweep changes the line's record alone. -/
theorem sweepLine_result {u : State} {line : Nat} {full : Bool}
    (hfull : full = (sramFull u line && u.homes.lines.any (fun x => x.line == line)))
    (hroom : full = true → (reclaim u (lineRec u line)).ways ≠ [] → spillUsed (setLineRec (reclaim u (lineRec u line)) u) line
      + (reclaim u (lineRec u line)).ways.length ≤ spillSlots) :
    sweepLine line u = { u with homes.lines := (sweepLine line u).homes.lines }
      ∧ (∀ x, x ≠ line → lineRec (sweepLine line u) x = lineRec u x)
      ∧ lineRec (sweepLine line u) line = sweptRec (reclaim u (lineRec u line)) full := by
  have hset : ∀ r : LineRec, r.line = line → sweepLine line u = setLineRec r u → r = sweptRec (reclaim u (lineRec u line)) full →
      sweepLine line u = { u with homes.lines := (sweepLine line u).homes.lines }
        ∧ (∀ x, x ≠ line → lineRec (sweepLine line u) x = lineRec u x)
        ∧ lineRec (sweepLine line u) line = sweptRec (reclaim u (lineRec u line)) full := by
    intro r hline hsweep hr
    rw [hsweep, ← hr]
    exact ⟨rfl, fun x hx => lineRec_setLineRec_of_ne u fun e => hx (e.trans hline), lineRec_setLineRec_same hline u⟩
  cases hany : u.homes.lines.any (fun x => x.line == line) with
  | false =>
    rw [hany, Bool.and_false] at hfull
    have hfresh : lineRec u line = LineRec.fresh line := by
      rw [lineRec, List.find?_eq_none.mpr (by simpa using hany)]
      rfl
    have hsweep : sweepLine line u = u := by rw [sweepLine, hany]; rfl
    rw [hsweep, hfresh, reclaim_fresh, hfull, sweptRec, if_neg (fun h => by simp at h)]
    exact ⟨rfl, fun _ _ => rfl, rfl⟩
  | true =>
    rw [hany, Bool.and_true] at hfull
    cases hsram : sramFull u line with
    | true =>
      rw [hsram] at hfull
      refine hset _ ((sweptRec_line _ true).trans (reclaim_line u u line)) ?_ (by rw [hfull])
      rw [sweepLine, hany, hsram]
      exact evictLine_of_room _ (hroom hfull)
    | false =>
      rw [hsram] at hfull
      refine hset _ (reclaim_line u u line) (by rw [sweepLine, hany, hsram]; rfl) ?_
      rw [hfull, sweptRec, if_neg (fun h => by simp at h)]

/-- Hallmarks that are freed have ended. -/
theorem mem_freeHalls {pkg : BitVec 7} {s : State} {h : HallEntry} (hh : h ∈ s.sched.halls) :
    h ∈ (freeHalls pkg s).sched.halls ∨ (h.pkg = pkg ∧ (h.state = .folding ∨ h.state = .discarding)) := by
  by_cases hend : h.pkg = pkg ∧ (h.state = .folding ∨ h.state = .discarding)
  · exact .inr hend
  · refine .inl (List.mem_filter.mpr ⟨hh, ?_⟩)
    have hno : (h.pkg == pkg && (h.state == .folding || h.state == .discarding)) = false := by simpa using hend
    rw [hno]
    rfl

theorem homeSweep_result {s : State} (hwf : Memory.wf s.homes.mem = true) (line : Nat) :
    let folded := foldLine line s
    let r := reclaim folded (lineRec folded line)
    let out := sramFull folded line && folded.homes.lines.any (fun x => x.line == line)
    (out = true → r.ways ≠ [] → spillUsed (setLineRec r folded) line + r.ways.length ≤ spillSlots) →
    ∃ t, exec (.homeSweep line) s = .next t
    ∧ memLine t line = (match (lineRec s line).versions.find? (fun w => w.kind == .committed) with
      | some w => w.data
      | none => memLine s line)
    ∧ t = { s with
        homes.mem := (foldLine line s).homes.mem
        homes.lines := t.homes.lines
        sched.halls := t.sched.halls }
    ∧ (∀ x, x ≠ line → lineRec t x = lineRec s x)
    ∧ lineRec t line = (if out = true ∧ r.ways ≠ [] then { r with evicted := true, ways := [], spilled := r.versions } else r)
    ∧ ∀ h ∈ s.sched.halls, h ∈ t.sched.halls ∨ (h.pkg = linePkg line ∧ (h.state = .folding ∨ h.state = .discarding)) := by
  intro folded r out hroom
  obtain ⟨hframe, hothers, hrec⟩ := sweepLine_result (u := folded) (full := out) rfl hroom
  have hfold : folded = _ := foldLine_frame line s
  refine ⟨freeHalls (linePkg line) (sweepLine line folded), rfl, ?_, ?_, fun x hx => ?_, hrec, fun h hh => mem_freeHalls ?_⟩
  · rw [← memLine_foldLine hwf]
    exact memLine_congr (by rw [hframe]; rfl) (by rw [hframe]; rfl) line
  · rw [hframe, hfold]
    rfl
  · exact (hothers x hx).trans (lineRec_foldLine_of_ne s hx)
  · rw [hframe, hfold]
    exact hh

end Sys2Proof.Machine
end

section
/-! SUPPORT. What a home makes of what arrives (R200-R212, R226, R235, R291, R292). -/

namespace Sys2Proof.Machine

/-- Settles O53: each event is the home's write or read of the line, whose state after it is known as a whole. -/
theorem homesApply : Obligations.HomesApply := by
  unfold Obligations.HomesApply
  intro s i hwf
  refine ⟨fun r op hr hop hre hcls hplain hlive => ?_, fun r rop d m k hr hop hre hpair hfloat hlive hroom =>
      redApply_held hr hop hre hpair hfloat hlive hroom,
    fun r n hr hop hgo hpoison hways => ?_, fun l hl hdest hdata hmark hloads happlied =>
      homeRead_own hl hdest hdata hmark hloads happlied,
    fun r k hr hre hdue => redoResend_due hr hre hdue, fun h hfind hcls hnear hplain hlive hfree =>
      hubLineDrain_lands hwf hfind hcls hnear rfl hplain hlive hfree, homeSweep_result hwf⟩
  · have hreq : EscapeRequest s i r op := ⟨hwf, hr, hop, hre, hcls, hplain, hlive⟩
    refine ⟨?_, ?_, ?_, ?_, ?_, ?_⟩
    · rintro cells rfl
      exact storeApply_lands hreq
    · rintro aop dbl x y q rfl
      exact atomicApply_lands hreq
    · rintro rop d m k rfl hfree
      exact redApply_lands hreq hfree
    · rintro accs rfl hstores
      exact lineRegionApply_lands hreq hstores
    · rintro accs rfl hloads hgo
      obtain ⟨t, hexec, hframe, hhomes, hothers⟩ := lineRegionApply_loads hreq hloads hgo
      exact ⟨t, hexec, hframe, hhomes, hothers⟩
    · rintro rop d m g ranges rfl hgroup q after hheld hnext hrank
      exact redoArrival_lands hreq hgroup rfl hheld hnext hrank
  · obtain ⟨t, hexec, ⟨hframe, hhomes, hothers⟩, hreaders⟩ := homeRead_other hr hop hgo ⟨hpoison, hways⟩
    exact ⟨t, hexec, hframe, hhomes, hothers, hreaders⟩

end Sys2Proof.Machine
end

section
/-! SUPPORT. Reads of the host, reserved windows and translations (R228, R232, R233, R248, R249, R313, R372). -/

namespace Sys2Proof.Machine

/-! ## Addresses of the host -/

theorem reservedPa_of_lt {pa : Nat} (hlt : pa < 2 ^ 52) (h4 : paCls pa ≠ 4) (h5 : paCls pa ≠ 5) : reservedPa pa = false := by
  simp [reservedPa, h4, h5]
  omega

theorem host_at_reserved {s : State} {pa : Nat} (h : 2 ^ 52 ≤ pa ∨ paCls pa = 4 ∨ paCls pa = 5) (len : Nat) (bytes : List Byte) :
    exec (.hostRead pa len) s = .fault (.reservedWindow pa) ∧ exec (.hostWrite pa bytes) s = .fault (.reservedWindow pa) := by
  have hres : reservedPa pa = true := by
    rw [reservedPa]
    obtain h | h | h := h
    · rw [decide_eq_true h]
      rfl
    · rw [h]
      simp
    · rw [h]
      simp
  refine ⟨?_, ?_⟩
  · rw [exec_hostRead, execHostRead]
    dsimp only
    rw [if_pos hres]
  · rw [exec_hostWrite, execHostWrite, if_pos hres]

/-- An access within one line has one part. -/
theorem lineSpans_of_in_line {pa n : Nat} (hn : n ≠ 0) (hline : lineOff pa + n ≤ 128) : lineSpans n pa n = [(pa, n)] := by
  obtain ⟨k, rfl⟩ := Nat.exists_eq_succ_of_ne_zero hn
  rw [lineSpans, if_neg hn, Nat.min_eq_left (by omega), Nat.sub_self]
  cases k with
  | zero => rfl
  | succ k => rw [lineSpans, if_pos rfl]

/-! ## Reads of device memory -/

theorem hostReadLine_frame (line : Nat) (s : State) :
    hostReadLine line s = { s with
      homes.mem := (foldLine line s).homes.mem
      homes.lines := (hostReadLine line s).homes.lines
      net.homeSeen := (hostReadLine line s).net.homeSeen } := by
  rw [hostReadLine]
  dsimp only
  rw [pruneReaders_congr (s := foldLine line (noteHomeTraffic line s)) rfl rfl,
    foldLine_congr (s := s) (by rw [noteHomeTraffic_congr rfl rfl]) (by rw [noteHomeTraffic_congr rfl rfl]) (by rw [noteHomeTraffic_congr rfl rfl])
      (by rw [noteHomeTraffic_congr rfl rfl]), noteHomeTraffic_congr rfl rfl]
  rfl

theorem hostBit_hostReadLine (line : Nat) (s : State) : (lineRec (hostReadLine line s) line).hostBit = true := by
  rw [hostReadLine]
  dsimp only
  rw [lineRec_setLineRec_same (by exact lineRec_line _ line)]

theorem lineRec_hostReadLine_of_ne {line x : Nat} (s : State) (h : x ≠ line) : lineRec (hostReadLine line s) x = lineRec s x := by
  rw [hostReadLine]
  dsimp only
  rw [lineRec_setLineRec_of_ne _ (by exact fun e => h (e.trans (lineRec_line _ line))), lineRec_pruneReaders_of_ne _ h, lineRec_foldLine_of_ne _ h]
  exact lineRec_congr (by rw [noteHomeTraffic_congr rfl rfl]) x

/-- The lines of a host read in turn. -/
theorem hostReadLines_frame : ∀ (lines : List Nat) (s : State),
    lines.foldl (fun s x => hostReadLine x s) s = { s with
      homes.mem := (lines.foldl (fun s x => hostReadLine x s) s).homes.mem
      homes.lines := (lines.foldl (fun s x => hostReadLine x s) s).homes.lines
      net.homeSeen := (lines.foldl (fun s x => hostReadLine x s) s).net.homeSeen } := by
  intro lines
  induction lines with
  | nil => intro s; rfl
  | cons x lines ih =>
    intro s
    rw [List.foldl_cons]
    refine (ih (hostReadLine x s)).trans ?_
    generalize lines.foldl (fun s x => hostReadLine x s) (hostReadLine x s) = u
    rw [hostReadLine_frame]

theorem lineRec_hostReadLines_of_not_mem : ∀ (lines : List Nat) (s : State) {y : Nat}, y ∉ lines →
    lineRec (lines.foldl (fun s x => hostReadLine x s) s) y = lineRec s y := by
  intro lines
  induction lines with
  | nil => intro s y _; rfl
  | cons x lines ih =>
    intro s y hy
    rw [List.mem_cons, not_or] at hy
    rw [List.foldl_cons, ih _ hy.2, lineRec_hostReadLine_of_ne s hy.1]

/-- The host may hold every line that it has read. -/
theorem hostBit_hostReadLines (lines : List Nat) (s : State) (y : Nat) (hy : y ∈ lines ∨ (lineRec s y).hostBit = true) :
    (lineRec (lines.foldl (fun s x => hostReadLine x s) s) y).hostBit = true := by
  induction lines generalizing s with
  | nil => exact hy.resolve_left List.not_mem_nil
  | cons x lines ih =>
    rw [List.foldl_cons]
    refine ih (hostReadLine x s) ?_
    by_cases hx : y = x
    · rw [hx]
      exact .inr (hostBit_hostReadLine x s)
    · rw [lineRec_hostReadLine_of_ne s hx]
      exact hy.imp_left fun h => (List.mem_cons.mp h).resolve_left hx

/-- The lines that a host access reaches, in turn. -/
def linesOf (pa len : Nat) : List Nat := (lineSpans len pa len).map (fun x => lineNo x.1)

/-- Whether a host access meets poison. -/
def spansPoisoned (pa len : Nat) (s : State) : Bool :=
  (lineSpans len pa len).any (fun x => poisonMet (lineRec s (lineNo x.1)).poison (maskOf (lineOff x.1) x.2))

/-- The state after the lines of a host read, and what the host gets of it. -/
theorem hostRead_exec {s : State} {pa len : Nat} (hboot : 7 ≤ s.health.bootStep) (hlt : pa < 2 ^ 52) (hcls : paCls pa ≤ 3) (hlen : len ≠ 0)
    (hgo : ∀ x ∈ lineSpans len pa len, readStalls s 0 (lineNo x.1) = false) {u : State}
    (hu : (linesOf pa len).foldl (fun s x => hostReadLine x s) s = u) :
    exec (.hostRead pa len) s
      = .next (hostReceives pa (if spansPoisoned pa len u then [] else memBytes u pa len) (spansPoisoned pa len u) u) := by
  have hstall : (linesOf pa len).any (readStalls s 0) = false := by
    rw [linesOf, List.any_map, List.any_eq_false]
    intro x hx
    simpa using hgo x hx
  have hread : ¬ (s.health.bootStep < 7 ∨ len = 0 ∨ (linesOf pa len).any (readStalls s 0) = true) := by
    rw [hstall]
    simp only [hlen, Bool.false_eq_true, or_false, not_lt]
    exact hboot
  subst hu
  rw [exec_hostRead, execHostRead]
  dsimp only
  rw [reservedPa_of_lt hlt (by omega) (by omega), if_neg (by simp), if_neg (by omega), if_neg (by omega)]
  exact if_neg hread

/-- What the host receives is noted beside what its read has changed. -/
theorem hostReceives_frame {s u : State} (h : u = { s with homes.mem := u.homes.mem, homes.lines := u.homes.lines, net.homeSeen := u.net.homeSeen })
    (pa : Nat) (bs : List Byte) (bad : Bool) :
    hostReceives pa bs bad u = { s with
      homes.mem := (hostReceives pa bs bad u).homes.mem
      homes.lines := (hostReceives pa bs bad u).homes.lines
      net.homeSeen := (hostReceives pa bs bad u).net.homeSeen
      sched.host.received := (hostReceives pa bs bad u).sched.host.received } := by
  rw [hostReceives]
  conv_lhs => rw [h]

/-- A host read of device memory that does not stall. -/
theorem hostRead_device {s : State} {pa len : Nat} (hboot : 7 ≤ s.health.bootStep) (hlt : pa < 2 ^ 52) (hcls : paCls pa ≤ 3) (hlen : len ≠ 0)
    (hgo : ∀ x ∈ lineSpans len pa len, readStalls s 0 (lineNo x.1) = false) :
    ∃ t, exec (.hostRead pa len) s = .next t
      ∧ (∀ x ∈ lineSpans len pa len, (lineRec t (lineNo x.1)).hostBit = true)
      ∧ (∀ y, (∀ x ∈ lineSpans len pa len, lineNo x.1 ≠ y) → lineRec t y = lineRec s y)
      ∧ t = { s with
          homes.mem := t.homes.mem
          homes.lines := t.homes.lines
          net.homeSeen := t.net.homeSeen
          sched.host.received := t.sched.host.received }
      ∧ (let bad := (lineSpans len pa len).any (fun x => poisonMet (lineRec t (lineNo x.1)).poison (maskOf (lineOff x.1) x.2))
        t.sched.host.received = some (hostPort pa, pa, if bad then [] else memBytes t pa len, bad))
      ∧ (lineOff pa + len ≤ 128 → t.homes.mem = (foldLine (lineNo pa) s).homes.mem) := by
  obtain ⟨u, hu⟩ : ∃ u, (linesOf pa len).foldl (fun s x => hostReadLine x s) s = u := ⟨_, rfl⟩
  have hframe := hostReadLines_frame (linesOf pa len) s
  rw [hu] at hframe
  refine ⟨_, hostRead_exec hboot hlt hcls hlen hgo hu, fun x hx => ?_, fun y hy => ?_, ?_, rfl, fun hline => ?_⟩
  · have hbit := hostBit_hostReadLines (linesOf pa len) s (lineNo x.1) (.inl (List.mem_map_of_mem hx))
    rw [hu] at hbit
    exact hbit
  · have hrec := lineRec_hostReadLines_of_not_mem (linesOf pa len) s (y := y) fun hmem => by
      obtain ⟨x, hx, hxy⟩ := List.mem_map.mp hmem
      exact hy x hx hxy
    rw [hu] at hrec
    exact hrec
  · exact hostReceives_frame hframe pa _ _
  · have hmem := congrArg (·.homes.mem) (hostReadLine_frame (lineNo pa) s)
    rw [linesOf, lineSpans_of_in_line hlen hline] at hu
    rw [← show hostReadLine (lineNo pa) s = u from hu]
    exact hmem

/-! ## Reads of registers and of the host's own memory -/

theorem hostRead_registers {s : State} {pa : Nat} (hlt : pa < 2 ^ 52) (hcls : paCls pa = 7) (len : Nat) :
    exec (.hostRead pa len) s = .next (hostReceives pa (registerBytes s (paOff pa) len) false s) := by
  rw [exec_hostRead, execHostRead]
  dsimp only
  rw [reservedPa_of_lt hlt (by omega) (by omega), if_neg (by simp), if_pos hcls]

/-- A line of host memory of which no device copy holds unpushed bytes. -/
theorem pushHostLine_of_pushed {line : Nat} {s : State} (hhubs : ∀ h ∈ s.homes.hubs, h.line ≠ line)
    (hlayers : ∀ l ∈ s.homes.layers, l.line = line → l.unpushed = []) : pushHostLine line s = s := by
  have hkeep : s.homes.hubs.filter (fun h => h.line != line) = s.homes.hubs :=
    List.filter_eq_self.mpr fun h hh => by simpa using hhubs h hh
  have hnone : s.homes.hubs.filter (fun h => h.line == line) = [] := List.filter_eq_nil_iff.mpr fun h hh => by simpa using hhubs h hh
  have hclean : s.homes.layers.map (fun l => if l.line = line then { l with unpushed := [] } else l) = s.homes.layers := by
    refine (List.map_congr_left fun l hl => ?_).trans (List.map_id _)
    split
    · rename_i hline
      rw [← hlayers l hl hline]
      rfl
    · rfl
  have hpieces : (s.homes.layers.filter (fun l => l.line == line)).flatMap LayerLine.pieces = [] := by
    rw [List.flatMap_eq_nil_iff]
    intro l hl
    obtain ⟨hmem, hline⟩ := List.mem_filter.mp hl
    rw [LayerLine.pieces, hlayers l hmem (beq_iff_eq.mp hline), piecesOf]
  rw [pushHostLine, hkeep, hnone, hclean, hpieces]
  rfl

theorem hostRead_host {s : State} {pa len : Nat} (hlt : pa < 2 ^ 52) (hcls : paCls pa = 6)
    (hpushed : ∀ x ∈ lineSpans len pa len, (∀ h ∈ s.homes.hubs, h.line ≠ lineNo x.1)
      ∧ ∀ l ∈ s.homes.layers, l.line = lineNo x.1 → l.unpushed = []) :
    exec (.hostRead pa len) s = .next (hostReceives pa (memBytes s pa len) false s) := by
  have hfold : ∀ l : List (Nat × Nat), (∀ x ∈ l, x ∈ lineSpans len pa len) →
      (l.map (fun x => lineNo x.1)).foldl (fun s x => pushHostLine x s) s = s := by
    intro l
    induction l with
    | nil => intro _; rfl
    | cons x l ih =>
      intro hl
      obtain ⟨hhubs, hlayers⟩ := hpushed x (hl x (List.mem_cons_self ..))
      rw [List.map_cons, List.foldl_cons, pushHostLine_of_pushed hhubs hlayers]
      exact ih fun y hy => hl y (List.mem_cons_of_mem _ hy)
  rw [exec_hostRead, execHostRead]
  dsimp only
  rw [reservedPa_of_lt hlt (by omega) (by omega), if_neg (by simp), if_neg (by omega), if_pos hcls, hfold _ fun _ h => h]

/-! ## Back-invalidates and translations -/

theorem backInvalidateResponse_ends {s : State} {line : Nat} (h : (lineRec s line).backInv = true) :
    exec (.backInvalidateResponse line) s = .next (setLineRec { lineRec s line with backInv := false, hostBit := false } s) := by
  rw [exec_backInvalidateResponse, execBackInvalidateResponse]
  dsimp only
  rw [if_pos h]

/-- The newest entry of a TLB is found first. -/
theorem tlbFind_tlbFill {s : State} {launch va bits pa : Nat} {w : Bool} :
    tlbFind (tlbFill ⟨launch, va / 2 ^ bits * 2 ^ bits, bits, pa, w⟩ s).homes.tlb launch va
      = some ⟨launch, va / 2 ^ bits * 2 ^ bits, bits, pa, w⟩ := by
  refine List.find?_cons_of_pos ?_
  simp

/-- What a translation can do: leave the state, or fill the TLBs with the page that it has reached. -/
theorem translate_cases (va : Nat) (write : Bool) (s : State) :
    (translate va write s).1 = s
      ∨ ∃ bits pa w p, tlbAnswer s ⟨s.core.launch, va / 2 ^ bits * 2 ^ bits, bits, pa, w⟩ va write = .ok p
        ∧ translate va write s = (tlbFill ⟨s.core.launch, va / 2 ^ bits * 2 ^ bits, bits, pa, w⟩ s, .ok p) := by
  rw [translate]
  split
  · exact .inl rfl
  split
  · exact .inl rfl
  split
  · exact .inl rfl
  · rename_i pa bits w _
    dsimp only
    split
    · exact .inl rfl
    · rename_i p hok
      exact .inr ⟨bits, pa, w, p, hok, rfl⟩

/-- A walk fills the TLBs, and a translation that is made again finds what the first has left (R233). -/
theorem pageWalk_result {va : DWord} {write : Bool} {s s' : State} {r : Trans} (h : translate va.toNat write s = (s', r)) :
    exec (.pageWalk va write) s = .next s' ∧ s' = { s with homes.tlb := s'.homes.tlb, homes.layerTlb := s'.homes.layerTlb }
      ∧ (∀ x ∈ s'.homes.tlb, x ∈ s.homes.tlb ∨ x.launch = s.core.launch)
      ∧ ∀ pa, r = .ok pa → translate va.toNat write s' = (s', .ok pa) := by
  have hexec : exec (.pageWalk va write) s = .next s' := by rw [exec_pageWalk, execPageWalk, h]
  obtain hsame | ⟨bits, page, w, p, hok, hfill⟩ := translate_cases va.toNat write s
  · rw [h] at hsame
    have hs : s' = s := hsame
    subst hs
    exact ⟨hexec, rfl, fun x hx => .inl hx, fun pa hr => by rw [h, hr]⟩
  · rw [h, Prod.mk.injEq] at hfill
    obtain ⟨rfl, rfl⟩ := hfill
    refine ⟨hexec, rfl, fun x hx => ?_, fun pa hr => ?_⟩
    · obtain hx | hx := List.mem_cons.mp (List.mem_of_mem_take hx)
      · exact .inr (by rw [hx])
      · exact .inl hx
    · rw [← hr, ← hok, translate, show (tlbFill _ s).core.launch = s.core.launch from rfl, tlbFind_tlbFill]
      rfl

theorem tlbInvalidate_result (s : State) (l page : Nat) :
    ∃ t, exec (.tlbInvalidate l page) s = .next t
      ∧ t = { s with homes.tlb := t.homes.tlb, homes.layerTlb := t.homes.layerTlb }
      ∧ ∀ x : TlbEntry, (x ∈ t.homes.tlb ↔ x ∈ s.homes.tlb ∧ ¬ (x.launch = l ∧ x.base ≤ page ∧ page < x.base + 2 ^ x.bits))
        ∧ (x ∈ t.homes.layerTlb ↔ x ∈ s.homes.layerTlb ∧ ¬ (x.launch = l ∧ x.base ≤ page ∧ page < x.base + 2 ^ x.bits)) := by
  have hkeep : ∀ x : TlbEntry, (!(x.launch == l && decide (x.base ≤ page) && decide (page < x.base + 2 ^ x.bits))) = true
      ↔ ¬ (x.launch = l ∧ x.base ≤ page ∧ page < x.base + 2 ^ x.bits) := fun x => by
    simp only [Bool.not_eq_true', Bool.and_eq_false_iff, beq_eq_false_iff_ne, decide_eq_false_iff_not, not_and_or, or_assoc]
  exact ⟨_, rfl, rfl, fun x => ⟨by rw [← hkeep]; exact List.mem_filter, by rw [← hkeep]; exact List.mem_filter⟩⟩

end Sys2Proof.Machine
end

section
/-! SUPPORT. Accesses to the host's own memory: its writes, and its snoops of lines that the device holds (R248). -/

namespace Sys2Proof.Machine

/-! ## Host writes to the host's own memory -/

theorem paCanon_host {pa : Nat} (h : paCls pa = 6) : paCanon pa = 6 * 2 ^ 42 + paOff pa := by
  rw [paCanon, h]
  rfl

theorem isHostPa_paCanon {pa : Nat} (h : paCls pa = 6) : isHostPa (paCanon pa) = true := by
  have hoff := paOff_lt pa
  rw [paCanon_host h, isHostPa, beq_iff_eq, paCls]
  omega

/-- The bytes of an access that stays in a line of host memory follow each other. -/
theorem paCanon_add_host {pa k : Nat} (h : paCls pa = 6) (hk : lineOff pa + k < 128) :
    paCls (pa + k) = 6 ∧ paCanon (pa + k) = paCanon pa + k := by
  have hcls : paCls (pa + k) = 6 := by
    rw [lineOff] at hk
    rw [paCls] at h ⊢
    omega
  refine ⟨hcls, ?_⟩
  rw [paCanon_host hcls, paCanon_host h, paOff, paOff]
  rw [lineOff] at hk
  rw [paCls] at h hcls
  omega

/-- Memory after bytes have been written one by one. -/
theorem cellsGet_foldl_cellsSet (f : Nat → Byte) (a x : Nat) {m : List Host.Cell} (hwf : Memory.wf m = true) : ∀ n,
    cellsGet Config.memDefault ((List.range n).foldl (fun m i => cellsSet Config.memDefault (a + i) (f i) m) m) x
      = if a ≤ x ∧ x < a + n then f (x - a) else cellsGet Config.memDefault m x := by
  intro n
  induction n with
  | zero => rw [if_neg (by omega)]; rfl
  | succ n ih =>
    have hfold : Memory.wf ((List.range n).foldl (fun m i => cellsSet Config.memDefault (a + i) (f i) m) m) = true :=
      foldl_wf _ (fun m i hm => cellsSet_wf _ _ hm) _ _ hwf
    rw [List.range_succ, List.foldl_append, List.foldl_cons, List.foldl_nil, memory_read_after_write hfold, ih]
    by_cases hx : x = a + n
    · rw [if_pos hx, if_pos (by omega), show x - a = n by omega]
    · rw [if_neg hx]
      exact if_congr (by omega) rfl rfl

/-- Memory after bytes within a line of host memory have been written. -/
theorem cellsGet_memWrite_host {s : State} (hwf : Memory.wf s.homes.mem = true) {pa : Nat} {bytes : List Byte} (hcls : paCls pa = 6)
    (hline : lineOff pa + bytes.length ≤ 128) (x : Nat) :
    cellsGet Config.memDefault (memWrite pa bytes s).homes.mem x
      = if paCanon pa ≤ x ∧ x < paCanon pa + bytes.length then bytes.getD (x - paCanon pa) 0
        else cellsGet Config.memDefault s.homes.mem x := by
  have hput : ∀ m, ∀ i ∈ List.range bytes.length,
      (writeCells (paCanon (pa + i))).foldl (fun m a => cellsSet Config.memDefault a (bytes.getD i 0) m) m
        = cellsSet Config.memDefault (paCanon pa + i) (bytes.getD i 0) m := by
    intro m i hi
    have hlt := List.mem_range.mp hi
    obtain ⟨hcls', hcanon⟩ := paCanon_add_host hcls (k := i) (by omega)
    rw [writeCells_host (isHostPa_paCanon hcls'), hcanon]
    rfl
  rw [memWrite]
  dsimp only
  rw [List.foldl_ext _ _ _ hput, cellsGet_foldl_cellsSet (fun i => bytes.getD i 0) _ _ hwf]

/-- Where a byte of host memory is read. -/
theorem memByte_host (s : State) {pa : Nat} (h : paCls pa = 6) : memByte s pa = cellsGet Config.memDefault s.homes.mem (paCanon pa) := by
  have hcls : paCls (paCanon pa) = 6 := by simpa [isHostPa] using isHostPa_paCanon h
  rw [memByte, readCell, if_neg (by omega)]

/-- The bytes of an access to host memory, written. -/
theorem memByte_memWrite_host {s : State} (hwf : Memory.wf s.homes.mem = true) {pa : Nat} {bytes : List Byte} (hcls : paCls pa = 6)
    (hline : lineOff pa + bytes.length ≤ 128) :
    (∀ k, k < bytes.length → memByte (memWrite pa bytes s) (pa + k) = bytes.getD k 0)
      ∧ ∀ x, (∀ k, k < bytes.length → paCanon x ≠ paCanon (pa + k)) → memByte (memWrite pa bytes s) x = memByte s x := by
  refine ⟨fun k hk => ?_, fun x hx => ?_⟩
  · obtain ⟨hcls', hcanon⟩ := paCanon_add_host hcls (k := k) (by omega)
    rw [memByte_host _ hcls', cellsGet_memWrite_host hwf hcls hline, hcanon, if_pos (by omega), Nat.add_sub_cancel_left]
  · rw [memByte, cellsGet_memWrite_host hwf hcls hline, if_neg]
    · rfl
    · rintro ⟨hle, hlt⟩
      obtain ⟨k, hk⟩ := Nat.exists_eq_add_of_le hle
      have hkl : k < bytes.length := by omega
      obtain ⟨hcls', hcanon⟩ := paCanon_add_host hcls (k := k) (by omega)
      have hread := readCell_eq_host (isHostPa_paCanon hcls') (hk.trans hcanon.symm)
      exact hx k hkl hread

theorem hostWrite_host {s : State} (hwf : Memory.wf s.homes.mem = true) {pa : Nat} {bytes : List Byte} (hlt : pa < 2 ^ 52)
    (hcls : paCls pa = 6) (hline : lineOff pa + bytes.length ≤ 128) (hne : bytes ≠ []) (hpushed : (dropCopies (lineNo pa) s).2 = []) :
    ∃ t, exec (.hostWrite pa bytes) s = .next t
      ∧ (∀ k, k < bytes.length → memByte t (pa + k) = bytes.getD k 0)
      ∧ (∀ x, (∀ k, k < bytes.length → paCanon x ≠ paCanon (pa + k)) → memByte t x = memByte s x)
      ∧ t = { s with homes := { (dropCopies (lineNo pa) s).1.homes with mem := t.homes.mem, lines := t.homes.lines } }
      ∧ ∀ x, lineRec t x = if x = lineNo pa then { lineRec s x with sharers := 0 } else lineRec s x := by
  obtain ⟨hbytes, hothers⟩ := memByte_memWrite_host hwf hcls hline
  have hcopies := dropCopies_congr (s := s) (t := memWrite pa bytes s) rfl rfl (lineNo pa)
  have hexec : exec (.hostWrite pa bytes) s = .next (invalidateCopies (lineNo pa) (memWrite pa bytes s)) := by
    rw [exec_hostWrite, execHostWrite, reservedPa_of_lt hlt (by omega) (by omega), if_neg (by simp), if_pos (isHostPa_paCanon hcls),
      lineSpans_of_in_line (by simpa using hne) hline]
    rfl
  rw [invalidateCopies_of_pushed (by rw [hcopies]; exact hpushed), hcopies] at hexec
  refine ⟨_, hexec, fun k hk => ?_, fun x hx => ?_, rfl, fun x => ?_⟩
  · exact (memByte_congr rfl rfl _).trans (hbytes k hk)
  · exact (memByte_congr rfl rfl _).trans (hothers x hx)
  · by_cases hx : x = lineNo pa
    · rw [if_pos hx, hx, lineRec_setLineRec_same (by exact lineRec_line _ _)]
      rfl
    · rw [if_neg hx, lineRec_setLineRec_of_ne _ (by exact fun e => hx (e.trans (lineRec_line _ _)))]
      rfl

end Sys2Proof.Machine
end

section
/-! SUPPORT. Snoops of the host of lines that the device holds (R248). -/

namespace Sys2Proof.Machine

/-! ## Unpushed bytes of a line of host memory -/

/-- The state in which a home of host memory takes unpushed bytes. -/
def dirtyAt (line : Nat) (s : State) : State := pruneReaders line (foldLine line s)

theorem dirtyAt_frame (line : Nat) (s : State) :
    dirtyAt line s = { s with homes.mem := (foldLine line s).homes.mem, homes.lines := (dirtyAt line s).homes.lines } := by
  rw [dirtyAt]
  refine (pruneReaders_congr (s := foldLine line s) rfl rfl line).trans ?_
  generalize (pruneReaders line (foldLine line s)).homes.lines = ls
  conv_lhs => rw [foldLine_frame]

/-- Unpushed bytes go to host memory whatever else there is. -/
theorem applyDirty_host {d : Piece} (hhost : isHostPa (d.line * 128) = true) (s : State) :
    applyDirty d s = setLineRec (snoopHost { lineRec (dirtyAt d.line s) d.line with
        poison := clearPoison (lineRec (dirtyAt d.line s) d.line).poison d.mask })
      (setMemLine d.line (lineMerge (memLine (dirtyAt d.line s) d.line) d.data d.mask) (dirtyAt d.line s)) := by
  have hmet : poisonMet (lineRec (dirtyAt d.line s) d.line).poison 0 = false := by simp [poisonMet]
  rw [applyDirty, applyWrite, if_pos hhost, ← dirtyAt, plainWrite]
  dsimp only
  rw [hmet]
  rfl

theorem applyDirty_frame {d : Piece} (hhost : isHostPa (d.line * 128) = true) (s : State) :
    applyDirty d s = { s with homes.mem := (applyDirty d s).homes.mem, homes.lines := (applyDirty d s).homes.lines } := by
  rw [applyDirty_host hhost]
  generalize snoopHost _ = r
  generalize lineMerge _ _ _ = b
  rw [dirtyAt_frame]
  rfl

theorem memLine_foldLine_of_ne {s : State} (hwf : Memory.wf s.homes.mem = true) {line x : Nat} (hhost : isHostPa (line * 128) = true)
    (hx : x ≠ line) : memLine (foldLine line s) x = memLine s x := by
  cases h : (lineRec s line).versions.find? (fun w => w.kind == .committed) with
  | none => rw [foldLine_of_none h]
  | some w =>
    rw [foldLine_of_some h]
    exact (memLine_congr rfl rfl x).trans (memLine_setMemLine_of_ne hwf w.data hhost hx)

theorem memLine_dirtyAt (line x : Nat) (s : State) : memLine (dirtyAt line s) x = memLine (foldLine line s) x := by
  have hdirty := congrArg (·.health.lostDies) (dirtyAt_frame line s)
  have hfold := congrArg (·.health.lostDies) (foldLine_frame line s)
  exact memLine_congr (congrArg (·.homes.mem) (dirtyAt_frame line s)) (hdirty.trans hfold.symm) x

theorem dirtyAt_wf {s : State} (hwf : Memory.wf s.homes.mem = true) (line : Nat) : Memory.wf (dirtyAt line s).homes.mem = true := by
  rw [dirtyAt_frame]
  exact foldLine_wf hwf line

theorem applyDirty_wf {d : Piece} (hhost : isHostPa (d.line * 128) = true) {s : State} (hwf : Memory.wf s.homes.mem = true) :
    Memory.wf (applyDirty d s).homes.mem = true := by
  rw [applyDirty_host hhost]
  exact setMemLine_wf _ _ _ (dirtyAt_wf hwf d.line)

/-- They leave the other lines. -/
theorem memLine_applyDirty_of_ne {d : Piece} (hhost : isHostPa (d.line * 128) = true) {s : State} (hwf : Memory.wf s.homes.mem = true)
    {x : Nat} (hx : x ≠ d.line) : memLine (applyDirty d s) x = memLine s x := by
  rw [applyDirty_host hhost]
  refine (memLine_congr rfl rfl x).trans ((memLine_setMemLine_of_ne (dirtyAt_wf hwf d.line) _ hhost hx).trans ?_)
  rw [memLine_dirtyAt, memLine_foldLine_of_ne hwf hhost hx]

/-- Whether a line holds no committed way, so that C is its newest committed value. -/
def Folded (s : State) (line : Nat) : Prop := ∀ w ∈ (lineRec s line).versions, w.kind ≠ .committed

/-- Into a folded line they are merged, and it stays folded. -/
theorem memLine_applyDirty {d : Piece} (hhost : isHostPa (d.line * 128) = true) {s : State} (hwf : Memory.wf s.homes.mem = true)
    (hfolded : Folded s d.line) :
    memLine (applyDirty d s) d.line = lineMerge (memLine s d.line) d.data d.mask ∧ Folded (applyDirty d s) d.line := by
  have hfold := foldLine_of_folded hfolded
  have hline : ∀ p, (snoopHost { lineRec (dirtyAt d.line s) d.line with poison := p }).line = d.line := fun p =>
    (snoopHost_line _).trans (lineRec_line _ d.line)
  have hversions : ∀ r, (snoopHost r).versions = r.versions := fun r => by
    rw [snoopHost]
    split <;> rfl
  rw [applyDirty_host hhost]
  refine ⟨?_, ?_⟩
  · refine (memLine_congr rfl rfl d.line).trans ((memLine_setMemLine (dirtyAt_wf hwf d.line) _ _).trans ?_)
    rw [memLine_dirtyAt, hfold]
  · rw [Folded, lineRec_setLineRec_same (hline _), hversions]
    intro w hw
    have hin : w ∈ (lineRec (pruneReaders d.line (foldLine d.line s)) d.line).versions := hw
    rw [mem_versions_pruneReaders, hfold] at hin
    exact hfolded w hin

/-! ## Pieces in turn -/

theorem applyDirties_frame {line : Nat} (hhost : isHostPa (line * 128) = true) : ∀ (ps : List Piece), (∀ d ∈ ps, d.line = line) → ∀ s : State,
    ps.foldl (fun s d => applyDirty d s) s = { s with
      homes.mem := (ps.foldl (fun s d => applyDirty d s) s).homes.mem
      homes.lines := (ps.foldl (fun s d => applyDirty d s) s).homes.lines } := by
  intro ps
  induction ps with
  | nil => intro _ s; rfl
  | cons d ps ih =>
    intro hps s
    have hd := hps d (List.mem_cons_self ..)
    rw [List.foldl_cons]
    refine (ih (fun p hp => hps p (List.mem_cons_of_mem _ hp)) (applyDirty d s)).trans ?_
    generalize ps.foldl (fun s d => applyDirty d s) (applyDirty d s) = u
    rw [applyDirty_frame (by rw [hd]; exact hhost)]

theorem memLine_applyDirties_of_ne {line x : Nat} (hhost : isHostPa (line * 128) = true) (hx : x ≠ line) : ∀ (ps : List Piece),
    (∀ d ∈ ps, d.line = line) → ∀ s : State, Memory.wf s.homes.mem = true →
    memLine (ps.foldl (fun s d => applyDirty d s) s) x = memLine s x := by
  intro ps
  induction ps with
  | nil => intro _ s _; rfl
  | cons d ps ih =>
    intro hps s hwf
    have hd := hps d (List.mem_cons_self ..)
    have hhd : isHostPa (d.line * 128) = true := by rw [hd]; exact hhost
    rw [List.foldl_cons, ih (fun p hp => hps p (List.mem_cons_of_mem _ hp)) _ (applyDirty_wf hhd hwf),
      memLine_applyDirty_of_ne hhd hwf (by rw [hd]; exact hx)]

/-- Pieces of one copy of a folded line: together they merge the copy's bytes of all their masks. -/
theorem memLine_applyDirties {line : Nat} {data : LineData} (hhost : isHostPa (line * 128) = true) : ∀ (ps : List Piece),
    (∀ d ∈ ps, d.line = line ∧ d.data = data) → ∀ (s : State) (old : LineData) (m : LineMask), Memory.wf s.homes.mem = true → Folded s line →
    memLine s line = lineMerge old data m →
    memLine (ps.foldl (fun s d => applyDirty d s) s) line = lineMerge old data (ps.foldl (fun m d => m ||| d.mask) m) := by
  intro ps
  induction ps with
  | nil => intro _ s old m _ _ h; exact h
  | cons d ps ih =>
    intro hps s old m hwf hfolded hmem
    obtain ⟨rfl, rfl⟩ := hps d (List.mem_cons_self ..)
    obtain ⟨hline, hstays⟩ := memLine_applyDirty hhost hwf hfolded
    rw [hmem, lineMerge_lineMerge] at hline
    exact ih (fun p hp => hps p (List.mem_cons_of_mem _ hp)) _ old _ (applyDirty_wf hhost hwf) hstays hline

/-! ## The pieces of a copy -/

theorem piecesOf_same {sec : Bool} {cls : BitVec 2} {line : Nat} {data : LineData} : ∀ (l : List Unpushed) (seen : LineMask),
    ∀ d ∈ piecesOf sec cls line data l seen, d.line = line ∧ d.data = data := by
  intro l
  induction l with
  | nil => intro seen d hd; exact absurd hd List.not_mem_nil
  | cons u l ih =>
    intro seen d hd
    rw [piecesOf] at hd
    split at hd
    · exact ih seen d hd
    · obtain rfl | hd := List.mem_cons.mp hd
      · exact ⟨rfl, rfl⟩
      · exact ih _ d hd

/-- The masks of the pieces cover what is unpushed, but for what has been seen. -/
theorem any_piecesOf_mask {sec : Bool} {cls : BitVec 2} {line : Nat} {data : LineData} {k : Nat} (hk : k < 128) : ∀ (l : List Unpushed)
    (seen : LineMask), (piecesOf sec cls line data l seen).any (fun d => d.mask.getLsbD k)
      = (l.any (fun u => u.mask.getLsbD k) && !seen.getLsbD k) := by
  intro l
  induction l with
  | nil => intro seen; rfl
  | cons u l ih =>
    intro seen
    have hbit : (u.mask &&& ~~~seen).getLsbD k = (u.mask.getLsbD k && !seen.getLsbD k) := by
      rw [BitVec.getLsbD_and, BitVec.getLsbD_not, decide_eq_true hk, Bool.true_and]
    rw [piecesOf]
    split
    · rename_i hzero
      rw [hzero, BitVec.ofNat_eq_ofNat, BitVec.getLsbD_zero] at hbit
      rw [ih, List.any_cons, Bool.and_or_distrib_right, ← hbit, Bool.false_or]
    · rw [List.any_cons, ih, hbit, List.any_cons, BitVec.getLsbD_or, hbit]
      cases u.mask.getLsbD k <;> cases seen.getLsbD k <;> simp

/-- All the pieces of a hub line together. -/
theorem foldl_pieces_mask (h : HubLine) : h.pieces.foldl (fun m d => m ||| d.mask) 0 = h.mask := by
  refine BitVec.eq_of_getLsbD_eq fun k hk => ?_
  rw [getLsbD_foldl_mask (fun d : Piece => d.mask), HubLine.mask, unpushedMask, getLsbD_foldl_mask (fun u : Unpushed => u.mask), HubLine.pieces,
    any_piecesOf_mask hk]
  simp

/-! ## The snoop -/

/-- The device's copies of a line of host memory, but for their unpushed bytes. -/
def snoopedCopies (line : Nat) (s : State) : State :=
  { s with
    homes.hubs := s.homes.hubs.filter (fun h => h.line != line)
    homes.layers := s.homes.layers.map (fun l => if l.line = line then { l with unpushed := [] } else l) }

/-- What they held unpushed. -/
def snoopedPieces (line : Nat) (s : State) : List Piece :=
  (s.homes.hubs.filter (fun h => h.line == line)).flatMap HubLine.pieces
    ++ (s.homes.layers.filter (fun l => l.line == line)).flatMap LayerLine.pieces

theorem snoopedPieces_line (line : Nat) (s : State) : ∀ d ∈ snoopedPieces line s, d.line = line := by
  intro d hd
  obtain hd | hd := List.mem_append.mp hd
  · obtain ⟨h, hh, hd⟩ := List.mem_flatMap.mp hd
    exact (piecesOf_same _ _ d hd).1.trans (beq_iff_eq.mp (List.mem_filter.mp hh).2)
  · obtain ⟨l, hl, hd⟩ := List.mem_flatMap.mp hd
    exact (piecesOf_same _ _ d hd).1.trans (beq_iff_eq.mp (List.mem_filter.mp hl).2)

/-- The copies that an invalidating snoop leaves are those of other lines. -/
theorem filter_snoopedLayers (line : Nat) (ls : List LayerLine) :
    (ls.map (fun l => if l.line = line then { l with unpushed := [] } else l)).filter (fun l => l.line != line)
      = ls.filter (fun l => l.line != line) := by
  induction ls with
  | nil => rfl
  | cons l ls ih =>
    rw [List.map_cons]
    by_cases hl : l.line = line
    · rw [if_pos hl, List.filter_cons_of_neg (by simp [hl]), List.filter_cons_of_neg (by simp [hl]), ih]
    · rw [if_neg hl, List.filter_cons_of_pos (by simp [hl]), List.filter_cons_of_pos (by simp [hl]), ih]

/-- The pieces applied after the copies have given them up. -/
def snooped (line : Nat) (s : State) : State := (snoopedPieces line s).foldl (fun s d => applyDirty d s) (snoopedCopies line s)

theorem snooped_frame {line : Nat} (hhost : isHostPa (line * 128) = true) (s : State) :
    snooped line s = { snoopedCopies line s with homes.mem := (snooped line s).homes.mem, homes.lines := (snooped line s).homes.lines } :=
  applyDirties_frame hhost _ (snoopedPieces_line line s) _

/-- The one copy that a folded line has is merged into it. -/
theorem memLine_snooped {s : State} (hwf : Memory.wf s.homes.mem = true) {line : Nat} (hhost : isHostPa (line * 128) = true) {h : HubLine}
    (hone : s.homes.hubs.filter (fun h => h.line == line) = [h]) (hclean : ∀ l ∈ s.homes.layers, l.line = line → l.unpushed = [])
    (hfolded : Folded s line) : memLine (snooped line s) line = lineMerge (memLine s line) h.data h.mask := by
  have hline : h.line = line := by
    have hin : h ∈ s.homes.hubs.filter (fun h => h.line == line) := by
      rw [hone]
      exact List.mem_singleton_self h
    exact beq_iff_eq.mp (List.mem_filter.mp hin).2
  have hlayers : (s.homes.layers.filter (fun l => l.line == line)).flatMap LayerLine.pieces = [] := by
    rw [List.flatMap_eq_nil_iff]
    intro l hl
    obtain ⟨hmem, hl⟩ := List.mem_filter.mp hl
    rw [LayerLine.pieces, hclean l hmem (beq_iff_eq.mp hl), piecesOf]
  have hpieces : snoopedPieces line s = h.pieces := by
    rw [snoopedPieces, hone, hlayers, List.append_nil, List.flatMap_singleton]
  have hsame : ∀ d ∈ h.pieces, d.line = line ∧ d.data = h.data := fun d hd => by
    rw [← hline]
    exact piecesOf_same _ _ d hd
  rw [snooped, hpieces, memLine_applyDirties hhost h.pieces hsame (snoopedCopies line s) (memLine s line) 0 hwf hfolded
    (lineMerge_zero _ _).symm, foldl_pieces_mask]

theorem hostSnoop_result {s : State} (hwf : Memory.wf s.homes.mem = true) {line : Nat} (inv : Bool) (hhost : isHostPa (line * 128) = true) :
    ∃ t, exec (.hostSnoop line inv) s = .next t
      ∧ t = { s with homes := { s.homes with
          mem := t.homes.mem
          lines := t.homes.lines
          hubs := s.homes.hubs.filter (fun h => h.line != line)
          layers := if inv then s.homes.layers.filter (fun l => l.line != line)
            else s.homes.layers.map (fun l => if l.line = line then { l with unpushed := [] } else l) } }
      ∧ (∀ x, x ≠ line → memLine t x = memLine s x)
      ∧ ∀ h, s.homes.hubs.filter (fun h => h.line == line) = [h] → (∀ l ∈ s.homes.layers, l.line = line → l.unpushed = []) →
        (∀ w ∈ (lineRec s line).versions, w.kind ≠ .committed) →
        memLine t line = lineMerge (memLine s line) h.data h.mask := by
  have hexec : exec (.hostSnoop line inv) s = .next (if inv then
      { snooped line s with homes.layers := (snooped line s).homes.layers.filter (fun l => l.line != line) } else snooped line s) := by
    rw [exec_hostSnoop, execHostSnoop, hhost]
    rfl
  have hframe := snooped_frame hhost s
  have hothers : ∀ x, x ≠ line → memLine (snooped line s) x = memLine s x := fun x hx =>
    (memLine_applyDirties_of_ne hhost hx _ (snoopedPieces_line line s) (snoopedCopies line s) hwf).trans (memLine_congr rfl rfl x)
  cases inv with
  | false => exact ⟨_, hexec, hframe, hothers, fun h hone hclean hfolded => memLine_snooped hwf hhost hone hclean hfolded⟩
  | true =>
    refine ⟨_, hexec, ?_, fun x hx => (memLine_congr rfl rfl x).trans (hothers x hx), fun h hone hclean hfolded =>
      (memLine_congr rfl rfl line).trans (memLine_snooped hwf hhost hone hclean hfolded)⟩
    have hlayers := filter_snoopedLayers line s.homes.layers
    have hkeep : (snooped line s).homes.layers = (snoopedCopies line s).homes.layers := congrArg (·.homes.layers) hframe
    simp only [if_true]
    rw [hkeep, ← hlayers]
    conv_lhs => rw [hframe]
    rfl

end Sys2Proof.Machine
end

section
/-! SUPPORT. Host writes to lines of a transactional class (R249, R299). -/

namespace Sys2Proof.Machine

/-! ## Device memory -/

theorem homeOf_lt (pa : Nat) (h : paCls pa = 0 ∨ paCls pa = 1) : (homeOf pa).1 < 64 ∧ (homeOf pa).2 < 2 ^ 36 := by
  have hoff := paOff_lt pa
  obtain h | h := h
  · have hhome : homeOf pa = (paOff pa / 2 ^ 12 % 64, paOff pa / 2 ^ 18 * 4096 + paOff pa % 4096) := by rw [homeOf, h]; rfl
    rw [hhome]
    exact ⟨by dsimp only; omega, by dsimp only; omega⟩
  · have hhome : homeOf pa = (8 * (paOff pa / 2 ^ 39) + paOff pa / 2 ^ 12 % 8, paOff pa / 2 ^ 15 % 2 ^ 24 * 4096 + paOff pa % 4096) := by
      rw [homeOf, h]
      rfl
    rw [hhome]
    exact ⟨by dsimp only; omega, by dsimp only; omega⟩

/-- Device memory is not the host's. -/
theorem not_isHostPa_paCanon {pa : Nat} (h : paCls pa ≤ 3) : isHostPa (paCanon pa) = false := by
  have hcanon : paCls (paCanon pa) ≤ 3 := by
    by_cases hnear : paCls pa = 0 ∨ paCls pa = 1
    · obtain ⟨hdie, hbyte⟩ := homeOf_lt pa hnear
      have hpa : paCanon pa = (paPkg pa).toNat * 2 ^ 45 + 2 * 2 ^ 42 + (homeOf pa).1 * 2 ^ 36 + (homeOf pa).2 := by
        obtain h | h := hnear <;> rw [paCanon, h] <;> rfl
      rw [paCls, hpa]
      omega
    · have hpa : paCanon pa = pa := by
        have h23 : paCls pa = 2 ∨ paCls pa = 3 := by omega
        obtain h | h := h23 <;> rw [paCanon, h] <;> rfl
      rw [hpa]
      exact h
  rw [isHostPa, beq_eq_false_iff_ne]
  omega

/-- The bytes of a write within one line go there together. -/
theorem linePieces_of_in_line {pa : Nat} {bytes : List Byte} (hne : bytes ≠ []) (hline : lineOff pa + bytes.length ≤ 128) :
    linePieces bytes.length pa bytes = [(pa, bytes)] := by
  obtain ⟨k, hk⟩ := Nat.exists_eq_succ_of_ne_zero (n := bytes.length) (by simpa using hne)
  rw [hk, linePieces, if_neg (by simpa using hne), List.take_of_length_le (by omega), List.drop_of_length_le (by omega)]
  cases k <;> rfl

/-! ## The class of a line -/

/-- A walk reads memory, under the constraints of its package. -/
theorem walkLevels_congr {s t : State} (hmem : ∀ a, memByte t a = memByte s a) (hid : t.core.id = s.core.id) :
    ∀ n table va level, walkLevels n t table va level = walkLevels n s table va level := by
  have hnat : memNat t = memNat s := by
    funext a n
    simp only [memNat, memBytes, hmem]
  intro n
  induction n with
  | zero => intros; rfl
  | succ n ih =>
    intro table va level
    rw [walkLevels, walkLevels, hnat, hid]
    simp only [ih]

theorem lineClass_congr {s t : State} (hmem : ∀ a, memByte t a = memByte s a) (hid : t.core.id = s.core.id)
    (hls : t.sched.launches = s.sched.launches) (line : Nat) : lineClass t line = lineClass s line := by
  have hwalk : walk t = walk s := by
    funext root va
    exact walkLevels_congr hmem hid 4 root va 0
  rw [lineClass, lineClass, hwalk, hls]

/-! ## A commit of a line by the host -/

theorem pkgRec_pkg (s : State) (pkg : BitVec 7) : (pkgRec s pkg).pkg = pkg := by
  rw [pkgRec]
  cases h : s.sched.pkgs.find? (fun p => p.pkg == pkg) with
  | none => rfl
  | some p => exact beq_iff_eq.mp (List.find?_some (p := fun p : PkgRec => p.pkg == pkg) h)

theorem pkgRec_setPkgRec {r : PkgRec} {pkg : BitVec 7} (h : r.pkg = pkg) (s : State) : pkgRec (setPkgRec r s) pkg = r := by
  have hfind : (r :: s.sched.pkgs.filter fun p => p.pkg != r.pkg).find? (fun p => p.pkg == pkg) = some r :=
    List.find?_cons_of_pos (beq_iff_eq.mpr h)
  rw [pkgRec, setPkgRec, hfind]
  rfl

/-- Where no launch has a hallmark, a stamp dooms nobody and no snapshot needs a prior. -/
theorem nextStamp_of_no_halls {s : State} {pkg : BitVec 7} (h : ∀ e ∈ s.sched.halls, e.pkg ≠ pkg) :
    nextStamp pkg s = (setPkgRec { pkgRec s pkg with stamp := (pkgRec s pkg).stamp + 1 } s, (pkgRec s pkg).stamp + 1) := by
  have hfar : s.sched.halls.filter (fun e => e.pkg == pkg && (e.state == .running || e.state == .irrevocable)
      && decide (2 ^ 30 ≤ ((pkgRec s pkg).stamp + 1 - e.start).toNat)) = [] :=
    List.filter_eq_nil_iff.mpr fun e he => by simp [h e he]
  rw [nextStamp]
  dsimp only
  rw [hfar]
  rfl

theorem priorNeeded_of_no_halls {s : State} {pkg : BitVec 7} (h : ∀ e ∈ s.sched.halls, e.pkg ≠ pkg) (c : Word) : priorNeeded s pkg c = false := by
  rw [priorNeeded, List.any_eq_false]
  intro e he
  simp [h e he]

theorem makeRoom_of_no_need {s : State} {line : Nat} (n requester : Nat) {need : State → Bool}
    (h : need (setLineRec (reclaim s (lineRec s line)) s) = false) :
    makeRoom (n + 1) line requester need s = setLineRec (reclaim s (lineRec s line)) s := by
  rw [makeRoom, h]
  rfl

/-- A snoop of the host is noted in the record and leaves the rest of it. -/
theorem snoopHost_eq (r : LineRec) : snoopHost r = { r with backInv := r.hostBit || r.backInv } := by
  rw [snoopHost]
  split
  · rename_i h
    rw [h, Bool.true_or]
  · rename_i h
    have hkept : (r.hostBit || r.backInv) = r.backInv := by rw [Bool.eq_false_iff.mpr h, Bool.false_or]
    rw [hkept]

/-- C written as a commit of its line leaves a record with the stamp and the committer. -/
theorem commitLine_result (line : Nat) (d : LineData) (poison : BitVec 16) (c : Word) (who : Nat × BitVec 12) (mask : LineMask) (s : State) :
    ∃ r : LineRec, r.line = line ∧ r.stamp = c ∧ r.committer = who
      ∧ commitLine line d poison c who mask s = setLineRec r (setMemLine line d s) := by
  refine ⟨_, ?_, ?_, ?_, rfl⟩
  · exact (snoopHost_line _).trans (reclaim_line s s line)
  · rw [snoopHost_eq]
    rfl
  · rw [snoopHost_eq]
    rfl

/-- A direct write where no launch has a hallmark: a fresh stamp, and the bytes over the line. -/
theorem commitDirect_of_no_halls {s : State} {line : Nat} (h : ∀ e ∈ s.sched.halls, e.pkg ≠ linePkg line) {who : Nat × BitVec 12}
    (hlive : writerLive s who.1 (linePkg line) = true) (d : LineData) (mask : LineMask) :
    ∃ r : LineRec, r.line = line ∧ r.stamp = (pkgRec s (linePkg line)).stamp + 1 ∧ r.committer = who
      ∧ (commitDirect line d mask who s).1 = setLineRec r (setMemLine line (lineMerge (memLine s line) d mask)
        (setPkgRec { pkgRec s (linePkg line) with stamp := (pkgRec s (linePkg line)).stamp + 1 } s)) := by
  obtain ⟨w, hw⟩ : ∃ w, setPkgRec { pkgRec s (linePkg line) with stamp := (pkgRec s (linePkg line)).stamp + 1 } s = w := ⟨_, rfl⟩
  have hroom := makeRoom_of_no_need (s := w) (line := line) (w.sched.halls.length + 1) who.1
    (need := fun t => priorNeeded t (linePkg line) ((pkgRec s (linePkg line)).stamp + 1))
    (priorNeeded_of_no_halls (by rw [← hw]; exact h) _)
  have hlive' : writerLive (setLineRec (reclaim w (lineRec w line)) w) who.1 (linePkg line) = true := by
    rw [← hw]
    exact (writerLive_congr rfl rfl _).trans hlive
  have hmem : memLine (setLineRec (reclaim w (lineRec w line)) w) line = memLine s line := by
    rw [← hw]
    exact memLine_congr rfl rfl line
  obtain ⟨r, hline, hstamp, hwho, hcommit⟩ := commitLine_result line (lineMerge (memLine s line) d mask)
    (clearPoison (lineRec (setLineRec (reclaim w (lineRec w line)) w) line).poison mask) ((pkgRec s (linePkg line)).stamp + 1) who mask
    (setLineRec (reclaim w (lineRec w line)) w)
  refine ⟨r, hline, hstamp, hwho, ?_⟩
  rw [commitDirect, nextStamp_of_no_halls h, hw]
  dsimp only
  rw [overflowRounds, hroom, hlive', hmem]
  simp only [Bool.not_true, Bool.false_eq_true, if_false]
  rw [hcommit]
  exact setLineRec_setLineRec ((reclaim_line w w line).trans hline.symm) (setMemLine line (lineMerge (memLine s line) d mask) w)

/-! ## The write -/

/-- What of a state a host write finds: its traffic noted, and the readers that have ended gone. -/
theorem hostWriteAt_eq {line : Nat} {s : State} (hfolded : Folded s line) :
    pruneReaders line (foldLine line (noteHomeTraffic line s))
      = { s with net.homeSeen := (noteHomeTraffic line s).net.homeSeen, homes.lines := (pruneReaders line s).homes.lines } := by
  have htraffic := noteHomeTraffic_congr (s := s) (t := s) rfl rfl line
  have hlines : (noteHomeTraffic line s).homes.lines = s.homes.lines := by rw [htraffic]
  have hfold : foldLine line (noteHomeTraffic line s) = noteHomeTraffic line s :=
    foldLine_of_folded (by rw [lineRec_congr hlines]; exact hfolded)
  rw [hfold, pruneReaders_congr (s := s) hlines (by rw [htraffic])]
  generalize (pruneReaders line s).homes.lines = ls
  conv_lhs => rw [htraffic]

/-- No launch holds a way of a line in a package where none has a hallmark. -/
theorem wayHolders_of_no_halls {s : State} {line : Nat} (h : ∀ e ∈ s.sched.halls, e.pkg ≠ linePkg line) : wayHolders s line = [] := by
  have hnone : ∀ x, hallEntry s (linePkg line) x = none := fun x => by
    rw [hallEntry, List.find?_eq_none]
    intro e he
    simp [h e he]
  rw [wayHolders, List.filterMap_eq_nil_iff]
  intro w _
  rw [hnone]
  split <;> rfl

/-- The host's write of a line of a transactional class, of which no launch holds a way and no cache unpushed bytes. -/
theorem hostWriteLine_result {s : State} {pa : Nat} (hwf : Memory.wf s.homes.mem = true) (bytes : List Byte)
    (hclass : lineClass s (lineNo pa) ≠ 1) (hhalls : ∀ e ∈ s.sched.halls, e.pkg ≠ linePkg (lineNo pa))
    (hlive : writerLive s 0 (linePkg (lineNo pa)) = true) (hpushed : (dropCopies (lineNo pa) s).2 = []) (hfolded : Folded s (lineNo pa)) :
    let line := lineNo pa
    let pkg := linePkg line
    let t := hostWriteLine pa bytes s
    memLine t line = lineMerge (memLine s line) (lineAt (lineOff pa) bytes) (maskOf (lineOff pa) bytes.length)
      ∧ (lineRec t line).stamp = (pkgRec s pkg).stamp + 1 ∧ (lineRec t line).committer = (0, 0)
      ∧ (pkgRec t pkg).stamp = (pkgRec s pkg).stamp + 1
      ∧ (∀ x, x ≠ line → lineRec t x = lineRec s x)
      ∧ t = { s with
          net.homeSeen := (noteHomeTraffic line s).net.homeSeen
          sched.pkgs := t.sched.pkgs
          homes := { (dropCopies line s).1.homes with mem := (setMemLine line (memLine t line) s).homes.mem, lines := t.homes.lines } } := by
  intro line pkg t
  obtain ⟨u, hu⟩ : ∃ u : State, u = { s with
      net.homeSeen := (noteHomeTraffic line s).net.homeSeen
      homes.lines := (pruneReaders line s).homes.lines } := ⟨_, rfl⟩
  have hat : pruneReaders line (foldLine line (noteHomeTraffic line s)) = u := by rw [hu]; exact hostWriteAt_eq hfolded
  have huh : ∀ e ∈ u.sched.halls, e.pkg ≠ linePkg line := by rw [hu]; exact hhalls
  have hul : writerLive u 0 (linePkg line) = true := by rw [hu]; exact (writerLive_congr rfl rfl _).trans hlive
  have hclass' : lineClass u line ≠ 1 := by
    rw [lineClass_congr (s := s) (fun a => memByte_congr (by rw [hu]) (by rw [hu]) a) (by rw [hu]) (by rw [hu])]
    exact hclass
  have hmem : memLine u line = memLine s line := by rw [hu]; exact memLine_congr rfl rfl line
  obtain ⟨r, hline, hstamp, hwho, hcommit⟩ := commitDirect_of_no_halls (who := (0, 0)) huh hul (lineAt (lineOff pa) bytes)
    (maskOf (lineOff pa) bytes.length)
  have ht : t = invalidateCopies line (commitDirect line (lineAt (lineOff pa) bytes) (maskOf (lineOff pa) bytes.length) (0, 0) u).1 := by
    show hostWriteLine pa bytes s = _
    rw [hostWriteLine, hat, wayHolders_of_no_halls huh, List.foldl_nil, if_neg hclass']
  rw [hcommit, hmem] at ht
  obtain ⟨d, hd⟩ : ∃ d, lineMerge (memLine s line) (lineAt (lineOff pa) bytes) (maskOf (lineOff pa) bytes.length) = d := ⟨_, rfl⟩
  rw [hd] at ht ⊢
  have hcopies := dropCopies_congr (s := s) (t := setLineRec r (setMemLine line d
    (setPkgRec { pkgRec u (linePkg line) with stamp := (pkgRec u (linePkg line)).stamp + 1 } u))) (by rw [hu]; rfl) (by rw [hu]; rfl) line
  rw [invalidateCopies_of_pushed (by rw [hcopies]; exact hpushed), hcopies, lineRec_setLineRec_same hline] at ht
  have hpkg : pkgRec u (linePkg line) = pkgRec s pkg := by rw [hu]; rfl
  have hrec : lineRec t line = { r with sharers := 0 } := by
    rw [ht]
    exact lineRec_setLineRec_same (r := { r with sharers := 0 }) hline _
  have hd' : memLine t line = d := by
    rw [ht]
    refine (memLine_congr rfl rfl line).trans (memLine_setMemLine (s := u) ?_ line d)
    rw [hu]
    exact hwf
  refine ⟨hd', ?_, ?_, ?_, fun x hx => ?_, ?_⟩
  · rw [hrec, ← hpkg]
    exact hstamp
  · rw [hrec]
    exact hwho
  · rw [ht, ← hpkg]
    exact congrArg (·.stamp) (pkgRec_setPkgRec (r := { pkgRec u (linePkg line) with stamp := (pkgRec u (linePkg line)).stamp + 1 })
      (pkgRec_pkg u (linePkg line)) u)
  · have hne : x ≠ r.line := fun e => hx (e.trans hline)
    rw [ht]
    refine (lineRec_setLineRec_of_ne (r := { r with sharers := 0 }) _ hne).trans ((lineRec_setLineRec_of_ne (r := r) _ hne).trans ?_)
    rw [← lineRec_pruneReaders_of_ne s hx, hu]
    rfl
  · rw [hd', ht, hu]
    rfl

/-- `HOST_WRITE` within one line of device memory is that line's write. -/
theorem hostWrite_device {s : State} {pa : Nat} {bytes : List Byte} (hboot : 7 ≤ s.health.bootStep) (hlt : pa < 2 ^ 52) (hcls : paCls pa ≤ 3)
    (hline : lineOff pa + bytes.length ≤ 128) (hne : bytes ≠ []) (hhalls : ∀ e ∈ s.sched.halls, e.pkg ≠ linePkg (lineNo pa)) :
    exec (.hostWrite pa bytes) s = .next (hostWriteLine pa bytes s) := by
  have hnone : [(pa, bytes)].any (fun x => (wayHolders s (lineNo x.1)).any (fun l => (launchOf s l).decided)) = false := by
    rw [List.any_cons, wayHolders_of_no_halls hhalls]
    rfl
  rw [exec_hostWrite, execHostWrite, reservedPa_of_lt hlt (by omega) (by omega), if_neg (by simp),
    if_neg (by rw [not_isHostPa_paCanon hcls]; simp), linePieces_of_in_line hne hline]
  dsimp only [List.foldl_cons, List.foldl_nil]
  rw [hnone, if_neg]
  rintro (h | h | h)
  · omega
  · omega
  · exact absurd h (by decide)

end Sys2Proof.Machine
end

section
/-! SUPPORT. Uncorrectable errors (R152, R202, R385, R386, R389). -/

namespace Sys2Proof.Machine

/-! ## Launches that an error dooms -/

/-- The state after a launch has been doomed. -/
def doomedState (l : Nat) (info : AbortInfo) (s : State) : State :=
  { s with
    sched.launches := s.sched.launches.map (fun x => if x.id = l then { x with
      phase := .doomed
      abort := some { info with torn := x.irrev, time := fieldCounter s x.home 0 } } else x)
    sched.halls := s.sched.halls.map (fun h => if h.launch = l then { h with state := .doomed } else h) }

theorem doom_of_abortable {l : Nat} {s : State} (h : abortable (launchOf s l) = true) (info : AbortInfo) : doom l info s = doomedState l info s := by
  rw [doom, if_pos h]
  rfl

theorem abortable_of_undecided {l : LaunchRec} (hphase : l.phase = .bound ∨ l.phase = .ready) (hdec : l.decided = false) : abortable l = true := by
  obtain h | h := hphase <;> simp [abortable, h, hdec]

theorem doomAccess_running {l : Nat} {s : State} (hphase : (launchOf s l).phase = .bound) (hdec : (launchOf s l).decided = false)
    (info : AbortInfo) : doomAccess l info s = doomedState l info s := by
  rw [doomAccess, if_pos hphase, doom_of_abortable (abortable_of_undecided (.inl hphase) hdec)]

theorem doomAccess_not_running {l : Nat} {s : State} (hphase : (launchOf s l).phase ≠ .bound) (info : AbortInfo) : doomAccess l info s = s := by
  rw [doomAccess, if_neg hphase]

/-- An error in the hash of a pair that is ready and not compared (R386). -/
theorem hashError_dooms {l : Nat} {s : State} (hpair : (launchOf s l).pair ≠ 0) (hphase : (launchOf s l).phase = .ready)
    (hequal : (launchOf s l).pairEqual = false) (hdec : (launchOf s l).decided = false) :
    exec (.uncorrectableError (.hash l)) s = .next (doomedState l (AbortInfo.of 6) s) := by
  rw [exec_uncorrectableError, execUncorrectableError, doomHash, if_pos ⟨hpair, hphase, by rw [hequal]; rfl⟩, doom_of_abortable (abortable_of_undecided (.inr hphase) hdec)]

theorem versionError_result {s : State} {line : Nat} {x : BitVec 12} {e : HallEntry} (he : hallEntry s (linePkg line) x = some e) :
    exec (.uncorrectableError (.version line x)) s = .next (if abortable (launchOf s e.launch) then
      doomedState e.launch { AbortInfo.of 6 with addr := dw (line * 128) } s else s) := by
  rw [exec_uncorrectableError, execUncorrectableError]
  dsimp only
  rw [he]
  dsimp only
  split
  · rename_i h
    rw [doom_of_abortable h]
  · rename_i h
    rw [doom, if_neg h]

/-! ## Errors in pools -/

theorem slotRec_setSlotRec {r : SlotRec} {core : CoreId} (h : r.id = core) (s : State) : slotRec (setSlotRec r s) core = r := by
  have hfind : (r :: s.sched.slots.filter fun x => x.id != r.id).find? (fun x => x.id == core) = some r :=
    List.find?_cons_of_pos (beq_iff_eq.mpr h)
  rw [slotRec, setSlotRec, hfind]
  rfl

theorem slotRec_id (s : State) (core : CoreId) : (slotRec s core).id = core := by
  rw [slotRec]
  cases h : s.sched.slots.find? (fun x => x.id == core) with
  | none => rfl
  | some r => exact beq_iff_eq.mp (List.find?_some (p := fun r : SlotRec => r.id == core) h)

/-- An error in a pool is noted, and the fourth within 1 s removes the core (R385). -/
theorem notePoolError_result (core : CoreId) {b : State} {recent : List (CoreId × DWord)}
    (hrecent : recent = b.health.poolErrors.filter (fun x => decide ((b.now - x.2).toNat < 1000000000))) :
    let t := notePoolError core b
    t = { b with
        health.poolErrors := (core, b.now) :: recent
        sched.slots := t.sched.slots }
      ∧ ((recent.filter (fun x => x.1 == core)).length < 3 → t.sched.slots = b.sched.slots)
      ∧ (3 ≤ (recent.filter (fun x => x.1 == core)).length → (slotRec t core).removed = true) := by
  intro t
  have hmine : recent.filter (fun x => x.1 == core)
      = b.health.poolErrors.filter (fun x => x.1 == core && decide ((b.now - x.2).toNat < 1000000000)) := by
    rw [hrecent, List.filter_filter]
  have ht : t = if 3 ≤ (recent.filter (fun x => x.1 == core)).length then
      removeCore core { b with health.poolErrors := (core, b.now) :: recent }
      else { b with health.poolErrors := (core, b.now) :: recent } := by
    rw [hmine, hrecent]
    rfl
  by_cases hmany : 3 ≤ (recent.filter (fun x => x.1 == core)).length
  · rw [if_pos hmany] at ht
    rw [ht]
    refine ⟨rfl, fun h => absurd h (by omega), fun _ => ?_⟩
    rw [removeCore, slotRec_setSlotRec (by exact slotRec_id _ core)]
  · rw [if_neg hmany] at ht
    rw [ht]
    exact ⟨rfl, fun _ => rfl, fun h => absurd h hmany⟩

/-! ## Errors in memory -/

theorem committedError_result (s : State) (a : Nat) :
    ∃ t, exec (.uncorrectableError (.committed a)) s = .next t
      ∧ t = { s with homes.mem := (foldLine (lineNo a) s).homes.mem, homes.lines := t.homes.lines }
      ∧ (∀ x, x ≠ lineNo a → lineRec t x = lineRec s x)
      ∧ let r := lineRec (foldLine (lineNo a) s) (lineNo a)
        lineRec t (lineNo a) = { r with poison := setBit r.poison (lineOff a / 8) true } := by
  refine ⟨_, rfl, ?_, fun x hx => ?_, ?_⟩
  · generalize setBit _ _ _ = p
    rw [foldLine_frame]
    rfl
  · rw [lineRec_setLineRec_of_ne _ (by exact fun e => hx (e.trans (lineRec_line _ _))), lineRec_foldLine_of_ne s hx]
  · exact lineRec_setLineRec_same (by exact lineRec_line _ _) _

theorem priorError_result {s : State} {a idx : Nat} {p : Way}
    (hp : ((lineRec s (lineNo a)).versions.filter (fun w => w.kind == .prior))[idx]? = some p) :
    let upd := fun (w : Way) => if w = p then { w with poison := setBit w.poison (lineOff a / 8) true } else w
    let r := lineRec s (lineNo a)
    exec (.uncorrectableError (.prior a idx)) s =
      .next (setLineRec { r with ways := r.ways.map upd, spilled := r.spilled.map upd } s) := by
  rw [exec_uncorrectableError, execUncorrectableError]
  dsimp only
  rw [markPrior]
  dsimp only
  rw [hp]

/-! ## Errors in datapaths -/

theorem vectorError_result (s : State) (r : BitVec 5) (lane : BitVec 4) (flip : Word) :
    ∃ t, exec (.uncorrectableError (.vector r lane flip)) s = .next t
      ∧ t = { s with core.regs.v := t.core.regs.v } ∧ (∀ x, x ≠ r → readV t x = readV s x)
      ∧ ∀ l : Fin 16, (readV t r)[l] = if l.val = lane.toNat then (readV s r)[l] ^^^ flip else (readV s r)[l] := by
  refine ⟨_, rfl, rfl, fun x hx => ?_, fun l => ?_⟩
  · rw [alterLane, readV_writeV, if_neg hx]
  · rw [alterLane, readV_writeV, if_pos rfl]
    simp

theorem gridError_result {s : State} (i j : BitVec 6) (flip : Word) {g : GridRun} (hg : s.core.grid.run = some g) :
    ∃ t x, exec (.uncorrectableError (.grid i j flip)) s = .next t
      ∧ t = { s with core.grid.run := some { g with st := { g.st with acc := x } } }
      ∧ ∀ a b : BitVec 6, x[a.toNat][b.toNat] = if a = i ∧ b = j then { g.st.acc[i.toNat][j.toNat] with
          bits := g.st.acc[i.toNat][j.toNat].bits ^^^ flip } else g.st.acc[a.toNat][b.toNat] := by
  refine ⟨_, g.st.acc.set i.toNat (g.st.acc[i.toNat].set j.toNat { g.st.acc[i.toNat][j.toNat] with
    bits := g.st.acc[i.toNat][j.toNat].bits ^^^ flip }), ?_, rfl, fun a b => ?_⟩
  · rw [exec_uncorrectableError, execUncorrectableError]
    dsimp only
    rw [alterCell, hg]
  · rw [Vector.getElem_set]
    by_cases ha : a = i
    · subst ha
      rw [if_pos rfl, Vector.getElem_set]
      by_cases hb : b = j
      · subst hb
        rw [if_pos rfl, if_pos ⟨rfl, rfl⟩]
      · rw [if_neg fun e => hb (BitVec.eq_of_toNat_eq e.symm), if_neg fun h => hb h.2]
    · rw [if_neg fun e => ha (BitVec.eq_of_toNat_eq e.symm), if_neg fun h => ha h.1]

/-! ## Packets altered in a crossbar -/

theorem packetOf_id {s : State} {id : Nat} {p : Packet} (h : packetOf s id = some p) : p.id = id :=
  beq_iff_eq.mp (List.find?_some (p := fun p : Packet => p.id == id) h)

/-- A packet put in place of one of its number. -/
theorem packetOf_updPacket {s : State} {id : Nat} {p q : Packet} (hp : packetOf s id = some p) (hq : q.id = id) :
    packetOf (updPacket id (fun _ => q) s) id = some q ∧ ∀ x, x ≠ id → packetOf (updPacket id (fun _ => q) s) x = packetOf s x := by
  have hfind : ∀ x, packetOf (updPacket id (fun _ => q) s) x = (packetOf s x).map (fun y => if y.id = id then q else y) := fun x => by
    refine find?_map_of_forall_eq (p := fun y : Packet => y.id == x) _ (fun y => ?_) s.net.packets
    split
    · rename_i hy
      rw [hq, hy]
    · rfl
  refine ⟨?_, fun x hx => ?_⟩
  · rw [hfind, hp, Option.map_some, if_pos (packetOf_id hp)]
  · rw [hfind]
    cases h : packetOf s x with
    | none => rfl
    | some y => rw [Option.map_some, if_neg (by rw [packetOf_id h]; exact hx)]

/-- A packet as a crossbar has altered it: its data, and its receiver where it is misdelivered. -/
def alteredPacket (k : Nat) (flip : Byte) (dest : Option CoreId) (s : State) (p : Packet) : Packet :=
  let q := { p with data := p.data.modify k (fun b => b ^^^ flip) }
  match dest with
  | none => q
  | some c =>
    let ord := ((launchOf s p.launch).members.find? (fun m => m.sec == p.sec && m.place == c)).map (fun m => m.ord)
    { q with receiver := c, dest := routerOf c, ord := ord.getD 0xFFFFFF }

theorem alteredPacket_fields (k : Nat) (flip : Byte) (dest : Option CoreId) (s : State) (p : Packet) :
    (alteredPacket k flip dest s p).id = p.id ∧ (alteredPacket k flip dest s p).data = p.data.modify k (fun b => b ^^^ flip)
      ∧ (alteredPacket k flip dest s p).receiver = dest.getD p.receiver := by
  cases dest <;> exact ⟨rfl, rfl, rfl⟩

/-- A flit of the packet with the CRC of what it now carries. -/
def mendedFlit (id : Nat) (q : Packet) (f : Flit) : Flit := if f.pkt = id then { f with crc := crc32c (flitBytes q f.idx) } else f

theorem mendedFlit_crc (id : Nat) (q : Packet) (f : Flit) (h : (mendedFlit id q f).pkt = id) :
    (mendedFlit id q f).crc = crc32c (flitBytes q (mendedFlit id q f).idx) := by
  by_cases hf : f.pkt = id
  · rw [mendedFlit, if_pos hf]
  · rw [mendedFlit, if_neg hf] at h
    exact absurd h hf

/-- The flits of the packet, where they are and in the replay buffers and on the wires of links. -/
def mendedFlits (id : Nat) (q : Packet) (s : State) : State :=
  let way := fun (w : LinkDir) => { w with replay := w.replay.map (mendedFlit id q), wire := w.wire.map (mendedFlit id q) }
  { s with
    net.flits := s.net.flits.map (mendedFlit id q)
    net.links := s.net.links.map (fun r => { r with fwd := way r.fwd, back := way r.back }) }

theorem alterPacket_arrived {s : State} {pkt : Nat} {p : Packet} (hp : packetOf s pkt = some p) (harr : arrived p = true) (k : Nat) (flip : Byte)
    (dest : Option CoreId) : alterPacket pkt k flip dest s = s := by
  rw [alterPacket, hp]
  exact if_pos harr

theorem alterPacket_under_way {s : State} {pkt : Nat} {p : Packet} (hp : packetOf s pkt = some p) (harr : arrived p = false) (k : Nat)
    (flip : Byte) (dest : Option CoreId) :
    alterPacket pkt k flip dest s
      = updPacket pkt (fun _ => alteredPacket k flip dest s p) (mendedFlits pkt (alteredPacket k flip dest s p) s) := by
  rw [alterPacket, hp]
  dsimp only
  rw [if_neg (by rw [harr]; simp)]
  cases dest <;> rfl

/-- What an error in a crossbar makes of a packet under way (R386). -/
theorem crossbarError_result {s : State} {pkt : Nat} {p : Packet} (hp : packetOf s pkt = some p) (k : Nat) (flip : Byte) (dest : Option CoreId) :
    (arrived p = true → exec (.uncorrectableError (.crossbar pkt k flip dest)) s = .next s)
      ∧ (arrived p = false → ∃ t q, exec (.uncorrectableError (.crossbar pkt k flip dest)) s = .next t ∧ t = { s with net := t.net }
        ∧ packetOf t pkt = some q ∧ q.data = p.data.modify k (fun b => b ^^^ flip) ∧ q.receiver = dest.getD p.receiver
        ∧ (∀ x, x ≠ pkt → packetOf t x = packetOf s x)
        ∧ ∀ f ∈ t.net.flits, f.pkt = pkt → f.crc = crc32c (flitBytes q f.idx)) := by
  have hexec : exec (.uncorrectableError (.crossbar pkt k flip dest)) s = .next (alterPacket pkt k flip dest s) := rfl
  refine ⟨fun harr => ?_, fun harr => ?_⟩
  · rw [hexec, alterPacket_arrived hp harr]
  · rw [alterPacket_under_way hp harr] at hexec
    obtain ⟨hid, hdata, hreceiver⟩ := alteredPacket_fields k flip dest s p
    obtain ⟨hsame, hothers⟩ := packetOf_updPacket (s := mendedFlits pkt (alteredPacket k flip dest s p) s) (p := p)
      (q := alteredPacket k flip dest s p) hp (hid.trans (packetOf_id hp))
    refine ⟨_, _, hexec, rfl, hsame, hdata, hreceiver, hothers, fun f hf hpkt => ?_⟩
    obtain ⟨f', -, rfl⟩ := List.mem_map.mp hf
    exact mendedFlit_crc pkt _ f' hpkt

end Sys2Proof.Machine
end

section
/-! SUPPORT. The host at memory, translations and errors (R202, R228, R233, R248, R249, R385, R386, R389). -/

namespace Sys2Proof.Machine

/-- An error in a pool or a scratch window of a core, and in the datapath that it stands in: the core's launch and the core's record. -/
theorem poolError_exec {s : State} {place : ErrPlace} {core : CoreId} (h : place = .window ∧ core = s.core.id ∨ place = .pool core) :
    exec (.uncorrectableError place) s = .next (notePoolError core
      (doomAccess (if core = s.core.id then s.core.launch else (slotRec s core).launch)
        { AbortInfo.of 6 with ord := if core = s.core.id then s.core.ord else (slotRec s core).ord } s)) := by
  obtain ⟨rfl, rfl⟩ | rfl := h
  · rw [if_pos rfl, if_pos rfl]
    rfl
  · rfl

/-- Settles O54: each event changes one line, or what it names, and its state after it is known as a whole. -/
theorem hostAndErrors : Obligations.HostAndErrors := by
  unfold Obligations.HostAndErrors
  intro s hwf
  refine ⟨fun pa len hboot hlt hcls hlen hgo => hostRead_device hboot hlt hcls hlen hgo,
    fun pa len hlt hcls => hostRead_registers hlt hcls len,
    fun pa len hlt hcls hpushed => hostRead_host hlt hcls hpushed,
    fun pa bytes hlt hcls hline hne hpushed => hostWrite_host hwf hlt hcls hline hne hpushed,
    fun pa bytes hboot hlt hcls hline hne => ?_,
    fun pa len bytes h => host_at_reserved h len bytes,
    fun line inv hhost => hostSnoop_result hwf inv hhost,
    fun line h => backInvalidateResponse_ends h,
    fun va write s' r h => pageWalk_result h,
    fun l page => tlbInvalidate_result s l page,
    fun l a ap hphase hdec => ?_, fun l a ap hphase => ?_,
    fun l hpair hphase hequal hdec => hashError_dooms hpair hphase hequal hdec,
    fun line h e he => versionError_result he,
    fun place core hplace => ?_,
    fun pkt k flip dest p hp => crossbarError_result hp k flip dest,
    fun r lane flip => vectorError_result s r lane flip,
    fun i j flip g hg => gridError_result i j flip hg,
    fun a => committedError_result s a,
    fun a idx p hp => priorError_result hp⟩
  · intro line pkg hclass hhalls hlive hpushed hfolded
    exact ⟨_, hostWrite_device hboot hlt hcls hline hne hhalls, hostWriteLine_result hwf bytes hclass hhalls hlive hpushed hfolded⟩
  · have hdoom := doomAccess_running hphase hdec { AbortInfo.of 6 with addr := dw a, applied := ap }
    rw [exec_uncorrectableError, exec_uncorrectableError]
    exact ⟨congrArg _ hdoom, congrArg _ hdoom⟩
  · have hkeep := doomAccess_not_running hphase { AbortInfo.of 6 with addr := dw a, applied := ap }
    rw [exec_uncorrectableError, exec_uncorrectableError]
    exact ⟨congrArg _ hkeep, congrArg _ hkeep⟩
  · intro l ord recent noted
    have hexec := poolError_exec hplace
    refine ⟨fun hphase hdec => ⟨_, hexec, ?_⟩, fun hphase => ⟨_, hexec, ?_⟩⟩
    · rw [doomAccess_running hphase hdec]
      exact notePoolError_result core rfl
    · rw [doomAccess_not_running hphase]
      exact notePoolError_result core rfl

end Sys2Proof.Machine
end
